-- ==== Sys2Proof/Word.lean ====
section
/-!
DEFINITION. Sys2Proof/Word.lean: the word types and a sparse table keyed by numbers.
Rules: R7 (little-endian, bit numbering), R40 (register widths), R102 (80-bit words).
-/
namespace Sys2Proof

/-- A 64-bit scalar register, capability word or system register (R40). -/
abbrev Word := BitVec 64

/-- One byte of memory (R7). -/
abbrev Byte := BitVec 8

/-- A sparse table: key and value pairs in strictly rising key order, one entry at most a key.
An unlisted key reads as the default that the reader names. -/
abbrev Tab (α : Type) := List (Nat × α)

/-- The value at key `k`, or `d` where nothing is listed. -/
def Tab.get {α : Type} (t : Tab α) (k : Nat) (d : α) : α :=
  match t with
  | [] => d
  | (k', v) :: r => if k' = k then v else Tab.get r k d

/-- The table without key `k`. -/
def Tab.erase {α : Type} (t : Tab α) (k : Nat) : Tab α :=
  match t with
  | [] => []
  | (k', v) :: r => if k' = k then Tab.erase r k else (k', v) :: Tab.erase r k

/-- Put `(k, v)` before the first larger key. -/
def Tab.insert {α : Type} (t : Tab α) (k : Nat) (v : α) : Tab α :=
  match t with
  | [] => [(k, v)]
  | (k', v') :: r => if k < k' then (k, v) :: (k', v') :: r else (k', v') :: Tab.insert r k v

/-- Write `v` at key `k`: an entry equal to the default `d` is not listed, so equal tables are
equal data. -/
def Tab.set {α : Type} [DecidableEq α] (t : Tab α) (k : Nat) (v d : α) : Tab α :=
  if v = d then Tab.erase t k else Tab.insert (Tab.erase t k) k v

/-- The canonical form: keys strictly rising and no entry equal to the default `d`. -/
def Tab.wf {α : Type} [DecidableEq α] (d : α) : Tab α → Bool
  | [] => true
  | [(_, v)] => !decide (v = d)
  | (k, v) :: (k', v') :: r => !decide (v = d) && decide (k < k') && Tab.wf d ((k', v') :: r)

/-- Run `f` for each of `0 … n-1` in ascending order, threading a state. -/
def forUpto {α : Type} (n : Nat) (f : Nat → α → α) (a : α) : α :=
  match n with
  | 0 => a
  | k + 1 => f k (forUpto k f a)

end Sys2Proof
end

