-- ==== Sys2Proof/Syntax.lean ====
section
/-!
DEFINITION. Sys2Proof/Syntax.lean: the instruction set as data, one constructor of `Instr` for each
row of spec/opcode_table.json. A slot instruction carries its common head (R105) and the fields of
its operand format (R128, R130, R133, R134); a header control op carries the header's attributes
(R104) and its CTLARG (R135); an event of another agent carries what the event names.
-/
namespace Sys2Proof

/-- The slots of a bundle, in the order in which they take effect (R103, R108). -/
inductive Slot where
  | S | V0 | V1 | M | C0 | C1
  deriving DecidableEq, Repr

/-- The CLASS code of a slot (R105). -/
def Slot.num : Slot → Nat
  | .S => 0 | .V0 => 1 | .V1 => 2 | .M => 3 | .C0 => 4 | .C1 => 5

/-- The common head of a slot word (R105): the slot of its CLASS, producer distance, allocated tag,
waited tags, and predicate. -/
structure Head where
  slot : Slot
  pd : Nat
  atag : Nat
  w0 : Nat
  w1 : Nat
  pneg : Nat
  pidx : Nat
  deriving DecidableEq, Repr

/-- SR operands (R128). `r` is the reserved field. -/
structure SR where
  a : Nat
  b : Nat
  c : Nat
  d : Nat
  r : Nat
  deriving DecidableEq, Repr

/-- SI operands (R128). -/
structure SI where
  a : Nat
  b : Nat
  imm : Nat
  deriving DecidableEq, Repr

/-- SL operands (R128). -/
structure SL where
  a : Nat
  imm : Nat
  deriving DecidableEq, Repr

/-- SM operands (R128). `off` is the 14-bit code of OFF14. -/
structure SM where
  a : Nat
  k : Nat
  x : Nat
  off : Nat
  v : Nat
  w : Nat
  ext : Nat
  ty : Nat
  hint : Nat
  r : Nat
  deriving DecidableEq, Repr

/-- SB operands (R128). `cnt` is bits [38:24], the field A or CNT15. -/
structure SB where
  p : Nat
  pn : Nat
  l : Nat
  cnt : Nat
  tgt : Nat
  deriving DecidableEq, Repr

/-- VT operands (R130, R131). -/
structure VT where
  td : Nat
  ta : Nat
  tb : Nat
  tc : Nat
  mcls : Nat
  seg : Nat
  dist : Nat
  msel : Nat
  flags : Nat
  deriving DecidableEq, Repr

/-- MT operands (R133). -/
structure MT where
  x : Nat
  y : Nat
  z : Nat
  w : Nat
  zv : Nat
  wv : Nat
  acc : Nat
  plane : Nat
  r : Nat
  deriving DecidableEq, Repr

/-- CP operands (R134). -/
structure CP where
  t : Nat
  k : Nat
  x : Nat
  y : Nat
  off : Nat
  con : Nat
  pat : Nat
  r : Nat
  deriving DecidableEq, Repr

/-- Header attributes (R104). `present` and `sticky` are six-bit masks with S in bit 5 and C1 in
bit 0. -/
structure Attr where
  present : Nat
  sticky : Nat
  rep : Nat
  fix : Nat
  hw : Nat
  yld : Nat
  deriving DecidableEq, Repr

/-- What the code object header declares of one variant (R58, R125): entry word, scratchpad extent
in bytes, minimum L1 in units of 512 KiB, accumulators, energy class, and the cview mark (R414). -/
structure Variant where
  entry : Nat
  spad : Nat
  l1 : Nat
  acc : Nat
  energy : Nat
  cview : Bool
  deriving DecidableEq, Repr

/-- What a code object's header holds (R58, R125, R279): its variants and its descriptor table
(log entry 20). -/
structure CodeHdr where
  variants : List Variant
  tiles : List (BitVec 128)
  deriving DecidableEq, Repr

/-- The requester of a BAR access: the physical function or a virtual function (R314). -/
inductive Fn where
  | pf | vf (n : Nat)
  deriving DecidableEq, Repr

/-- The space that a host read reaches (R314): the management registers of a function, or a partition's device memory. -/
inductive Bar where
  | bar0 (fn : Fn) | bar2 (p : Nat)
  deriving DecidableEq, Repr

/-- The stores of R352 that a memory error names. -/
inductive Store where
  | l1 | l2 | scratchpad | accumulator | lpddr
  deriving DecidableEq, Repr

/-- The instructions and events: one constructor for each row of the opcode table. The
rows whose constructor carries no field stand last. -/
inductive Instr where
  /-- BUNDLE_ISSUE (R108): The core issues one bundle, or one repetition or sticky re-issue of it, from the chosen ready context, with every slot taking effect in the order S, V0, V1, M, C0, C1. -/
  | bundleIssue (core : Nat)
  /-- FORMAT_WRITE_EFFECT (R119): A pending header control write takes effect when its count of three further own issues runs out. -/
  | formatWriteEffect (core slot : Nat)
  /-- TRAP_ENTRY (R184): At a bundle boundary the core stops inbound engine operations, records progress words, freezes pending writes, writes the trap registers and vectors to supervisor code. -/
  | trapEntry (core slot : Nat)
  /-- YIELD_REQUEST (R50): The command processor requests a yield of every context of a team, which each takes at its next bundle boundary, or at once when Waiting. -/
  | yieldRequest (team : Nat)
  /-- SCALAR_ACCESS_RESPONSE (R169): The answer to a scalar load, store, atomic or pattern load arrives, writing its register and freeing its tag, or leaving a fault pending for the next boundary. -/
  | scalarAccessResponse (core slot id : Nat)
  /-- ENGINE_OP_COMPLETE (R191): A vector or matrix operation completes its last progress row, its destination becomes ready and its tag frees. -/
  | engineOpComplete (core id rows : Nat)
  /-- COPY_LAST_ROW_READ (R238): An outbound copy reads its last row, and its source tile becomes ready, or empty when CON is set. -/
  | copyLastRowRead (core id : Nat)
  /-- COPY_COMPLETE (R234): A copy commits its last row, makes its barrier arrival if it names one, and frees its tag. -/
  | copyComplete (core id rows : Nat)
  /-- COPY_ROW_FAULT (R249): A copy row meets a fault or error, so the copy stops with a progress word or stays held, and an asynchronous trap is made pending. -/
  | copyRowFault (core id : Nat)
  /-- DROOP_WINDOW_END (R308): A closed region's 64-cycle droop-check window ends without fog, its gated commands are released in issue order and its shadow set is freed. -/
  | droopWindowEnd (core slot : Nat)
  /-- SUSPECT_DROOP (R311): A supply fall of 6 % or more fogs the affected contexts' regions, which roll back to their opening marks. -/
  | suspectDroop (island : Nat)
  /-- SILENT_ERROR (R311): A residue or parity check detects a silent error, which fogs a region as a droop does, or reruns the row of a released operation. -/
  | silentError (core slot : Nat)
  /-- DROOP_STRETCH (R305): A supply fall of 3 % or more makes the clock stretcher lengthen cycles until the supply recovers. -/
  | droopStretch (island : Nat)
  /-- NEXT_LANDING (R262): A claim lands in the next hand-off register at the boundary before the context's 32nd own issue after its next, and the tag frees. -/
  | nextLanding (core slot : Nat)
  /-- HOST_WRITE (R316): A host or PCIe-peer write through BAR2 is placed in the home die's ingress buffer, or discarded when it is not mapped. -/
  | hostWrite (p off : Nat) (data : List Byte)
  /-- HOST_READ (R316): A host or PCIe-peer read through BAR2 is served at the home as a uc read, or completes with Unsupported Request. -/
  | hostRead (bar : Bar) (off n : Nat)
  /-- PEER_LINK_ARRIVAL (R321): An access arriving over a peer link is treated as an access to the mapped partition's BAR2. -/
  | peerLinkArrival (link p off : Nat) (wr : Bool) (data : List Byte)
  /-- INGRESS_TIMEOUT (R95): A waiting ingress write reaches its partition's timeout and is applied with every write that arrived before it on its die. -/
  | ingressTimeout (die : Nat)
  /-- INGRESS_OVERFLOW (R391): A die's ingress buffer that has withheld credit for 1 ms posts INGRESS_OVERFLOW. -/
  | ingressOverflow (die : Nat)
  /-- ISLAND_WAKE (R295): An island at retention voltage that a pass needs is woken, and the team is placed once it runs. -/
  | islandWake (island : Nat)
  /-- PAGE_REQUEST_SETTLE (R378): A page request entry is settled, bringing the page in where possible and writing its STATUS and TDONE. -/
  | pageRequestSettle (p : Nat) (flashOk : Bool)
  /-- HOME_REQUEST (R79): A home slice processes one request for a block, updating write time and lease, recalling own holders and combining partials as needed. -/
  | homeRequest (core slot die pa : Nat) (wr : Bool) (ty : Nat)
  /-- OWN_RECALL (R79): An L1 holding a block own answers a recall from the home with its data and times. -/
  | ownRecall (core die pa : Nat)
  /-- WRITE_BACK_GRANT (R82): The home's grant for a victim-buffer write-back arrives and the dirty words are sent, or an empty data phase if the entry was freed. -/
  | writeBackGrant (core : Nat)
  /-- MEMORY_ERROR (R351): A store finds an uncorrectable error, returns an error response, logs it and posts MEM_UNCORR or SRAM_UNCORR. -/
  | memoryError (store : Store) (loc addr : Nat)
  /-- ERR_CORRECTED (R386): A corrected error returns corrected data, writes the word back and is logged. -/
  | errCorrected (store : Store) (loc addr : Nat)
  /-- PATROL_SCRUB (R386): The patrol scrub reads each LPDDR-6 word once per 24 h and corrects what it finds. -/
  | patrolScrub (die addr : Nat) (bad : Bool)
  /-- PCIE_COMPLETION (R382): A device request to PCIe completes, or completes with an error that meets PCIE_DMA_ERR. -/
  | pcieCompletion (core slot id : Nat) (ok : Bool) (data : Word)
  /-- PCIE_DMA_TIMEOUT (R382): A device request to PCIe whose completion has not arrived within 10 ms meets PCIE_DMA_ERR. -/
  | pcieDmaTimeout (core slot id : Nat)
  /-- VOLTAGE_STEP_REACHED (R304): A granted step reaches its target voltage, applying the trim of a step up, and STEP clears 0.1 µs later. -/
  | voltageStepReached (island : Nat)
  /-- METER_CORRECTION (R296): Every 1 ms the current sensor corrects an island's metering coefficients. -/
  | meterCorrection (island coeff : Nat)
  /-- TEST_STRIPS (R306): The command processor runs calibration patterns at stepwise lower voltage on an idle island and sets VFLOOR from the failure point. -/
  | testStrips (island : Nat) (fails : List Nat)
  /-- VF_FLR (R404): An FLR of a VF fails every task of its partition and resets the VF's registers. -/
  | vfFlr (p : Nat)
  /-- EPL_REPLAY (R320): A peer-link flit that fails its CRC is replayed from the sender's retry buffer. -/
  | eplReplay (link : Nat)
  /-- EPL_RETRAIN (R402): Every 100 ms a down link with EN set retrains and sets UP when it returns. -/
  | eplRetrain (link : Nat) (ok : Bool)
  /-- EPL_REPLAY_WINDOW (R402): At the end of each 1 s window REPLAYS is recorded and EPL_REPLAY is posted if it exceeded 1024. -/
  | eplReplayWindow (link : Nat)
  /-- SPDM_NEGOTIATE_ALGORITHMS (R322): The SPDM responder answers NEGOTIATE_ALGORITHMS with ECDSA P-256 and SHA-256. -/
  | spdmNegotiateAlgorithms (ecdsaP256 sha256 : Bool)
  /-- SQCFG_WRITE (R274): A write of SQCFG is kept, or discarded when it enables a queue on an invalid object or sets a reserved field. -/
  | sqcfgWrite (p q : Nat) (v : Word)
  /-- CQHEAD_WRITE (R276): A write of CQHEAD frees ring room for waiting completion entries. -/
  | cqheadWrite (p q : Nat) (v : Word)
  /-- PKGCON_WRITE (R297): A write of the package contract is kept only when SUST and PEAK meet their limits. -/
  | pkgconWrite (v : Word)
  /-- APER_WRITE (R315): A write of an aperture register with V set is checked and discarded on failure, while a write with V clear is always kept. -/
  | aperWrite (p n : Nat) (v : Word)
  /-- SAVECAP_WRITE (R327): A write of SAVECAP0 waits for SAVECAP1, and the pair is checked as a literal capability. -/
  | savecapWrite (p half : Nat) (v : Word)
  /-- PSET_WRITE (R328): A write of a partition's set-up checks shares, and clearing EN fails every task and disables the partition's queues. -/
  | psetWrite (p : Nat) (v : Word)
  /-- PRECT_WRITE (R328): A partition rectangle is added, changed or cleared, with lost cores given up at a requested quiesce point. -/
  | prectWrite (p m : Nat) (v : Word)
  /-- ISLDV_WRITE (R330): A write of ISLDV changes VTGT, MODE and DENIED when the writer owns every core of the island, or always from the PF. -/
  | isldvWrite (fn : Fn) (island : Nat) (v : Word)
  /-- TASKKILL (R357): A write naming a task of the partition fails it with TASK_KILLED. -/
  | taskkill (p : Nat) (v : Word)
  /-- INSTALL (R329): The object command INSTALL writes a new object entry and builds its page table, optionally placing and zeroing pages. -/
  | install (p : Nat) (hdr : Option CodeHdr)
  /-- OBJRDIX_WRITE (R329): A write of OBJRDIX makes the read registers show the named object or page entry. -/
  | objrdixWrite (p : Nat) (v : Word)
  /-- PGRQCFG_WRITE (R376): A write of PGRQCFG configures the page request ring, discarded when it breaks a condition. -/
  | pgrqcfgWrite (p : Nat) (v : Word)
  /-- ERRLOG_ENTRY_FREE (R352): Writing 1 to an error log entry's V bit frees it. -/
  | errlogEntryFree (fn : Fn) (die e : Nat)
  /-- REGISTER_WRITE (R326): A write of a management register with no row of its own sets its fields, discarded where its rule forbids the value. -/
  | registerWrite (fn : Fn) (off : Nat) (wide : Bool) (v : Word)
  /-- ADD (R157): Writes the wrapped sum of two registers. -/
  | add (h : Head) (o : SR)
  /-- ADDI (R157): Writes the wrapped sum of a register and a signed immediate. -/
  | addi (h : Head) (o : SI)
  /-- SUB (R157): Writes the wrapped difference of two registers. -/
  | sub (h : Head) (o : SR)
  /-- MUL (R157): Writes the low 64 bits of the product of two registers. -/
  | mul (h : Head) (o : SR)
  /-- MULI (R157): Writes the low 64 bits of the product of a register and an immediate. -/
  | muli (h : Head) (o : SI)
  /-- MULH (R157): Writes the high half of the signed 128-bit product. -/
  | mulh (h : Head) (o : SR)
  /-- MULHZ (R157): Writes the high half of the unsigned 128-bit product. -/
  | mulhz (h : Head) (o : SR)
  /-- DIV (R158): Writes the signed quotient, with defined results for zero and overflow. -/
  | div (h : Head) (o : SR)
  /-- DIVZ (R158): Writes the unsigned quotient, with a defined result for zero. -/
  | divz (h : Head) (o : SR)
  /-- REM (R158): Writes the signed remainder with the sign of the dividend. -/
  | rem (h : Head) (o : SR)
  /-- REMZ (R158): Writes the unsigned remainder. -/
  | remz (h : Head) (o : SR)
  /-- AND (R157): Writes the bitwise and of two registers. -/
  | and (h : Head) (o : SR)
  /-- ANDI (R157): Writes the bitwise and with a sign-extended immediate. -/
  | andi (h : Head) (o : SI)
  /-- OR (R157): Writes the bitwise or of two registers. -/
  | or (h : Head) (o : SR)
  /-- ORI (R157): Writes the bitwise or with a sign-extended immediate. -/
  | ori (h : Head) (o : SI)
  /-- XOR (R157): Writes the bitwise xor of two registers. -/
  | xor (h : Head) (o : SR)
  /-- XORI (R157): Writes the bitwise xor with a sign-extended immediate. -/
  | xori (h : Head) (o : SI)
  /-- SHL (R159): Shifts left by the low 6 bits of a register. -/
  | shl (h : Head) (o : SR)
  /-- SHLI (R159): Shifts left by an immediate from 0 to 63. -/
  | shli (h : Head) (o : SI)
  /-- SHR (R159): Shifts logically right by the low 6 bits of a register. -/
  | shr (h : Head) (o : SR)
  /-- SHRI (R159): Shifts logically right by an immediate. -/
  | shri (h : Head) (o : SI)
  /-- SRA (R159): Shifts arithmetically right by the low 6 bits of a register. -/
  | sra (h : Head) (o : SR)
  /-- SRAI (R159): Shifts arithmetically right by an immediate. -/
  | srai (h : Head) (o : SI)
  /-- ROTL (R157): Rotates left by the low 6 bits of a register. -/
  | rotl (h : Head) (o : SR)
  /-- ROTR (R157): Rotates right by the low 6 bits of a register. -/
  | rotr (h : Head) (o : SR)
  /-- CLZ (R157): Writes the count of leading zeros, 64 for zero. -/
  | clz (h : Head) (o : SR)
  /-- CTZ (R157): Writes the count of trailing zeros, 64 for zero. -/
  | ctz (h : Head) (o : SR)
  /-- POPC (R157): Writes the count of set bits. -/
  | popc (h : Head) (o : SR)
  /-- MIN (R157): Writes the signed minimum. -/
  | min (h : Head) (o : SR)
  /-- MAX (R157): Writes the signed maximum. -/
  | max (h : Head) (o : SR)
  /-- MINZ (R157): Writes the unsigned minimum. -/
  | minz (h : Head) (o : SR)
  /-- MAXZ (R157): Writes the unsigned maximum. -/
  | maxz (h : Head) (o : SR)
  /-- SEXT (R157): Sign-extends a register from the width named. -/
  | sext (h : Head) (o : SR)
  /-- ZEXT (R157): Zero-extends a register from the width named. -/
  | zext (h : Head) (o : SR)
  /-- MOV (R157): Copies a register. -/
  | mov (h : Head) (o : SR)
  /-- MOVI (R157): Writes a sign-extended 39-bit immediate. -/
  | movi (h : Head) (o : SL)
  /-- MOVHI (R157): Writes a 39-bit immediate into bits 63 to 25, keeping bits 24 to 0. -/
  | movhi (h : Head) (o : SL)
  /-- SEL (R157): Selects one of two registers by a predicate. -/
  | sel (h : Head) (o : SR)
  /-- CMP (R160): Writes a predicate from a comparison of two registers. -/
  | cmp (h : Head) (o : SR)
  /-- CMPI (R160): Writes a predicate from a comparison with an immediate. -/
  | cmpi (h : Head) (o : SI)
  /-- PAND (R160): Writes the and of two predicates. -/
  | pand (h : Head) (o : SR)
  /-- POR (R160): Writes the or of two predicates. -/
  | por (h : Head) (o : SR)
  /-- PXOR (R160): Writes the xor of two predicates. -/
  | pxor (h : Head) (o : SR)
  /-- PNOT (R160): Writes the complement of a predicate. -/
  | pnot (h : Head) (o : SR)
  /-- PMOV (R160): Copies a predicate. -/
  | pmov (h : Head) (o : SR)
  /-- BR (R161): Branches to a word address. -/
  | br (h : Head) (o : SB)
  /-- BP (R161): Branches when a predicate, possibly negated, holds. -/
  | bp (h : Head) (o : SB)
  /-- JMP (R162): Jumps to the address held in a register. -/
  | jmp (h : Head) (o : SB)
  /-- CALL (R161): Writes the return address to a link register and branches. -/
  | call (h : Head) (o : SB)
  /-- RET (R162): Returns to the address held in a register. -/
  | ret (h : Head) (o : SB)
  /-- LOOP (R117): Opens a hardware loop level with a count from a register and an end word. -/
  | loop (h : Head) (o : SB)
  /-- LOOPI (R117): Opens a hardware loop level with an immediate count. -/
  | loopi (h : Head) (o : SB)
  /-- NOP (R161): Does nothing. -/
  | nop (h : Head) (o : SR)
  /-- LEA (R164): Narrows a capability's lower bound to an offset. -/
  | lea (h : Head) (o : SM)
  /-- CAPRS (R164): Narrows a capability's rights. -/
  | caprs (h : Head) (o : SR)
  /-- CAPRT (R164): Narrows a capability's bounds. -/
  | caprt (h : Head) (o : SR)
  /-- CAPQ (R165): Writes a capability's id, lower bound, upper bound or length to a scalar register. -/
  | capq (h : Head) (o : SR)
  /-- CAPMV (R164): Copies a capability. -/
  | capmv (h : Head) (o : SR)
  /-- LD (R168): Loads a value through a capability into a scalar register. -/
  | ld (h : Head) (o : SM)
  /-- ST (R168): Stores a register's low bytes through a capability. -/
  | st (h : Head) (o : SM)
  /-- PF (R168): Prefetches an extent as a read, or is dropped on any failed check. -/
  | pf (h : Head) (o : SM)
  /-- CCLEAN (R170): Writes back dirty words of a byte range and keeps the blocks. -/
  | cclean (h : Head) (o : SM)
  /-- CINVAL (R170): Drops the blocks of a byte range after writing back dirty words. -/
  | cinval (h : Head) (o : SM)
  /-- CFLUSH (R170): Writes back dirty words of a byte range and drops the blocks. -/
  | cflush (h : Head) (o : SM)
  /-- AMO_ADD (R171): Atomically adds, returning the old value, or makes a commutative update. -/
  | amoAdd (h : Head) (o : SM)
  /-- AMO_FADD (R171): Atomically adds f32 with RNE, returning the old value, or makes a commutative update. -/
  | amoFadd (h : Head) (o : SM)
  /-- AMO_MIN (R171): Atomically takes the signed minimum, returning the old value. -/
  | amoMin (h : Head) (o : SM)
  /-- AMO_MAX (R171): Atomically takes the signed maximum, returning the old value. -/
  | amoMax (h : Head) (o : SM)
  /-- AMO_MINZ (R171): Atomically takes the unsigned minimum, returning the old value. -/
  | amoMinz (h : Head) (o : SM)
  /-- AMO_MAXZ (R171): Atomically takes the unsigned maximum, returning the old value. -/
  | amoMaxz (h : Head) (o : SM)
  /-- AMO_AND (R171): Atomically ands, returning the old value. -/
  | amoAnd (h : Head) (o : SM)
  /-- AMO_OR (R171): Atomically ors, returning the old value. -/
  | amoOr (h : Head) (o : SM)
  /-- AMO_XOR (R171): Atomically xors, returning the old value. -/
  | amoXor (h : Head) (o : SM)
  /-- AMO_SWAP (R171): Atomically swaps, returning the old value. -/
  | amoSwap (h : Head) (o : SM)
  /-- AMO_CAS (R171): Atomically compares and swaps, returning the old value. -/
  | amoCas (h : Head) (o : SM)
  /-- MFSR (R174): Reads a system register allowed in the current mode. -/
  | mfsr (h : Head) (o : SI)
  /-- MTSR (R174): Writes a system register in supervisor mode, including the item window. -/
  | mtsr (h : Head) (o : SI)
  /-- TRAP (R185): Traps as TRAP_INSN after its bundle with its immediate in sr.tval. -/
  | trap (h : Head) (o : SI)
  /-- ERET (R186): Checks the restored state, returns to user mode at sr.epc, relaunches progress words and opens a region, or is refused in place. -/
  | eret (h : Head) (o : SR)
  /-- CTXOUT (R54): Releases the slot once every outbound thread of the context has completed. -/
  | ctxout (h : Head) (o : SR)
  /-- END (R48): Puts the context in Ending until its inbound engine threads complete. -/
  | endc (h : Head) (o : SR)
  /-- RDTIME (R183): Reads device time into a register. -/
  | rdtime (h : Head) (o : SR)
  /-- RDCYC (R183): Reads the core's cycle count into a register. -/
  | rdcyc (h : Head) (o : SR)
  /-- BAR_INIT (R259): Sets a barrier's expected count and scope, claiming it for the team. -/
  | barInit (h : Head) (o : SI)
  /-- BAR_ARRIVE (R261): Arrives on a barrier and receives the arrival's token. -/
  | barArrive (h : Head) (o : SI)
  /-- BAR_WAIT (R261): Waits until the phase of a token has completed. -/
  | barWait (h : Head) (o : SI)
  /-- BAR_AW (R261): Arrives on a barrier and waits for that arrival's phase. -/
  | barAw (h : Head) (o : SI)
  /-- BAR_QUERY (R261): Reads a barrier's state. -/
  | barQuery (h : Head) (o : SI)
  /-- NEXT (R262): Claims the next subrange of the team's range entry, landing 32 own issues later. -/
  | next (h : Head) (o : SR)
  /-- ENQT (R264): Submits a task descriptor to the dispatcher and returns a handle or refusal. -/
  | enqt (h : Head) (o : SR)
  /-- ENQM (R265): Sends a 64-bit message to a queue of a teammate, held until a slot is reserved. -/
  | enqm (h : Head) (o : SR)
  /-- DEQM (R266): Removes the oldest message of a queue, waiting or returning empty when none is present. -/
  | deqm (h : Head) (o : SR)
  /-- CPJOIN (R267): Holds until the named copies of the context have completed. -/
  | cpjoin (h : Head) (o : SI)
  /-- WIDEN (R268): Sets or clears the task's preferred variant for later admissions. -/
  | widen (h : Head) (o : SI)
  /-- BQ (R269): Reads the island's budget word. -/
  | bq (h : Head) (o : SR)
  /-- JREAD (R270): Reads the context's joule counter. -/
  | jread (h : Head) (o : SR)
  /-- WQ (R271): Reads the context's wear word. -/
  | wq (h : Head) (o : SR)
  /-- FMT_A (R135): Writes fa after the four-bundle shadow. -/
  | fmtA (a : Attr) (arg : Nat)
  /-- FMT_W (R135): Writes fw after the four-bundle shadow. -/
  | fmtW (a : Attr) (arg : Nat)
  /-- FMT_O (R135): Writes fo after the four-bundle shadow. -/
  | fmtO (a : Attr) (arg : Nat)
  /-- FMT_V (R135): Writes fv after the four-bundle shadow. -/
  | fmtV (a : Attr) (arg : Nat)
  /-- FMT_S (R135): Writes the outlier tile and entry count of fs. -/
  | fmtS (a : Attr) (arg : Nat)
  /-- RM (R135): Writes the rounding mode. -/
  | rm (a : Attr) (arg : Nat)
  /-- SEED (R145): Writes one half of the stochastic seed and clears DRAW. -/
  | seed (a : Attr) (arg : Nat)
  /-- CBSEL (R135): Selects the codebook table that vector instructions use. -/
  | cbsel (a : Attr) (arg : Nat)
  /-- STEPSET (R135): Writes step.c0 or step.c1. -/
  | stepset (a : Attr) (arg : Nat)
  /-- TDEF (R200): Copies a descriptor table entry into a tile descriptor and clears its state and status. -/
  | tdef (h : Head) (o : VT)
  /-- TSHAPE (R200): Sets a tile's valid rows and columns from another tile's shape or elements. -/
  | tshape (h : Head) (o : VT)
  /-- TVIEW (R200): Sets a tile's view to local or cluster. -/
  | tview (h : Head) (o : VT)
  /-- TSTATE (R200): Sets a tile's state to empty or ready. -/
  | tstate (h : Head) (o : VT)
  /-- TSTEP (R200): Sets a tile's step from another descriptor or element. -/
  | tstep (h : Head) (o : VT)
  /-- TCLR (R200): Writes +0 to every valid or every element of a tile. -/
  | tclr (h : Head) (o : VT)
  /-- VADD (R201): Adds two tiles elementwise. -/
  | vadd (h : Head) (cf : Nat) (o : VT)
  /-- VSUB (R201): Subtracts two tiles elementwise. -/
  | vsub (h : Head) (cf : Nat) (o : VT)
  /-- VMUL (R201): Multiplies two tiles elementwise. -/
  | vmul (h : Head) (cf : Nat) (o : VT)
  /-- VFMA (R201): Computes a × b + c with one rounding. -/
  | vfma (h : Head) (cf : Nat) (o : VT)
  /-- VFMS (R201): Computes a × b − c with one rounding. -/
  | vfms (h : Head) (cf : Nat) (o : VT)
  /-- VFNMA (R201): Computes −(a × b) + c with one rounding. -/
  | vfnma (h : Head) (cf : Nat) (o : VT)
  /-- VMIN (R201): Takes the elementwise minimum. -/
  | vmin (h : Head) (cf : Nat) (o : VT)
  /-- VMAX (R201): Takes the elementwise maximum. -/
  | vmax (h : Head) (cf : Nat) (o : VT)
  /-- VABS (R201): Takes the elementwise absolute value. -/
  | vabs (h : Head) (cf : Nat) (o : VT)
  /-- VNEG (R201): Negates each element. -/
  | vneg (h : Head) (cf : Nat) (o : VT)
  /-- VCLAMP (R201): Clamps each element between two sources. -/
  | vclamp (h : Head) (cf : Nat) (o : VT)
  /-- VSEL (R201): Selects elementwise by a condition tile. -/
  | vsel (h : Head) (cf : Nat) (o : VT)
  /-- VCMP (R201): Writes 1 or 0 from an elementwise comparison. -/
  | vcmp (h : Head) (cf : Nat) (o : VT)
  /-- VAND (R201): Ands 8-bit integer elements. -/
  | vand (h : Head) (cf : Nat) (o : VT)
  /-- VOR (R201): Ors 8-bit integer elements. -/
  | vor (h : Head) (cf : Nat) (o : VT)
  /-- VXOR (R201): Xors 8-bit integer elements. -/
  | vxor (h : Head) (cf : Nat) (o : VT)
  /-- VNOT (R201): Complements 8-bit integer elements. -/
  | vnot (h : Head) (cf : Nat) (o : VT)
  /-- VSHL (R201): Shifts 8-bit integer elements left. -/
  | vshl (h : Head) (cf : Nat) (o : VT)
  /-- VSHR (R201): Shifts 8-bit integer elements logically right. -/
  | vshr (h : Head) (cf : Nat) (o : VT)
  /-- VSRA (R201): Shifts 8-bit integer elements arithmetically right. -/
  | vsra (h : Head) (cf : Nat) (o : VT)
  /-- VMOV (R202): Copies element codes unchanged. -/
  | vmov (h : Head) (o : VT)
  /-- VBCAST (R202): Broadcasts an element, row or column across a tile. -/
  | vbcast (h : Head) (o : VT)
  /-- VIOTA (R202): Writes column, row or linear indices. -/
  | viota (h : Head) (cf : Nat) (o : VT)
  /-- VCVT (R202): Converts between formats with one rounding. -/
  | vcvt (h : Head) (o : VT)
  /-- VRCP (R203): Writes a 12-bit reciprocal estimate. -/
  | vrcp (h : Head) (cf : Nat) (o : VT)
  /-- VRSQ (R203): Writes a 12-bit reciprocal square root estimate. -/
  | vrsq (h : Head) (cf : Nat) (o : VT)
  /-- VRCPF (R203): Refines a reciprocal by one Newton step. -/
  | vrcpf (h : Head) (cf : Nat) (o : VT)
  /-- VRSQF (R203): Refines a reciprocal square root by one Newton step. -/
  | vrsqf (h : Head) (cf : Nat) (o : VT)
  /-- VEXP2 (R203): Writes the correctly rounded 2^x. -/
  | vexp2 (h : Head) (cf : Nat) (o : VT)
  /-- VLOG2 (R203): Writes the correctly rounded log2 x. -/
  | vlog2 (h : Head) (cf : Nat) (o : VT)
  /-- VTANH (R203): Writes the correctly rounded tanh x. -/
  | vtanh (h : Head) (cf : Nat) (o : VT)
  /-- VLGST (R203): Writes the correctly rounded logistic of x. -/
  | vlgst (h : Head) (cf : Nat) (o : VT)
  /-- VSQRT (R203): Writes the correctly rounded square root. -/
  | vsqrt (h : Head) (cf : Nat) (o : VT)
  /-- VRSUM (R205): Sums each row exactly, rounded once. -/
  | vrsum (h : Head) (cf : Nat) (o : VT)
  /-- VCSUM (R205): Sums each column exactly, rounded once. -/
  | vcsum (h : Head) (cf : Nat) (o : VT)
  /-- VRMAX (R205): Takes the maximum of each row. -/
  | vrmax (h : Head) (cf : Nat) (o : VT)
  /-- VCMAX (R205): Takes the maximum of each column. -/
  | vcmax (h : Head) (cf : Nat) (o : VT)
  /-- VRMIN (R205): Takes the minimum of each row. -/
  | vrmin (h : Head) (cf : Nat) (o : VT)
  /-- VCMIN (R205): Takes the minimum of each column. -/
  | vcmin (h : Head) (cf : Nat) (o : VT)
  /-- VRARG (R205): Writes the column index of each row's maximum or minimum. -/
  | vrarg (h : Head) (cf : Nat) (o : VT)
  /-- VSCAN (R206): Writes inclusive or exclusive prefix sums along rows. -/
  | vscan (h : Head) (cf : Nat) (o : VT)
  /-- VCSCAN (R206): Writes inclusive or exclusive prefix sums down columns. -/
  | vcscan (h : Head) (cf : Nat) (o : VT)
  /-- VTRANS (R207): Transposes a tile. -/
  | vtrans (h : Head) (o : VT)
  /-- VPERM (R207): Permutes columns by an index tile. -/
  | vperm (h : Head) (o : VT)
  /-- VGATH (R207): Gathers rows by an index tile. -/
  | vgath (h : Head) (o : VT)
  /-- VSCAT (R207): Scatters source rows to destination rows by an index tile. -/
  | vscat (h : Head) (o : VT)
  /-- VPACK (R207): Interleaves two tiles' columns. -/
  | vpack (h : Head) (o : VT)
  /-- VUNPK (R207): Takes the even or odd columns of a tile. -/
  | vunpk (h : Head) (o : VT)
  /-- VTOPK (R208): Writes each row's top k values and their column indices. -/
  | vtopk (h : Head) (cf : Nat) (o : VT)
  /-- VQUANT (R209): Quantises a tile to a block-scaled format and writes its scales. -/
  | vquant (h : Head) (o : VT)
  /-- VDEQ (R210): Dequantises a tile by grouped scales. -/
  | vdeq (h : Head) (o : VT)
  /-- VSCAL (R201): Multiplies each element by a power of two. -/
  | vscal (h : Head) (cf : Nat) (o : VT)
  /-- VSTAT (R211): Copies a tile's status word into a tile, optionally clearing it. -/
  | vstat (h : Head) (o : VT)
  /-- MLOADW (R220): Loads a weight tile into a plane with K down its columns. -/
  | mloadw (h : Head) (o : MT)
  /-- MLOADWT (R220): Loads a weight tile into a plane with K along its rows. -/
  | mloadwt (h : Head) (o : MT)
  /-- MSWAP (R221): Inverts the context's plane role. -/
  | mswap (h : Head) (o : MT)
  /-- MMA (R222): Multiplies an A tile by a plane into an accumulator, overwriting or accumulating. -/
  | mma (h : Head) (o : MT)
  /-- MZERO (R223): Writes +0 to every element of an accumulator. -/
  | mzero (h : Head) (o : MT)
  /-- MDRAIN (R225): Converts an accumulator into a tile with optional scale, bias and zeroing. -/
  | mdrain (h : Head) (o : MT)
  /-- MCBL (R226): Loads cbA or cbW from a bf16 tile. -/
  | mcbl (h : Head) (o : MT)
  /-- MOUTL (R227): Writes both codebook tables into a tile. -/
  | moutl (h : Head) (o : MT)
  /-- MSCL (R224): Scales an accumulator's columns. -/
  | mscl (h : Head) (o : MT)
  /-- MSTAT (R228): Reads a status word and the context's plane records into a tile. -/
  | mstat (h : Head) (o : MT)
  /-- VCBL (R226): Loads the selected codebook table from any format, rounded to bf16. -/
  | vcbl (h : Head) (o : MT)
  /-- CP_LD (R241): Copies rows from memory or scratchpad into a tile. -/
  | cpLd (h : Head) (o : CP)
  /-- CP_ST (R241): Copies a tile's rows to memory or scratchpad. -/
  | cpSt (h : Head) (o : CP)
  /-- CP_SS (R242): Pushes a tile's bytes into one teammate's scratchpad. -/
  | cpSs (h : Head) (o : CP)
  /-- CP_MM (R243): Copies the rows of a pattern from memory to memory. -/
  | cpMm (h : Head) (o : CP)
  /-- CP_GATH (R244): Gathers memory rows into a tile by an index tile. -/
  | cpGath (h : Head) (o : CP)
  /-- CP_SCAT (R244): Scatters a tile's rows to memory by an index tile. -/
  | cpScat (h : Head) (o : CP)
  /-- CP_BC (R242): Pushes a tile's bytes into every core of a subteam. -/
  | cpBc (h : Head) (o : CP)
  /-- CP_ACC (R245): Applies a commutative update for every element of a tile. -/
  | cpAcc (h : Head) (o : CP)
  /-- CP_FILL (R246): Fills a tile's valid elements from the bytes of a register. -/
  | cpFill (h : Head) (o : CP)
  /-- CP_PF (R247): Fills the home L2 slices with the bytes named. -/
  | cpPf (h : Head) (o : CP)
  /-- CP_CANCEL (R248): Cancels every copy of the context that allocated a tag in the mask. -/
  | cpCancel (h : Head) (o : CP)
  /-- CP_RES (R249): Relaunches a stopped copy or resumes a held copy in supervisor mode. -/
  | cpRes (h : Head) (o : CP)
  /-- CP_PAT (R237): Loads a 64-byte pattern block into a pattern cache entry. -/
  | cpPat (h : Head) (o : CP)
  /-- ENGINE_OP_STOP (R51): An inbound engine operation or copy stops at its next row boundary after a trap entry, yield, cp.cancel, rollback or team failure, and takes a progress word or leaves the engine. -/
  | engineOpStop (core id : Nat)
  /-- CACHE_FLUSH_COMPLETE (R170): A range flush's tag frees once every block it concerns has been written back or dropped. -/
  | cacheFlushComplete (core slot id : Nat)
  /-- DROOP_RECOVERY (R305): The island supply recovers and the clock stretcher stops lengthening cycles. -/
  | droopRecovery (island : Nat)
  /-- CALIBRATION_OVERDUE (R394): An island not calibrated within 8 h of Active time posts CALIB_FAIL once, and its VFLOOR rises by 2 settings. -/
  | calibrationOverdue (island : Nat)
  /-- RANGE_CLAIM (R46): The dispatcher serves a claim on a range entry, handing out the next subrange and advancing f. -/
  | rangeClaim
  /-- BARRIER_ARRIVAL (R260): The root or local barrier counts one arrival, returns its token and completes phases while ARRIVED reaches EXPECT. -/
  | barrierArrival
  /-- BARRIER_RELEASE_MESSAGE (R259): A non-root core receives the root's release for a completed phase, updates its mirrored PHASES and releases waits on it. -/
  | barrierReleaseMessage
  /-- MESSAGE_DELIVERY (R265): A message enters its reserved slot of the target queue and wakes a waiting deqm. -/
  | messageDelivery
  /-- ACCEPTANCE_ENTRY_WRITE (R276): An acceptance entry is written to the task's completion queue once the ring has room. -/
  | acceptanceEntryWrite
  /-- COMPLETION_ENTRY_WRITE (R276): A completion or refusal entry is written to its completion ring once there is room and the queue is enabled, freeing the task's table entry. -/
  | completionEntryWrite
  /-- DISPATCHER_PASS (R282): The dispatcher considers eligible tasks and teams awaiting restore in pass order, and places, admits, reserves and cracks as the rules allow. -/
  | dispatcherPass
  /-- TEAM_LOADED (R47): Once every slot of the team has been loaded, all its contexts start together. -/
  | teamLoaded
  /-- TEAM_COMPLETE (R49): When every context is in Ended and every engine thread has joined, the team is reported to its task and its resources are freed. -/
  | teamComplete
  /-- FALLBACK_PRESSURE (R287): A task whose first-tried variant has been held by energy alone for 1 ms raises FALLBACK_PRESSURE. -/
  | fallbackPressure
  /-- QUIESCE_POINT (R291): When no team holds the requested cores, remaps, page moves and rectangle changes are applied. -/
  | quiescePoint
  /-- QUIESCE_LIMIT_EXPIRY (R291): When the quiesce limit runs out, the teams still holding the requested cores are pre-empted. -/
  | quiesceLimitExpiry
  /-- GOVERNOR_INTERVAL_CLOSE (R292): Every 10 µs the governor meters usage, updates balances, computes grants, sets warnings and throttles, makes DVFS decisions, clears commitments and starts a pass. -/
  | governorIntervalClose
  /-- LIFETIME_RECORD_WRITE (R312): Every 10 min the lifetime record is written to NOR flash. -/
  | lifetimeRecordWrite
  /-- THERMAL_TRIP_TIMEOUT (R398): A trip lasting 100 ms, or a sensor at TJ + 10 °C, triggers an emergency Retain. -/
  | thermalTripTimeout
  /-- POWER_ON (R322): Boot verifies the image in slot A or B, derives the identity key, loads remap and lifetime records and starts the command processors. -/
  | powerOn
  /-- POWER_LOSS (R312): Power is lost without a record write, so each core is charged 10 min at its highest rate at the next power-on. -/
  | powerLoss
  /-- PERST_ASSERT (R404): PERST# asserted makes an emergency Retain. -/
  | perstAssert
  /-- PERST_DEASSERT (R404): PERST# deasserted starts the wake sequence. -/
  | perstDeassert
  /-- SIDEBAND_WAKE (R325): A sideband wake, or a TLP addressed to a function in Retain, starts the wake sequence. -/
  | sidebandWake
  /-- PF_FLR (R404): An FLR of the PF or a hot reset acts as an FLR of every VF and resets the PF's registers. -/
  | pfFlr
  /-- PCIE_LINK (R404): The host link goes down, PCIE_LINK is posted and device requests meet PCIE_DMA_ERR. -/
  | pcieLink
  /-- SPDM_GET_VERSION (R322): The SPDM responder answers GET_VERSION. -/
  | spdmGetVersion
  /-- SPDM_GET_CAPABILITIES (R322): The SPDM responder answers GET_CAPABILITIES. -/
  | spdmGetCapabilities
  /-- SPDM_GET_DIGESTS (R406): The SPDM responder returns certificate digests, or an error when attestation failed. -/
  | spdmGetDigests
  /-- SPDM_GET_CERTIFICATE (R406): The SPDM responder returns the identity certificate, or an error when attestation failed. -/
  | spdmGetCertificate
  /-- SPDM_CHALLENGE (R406): The SPDM responder signs a challenge with the identity key, or returns an error when attestation failed. -/
  | spdmChallenge
  /-- SPDM_GET_MEASUREMENTS (R406): The SPDM responder reports firmware and image hashes, or an error when attestation failed. -/
  | spdmGetMeasurements
  /-- PWRCTL_RETAIN (R324): A Retain request is refused while teams are resident, or enters Retain by applying ingress, writing back, saving state and powering off. -/
  | pwrctlRetain
  /-- PWRCTL_WAKE (R323): A write of WAKE starts the wake sequence. -/
  | pwrctlWake
  /-- REMOVE (R329): The object command REMOVE waits for a quiesce point, drops the object's blocks and frames and invalidates its entry. -/
  | removeObj
  /-- MAP (R329): The object command MAP waits for a quiesce point and points a page at a host or PCIe page frame. -/
  | mapPage
  /-- UNMAP (R329): The object command UNMAP waits for a quiesce point, frees the page's frames and sets it invalid. -/
  | unmapPage
  /-- ENQT_RESULT (R264): The dispatcher finishes reading and checking an enqt descriptor, takes the task into the table or refuses it, and writes the handle or cause to s[A]. -/
  | enqtResult
  /-- ORDERLY_POWER_OFF (R312): At orderly power-off the lifetime record is written to NOR flash. -/
  | orderlyPowerOff
  /-- HOST_LINK_UP (R404): The PCIe host link trains and comes up, and waiting completion and event entries can be written again. -/
  | hostLinkUp
  /-- NOTIFICATION_QUEUE_READ (R384): The command processor consumes migration notification entries, discarding stale ones and scheduling page moves. -/
  | notificationQueueRead
  /-- BARRIER_INIT_ANSWER (R259): A non-root core receives the root's answer to its bar.init and takes the root's PHASES as its mirrored value. -/
  | barrierInitAnswer
  deriving DecidableEq, Repr

end Sys2Proof
end

