-- ==== Sys2Proof/Decode.lean ====
section
/-!
DEFINITION. Sys2Proof/Decode.lean: instruction words to instructions and back (R102 to R107, R126 to
R136, R358). `decodeSlot` makes steps 7 to 10 of R358 for one slot word, `decodeHeader` steps 1 to 4
for the header; the steps that need the code object or the context (0, 5, 6, 11) stand with the issue
of a bundle. `encode` is written from the same layouts.
-/
namespace Sys2Proof

/-- Bits [lo + len - 1 : lo] of a word (R7). -/
def bits (w lo len : Nat) : Nat := w / 2 ^ lo % 2 ^ len

/-- Why a word is no instruction: the causes 0x01 to 0x04 and 0x08 of R358. -/
inductive DecErr where
  /-- BAD_HEADER: [79:77] of the bundle's first word is not 0b111. -/
  | badHeader
  /-- BAD_SLOT_CLASS: CLASS is not that of the word's place. -/
  | badSlotClass
  /-- BAD_OPCODE: an unassigned OPCODE or CTLOP. -/
  | badOpcode
  /-- RESERVED_SET: a reserved or unused bit is set. -/
  | reservedSet
  /-- BAD_OPERAND: an unassigned register, tile operand or value code. -/
  | badOperand
  deriving DecidableEq, Repr

/-- The cause code (R107, R344). -/
def DecErr.code : DecErr → Nat
  | .badHeader => 0x01 | .badSlotClass => 0x02 | .badOpcode => 0x03 | .reservedSet => 0x04
  | .badOperand => 0x08

/-! ## Operand formats -/

/-- SR (R128). -/
def getSR (w : Nat) : SR :=
  { a := bits w 39 6, b := bits w 33 6, c := bits w 27 6, d := bits w 21 6, r := bits w 0 21 }

/-- SI (R128). -/
def getSI (w : Nat) : SI := { a := bits w 39 6, b := bits w 33 6, imm := bits w 0 33 }

/-- SL (R128). -/
def getSL (w : Nat) : SL := { a := bits w 39 6, imm := bits w 0 39 }

/-- SM (R128). -/
def getSM (w : Nat) : SM :=
  { a := bits w 39 6, k := bits w 35 4, x := bits w 29 6, off := bits w 15 14, v := bits w 9 6,
    w := bits w 7 2, ext := bits w 6 1, ty := bits w 4 2, hint := bits w 2 2, r := bits w 0 2 }

/-- SB (R128). -/
def getSB (w : Nat) : SB :=
  { p := bits w 42 3, pn := bits w 41 1, l := bits w 39 2, cnt := bits w 24 15, tgt := bits w 0 24 }

/-- VT (R130, R131). -/
def getVT (w : Nat) : VT :=
  { td := bits w 38 7, ta := bits w 31 7, tb := bits w 24 7, tc := bits w 17 7,
    mcls := bits w 15 2, seg := bits w 12 3, dist := bits w 5 7, msel := bits w 3 2,
    flags := bits w 0 3 }

/-- MT (R133). -/
def getMT (w : Nat) : MT :=
  { x := bits w 38 7, y := bits w 31 7, z := bits w 24 7, w := bits w 17 7, zv := bits w 16 1,
    wv := bits w 15 1, acc := bits w 14 1, plane := bits w 13 1, r := bits w 0 13 }

/-- CP (R134). -/
def getCP (w : Nat) : CP :=
  { t := bits w 38 7, k := bits w 34 4, x := bits w 28 6, y := bits w 22 6, off := bits w 8 14,
    con := bits w 7 1, pat := bits w 6 1, r := bits w 0 6 }

/-- The operand field [44:0] of each format. -/
def SR.put (o : SR) : Nat :=
  o.a * 2 ^ 39 + o.b * 2 ^ 33 + o.c * 2 ^ 27 + o.d * 2 ^ 21 + o.r
def SI.put (o : SI) : Nat := o.a * 2 ^ 39 + o.b * 2 ^ 33 + o.imm
def SL.put (o : SL) : Nat := o.a * 2 ^ 39 + o.imm
def SM.put (o : SM) : Nat :=
  o.a * 2 ^ 39 + o.k * 2 ^ 35 + o.x * 2 ^ 29 + o.off * 2 ^ 15 + o.v * 2 ^ 9 + o.w * 2 ^ 7 +
    o.ext * 2 ^ 6 + o.ty * 2 ^ 4 + o.hint * 2 ^ 2 + o.r
def SB.put (o : SB) : Nat :=
  o.p * 2 ^ 42 + o.pn * 2 ^ 41 + o.l * 2 ^ 39 + o.cnt * 2 ^ 24 + o.tgt
def VT.put (o : VT) : Nat :=
  o.td * 2 ^ 38 + o.ta * 2 ^ 31 + o.tb * 2 ^ 24 + o.tc * 2 ^ 17 + o.mcls * 2 ^ 15 +
    o.seg * 2 ^ 12 + o.dist * 2 ^ 5 + o.msel * 2 ^ 3 + o.flags
def MT.put (o : MT) : Nat :=
  o.x * 2 ^ 38 + o.y * 2 ^ 31 + o.z * 2 ^ 24 + o.w * 2 ^ 17 + o.zv * 2 ^ 16 + o.wv * 2 ^ 15 +
    o.acc * 2 ^ 14 + o.plane * 2 ^ 13 + o.r
def CP.put (o : CP) : Nat :=
  o.t * 2 ^ 38 + o.k * 2 ^ 34 + o.x * 2 ^ 28 + o.y * 2 ^ 22 + o.off * 2 ^ 8 + o.con * 2 ^ 7 +
    o.pat * 2 ^ 6 + o.r

/-- The common head of a slot word (R105); `slot` is the slot whose CLASS code the word carries. -/
def getHead (slot : Slot) (w : Nat) : Head :=
  { slot := slot, pd := bits w 64 3, atag := bits w 59 5, w0 := bits w 54 5, w1 := bits w 49 5,
    pneg := bits w 48 1, pidx := bits w 45 3 }

/-- A slot word from its head, OPCODE and operand field (R105). -/
def Head.put (h : Head) (op body : Nat) : Nat :=
  h.slot.num * 2 ^ 77 + op * 2 ^ 67 + h.pd * 2 ^ 64 + h.atag * 2 ^ 59 + h.w0 * 2 ^ 54 +
    h.w1 * 2 ^ 49 + h.pneg * 2 ^ 48 + h.pidx * 2 ^ 45 + body

/-! ## Which bits and codes an instruction admits -/

/-- A field that is not used is zero (R127). -/
def unusedZero (used : Bool) (f : Nat) : Bool := used || f == 0

/-- R127 for SR: the fields named true are used. -/
def SR.unused (o : SR) (a b c d : Bool) : Bool :=
  o.r == 0 && unusedZero a o.a && unusedZero b o.b && unusedZero c o.c && unusedZero d o.d

/-- R127 for SI: IMM33 is used, or bounded by the instruction's own rule. -/
def SI.unused (o : SI) (a b : Bool) : Bool := unusedZero a o.a && unusedZero b o.b

/-- R127, R129 for SM: A, V, W, EXT, and TYPE with HINT; K, X and OFF14 are always used. -/
def SM.unused (o : SM) (a v w e t : Bool) : Bool :=
  o.r == 0 && unusedZero a o.a && unusedZero v o.v && unusedZero w o.w && unusedZero e o.ext &&
    unusedZero t o.ty && unusedZero t o.hint

/-- R127, R128 for SB: P with PN, L, the register A (bits [38:33], so that [32:24] are zero), CNT15,
and TGT. -/
def SB.unused (o : SB) (p l a cnt t : Bool) : Bool :=
  unusedZero p o.p && unusedZero p o.pn && unusedZero l o.l &&
    (if a then o.cnt % 512 == 0 else unusedZero cnt o.cnt) && unusedZero t o.tgt

/-- R127, R131, R199 for VT: TA, TB, TC, the FLAGS named (values below `fl`), and MOD of class none
with SEG, DIST and MSEL zero. -/
def VT.unused (o : VT) (a b c : Bool) (fl : Nat) : Bool :=
  unusedZero a o.ta && unusedZero b o.tb && unusedZero c o.tc && decide (o.flags < fl) &&
    (o.mcls != 0 || (o.seg == 0 && o.dist == 0 && o.msel == 0))

/-- R106, R131, R197, R199 for VT: tile operand codes, assigned FLAGS below `lim`, and a modifier only
where the operation allows one on a source that it reads. `idx` marks tdef, whose TA is an index. -/
def VT.codes (o : VT) (idx mod b c : Bool) (lim : Nat) : Bool :=
  decide (o.td < 72) && (idx || decide (o.ta < 72)) && decide (o.tb < 72) && decide (o.tc < 72) &&
    decide (o.flags < lim) &&
    (o.mcls == 0 ||
      (mod && decide (o.dist < 2 ^ (o.seg + 1)) && !(o.mcls == 2 && o.dist == 0) &&
        (o.msel == 0 || (o.msel == 1 && b) || (o.msel == 2 && c))))

/-- R127, R133, R219 for MT: OPX, OPY, OPZ with OPW and their marks, ACC, PLANE. -/
def MT.unused (o : MT) (x y zw acc pl : Bool) : Bool :=
  o.r == 0 && unusedZero x o.x && unusedZero y o.y && unusedZero zw o.zv && unusedZero zw o.wv &&
    unusedZero (o.zv == 1) o.z && unusedZero (o.wv == 1) o.w && unusedZero acc o.acc &&
    unusedZero pl o.plane

/-- R127, R134, R240 for CP: T below `tl`, K, X, Y, OFF14, CON, PAT. -/
def CP.unused (o : CP) (tl : Nat) (k x y off con pat : Bool) : Bool :=
  o.r == 0 && decide (o.t < tl) && unusedZero k o.k && unusedZero x o.x && unusedZero y o.y &&
    unusedZero off o.off && unusedZero con o.con && unusedZero pat o.pat

/-- A tile code (R106). -/
def isTile (t : Nat) : Bool := decide (t < 64)
/-- An accumulator code (R106). -/
def isAcc (t : Nat) : Bool := decide (64 ≤ t) && decide (t < 72)
/-- A tile or accumulator code (R106). -/
def isOperand (t : Nat) : Bool := decide (t < 72)

/-- R135, R145: reserved bits of CTLARG for fmt.a to fmt.v, BLK where the format is not block-scaled
and SUB where it is neither an integer nor an xi format. -/
def fmtRsv (arg : Nat) : Bool :=
  let f := bits arg 0 5
  decide (arg < 2048) && (decide (20 ≤ f ∧ f ≤ 27) || bits arg 5 2 == 0) &&
    (decide (9 ≤ f ∧ f ≤ 16) || f == 25 || f == 26 || bits arg 7 2 == 0)

/-- R136, R140: FMT 28 to 31, and SUB 2 with an unsigned format, are unassigned. -/
def fmtCodes (arg : Nat) : Bool :=
  let f := bits arg 0 5
  decide (f < 28) && !(bits arg 7 2 == 2 && (f == 10 || f == 12 || f == 14 || f == 16))

/-- Step 9 (a slot word) and the CTLARG part of step 3 (a control op) of R358: no reserved or unused
bit is set. Log entry 43. -/
def rsvOk (i : Instr) : Bool :=
  match i with
  | .add _ o | .sub _ o | .mul _ o | .mulh _ o | .mulhz _ o | .div _ o | .divz _ o | .rem _ o
  | .remz _ o | .and _ o | .or _ o | .xor _ o | .shl _ o | .shr _ o | .sra _ o | .rotl _ o
  | .rotr _ o | .min _ o | .max _ o | .minz _ o | .maxz _ o | .sext _ o | .zext _ o | .cmp _ o
  | .pand _ o | .por _ o | .pxor _ o | .caprs _ o | .capq _ o | .enqt _ o | .enqm _ o | .deqm _ o =>
    o.unused true true true false
  | .addi _ o | .muli _ o | .andi _ o | .ori _ o | .xori _ o | .cmpi _ o =>
    o.unused true true
  | .shli _ o | .shri _ o | .srai _ o =>
    o.unused true true && decide (o.imm < 64)
  | .clz _ o | .ctz _ o | .popc _ o | .mov _ o | .pnot _ o | .pmov _ o | .capmv _ o =>
    o.unused true true false false
  | .movi _ _ | .movhi _ _ =>
    true
  | .sel _ o | .caprt _ o =>
    o.unused true true true true
  | .br _ o =>
    o.unused false false false false true
  | .bp _ o =>
    o.unused true false false false true
  | .jmp _ o | .ret _ o =>
    o.unused false false true false false
  | .call _ o =>
    o.unused false false true false true
  | .loop _ o =>
    o.unused false true true false true
  | .loopi _ o =>
    o.unused false true false true true
  | .nop _ o | .eret _ o | .ctxout _ o | .endc _ o | .next _ o =>
    o.unused false false false false
  | .lea _ o | .cclean _ o | .cinval _ o | .cflush _ o =>
    o.unused true false false false false
  | .ld _ o | .st _ o =>
    o.unused true false true true true
  | .pf _ o =>
    o.unused false false false true true
  | .amoAdd _ o | .amoFadd _ o | .amoMin _ o | .amoMax _ o | .amoMinz _ o | .amoMaxz _ o
  | .amoAnd _ o | .amoOr _ o | .amoXor _ o | .amoSwap _ o | .amoCas _ o =>
    o.unused true true true true true
  | .mfsr _ o | .mtsr _ o =>
    o.unused true false
  | .trap _ o =>
    o.unused false false && decide (o.imm < 65536)
  | .rdtime _ o | .rdcyc _ o | .bq _ o | .jread _ o | .wq _ o =>
    o.unused true false false false
  | .barInit _ o =>
    o.unused false true && decide (o.imm < 2048)
  | .barArrive _ o | .barQuery _ o =>
    o.unused true false && decide (o.imm < 1024)
  | .barWait _ o =>
    o.unused false true && decide (o.imm < 1024)
  | .barAw _ o =>
    o.unused false false && decide (o.imm < 1024)
  | .cpjoin _ o =>
    o.unused false false && decide (o.imm < 2 ^ 32)
  | .widen _ o =>
    o.unused false false && decide (o.imm < 8) && !(decide (4 ≤ o.imm) && o.imm % 4 != 0)
  | .fmtA _ arg | .fmtW _ arg | .fmtO _ arg | .fmtV _ arg =>
    fmtRsv arg
  | .fmtS _ arg =>
    decide (arg < 1024)
  | .rm _ arg =>
    decide (arg < 8)
  | .seed _ arg =>
    decide (arg < 131072)
  | .cbsel _ arg =>
    decide (arg < 2)
  | .stepset _ _ =>
    true
  | .tdef _ o =>
    o.unused true false false 1
  | .tshape _ o | .tstep _ o | .vrarg _ _ o | .vscan _ _ o | .vcscan _ _ o | .vunpk _ o
  | .vquant _ o | .vstat _ o =>
    o.unused true false false 2
  | .tview _ o | .tclr _ o =>
    o.unused false false false 2
  | .tstate _ o | .viota _ _ o =>
    o.unused false false false 4
  | .vadd _ _ o | .vsub _ _ o | .vmul _ _ o | .vmin _ _ o | .vmax _ _ o | .vand _ _ o | .vor _ _ o
  | .vxor _ _ o | .vshl _ _ o | .vshr _ _ o | .vsra _ _ o | .vrcpf _ _ o | .vrsqf _ _ o | .vperm _ o
  | .vgath _ o | .vscat _ o | .vpack _ o | .vscal _ _ o =>
    o.unused true true false 1
  | .vfma _ _ o | .vfms _ _ o | .vfnma _ _ o | .vclamp _ _ o | .vsel _ _ o =>
    o.unused true true true 1
  | .vabs _ _ o | .vneg _ _ o | .vnot _ _ o | .vmov _ o | .vcvt _ o | .vrcp _ _ o | .vrsq _ _ o
  | .vexp2 _ _ o | .vlog2 _ _ o | .vtanh _ _ o | .vlgst _ _ o | .vsqrt _ _ o | .vrsum _ _ o
  | .vcsum _ _ o | .vrmax _ _ o | .vcmax _ _ o | .vrmin _ _ o | .vcmin _ _ o | .vtrans _ o =>
    o.unused true false false 1
  | .vcmp _ _ o | .vdeq _ o =>
    o.unused true true false 8
  | .vbcast _ o =>
    o.unused true false false 4
  | .vtopk _ _ o =>
    o.unused true true false 2
  | .mloadw _ o | .mloadwt _ o | .mcbl _ o =>
    o.unused false true false false true
  | .mswap _ o =>
    o.unused false false false false false
  | .mma _ o =>
    o.unused true true false true true
  | .mzero _ o | .moutl _ o =>
    o.unused true false false false false
  | .mdrain _ o =>
    o.unused true true true true false
  | .mscl _ o =>
    o.unused true true false false false
  | .mstat _ o =>
    o.unused true true false true false
  | .vcbl _ o =>
    o.unused false true false false false
  | .cpLd _ o =>
    o.unused 128 true true true true false true
  | .cpSt _ o | .cpAcc _ o =>
    o.unused 128 true true true true true true
  | .cpSs _ o | .cpBc _ o =>
    o.unused 128 true true true false true false
  | .cpMm _ o | .cpGath _ o =>
    o.unused 128 true true true true false false
  | .cpScat _ o =>
    o.unused 128 true true true true true false
  | .cpFill _ o =>
    o.unused 128 false false true false false false
  | .cpPf _ o =>
    o.unused 1 true true true true false true
  | .cpCancel _ o | .cpRes _ o =>
    o.unused 1 false true false false false false
  | .cpPat _ o =>
    o.unused 8 true true false true false false
  | _ => true

/-- Step 10 (a slot word) and step 4 (a control op) of R358: every register, tile operand and value
code is assigned. -/
def opOk (i : Instr) : Bool :=
  match i with
  | .add _ _ | .sub _ _ | .mul _ _ | .mulh _ _ | .mulhz _ _ | .div _ _ | .divz _ _ | .rem _ _
  | .remz _ _ | .and _ _ | .or _ _ | .xor _ _ | .shl _ _ | .shr _ _ | .sra _ _ | .rotl _ _
  | .rotr _ _ | .clz _ _ | .ctz _ _ | .popc _ _ | .min _ _ | .max _ _ | .minz _ _ | .maxz _ _
  | .mov _ _ | .nop _ _ | .eret _ _ | .ctxout _ _ | .endc _ _ | .rdtime _ _ | .rdcyc _ _ | .next _ _
  | .enqm _ _ | .bq _ _ | .jread _ _ | .wq _ _ =>
    true
  | .addi _ _ | .muli _ _ | .andi _ _ | .ori _ _ | .xori _ _ | .shli _ _ | .shri _ _ | .srai _ _
  | .mfsr _ _ | .mtsr _ _ | .trap _ _ | .barInit _ _ | .barArrive _ _ | .barWait _ _ | .barAw _ _
  | .barQuery _ _ | .cpjoin _ _ | .widen _ _ =>
    true
  | .sext _ o | .zext _ o =>
    decide (o.c < 3)
  | .movi _ _ | .movhi _ _ =>
    true
  | .sel _ o =>
    decide (o.d < 8)
  | .cmp _ o =>
    decide (o.a / 8 < 6)
  | .cmpi _ o =>
    decide (o.a / 8 < 6)
  | .pand _ o | .por _ o | .pxor _ o =>
    decide (o.a < 8) && decide (o.b < 8) && decide (o.c < 8)
  | .pnot _ o | .pmov _ o =>
    decide (o.a < 8) && decide (o.b < 8)
  | .br _ _ | .bp _ _ | .jmp _ _ | .call _ _ | .ret _ _ | .loop _ _ | .loopi _ _ =>
    true
  | .lea _ o =>
    decide (o.a < 16)
  | .caprs _ o | .caprt _ o | .capmv _ o =>
    decide (o.a < 16) && decide (o.b < 16)
  | .capq _ o =>
    decide (o.b < 16) && decide (o.c < 4)
  | .ld _ o =>
    !(o.ext == 1 && o.w == 3)
  | .st _ o | .pf _ o =>
    o.ext == 0
  | .cclean _ _ | .cinval _ _ | .cflush _ _ =>
    true
  | .amoAdd _ o | .amoMin _ o | .amoMax _ o | .amoMinz _ o | .amoMaxz _ o | .amoAnd _ o | .amoOr _ o
  | .amoXor _ o | .amoSwap _ o | .amoCas _ o =>
    decide (2 ≤ o.w) && o.ext == 0 && o.hint == 0
  | .amoFadd _ o =>
    o.w == 2 && o.ext == 0 && o.hint == 0
  | .enqt _ o =>
    decide (o.b < 16)
  | .deqm _ o =>
    decide (o.a < 8)
  | .fmtA _ arg | .fmtW _ arg | .fmtO _ arg | .fmtV _ arg =>
    fmtCodes arg
  | .fmtS _ arg =>
    decide (arg % 128 < 64) && decide (arg / 128 < 5)
  | .rm _ arg =>
    decide (arg < 5)
  | .seed _ _ | .cbsel _ _ | .stepset _ _ =>
    true
  | .tdef _ o =>
    o.codes true false false false 1
  | .tshape _ o | .tview _ o | .tstep _ o | .tclr _ o | .vrarg _ _ o | .vscan _ _ o | .vcscan _ _ o
  | .vunpk _ o | .vquant _ o | .vstat _ o =>
    o.codes false false false false 2
  | .tstate _ o =>
    o.codes false false false false 4 && o.flags % 2 == 0
  | .vadd _ _ o | .vsub _ _ o | .vmul _ _ o | .vmin _ _ o | .vmax _ _ o | .vand _ _ o | .vor _ _ o
  | .vxor _ _ o | .vshl _ _ o | .vshr _ _ o | .vsra _ _ o | .vrcpf _ _ o | .vrsqf _ _ o
  | .vscal _ _ o =>
    o.codes false true true false 1
  | .vfma _ _ o | .vfms _ _ o | .vfnma _ _ o | .vclamp _ _ o | .vsel _ _ o =>
    o.codes false true true true 1
  | .vabs _ _ o | .vneg _ _ o | .vnot _ _ o | .vmov _ o | .vcvt _ o | .vrcp _ _ o | .vrsq _ _ o
  | .vexp2 _ _ o | .vlog2 _ _ o | .vtanh _ _ o | .vlgst _ _ o | .vsqrt _ _ o =>
    o.codes false true false false 1
  | .vcmp _ _ o =>
    o.codes false true true false 6
  | .vbcast _ o | .viota _ _ o =>
    o.codes false false false false 3
  | .vrsum _ _ o | .vcsum _ _ o | .vrmax _ _ o | .vcmax _ _ o | .vrmin _ _ o | .vcmin _ _ o
  | .vtrans _ o =>
    o.codes false false false false 1
  | .vperm _ o | .vgath _ o | .vscat _ o | .vpack _ o =>
    o.codes false false true false 1
  | .vtopk _ _ o =>
    o.codes false false true false 2
  | .vdeq _ o =>
    o.codes false false true false 6
  | .mloadw _ o | .mloadwt _ o | .mcbl _ o | .vcbl _ o =>
    isTile o.y
  | .mswap _ _ =>
    true
  | .mma _ o | .mscl _ o =>
    isAcc o.x && isTile o.y
  | .mzero _ o =>
    isAcc o.x
  | .mdrain _ o =>
    isTile o.x && isAcc o.y && isTile o.z && isTile o.w
  | .moutl _ o =>
    isTile o.x
  | .mstat _ o =>
    isTile o.x && isOperand o.y
  | .cpLd _ o | .cpSt _ o =>
    isOperand o.t
  | .cpSs _ o | .cpGath _ o | .cpScat _ o | .cpBc _ o | .cpAcc _ o | .cpFill _ o =>
    isTile o.t
  | .cpMm _ _ | .cpPf _ _ | .cpCancel _ _ | .cpRes _ _ | .cpPat _ _ =>
    true
  | _ => true

/-! ## Opcode tables -/

/-- Class of a V operation (R132): which compute-format codes it is assigned for. -/
inductive CfClass where
  | A | F | I | N
  deriving DecidableEq, Repr

/-- The CF values assigned for a class (R132). -/
def CfClass.has (c : CfClass) (cf : Nat) : Bool :=
  match c with
  | .A => decide (cf ≤ 6)
  | .F => decide (cf ≤ 4)
  | .I => cf == 0 || cf == 5 || cf == 6
  | .N => cf == 0

/-- Integer instructions (R129, R157). -/
def sInt : List (Nat × (Head → Nat → Instr)) :=
  [(0x000, fun h w => .add h (getSR w)),
   (0x001, fun h w => .addi h (getSI w)),
   (0x002, fun h w => .sub h (getSR w)),
   (0x003, fun h w => .mul h (getSR w)),
   (0x004, fun h w => .muli h (getSI w)),
   (0x005, fun h w => .mulh h (getSR w)),
   (0x006, fun h w => .mulhz h (getSR w)),
   (0x007, fun h w => .div h (getSR w)),
   (0x008, fun h w => .divz h (getSR w)),
   (0x009, fun h w => .rem h (getSR w)),
   (0x00A, fun h w => .remz h (getSR w)),
   (0x00B, fun h w => .and h (getSR w)),
   (0x00C, fun h w => .andi h (getSI w)),
   (0x00D, fun h w => .or h (getSR w)),
   (0x00E, fun h w => .ori h (getSI w)),
   (0x00F, fun h w => .xor h (getSR w)),
   (0x010, fun h w => .xori h (getSI w)),
   (0x011, fun h w => .shl h (getSR w)),
   (0x012, fun h w => .shli h (getSI w)),
   (0x013, fun h w => .shr h (getSR w)),
   (0x014, fun h w => .shri h (getSI w)),
   (0x015, fun h w => .sra h (getSR w)),
   (0x016, fun h w => .srai h (getSI w)),
   (0x017, fun h w => .rotl h (getSR w)),
   (0x018, fun h w => .rotr h (getSR w)),
   (0x019, fun h w => .clz h (getSR w)),
   (0x01A, fun h w => .ctz h (getSR w)),
   (0x01B, fun h w => .popc h (getSR w)),
   (0x01C, fun h w => .min h (getSR w)),
   (0x01D, fun h w => .max h (getSR w)),
   (0x01E, fun h w => .minz h (getSR w)),
   (0x01F, fun h w => .maxz h (getSR w)),
   (0x020, fun h w => .sext h (getSR w)),
   (0x021, fun h w => .zext h (getSR w)),
   (0x022, fun h w => .mov h (getSR w)),
   (0x023, fun h w => .movi h (getSL w)),
   (0x024, fun h w => .movhi h (getSL w)),
   (0x025, fun h w => .sel h (getSR w))]

/-- Predicates, control and capabilities (R129, R160, R161, R164). -/
def sPred : List (Nat × (Head → Nat → Instr)) :=
  [(0x040, fun h w => .cmp h (getSR w)),
   (0x041, fun h w => .cmpi h (getSI w)),
   (0x042, fun h w => .pand h (getSR w)),
   (0x043, fun h w => .por h (getSR w)),
   (0x044, fun h w => .pxor h (getSR w)),
   (0x045, fun h w => .pnot h (getSR w)),
   (0x046, fun h w => .pmov h (getSR w)),
   (0x060, fun h w => .br h (getSB w)),
   (0x061, fun h w => .bp h (getSB w)),
   (0x062, fun h w => .jmp h (getSB w)),
   (0x063, fun h w => .call h (getSB w)),
   (0x064, fun h w => .ret h (getSB w)),
   (0x065, fun h w => .loop h (getSB w)),
   (0x066, fun h w => .loopi h (getSB w)),
   (0x067, fun h w => .nop h (getSR w)),
   (0x080, fun h w => .lea h (getSM w)),
   (0x081, fun h w => .caprs h (getSR w)),
   (0x082, fun h w => .caprt h (getSR w)),
   (0x083, fun h w => .capq h (getSR w)),
   (0x084, fun h w => .capmv h (getSR w))]

/-- Memory and atomics (R129, R168, R170, R171). -/
def sMem : List (Nat × (Head → Nat → Instr)) :=
  [(0x0A0, fun h w => .ld h (getSM w)),
   (0x0A1, fun h w => .st h (getSM w)),
   (0x0A2, fun h w => .pf h (getSM w)),
   (0x0A3, fun h w => .cclean h (getSM w)),
   (0x0A4, fun h w => .cinval h (getSM w)),
   (0x0A5, fun h w => .cflush h (getSM w)),
   (0x0C0, fun h w => .amoAdd h (getSM w)),
   (0x0C1, fun h w => .amoFadd h (getSM w)),
   (0x0C2, fun h w => .amoMin h (getSM w)),
   (0x0C3, fun h w => .amoMax h (getSM w)),
   (0x0C4, fun h w => .amoMinz h (getSM w)),
   (0x0C5, fun h w => .amoMaxz h (getSM w)),
   (0x0C6, fun h w => .amoAnd h (getSM w)),
   (0x0C7, fun h w => .amoOr h (getSM w)),
   (0x0C8, fun h w => .amoXor h (getSM w)),
   (0x0C9, fun h w => .amoSwap h (getSM w)),
   (0x0CA, fun h w => .amoCas h (getSM w))]

/-- System, team and energy instructions (R129, R183, R256). -/
def sSys : List (Nat × (Head → Nat → Instr)) :=
  [(0x100, fun h w => .mfsr h (getSI w)),
   (0x101, fun h w => .mtsr h (getSI w)),
   (0x102, fun h w => .trap h (getSI w)),
   (0x103, fun h w => .eret h (getSR w)),
   (0x104, fun h w => .ctxout h (getSR w)),
   (0x105, fun h w => .endc h (getSR w)),
   (0x106, fun h w => .rdtime h (getSR w)),
   (0x107, fun h w => .rdcyc h (getSR w)),
   (0x120, fun h w => .barInit h (getSI w)),
   (0x121, fun h w => .barArrive h (getSI w)),
   (0x122, fun h w => .barWait h (getSI w)),
   (0x123, fun h w => .barAw h (getSI w)),
   (0x124, fun h w => .barQuery h (getSI w)),
   (0x125, fun h w => .next h (getSR w)),
   (0x126, fun h w => .enqt h (getSR w)),
   (0x127, fun h w => .enqm h (getSR w)),
   (0x128, fun h w => .deqm h (getSR w)),
   (0x129, fun h w => .cpjoin h (getSI w)),
   (0x12A, fun h w => .widen h (getSI w)),
   (0x140, fun h w => .bq h (getSR w)),
   (0x141, fun h w => .jread h (getSR w)),
   (0x142, fun h w => .wq h (getSR w))]

/-- The S-slot opcodes (R129). -/
def sTable : List (Nat × (Head → Nat → Instr)) := sInt ++ sPred ++ sMem ++ sSys

/-- V operations 0 to 29 (R132, R199). -/
def vLow : List (Nat × CfClass × (Head → Nat → Nat → Instr)) :=
  [(0, .N, fun h _ w => .tdef h (getVT w)),
   (1, .N, fun h _ w => .tshape h (getVT w)),
   (2, .N, fun h _ w => .tview h (getVT w)),
   (3, .N, fun h _ w => .tstate h (getVT w)),
   (4, .N, fun h _ w => .tstep h (getVT w)),
   (5, .N, fun h _ w => .tclr h (getVT w)),
   (6, .A, fun h cf w => .vadd h cf (getVT w)),
   (7, .A, fun h cf w => .vsub h cf (getVT w)),
   (8, .A, fun h cf w => .vmul h cf (getVT w)),
   (9, .F, fun h cf w => .vfma h cf (getVT w)),
   (10, .F, fun h cf w => .vfms h cf (getVT w)),
   (11, .F, fun h cf w => .vfnma h cf (getVT w)),
   (12, .A, fun h cf w => .vmin h cf (getVT w)),
   (13, .A, fun h cf w => .vmax h cf (getVT w)),
   (14, .A, fun h cf w => .vabs h cf (getVT w)),
   (15, .A, fun h cf w => .vneg h cf (getVT w)),
   (16, .A, fun h cf w => .vclamp h cf (getVT w)),
   (17, .A, fun h cf w => .vsel h cf (getVT w)),
   (18, .A, fun h cf w => .vcmp h cf (getVT w)),
   (19, .I, fun h cf w => .vand h cf (getVT w)),
   (20, .I, fun h cf w => .vor h cf (getVT w)),
   (21, .I, fun h cf w => .vxor h cf (getVT w)),
   (22, .I, fun h cf w => .vnot h cf (getVT w)),
   (23, .I, fun h cf w => .vshl h cf (getVT w)),
   (24, .I, fun h cf w => .vshr h cf (getVT w)),
   (25, .I, fun h cf w => .vsra h cf (getVT w)),
   (26, .N, fun h _ w => .vmov h (getVT w)),
   (27, .N, fun h _ w => .vbcast h (getVT w)),
   (28, .A, fun h cf w => .viota h cf (getVT w)),
   (29, .N, fun h _ w => .vcvt h (getVT w))]

/-- V operations 30 to 58 (R132, R199). -/
def vHigh : List (Nat × CfClass × (Head → Nat → Nat → Instr)) :=
  [(30, .F, fun h cf w => .vrcp h cf (getVT w)),
   (31, .F, fun h cf w => .vrsq h cf (getVT w)),
   (32, .F, fun h cf w => .vrcpf h cf (getVT w)),
   (33, .F, fun h cf w => .vrsqf h cf (getVT w)),
   (34, .F, fun h cf w => .vexp2 h cf (getVT w)),
   (35, .F, fun h cf w => .vlog2 h cf (getVT w)),
   (36, .F, fun h cf w => .vtanh h cf (getVT w)),
   (37, .F, fun h cf w => .vlgst h cf (getVT w)),
   (38, .F, fun h cf w => .vsqrt h cf (getVT w)),
   (39, .A, fun h cf w => .vrsum h cf (getVT w)),
   (40, .A, fun h cf w => .vcsum h cf (getVT w)),
   (41, .A, fun h cf w => .vrmax h cf (getVT w)),
   (42, .A, fun h cf w => .vcmax h cf (getVT w)),
   (43, .A, fun h cf w => .vrmin h cf (getVT w)),
   (44, .A, fun h cf w => .vcmin h cf (getVT w)),
   (45, .A, fun h cf w => .vrarg h cf (getVT w)),
   (46, .A, fun h cf w => .vscan h cf (getVT w)),
   (47, .A, fun h cf w => .vcscan h cf (getVT w)),
   (48, .N, fun h _ w => .vtrans h (getVT w)),
   (49, .N, fun h _ w => .vperm h (getVT w)),
   (50, .N, fun h _ w => .vgath h (getVT w)),
   (51, .N, fun h _ w => .vscat h (getVT w)),
   (52, .N, fun h _ w => .vpack h (getVT w)),
   (53, .N, fun h _ w => .vunpk h (getVT w)),
   (54, .A, fun h cf w => .vtopk h cf (getVT w)),
   (55, .N, fun h _ w => .vquant h (getVT w)),
   (56, .N, fun h _ w => .vdeq h (getVT w)),
   (57, .F, fun h cf w => .vscal h cf (getVT w)),
   (58, .N, fun h _ w => .vstat h (getVT w))]

/-- The V-slot operations (R132). -/
def vTable : List (Nat × CfClass × (Head → Nat → Nat → Instr)) := vLow ++ vHigh

/-- The M-slot opcodes (R133). -/
def mTable : List (Nat × (Head → Nat → Instr)) :=
  [(0x000, fun h w => .mloadw h (getMT w)),
   (0x001, fun h w => .mloadwt h (getMT w)),
   (0x002, fun h w => .mswap h (getMT w)),
   (0x003, fun h w => .mma h (getMT w)),
   (0x004, fun h w => .mzero h (getMT w)),
   (0x005, fun h w => .mdrain h (getMT w)),
   (0x006, fun h w => .mcbl h (getMT w)),
   (0x007, fun h w => .moutl h (getMT w)),
   (0x008, fun h w => .mscl h (getMT w)),
   (0x009, fun h w => .mstat h (getMT w)),
   (0x00A, fun h w => .vcbl h (getMT w))]

/-- The C-slot opcodes (R134). -/
def cTable : List (Nat × (Head → Nat → Instr)) :=
  [(0x000, fun h w => .cpLd h (getCP w)),
   (0x001, fun h w => .cpSt h (getCP w)),
   (0x002, fun h w => .cpSs h (getCP w)),
   (0x003, fun h w => .cpMm h (getCP w)),
   (0x004, fun h w => .cpGath h (getCP w)),
   (0x005, fun h w => .cpScat h (getCP w)),
   (0x006, fun h w => .cpBc h (getCP w)),
   (0x007, fun h w => .cpAcc h (getCP w)),
   (0x008, fun h w => .cpFill h (getCP w)),
   (0x009, fun h w => .cpPf h (getCP w)),
   (0x00A, fun h w => .cpCancel h (getCP w)),
   (0x00B, fun h w => .cpRes h (getCP w)),
   (0x00C, fun h w => .cpPat h (getCP w))]

/-- The header control opcodes (R135). -/
def ctlTable : List (Nat × (Attr → Nat → Instr)) :=
  [(1, fun a w => .fmtA a w),
   (2, fun a w => .fmtW a w),
   (3, fun a w => .fmtO a w),
   (4, fun a w => .fmtV a w),
   (5, fun a w => .fmtS a w),
   (6, fun a w => .rm a w),
   (7, fun a w => .seed a w),
   (8, fun a w => .cbsel a w),
   (9, fun a w => .stepset a w)]

/-- The constructor that an S, M or C opcode names, built on a head and a word. -/
def pickRow (t : List (Nat × (Head → Nat → Instr))) (op : Nat) : Option (Head → Nat → Instr) :=
  match t with
  | [] => none
  | (c, f) :: r => if c = op then some f else pickRow r op

/-- The constructor that a V opcode OP × 16 + CF names (R130, R132). -/
def pickV (t : List (Nat × CfClass × (Head → Nat → Nat → Instr))) (op cf : Nat) :
    Option (Head → Nat → Instr) :=
  match t with
  | [] => none
  | (c, k, f) :: r => if c = op then (if k.has cf then some (fun h w => f h cf w) else none)
      else pickV r op cf

/-- The constructor that a slot word's OPCODE names in its slot's opcode space (R126). -/
def opcodeRow (slot : Slot) (op : Nat) : Option (Head → Nat → Instr) :=
  match slot with
  | .S => pickRow sTable op
  | .V0 | .V1 => pickV vTable (op / 16) (op % 16)
  | .M => pickRow mTable op
  | .C0 | .C1 => pickRow cTable op

/-- Steps 7 to 10 of R358 for the slot word at the place of `slot`. -/
def decodeSlot (slot : Slot) (w : Nat) : Except DecErr Instr :=
  if bits w 77 3 ≠ slot.num then .error .badSlotClass else
  match opcodeRow slot (bits w 67 10) with
  | none => .error .badOpcode
  | some f =>
    let i := f (getHead slot w) w
    if rsvOk i = false then .error .reservedSet
    else if opOk i = false then .error .badOperand
    else .ok i

/-- The header's attributes (R104). -/
def getAttr (w : Nat) : Attr :=
  { present := bits w 71 6, sticky := bits w 65 6, rep := bits w 57 8, fix := bits w 56 1,
    hw := bits w 55 1, yld := bits w 54 1 }

/-- A header word from its attributes, CTLOP and CTLARG (R104). -/
def Attr.put (a : Attr) (op arg : Nat) : Nat :=
  7 * 2 ^ 77 + a.present * 2 ^ 71 + a.sticky * 2 ^ 65 + a.rep * 2 ^ 57 + a.fix * 2 ^ 56 +
    a.hw * 2 ^ 55 + a.yld * 2 ^ 54 + op * 2 ^ 42 + arg * 2 ^ 24

/-- The control op that CTLOP names (R135). -/
def pickCtl (t : List (Nat × (Attr → Nat → Instr))) (op : Nat) : Option (Attr → Nat → Instr) :=
  match t with
  | [] => none
  | (c, f) :: r => if c = op then some f else pickCtl r op

/-- Steps 1 to 4 of R358: the header's attributes, and its control op where it carries one. -/
def decodeHeader (w : Nat) : Except DecErr (Attr × Option Instr) :=
  if bits w 77 3 ≠ 7 then .error .badHeader else
  let op := bits w 42 6
  let arg := bits w 24 18
  if op = 0 then
    if bits w 48 6 ≠ 0 ∨ bits w 0 24 ≠ 0 ∨ arg ≠ 0 then .error .reservedSet
    else .ok (getAttr w, none)
  else
    match pickCtl ctlTable op with
    | none => .error .badOpcode
    | some f =>
      let i := f (getAttr w) arg
      if bits w 48 6 ≠ 0 ∨ bits w 0 24 ≠ 0 ∨ rsvOk i = false then .error .reservedSet
      else if opOk i = false then .error .badOperand
      else .ok (getAttr w, some i)

/-! ## Encoding -/

/-- Head, OPCODE and operand field of a slot instruction; none for a control op or an event. -/
def slotParts (i : Instr) : Option (Head × Nat × Nat) :=
  match i with
  | .add h o => some (h, 0x000, o.put)
  | .addi h o => some (h, 0x001, o.put)
  | .sub h o => some (h, 0x002, o.put)
  | .mul h o => some (h, 0x003, o.put)
  | .muli h o => some (h, 0x004, o.put)
  | .mulh h o => some (h, 0x005, o.put)
  | .mulhz h o => some (h, 0x006, o.put)
  | .div h o => some (h, 0x007, o.put)
  | .divz h o => some (h, 0x008, o.put)
  | .rem h o => some (h, 0x009, o.put)
  | .remz h o => some (h, 0x00A, o.put)
  | .and h o => some (h, 0x00B, o.put)
  | .andi h o => some (h, 0x00C, o.put)
  | .or h o => some (h, 0x00D, o.put)
  | .ori h o => some (h, 0x00E, o.put)
  | .xor h o => some (h, 0x00F, o.put)
  | .xori h o => some (h, 0x010, o.put)
  | .shl h o => some (h, 0x011, o.put)
  | .shli h o => some (h, 0x012, o.put)
  | .shr h o => some (h, 0x013, o.put)
  | .shri h o => some (h, 0x014, o.put)
  | .sra h o => some (h, 0x015, o.put)
  | .srai h o => some (h, 0x016, o.put)
  | .rotl h o => some (h, 0x017, o.put)
  | .rotr h o => some (h, 0x018, o.put)
  | .clz h o => some (h, 0x019, o.put)
  | .ctz h o => some (h, 0x01A, o.put)
  | .popc h o => some (h, 0x01B, o.put)
  | .min h o => some (h, 0x01C, o.put)
  | .max h o => some (h, 0x01D, o.put)
  | .minz h o => some (h, 0x01E, o.put)
  | .maxz h o => some (h, 0x01F, o.put)
  | .sext h o => some (h, 0x020, o.put)
  | .zext h o => some (h, 0x021, o.put)
  | .mov h o => some (h, 0x022, o.put)
  | .movi h o => some (h, 0x023, o.put)
  | .movhi h o => some (h, 0x024, o.put)
  | .sel h o => some (h, 0x025, o.put)
  | .cmp h o => some (h, 0x040, o.put)
  | .cmpi h o => some (h, 0x041, o.put)
  | .pand h o => some (h, 0x042, o.put)
  | .por h o => some (h, 0x043, o.put)
  | .pxor h o => some (h, 0x044, o.put)
  | .pnot h o => some (h, 0x045, o.put)
  | .pmov h o => some (h, 0x046, o.put)
  | .br h o => some (h, 0x060, o.put)
  | .bp h o => some (h, 0x061, o.put)
  | .jmp h o => some (h, 0x062, o.put)
  | .call h o => some (h, 0x063, o.put)
  | .ret h o => some (h, 0x064, o.put)
  | .loop h o => some (h, 0x065, o.put)
  | .loopi h o => some (h, 0x066, o.put)
  | .nop h o => some (h, 0x067, o.put)
  | .lea h o => some (h, 0x080, o.put)
  | .caprs h o => some (h, 0x081, o.put)
  | .caprt h o => some (h, 0x082, o.put)
  | .capq h o => some (h, 0x083, o.put)
  | .capmv h o => some (h, 0x084, o.put)
  | .ld h o => some (h, 0x0A0, o.put)
  | .st h o => some (h, 0x0A1, o.put)
  | .pf h o => some (h, 0x0A2, o.put)
  | .cclean h o => some (h, 0x0A3, o.put)
  | .cinval h o => some (h, 0x0A4, o.put)
  | .cflush h o => some (h, 0x0A5, o.put)
  | .amoAdd h o => some (h, 0x0C0, o.put)
  | .amoFadd h o => some (h, 0x0C1, o.put)
  | .amoMin h o => some (h, 0x0C2, o.put)
  | .amoMax h o => some (h, 0x0C3, o.put)
  | .amoMinz h o => some (h, 0x0C4, o.put)
  | .amoMaxz h o => some (h, 0x0C5, o.put)
  | .amoAnd h o => some (h, 0x0C6, o.put)
  | .amoOr h o => some (h, 0x0C7, o.put)
  | .amoXor h o => some (h, 0x0C8, o.put)
  | .amoSwap h o => some (h, 0x0C9, o.put)
  | .amoCas h o => some (h, 0x0CA, o.put)
  | .mfsr h o => some (h, 0x100, o.put)
  | .mtsr h o => some (h, 0x101, o.put)
  | .trap h o => some (h, 0x102, o.put)
  | .eret h o => some (h, 0x103, o.put)
  | .ctxout h o => some (h, 0x104, o.put)
  | .endc h o => some (h, 0x105, o.put)
  | .rdtime h o => some (h, 0x106, o.put)
  | .rdcyc h o => some (h, 0x107, o.put)
  | .barInit h o => some (h, 0x120, o.put)
  | .barArrive h o => some (h, 0x121, o.put)
  | .barWait h o => some (h, 0x122, o.put)
  | .barAw h o => some (h, 0x123, o.put)
  | .barQuery h o => some (h, 0x124, o.put)
  | .next h o => some (h, 0x125, o.put)
  | .enqt h o => some (h, 0x126, o.put)
  | .enqm h o => some (h, 0x127, o.put)
  | .deqm h o => some (h, 0x128, o.put)
  | .cpjoin h o => some (h, 0x129, o.put)
  | .widen h o => some (h, 0x12A, o.put)
  | .bq h o => some (h, 0x140, o.put)
  | .jread h o => some (h, 0x141, o.put)
  | .wq h o => some (h, 0x142, o.put)
  | .tdef h o => some (h, 0 * 16, o.put)
  | .tshape h o => some (h, 1 * 16, o.put)
  | .tview h o => some (h, 2 * 16, o.put)
  | .tstate h o => some (h, 3 * 16, o.put)
  | .tstep h o => some (h, 4 * 16, o.put)
  | .tclr h o => some (h, 5 * 16, o.put)
  | .vadd h cf o => some (h, 6 * 16 + cf, o.put)
  | .vsub h cf o => some (h, 7 * 16 + cf, o.put)
  | .vmul h cf o => some (h, 8 * 16 + cf, o.put)
  | .vfma h cf o => some (h, 9 * 16 + cf, o.put)
  | .vfms h cf o => some (h, 10 * 16 + cf, o.put)
  | .vfnma h cf o => some (h, 11 * 16 + cf, o.put)
  | .vmin h cf o => some (h, 12 * 16 + cf, o.put)
  | .vmax h cf o => some (h, 13 * 16 + cf, o.put)
  | .vabs h cf o => some (h, 14 * 16 + cf, o.put)
  | .vneg h cf o => some (h, 15 * 16 + cf, o.put)
  | .vclamp h cf o => some (h, 16 * 16 + cf, o.put)
  | .vsel h cf o => some (h, 17 * 16 + cf, o.put)
  | .vcmp h cf o => some (h, 18 * 16 + cf, o.put)
  | .vand h cf o => some (h, 19 * 16 + cf, o.put)
  | .vor h cf o => some (h, 20 * 16 + cf, o.put)
  | .vxor h cf o => some (h, 21 * 16 + cf, o.put)
  | .vnot h cf o => some (h, 22 * 16 + cf, o.put)
  | .vshl h cf o => some (h, 23 * 16 + cf, o.put)
  | .vshr h cf o => some (h, 24 * 16 + cf, o.put)
  | .vsra h cf o => some (h, 25 * 16 + cf, o.put)
  | .vmov h o => some (h, 26 * 16, o.put)
  | .vbcast h o => some (h, 27 * 16, o.put)
  | .viota h cf o => some (h, 28 * 16 + cf, o.put)
  | .vcvt h o => some (h, 29 * 16, o.put)
  | .vrcp h cf o => some (h, 30 * 16 + cf, o.put)
  | .vrsq h cf o => some (h, 31 * 16 + cf, o.put)
  | .vrcpf h cf o => some (h, 32 * 16 + cf, o.put)
  | .vrsqf h cf o => some (h, 33 * 16 + cf, o.put)
  | .vexp2 h cf o => some (h, 34 * 16 + cf, o.put)
  | .vlog2 h cf o => some (h, 35 * 16 + cf, o.put)
  | .vtanh h cf o => some (h, 36 * 16 + cf, o.put)
  | .vlgst h cf o => some (h, 37 * 16 + cf, o.put)
  | .vsqrt h cf o => some (h, 38 * 16 + cf, o.put)
  | .vrsum h cf o => some (h, 39 * 16 + cf, o.put)
  | .vcsum h cf o => some (h, 40 * 16 + cf, o.put)
  | .vrmax h cf o => some (h, 41 * 16 + cf, o.put)
  | .vcmax h cf o => some (h, 42 * 16 + cf, o.put)
  | .vrmin h cf o => some (h, 43 * 16 + cf, o.put)
  | .vcmin h cf o => some (h, 44 * 16 + cf, o.put)
  | .vrarg h cf o => some (h, 45 * 16 + cf, o.put)
  | .vscan h cf o => some (h, 46 * 16 + cf, o.put)
  | .vcscan h cf o => some (h, 47 * 16 + cf, o.put)
  | .vtrans h o => some (h, 48 * 16, o.put)
  | .vperm h o => some (h, 49 * 16, o.put)
  | .vgath h o => some (h, 50 * 16, o.put)
  | .vscat h o => some (h, 51 * 16, o.put)
  | .vpack h o => some (h, 52 * 16, o.put)
  | .vunpk h o => some (h, 53 * 16, o.put)
  | .vtopk h cf o => some (h, 54 * 16 + cf, o.put)
  | .vquant h o => some (h, 55 * 16, o.put)
  | .vdeq h o => some (h, 56 * 16, o.put)
  | .vscal h cf o => some (h, 57 * 16 + cf, o.put)
  | .vstat h o => some (h, 58 * 16, o.put)
  | .mloadw h o => some (h, 0x000, o.put)
  | .mloadwt h o => some (h, 0x001, o.put)
  | .mswap h o => some (h, 0x002, o.put)
  | .mma h o => some (h, 0x003, o.put)
  | .mzero h o => some (h, 0x004, o.put)
  | .mdrain h o => some (h, 0x005, o.put)
  | .mcbl h o => some (h, 0x006, o.put)
  | .moutl h o => some (h, 0x007, o.put)
  | .mscl h o => some (h, 0x008, o.put)
  | .mstat h o => some (h, 0x009, o.put)
  | .vcbl h o => some (h, 0x00A, o.put)
  | .cpLd h o => some (h, 0x000, o.put)
  | .cpSt h o => some (h, 0x001, o.put)
  | .cpSs h o => some (h, 0x002, o.put)
  | .cpMm h o => some (h, 0x003, o.put)
  | .cpGath h o => some (h, 0x004, o.put)
  | .cpScat h o => some (h, 0x005, o.put)
  | .cpBc h o => some (h, 0x006, o.put)
  | .cpAcc h o => some (h, 0x007, o.put)
  | .cpFill h o => some (h, 0x008, o.put)
  | .cpPf h o => some (h, 0x009, o.put)
  | .cpCancel h o => some (h, 0x00A, o.put)
  | .cpRes h o => some (h, 0x00B, o.put)
  | .cpPat h o => some (h, 0x00C, o.put)
  | _ => none

/-- Attributes, CTLOP and CTLARG of a header control op. -/
def ctlParts (i : Instr) : Option (Attr × Nat × Nat) :=
  match i with
  | .fmtA a arg => some (a, 1, arg)
  | .fmtW a arg => some (a, 2, arg)
  | .fmtO a arg => some (a, 3, arg)
  | .fmtV a arg => some (a, 4, arg)
  | .fmtS a arg => some (a, 5, arg)
  | .rm a arg => some (a, 6, arg)
  | .seed a arg => some (a, 7, arg)
  | .cbsel a arg => some (a, 8, arg)
  | .stepset a arg => some (a, 9, arg)
  | _ => none

/-- The 80-bit word of an instruction (R104, R105); 0 for an event, which has no word. -/
def encode (i : Instr) : Nat :=
  match slotParts i with
  | some (h, op, body) => h.put op body
  | none =>
    match ctlParts i with
    | some (a, op, arg) => a.put op arg
    | none => 0

/-- The slot whose CLASS code a word carries; none for 0b110 and 0b111 (R105). -/
def classSlot (w : Nat) : Option Slot :=
  match bits w 77 3 with
  | 0 => some .S | 1 => some .V0 | 2 => some .V1 | 3 => some .M | 4 => some .C0 | 5 => some .C1
  | _ => none

/-- Decode a word by its class bits: a slot word in its own slot, or a header with a control op. A
header without one is an instruction of no row but BUNDLE_ISSUE. -/
def decodeWord (w : Nat) : Option Instr :=
  match classSlot w with
  | some sl => match decodeSlot sl w with
    | .ok i => some i
    | .error _ => none
  | none => match decodeHeader w with
    | .ok (_, some i) => some i
    | .ok (_, none) => some (.bundleIssue 0)
    | .error _ => none

/-- What the decoder reads from the ten bytes of an instruction word, laid out as the hardware stores
them (little-endian, R102): `w` has the word's bits, and those above `nbits` are zero. -/
def decodeTableWord (nbits w : Nat) : Option Instr :=
  if w < 2 ^ nbits ∧ w < 2 ^ 80 then decodeWord w else none

end Sys2Proof
end

