-- ==== Sys2Proof/Config.lean ====
section
/-!
DEFINITION. Sys2Proof/Config.lean: what is fixed for the machine, and the free values: constants
without a body, so that nothing can be proved of the number they give. Each is named in the
assumption log.
-/
namespace Sys2Proof.Config

/-- The largest PCIe payload in bytes, which R317 names without a number. PRESUMED (log entry 24). -/
def maxPayload : Nat := 4096

/-- Bytes of a die's ingress buffer (R95). -/
def ingressBytes : Nat := 2 ^ 22

/-- Free value (log entry 4): which piece of an engine thread's accesses comes next (R93). -/
opaque piece : Nat → Nat

/-- Free value (log entry 8): what a byte of a new extent holds that a context of its partition wrote earlier (R59):
the counter, the byte, its last value. -/
opaque oldByte : Nat → Nat → BitVec 8 → BitVec 8

/-- Free value (log entry 109): the core whose request met a corrected error, 256 and above the host (R352). -/
opaque requester : Nat → Nat

/-- Free value (log entry 2): which of the enabled steps comes next when the agenda is empty. -/
opaque pick : Nat → Nat

/-- Free value (log entry 3): nanoseconds of device time that pass before a step. -/
opaque elapse : Nat → Nat

/-- Free value (log entry 10): energy that activity meters on an island in an interval, in eighths of a grain:
the island, its metering coefficients, the counter. -/
opaque metered : Nat → Nat → Nat → Nat

/-- Free value (log entry 10): nanojoules charged to a context by one interval's activity. -/
opaque activity : Nat → Nat → Nat

/-- Free value (log entry 10): wear of a physical core in one interval, in units of 2^-16 wear unit. -/
opaque wearOf : Nat → Nat → Nat

/-- Free value (log entry 10): what a core's monitors report in an interval: 1 the derate threshold, 2 the
retire threshold, else neither. -/
opaque monitor : Nat → Nat → Nat

/-- Free value (log entry 10): temperature in degrees that an island's sensor reads. -/
opaque sensor : Nat → Nat → Nat

/-- Free value (log entry 10): sensed package draw over the last 10 ms, in units of 1/8 W. -/
opaque draw10ms : Nat → Nat

/-- Free value (log entry 10): core cycles and stalled cycles of a core in an interval (R302). -/
opaque cycles : Nat → Nat → Nat
opaque stalls : Nat → Nat → Nat

/-- Free value (log entry 3): core cycles that pass in an interval of ns: the counter, the core, the ns. -/
opaque cyclesIn : Nat → Nat → Nat → Nat

/-- Free value (log entry 7): calibrated VFLOOR of an island before the first test strips (R306). -/
opaque vfloor0 : Nat → Nat

/-- Free value (log entry 7): TRIM code of an island at a setting (R302). -/
opaque trimOf : Nat → Nat → Nat

/-- Free value (log entry 7): BASE of an island in eighths of a grain (R293). -/
opaque base0 : Nat → Nat

/-- Free value (log entry 7): lifetime limit of a physical core, in units of 2^-16 wear unit (R312). -/
opaque limitOf : Nat → Nat

/-- Free value (log entry 7): the highest wear of a core in 10 minutes (R312). -/
opaque maxWear10min : Nat → Nat

/-- Free value (log entry 15): the low bits of a special-function result whose exact value the
model's interval search has not settled. -/
opaque transc : Nat → Nat → Nat

/-- Free value (log entry 38): the draw with which `vtopk` orders a source element under MODE 4. -/
opaque orderDraw : Nat → Nat → BitVec 32

/-- Free value (log entry 11): the bytes of an SPDM answer whose contents the DMTF standard gives. -/
opaque spdm : Nat → Nat → BitVec 64

/-- Free value (log entry 17): an instruction word fetched from a page that is not resident. -/
opaque fetchHole : Nat → Nat → Nat

/-- Free value (log entry 18): the order number in which a page move picks free page frames. -/
opaque frameChoice : Nat → Nat

/-- Free value (log entry 29): what a register (0 to 63 s, 64 p, 72 to 79 h, 80 and 81 step.c0 and c1) and an
accumulator element hold at a restore entry: the launch number of the context, the register. -/
opaque lost : Nat → Nat → BitVec 64

/-- Free value (log entry 19): a byte that a read of PCIe or host memory returns when the agenda
does not give it. -/
opaque pcieData : Nat → BitVec 64

/-- Free value (log entry 125): the 32-byte word of a die that holds its copy of an object's entry (R68). -/
opaque objWord : Nat → Nat → Nat

end Sys2Proof.Config
end

