-- ==== Sys2Proof/Machine/State.lean ====
section
/-!
DEFINITION. Sys2Proof/Machine/State.lean: the state of the EX740 as plain data, its reasons to stop,
and the state after reset. Each field's docstring names the rule that gives it; INVENTORY.md lists
them with their reset values.
-/
namespace Sys2Proof.Machine

/-- Why the machine stops with a fault. No state that the spec describes stops it. -/
inductive Fault where
  /-- Raised by `step` when the compute dies are unpowered after a boot that failed in both slots
  (R405): nothing of the modelled machine runs. Safe. -/
  | bootFailed
  deriving DecidableEq, Repr

/-- Why the machine refuses a step. -/
inductive Refusal where
  /-- An arm of `exec` without a meaning. Safe: nothing can be proved of a run through it. -/
  | notModelled (mnemonic : String)
  deriving DecidableEq, Repr

/-- A context slot's state (R41). -/
inductive SlotSt where
  | free | loading | ready | waiting | supervisor | ending | ended
  deriving DecidableEq, Repr

/-- What a context out of the ready set waits for (R41, R54, R261, R263, R266). -/
inductive Wait where
  /-- Nothing. -/
  | none
  /-- The phase of token `tok` on barrier `n` (R261); `tok` is absent while bar.aw's own arrival is
  not yet counted. -/
  | barrier (n : Nat) (tok : Option Nat)
  /-- A message on queue `q`, to be written to h`a` and s`b` (R266). -/
  | queue (q a b tag : Nat)
  /-- The tag of a pending next (R263). -/
  | claim (tag : Nat)
  /-- ctxout, until the context's outbound threads complete (R54). -/
  | ctxout
  /-- Stopped by a trap in supervisor mode (R187) or by the failure of its team (R357). -/
  | stopped
  deriving DecidableEq, Repr

/-- One loop level (R117): active bit, count, start and end word, and the order of its opening. -/
structure Level where
  active : Bool := false
  count : Nat := 0
  start : Nat := 0
  stop : Nat := 0
  opened : Nat := 0
  deriving DecidableEq, Repr

/-- A slot's last explicit operation and its re-issue index (R114, R181). -/
structure Remembered where
  present : Bool := false
  word : Nat := 0
  k : Nat := 0
  deriving DecidableEq, Repr

/-- A format write that has not taken effect: register 0 to 9 in the order of items 0x170 to 0x179,
CTLARG, remaining issues (R119, R120, R181). -/
structure PendFmt where
  reg : Nat
  arg : Nat
  left : Nat
  /-- Made in supervisor mode: it counts supervisor issues (R120). -/
  sup : Bool := false
  deriving DecidableEq, Repr

/-- A next claim in flight (R181, R262): its begin and end once served, remaining issues, hand-off
register, tag, and the issue that made it. -/
structure Claim where
  /-- Clear for a place among the items that holds no `next` (R181). -/
  valid : Bool := true
  served : Bool := false
  lo : Nat := 0
  hi : Nat := 0
  left : Nat := 0
  h : Nat := 0
  tag : Nat := 0
  seq : Nat := 0
  /-- Its number among all claims, in issue order (R46). -/
  ord : Nat := 0
  deriving DecidableEq, Repr

/-- Where a producer's result goes (R106, R182): user registers, or the supervisor bank. -/
inductive Dst where
  | s (n : Nat) | p (n : Nat) | k (n : Nat) | h (n : Nat) | bankS (n : Nat) | bankK
  | pat (n : Nat) | nothing
  deriving DecidableEq, Repr

/-- A result not yet written: destination, value, the own issue at whose boundary it is written at
the latest, the producing issue, its tag, and whether it comes from a fixed-latency producer (R110,
R112). -/
structure Pend where
  dst : Dst
  val : BitVec 512
  due : Nat
  seq : Nat
  tag : Nat
  fixed : Bool
  deriving DecidableEq, Repr

/-- A fault or error met by an access, waiting for its trap (R169, R249, R346): cause, sr.tval, the
slot word's address, slot, k, the own issue that made it, its number in the core's issue order, and the
tag instance it holds. A check at issue that failed carries the number of no operation, 2^64. -/
structure PendFault where
  code : Nat
  /-- ASYNC; clear for `trap` alone (R185). -/
  async : Bool
  /-- Met by an operation issued in supervisor mode (R345). -/
  sup : Bool
  tval : Word
  tinst : Nat
  slot : Nat
  k : Nat
  seq : Nat
  id : Nat
  tag : Nat
  /-- The issue-order number of the instruction itself, where the operation has been relaunched (R346). -/
  ord : Option Nat := none
  deriving DecidableEq, Repr

/-- A scalar access whose answer has not arrived (R167, R169): the result it will write, or the fault
it met; `pcie` while a PCIe completion is awaited (R382), with the offset, width and sign. -/
structure Acc where
  id : Nat
  dst : Dst
  val : BitVec 512
  minLat : Nat
  seq : Nat
  tag : Nat
  waddr : Nat
  off : Word
  leaves : Bool
  pcie : Bool
  width : Nat
  sgn : Bool
  fault : Option Nat
  /-- Slot number, k, and supervisor mode at issue; a range flush (R170). -/
  sl : Nat
  k : Nat
  sup : Bool
  flush : Bool := false
  /-- Device time of its PCIe request (R382). -/
  asked : Nat := 0
  /-- It failed one of the memory port's checks (R167). -/
  barred : Bool := false
  deriving DecidableEq, Repr

/-- The architectural part of a context that a restart mark captures (R121, R309, R311). -/
structure Arch where
  /-- s0 to s63, default 0 (R106, R156). -/
  s : Tab Word := []
  /-- p0 to p7, bit i for p i; bit 0 reads one (R106, R181). -/
  p : BitVec 8 := 1
  /-- k0 to k15 (R65). -/
  k : Tab (BitVec 128) := []
  /-- h0 to h7 and the next hand-off register (R40, R262). -/
  h : Tab Word := []
  hnext : Nat := 0
  /-- Next claims in flight, oldest first (R52, R181, R262). -/
  claims : List Claim := []
  /-- l0 to l3 (R117). -/
  lv : Tab Level := []
  /-- Tag counters q1 to q31 (R111). -/
  tg : Tab Nat := []
  /-- Remembered operations by slot number 1 to 5 (R114). -/
  rem : Tab Remembered := []
  /-- Remaining repetitions of the bundle at the pc; 0 before repetition 0 (R52, R181, R362). -/
  reps : Nat := 0
  /-- Word address of the next bundle's header (R102, R161). -/
  pc : Nat := 0
  /-- step.c0 and step.c1 (R40, R135). -/
  stepC0 : Word := 0
  stepC1 : Word := 0
  /-- fa, fw, fo, fv, fs, rm (R145). -/
  fa : BitVec 18 := 2
  fw : BitVec 18 := 2
  fo : BitVec 18 := 0
  fv : BitVec 18 := 0
  fs : BitVec 18 := 0
  rm : BitVec 18 := 0
  /-- SEED and DRAW (R145, R149). -/
  seed : BitVec 32 := 0
  draw : BitVec 32 := 0
  /-- cbsel (R145). -/
  cbsel : BitVec 18 := 0
  /-- Pending format writes, oldest first (R119). -/
  pend : List PendFmt := []
  /-- cbA and cbW (R141). -/
  cbA : Tab (BitVec 16) := []
  cbW : Tab (BitVec 16) := []
  /-- ROLE (R214). -/
  role : Nat := 0
  /-- Tile descriptors t0 to t63 (R188). -/
  t : Tab (BitVec 128) := []
  /-- Status words: keys 0 to 63 for tiles, 64 to 71 for accumulators (R151). -/
  st : Tab Word := []
  /-- Accumulators whose STATE is filling, by number (R217); the others are ready. -/
  accFilling : Tab Bool := []
  /-- Progress words: item i of word n at key 16 n + i (R51, R179, R181). -/
  prog : Tab Word := []
  /-- The issue that last wrote each destination (R112). -/
  lastw : Tab Nat := []
  /-- A bar.aw that has arrived and whose wait a yield has ended: header, barrier and token, where it is known (R57,
  R273). -/
  aw : Option (Nat × Nat × Option Nat) := none
  deriving DecidableEq, Repr

/-- A byte's place: scratchpad of a core, device memory, host or PCIe address space (R71, R88). -/
inductive Place where
  | sram (core a : Nat)
  | dev (die pa : Nat)
  /-- `peer`: through an object of KIND 1. -/
  | host (addr : Nat) (peer : Bool)
  deriving DecidableEq, Repr

/-- A piece of an engine thread's access that is still to be written (R88, R93): its first byte, the object and
offset by which it is reached, its bytes, and the bits of each that it writes; or commutative updates of `cp.acc`
(R245); the copy row that it belongs to, and the place of its first byte in that row. -/
structure Chunk where
  pl : Place
  oid : Nat
  o : Nat
  data : List Byte
  mask : List Byte
  upd : Bool := false
  row : Nat := 0
  rowAt : Nat := 0
  deriving DecidableEq, Repr

/-- A source piece of a copy row, still to be read (R88, R93): the row, the place of its first byte in it, where it is
read, the object and offset by which it is reached, and its bytes. -/
structure Unread where
  row : Nat
  rowAt : Nat
  pl : Place
  oid : Nat
  o : Nat
  n : Nat
  deriving DecidableEq, Repr

/-- What a barrier arrival gives its arriver: a token register with its tag, the wait of bar.aw, or
nothing (a copy) (R250, R261). -/
inductive ArrFor where
  | token (dst : Dst) (seq tag : Nat)
  | await
  | copy (waddr sl k seq id : Nat) (sup : Bool) (ord : Option Nat)
  deriving DecidableEq, Repr

/-- A gated item of an open or closed region that is not an engine operation (R272). -/
inductive Gated where
  | arrive (n seq : Nat) (dst : Dst) (tag : Nat) (aw : Bool)
  | enqt (id seq k : Nat) (dst : Dst) (tag waddr : Nat) (off : Word) (cap : BitVec 128)
      (caps : Tab (BitVec 128)) (time : Nat)
  | enqm (seq : Nat) (dst : Dst) (tag tidx q : Nat) (ack : Bool) (payload : Word)
  deriving DecidableEq, Repr

/-- A message in a receive queue (R265, R266): sender's team index, payload, logical time. -/
structure Msg where
  src : Nat
  val : Word
  time : Nat
  deriving DecidableEq, Repr

/-- A restart mark's shadow set (R308, R309): the opening state, the own issue before which the mark
stands, and the results of operations before the mark that have been written since (log entry 46). -/
structure Shadow where
  arch : Arch
  seq : Nat
  late : List Pend := []
  /-- Names the mark across rollbacks to it (R392). -/
  mark : Nat
  deriving DecidableEq, Repr

/-- One context (R23, R40, R41). -/
structure Ctx where
  /-- Slot state (R41) and wait. -/
  st : SlotSt := .free
  wait : Wait := .none
  /-- The user architectural state. -/
  a : Arch := {}
  /-- Supervisor mode, and its own pc, remaining repetitions, loop levels and remembered operations
  (R175, R365). -/
  sup : Bool := false
  spc : Nat := 0
  sreps : Nat := 0
  slv : Tab Level := []
  srem : Tab Remembered := []
  /-- Supervisor bank k0, s1 to s7 (R182). -/
  bankK : BitVec 128 := 0
  bankS : Tab Word := []
  /-- SUPOID, VEC taken at the entry to supervisor mode (R327). -/
  supOid : Nat := 0
  vec : Nat := 0
  /-- YPEND (R175), and a yield request not yet taken (R50). -/
  ypend : Bool := false
  /-- sr.cause, sr.epc, sr.tval, sr.tinst (R176, R177), sr.isel (R181). -/
  cause : Word := 0
  epc : Word := 0
  tval : Word := 0
  tinst : Word := 0
  isel : Word := 0
  /-- sr.ctx fields (R178); the slot is the context's own number. -/
  x0 : Nat := 0
  y0 : Nat := 0
  ea : Nat := 0
  eb : Nat := 0
  tidx : Nat := 0
  part : Nat := 0
  prio : Nat := 0
  extbase : Nat := 0
  /-- Extent size in bytes and accumulators allocated (R37). -/
  extent : Nat := 0
  nacc : Nat := 0
  /-- The team's number, code object and its descriptor table length come from the team (R161). -/
  team : Nat := 0
  oid : Nat := 0
  /-- Own issues since launch (R43), issues since chosen (R42), the core's issue count at the last
  issue (R42), cycles the next bundle has been held (R42). -/
  iss : Nat := 0
  burst : Nat := 0
  last : Nat := 0
  held : Nat := 0
  /-- Logical time (R78), and the times of its completed engine threads that an instruction which observes them
  takes over: by tag, by tile, of its copies, of all (R81, R91). -/
  time : Nat := 0
  tagTime : Tab Nat := []
  tileTime : Tab Nat := []
  copyTime : Nat := 0
  thrTime : Nat := 0
  /-- Results not yet written (R110, R112), accesses in flight. -/
  res : List Pend := []
  accs : List Acc := []
  /-- Pending faults (R346). -/
  faults : List PendFault := []
  /-- Accumulator contents: element 64 i + j of c n at key 8192 n + 64 i + j, an f32 code (R190). -/
  acc : Tab (BitVec 32) := []
  /-- Pattern cache: entry n valid with its block (R237); how many cp.pat are in flight into it. -/
  pats : Tab (Option (BitVec 512)) := []
  patLoad : Tab Nat := []
  /-- The issue-order number of the operation that progress word n stopped (R346). -/
  progIds : Tab Nat := []
  /-- Receive queues 0 to 3 and their reserved slots (R265). -/
  q : Tab (List Msg) := []
  qres : Tab Nat := []
  /-- Fixed regions (R180, R307, R308): a region is open; CUR; shadow sets; a closed region's window
  runs; NFOG; gated items of the closed and of the open region. -/
  fixOpen : Bool := false
  fixCur : Nat := 0
  sh0 : Option Shadow := none
  sh1 : Option Shadow := none
  win : Bool := false
  nfog : Nat := 0
  gatedItems : List Gated := []
  /-- Claims and messages recorded, with the issue that took them, and those still to replay (R272):
  begin and end, or queue and message. -/
  recClaims : List (Nat × Nat × Nat) := []
  recMsgs : List (Nat × Nat × Msg) := []
  playClaims : List (Nat × Nat) := []
  playMsgs : List (Nat × Msg) := []
  /-- Consecutive rollbacks and the mark they aimed at, and how many were silent errors (R392). -/
  fogRun : Nat := 0
  fogMark : Option Nat := none
  fogSilent : Nat := 0
  /-- sr.joule in nanojoules with its remainder in bytes of LPDDR-6 traffic (R270, R296). -/
  joule : Nat := 0
  jouleRem : Nat := 0
  /-- CWEAR (R271) and issues in this interval (R312). -/
  cwear : Nat := 0
  issIval : Nat := 0
  /-- Header, remaining repetitions and loop levels before the bundle whose wait took the context out
  of the ready set, and its own issue (R57). -/
  waitPc : Nat := 0
  waitReps : Nat := 0
  waitLv : Tab Level := []
  waitSeq : Nat := 0
  /-- A restart mark stands at the boundary before the next issue (R307: after bar.wait, bar.aw). -/
  markDue : Bool := false
  deriving DecidableEq, Repr

/-- A weight plane (R213): each element decoded and unscaled, as the f32 code of its value (every
element of every format, and every outlier, is an f32 value), and the record of its latest load. -/
structure Plane where
  /-- Weights at key 64 k + n. -/
  w : Tab (BitVec 32) := []
  /-- Scales at key 64 b + n. -/
  sc : Tab (BitVec 32) := []
  loaded : Bool := false
  loading : Bool := false
  owner : Option Nat := none
  kk : Nat := 0
  nn : Nat := 0
  fmt : Nat := 0
  blk : Nat := 0
  sub3 : Bool := false
  nout : Nat := 0
  base : Nat := 0
  waddr : Nat := 0
  /-- The engine operation of the latest load. -/
  by' : Nat := 0
  deriving DecidableEq, Repr

/-- What an engine operation captured at its issue (R119, R189, R220, R225, R233). -/
structure Cap where
  fa : BitVec 18 := 0
  fw : BitVec 18 := 0
  fo : BitVec 18 := 0
  fv : BitVec 18 := 0
  fs : BitVec 18 := 0
  rm : BitVec 18 := 0
  seed : BitVec 32 := 0
  draw : BitVec 32 := 0
  cbsel : BitVec 18 := 0
  cbA : Tab (BitVec 16) := []
  cbW : Tab (BitVec 16) := []
  /-- Descriptors by tile code, BASE stepped; scale and outlier tiles among them. -/
  descs : Tab (BitVec 128) := []
  plane : Nat := 0
  /-- Stepped memory offset, stepped source offset, s[Y] and s[X] values, pattern block. -/
  off : Word := 0
  soff : Word := 0
  yval : Word := 0
  xval : Word := 0
  pat : Option (BitVec 512) := none
  patIdx : Nat := 0
  /-- For `mma`: K, N, weight format and block size of the plane's latest load at its issue (R213). -/
  pk : Nat := 0
  pn : Nat := 0
  pfmt : Nat := 0
  pblk : Nat := 0
  /-- For `mstat`: the records of planes 0 and 1 at its issue, without their weights (R216, R228). -/
  recs : List Plane := []
  deriving DecidableEq, Repr

/-- An engine operation or copy in flight on a core (R91, R191, R232). -/
structure EOp where
  id : Nat
  slot : Nat
  ins : Instr
  word : Nat
  waddr : Nat
  sl : Nat
  /-- Inbound (R44); a copy (R232). -/
  inb : Bool
  copy : Bool
  /-- Tile operands it holds, each with whether it writes it (R192); tiles it counts into (R153). -/
  tiles : List (Nat × Bool)
  counts : List Nat
  rep : Nat
  k : Nat
  /-- The own issue that made it, and whether it was issued in supervisor mode. -/
  seq : Nat
  sup : Bool
  tag : Nat
  predOff : Bool
  gated : Bool
  /-- A stop has been requested at the next row boundary (R248); tag and issue of each cp.cancel that waits. -/
  stopping : Bool := false
  cancelTag : List (Nat × Nat) := []
  /-- The number of the instruction in the core's issue order, where it is not that of the operation: a
  relaunched one (R346). -/
  ord : Option Nat := none
  /-- Held or stopped after a fault (R249). -/
  held : Bool := false
  /-- Progress rows done and in all (R196, R234). -/
  rows : Nat := 0
  nrows : Nat := 0
  /-- The source's last row has been read (R238). -/
  srcDone : Bool := false
  /-- Engine entry 0 to 31 of a copy (R249). -/
  entry : Nat := 0
  cap : Cap := {}
  time : Nat := 0
  /-- Pieces of rows it has reached that are still to be written, source pieces of them that are still to be read, and
  source pieces that it has read ahead, each with its row (R88, R93). -/
  left : List Chunk := []
  unread : List Unread := []
  seen : List (Nat × Place × List Byte) := []
  /-- Device time at which its next row's requests went out (R382). -/
  asked : Nat := 0
  /-- A load's plane before it, given back when the load is discarded (R229). -/
  before : Option Plane := none
  deriving DecidableEq, Repr

/-- A named barrier (R257): EXPECT, ARRIVED, PHASES, scope, subteam, the claiming team; the logical times of the arrivals
counted in the current phase, oldest first, and the largest of each completed phase, by its number (R81). -/
structure Barrier where
  expect : Nat := 0
  arrived : Nat := 0
  phases : Nat := 0
  scope : Nat := 0
  tx0 : Nat := 0
  ty0 : Nat := 0
  c : Nat := 0
  e : Nat := 0
  team : Option Nat := none
  root : Nat := 0
  times : List Nat := []
  ends : Tab Nat := []
  deriving DecidableEq, Repr

/-- A block (R72, R73, R75, R79). In L1: die, frame, first and last word, type 0 own 1 wt 2 si, dirty mask, write
time, lease end, and the partition whose write made it dirty; a leased copy's bytes (R80, R98), and the team and team
index whose lease it is (R79, R99); the words used and
the object, code address and 4 KiB region of its fill (R74). In L2: who last dirtied it, core, slot and team, none
for the host and the command processor (R296). -/
structure Block where
  die : Nat
  frame : Nat
  a : Nat
  b : Nat
  ty : Nat
  dirty : Nat
  wts : Nat
  lease : Nat
  part : Nat := 0
  data : List Byte := []
  used : Nat := 0
  key : Nat × Nat × Nat := (0, 0, 0)
  who : Option (Nat × Nat × Nat) := none
  party : Nat × Nat := (0, 0)
  deriving DecidableEq, Repr

/-- A partial in a commutative buffer (R83): die and address of its element, CFMT × 4 + COP, pattern; the slot and
team of the context that last updated it, with object and page (R86, R296); whether it fails its check (R385). -/
structure Partial where
  die : Nat
  addr : Nat
  op : Nat
  val : BitVec 64
  slot : Nat
  team : Nat
  oid : Nat
  page : Nat
  bad : Bool := false
  deriving DecidableEq, Repr

/-- A core at a logical position (R10, R23). -/
structure Core where
  ctx : Tab Ctx := []
  /-- The chosen slot and the count of bundle issues (R42). -/
  cur : Nat := 0
  issues : Nat := 0
  /-- Scratchpad bytes (R23), listed where not zero. -/
  sram : Tab Byte := []
  /-- L1 size in units of 512 KiB (R24); 0 at reset and on a spare that takes over a position: DESIGN CHOICE (log entry
  7). -/
  l1size : Nat := 0
  /-- The partition whose context last wrote each byte of scratchpad, plus one (R59). -/
  writer : Tab Nat := []
  /-- Write time and latest read time of each 32-byte word of scratchpad (R81, R98; log entry 4). -/
  spadT : Tab (Nat × Nat) := []
  /-- L1 blocks, most recently used first (R73), and the victim buffer, oldest first (R82). -/
  l1 : List Block := []
  victim : List Block := []
  /-- Dirty words of L1 and of the victim buffer found uncorrectable (R387): die and word. -/
  l1Bad : List (Nat × Nat) := []
  /-- The spatial predictor's footprints, most recent first (R74): object, code address and region, and the words
  used. -/
  foot : List ((Nat × Nat × Nat) × Nat) := []
  /-- 32-byte words in the instruction cache, most recently used first (R23): die and word. -/
  icache : List (Nat × Nat) := []
  /-- Commutative buffer: the partials, least recently updated first (R83). -/
  part : List Partial := []
  /-- 32-byte words of scratchpad and of accumulator memory found uncorrectable (R387); an accumulator
  word is 4096 n + 8 i + j div 8 of c n. -/
  bad : List Nat := []
  accBad : List (Nat × Nat) := []
  /-- Weight planes 0 and 1 (R213). -/
  pl0 : Plane := {}
  pl1 : Plane := {}
  /-- Engine operations in flight, in issue order (R91). -/
  ops : List EOp := []
  nextId : Nat := 0
  /-- Barriers (R257). -/
  bar : Tab Barrier := []
  /-- sr.cyc (R174), its value at the last close, and CYC, MSTALL of STALL (R302). -/
  cyc : Nat := 0
  cycAt : Nat := 0
  stallCyc : Nat := 0
  mstall : Nat := 0
  deriving DecidableEq, Repr

/-- A column remap entry (R17): physical row behind each logical row (15 a hole), and the spare. -/
structure Remap where
  lrow : List Nat := [0, 1, 2, 3, 4, 5, 6, 7]
  spare : Nat := 8
  deriving DecidableEq, Repr

/-- Wear state of a physical core (R312, R313): wear in 2^-16 units, CSTATE 0 to 3, and an image or
monitor retire or derate threshold reached. -/
structure Wear where
  wear : Nat := 0
  cstate : Nat := 0
  monRetire : Bool := false
  monDerate : Bool := false
  deriving DecidableEq, Repr

/-- A write waiting in a die's ingress buffer (R95): the partition that sent it, its arrival time,
device address of the first byte, and bytes. -/
structure Ingress where
  part : Nat
  at' : Nat
  addr : Nat
  /-- BAR2 offset of its first byte (R355). -/
  off : Nat := 0
  data : List Byte
  deriving DecidableEq, Repr

/-- A die error log entry (R352). -/
structure LogEntry where
  code : Nat
  corr : Bool
  store : Nat
  part : Option Nat
  core : Option Nat
  addr : Nat
  count : Nat
  tfirst : Nat
  tlast : Nat
  deriving DecidableEq, Repr

/-- A die (R16): LPDDR-6 bytes are in `State.mem`. -/
structure Die where
  ingress : List Ingress := []
  /-- The largest logical time of a write that its ingress buffer has applied (R81, R95). -/
  inTime : Nat := 0
  /-- Since when posted credit has been withheld, whether INGRESS_OVERFLOW has been posted for it, and
  since when credit flows again (R391). -/
  withheld : Option Nat := none
  ovfPosted : Bool := false
  flowing : Nat := 0
  /-- Notification queue (R86): object, page, from die, count; the overflow mark (R383). -/
  notif : List (Nat × Nat × Nat × Nat) := []
  notifOvf : Bool := false
  /-- Error log by entry number 0 to 255 (R352), and its full and corrected-post marks (R353). -/
  log : Tab (Option LogEntry) := []
  logFull : Bool := false
  corrAt : Option Nat := none
  /-- L2 blocks present, most recently used first (R73); only ACNT and metering see them (R86, R296). -/
  l2 : List Block := []
  /-- Home times of a 32-byte word: write time, lease end, own holder plus one (R79). -/
  home : Tab (Nat × Nat × Nat) := []
  /-- Tracked commutative blocks, least recently updated first (R85): address, size, and the partition that owns
  the object (R390). -/
  tracked : List (Nat × Nat × Nat) := []
  /-- When each slice and partition last posted COMM_PRESSURE (R390). -/
  pressAt : Tab Nat := []
  /-- Page frames in use: first frame and count of each run (R329, R378). -/
  frames : List (Nat × Nat) := []
  /-- Words found uncorrectable (R387), and those of them that stand in L2 (R385). -/
  bad : List Nat := []
  badL2 : List Nat := []
  deriving DecidableEq, Repr

/-- A page entry (R69). -/
structure Page where
  state : Nat := 0
  die : Nat := 0
  q : Bool := false
  acnt : Nat := 0
  frame : Nat := 0
  deriving DecidableEq, Repr

/-- An object entry with its page table (R68, R69). -/
structure Obj where
  part : Nat
  psz : Nat
  kind : Nat
  home : Nat
  cr : Bool
  cfmt : Nat
  cop : Nat
  cblk : Nat
  len : Nat
  ptbase : Nat
  pages : Tab Page
  /-- The decoded code object header, where the object holds one (R279; log entry 20). -/
  hdr : Option CodeHdr
  deriving DecidableEq, Repr

/-- Task states (R280). -/
inductive TaskSt where
  | waiting | eligible | running | complete | failed
  deriving DecidableEq, Repr

/-- A task (R38, R277): descriptor fields and dispatcher state. -/
structure Task where
  gen : Nat
  part : Nat
  a : Nat
  b : Nat
  pin : Bool
  rng : Bool
  prio : Nat
  dep : Nat
  home : Option Nat
  cq : Nat
  nocq : Bool
  lo : Nat
  hi : Nat
  grain : Nat
  tag : Word
  /-- Variants: code object id and variant number. -/
  vars : List (Nat × Nat)
  args : List Word
  caps : Tab (BitVec 128)
  succ : List Nat
  /-- Dispatcher state. -/
  st : TaskSt
  eligAt : Nat
  accOrd : Nat
  pref : Option Nat
  /-- Energy hold since, FALLBACK_PRESSURE posted (R287, R372). -/
  holdSince : Option Nat
  holdPosted : Bool
  /-- Logical time of the enqt that enqueued it; 0 for a queue entry (R78). -/
  enqTime : Nat
  joules : Nat
  uncl : Nat
  /-- The cause of its failure, 0 for none (R357). -/
  cause : Nat
  deriving DecidableEq, Repr

/-- Team states (R288). -/
inductive TeamSt where
  | loading | running | ending | out | failing | complete
  deriving DecidableEq, Repr

/-- A context's data kept by the dispatcher while its team is out (R288): team index, joule, wear,
logical time, queues. -/
structure Kept where
  tidx : Nat
  joule : Nat
  cwear : Nat
  time : Nat
  /-- The largest logical time of the context and its joined threads (R78). -/
  thr : Nat
  q : Tab (List Msg)
  qres : Tab Nat
  /-- Its core, partition, extent and accumulators, which its team holds until it is out (R54). -/
  core : Nat
  part : Nat
  extbase : Nat
  extent : Nat
  nacc : Nat
  holds : Bool
  /-- It stood in Ended (R57); it stands so again after the restore (log entry 25). -/
  ended : Bool
  /-- Claims and messages still to replay, and the token of a wait that a yield has ended (R272, R273). -/
  playClaims : List (Nat × Nat) := []
  playMsgs : List (Nat × Msg) := []
  aw : Option (Nat × Nat × Option Nat) := none
  deriving DecidableEq, Repr

/-- A team (R288, R289). -/
structure Team where
  task : Nat
  st : TeamSt
  x0 : Nat
  y0 : Nat
  variant : Nat
  oid : Nat
  prio : Nat
  /-- Range entry: f, e; absent without a range. -/
  rangeE : Option (Nat × Nat)
  launched : Nat
  outAt : Nat
  kept : List Kept
  /-- Barrier states saved when the team went out: core position, number, barrier (R258). -/
  bars : List (Nat × Nat × Barrier)
  /-- Page request ring TAIL seen when the team went out (R380). -/
  ringTail : Nat
  failed : Option Nat
  extbase : Nat
  /-- The cores that it left when a repeated rollback made it yield (R392). -/
  fled : List Nat := []
  deriving DecidableEq, Repr

/-- Test strips on an island (R306, R394): the setting under test, when its patterns are done, whether it is VMAX or lies
behind one that passed, so that a failure sets the floor, and the physical cores that are out of the test. -/
structure Strips where
  cur : Nat
  due : Nat
  atTop : Bool
  gone : List Nat
  deriving DecidableEq, Repr

/-- Island state (R269, R286, R292, R300 to R306). -/
structure Island where
  bal : Int := 0
  grant : Nat := 0
  warn : Bool := false
  warnAt : Nat := 0
  level : Nat := 0
  commit : Nat := 0
  held : Nat := 0
  u : Nat := 0
  uAcc : Nat := 0
  uRem : Nat := 0
  base : Nat := 0
  vset : Nat := 50
  vfloor : Nat := 0
  vmax : Nat := 80
  vtgt : Nat := 50
  trim : Nat := 0
  /-- Target of a step on its way, and when it is reached; after that, when STEP clears (R304). -/
  stepTo : Option Nat := none
  stepEnd : Nat := 0
  denied : Bool := false
  mode : Nat := 0
  /-- The MODE last written by the PF (R330). -/
  pfMode : Nat := 0
  temp : Nat := 0
  retention : Bool := false
  idleSince : Nat := 0
  calAt : Nat := 0
  calFail : Option Nat := none
  overdue : Bool := false
  /-- A pass has started its wake (R295). -/
  waking : Bool := false
  /-- The island is under test strips (R306). -/
  strips : Option Strips := none
  droop : Bool := false
  /-- THROT, and the grant that `bq` reads, as they stood at the last close (R269). -/
  throt : Bool := false
  told : Nat := 0
  coeff : Nat := 0
  capIn : Nat := 0
  deriving DecidableEq, Repr

/-- A submission or completion queue register pair and the ring's progress (R274, R276). -/
structure Queue where
  sqcfg : Word := 0
  sqoff : Bool := false
  cqcfg : Word := 0
  cqhead : Nat := 0
  written : Nat := 0
  /-- Waiting entries: bits of the entry, and the task-table entry it holds (none for a refusal). -/
  waiting : List (BitVec 256 × Option Nat) := []
  deriving DecidableEq, Repr

/-- An event queue (R354, R356). -/
structure EvQ where
  cfg : Word := 0
  head : Nat := 0
  written : Nat := 0
  dropped : Nat := 0
  deriving DecidableEq, Repr

/-- A partition (R326 to R329). -/
structure Part where
  pset : Word := 0
  pmem : Word := 0
  prect : Tab Word := []
  partcon : Word := 7200
  supcfg : Word := 0
  rstcfg : Word := 0
  savecap0 : Word := 0
  savecap1 : Word := 0
  saveWait : Option Word := none
  priocfg : Word := 15
  migcfg : Word := 1024
  qlimit : Word := 10000
  ptime : Nat := 0
  charge : Word := 0x4030201810080400
  qs : Tab Queue := []
  evq : EvQ := {}
  pgrq : Word := 0
  pgrqOff : Bool := false
  aper : Tab Word := []
  wincfg : Word := 100
  objcmd : Tab Word := []
  /-- The command words that GO submitted (R329), and BAR2's size as a power of two of GiB (R314). -/
  objrun : Tab Word := []
  bar2 : Nat := 6
  objbusy : Bool := false
  objres : Nat := 0
  objrdix : Word := 0
  objrd : BitVec 256 := 0
  partstat : Word := 0
  /-- When HOST_UNMAPPED and FLOORS_SCALED were last posted (R316, R396). -/
  unmapAt : Option Nat := none
  scaledAt : Option Nat := none
  /-- The reservation: the task, and its rectangle where one stands (R283). -/
  resv : Option (Nat × Option (Nat × Nat)) := none
  deriving DecidableEq, Repr

/-- A requested quiesce point (R291): the logical cores, the time of the request, and what is applied
there. -/
inductive QuiWork where
  | column (die col : Nat)
  /-- A spare that failed its pattern leaves the column (R394). -/
  | spare (die col : Nat)
  | object (p op oid page frame : Nat)
  | bringIn (p oid page : Nat)
  | rectangle (p : Nat)
  | move (oid page die : Nat)
  deriving DecidableEq, Repr

structure Quiesce where
  cores : List Nat
  since : Nat
  work : QuiWork
  deriving DecidableEq, Repr

/-- An arrival on its way to a barrier's counting core (R259, R260): barrier core and number, the
arriver's core, slot, logical time, and what it gets; `home` is the core whose barrier was named. -/
structure Arrival where
  core : Nat
  n : Nat
  from' : Nat
  slot : Nat
  team : Nat
  time : Nat
  for' : ArrFor
  deriving DecidableEq, Repr

/-- A release or init answer on its way to a non-root core (R259): barrier core, number, PHASES, the root that sent it,
and the team whose barrier it is. -/
structure Release where
  core : Nat
  n : Nat
  phases : Nat
  root : Nat
  team : Nat
  deriving DecidableEq, Repr

/-- A message in flight (R265) to the context of a team index. -/
structure Flight where
  team : Nat
  tidx : Nat
  q : Nat
  m : Msg
  from' : Nat
  fslot : Nat
  /-- Register write and tag when the sender asked for ACK: destination, issue, tag. -/
  ack : Option (Dst × Nat × Nat)
  deriving DecidableEq, Repr

/-- An enqt whose descriptor the dispatcher is reading (R264). -/
structure Enq where
  core : Nat
  slot : Nat
  team : Nat
  id : Nat
  seq : Nat
  k : Nat
  dst : Dst
  tag : Nat
  waddr : Nat
  off : Word
  cap : BitVec 128
  caps : Tab (BitVec 128)
  time : Nat
  /-- Its read of host memory: 0 none, 1 awaits its completion, 2 completed, 3 failed; and its device time (R382). -/
  pcie : Nat := 0
  asked : Nat := 0
  deriving DecidableEq, Repr

/-- What the device sends outside (R241, R276, R354, R319, R321): a host memory or PCIe write, an
MSI-X message, a peer link write, a read completion, a sideband answer. -/
inductive Out where
  | pcieWrite (fn : Fn) (addr : Nat) (data : List Byte)
  | pcieRead (fn : Fn) (addr n : Nat)
  | msix (fn : Fn) (vec : Nat)
  | link (l : Nat) (wr : Bool) (part off : Nat) (data : List Byte)
  | readData (data : List Byte)
  | unsupported
  | completerAbort
  | spdm (req : Nat) (err : Bool) (val : Word)
  /-- Measurements: the hashes of firmware and configuration image (R322). -/
  | hashes (fw cfg : BitVec 256)
  /-- A page's data through the device's NVMe queues, under its flash handle (R87). -/
  | nvme (handle : Nat) (data : List Byte)
  /-- A register read's value (R326). -/
  | regData (wide : Bool) (v : Word)
  | sideband (code : Nat)
  deriving DecidableEq, Repr

/-- A peer link (R320, R321, R402). -/
structure Epl where
  map : Word := 0
  up : Bool := false
  training : Bool := false
  downs : Nat := 0
  replays : Nat := 0
  cnt : Nat := 0
  run : Nat := 0
  downPosted : Bool := false
  /-- Device time of the last retraining, or of the link going down, and that at which the running replay window began
  (R402). -/
  tried : Nat := 0
  winAt : Nat := 0
  deriving DecidableEq, Repr

/-- A lifetime record copy in NOR flash (R407): sequence number, valid, wear and state of each core. -/
structure LifeRec where
  seq : Nat := 0
  valid : Bool := true
  wear : Tab Wear := []
  deriving DecidableEq, Repr

/-- An image slot of NOR flash (R322, R405): whether its header and firmware pass step 1 and its configuration image
step 2; that image's remap entries and the physical cores that its retirement map names; the hashes of both. -/
structure Image where
  ok1 : Bool := true
  ok2 : Bool := true
  remap : Tab Remap := []
  retired : List Nat := []
  fwHash : BitVec 256 := 0
  cfgHash : BitVec 256 := 0
  deriving DecidableEq, Repr

/-- NOR flash and the always-on domain (R322, R405, R407). -/
structure Nor where
  /-- Slots A and B (R405). -/
  slotA : Image := {}
  slotB : Image := {}
  /-- The PUF key matches the certificate (step 3). -/
  idOk : Bool := true
  rec0 : LifeRec := {}
  rec1 : LifeRec := {}
  /-- Whether power was lost without a record write since the last one (R312). -/
  dirtyLoss : Bool := false
  deriving DecidableEq, Repr

/-- Power state (R323): Active or Idle is judged by the islands. -/
inductive Power where
  | on | entering | retain | off | failed
  deriving DecidableEq, Repr

/-- The order number (R1): EX740-768, EX740-1536, or EX740-P with the LPDDR-6 that its builder fits, in GiB a die. -/
inductive Order where
  | ex768 | ex1536 | p (gib : Nat)
  deriving DecidableEq, Repr

/-- The machine. -/
structure State where
  /-- The order number of the part (R1). -/
  order : Order
  /-- Device time in ns (R26), and the next governor close (R292). -/
  now : Nat
  nextClose : Nat
  /-- INTV (R269). -/
  intv : Nat
  power : Power
  cores : Tab Core
  dies : Tab Die
  /-- LPDDR-6 bytes: key 2^40 × die + address, listed where not zero (R27, R70). -/
  mem : List Host.Cell
  /-- Of words not written back since: what LPDDR-6 holds of a word dirty in L2, and what the home holds of one dirty in
  an L1 (R398), by device word; empty for any other. -/
  l2Old : Tab (List Byte)
  l1Old : Tab (List Byte)
  /-- Object table (R68). -/
  objs : Tab Obj
  /-- Flash store of paged-out pages: key handle, bytes (R87, R378). -/
  flash : Tab (List Byte)
  /-- Words of a page on flash that failed their check when it was moved there (R387), by handle. -/
  flashBad : Tab (List Nat)
  remap : Tab Remap
  wear : Tab Wear
  islands : Tab Island
  parts : Tab Part
  /-- Task table by index, generations of freed entries, acceptance counter (R277, R279, R280). -/
  tasks : Tab (Option Task)
  gens : Tab Nat
  accepts : Nat
  teams : Tab (Option Team)
  nextTeam : Nat
  /-- The partition served last in grant rotation (R294). -/
  lastServed : Nat
  /-- Quiesce requests, oldest first (R291). -/
  quiesce : List Quiesce
  /-- A dispatcher pass is due (R282). -/
  passDue : Bool
  /-- Posted writes that wait on a link for ingress credit, in arrival order (R317, R391): link, 0 the
  host port and l + 1 peer link l, home die, write. -/
  posted : List (Nat × Nat × Ingress)
  /-- Barrier arrivals, releases, init answers, messages and enqt reads in flight. -/
  arrs : List Arrival
  rels : List Release
  /-- How many range claims have been issued (R46). -/
  claimNo : Nat
  answers : List Release
  flights : List Flight
  enqs : List Enq
  /-- PKGCON (R297), PWRCTL.REFUSED (R323), PWRSTAT (R395), BOOTSTAT (R405), package event queue. -/
  pkgcon : Word
  refused : Bool
  pwrstat : Word
  bootstat : Word
  evq : EvQ
  /-- Bp in effect, its marks (R293, R297, R395 to R398). -/
  bp : Nat
  /-- Lowering steps in force, and whether temperature and peak draw hold Bp down (R297, R395). -/
  bpSteps : Nat
  thlim : Bool
  peaklim : Bool
  trip : Option Nat
  tripDies : List Nat
  infeas : Bool
  floorsAt : Option Nat
  /-- Events held until the package event queue is enabled (R398, R406). -/
  bootEvents : List Nat
  /-- Peer links, host link (R321, R402, R404). -/
  epl : Tab Epl
  linkUp : Bool
  /-- SPDM responder: requests answered so far in the exchange (R322). -/
  spdmSeen : Nat
  /-- Words written to the SPDM mailbox that no answer has taken, with their offsets (R331). -/
  spdmIn : List (Nat × Word)
  /-- Requests that wait on the host link in Retain, in order of arrival (R325). -/
  linkWait : List Instr
  nor : Nor
  /-- Device time of the last lifetime record write (R312), and ns of Active time (R306, R323). -/
  recAt : Nat
  active : Nat
  /-- Saved governor state across Retain (R324). -/
  saved : Option (Tab Island)
  /-- What the device has sent outside, oldest first. -/
  out : List Out
  /-- The model's own: what happens next, each with the ns before it (log entry 2); the counter of
  free values (log entry 6); the core and slot whose bundle is issuing (log entry 2). -/
  agenda : List (Nat × Instr)
  fresh : Nat
  cur : Nat × Nat
  deriving DecidableEq, Repr

/-- The islands at reset (R292, R293): base charges of 10 and 9 eighths, 475 in all, and the grant
that R294 gives them with no use, their base part of 2 grains (log entry 7). -/
def resetIslands : Tab Island :=
  (List.range 48).map (fun i : Nat => (i, { base := if i < 43 then 10 else 9, grant := 2 }))

/-- GiB of LPDDR-6 on a die: a quarter of what the order number fits (R1). -/
def Order.dieGiB : Order → Nat
  | .ex768 => 192
  | .ex1536 => 384
  | .p gib => gib

/-- Page frames of 4 KiB on one die. -/
def Order.dieFrames (o : Order) : Nat := o.dieGiB * 262144

/-- The machine right after reset: powered and booted as R322 gives, Active, every island awake at
the reset values of R302, no object, no task, remap entries as shipped (R17). -/
def State.reset : State :=
  { order := .ex1536, now := 0, nextClose := 10000, intv := 0, power := .on, cores := [], dies := [], mem := [], l2Old := [], l1Old := [],
    objs := [], flash := [], flashBad := [], remap := [], wear := [], islands := resetIslands, parts := [],
    tasks := [],
    gens := [], accepts := 0, teams := [], nextTeam := 0, lastServed := 7, quiesce := [],
    passDue := false, posted := [], arrs := [], rels := [], claimNo := 0, answers := [], flights := [], enqs := [],
    pkgcon := 0x6927101C20, refused := false, pwrstat := 0x1823200, bootstat := 5, evq := {},
    bp := 562, bpSteps := 0, thlim := false, peaklim := false, trip := none, tripDies := [], infeas := false,
    floorsAt := none, bootEvents := [], epl := [], linkUp := true, spdmSeen := 0, spdmIn := [], linkWait := [], nor := {},
    recAt := 0, active := 0, saved := none, out := [], agenda := [], fresh := 0, cur := (0, 0) }

end Sys2Proof.Machine
end

