-- ==== Sys2Proof/Machine/Base.lean ====
section
/-!
DEFINITION. Sys2Proof/Machine/Base.lean: one home for each read and write of the state: cores,
contexts, dies, partitions, islands, tags, events and what leaves the device; bit-field and byte
helpers.
-/
namespace Sys2Proof.Machine

/-! ## Bit fields and bytes -/

/-- Bits [lo + len - 1 : lo] of a vector as a number (R7). -/
def fld {w : Nat} (v : BitVec w) (lo len : Nat) : Nat := bits v.toNat lo len

/-- The vector with the number `x` put into bits [lo + len - 1 : lo]. -/
def setFld {w : Nat} (v : BitVec w) (lo len x : Nat) : BitVec w :=
  BitVec.ofNat w (v.toNat - fld v lo len * 2 ^ lo + (x % 2 ^ len) * 2 ^ lo)

/-- The low `n` bits of `x` read as two's complement (R7, R156). -/
def sNat (x n : Nat) : Int := if 2 * (x % 2 ^ n) < 2 ^ n then (x % 2 ^ n : Nat) else (x % 2 ^ n : Nat) - (2 ^ n : Nat)

/-- An integer modulo 2^64 (R14). -/
def wrap64 (x : Int) : Word := BitVec.ofInt 64 x

/-- The low `n` bits of `x`, sign-extended to 64 bits (R156). -/
def sext64 (x n : Nat) : Word := wrap64 (sNat x n)

/-- Little-endian bytes of a number, lowest first (R7). -/
def toBytes : Nat → Nat → List Byte
  | 0, _ => []
  | n + 1, x => BitVec.ofNat 8 x :: toBytes n (x / 256)

/-- The number that little-endian bytes hold (R7). -/
def ofBytes : List Byte → Nat
  | [] => 0
  | b :: r => b.toNat + 256 * ofBytes r

/-- The addresses `a … a + n - 1` in rising order. -/
def span (a n : Nat) : List Nat := (List.range n).map (a + ·)

/-! ## Cores, contexts and dies -/

def State.core (s : State) (c : Nat) : Core := s.cores.get c {}
def State.setCore (s : State) (c : Nat) (v : Core) : State := { s with cores := s.cores.set c v {} }
def State.updCore (s : State) (c : Nat) (f : Core → Core) : State := s.setCore c (f (s.core c))

def Core.slot (c : Core) (i : Nat) : Ctx := c.ctx.get i {}
def Core.setSlot (c : Core) (i : Nat) (v : Ctx) : Core := { c with ctx := c.ctx.set i v {} }

def State.ctx (s : State) (c i : Nat) : Ctx := (s.core c).slot i
def State.setCtx (s : State) (c i : Nat) (v : Ctx) : State := s.updCore c (fun k => k.setSlot i v)
def State.updCtx (s : State) (c i : Nat) (f : Ctx → Ctx) : State := s.setCtx c i (f (s.ctx c i))

def State.die (s : State) (d : Nat) : Die := s.dies.get d {}
def State.updDie (s : State) (d : Nat) (f : Die → Die) : State :=
  { s with dies := s.dies.set d (f (s.die d)) {} }

def State.part (s : State) (p : Nat) : Part := s.parts.get p {}
def State.updPart (s : State) (p : Nat) (f : Part → Part) : State :=
  { s with parts := s.parts.set p (f (s.part p)) {} }

def State.island (s : State) (i : Nat) : Island := s.islands.get i {}
def State.updIsland (s : State) (i : Nat) (f : Island → Island) : State :=
  { s with islands := s.islands.set i (f (s.island i)) {} }

def State.team (s : State) (t : Nat) : Option Team := s.teams.get t none
def State.setTeam (s : State) (t : Nat) (v : Option Team) : State :=
  { s with teams := s.teams.set t v none }
def State.updTeam (s : State) (t : Nat) (f : Team → Team) : State := s.setTeam t ((s.team t).map f)

def State.task (s : State) (t : Nat) : Option Task := s.tasks.get t none
def State.setTask (s : State) (t : Nat) (v : Option Task) : State :=
  { s with tasks := s.tasks.set t v none }
def State.updTask (s : State) (t : Nat) (f : Task → Task) : State := s.setTask t ((s.task t).map f)

def State.obj (s : State) (o : Nat) : Option Obj :=
  match s.objs.find? (fun e => e.1 == o) with
  | some e => some e.2
  | none => none

def State.setObj (s : State) (o : Nat) (v : Option Obj) : State :=
  match v with
  | some x => { s with objs := Tab.insert (Tab.erase s.objs o) o x }
  | none => { s with objs := Tab.erase s.objs o }

def State.linkOf (s : State) (l : Nat) : Epl := s.epl.get l {}
def State.updLink (s : State) (l : Nat) (f : Epl → Epl) : State :=
  { s with epl := s.epl.set l (f (s.linkOf l)) {} }

/-- Die of a logical core (R10). -/
def dieOf (core : Nat) : Nat := (core % 16) / 8 + 2 * (core / 128)

/-- The remap entry of die `d`, physical column `c` (R17), keyed 8 d + c. -/
def State.remapOf (s : State) (d c : Nat) : Remap := s.remap.get (8 * d + c) {}

/-- Physical row behind a logical core; 15 is a hole (R17). -/
def State.physRow (s : State) (core : Nat) : Nat :=
  (s.remapOf (dieOf core) (core % 8)).lrow.getD (core / 16 % 8) 15

/-- A hole of the mesh (R19). -/
def State.isHole (s : State) (core : Nat) : Bool := s.physRow core == 15

/-- Physical core number 72 d + 8 row + column behind a logical core (R11, R331). -/
def State.phys (s : State) (core : Nat) : Nat := 72 * dieOf core + 8 * s.physRow core + core % 8

/-- Island of a logical core (R12). -/
def State.islandOf (s : State) (core : Nat) : Nat :=
  12 * dieOf core + 4 * (s.physRow core / 3) + (core % 8) / 2

/-- Island of a physical core number (R12). -/
def islandOfPhys (p : Nat) : Nat := 12 * (p / 72) + 4 * (p % 72 / 8 / 3) + p % 8 / 2

/-- The logical cores in use on an island (R21). -/
def State.coresOf (s : State) (i : Nat) : List Nat :=
  (List.range 256).filter (fun c => !s.isHole c && s.islandOf c == i)

def State.wearOf (s : State) (p : Nat) : Wear := s.wear.get p {}

/-- LIFE: percent of LIMIT (R312), saturating at 255 (R271). -/
def State.life (s : State) (p : Nat) : Nat :=
  min 255 (100 * (s.wearOf p).wear / max 1 (Config.limitOf p))

/-- The resident contexts of a core: slots that are not Free (R41). -/
def Core.resident (c : Core) : List Nat := (List.range 4).filter (fun i => (c.slot i).st != .free)

/-- The package runs, so its intervals close (R292, R323). -/
def State.running (s : State) : Bool := s.power == .on || s.power == .entering

/-- Draw one free value: the counter advances (log entry 6). -/
def State.draw (s : State) : State := { s with fresh := s.fresh + 1 }

/-- A context is charged the activity energy that it has not been charged yet (R296). Log entry 10. -/
def chargeCtx (s : State) (core slot : Nat) : State :=
  (s.updCtx core slot (fun c => { c with joule := c.joule + Config.activity (4 * core + slot) s.fresh })).draw

/-- Send something outside. Log entry 13. -/
def State.send (s : State) (o : Out) : State := { s with out := s.out ++ [o] }

/-! ## Event queues (R354 to R356) -/

/-- A ring of 2^LOG2N entries is enabled (R354, R274). -/
def ringOn (cfg : Word) : Bool := fld cfg 0 1 == 1 && decide (4 ≤ fld cfg 1 5) && decide (fld cfg 1 5 ≤ 16)

/-- An event entry (R355). -/
def evEntry (code island core die : Nat) (now handle arg : Nat) : Nat :=
  code + island * 2 ^ 8 + core * 2 ^ 14 + die * 2 ^ 23 + now * 2 ^ 64 + handle * 2 ^ 128 + arg * 2 ^ 160

/-- Write one entry to an enabled ring, with PHASE, and the MSI-X message when one entry is then
unconsumed (R354). -/
def evWrite (s : State) (fn : Fn) (q : EvQ) (e : Nat) : State × EvQ :=
  let n := 2 ^ fld q.cfg 1 5
  let ph := 1 - q.written / n % 2
  let s := s.send (.pcieWrite fn (fld q.cfg 12 52 * 4096 + 32 * (q.written % n)) (toBytes 32 (e + ph * 2 ^ 63)))
  let q := { q with written := q.written + 1 }
  (if (q.written - q.head) % 2 ^ 32 == 1 then s.send (.msix fn (fld q.cfg 6 5)) else s, q)

/-- Room in a ring (R276, R356): the host link is up and fewer than 2^LOG2N entries stand unconsumed. -/
def evRoom (s : State) (q : EvQ) : Bool :=
  s.linkUp && ringOn q.cfg && decide ((q.written - q.head) % 2 ^ 32 < 2 ^ fld q.cfg 1 5)

/-- Post to one queue (R354, R356): dropped uncounted while disabled, dropped and counted while full,
EVENT_LOST ahead of the first entry once room returns. -/
def evPost (s : State) (fn : Fn) (q : EvQ) (e : Nat) : State × EvQ :=
  if ringOn q.cfg = false then (s, q)
  else if evRoom s q = false then (s, { q with dropped := q.dropped + 1 })
  else if q.dropped = 0 then evWrite s fn q e
  else
    let lost := evEntry 0x77 0x3F 0x1FF 0 s.now 0 q.dropped
    let (s, q) := evWrite s fn { q with dropped := 0 } lost
    if evRoom s q = false then (s, { q with dropped := q.dropped + 1 }) else evWrite s fn q e

/-- When a full ring has room again, EVENT_LOST is written (R356). -/
def evDrain (s : State) (fn : Fn) (q : EvQ) : State × EvQ :=
  if q.dropped ≠ 0 ∧ evRoom s q then
    evWrite s fn { q with dropped := 0 } (evEntry 0x77 0x3F 0x1FF 0 s.now 0 q.dropped)
  else (s, q)

/-- Post an event of kind E to a partition (R354). -/
def State.postE (s : State) (p code : Nat) (island : Nat := 0x3F) (core : Nat := 0x1FF) (die : Nat := 0)
    (handle : Nat := 0) (arg : Nat := 0) : State :=
  let (s', q) := evPost s (.vf p) (s.part p).evq (evEntry code island core die s.now handle arg)
  s'.updPart p (fun x => { x with evq := q })

/-- Post an event of kind F to the package queue (R354). -/
def State.postF (s : State) (code : Nat) (island : Nat := 0x3F) (core : Nat := 0x1FF) (die : Nat := 0)
    (handle : Nat := 0) (arg : Nat := 0) : State :=
  let (s', q) := evPost s .pf s.evq (evEntry code island core die s.now handle arg)
  { s' with evq := q }

/-- The partitions, 0 to 7. -/
def allParts : List Nat := [0, 1, 2, 3, 4, 5, 6, 7]

/-! ## Tags (R111) -/

def Ctx.tagCount (c : Ctx) (q : Nat) : Nat := c.a.tg.get q 0

/-- Allocate one instance of tag `q`; q0 allocates none. -/
def Ctx.allocTag (c : Ctx) (q : Nat) : Ctx :=
  if q = 0 then c else { c with a := { c.a with tg := c.a.tg.set q (c.tagCount q + 1) 0 } }

/-- Free one instance of tag `q`. -/
def Ctx.freeTag (c : Ctx) (q : Nat) : Ctx :=
  if q = 0 then c else { c with a := { c.a with tg := c.a.tg.set q (c.tagCount q - 1) 0 } }

/-- Free one instance of tag `q` issued at `seq` also in each shadow set whose mark it precedes: at a
rollback the counters hold the instances still outstanding (R311). -/
def Shadow.freeTag (h : Shadow) (q seq : Nat) : Shadow :=
  if seq < h.seq then
    { h with arch := { h.arch with tg := h.arch.tg.set q (h.arch.tg.get q 0 - 1) 0 } }
  else h

def Ctx.doneTag (c : Ctx) (q seq : Nat) : Ctx :=
  if q = 0 then c else
    { c.freeTag q with sh0 := c.sh0.map (·.freeTag q seq), sh1 := c.sh1.map (·.freeTag q seq) }

/-- Apply a change of the architectural state made by an operation issued at `seq`: to the state in
hand, and to each shadow set whose mark the operation precedes (R311: completions since applied). -/
def Ctx.apply (c : Ctx) (seq : Nat) (f : Arch → Arch) : Ctx :=
  { c with a := f c.a,
           sh0 := c.sh0.map (fun h => if seq < h.seq then { h with arch := f h.arch } else h),
           sh1 := c.sh1.map (fun h => if seq < h.seq then { h with arch := f h.arch } else h) }

/-! ## Results (R110, R112) -/

/-- The key under which the last writer of a destination is remembered. -/
def Dst.key : Dst → Nat
  | .s n => n | .p n => 64 + n | .k n => 72 + n | .h n => 88 + n | .bankS n => 96 + n | .bankK => 104
  | .pat n => 112 + n | .nothing => 128

/-- Write a user register of the architectural state: s0 and p0 discard (R156). -/
def Arch.put (a : Arch) (d : Dst) (v : BitVec 512) : Arch :=
  match d with
  | .s n => if n = 0 then a else { a with s := a.s.set n (v.truncate 64) 0 }
  | .p n => if n = 0 then a else { a with p := if v.getLsbD 0 then a.p ||| (1#8 <<< n) else a.p &&& ~~~(1#8 <<< n) }
  | .k n => { a with k := a.k.set n (v.truncate 128) 0 }
  | .h n => { a with h := a.h.set n (v.truncate 64) 0 }
  | _ => a

/-- Write a register with the result of issue `seq`, unless a later-issued producer has written it
(R112). -/
def Arch.putSeq (a : Arch) (d : Dst) (v : BitVec 512) (seq : Nat) : Arch :=
  if a.lastw.get d.key 0 ≤ seq then { a.put d v with lastw := a.lastw.set d.key seq 0 } else a

/-- Write a result issued at `seq`, unless a later-issued producer has written the register (R112). -/
def Ctx.put (c : Ctx) (d : Dst) (v : BitVec 512) (seq : Nat) : Ctx :=
  match d with
  | .bankS n =>
    if c.a.lastw.get d.key 0 ≤ seq then
      { c with bankS := c.bankS.set n (v.truncate 64) 0,
               a := { c.a with lastw := c.a.lastw.set d.key seq 0 } }
    else c
  | .bankK =>
    if c.a.lastw.get d.key 0 ≤ seq then
      { c with bankK := v.truncate 128, a := { c.a with lastw := c.a.lastw.set d.key seq 0 } }
    else c
  | .pat n =>
    let c := { c with patLoad := c.patLoad.set n (c.patLoad.get n 0 - 1) 0 }
    if c.a.lastw.get d.key 0 ≤ seq then
      { c with pats := c.pats.set n (some v) none, a := { c.a with lastw := c.a.lastw.set d.key seq 0 } }
    else c
  | .nothing => c
  | _ => { c with a := c.a.putSeq d v seq }

/-- A destination that a rollback restores (R309). -/
def Dst.restored : Dst → Bool
  | .s _ | .p _ | .k _ | .h _ => true
  | _ => false

/-- A result of an operation before the mark is written inside the region: a rollback to the mark has it
still on its way, and its tag instance outstanding (R112, R311). Any other instance frees. Log entry 46. -/
def Shadow.keepLate (h : Shadow) (r : Pend) : Shadow :=
  if r.seq < h.seq ∧ r.dst.restored then { h with late := h.late ++ [r] }
  else if r.tag = 0 then h else h.freeTag r.tag r.seq

/-- Write one pending result and free its tag instance (R111). -/
def Ctx.land (c : Ctx) (r : Pend) : Ctx :=
  let c := (c.put r.dst r.val r.seq).freeTag r.tag
  { c with sh0 := c.sh0.map (Shadow.keepLate · r), sh1 := c.sh1.map (Shadow.keepLate · r) }

/-- Write every pending result that `f` names, in the order they stand. -/
def Ctx.landAll (c : Ctx) (f : Pend → Bool) : Ctx :=
  (c.res.filter f).foldl Ctx.land { c with res := c.res.filter (fun r => !f r) }

/-- An engine operation issued at `seq` has ended: its tag frees no earlier than its minimum latency of 8 own
issues (R112), unless a wait on the tag finds it ended (log entry 60). -/
def Ctx.opDone (c : Ctx) (tag seq : Nat) : Ctx :=
  if tag = 0 then c
  else { c with res := c.res ++ [{ dst := .nothing, val := 0, due := seq + 8, seq := seq, tag := tag, fixed := false }] }

/-- Add a result. -/
def Ctx.push (c : Ctx) (r : Pend) : Ctx := { c with res := c.res ++ [r] }

/-! ## Registers as the current mode names them (R156, R182) -/

/-- s n: s0 reads zero; in supervisor mode s1 to s7 name the bank. -/
def Ctx.getS (c : Ctx) (n : Nat) : Word :=
  if n = 0 then 0 else if c.sup && decide (n ≤ 7) then c.bankS.get n 0 else c.a.s.get n 0

/-- k n: in supervisor mode k0 names the bank. -/
def Ctx.getK (c : Ctx) (n : Nat) : BitVec 128 :=
  if c.sup && n == 0 then c.bankK else c.a.k.get n 0

/-- p n: p0 is true. -/
def Ctx.getP (c : Ctx) (n : Nat) : Bool := n == 0 || c.a.p.getLsbD n

def Ctx.getH (c : Ctx) (n : Nat) : Word := c.a.h.get n 0

/-- The destination that a scalar or capability code names in the current mode (R182). -/
def Ctx.dstS (c : Ctx) (n : Nat) : Dst :=
  if n = 0 then .nothing else if c.sup && decide (n ≤ 7) then .bankS n else .s n
def Ctx.dstK (c : Ctx) (n : Nat) : Dst := if c.sup && n == 0 then .bankK else .k n

/-- pc, remaining repetitions, loop levels and remembered operations of the current mode (R365). -/
def Ctx.pcNow (c : Ctx) : Nat := if c.sup then c.spc else c.a.pc
def Ctx.setPc (c : Ctx) (n : Nat) : Ctx :=
  if c.sup then { c with spc := n } else { c with a := { c.a with pc := n } }
def Ctx.repsNow (c : Ctx) : Nat := if c.sup then c.sreps else c.a.reps
def Ctx.setReps (c : Ctx) (n : Nat) : Ctx :=
  if c.sup then { c with sreps := n } else { c with a := { c.a with reps := n } }
def Ctx.lvNow (c : Ctx) : Tab Level := if c.sup then c.slv else c.a.lv
def Ctx.setLv (c : Ctx) (t : Tab Level) : Ctx :=
  if c.sup then { c with slv := t } else { c with a := { c.a with lv := t } }
def Ctx.remNow (c : Ctx) : Tab Remembered := if c.sup then c.srem else c.a.rem
def Ctx.setRem (c : Ctx) (t : Tab Remembered) : Ctx :=
  if c.sup then { c with srem := t } else { c with a := { c.a with rem := t } }

/-- The code object of the current mode (R161). -/
def Ctx.codeOid (c : Ctx) : Nat := if c.sup then c.supOid else c.oid

end Sys2Proof.Machine
end

