-- ==== Sys2Proof/Machine/Exact.lean ====
section
/-!
DEFINITION. Sys2Proof/Machine/Exact.lean: exact values and their rounding (R14, R138, R148, R149).
A value is NaN, a signed infinity, or a signed exact fraction; nothing is rounded but by `roundF` and
`roundI`.
-/
namespace Sys2Proof.Machine

/-- An exact value: NaN, ±∞, or ± num / den with den above 0 (a zero keeps its sign). -/
inductive XVal where
  | nan
  | inf (neg : Bool)
  | fin (neg : Bool) (num den : Nat)
  deriving DecidableEq, Repr

/-- +0. -/
def XVal.zero : XVal := .fin false 0 1

/-- A natural number, and an integer, as exact values. -/
def XVal.ofNat (n : Nat) : XVal := .fin false n 1
def XVal.ofInt (n : Int) : XVal := .fin (decide (n < 0)) n.natAbs 1

/-- ± m × 2^e. -/
def XVal.dyadic (neg : Bool) (m : Nat) (e : Int) : XVal :=
  if 0 ≤ e then .fin neg (m * 2 ^ e.toNat) 1 else .fin neg m (2 ^ (-e).toNat)

def XVal.isNan : XVal → Bool
  | .nan => true | _ => false
def XVal.isInf : XVal → Bool
  | .inf _ => true | _ => false
def XVal.isZero : XVal → Bool
  | .fin _ 0 _ => true | _ => false
def XVal.neg? : XVal → Bool
  | .nan => false | .inf s => s | .fin s _ _ => s

/-- −x and |x|; a NaN stays a NaN (R201). -/
def XVal.neg : XVal → XVal
  | .nan => .nan | .inf s => .inf (!s) | .fin s n d => .fin (!s) n d
def XVal.abs : XVal → XVal
  | .nan => .nan | .inf _ => .inf false | .fin _ n d => .fin false n d

/-- Two fractions over one denominator: the larger where one divides the other. -/
def commonDen (n₁ d₁ n₂ d₂ : Nat) : Nat × Nat × Nat :=
  if d₁ = d₂ then (n₁, n₂, d₁)
  else if d₂ % d₁ = 0 then (n₁ * (d₂ / d₁), n₂, d₂)
  else if d₁ % d₂ = 0 then (n₁, n₂ * (d₁ / d₂), d₁)
  else (n₁ * d₂, n₂ * d₁, d₁ * d₂)

/-- x + y by IEEE 754 on exact values (R155, R201): opposite infinities give NaN; an exact zero sum of
unlike signs is +0, or −0 under RDN (`rdn`). Log entry 44. -/
def XVal.add (x y : XVal) (rdn : Bool := false) : XVal :=
  match x, y with
  | .nan, _ => .nan
  | _, .nan => .nan
  | .inf a, .inf b => if a = b then .inf a else .nan
  | .inf a, _ => .inf a
  | _, .inf b => .inf b
  | .fin a n₁ d₁, .fin b n₂ d₂ =>
    let (n₁, n₂, d) := commonDen n₁ d₁ n₂ d₂
    if a = b then .fin a (n₁ + n₂) d
    else if n₁ = n₂ then .fin rdn 0 1
    else if n₂ < n₁ then .fin a (n₁ - n₂) d
    else .fin b (n₂ - n₁) d

/-- x − y. -/
def XVal.sub (x y : XVal) (rdn : Bool := false) : XVal := x.add y.neg rdn

/-- x × y: ∞ × 0 is NaN (R155). -/
def XVal.mul (x y : XVal) : XVal :=
  match x, y with
  | .nan, _ => .nan
  | _, .nan => .nan
  | .inf a, .inf b => .inf (a != b)
  | .inf a, .fin b n _ => if n = 0 then .nan else .inf (a != b)
  | .fin a n _, .inf b => if n = 0 then .nan else .inf (a != b)
  | .fin a n₁ d₁, .fin b n₂ d₂ => .fin (a != b) (n₁ * n₂) (d₁ * d₂)

/-- x / y by IEEE 754: 0/0 and ∞/∞ are NaN, x/0 is ∞, x/∞ is 0. -/
def XVal.div (x y : XVal) : XVal :=
  match x, y with
  | .nan, _ => .nan
  | _, .nan => .nan
  | .inf _, .inf _ => .nan
  | .inf a, .fin b _ _ => .inf (a != b)
  | .fin a _ _, .inf b => .fin (a != b) 0 1
  | .fin a n₁ d₁, .fin b n₂ d₂ =>
    if n₂ = 0 then (if n₁ = 0 then .nan else .inf (a != b))
    else .fin (a != b) (n₁ * d₂) (d₁ * n₂)

/-- The order of numbers, −0 equal to +0; false where either is NaN. -/
def XVal.lt (x y : XVal) : Bool :=
  match x, y with
  | .nan, _ => false
  | _, .nan => false
  | .inf a, .inf b => a && !b
  | .inf a, .fin _ _ _ => a
  | .fin _ _ _, .inf b => !b
  | .fin a n₁ d₁, .fin b n₂ d₂ =>
    let l := n₁ * d₂
    let r := n₂ * d₁
    if a then (if b then decide (r < l) else !(l == 0 && r == 0))
    else (if b then false else decide (l < r))

/-- Equality of numbers, −0 equal to +0; false where either is NaN. -/
def XVal.eq (x y : XVal) : Bool :=
  match x, y with
  | .nan, _ => false
  | _, .nan => false
  | x, y => !(x.lt y) && !(y.lt x)

/-- The order of vmin, vmax and vtopk among numbers: −0 below +0 (R201, R205, R208). -/
def XVal.below (x y : XVal) : Bool :=
  if x.isZero && y.isZero then x.neg? && !y.neg? else x.lt y

def XVal.min (x y : XVal) : XVal :=
  if x.isNan || y.isNan then .nan else if y.below x then y else x
def XVal.max (x y : XVal) : XVal :=
  if x.isNan || y.isNan then .nan else if x.below y then y else x

/-- Truncated toward zero, as an integer; 0 for NaN and ±∞. -/
def XVal.trunc : XVal → Int
  | .fin s n d => if s then -((n / d : Nat) : Int) else ((n / d : Nat) : Int)
  | _ => 0

/-- An exact integer (R207); none for any other value. -/
def XVal.int? : XVal → Option Int
  | .fin s n d => if n % d = 0 then some (if s then -((n / d : Nat) : Int) else ((n / d : Nat) : Int)) else none
  | _ => none

/-- floor(log2(n / d)) for n above 0. -/
def ilog2 (n d : Nat) : Int :=
  let e : Int := (Nat.log2 n : Int) - (Nat.log2 d : Int)
  if 0 ≤ e then (if d * 2 ^ e.toNat ≤ n then e else e - 1)
  else (if d ≤ n * 2 ^ (-e).toNat then e else e - 1)

/-! ## Rounding -/

/-- Rounding modes of register rm (R135): 0 RNE, 1 RTZ, 2 RDN, 3 RUP, 4 stochastic, with the
element's draw `q` (R149). -/
structure Mode where
  m : Nat
  q : Nat := 0
  deriving DecidableEq, Repr

/-- RNE. -/
def rne : Mode := { m := 0 }

/-- Whether the magnitude f + r / d (0 ≤ r < d) goes up to f + 1 (R148, R149). -/
def goesUp (mode : Mode) (neg : Bool) (f r d : Nat) : Bool :=
  if r = 0 then false else
  match mode.m with
  | 0 => decide (d < 2 * r) || (2 * r == d && f % 2 == 1)
  | 1 => false
  | 2 => neg
  | 3 => !neg
  | _ => if neg then !decide (mode.q * d < (d - r) * 2 ^ 32) else decide (mode.q * d < r * 2 ^ 32)

/-- A floating-point format (R138): exponent and mantissa bits, bias; `spec` 0 has ∞ and NaN, 1 has
NaN only (e4m3), 2 has neither. -/
structure FFmt where
  e : Nat
  m : Nat
  bias : Nat
  spec : Nat
  deriving DecidableEq, Repr

/-- The largest finite magnitude code (R138). -/
def FFmt.maxCode (f : FFmt) : Nat :=
  match f.spec with
  | 0 => (2 ^ f.e - 1) * 2 ^ f.m - 1
  | 1 => 2 ^ (f.e + f.m) - 2
  | _ => 2 ^ (f.e + f.m) - 1

/-- The canonical NaN (R139), as a code of the format; 0 where the format has none (R148). -/
def FFmt.nanCode (f : FFmt) : Nat :=
  match f.spec with
  | 0 => (2 ^ f.e - 1) * 2 ^ f.m + 2 ^ (f.m - 1)
  | 1 => 2 ^ (f.e + f.m) - 1
  | _ => 0

/-- The code of ∞ in a format that has it. -/
def FFmt.infCode (f : FFmt) : Nat := (2 ^ f.e - 1) * 2 ^ f.m

/-- The value of a code (R138). -/
def FFmt.val (f : FFmt) (code : Nat) : XVal :=
  let s := bits code (f.e + f.m) 1 == 1
  let e := bits code f.m f.e
  let m := bits code 0 f.m
  if f.spec = 0 ∧ e = 2 ^ f.e - 1 then (if m = 0 then .inf s else .nan)
  else if f.spec = 1 ∧ bits code 0 (f.e + f.m) = 2 ^ (f.e + f.m) - 1 then .nan
  else if e = 0 then .dyadic s m (1 - (f.bias : Int) - f.m)
  else .dyadic s (2 ^ f.m + m) ((e : Int) - f.bias - f.m)

/-- A subnormal code (R138). -/
def FFmt.isSub (f : FFmt) (code : Nat) : Bool := bits code f.m f.e == 0 && bits code 0 f.m != 0

/-- What one encode did: the code, and whether it counts as saturated or as zeroed, and whether a NaN
or an ∞ is produced (R148, R150, R151). -/
structure Enc where
  code : Nat
  sat : Bool := false
  zero : Bool := false
  nan : Bool := false
  inf : Bool := false
  deriving DecidableEq, Repr

/-- The magnitude code of a finite value n / d rounded by `mode` onto the format's grid with the
exponent unbounded above (R148). -/
def FFmt.magnitude (f : FFmt) (mode : Mode) (neg : Bool) (n d : Nat) : Nat :=
  if n = 0 then 0 else
  let emin : Int := 1 - (f.bias : Int)
  let e := ilog2 n d
  let qe : Int := (if e < emin then emin else e) - f.m
  let (a, b) := if 0 ≤ qe then (n, d * 2 ^ qe.toNat) else (n * 2 ^ (-qe).toNat, d)
  let m := a / b + (if goesUp mode neg (a / b) (a % b) b then 1 else 0)
  (qe + f.m + f.bias - 1).toNat * 2 ^ f.m + m

/-- Overflow (R148's table): which code an overflowing value of this sign gives. -/
def FFmt.overflow (f : FFmt) (mode : Mode) (sat : Bool) (neg : Bool) : Nat :=
  let big := f.maxCode
  if sat || f.spec == 2 then big
  else
    let top := if f.spec = 0 then f.infCode else f.nanCode
    match mode.m with
    | 1 => big
    | 2 => if neg then top else big
    | 3 => if neg then big else top
    | _ => top

/-- Round(x, fmt, mode) under FLUSH and SAT (R148), as a code with what it counts. -/
def roundF (f : FFmt) (mode : Mode) (flush sat : Bool) (x : XVal) : Enc :=
  let top := 2 ^ (f.e + f.m)
  match x with
  | .nan => if f.spec = 2 then { code := 0, sat := true } else { code := f.nanCode, nan := true }
  | .inf s =>
    let sg := if s then top else 0
    if f.spec = 0 then { code := f.infCode + sg, sat := false, inf := true }
    else if f.spec = 1 ∧ sat = false then { code := f.nanCode, sat := true, nan := true }
    else { code := f.maxCode + sg, sat := true }
  | .fin s n d =>
    let sg := if s then top else 0
    if n = 0 then { code := sg }
    else
      let c := f.magnitude mode s n d
      if f.maxCode < c then
        let o := f.overflow mode sat s
        if f.spec = 1 ∧ o = f.nanCode then { code := o, sat := true, nan := true }
        else { code := o + sg, sat := true, inf := f.spec == 0 && o == f.infCode }
      else if c = 0 then { code := sg, zero := true }
      else if flush ∧ c < 2 ^ f.m then { code := sg, zero := true }
      else { code := c + sg }

/-- RoundInt: a finite value rounded to an integer by the mode (R150, R198). -/
def roundI (mode : Mode) (neg : Bool) (n d : Nat) : Int :=
  let m := n / d + (if goesUp mode neg (n / d) (n % d) d then 1 else 0)
  if neg then -(m : Int) else m

/-- Sat(RoundInt(x), lo, hi) with what it counts (R150). -/
def roundSat (mode : Mode) (lo hi : Int) (x : XVal) : Int × Enc :=
  match x with
  | .nan => (0, { code := 0, sat := true })
  | .inf s => (if s then lo else hi, { code := 0, sat := true })
  | .fin s n d =>
    let v := roundI mode s n d
    if v < lo then (lo, { code := 0, sat := true })
    else if hi < v then (hi, { code := 0, sat := true })
    else (v, { code := 0, zero := v == 0 && n != 0 })

/-- The FP32, bf16, f16 and f19 formats (R138). -/
def f32 : FFmt := ⟨8, 23, 127, 0⟩
def f19 : FFmt := ⟨8, 10, 127, 0⟩
def bf16 : FFmt := ⟨8, 7, 127, 0⟩
def f16 : FFmt := ⟨5, 10, 15, 0⟩

/-- Round(x, f32, RNE), never flushed and never saturated, as a pattern (R154, R171, R224). -/
def rnd32 (x : XVal) : BitVec 32 := BitVec.ofNat 32 (roundF f32 rne false false x).code

/-- The value of an FP32 pattern. -/
def val32 (c : BitVec 32) : XVal := f32.val c.toNat

end Sys2Proof.Machine
end

