-- ==== Sys2Proof/Machine/Formats.lean ====
section
/-!
DEFINITION. Sys2Proof/Machine/Formats.lean: the 28 operand formats (R136 to R150): widths, decoding of
one element, encoding of one value, codebooks, block scales, and the stochastic draw.
-/
namespace Sys2Proof.Machine

/-- Element width of a format code in bits (R137); 0 for an unassigned code. -/
def fmtWidth (f : Nat) : Nat :=
  match f with
  | 0 | 1 => 32
  | 2 | 3 => 16
  | 4 | 5 | 9 | 10 | 20 | 21 | 25 => 8
  | 6 | 7 | 22 | 23 => 6
  | 8 | 11 | 12 | 17 | 24 | 26 | 27 => 4
  | 13 | 14 | 18 => 3
  | 15 | 16 | 19 => 2
  | _ => 0

/-- A block-scaled format (R142). -/
def isBlock (f : Nat) : Bool := decide (20 ≤ f) && decide (f ≤ 27)

/-- The element format of a block-scaled format; any other format is its own (R142). -/
def baseFmt (f : Nat) : Nat :=
  match f with
  | 20 => 4 | 21 => 5 | 22 => 6 | 23 => 7 | 24 => 8 | 25 => 9 | 26 => 11 | 27 => 17
  | _ => f

/-- An integer format, and an unsigned one (R140). -/
def isInt (f : Nat) : Bool := decide (9 ≤ f) && decide (f ≤ 16)
def isUnsigned (f : Nat) : Bool := f == 10 || f == 12 || f == 14 || f == 16
/-- A codebook format (R141). -/
def isCb (f : Nat) : Bool := f == 17 || f == 18 || f == 19

/-- The floating-point parameters of a format (R138); f19 by its 19-bit code. -/
def floatFmt (f : Nat) : FFmt :=
  match f with
  | 0 => f32
  | 1 => f19
  | 2 => bf16
  | 3 => f16
  | 4 => ⟨4, 3, 7, 1⟩
  | 5 => ⟨5, 2, 15, 0⟩
  | 6 => ⟨3, 2, 3, 2⟩
  | 7 => ⟨2, 3, 1, 2⟩
  | _ => ⟨2, 1, 1, 2⟩

/-- Fields of a governing register (R145). -/
def govBlk (g : BitVec 18) : Nat := 16 * 2 ^ fld g 5 2
def govSub (g : BitVec 18) : Nat := fld g 7 2
def govFlush (g : BitVec 18) : Bool := fld g 9 1 == 1
def govSat (g : BitVec 18) : Bool := fld g 10 1 == 1
def govFmt (g : BitVec 18) : Nat := fld g 0 5

/-- A codebook entry's value (R141). -/
def cbVal (cb : Tab (BitVec 16)) (e : Nat) : XVal := bf16.val (cb.get e 0).toNat

/-- One decoded element: its value unscaled, whether it was flushed, and whether it is an outlier
escape (R144, R147). -/
structure Dec where
  v : XVal
  zeroed : Bool := false
  esc : Bool := false
  deriving DecidableEq, Repr

/-- The reserved code of an integer format of `n` bits (R140). -/
def reservedCode (f n : Nat) : Nat := if isUnsigned f then 2 ^ n - 1 else 2 ^ (n - 1)

/-- The plain value of an integer code (R140). -/
def intVal (f n code : Nat) : Int := if isUnsigned f then (code : Int) else sNat code n

/-- Decode of one element before its block scale (R138, R140, R141, R147). -/
def decodeElem (fmt : Nat) (g : BitVec 18) (cb : Tab (BitVec 16)) (code : Nat) : Dec :=
  let f := baseFmt fmt
  let n := fmtWidth f
  if isInt f then
    if code = reservedCode f n then
      match govSub g with
      | 0 => { v := .ofInt (intVal f n code) }
      | 1 => { v := .zero }
      | 2 => { v := .ofInt (-(2 ^ (n - 1) - 1 : Nat)) }
      | _ => { v := .zero, esc := true }
    else { v := .ofInt (intVal f n code) }
  else if isCb f then
    let e := (cb.get code 0).toNat
    if govFlush g && bf16.isSub e then { v := .fin (e / 2 ^ 15 == 1) 0 1, zeroed := true }
    else { v := bf16.val e }
  else
    let ff := floatFmt f
    let c := if f = 1 then code / 2 ^ 13 else code
    if govFlush g && ff.isSub c then { v := .fin (c / 2 ^ (ff.e + ff.m) == 1) 0 1, zeroed := true }
    else { v := ff.val c }

/-- The value of an excess escape (R144). -/
def excessVal (fmt : Nat) : XVal :=
  let f := baseFmt fmt
  let n := fmtWidth f
  if isUnsigned f then .ofNat (2 ^ n - 2) else .ofInt (-(2 ^ (n - 1) - 1 : Nat))

/-- The encoding range of an integer format under SUB (R140). -/
def intRange (f n sub : Nat) : Int × Int :=
  if isUnsigned f then (0, if sub = 0 then (2 ^ n - 1 : Nat) else (2 ^ n - 2 : Nat))
  else (if sub = 0 then -(2 ^ (n - 1) : Nat) else -(2 ^ (n - 1) - 1 : Nat), (2 ^ (n - 1) - 1 : Nat))

/-- |x − y| of exact numbers. -/
def absDiff (x y : XVal) : XVal := (x.sub y).abs

/-- The codebook entries that are numbers among the first `n`, by index (R150). -/
def cbNumbers (cb : Tab (BitVec 16)) (n : Nat) : List (Nat × XVal) :=
  ((List.range n).map (fun e => (e, cbVal cb e))).filter (fun p => !p.2.isNan)

/-- The entry chosen by a strict preference `better`, the lowest index on a tie. -/
def cbBest (better : XVal → XVal → Bool) : List (Nat × XVal) → Nat × XVal
  | [] => (0, .zero)
  | p :: r => r.foldl (fun b q => if better q.2 b.2 then q else b) p

/-- Encoding into a codebook format of `n` entries (R150). NaN takes index 0, as R150 says and not R148; where every entry
is NaN the spec names no result: DESIGN CHOICE, index 0 and the counts of a chosen zero (log entry 119). A chosen entry that
is an infinity or a NaN is produced (R151). -/
def encCb (cb : Tab (BitVec 16)) (n : Nat) (x : XVal) : Enc :=
  let l := cbNumbers cb n
  match x with
  | .nan => { code := 0, sat := true, nan := (bf16.val (cb.get 0 0).toNat).isNan, inf := (bf16.val (cb.get 0 0).toNat).isInf }
  | .inf s =>
    let p := cbBest (fun a b => if s then a.lt b else b.lt a) l
    { code := p.1, sat := true, inf := p.2.isInf }
  | .fin _ m _ =>
    let p := cbBest (fun a b => (absDiff x a).lt (absDiff x b)) l
    { code := p.1, zero := m != 0 && p.2.isZero, inf := p.2.isInf }

/-- Enc of an exact value into the element format, without a block scale (R148, R150). -/
def encElem (fmt : Nat) (g : BitVec 18) (cb : Tab (BitVec 16)) (mode : Mode) (x : XVal) : Enc :=
  let f := baseFmt fmt
  let n := fmtWidth f
  if isInt f then
    let (lo, hi) := intRange f n (govSub g)
    let (v, e) := roundSat mode lo hi x
    { e with code := (v % (2 ^ n : Nat)).toNat }
  else if isCb f then encCb cb (2 ^ n) x
  else
    let e := roundF (floatFmt f) mode (govFlush g) (govSat g) x
    if f = 1 then { e with code := e.code * 2 ^ 13 } else e

/-- Enc into a format that may be block-scaled with scale `s` (R150). -/
def encScaled (fmt : Nat) (g : BitVec 18) (cb : Tab (BitVec 16)) (mode : Mode) (s x : XVal) : Enc :=
  if isBlock fmt then
    if s.isZero then
      let z := encElem fmt g cb mode .zero
      match x with
      | .fin _ n _ => { code := z.code, zero := n != 0 }
      | _ => { code := z.code, sat := true }
    else encElem fmt g cb mode (x.div s)
  else encElem fmt g cb mode x

/-- The stochastic draw (R149). -/
def mix (seed c : BitVec 32) : BitVec 32 :=
  let z := c * 0x9E3779B9#32 + seed
  let z := z ^^^ (z >>> 16)
  let z := z * 0x85EBCA6B#32
  let z := z ^^^ (z >>> 13)
  let z := z * 0xC2B2AE35#32
  z ^^^ (z >>> 16)

/-- The mode of register rm with the draw of the element of index `n` (R149). -/
def modeAt (rm : BitVec 18) (seed draw : BitVec 32) (n : Nat) : Mode :=
  let m := fld rm 0 3
  if m = 4 then { m := 4, q := (mix seed (draw + BitVec.ofNat 32 n)).toNat } else { m := m }

/-! ## Compute formats (R146, R198) -/

/-- The format code that a CF suffix names (R130); CF 0 is fv.FMT. -/
def cfFmt (cf : Nat) (fv : BitVec 18) : Nat :=
  match cf with
  | 1 => 0 | 2 => 1 | 3 => 2 | 4 => 3 | 5 => 9 | 6 => 10
  | _ => govFmt fv

/-- The compute formats a class accepts (R146). -/
def cfOk (c : CfClass) (f : Nat) : Bool :=
  match c with
  | .A => decide (f ≤ 3) || f == 9 || f == 10
  | .F => decide (f ≤ 3)
  | .I => f == 9 || f == 10
  | .N => true

/-- C(x) and R(v) in compute format `f` (R198), with what the rounding counts. -/
def roundCf (f : Nat) (g : BitVec 18) (mode : Mode) (x : XVal) : XVal × Enc :=
  if isInt f then
    let (lo, hi) : Int × Int := if f = 9 then (-128, 127) else (0, 255)
    let (v, e) := roundSat mode lo hi x
    (.ofInt v, e)
  else
    let ff := floatFmt f
    let e := roundF ff mode (govFlush g) (govSat g) x
    (ff.val e.code, e)

/-- The largest finite magnitude of an element format, for vquant (R209). -/
def maxFinite (fmt : Nat) (g : BitVec 18) (cb : Tab (BitVec 16)) : XVal :=
  let f := baseFmt fmt
  let n := fmtWidth f
  if isInt f then
    if isUnsigned f then .ofNat (if govSub g = 0 then 2 ^ n - 1 else 2 ^ n - 2)
    else .ofNat (2 ^ (n - 1) - 1)
  else if isCb f then
    (((cbNumbers cb (2 ^ n)).filter (fun p => !p.2.isInf)).map (·.2.abs)).foldl
      (fun a b => if a.lt b then b else a) .zero
  else (floatFmt f).val (floatFmt f).maxCode

end Sys2Proof.Machine
end

