-- ==== Sys2Proof/Machine/Flags.lean ====
section
/-!
DEFINITION. Sys2Proof/Machine/Flags.lean: status words (R151) and what counts into them (R152, R153).
A row of an operation yields a list of counts, which are applied when the row is committed.
-/
namespace Sys2Proof.Machine

/-- One conversion that counts: the tile, whether it is a decode of that tile's element, the element
and its block, and what is counted (R150 to R152). -/
structure Cnt where
  t : Nat
  dec : Bool
  el : Nat
  blk : Nat
  sat : Bool := false
  zero : Bool := false
  nan : Bool := false
  inf : Bool := false
  oflow : Bool := false
  /-- The block was counted saturated by an earlier row of the operation. -/
  again : Bool := false
  deriving DecidableEq, Repr

/-- The fields of a status word (R151). -/
def stNSAT (w : Word) : Nat := fld w 0 20
def stNZERO (w : Word) : Nat := fld w 20 20
def stNBLK (w : Word) : Nat := fld w 40 16
def stFLAGS (w : Word) : Nat := fld w 56 3

/-- A status word from its fields, each count saturating (R151, R153). -/
def mkStatus (nsat nzero nblk flags : Nat) : Word :=
  BitVec.ofNat 64 (min nsat 0xFFFFF + min nzero 0xFFFFF * 2 ^ 20 + min nblk 0xFFFF * 2 ^ 40 +
    flags % 8 * 2 ^ 56)

/-- One or zero. -/
def oneIf (b : Bool) : Nat := if b then 1 else 0

/-- A status word after one count; `newBlk` when its block has not been counted saturated by this
operation (R152). -/
def countInto (w : Word) (c : Cnt) (newBlk : Bool) : Word :=
  mkStatus (stNSAT w + oneIf c.sat) (stNZERO w + oneIf c.zero) (stNBLK w + oneIf (c.sat && newBlk))
    (stFLAGS w ||| (oneIf c.oflow + 2 * oneIf c.nan + 4 * oneIf c.inf))

/-- The status word of a tile or accumulator in an architectural state. -/
def Arch.status (a : Arch) (t : Nat) : Word := a.st.get t 0

def Arch.setStatus (a : Arch) (t : Nat) (w : Word) : Arch := { a with st := a.st.set t w 0 }

/-- What has been counted in the row in hand: decoded elements and saturated blocks, each with its
tile. -/
structure Seen where
  els : List (Nat × Nat) := []
  blks : List (Nat × Nat) := []
  deriving DecidableEq, Repr

/-- Apply one count of an operation issued at `seq`: a decode counts each element once, a saturated
block counts once (R152, R153). The count also reaches each shadow set whose mark the operation
precedes (R311). -/
def applyCnt (seq : Nat) (p : Ctx × Seen) (c : Cnt) : Ctx × Seen :=
  if c.dec && p.2.els.contains (c.t, c.el) then p
  else
    let newBlk := !c.again && !p.2.blks.contains (c.t, c.blk)
    let m : Seen := { els := if c.dec then (c.t, c.el) :: p.2.els else p.2.els,
                      blks := if c.sat then (c.t, c.blk) :: p.2.blks else p.2.blks }
    if c.sat || c.zero || c.nan || c.inf || c.oflow then
      (p.1.apply seq (fun a => a.setStatus c.t (countInto (a.status c.t) c newBlk)), m)
    else (p.1, m)

/-- Apply the counts of a row, in order. -/
def applyCnts (c : Ctx) (seq : Nat) (l : List Cnt) : Ctx := (l.foldl (applyCnt seq) (c, {})).1

/-- What one encode counts into the destination (R150, R151). -/
def Enc.cnt (e : Enc) (t blk : Nat) : Cnt :=
  { t := t, dec := false, el := 0, blk := blk, sat := e.sat, zero := e.zero, nan := e.nan, inf := e.inf }

/-- The four exact values that vstat and mstat give (R211). -/
def statusValues (w : Word) : List Nat := [stNSAT w, stNZERO w, stNBLK w, stFLAGS w]

end Sys2Proof.Machine
end

