-- ==== Sys2Proof/Machine/Mem.lean ====
section
/-!
DEFINITION. Sys2Proof/Machine/Mem.lean: memory: bytes of device memory and scratchpad, capabilities
(R65, R66), the three scratchpad routes (R60 to R64), the object table and pages (R68 to R71), the
error log (R352, R353), and words found uncorrectable (R387).
-/
namespace Sys2Proof.Machine

/-! ## Bytes -/

/-- The key of byte `pa` of die `d` in `State.mem`. -/
def devKey (d pa : Nat) : Nat := d * 2 ^ 40 + pa

/-- `n` bytes of a byte store from `a` up; a byte that nothing lists reads as zero (log entry 5). -/
def readBytes (m : List Host.Cell) (a n : Nat) : List Byte := (span a n).map (fun i => Tab.get m i 0)

/-- Write bytes from `a` up. -/
def writeBytes (m : List Host.Cell) (a : Nat) : List Byte → List Host.Cell
  | [] => m
  | b :: r => writeBytes (Tab.set m a b 0) (a + 1) r

/-- The canonical form of a byte store: addresses strictly rising, no zero byte listed. -/
def Memory.wf (m : List Host.Cell) : Bool := Tab.wf 0 m

def State.readDev (s : State) (d pa n : Nat) : List Byte := readBytes s.mem (devKey d pa) n

/-- Write device bytes; a word written whole no longer fails its check (R387). -/
def State.writeDev (s : State) (d pa : Nat) (b : List Byte) : State :=
  let whole := (span (pa / 32) (b.length / 32 + 1)).filter
    (fun w => decide (pa ≤ 32 * w) && decide (32 * w + 32 ≤ pa + b.length))
  let s := { s with mem := writeBytes s.mem (devKey d pa) b }
  if (s.die d).bad = [] then s
  else s.updDie d (fun x => { x with bad := x.bad.filter (fun w => !whole.contains w) })

/-- What contexts that have left their slots on a core still hold there, until their teams are out (R54). -/
def State.heldOn (s : State) (core : Nat) : List Kept :=
  s.teams.flatMap (fun e => match e.2 with
    | some t => t.kept.filter (fun k => k.holds && k.core == core)
    | none => [])

/-- The partition whose contexts stand on a core, plus one; 0 where there is none. -/
def State.partOn (s : State) (core : Nat) : Nat :=
  match (s.core core).resident with
  | i :: _ => (s.ctx core i).part + 1
  | [] => match s.heldOn core with
    | k :: _ => k.part + 1
    | [] => 0

def State.readSram (s : State) (c a n : Nat) : List Byte := readBytes (s.core c).sram a n

/-- The bytes [a, a + n) of scratchpad have been written for partition `part`, given plus one; 0 for none (R59). -/
def noteWriter (k : Core) (a n part : Nat) : Tab Nat :=
  if part = 0 then k.writer else (span a n).foldl (fun t i => Tab.set t i part 0) k.writer

/-- Write scratchpad bytes; a word written whole no longer fails its check (R387). -/
def State.writeSram (s : State) (c a : Nat) (b : List Byte) : State :=
  let whole := (span (a / 32) (b.length / 32 + 1)).filter
    (fun w => decide (a ≤ 32 * w) && decide (32 * w + 32 ≤ a + b.length))
  let part := s.partOn c
  s.updCore c (fun k => { k with sram := writeBytes k.sram a b, bad := k.bad.filter (fun w => !whole.contains w), writer := noteWriter k a b.length part })

/-- A word among [a, a + n) that fails its check (R387). -/
def hasBad (bad : List Nat) (a n : Nat) : Bool :=
  bad.any (fun w => decide (a < 32 * w + 32) && decide (32 * w < a + n))

/-- A write of [a, a + n) that covers a failing word only in part (R387). -/
def partBad (bad : List Nat) (a n : Nat) : Bool :=
  bad.any (fun w => decide (a < 32 * w + 32) && decide (32 * w < a + n) &&
    !(decide (a ≤ 32 * w) && decide (32 * w + 32 ≤ a + n)))

/-! ## Capabilities (R65, R66) -/

def capOid (k : BitVec 128) : Nat := fld k 0 24
def capRights (k : BitVec 128) : Nat := fld k 24 8
def capLower (k : BitVec 128) : Nat := fld k 32 48
def capUpper (k : BitVec 128) : Nat := fld k 80 48

/-- Rights bits (R65) by place in the byte [31:24]. -/
def rRD : Nat := 0
def rWR : Nat := 1
def rAT : Nat := 2
def rCM : Nat := 3
def rEX : Nat := 4

/-- A right is set. -/
def capHas (k : BitVec 128) (r : Nat) : Bool := bits (capRights k) r 1 == 1

/-- The three scratchpad objects (R64). -/
def oidLocal : Nat := 0xFFFFFD
def oidCluster : Nat := 0xFFFFFE
def oidRemote : Nat := 0xFFFFFF
def isSpad (o : Nat) : Bool := o == oidLocal || o == oidCluster || o == oidRemote

/-- A trap condition: cause code and sr.tval. -/
structure Trap where
  code : Nat
  tval : Word := 0
  deriving DecidableEq, Repr

/-- The layout check of R64 at the issuing unit. -/
def spadBounds (c : Ctx) (oid o n : Nat) : Bool :=
  if oid = oidLocal then decide (o + n ≤ c.extent)
  else if oid = oidCluster then decide (o + n ≤ 4 * c.extent)
  else if oid = oidRemote then decide (o < 2 ^ 31) && decide (o % 2 ^ 23 + n ≤ 0x600000)
  else true

/-- The capability check of an access of `n` bytes at `o` (R66, R166 steps 2 to 4): a null object or
a missing right, then bounds, then the scratchpad layout. -/
def capCheck (c : Ctx) (k : BitVec 128) (ok : Bool) (o : Word) (n : Nat) : Option Nat :=
  if capOid k = 0 ∨ ok = false then some 0x30
  else if o.toNat < capLower k ∨ capUpper k < o.toNat + n then some 0x31
  else if spadBounds c (capOid k) o.toNat n = false then some 0x31
  else none

/-! ## Where an access lands -/

/-- Member `m` of the cluster of a core (R22). -/
def clusterMember (core m : Nat) : Nat :=
  let x := 2 * (core % 16 / 2) + m % 2
  let y := 2 * (core / 16 / 2) + m / 2
  16 * y + x

/-- R61: the member and the local offset of a cluster-view offset. -/
def clusterSplit (o : Nat) : Nat × Nat := (o / 128 % 4, 128 * (o / 128 / 4) + o % 128)

/-- A context of partition `p` on core `c` holds an extent that covers [a, a + n) (R64). -/
def holdsExtent (s : State) (c p a n : Nat) : Bool :=
  (s.core c).resident.any (fun i =>
    let x := s.ctx c i
    x.part == p && decide (x.extbase ≤ a) && decide (a + n ≤ x.extbase + x.extent)) ||
  (s.heldOn c).any (fun x => x.part == p && decide (x.extbase ≤ a) && decide (a + n ≤ x.extbase + x.extent))

/-- The place of `n` scratchpad bytes at offset `o` of object `oid`, or SPAD_DENIED (R60 to R64). The
bytes lie within one 128-byte unit. -/
def spadPlace (s : State) (core slot oid o n : Nat) : Except Nat Place :=
  let c := s.ctx core slot
  if oid = oidLocal then .ok (.sram core (c.extbase + o))
  else if oid = oidCluster then
    let (m, l) := clusterSplit o
    let t := clusterMember core m
    if s.isHole t ∨ holdsExtent s t c.part (c.extbase + l) n = false then .error 0x36
    else .ok (.sram t (c.extbase + l))
  else
    let t := 16 * bits o 27 4 + bits o 23 4
    let a := o % 2 ^ 23
    if s.isHole t ∨ holdsExtent s t c.part a n = false then .error 0x36 else .ok (.sram t a)

/-- Page bytes of a PSZ code (R68). -/
def pageBytes (psz : Nat) : Nat :=
  match psz with
  | 0 => 2 ^ 12 | 1 => 2 ^ 16 | 2 => 2 ^ 21 | _ => 2 ^ 25

/-- The object of partition `p` named `oid` (R68). -/
def State.objOf (s : State) (p oid : Nat) : Option Obj :=
  match s.obj oid with
  | some o => if o.part = p then some o else none
  | none => none

/-- The 32-byte word of die HOME that holds page entry n of an object (R68, R69). -/
def tableWord (ob : Obj) (n : Nat) : Nat := (ob.ptbase + 8 * n) / 32

/-- The object's entry, in the copy of the object table that a die holds, fails its check (R68, R385). -/
def State.entryBad (s : State) (die oid : Nat) : Bool := (s.die die).bad.contains (Config.objWord die oid)

/-- The memory port's object and page checks (R68, R71, R385) for `n` bytes at `o` within one page. -/
def translate (s : State) (p oid o n : Nat) : Except Nat Place :=
  match s.objOf p oid with
  | none => .error 0x33
  | some ob =>
    if ob.len < o + n then .error 0x33 else
    let ps := pageBytes ob.psz
    let e := ob.pages.get (o / ps) {}
    if (s.die ob.home).bad.contains (tableWord ob (o / ps)) then .error 0x42 else
    match e.state with
    | 1 | 2 => .ok (.dev e.die (e.frame * 4096 + o % ps))
    | 3 => .ok (.host (e.frame * 4096 + o % ps) (ob.kind == 1))
    | 4 => .error 0x35
    | _ => .error 0x34

/-- The place of `n` bytes at `o` through object `oid` for a context; the port of its core's die must read the object's
entry (R385). -/
def place (s : State) (core slot oid o n : Nat) : Except Nat Place :=
  if isSpad oid then spadPlace s core slot oid o n
  else if s.entryBad (dieOf core) oid then .error 0x42
  else translate s (s.ctx core slot).part oid o n

/-- The peer link whose range holds a PCIe page frame: an access through a KIND 1 object leaves on it (R321). -/
def State.linkFor (s : State) (addr : Nat) (peer : Bool) : Option Nat :=
  if peer = false then none else
  (List.range 8).find? (fun l =>
    let m := (s.linkOf l).map
    fld m 0 1 == 1 && decide (fld m 32 32 ≤ addr / 4096) && decide (addr / 4096 < fld m 32 32 + 2 ^ 28))

/-- A write to host or PCIe address space: out of the port, or on the link that maps it; a write to a
link that is down is dropped and counts as performed (R319, R321, R402). The function is the
partition's (R314). -/
def State.writeHost (s : State) (p addr : Nat) (peer : Bool) (b : List Byte) : State :=
  match s.linkFor addr peer with
  | some l =>
    let m := (s.linkOf l).map
    if (s.linkOf l).up then
      (s.updLink l (fun x => { x with run := 0 })).send (.link l true (fld m 1 3) (4096 * (addr / 4096 - fld m 32 32) + addr % 4096) b)
    else s
  | none => s.send (.pcieWrite (.vf p) addr b)

/-- A read request to host or PCIe address space (R382). -/
def State.askHost (s : State) (p addr : Nat) (peer : Bool) (n : Nat) : State :=
  match s.linkFor addr peer with
  | some l =>
    let m := (s.linkOf l).map
    (s.updLink l (fun x => { x with run := 0 })).send (.link l false (fld m 1 3) (4096 * (addr / 4096 - fld m 32 32) + addr % 4096)
      (List.replicate n 0))
  | none => s.send (.pcieRead (.vf p) addr n)

/-- A request to this address meets PCIE_DMA_ERR at once (R382, R402): the host link is down, or for
one that needs an answer the peer link is. -/
def State.hostDown (s : State) (addr : Nat) (peer wr : Bool) : Bool :=
  match s.linkFor addr peer with
  | some l => !wr && !(s.linkOf l).up
  | none => !s.linkUp

/-! ## The die error log (R352, R353) -/

/-- An entry that an error of the same STORE, ADDR and CORR merges into. -/
def LogEntry.same (e : LogEntry) (store addr : Nat) (corr : Bool) : Bool :=
  e.store == store && e.addr == addr && e.corr == corr

/-- The number of the first of the 256 entries that `f` accepts. -/
def findLog (d : Die) (f : Option LogEntry → Bool) : Option Nat :=
  (List.range 256).find? (fun i => f (d.log.get i none))

/-- The corrected entry with the oldest first occurrence (R353). -/
def oldestCorr (d : Die) : Option Nat :=
  (List.range 256).foldl (fun b i =>
    match d.log.get i none with
    | some e => if e.corr then
        (match b with
         | some j => (match d.log.get j none with
            | some f => if e.tfirst < f.tfirst then some i else b
            | none => some i)
         | none => some i)
      else b
    | none => b) none

/-- An error is logged: merged, put in a free entry, put in place of the oldest corrected entry, or
dropped with ERRLOG_FULL raised once (R353). -/
def State.logErr (s : State) (die code : Nat) (corr : Bool) (store : Nat) (part core : Option Nat)
    (addr : Nat) : State :=
  let d := s.die die
  let fresh : LogEntry :=
    { code := code, corr := corr, store := store, part := part, core := core, addr := addr,
      count := 1, tfirst := s.now, tlast := s.now }
  let put (i : Nat) (e : LogEntry) : State :=
    s.updDie die (fun x => { x with log := x.log.set i (some e) none })
  match findLog d (fun e => e.any (·.same store addr corr)) with
  | some i =>
    (match d.log.get i none with
     | some e => put i { e with count := min 255 (e.count + 1), tlast := s.now }
     | none => s)
  | none =>
    match findLog d (fun e => e.isNone) with
    | some i => put i fresh
    | none =>
      match (if corr then none else oldestCorr d) with
      | some i => put i fresh
      | none =>
        if d.logFull then s
        else (s.updDie die (fun x => { x with logFull := true })).postF 0x49 (die := die)

/-- A requester met an uncorrectable word: logged and posted to its partition (R351, R353). `arg` is
the offset the access used (R355). -/
def State.uncorr (s : State) (die store addr : Nat) (part : Nat) (core : Nat) (arg : Nat) : State :=
  let code := if store = 1 ∨ store = 4 then 0x42 else 0x43
  (s.logErr die code false store (some part) (some core) addr).postE part code
    (island := s.islandOf core) (core := core) (die := die) (arg := arg)

/-- ERR_CORRECTED: logged, and posted at most once per 1 ms per die (R353). -/
def State.corrected (s : State) (die store addr : Nat) (part core : Option Nat) : State :=
  let s := s.logErr die 0x44 true store part core addr
  match (s.die die).corrAt with
  | some t => if s.now < t + 1000000 then s
      else (s.updDie die (fun x => { x with corrAt := some s.now })).postF 0x44 (die := die)
  | none => (s.updDie die (fun x => { x with corrAt := some s.now })).postF 0x44 (die := die)

/-! ## Commutative arithmetic (R83, R84) -/

/-- Element bytes of CFMT: f32, bf16, i32, i64 (R68). -/
def cfmtBytes (f : Nat) : Nat :=
  match f with
  | 0 => 4 | 1 => 2 | 2 => 4 | _ => 8

/-- The identity of COP in CFMT, as a pattern (R83). -/
def combId (cfmt cop : Nat) : Nat :=
  match cfmt, cop with
  | _, 0 => 0
  | 0, 1 => 0x7F800000
  | 0, _ => 0xFF800000
  | 1, 1 => 0x7F80
  | 1, _ => 0xFF80
  | 2, 1 => 2 ^ 31 - 1
  | 2, _ => 2 ^ 31
  | _, 1 => 2 ^ 63 - 1
  | _, _ => 2 ^ 63

/-- Op of a commutative range on two patterns (R84). -/
def combOp (cfmt cop v p : Nat) : Nat :=
  match cfmt with
  | 0 | 1 =>
    let f := if cfmt = 0 then f32 else bf16
    let x := f.val v
    let y := f.val p
    let r := match cop with
      | 0 => x.add y
      | 1 => x.min y
      | _ => x.max y
    (roundF f rne false false r).code
  | _ =>
    let n := if cfmt = 2 then 32 else 64
    match cop with
    | 0 => (v + p) % 2 ^ n
    | 1 => if sNat p n < sNat v n then p else v
    | _ => if sNat v n < sNat p n then p else v

end Sys2Proof.Machine
end

