-- ==== Sys2Proof/Machine/Operands.lean ====
section
/-!
DEFINITION. Sys2Proof/Machine/Operands.lean: the operand forms: tile descriptors and their checks
(R188 to R190, R194), elements of tiles and accumulators in the local and the cluster view (R60 to
R62, R137, R195), decoding with scales and outliers (R143, R144, R147), source modifiers (R197), and
the memory operand of the S slot (R166).
-/
namespace Sys2Proof.Machine

/-! ## Descriptors (R188) -/

def dBase (d : BitVec 128) : Nat := fld d 0 25
def dView (d : BitVec 128) : Bool := fld d 25 1 == 1
def dRows (d : BitVec 128) : Nat := fld d 26 8 + 1
def dCols (d : BitVec 128) : Nat := fld d 34 9 + 1
def dVRows (d : BitVec 128) : Nat := fld d 43 9
def dVCols (d : BitVec 128) : Nat := fld d 52 10
def dPitch (d : BitVec 128) : Nat := fld d 64 25
def dFmt (d : BitVec 128) : Nat := fld d 89 5
def dStep (d : BitVec 128) : Int := sNat (fld d 94 24) 24
def dState (d : BitVec 128) : Nat := fld d 118 2

/-- A descriptor from its fields, step 0. -/
def mkDesc (base view rows cols vrows vcols pitch fmt : Nat) : BitVec 128 :=
  BitVec.ofNat 128 (base + view * 2 ^ 25 + (rows - 1) * 2 ^ 26 + (cols - 1) * 2 ^ 34 + vrows * 2 ^ 43 +
    vcols * 2 ^ 52 + pitch * 2 ^ 64 + fmt * 2 ^ 89)

/-- An accumulator as a tile operand: f32, 128 × 64, fully valid, local, step 0 (R190). -/
def accDesc : BitVec 128 := mkDesc 0 0 128 64 128 64 256 0

/-- Row width in bytes (R188). -/
def dWidth (d : BitVec 128) : Nat := (dCols d * fmtWidth (dFmt d) + 7) / 8

/-- BASE′ = BASE + k × STEP (R114, R188). -/
def dBaseAt (d : BitVec 128) (k : Nat) : Int := (dBase d : Int) + (k : Int) * dStep d

/-- The descriptor with BASE stepped for the issue in hand. -/
def dStepped (d : BitVec 128) (k : Nat) : BitVec 128 := setFld d 0 25 (dBaseAt d k).toNat

/-- An element lies in the valid region (R195). -/
def dValid (d : BitVec 128) (i j : Nat) : Bool := decide (i < dVRows d) && decide (j < dVCols d)

/-- The descriptor behind a tile operand code of a context. -/
def Arch.desc (a : Arch) (t : Nat) : BitVec 128 := if t < 64 then a.t.get t 0 else accDesc

def Arch.setDesc (a : Arch) (t : Nat) (d : BitVec 128) : Arch := { a with t := a.t.set t d 0 }

/-- STATE of a tile or accumulator (R188, R217). -/
def Arch.tstate (a : Arch) (t : Nat) : Nat :=
  if t < 64 then dState (a.desc t) else if a.accFilling.get (t - 64) false then 1 else 2

/-- Set STATE; an accumulator has only ready and filling (R217). -/
def Arch.setTstate (a : Arch) (t v : Nat) : Arch :=
  if t < 64 then a.setDesc t (setFld (a.desc t) 118 2 v)
  else { a with accFilling := a.accFilling.set (t - 64) (v == 1) false }

/-! ## Checks (R189, R190) -/

/-- The lowest set bit among the reserved fields of a descriptor. -/
def dReserved (d : BitVec 128) : Option Nat :=
  [62, 63, 121, 122, 123, 124, 125, 126, 127].find? (fun b => d.getLsbD b)

/-- Items 1 and 2 of R189: the failed field's bit. -/
def descErr (d : BitVec 128) : Option Nat :=
  match dReserved d with
  | some b => some b
  | none =>
    if dRows d < dVRows d then some 43
    else if dCols d < dVCols d then some 52
    else if 28 ≤ dFmt d then some 89
    else if dBase d % 32 ≠ 0 then some 0
    else if dPitch d % 32 ≠ 0 then some 64
    else if dStep d % 32 ≠ 0 then some 94
    else if dRows d ≠ 1 ∧ dPitch d < dWidth d then some 64
    else none

/-- The footprint at re-issue index `k`: first byte and first byte beyond (R188). -/
def footprint (d : BitVec 128) (k : Nat) : Int × Int :=
  (dBaseAt d k, dBaseAt d k + ((dRows d - 1) * dPitch d + dWidth d : Nat))

/-- A footprint lies in the extent, or in 4 × extent in the cluster view (R189). -/
def inExtent (c : Ctx) (d : BitVec 128) (f : Int × Int) : Bool :=
  decide (0 ≤ f.1) && decide (f.2 ≤ ((if dView d then 4 * c.extent else c.extent : Nat) : Int))

/-- Item 3 of R189: the failed field's bit. -/
def boundsErr (c : Ctx) (d : BitVec 128) (k : Nat) : Option Nat :=
  let f := footprint d k
  if inExtent c d f then none
  else if 0 < k ∧ inExtent c d (footprint d 0) then some 94
  else if f.1 < 0 then some 0
  else some 26

/-- TILE_DESC or TILE_BOUNDS of one tile operand at re-issue index `k` (R189, R190). -/
def checkTile (c : Ctx) (k t : Nat) : Option Trap :=
  if 64 ≤ t then (if t - 64 < c.nacc then none else some { code := 0x20, tval := BitVec.ofNat 64 t })
  else
    let d := c.a.desc t
    match descErr d with
    | some b => some { code := 0x20, tval := BitVec.ofNat 64 (t + b * 256) }
    | none =>
      match boundsErr c d k with
      | some b => some { code := 0x21, tval := BitVec.ofNat 64 (t + b * 256) }
      | none => none

/-- The first failure of a list of checks. -/
def firstOf : List (Option Trap) → Option Trap
  | [] => none
  | some t :: _ => some t
  | none :: r => firstOf r

/-- A trap whose sr.tval is a tile operand code. -/
def tileTrap (code t : Nat) (bad : Bool) : Option Trap :=
  if bad then some { code := code, tval := BitVec.ofNat 64 t } else none

/-! ## Footprints as bytes of the issuing core (R194) -/

/-- Member number of a core in its cluster (R22). -/
def memberOf (core : Nat) : Nat := core % 2 + 2 * (core / 16 % 2)

/-- The local offsets that a cluster-view range [a, b) has on member `m`: one range or none (R61). -/
def clusterLocal (m a b : Nat) : Option (Nat × Nat) :=
  let u0 := a / 128
  let lo := if u0 % 4 = m then 128 * (u0 / 4) + a % 128 else 128 * ((u0 + (m + 4 - u0 % 4) % 4) / 4)
  let u1 := (b - 1) / 128
  let back := (u1 % 4 + 4 - m) % 4
  let hi := if u1 % 4 = m then 128 * (u1 / 4) + (b - 1) % 128 + 1
    else if u1 < back then 0 else 128 * ((u1 - back) / 4) + 128
  if lo < hi then some (lo, hi) else none

/-- The bytes of the issuing core's extent that a tile's stepped footprint covers. -/
def ownBytes (core : Nat) (d : BitVec 128) (k : Nat) : Option (Nat × Nat) :=
  let f := footprint d k
  if dView d then clusterLocal (memberOf core) f.1.toNat f.2.toNat else some (f.1.toNat, f.2.toNat)

/-- Two tile operands overlap in bytes: accumulators only with themselves (R194). -/
def overlaps (core : Nat) (c : Ctx) (k t u : Nat) : Bool :=
  if t = u then true
  else if 64 ≤ t ∨ 64 ≤ u then false
  else match ownBytes core (c.a.desc t) k, ownBytes core (c.a.desc u) k with
    | some a, some b => decide (a.1 < b.2) && decide (b.1 < a.2)
    | _, _ => false

/-- TILE_ALIAS within one operation: a destination and a source overlap, unless they are one tile of
an operation marked in place (R194). -/
def aliasCheck (core : Nat) (c : Ctx) (k : Nat) (inPlace : Bool) (dests srcs : List Nat) : Option Trap :=
  firstOf (dests.flatMap (fun t => srcs.map (fun u =>
    tileTrap 0x25 u (overlaps core c k t u && !(inPlace && t == u)))))

/-! ## Elements (R60 to R62, R137, R195) -/

/-- Where the bits of element (i, j) stand in the issuing core's SRAM: first byte, bit, bytes; absent
where they do not all fall on that core in one unit of the cluster view (R62). -/
def elemAt (core : Nat) (extbase : Nat) (d : BitVec 128) (i j : Nat) : Option (Nat × Nat × Nat) :=
  let w := fmtWidth (dFmt d)
  let b := dBase d + i * dPitch d + j * w / 8
  let sh := j * w % 8
  let n := (sh + w + 7) / 8
  if dView d then
    let u := b / 128
    if (b + n - 1) / 128 = u ∧ u % 4 = memberOf core then some (extbase + 128 * (u / 4) + b % 128, sh, n)
    else none
  else some (extbase + b, sh, n)

/-- Key of an accumulator element. -/
def accKey (n i j : Nat) : Nat := 8192 * n + 64 * i + j

/-- The code of element (i, j) of tile `t` with captured descriptor `d`, valid or not; absent where it
lies on another core. -/
def rawCode (s : State) (core slot t : Nat) (d : BitVec 128) (i j : Nat) : Option Nat :=
  let c := s.ctx core slot
  if 64 ≤ t then some (c.acc.get (accKey (t - 64) i j) 0).toNat
  else match elemAt core c.extbase d i j with
    | some (a, sh, n) => some (bits (ofBytes (s.readSram core a n)) sh (fmtWidth (dFmt d)))
    | none => none

/-- The code of a source element: absent, so +0, outside the valid region (R195). -/
def elemCode (s : State) (core slot t : Nat) (d : BitVec 128) (i j : Nat) : Option Nat :=
  if dValid d i j then rawCode s core slot t d i j else none

/-- Write the code of element (i, j), whether valid or not; other bits of its bytes stay (R195). -/
def writeCode (s : State) (core slot t : Nat) (d : BitVec 128) (i j v : Nat) : State :=
  let c := s.ctx core slot
  if 64 ≤ t then
    s.updCtx core slot (fun c => { c with acc := c.acc.set (accKey (t - 64) i j) (BitVec.ofNat 32 v) 0 })
  else match elemAt core c.extbase d i j with
    | some (a, sh, n) =>
      let w := fmtWidth (dFmt d)
      let old := ofBytes (s.readSram core a n)
      s.writeSram core a (toBytes n (old - bits old sh w * 2 ^ sh + v % 2 ^ w * 2 ^ sh))
    | none => s

/-- An element is written by this core: it is an accumulator's, or its bits fall here (R62). -/
def ownElem (core extbase t : Nat) (d : BitVec 128) (i j : Nat) : Bool :=
  decide (64 ≤ t) || (elemAt core extbase d i j).isSome

/-! ## Decoding a tile's element (R143, R144, R147) -/

/-- The operation in hand: its core, context slot and captured state, and the machine at the start of
the row. -/
structure Env where
  s : State
  core : Nat
  o : EOp

def Env.desc (e : Env) (t : Nat) : BitVec 128 := if t < 64 then e.o.cap.descs.get t 0 else accDesc

def Env.code (e : Env) (t i j : Nat) : Option Nat :=
  elemCode e.s e.core e.o.slot t (e.desc t) i j

/-- How an operand is decoded: governing register, codebook, K down the columns or along the rows. -/
structure Rd where
  g : BitVec 18
  cb : Tab (BitVec 16)
  down : Bool := false
  /-- The elements of one block or group that NBLK counts stand in several progress rows, in K order. -/
  cross : Bool := false
  deriving DecidableEq, Repr

/-- Elements in a block along K: BLK, or 32 for outliers of an unscaled format (R142, R144). -/
def blockLen (fmt : Nat) (g : BitVec 18) : Nat := if isBlock fmt then govBlk g else 32

/-- The block number of an element as NBLK counts it (R152). -/
def cntBlock (fmt : Nat) (g : BitVec 18) (down : Bool) (i j : Nat) : Nat :=
  if isBlock fmt then (if down then j * 1024 + i / govBlk g else i * 1024 + j / govBlk g)
  else i * 1024 + j / 32

/-- Escapes among the elements of a block before K index `k` of line `l` (R144). -/
def escapesBefore (e : Env) (r : Rd) (t l k : Nat) : Nat :=
  let fmt := dFmt (e.desc t)
  let n := fmtWidth fmt
  let b := blockLen fmt r.g
  ((span (k / b * b) (k - k / b * b)).filter (fun m =>
    (if r.down then e.code t m l else e.code t l m) == some (reservedCode (baseFmt fmt) n))).length

/-- The value of element (i, j) before its block scale, and what its decode counts (R147, R152). -/
def Env.decodeRaw (e : Env) (r : Rd) (t i j : Nat) : XVal × List Cnt :=
  match e.code t i j with
  | none => (.zero, [])
  | some code =>
    let fmt := dFmt (e.desc t)
    let d := decodeElem fmt r.g r.cb code
    let l := if r.down then j else i
    let k := if r.down then i else j
    let base : Cnt := { t := t, dec := true, el := i * 512 + j, blk := cntBlock fmt r.g r.down i j }
    if d.esc then
      let x := escapesBefore e r t l k
      let nout := fld e.o.cap.fs 7 3
      if x < nout then
        let v := (e.code (fld e.o.cap.fs 0 7) l (k / blockLen fmt r.g * nout + x)).getD 0
        let v := bf16.val (v % 2 ^ 16)
        (v, [{ base with nan := v.isNan, inf := v.isInf }])
      else (excessVal fmt, [{ base with sat := true, oflow := true, again := r.cross && (isBlock fmt || !r.down) && x != nout }])
    else (d.v, [{ base with zero := d.zeroed, nan := d.v.isNan, inf := d.v.isInf }])

/-- The scale of block `b` of line `l` of a block-scaled tile (R143). Reading a scale counts nothing and sets no flag,
also where it is NaN or infinite: DESIGN CHOICE (log entry 52). -/
def Env.scale (e : Env) (down : Bool) (t l b : Nat) : XVal :=
  f32.val ((if down then e.code (t + 1) b l else e.code (t + 1) l b).getD 0)

/-- Decode(element) with its block scale (R147); the flags are those of the value returned. Log entry 52. -/
def Env.decode (e : Env) (r : Rd) (t i j : Nat) : XVal × List Cnt :=
  let (v, cs) := e.decodeRaw r t i j
  let fmt := dFmt (e.desc t)
  if isBlock fmt && !cs.isEmpty then
    let l := if r.down then j else i
    let k := if r.down then i else j
    let v := v.mul (e.scale r.down t l (k / govBlk r.g))
    (v, cs.map (fun c => { c with nan := v.isNan, inf := v.isInf }))
  else (v, cs)

/-! ## Source modifiers (R197) -/

/-- The column at which the source named by MSEL is read for destination column `j`. -/
def modColumn (o : VT) (j : Nat) : Nat :=
  let sz := 2 ^ (o.seg + 1)
  let g := j / sz
  let p := j % sz
  match o.mcls with
  | 1 => g * sz + (p + o.dist) % sz
  | 2 => g * sz + (p ^^^ o.dist)
  | 3 => g * sz + o.dist
  | _ => j

/-- The column at which source `n` (0 TA, 1 TB, 2 TC) is read. -/
def srcColumn (o : VT) (n j : Nat) : Nat := if o.msel = n then modColumn o j else j

/-! ## The memory operand of the S slot (R128, R166) -/

/-- o := Wrap64(s[X] + OFF14), the offset signed. -/
def memOffset (c : Ctx) (x off : Nat) : Word := c.getS x + sext64 off 14

/-- Bytes of a width code (R129). -/
def widthBytes (w : Nat) : Nat := 2 ^ w

end Sys2Proof.Machine
end

