-- ==== Sys2Proof/Machine/Coherence.lean ====
section
/-!
DEFINITION. Sys2Proof/Machine/Coherence.lean: caches and logical time (R72 to R86, R389, R390). Values
live in `State.mem` (log entry 4): the blocks here carry placement, dirtiness and times, a leased copy also the bytes it
was given (R98), and the commutative buffers carry partials until a combination folds them into memory.
-/
namespace Sys2Proof.Machine

/-! ## Blocks and home times (R72, R79) -/

/-- Write time, lease end and own holder (core plus one) of the 32-byte word `w` of a die. -/
def Die.times (d : Die) (w : Nat) : Nat × Nat × Nat := d.home.get w (0, 0, 0)

def State.setTimes (s : State) (die w : Nat) (v : Nat × Nat × Nat) : State :=
  s.updDie die (fun d => { d with home := d.home.set w v (0, 0, 0) })

/-- A block holds word `i` of a frame. -/
def Block.has (b : Block) (die frame i : Nat) : Bool :=
  b.die == die && b.frame == frame && decide (b.a ≤ i) && decide (i ≤ b.b)

/-- A block holds a word of those from `x` to `y` of a frame. -/
def Block.meets (b : Block) (die frame x y : Nat) : Bool :=
  b.die == die && b.frame == frame && decide (b.a ≤ y) && decide (x ≤ b.b)

/-- The words of a block, as word numbers of its die, and the dirty ones. -/
def Block.words (b : Block) : List Nat := span (16 * b.frame + b.a) (b.b + 1 - b.a)
def Block.dirtyWords (b : Block) : List Nat := b.words.filter (fun w => b.dirty.testBit (w % 16))

/-- The bytes of word `i` in a leased copy. -/
def Block.bytesAt (b : Block) (i : Nat) : List Byte := (b.data.drop (32 * (i - b.a))).take 32

/-! ## L2 (R70, R73, R296) -/

/-- LPDDR-6 traffic of `n` bytes on the usage of a core's island (R296): 1 eighth of a grain per 64 KiB. -/
def meterBytes (s : State) (core n : Nat) : State :=
  s.updIsland (s.islandOf core) (fun i =>
    let r := i.uRem + n
    { i with uAcc := i.uAcc + r / 65536, uRem := r % 65536 })

/-- LPDDR-6 traffic on a context's joule counter: 125 nJ per 4 KiB, with the remainder carried (R296). -/
def meterCtx (s : State) (core slot n : Nat) : State :=
  s.updCtx core slot (fun c =>
    let r := c.jouleRem + 125 * n
    { c with joule := c.joule + r / 4096, jouleRem := r % 4096 })

/-- LPDDR-6 traffic of `n` bytes caused by a context. -/
def meterDram (s : State) (core slot n : Nat) : State := meterBytes (meterCtx s core slot n) core n

/-- LPDDR-6 traffic of `n` bytes that a context of a team has caused: at its core's charge, and at its own while it
holds its slot. -/
def meterFor (s : State) (core slot team n : Nat) : State :=
  meterBytes (if (s.ctx core slot).st ≠ .free ∧ (s.ctx core slot).team = team then meterCtx s core slot n else s) core n

/-- The L2 set of a frame: its slice and its index there. -/
def l2Set (frame : Nat) : Nat := frame % (24 * 512)

/-- Of blocks, the most recently used first, those that a set of `words` words and `tags` tags keeps, and those it
evicts, the least recently used ones (R73); `inSet` names the blocks of the set. -/
def trimSet (inSet : Block → Bool) (words tags : Nat) : List Block → List Block × List Block
  | [] => ([], [])
  | b :: r =>
    if inSet b then
      if b.b + 1 - b.a ≤ words ∧ 0 < tags then
        let k := trimSet inSet (words - (b.b + 1 - b.a)) (tags - 1) r
        (b :: k.1, k.2)
      else (r.filter (fun x => !inSet x), b :: r.filter inSet)
    else
      let k := trimSet inSet words tags r
      (b :: k.1, k.2)

/-- The blocks that an L2 set of 256 words and 48 tags keeps, and those it evicts. -/
def l2Trim (l : List Block) (set : Nat) : List Block × List Block := trimSet (fun b => l2Set b.frame == set) 256 48 l

/-- The key of a device word in the records of what a store below holds of it. -/
def wordKey (die w : Nat) : Nat := die * 2 ^ 35 + w

/-- The home is about to change a word: what LPDDR-6 holds of it stays on record (R398). -/
def noteL2 (s : State) (die w : Nat) : State :=
  if s.l2Old.get (wordKey die w) [] = [] then
    { s with l2Old := s.l2Old.set (wordKey die w) (s.readDev die (32 * w) 32) [] }
  else s

/-- A holder is about to dirty a word: what the home holds of it stays on record (R398). -/
def noteL1 (s : State) (die w : Nat) : State :=
  if s.l1Old.get (wordKey die w) [] = [] then
    { s with l1Old := s.l1Old.set (wordKey die w) (s.readDev die (32 * w) 32) [] }
  else s

/-- An L2 block's dirty words reach LPDDR-6, at the charge of the core whose write last dirtied the block, and of its
context while that holds its slot (R296). -/
def l2Clean (s : State) (die : Nat) (b : Block) : State :=
  if b.dirty = 0 then s else
  let s := s.updDie die (fun d => { d with badL2 := d.badL2.filter (fun w => !b.words.contains w) })
  let s := { s with l2Old := b.dirtyWords.foldl (fun t w => t.set (wordKey die w) [] []) s.l2Old }
  match b.who with
  | none => s
  | some (core, slot, team) => meterFor s core slot team (32 * b.dirtyWords.length)

/-- A block goes into L2 as the most recently used, merged with those that it overlaps; what has no room is
evicted. -/
def l2Put (s : State) (die : Nat) (b : Block) : State :=
  let l := (s.die die).l2
  let m := (l.filter (·.meets die b.frame b.a b.b)).foldl (fun m x =>
    { m with a := min m.a x.a, b := max m.b x.b, dirty := m.dirty ||| x.dirty, who := if m.who.isSome then m.who else x.who }) b
  let r := l2Trim (m :: l.filter (fun x => !x.meets die b.frame b.a b.b)) (l2Set b.frame)
  r.2.foldl (fun s x => l2Clean s die x) (s.updDie die (fun d => { d with l2 := r.1 }))

/-- Words a to b of a frame are used at their home slice; how many of them LPDDR-6 had to give. -/
def l2Use (s : State) (die frame a b : Nat) : State × Nat :=
  let l := (s.die die).l2
  let absent := ((span a (b + 1 - a)).filter (fun i => !l.any (fun x => x.has die frame i))).length
  if absent = 0 then
    (s.updDie die (fun d => { d with l2 := d.l2.filter (·.meets die frame a b) ++ d.l2.filter (fun x => !x.meets die frame a b) }), 0)
  else (l2Put s die { die := die, frame := frame, a := a, b := b, ty := 1, dirty := 0, wts := 0, lease := 0 }, absent)

/-- Word `w` is about to be written at its home by a context, or by the host or the command processor. -/
def l2Dirty (s : State) (die w : Nat) (who : Option (Nat × Nat × Nat)) : State :=
  l2Put (noteL2 s die w) die { die := die, frame := w / 16, a := w % 16, b := w % 16, ty := 1, dirty := 2 ^ (w % 16), wts := 0, lease := 0, who := who }

/-- Host and command processor use the words of [pa, pa + n) at their homes (R28): at no core's charge. -/
def l2Host (s : State) (die pa n : Nat) (wr : Bool) : State :=
  (span (pa / 32) ((pa + n + 31) / 32 - pa / 32)).foldl (fun s w =>
    let s := (l2Use s die (w / 16) (w % 16) (w % 16)).1
    if wr then l2Dirty s die w none else s) s

/-- The store of a failing word that is met at its home (R352, R385). -/
def homeStoreOf (s : State) (die w : Nat) : Nat := if (s.die die).badL2.contains w then 1 else 4

/-- The failing words of [pa, pa + n) are logged with no requester (R352). -/
def logHomeBad (s : State) (die pa n : Nat) : State :=
  ((s.die die).bad.filter (fun w => decide (pa < 32 * w + 32) && decide (32 * w < pa + n))).foldl
    (fun s w => s.logErr die 0x42 false (homeStoreOf s die w) none none (32 * w)) s

/-- A context as the one that dirties a block. -/
def State.whoIs (s : State) (core slot : Nat) : Option (Nat × Nat × Nat) := some (core, slot, (s.ctx core slot).team)

/-! ## Leaving L1: victim buffer, recall (R79, R82, R387) -/

/-- An own block's times go back to the home; its dirty words have the holder `h`, the others none. -/
def giveBack (s : State) (b : Block) (h : Nat) : State :=
  if b.ty = 0 then
    b.words.foldl (fun s w =>
      let (wt, le, _) := (s.die b.die).times w
      s.setTimes b.die w (max wt b.wts, max le b.lease, if b.dirty.testBit (w % 16) then h else 0)) s
  else s

/-- A device word fails its check from now on. Log entry 109. -/
def spoilWord (s : State) (die w : Nat) : State :=
  s.updDie die (fun d => { d with bad := if d.bad.contains w then d.bad else d.bad ++ [w] })

/-- Byte offset in a core's SRAM of the L1 set of a word, and of the word in its frame (R24, R73, R352). Log entry
109. -/
def l1Addr (k : Core) (w : Nat) : Nat :=
  (12 - k.l1size) * 2 ^ 19 + 2048 * (w / 16 % max 1 (256 * k.l1size)) + 32 * (w % 16)

/-- A word that stands dirty in L2 fails its check from now on. -/
def spoilL2 (s : State) (die w : Nat) : State :=
  (spoilWord s die w).updDie die (fun d => { d with badL2 := if d.badL2.contains w then d.badL2 else d.badL2 ++ [w] })

/-- A dirty word found uncorrectable reaches the home still failing its check (R387): logged, and posted to the
partition whose write made it dirty. -/
def spoilHome (s : State) (core part die w : Nat) : State :=
  let s := s.updCore core (fun k => { k with l1Bad := k.l1Bad.filter (· != (die, w)) })
  let s := (spoilL2 s die w).logErr (dieOf core) 0x43 false 0 (some part) (some core) (l1Addr (s.core core) w)
  s.postE part 0x43 (island := s.islandOf core) (core := core) (die := dieOf core)

/-- A dirty word of a block that leaves a core reaches its home: the home's record of LPDDR-6 takes over, and where the
core holds the word dirty again, the home holds what the block brings (R398). -/
def settleOld (s : State) (core : Nat) (b : Block) (w : Nat) : State :=
  let k := wordKey b.die w
  let old := s.l1Old.get k []
  let s := if s.l2Old.get k [] = [] then { s with l2Old := s.l2Old.set k (if old = [] then s.readDev b.die (32 * w) 32 else old) [] } else s
  let again := ((s.core core).l1 ++ (s.core core).victim).any (fun x => x.ty == 0 && x.has b.die b.frame (w % 16) && x.dirty.testBit (w % 16))
  { s with l1Old := s.l1Old.set k (if again then b.bytesAt (w % 16) else []) [] }

/-- The dirty words of a block reach their home whole: those that failed their check there pass it again. -/
def writeHome (s : State) (core : Nat) (b : Block) : State :=
  if b.dirty = 0 then s else
  let s := b.dirtyWords.foldl (fun s w => settleOld s core b w) s
  let good := b.dirtyWords.filter (fun w => !(s.core core).l1Bad.contains (b.die, w))
  let s := if (s.die b.die).bad = [] then s else s.updDie b.die (fun d => { d with bad := d.bad.filter (fun w => !good.contains w) })
  let s := b.dirtyWords.foldl (fun s w => if (s.core core).l1Bad.contains (b.die, w) then spoilHome s core b.part b.die w else s) s
  l2Put s b.die { b with ty := 1, wts := 0, lease := 0, part := 0, data := [], used := 0, key := (0, 0, 0), party := (0, 0) }

/-- The words of a victim entry have no holder any more, but where the core has acquired them anew. -/
def freeHolder (s : State) (core : Nat) (b : Block) : State :=
  b.dirtyWords.foldl (fun s w =>
    let (wt, le, h) := (s.die b.die).times w
    if h = core + 1 ∧ (s.core core).l1.any (fun x => x.ty == 0 && x.has b.die b.frame (w % 16)) = false then s.setTimes b.die w (wt, le, 0) else s) s

/-- The oldest entry of a victim buffer gets its grant: its dirty words are sent and it is freed (R82). -/
def grantOldest (s : State) (core : Nat) : State :=
  match (s.core core).victim with
  | [] => s
  | b :: r => writeHome (freeHolder (s.updCore core (fun k => { k with victim := r })) core b) core b

/-- Every entry of a victim buffer is granted. -/
def drainVictim (s : State) (core : Nat) : State := (s.core core).victim.foldl (fun s _ => grantOldest s core) s

/-- A block's residency ends: the predictor keeps the footprint of the words used (R74). It holds 64 (log entry 9). -/
def noteFoot (s : State) (core : Nat) (b : Block) : State :=
  if b.used = 0 then s
  else s.updCore core (fun k => { k with foot := ((b.key, b.used) :: k.foot.filter (fun f => f.1 != b.key)).take 64 })

/-- Dirty words take an entry of the victim buffer, with their bytes; a full one waits for its oldest grant (R82; log
entry 21). -/
def toVictim (s : State) (core : Nat) (b : Block) : State :=
  let s := if 8 ≤ (s.core core).victim.length then grantOldest s core else s
  let b := { b with data := s.readDev b.die (512 * b.frame + 32 * b.a) (32 * (b.b + 1 - b.a)) }
  s.updCore core (fun k => { k with victim := k.victim ++ [b] })

/-- An evicted or dropped block (R82). -/
def evict (s : State) (core : Nat) (b : Block) : State :=
  let s := noteFoot (giveBack s b (core + 1)) core b
  if b.dirty = 0 then s else toVictim s core b

/-- Drop from a core's L1 every block that `f` names, writing back dirty words (R59, R77). -/
def dropL1 (s : State) (core : Nat) (f : Block → Bool) : State :=
  let gone := (s.core core).l1.filter f
  gone.foldl (fun s b => evict s core b)
    (s.updCore core (fun k => { k with l1 := k.l1.filter (fun b => !f b) }))

/-- A core's L1 and victim buffer are written back and empty (R59, R389). -/
def emptyL1 (s : State) (core : Nat) : State := drainVictim (dropL1 s core (fun _ => true)) core

/-- A core gives up a word that it holds own, with data and times (R79); a word in a victim buffer is served
from there, which frees the entry (R82). -/
def recallFrom (s : State) (c die w : Nat) : State :=
  let frame := w / 16
  let i := w % 16
  let gone := (s.core c).l1.filter (fun b => b.ty == 0 && b.has die frame i)
  let vic := (s.core c).victim.filter (·.has die frame i)
  let s := s.updCore c (fun k =>
      { k with l1 := k.l1.filter (fun b => !(b.ty == 0 && b.has die frame i)),
               victim := k.victim.filter (fun b => !b.has die frame i) })
  let s := gone.foldl (fun s b => writeHome (noteFoot (giveBack s b 0) c b) c b) s
  vic.foldl (fun s b => writeHome (freeHolder s c b) c b) s

/-- The home recalls the own holder of a word. -/
def recallWord (s : State) (die w : Nat) : State :=
  let h := ((s.die die).times w).2.2
  if h = 0 then s else recallFrom s (h - 1) die w

def recallWords (s : State) (die : Nat) (ws : List Nat) : State := ws.foldl (fun s w => recallWord s die w) s

/-! ## Requests at the home (R79) -/

/-- The words of the home's block that holds a word: those of its L2 block, or the word alone (R72, R79; log entry 4). -/
def homeBlock (d : Die) (w : Nat) : List Nat :=
  match d.l2.find? (fun b => b.frame == w / 16 && decide (b.a ≤ w % 16) && decide (w % 16 ≤ b.b)) with
  | some b => b.words
  | none => [w]

/-- The home's blocks of some words, each once. -/
def homeBlocks (d : Die) (ws : List Nat) : List (List Nat) := (ws.map (homeBlock d)).eraseDups

/-- Write time and lease end of a home's block: the largest of its words (R75, R79). -/
def homeTimes (d : Die) (b : List Nat) : Nat × Nat :=
  b.foldl (fun p w => (max p.1 (d.times w).1, max p.2 (d.times w).2.1)) (0, 0)

/-- A home's block takes a write time and a lease end; each word keeps its holder. -/
def setBlock (s : State) (die : Nat) (b : List Nat) (wt le : Nat) : State :=
  b.foldl (fun s w => s.setTimes die w (wt, le, ((s.die die).times w).2.2)) s

/-- A read of words served at the home to a party at time `t`, the leases of their blocks extended by `ext` units. -/
def homeReads (s : State) (die : Nat) (ws : List Nat) (t ext : Nat) : State × Nat :=
  let s := recallWords s die ws
  let bs := homeBlocks (s.die die) ws
  let t := bs.foldl (fun t b => max t (homeTimes (s.die die) b).1) t
  (bs.foldl (fun s b =>
    let x := homeTimes (s.die die) b
    setBlock s die b x.1 (max x.2 (t + ext))) s, t)

/-- A write of words at the home, or the acquisition of own for a write. -/
def homeWrites (s : State) (die : Nat) (ws : List Nat) (t : Nat) : State × Nat :=
  let s := recallWords s die ws
  let bs := homeBlocks (s.die die) ws
  let t := bs.foldl (fun t b => max t ((homeTimes (s.die die) b).2 + 1)) t
  (bs.foldl (fun s b => setBlock s die b t t) s, t)

def homeRead (s : State) (die w t ext : Nat) : State × Nat := homeReads s die [w] t ext
def homeWrite (s : State) (die w t : Nat) : State × Nat := homeWrites s die [w] t

/-! ## Access counters and metering (R73, R86, R296, R383) -/

/-- The page of an object that a device address belongs to is given by the access. When a fill serves
a requester on another die, ACNT rises and the threshold is tested (R86, R383). -/
def countFill (s : State) (part oid page reqDie : Nat) : State :=
  match s.obj oid with
  | none => s
  | some ob =>
    let e := ob.pages.get page {}
    if e.die = reqDie then s else
    let n := min 65535 (e.acnt + 1)
    let put (e : Page) (s : State) : State :=
      s.setObj oid (some { ob with pages := ob.pages.set page e {} })
    let d := s.die e.die
    if e.q ∨ n < fld (s.part part).migcfg 0 16 then put { e with acnt := n } s
    else if d.notif.length < 4096 then
      put { e with acnt := 0, q := true }
        (s.updDie e.die (fun d => { d with notif := d.notif ++ [(oid, page, reqDie, n)] }))
    else
      let s := put { e with acnt := n } s
      if d.notifOvf then s
      else (s.updDie e.die (fun d => { d with notifOvf := true })).postF 0x46 (die := e.die)

/-- A core's request for words a to b of a frame at their home slice: the words absent from L2 are filled from
LPDDR-6. Log entry 45. -/
def l2Touch (s : State) (core slot oid page die frame a b : Nat) : State :=
  let r := l2Use s die frame a b
  if r.2 = 0 then r.1
  else countFill (meterDram r.1 core slot (32 * r.2)) (s.ctx core slot).part oid page (dieOf core)

/-- The same for a context that has updated a partial, and that may have left its slot (R84, R296). -/
def l2TouchFor (s : State) (core slot team oid page die frame a b : Nat) : State :=
  let r := l2Use s die frame a b
  if r.2 = 0 then r.1
  else countFill (meterFor r.1 core slot team (32 * r.2)) (((s.obj oid).map (·.part)).getD 0) oid page (dieOf core)

/-! ## Commutative combination (R84, R85, R390) -/

/-- The partials of word `w` of a die in a buffer. -/
def Partial.at (e : Partial) (die w : Nat) : Bool := e.die == die && e.addr / 32 == w

/-- A partial is folded into its element at the home, which reads the word, from LPDDR-6 where L2 lacks it, and
dirties it at the charge of the context that updated the partial (R84, R296). -/
def foldPartial (s : State) (core : Nat) (e : Partial) : State :=
  let w := e.addr / 32
  let f := e.op / 4
  let m := cfmtBytes f
  let s := l2TouchFor s core e.slot e.team e.oid e.page e.die (w / 16) (w % 16) (w % 16)
  let s := l2Dirty s e.die w (some (core, e.slot, e.team))
  let v := ofBytes (s.readDev e.die e.addr m)
  s.writeDev e.die e.addr (toBytes m (combOp f (e.op % 4) v e.val.toNat))

/-- The home word of a partial that fails its check is left failing (R387); log entry 109. -/
def foldBad (s : State) (core : Nat) (e : Partial) : State :=
  let s := l2Dirty s e.die (e.addr / 32) (some (core, e.slot, e.team))
  (spoilL2 s e.die (e.addr / 32)).logErr (dieOf core) 0x43 false 0 none (some core) (l1Addr (s.core core) (e.addr / 32))

/-- Fold every partial in the block [a, a + n) of a die into memory, in ascending logical index of the
core that holds it (R84): own holders of its words are recalled first, those that fail their check come last, and no
partial of the block remains. -/
def combine (s : State) (die a n : Nat) : State :=
  let inBlk (e : Partial) : Bool := e.die == die && decide (a ≤ e.addr) && decide (e.addr < a + n)
  let cores := (List.range 256).filter (fun c => (s.core c).part.any inBlk)
  let s := if cores.isEmpty then s else recallWords s die (span (a / 32) (n / 32))
  let held := cores.map (fun c => (c, (s.core c).part.filter inBlk))
  let s := held.foldl (fun s h => (h.2.filter (fun e => !e.bad)).foldl (fun s e => foldPartial s h.1 e) s) s
  let s := held.foldl (fun s h => (h.2.filter (·.bad)).foldl (fun s e => foldBad s h.1 e) s) s
  let s := cores.foldl (fun s c => s.updCore c (fun k => { k with part := k.part.filter (fun e => !inBlk e) })) s
  s.updDie die (fun d => { d with tracked := d.tracked.filter (fun t => !(t.1 == a && t.2.1 == n)) })

/-- A non-commutative access to [pa, pa + n) combines every tracked block it touches (R84). -/
def combineFor (s : State) (die pa n : Nat) : State :=
  ((s.die die).tracked.filter (fun t => decide (pa < t.1 + t.2.1) && decide (t.1 < pa + n))).foldl
    (fun s t => combine s die t.1 t.2.1) s

/-- Slice of a device address (R70). -/
def sliceOf (pa : Nat) : Nat := pa / 512 % 24

/-- COMM_PRESSURE, at most once per 1 ms per slice and partition (R390). -/
def postPressure (s : State) (die slice part : Nat) : State :=
  let key := 8 * slice + part
  let last := (s.die die).pressAt.get key 0
  if last ≠ 0 ∧ s.now < last - 1 + 1000000 then s
  else (s.updDie die (fun d => { d with pressAt := d.pressAt.set key (s.now + 1) 0 })).postE part 0x45
    (die := die)

/-- The home tracks a block with live partials: the least recently updated block of the slice is
combined first when the slice tracks 4096, and the owner of its object is told (R85, R390). -/
def track (s : State) (die a n part : Nat) : State :=
  let mine := (s.die die).tracked.filter (fun t => sliceOf t.1 == sliceOf a)
  let s := if mine.any (fun t => t.1 == a) ∨ mine.length < 4096 then s
    else match mine with
      | [] => s
      | t :: _ => postPressure (combine s die t.1 t.2.1) die (sliceOf a) t.2.2
  s.updDie die (fun d => { d with tracked := d.tracked.filter (fun t => t.1 != a) ++ [(a, n, part)] })

/-- A full commutative buffer, of 64 words, has room for word `w` of a die: it gives up its least recently updated word,
whose block the home combines (R83, R390). -/
def partRoom (s : State) (core die w : Nat) : State :=
  let words := ((s.core core).part.map (fun e => (e.die, e.addr / 32))).eraseDups
  if words.contains (die, w) ∨ words.length < 64 then s else
  match words with
  | (d', w') :: _ =>
    ((s.die d').tracked.filter (fun t => decide (t.1 ≤ 32 * w') && decide (32 * w' < t.1 + t.2.1))).foldl
      (fun s t => combine s d' t.1 t.2.1) s
  | [] => s

/-- A buffer in which the partial of an element, at the identity where it has none, has taken an update; its word is now
the most recently updated one (R83). -/
def updPartial (p : List Partial) (e : Partial) (cfmt cop v : Nat) : List Partial :=
  let same (x : Partial) : Bool := x.die == e.die && x.addr == e.addr
  let old := match p.find? same with
    | some x => x.val.toNat
    | none => combId cfmt cop
  let rest := p.filter (fun x => !same x)
  rest.filter (fun x => !x.at e.die (e.addr / 32)) ++ rest.filter (fun x => x.at e.die (e.addr / 32)) ++
    [{ e with val := BitVec.ofNat 64 (combOp cfmt cop old v) }]

/-- Bytes of a commutative block (R68). -/
def blkBytes (ob : Obj) : Nat :=
  match ob.cblk with
  | 0 => 32 | 1 => 64 | 2 => 128 | _ => 512

/-- One commutative update of the element at `pa` by a context's access at logical time `t` (R83), and the time at
which it acts: in the global order it is a write of its word (R79, R97; log entry 4). -/
def commUpdate (s : State) (core slot : Nat) (ob : Obj) (oid page die pa v t : Nat) : State × Nat :=
  let blk := blkBytes ob
  let a := pa / blk * blk
  let s := partRoom (track s die a blk ob.part) core die (pa / 32)
  let s := if (s.die die).tracked.any (fun t => t.1 == a) then s else track s die a blk ob.part
  let (s, t) := homeWrites s die [pa / 32] t
  let e : Partial := { die := die, addr := pa, op := ob.cfmt * 4 + ob.cop, val := 0, slot := slot, team := (s.ctx core slot).team, oid := oid, page := page }
  (s.updCore core (fun k => { k with part := updPartial k.part e ob.cfmt ob.cop v }), t)

/-! ## L1 (R73 to R76, R80) -/

/-- The lowest and the highest set bit of a mask of 16 words that is not zero. -/
def maskRun (m : Nat) : Nat × Nat :=
  let l := (List.range 16).filter (fun i => m.testBit i)
  (l.headD 0, l.getLastD 15)

/-- The extent that a hint names for word `i`; without one the spatial predictor's choice, which falls back to .x2
(R74; log entry 9). -/
def fillExtent (foot : List ((Nat × Nat × Nat) × Nat)) (key : Nat × Nat × Nat) (hint i : Nat) : Nat × Nat :=
  let quad := (i / 4 * 4, i / 4 * 4 + 3)
  match hint with
  | 1 => (i, i)
  | 2 => quad
  | 3 => (0, 15)
  | _ => match foot.find? (fun f => f.1 == key) with
    | some f => maskRun (f.2 ||| 2 ^ i)
    | none => quad

/-- Evict least recently used blocks of a set beyond 64 words or 16 tags (R73). -/
def l1Room (s : State) (core set sets : Nat) : State :=
  let r := trimSet (fun b => b.frame % sets == set) 64 16 (s.core core).l1
  r.2.foldl (fun s b => evict s core b) (s.updCore core (fun k => { k with l1 := r.1 }))

/-- Put a filled block into L1 under R75: blocks of the same type that overlap merge and keep their words, with the
largest write time and the largest (own) or smallest lease. -/
def l1Fill (s : State) (core : Nat) (b : Block) : State :=
  let same := (s.core core).l1.filter (·.meets b.die b.frame b.a b.b)
  let m := same.foldl (fun m x =>
    { m with a := min m.a x.a, b := max m.b x.b, dirty := m.dirty ||| x.dirty, used := m.used ||| x.used,
             wts := max m.wts x.wts,
             lease := if b.ty = 0 then max m.lease x.lease else min m.lease x.lease,
             who := if m.who.isSome then m.who else x.who }) b
  let m := if b.ty = 0 then m else { m with data := (span m.a (m.b + 1 - m.a)).flatMap (fun j =>
    match same.find? (fun x => x.has b.die b.frame j) with
    | some x => x.bytesAt j
    | none => b.bytesAt j) }
  let sets := max 1 (256 * (s.core core).l1size)
  let s := s.updCore core (fun k => { k with l1 := m :: k.l1.filter (fun x => !x.meets b.die b.frame b.a b.b) })
  let s := if m.ty = 0 then m.words.foldl (fun s w =>
      let (wt, le, _) := (s.die b.die).times w
      s.setTimes b.die w (wt, le, core + 1)) s else s
  l1Room s core (b.frame % sets) sets

/-- Replace the block of a word, making it the most recently used. -/
def l1Hit (s : State) (core : Nat) (b b' : Block) : State :=
  s.updCore core (fun k => { k with l1 := b' :: k.l1.filter (fun x => x != b) })

/-- A list's runs of consecutive numbers. -/
def runsOf : List Nat → List (Nat × Nat)
  | [] => []
  | i :: r =>
    match runsOf r with
    | (a, b) :: t => if a = i + 1 then (i, b) :: t else (i, i) :: (a, b) :: t
    | [] => [(i, i)]

/-- Write time and lease end of the block that some words make: the largest write time, and the largest lease for
own, the smallest for a leased copy (R75). -/
def blockTimes (d : Die) (ws : List Nat) (own : Bool) : Nat × Nat :=
  match ws with
  | [] => (0, 0)
  | w :: r => r.foldl (fun (p : Nat × Nat) w =>
      let x := d.times w
      (max p.1 x.1, if own then max p.2 x.2.1 else min p.2 x.2.1)) ((d.times w).1, (d.times w).2.1)

/-- The requests for words of a frame at the home, by runs. -/
def touchRuns (s : State) (core slot oid page die frame : Nat) (is : List Nat) : State :=
  (runsOf is).foldl (fun s r => l2Touch s core slot oid page die frame r.1 r.2) s

/-- Word `w` is written at its home by a context. -/
def homeStore (s : State) (core slot oid page die w t : Nat) : State × Nat :=
  let s := l2Touch s core slot oid page die (w / 16) (w % 16) (w % 16)
  let (s, t) := homeWrite s die w t
  (l2Dirty s die w (s.whoIs core slot), t)

/-- A party that takes leases (R79, R99): the context of a team index. -/
def Ctx.party (c : Ctx) : Nat × Nat := (c.team, c.tidx)

/-- A miss of word `i` fills its extent (R74, R75): overlapping blocks of another type are evicted first, and only the
words absent from those of the same type are fetched. -/
def l1Miss (s : State) (core slot oid page die frame i t : Nat) (wr : Bool) (ty hint : Nat) : State × Nat :=
  let c := s.ctx core slot
  let key := (c.codeOid, c.pcNow, devKey die (512 * frame) / 4096)
  let (x, y) := fillExtent (s.core core).foot key hint i
  let s := dropL1 s core (fun b => b.meets die frame x y && b.ty != ty)
  let need := (span x (y + 1 - x)).filter (fun j => !(s.core core).l1.any (fun b => b.has die frame j))
  let ws := need.map (16 * frame + ·)
  let s := touchRuns s core slot oid page die frame need
  let (s, t) :=
    if wr = false then homeReads s die ws t 16
    else if ty = 0 then homeWrites s die ws t
    else
      let (s, t) := homeStore s core slot oid page die (16 * frame + i) t
      ((homeReads s die (ws.filter (· != 16 * frame + i)) t 16).1, t)
  let (wt, le) := blockTimes (s.die die) ws (ty == 0)
  let s := if wr && ty == 0 then noteL1 s die (16 * frame + i) else s
  let b : Block :=
    { die := die, frame := frame, a := x, b := y, ty := ty, dirty := if wr && ty == 0 then 2 ^ i else 0, wts := wt, lease := if ty = 0 then le else min le (t + 16), part := c.part, data := if ty = 0 then [] else s.readDev die (512 * frame + 32 * x) (32 * (y + 1 - x)), used := 2 ^ i, key := key, who := if wr && ty == 0 then s.whoIs core slot else none, party := if ty = 0 then (0, 0) else c.party }
  (l1Fill s core b, t)

/-- A leased copy whose lease the time has passed, or whose lease is another context's, is renewed (R79, R99, R389): the
home sends its words where one has been written since. -/
def renew (s : State) (core slot oid page : Nat) (b : Block) (i t : Nat) : State × Nat :=
  let (s, t) := homeReads s b.die b.words t 16
  let (wt, le) := blockTimes (s.die b.die) b.words false
  let s := if wt = b.wts then s else l2Touch s core slot oid page b.die b.frame b.a b.b
  (l1Hit s core b { b with wts := wt, lease := min le (t + 16), party := (s.ctx core slot).party, data := s.readDev b.die (512 * b.frame + 32 * b.a) (32 * (b.b + 1 - b.a)), used := b.used ||| 2 ^ i }, t)

/-- A leased copy may be read by the party that took its lease, at a time `t` no later than its end, which lies at most
16 beyond that party's time when it took it (R79, R98, R99; log entry 4). -/
def Block.leased (b : Block) (t : Nat) (p : Nat × Nat) : Bool := b.ty != 0 && b.party == p && decide (max t b.wts ≤ b.lease)

/-- One request for the word of device address `pa`, of request type `ty` (0 own, 1 wt, 2 si, 3 uc),
by a context at time `t`: placement and times by R73 to R80, and the new time. -/
def request (s : State) (core slot oid page die pa t : Nat) (wr : Bool) (ty hint : Nat) : State × Nat :=
  let w := pa / 32
  let frame := pa / 512
  let i := w % 16
  let part := (s.ctx core slot).part
  let ty := if (s.core core).l1size = 0 then 3 else ty
  let hit := (s.core core).l1.find? (fun b => b.has die frame i)
  if ty = 3 then
    if wr then homeStore s core slot oid page die w t
    else homeRead (l2Touch s core slot oid page die frame i i) die w t 0
  else
  match hit with
  | some b =>
    let b' := { b with used := b.used ||| 2 ^ i }
    if b.ty = 0 then
      if wr then
        let t := max t (b.lease + 1)
        (l1Hit (noteL1 s die w) core b { b' with wts := t, lease := t, dirty := b.dirty ||| 2 ^ i, part := part, who := s.whoIs core slot }, t)
      else
        let t := max t b.wts
        (l1Hit s core b { b' with lease := max b.lease (t + 16) }, t)
    else if ty = 0 then l1Miss s core slot oid page die frame i t wr 0 hint
    else if wr then
      let (s, t) := homeStore s core slot oid page die w t
      (l1Hit s core b { b' with wts := max b.wts t, lease := min b.lease t }, t)
    else if b.leased t (s.ctx core slot).party then (l1Hit s core b b', max t b.wts)
    else renew s core slot oid page b i t
  | none => l1Miss s core slot oid page die frame i t wr ty hint

/-- The bytes of the word of `pa` that a read is served from a leased copy, if it is (R80, R98). -/
def leasedWord (s : State) (core slot die pa t ty : Nat) : Option (List Byte) :=
  if (s.core core).l1size = 0 ∨ ty = 0 ∨ ty = 3 then none
  else match (s.core core).l1.find? (fun b => b.has die (pa / 512) (pa / 32 % 16)) with
    | some b => if b.leased t (s.ctx core slot).party then some (b.bytesAt (pa / 32 % 16)) else none
    | none => none

/-- A leased copy with the bytes of its word `i` replaced. -/
def Block.putWord (b : Block) (i : Nat) (v : List Byte) : Block :=
  { b with data := b.data.take (32 * (i - b.a)) ++ v ++ b.data.drop (32 * (i - b.a) + 32) }

/-- A context's write at time `t` reaches the leased copy of its word in its core's own L1 too, whatever its request type
(R80): the copy is then as new as the write, and its lease lasts no longer than that (R98). -/
def writeThrough (s : State) (core die pa t : Nat) : State :=
  let frame := pa / 512
  if (s.core core).l1.any (fun b => b.ty != 0 && b.has die frame (pa / 32 % 16)) then
    s.updCore core (fun k => { k with l1 := k.l1.map (fun b =>
      if b.ty != 0 && b.has die frame (pa / 32 % 16) then
        { b.putWord (pa / 32 % 16) (s.readDev die (pa / 32 * 32) 32) with wts := max b.wts t, lease := min b.lease t }
      else b) })
  else s

/-! ## Times of scratchpad (R81, R98) -/

/-- The 32-byte words that [a, a + n) meets. -/
def wordsOf (a n : Nat) : List Nat := span (a / 32) ((a + n + 31) / 32 - a / 32)

/-- Write time and latest read time of a scratchpad word. -/
def Core.spadTime (k : Core) (w : Nat) : Nat × Nat := k.spadT.get w (0, 0)

/-- An access to [a, a + n) of a core's scratchpad by a party at time `t` takes its place in the global order, which sorts
pieces by logical time: after the writes of its words, and a write after their reads too (R89, R98; log entry 4). -/
def spadTouch (s : State) (core a n t : Nat) (wr : Bool) : State × Nat :=
  let ws := wordsOf a n
  let k := s.core core
  let t := ws.foldl (fun t w => let x := k.spadTime w; max t (if wr then max x.1 x.2 else x.1)) t
  if t = 0 then (s, 0) else
  (s.updCore core (fun k => { k with spadT := ws.foldl (fun m w => let x := k.spadTime w; m.set w (if wr then (t, x.2) else (x.1, max x.2 t)) (0, 0)) k.spadT }), t)

/-! ## Flushes (R77, R87) -/

/-- A block holds a byte of device bytes [pa, pa + n). -/
def Block.within (die pa n : Nat) (b : Block) : Bool :=
  b.die == die && decide (512 * b.frame + 32 * b.a < pa + n) && decide (pa < 512 * b.frame + 32 * b.b + 32)

/-- A core's L1 writes back its dirty words of the named blocks through the victim buffer, and with `drop` drops the
blocks (R77, R82). -/
def flushL1 (s : State) (c : Nat) (inR : Block → Bool) (drop : Bool) : State :=
  if (s.core c).l1.any inR then
    if drop then dropL1 s c inR
    else
      ((s.core c).l1.filter (fun b => inR b && b.dirty != 0)).foldl (fun s b => toVictim s c b)
        (s.updCore c (fun k => { k with l1 := k.l1.map (fun b => if inR b then { b with dirty := 0 } else b) }))
  else s

/-- What waits of the named blocks in a core's victim buffer is granted (R77). -/
def flushVictim (s : State) (c : Nat) (inR : Block → Bool) : State :=
  if (s.core c).victim.any inR then
    ((s.core c).victim.filter inR).foldl (fun s b => writeHome (freeHolder s c b) c b)
      (s.updCore c (fun k => { k with victim := k.victim.filter (fun b => !inR b) }))
  else s

/-- A range flush on device bytes [pa, pa + n): at every L1 dirty words are written back through the victim buffer,
and what waits there in the range is granted; then the homes write back theirs. `drop` for cinval and cflush. -/
def flushRange (s : State) (die pa n : Nat) (drop : Bool) : State :=
  let inR := Block.within die pa n
  let s := (List.range 256).foldl (fun s c => flushVictim (flushL1 s c inR drop) c inR) s
  let s := ((s.die die).l2.filter inR).foldl (fun s b => l2Clean s die b) s
  let rest (l : List Block) : List Block :=
    if drop then l.filter (fun b => !inR b) else l.map (fun b => if inR b then { b with dirty := 0, who := none } else b)
  s.updDie die (fun d => { d with l2 := rest d.l2 })

/-- The words of [pa, pa + n) take fresh times at their home (R87). -/
def freshTimes (s : State) (die pa n t : Nat) : State :=
  let s := s.updDie die (fun d => { d with home := d.home.filter (fun e => !(decide (pa ≤ 32 * e.1) && decide (32 * e.1 < pa + n))) })
  if t = 0 then s else (span (pa / 32) (n / 32)).foldl (fun s w => s.setTimes die w (t, t, 0)) s

/-- Every block of [pa, pa + n) is combined, written back and dropped everywhere, from the instruction caches too, and
takes fresh times at `t` (R87, R329). -/
def dropPage (s : State) (die pa n t : Nat) : State :=
  let s := flushRange (combineFor s die pa n) die pa n true
  let inP (w : Nat) : Bool := decide (pa ≤ 32 * w) && decide (32 * w < pa + n)
  let s := (List.range 256).foldl (fun s c =>
    if (s.core c).icache.any (fun x => x.1 == die && inP x.2) then
      s.updCore c (fun k => { k with icache := k.icache.filter (fun x => !(x.1 == die && inP x.2)) })
    else s) s
  freshTimes s die pa n t

end Sys2Proof.Machine
end

