-- ==== Sys2Proof/Machine/Pieces.lean ====
section
/-!
DEFINITION. Sys2Proof/Machine/Pieces.lean: the pieces of engine threads' accesses (R88, R93, R94, R234): how one is
read and written, and what an operation that has reached rows still has to write.
-/
namespace Sys2Proof.Machine

/-- A page number for the home of an offset. -/
def pageNo (s : State) (core slot oid o : Nat) : Nat :=
  match s.objOf (s.ctx core slot).part oid with
  | some ob => o / pageBytes ob.psz
  | none => 0

/-- A piece takes its place in the global order: in device memory as a uc request at its home, with combination; and the
thread's time (R79, R81, R84, R98). -/
def touchChunk (core slot : Nat) (pl : Place) (oid o n : Nat) (wr : Bool) (x : State × Nat) : State × Nat :=
  match pl with
  | .dev d pa => request (combineFor x.1 d pa n) core slot oid (pageNo x.1 core slot oid o) d pa x.2 wr 3 0
  | .sram t a => spadTouch x.1 t a n x.2 wr
  | .host .. => x

/-- Bytes whose bits come from `new` where a mask has ones. -/
def mergeBits : List Byte → List Byte → List Byte → List Byte
  | o :: r, n :: t, m :: k => ((o &&& ~~~m) ||| (n &&& m)) :: mergeBits r t k
  | _, _, _ => []

/-- A piece writes every bit of its bytes. -/
def Chunk.whole (g : Chunk) : Bool := g.mask.all (· == 0xFF)

/-- `n` bytes that a read of host memory returns (log entry 19). -/
def hostBytes (f n : Nat) : List Byte :=
  ((List.range ((n + 7) / 8)).flatMap (fun j => toBytes 8 (Config.pcieData (f + j)).toNat)).take n

/-- The bytes of a piece that it writes bits of, each with its offset from the first, the value that stands there
now, and its own. -/
def Chunk.bytes (g : Chunk) (old : List Byte) : List (Nat × Byte) :=
  ((mergeBits old g.data g.mask).zip g.mask).zipIdx.filterMap (fun b => if b.1.2 = 0 then none else some (b.2, b.1.1))

/-- Write one piece; bits that it leaves in a byte are read and written back with it, in host memory by a read of the
device's own (R234; log entry 19). -/
def writeChunk (core slot : Nat) (g : Chunk) (x : State × Nat) : State × Nat :=
  let x := touchChunk core slot g.pl g.oid g.o g.data.length true x
  let s := x.1
  let n := g.data.length
  match g.pl with
  | .sram t a =>
    (if g.whole then s.writeSram t a g.data
     else (g.bytes (s.readSram t a n)).foldl (fun s b => s.writeSram t (a + b.1) [b.2]) s, x.2)
  | .dev d pa =>
    (if g.whole then s.writeDev d pa g.data
     else (g.bytes (s.readDev d pa n)).foldl (fun s b => s.writeDev d (pa + b.1) [b.2]) s, x.2)
  | .host a peer =>
    let part := (s.ctx core slot).part
    if g.whole then (s.writeHost part a peer g.data, x.2)
    else
      let u : State := { s.askHost part a peer n with fresh := s.fresh + (n + 7) / 8 }
      (u.writeHost part a peer (mergeBits (hostBytes s.fresh n) g.data g.mask), x.2)

/-- Commutative updates of a piece, in ascending element (R83, R245). -/
def updateChunk (core slot : Nat) (g : Chunk) (x : State × Nat) : State × Nat :=
  match x.1.objOf (x.1.ctx core slot).part g.oid, g.pl with
  | some ob, .dev d pa =>
    let m := cfmtBytes ob.cfmt
    let page := pageNo x.1 core slot g.oid g.o
    (List.range (g.data.length / m)).foldl (fun x j => commUpdate x.1 core slot ob g.oid page d (pa + m * j) (ofBytes ((g.data.drop (m * j)).take m)) x.2) x
  | _, _ => x

/-- Perform one piece. -/
def putChunk (core slot : Nat) (g : Chunk) (x : State × Nat) : State × Nat :=
  if g.upd then updateChunk core slot g x else writeChunk core slot g x

/-- Perform pieces in order. -/
def putChunks (core slot : Nat) (l : List Chunk) (x : State × Nat) : State × Nat := l.foldl (fun x g => putChunk core slot g x) x

/-- The operation with a number on a core. -/
def State.opAt (s : State) (core id : Nat) : Option EOp := (s.core core).ops.find? (fun o => o.id == id)

/-- Change one operation. -/
def State.updOp (s : State) (core id : Nat) (f : EOp → EOp) : State :=
  s.updCore core (fun k => { k with ops := k.ops.map (fun o => if o.id = id then f o else o) })

/-- A piece with the bytes `b` of its row, from place `at'` of the row up, where it takes in some of them. -/
def Chunk.fill (g : Chunk) (row at' : Nat) (b : List Byte) : Chunk :=
  if g.row != row then g else
  let lo := max g.rowAt at'
  let hi := min (g.rowAt + g.data.length) (at' + b.length)
  if hi ≤ lo then g
  else { g with data := g.data.take (lo - g.rowAt) ++ (b.drop (lo - at')).take (hi - lo) ++ g.data.drop (hi - g.rowAt) }

/-- A piece waits for the bytes of a source piece. -/
def Unread.feeds (u : Unread) (g : Chunk) : Bool :=
  u.row == g.row && decide (u.rowAt < g.rowAt + g.data.length) && decide (g.rowAt < u.rowAt + u.n)

/-- A source piece of a row is read (R93): the machine and the thread's time, and its bytes. -/
def readPiece (core slot : Nat) (u : Unread) (x : State × Nat) : (State × Nat) × List Byte :=
  let x := touchChunk core slot u.pl u.oid u.o u.n false x
  (x, match u.pl with
    | .sram t a => x.1.readSram t a u.n
    | .dev d pa => x.1.readDev d pa u.n
    | .host .. => List.replicate u.n 0)

/-- Every source piece that is still to be read is read: with the pieces to write, whole. -/
def readLeft (core : Nat) (o : EOp) (x : State × Nat) : (State × Nat) × List Chunk :=
  o.unread.foldl (fun y u =>
    let r := readPiece core o.slot u y.1
    (r.1, y.2.map (·.fill u.row u.rowAt r.2))) (x, o.left)

/-- Everything that an operation still has to write is written: no piece of a row that it has reached is left. -/
def writeLeft (s : State) (core : Nat) (o : EOp) : State × Nat :=
  let r := readLeft core o (s, o.time)
  putChunks core o.slot r.2 r.1

/-- An operation that has read all of the rows that it has reached (R238). -/
def settleReads (s : State) (core : Nat) (o : EOp) : State :=
  if o.unread = [] then s else
  let r := readLeft core o (s, o.time)
  r.1.1.updOp core o.id (fun p => { p with left := r.2, unread := [], time := r.1.2 })

/-- An operation with nothing left to write, and nothing read ahead. -/
def settleOp (s : State) (core : Nat) (o : EOp) : State :=
  if o.left = [] ∧ o.unread = [] ∧ o.seen = [] then s else
  let x := writeLeft s core o
  x.1.updOp core o.id (fun p => { p with left := [], unread := [], seen := [], time := x.2 })

/-- The places in the list of those pieces left that may be performed: all of their bytes have been read, and
commutative updates come in ascending row and column (R83). -/
def EOp.ready (o : EOp) : List Nat :=
  let first := o.left.findIdx (·.upd)
  (List.range o.left.length).filter (fun i =>
    match o.left[i]? with
    | some g => !o.unread.any (·.feeds g) && (!g.upd || i == first)
    | none => false)

/-- One of the pieces that an operation has reached is read or written; `n` picks it (R93). -/
def performOne (s : State) (core n : Nat) (o : EOp) : State :=
  let i := n % max 1 (o.unread.length + o.ready.length)
  match o.unread[i]? with
  | some u =>
    let r := readPiece core o.slot u (s, o.time)
    r.1.1.updOp core o.id (fun p => { p with unread := p.unread.eraseIdx i, left := p.left.map (·.fill u.row u.rowAt r.2), time := r.1.2 })
  | none =>
    let j := o.ready.getD (i - o.unread.length) o.left.length
    match o.left[j]? with
    | none => s
    | some g =>
      let x := putChunk core o.slot g (s, o.time)
      x.1.updOp core o.id (fun p => { p with left := p.left.eraseIdx j, time := x.2 })

/-- The source pieces of row i that an operation has read ahead. -/
def EOp.aheadOf (e : EOp) (i : Nat) : List (Place × List Byte) := (e.seen.filter (fun p => p.1 == i)).map (·.2)

/-- What an operation reads where it has read source pieces of its row ahead: those bytes as they were (R93). -/
def overlay (s : State) (o : EOp) : State :=
  (o.aheadOf o.rows).foldl (fun s x =>
    match x.1 with
    | .sram t a => s.updCore t (fun k => { k with sram := writeBytes k.sram a x.2 })
    | _ => s) s

end Sys2Proof.Machine
end

