-- ==== Sys2Proof/Machine/Team.lean ====
section
/-!
DEFINITION. Sys2Proof/Machine/Team.lean: what contexts of a team do to one another: team geometry
(R36), named barriers (R257 to R261), messages (R265, R266), yield requests (R50, R57), and the
failure of a team (R357).
-/
namespace Sys2Proof.Machine

/-! ## Geometry (R35, R36) -/

/-- Team position of a context. -/
def Ctx.tx (c : Ctx) : Nat := c.tidx % 2 ^ c.ea
def Ctx.ty (c : Ctx) : Nat := c.tidx / 2 ^ c.ea

/-- Logical core at team position (x, y) of a context's team. -/
def Ctx.coreAt (c : Ctx) (x y : Nat) : Nat := 16 * (c.y0 + y) + c.x0 + x

/-- A position of the team. -/
def Ctx.inTeam (c : Ctx) (x y : Nat) : Bool := decide (x < 2 ^ c.ea) && decide (y < 2 ^ c.eb)

/-- A subteam of the team (R36): 2^w × 2^h at (x, y). -/
def Ctx.subteam (c : Ctx) (x y w h : Nat) : Bool :=
  decide (w ≤ c.ea) && decide (h ≤ c.eb) && x % 2 ^ w == 0 && y % 2 ^ h == 0 && c.inTeam x y

/-- The slot of a team's context on a core. -/
def State.slotOfTeam (s : State) (core team : Nat) : Option Nat :=
  (s.core core).resident.find? (fun i => (s.ctx core i).team == team)

/-- The logical cores of a rectangle. -/
def rectCores (x0 y0 a b : Nat) : List Nat :=
  (List.range (2 ^ b)).flatMap (fun j => (List.range (2 ^ a)).map (fun i => 16 * (y0 + j) + x0 + i))

/-- The cores of a team, in order of team index. -/
def State.teamCores (s : State) (t : Nat) : List Nat :=
  match s.team t with
  | some tm => (match s.task tm.task with
    | some k => rectCores tm.x0 tm.y0 k.a k.b
    | none => [])
  | none => []

/-- The contexts of a team that hold a slot: core and slot. -/
def State.teamCtxs (s : State) (t : Nat) : List (Nat × Nat) :=
  (s.teamCores t).filterMap (fun c => (s.slotOfTeam c t).map (fun i => (c, i)))

/-- The handle of a task-table entry (R277). -/
def State.handle (s : State) (t : Nat) : Nat :=
  match s.task t with
  | some k => t % 2 ^ 15 + k.gen % 2 ^ 17 * 2 ^ 15
  | none => 0

/-! ## Barriers (R257 to R261) -/

def Core.barrier (c : Core) (n : Nat) : Barrier := c.bar.get n {}
def State.updBar (s : State) (core n : Nat) (f : Barrier → Barrier) : State :=
  s.updCore core (fun c => { c with bar := c.bar.set n (f (c.barrier n)) {} })

/-- The state that bar.query reads (R257), EXPECT and ARRIVED given. -/
def Barrier.word (b : Barrier) (expect arrived : Nat) : Word :=
  BitVec.ofNat 64 (expect % 2 ^ 16 + arrived % 2 ^ 16 * 2 ^ 16 + b.phases % 2 ^ 16 * 2 ^ 32 + b.scope * 2 ^ 48 +
    b.tx0 * 2 ^ 49 + b.ty0 * 2 ^ 53 + b.c * 2 ^ 57 + b.e * 2 ^ 60 + oneIf b.team.isSome * 2 ^ 63)

/-- The while loop of R260: each phase that completes takes the largest time among the arrivals that it counts (R81). -/
def Barrier.settle (b : Barrier) : Barrier :=
  if b.expect = 0 then b
  else
    let n := b.arrived / b.expect
    { b with arrived := b.arrived % b.expect, phases := (b.phases + n) % 2 ^ 16, times := b.times.drop (n * b.expect),
             ends := (List.range n).foldl (fun (t : Tab Nat) (j : Nat) => t.set ((b.phases + j) % 2 ^ 16) (((b.times.drop (j * b.expect)).take b.expect).foldl max 0) 0) b.ends }

/-- A wait for token `t` has ended, judged on PHASES (R260). -/
def waitOver (phases t : Nat) : Bool :=
  let d := (phases + 2 ^ 16 - t % 2 ^ 16) % 2 ^ 16
  decide (1 ≤ d) && decide (d ≤ 32767)

/-- The core that counts the arrivals of a barrier: the root of a subteam, else the core itself
(R259). -/
def countingCore (s : State) (core n : Nat) : Nat :=
  let b := (s.core core).barrier n
  if b.scope = 1 then b.root else core

/-- The largest time among the arrivals of the completed phase that token `t` names (R81): the counting core keeps
it, and its releases bring it. -/
def phaseTime (s : State) (core n t : Nat) : Nat := ((s.core (countingCore s core n)).barrier n).ends.get (t % 2 ^ 16) 0

/-- Release the waits of a core on barrier `n` whose phase has completed: they leave at the largest time
among its arrivals (R41, R81, R261). -/
def releaseWaits (s : State) (core n : Nat) : State :=
  let b := (s.core core).barrier n
  [0, 1, 2, 3].foldl (fun s i =>
    let c := s.ctx core i
    match c.st, c.wait with
    | .waiting, .barrier m (some t) =>
      if m = n ∧ waitOver b.phases t then
        s.setCtx core i { c with st := .ready, wait := .none, time := max c.time (phaseTime s core n t) }
      else s
    | _, _ => s) s

/-- After a count or a bar.init at the counting core: complete phases, release waits here and send each
other member the new PHASES (R259, R260). -/
def completePhases (s : State) (core n : Nat) : State :=
  let b := (s.core core).barrier n
  let b' := b.settle
  let s := s.updBar core n (fun _ => b')
  if b'.phases = b.phases then s else
  let others := if b.scope = 1 then
      ((rectCores (b.root % 16) (b.root / 16) b.c b.e).filter (· != core)).map
        (fun m => { core := m, n := n, phases := b'.phases, root := core, team := b.team.getD 0 })
    else []
  releaseWaits { s with rels := s.rels ++ others } core n

/-- A core takes a PHASES of its root, and waits on it end (R259, R260). -/
def takePhases (s : State) (r : Release) : State :=
  releaseWaits (s.updBar r.core r.n (fun b => { b with phases := r.phases })) r.core r.n

/-- A barrier mirrors the root that sent a release or an answer: it is claimed by the same team, and that core is its
root (R258, R259). -/
def Barrier.mirrors (b : Barrier) (r : Release) : Bool := b.team == some r.team && b.scope == 1 && b.root == r.root

/-- PHASES of a core that mirrors a root moves on (R259); a barrier of another team or root stays. While the answer to its
`bar.init` is on its way it mirrors nothing yet: a later release moves the answer on. -/
def mirror (s : State) (r : Release) : State :=
  let b := (s.core r.core).barrier r.n
  let to' (a : Release) : Bool := a.core == r.core && a.n == r.n && a.root == r.root && a.team == r.team
  if s.answers.any to' then
    { s with answers := s.answers.map (fun a => if to' a && waitOver r.phases a.phases then { a with phases := r.phases } else a) }
  else if b.mirrors r ∧ (waitOver r.phases b.phases = true ∨ r.phases = b.phases) then takePhases s r
  else s

/-- The releases and init answers on their way to barriers of team `t` arrive: none is lost or late when its
barriers are saved or reset (R258, R259). -/
def settleBars (s : State) (t : Nat) : State :=
  let mine (r : Release) : Bool := r.team == t
  let s' := (s.rels.filter mine).foldl mirror { s with rels := s.rels.filter (fun r => !mine r) }
  (s'.answers.filter mine).foldl takePhases { s' with answers := s'.answers.filter (fun r => !mine r) }

/-- Claim a barrier for a team (R258). -/
def claimBar (s : State) (core n team : Nat) : State :=
  s.updBar core n (fun b => if b.team.isNone then { b with team := some team } else b)

/-- A barrier claimed by another team (R258). -/
def barBusy (s : State) (core n team : Nat) : Bool :=
  match ((s.core core).barrier n).team with
  | some t => t != team
  | none => false

/-- A pending fault joins a context (R346); one of a context that has been stopped is discarded (R347, R357). -/
def State.addFault (s : State) (core slot : Nat) (f : PendFault) : State :=
  s.updCtx core slot (fun c => if c.wait = .stopped then c else { c with faults := c.faults ++ [f] })

/-- The token of a bar.aw whose wait a yield has ended is saved with its context (R273). -/
def Arch.saveToken (a : Arch) (n t : Nat) : Arch :=
  match a.aw with
  | some (h, m, none) => if m = n then { a with aw := some (h, m, some t) } else a
  | _ => a

def Ctx.saveToken (c : Ctx) (n t : Nat) : Ctx :=
  let sh (h : Shadow) : Shadow := { h with arch := h.arch.saveToken n t }
  { c with a := c.a.saveToken n t, sh0 := c.sh0.map sh, sh1 := c.sh1.map sh }

/-- What the arriver gets when its arrival is counted with token `t` (R260, R261). -/
def giveToken (s : State) (a : Arrival) (t : Nat) : State :=
  if (s.ctx a.from' a.slot).team ≠ a.team then s else
  match a.for' with
  | .copy .. => s
  | .token d seq tag =>
    s.updCtx a.from' a.slot (fun c =>
      c.push { dst := d, val := BitVec.ofNat 512 t, due := seq + 8, seq := seq, tag := tag, fixed := false })
  | .await =>
    let c := s.ctx a.from' a.slot
    match c.st, c.wait with
    | .waiting, .barrier n none =>
      let b := (s.core a.from').barrier n
      if waitOver b.phases t then
        s.setCtx a.from' a.slot { c with st := .ready, wait := .none, time := max c.time (phaseTime s a.from' n t) }
      else s.setCtx a.from' a.slot { c with wait := .barrier n (some t) }
    | _, _ => s.setCtx a.from' a.slot (c.saveToken a.n t)

/-- One arrival reaches its barrier (R258 to R260): a copy's arrival on a barrier of another team is
discarded with BAR_BUSY; a non-root core forwards; the counting core counts. A context's arrival that its core forwards
to a root whose barrier another team has claimed is dropped there, and its token never comes (DESIGN CHOICE: log entry
124). -/
def arrive (s : State) (a : Arrival) : State :=
  if barBusy s a.core a.n a.team then
    match a.for' with
    | .copy waddr sl k seq id sup ord =>
      if (s.ctx a.from' a.slot).team ≠ a.team then s else
      s.addFault a.from' a.slot
        { code := 0x50, async := true, sup := sup, tval := BitVec.ofNat 64 a.n, tinst := waddr, slot := sl,
          k := k, seq := seq, id := id, tag := 0, ord := ord }
    | _ => s
  else
    let s := claimBar s a.core a.n a.team
    let r := countingCore s a.core a.n
    if r ≠ a.core then { s with arrs := s.arrs ++ [{ a with core := r }] }
    else
      let t := ((s.core r).barrier a.n).phases
      let s := s.updBar r a.n (fun b => { b with arrived := b.arrived + 1, times := b.times ++ [a.time] })
      giveToken (completePhases s r a.n) a t

/-! ## Messages (R265, R266) -/

def Ctx.queue (c : Ctx) (q : Nat) : List Msg := c.q.get q []
def Ctx.reserved (c : Ctx) (q : Nat) : Nat := c.qres.get q 0

/-- A slot of the queue is free (R265: 8 entries). -/
def Ctx.queueRoom (c : Ctx) (q : Nat) : Bool := decide ((c.queue q).length + c.reserved q < 8)

/-- Where the context of a team index stands: core and slot, none while it is out. -/
def State.whereIs (s : State) (team tidx : Nat) : Option (Nat × Nat) :=
  match (s.teamCores team)[tidx]? with
  | some c => (s.slotOfTeam c team).map (fun i => (c, i))
  | none => none

/-- The queue of a context that is out stays with its team (R266). -/
def Kept.queue (k : Kept) (q : Nat) : List Msg := k.q.get q []
def Kept.reserved (k : Kept) (q : Nat) : Nat := k.qres.get q 0
def State.keptOf (s : State) (team tidx : Nat) : Option Kept :=
  (s.team team).bind (fun t => t.kept.find? (fun k => k.tidx == tidx))
def State.updKept (s : State) (team tidx : Nat) (f : Kept → Kept) : State :=
  s.updTeam team (fun t => { t with kept := t.kept.map (fun k => if k.tidx = tidx then f k else k) })

/-- A slot of a team index's queue is free. -/
def State.queueFree (s : State) (team tidx q : Nat) : Bool :=
  match s.whereIs team tidx with
  | some p => (s.ctx p.1 p.2).queueRoom q
  | none =>
    match s.keptOf team tidx with
    | some k => decide ((k.queue q).length + k.reserved q < 8)
    | none => true

/-- Reserve a slot and send the message. -/
def sendMsg (s : State) (f : Flight) : State :=
  let s := match s.whereIs f.team f.tidx with
    | some p => s.updCtx p.1 p.2 (fun c => { c with qres := c.qres.set f.q (c.reserved f.q + 1) 0 })
    | none => s.updKept f.team f.tidx (fun k => { k with qres := k.qres.set f.q (k.reserved f.q + 1) 0 })
  { s with flights := s.flights ++ [f] }

/-- s[B] of a received message (R266). -/
def msgInfo (src q : Nat) : Nat := src % 256 + q % 4 * 256 + 2 ^ 63

/-- The results of deqm: payload to h[a] and sender word to s[b], the tag with the latter. -/
def deliverMsg (c : Ctx) (m : Msg) (q : Nat) (hd sd : Dst) (seq tag : Nat) : Ctx :=
  let c := { c with time := max c.time m.time }
  (c.push { dst := hd, val := (m.val.truncate 512), due := seq + 8, seq := seq, tag := 0, fixed := false }).push
    { dst := sd, val := BitVec.ofNat 512 (msgInfo m.src q), due := seq + 8, seq := seq, tag := tag, fixed := false }

/-- A message enters the queue of a context (R266): a `deqm` that waits for it is served. -/
def putMsg (c : Ctx) (q : Nat) (m : Msg) : Ctx :=
  let c := { c with qres := c.qres.set q (c.reserved q - 1) 0 }
  let add (c : Ctx) : Ctx := { c with q := c.q.set q (c.queue q ++ [m]) [] }
  match c.st, c.wait with
  | .waiting, .queue q' a b tag =>
    if q' = q then
      let c := { c with recMsgs := if c.fixOpen || c.win then c.recMsgs ++ [(c.waitSeq, q, m)] else c.recMsgs }
      { deliverMsg c m q (.h a) (c.dstS b) c.waitSeq tag with st := .ready, wait := .none }
    else add c
  | .ending, _ | .ended, _ => c
  | _, _ => add c

/-- The message would enter the queue of a context in Ending or Ended: it is discarded (R373). -/
def msgGone (s : State) (f : Flight) : Bool :=
  match s.whereIs f.team f.tidx with
  | some p => (s.ctx p.1 p.2).st == .ending || (s.ctx p.1 p.2).st == .ended
  | none =>
    match s.keptOf f.team f.tidx with
    | some k => k.ended
    | none => true

/-- A message enters its target queue (R265, R373); with ACK the sender's register is written then. -/
def enterQueue (s : State) (f : Flight) : State :=
  let gone := msgGone s f
  let s := match s.whereIs f.team f.tidx with
    | some p => s.updCtx p.1 p.2 (fun c => putMsg c f.q f.m)
    | none => s.updKept f.team f.tidx (fun k =>
        { k with q := if k.ended then k.q else k.q.set f.q (k.queue f.q ++ [f.m]) [], qres := k.qres.set f.q (k.reserved f.q - 1) 0 })
  match f.ack with
  | some (d, seq, tag) =>
    if (s.ctx f.from' f.fslot).team ≠ f.team then s else
    s.updCtx f.from' f.fslot (fun c =>
      c.push { dst := d, val := BitVec.ofNat 512 (if gone then 0 else 1), due := seq + 8, seq := seq,
               tag := tag, fixed := false })
  | none => s

/-! ## Yields and failure (R50, R57, R357) -/

/-- A yield request reaches a context: none in Ending or Ended, in a free or loading slot (R57), or stopped
(R187, R357). -/
def yieldCtx (s : State) (core slot : Nat) : State :=
  let c := s.ctx core slot
  if c.wait = .stopped then s else
  match c.st with
  | .ready | .waiting | .supervisor => s.setCtx core slot { c with ypend := true }
  | _ => s

/-- The command processor requests a yield of every context of a team (R50). -/
def yieldTeam (s : State) (t : Nat) : State :=
  (s.teamCtxs t).foldl (fun s p => yieldCtx s p.1 p.2) s

/-- Operations of a failing team's context that are dropped: inbound ones, gated ones and held copies;
released outbound copies run on (R357). -/
def EOp.dropped (o : EOp) : Bool := o.inb || o.gated || o.held

/-- A context of a failing team stops (R357 steps 1 and 2). -/
def stopCtx (s : State) (core slot : Nat) : State :=
  let s := ((s.core core).ops.filter (fun o => o.slot == slot && o.dropped)).foldl (fun s o => (writeLeft s core o).1) s
  let s := s.updCore core (fun k => { k with ops := k.ops.filter (fun o => !(o.slot == slot && o.dropped)) })
  s.updCtx core slot (fun c =>
    { c with wait := .stopped, ypend := false, faults := [], gatedItems := [], win := false,
             fixOpen := false, accs := [], res := [] })

/-- A team fails with an inner cause (R357): every context stops; the rest falls at its completion. Log entry 83. -/
def failTeam (s : State) (t cause : Nat) : State :=
  match s.team t with
  | none => s
  | some tm =>
    match tm.failed with
    | some _ => s
    | none =>
      let s := (s.teamCtxs t).foldl (fun s p => stopCtx s p.1 p.2) s
      (s.setTeam t (some { tm with st := .failing, failed := some cause })).updTask tm.task (fun k => if k.cause = 0 then { k with cause := cause } else k)

/-- SUP_FAULT (R187, R345, R355): the context stops and its team ends with failure. -/
def supFault (s : State) (core slot code epc : Nat) (tval : Word) : State :=
  let c := s.ctx core slot
  let h := match s.team c.team with
    | some tm => s.handle tm.task
    | none => 0
  let s := s.postE c.part 0x74 (island := s.islandOf core) (core := core) (die := dieOf core)
    (handle := h) (arg := tval.toNat + epc % 2 ^ 24 * 2 ^ 64 + code % 128 * 2 ^ 88)
  failTeam (s.updCtx core slot (fun c => { c with wait := .stopped })) c.team code

end Sys2Proof.Machine
end

