-- ==== Sys2Proof/Machine/Regions.lean ====
section
/-!
DEFINITION. Sys2Proof/Machine/Regions.lean: fixed regions: restart marks, droop-check windows, gated
commands and rollback (R229, R251, R252, R272, R307 to R311, R392, R393).
-/
namespace Sys2Proof.Machine

/-! ## Shadow sets (R308, R309) -/

/-- Shadow set 0 or 1. -/
def Ctx.shadow (c : Ctx) (i : Nat) : Option Shadow := if i = 0 then c.sh0 else c.sh1
def Ctx.setShadow (c : Ctx) (i : Nat) (h : Option Shadow) : Ctx :=
  if i = 0 then { c with sh0 := h } else { c with sh1 := h }

/-- The set of the open region, and that of the closed region in its window. -/
def Ctx.openSet (c : Ctx) : Nat := c.fixCur
def Ctx.closedSet (c : Ctx) : Nat := if c.fixOpen then 1 - c.fixCur else c.fixCur

/-- The own issue from which on operations belong to the open region. -/
def Ctx.openSeq (c : Ctx) : Nat :=
  if c.fixOpen then ((c.shadow c.openSet).map (·.seq)).getD c.iss else c.iss

/-- A new region opens: shadow set 1 − CUR captures its opening state and CUR flips (R308 step 2). -/
def Ctx.openRegion (c : Ctx) : Ctx :=
  let i := 1 - c.fixCur
  { c.setShadow i (some { arch := c.a, seq := c.iss, mark := c.iss }) with fixCur := i, fixOpen := true, markDue := false }

/-- The open region closes and its window starts (R308 step 1). -/
def Ctx.closeRegion (c : Ctx) : Ctx :=
  if c.fixOpen then { c with fixOpen := false, win := true, markDue := false } else { c with markDue := false }

/-- A restart mark (R308); the caller has seen that no window runs. -/
def Ctx.mark (c : Ctx) : Ctx := c.closeRegion.openRegion

/-! ## Gated commands (R229, R251, R272) -/

/-- The own issue of a gated item. -/
def Gated.seq : Gated → Nat
  | .arrive _ q .. => q
  | .enqt _ q .. => q
  | .enqm q .. => q

/-- Gated engine operations of a context. -/
def gatedOps (s : State) (core slot : Nat) : List EOp :=
  (s.core core).ops.filter (fun o => o.slot == slot && o.gated)

/-- Gated commands of the open region (R251). -/
def gatedOpen (s : State) (core slot : Nat) : Nat :=
  let c := s.ctx core slot
  ((gatedOps s core slot).filter (fun o => decide (c.openSeq ≤ o.seq))).length +
    (c.gatedItems.filter (fun g => decide (c.openSeq ≤ g.seq))).length

/-- NGATE: gated copies of the last closed region not yet released (R180). -/
def gatedClosed (s : State) (core slot : Nat) : Nat :=
  let c := s.ctx core slot
  min 63 ((gatedOps s core slot).filter (fun o => o.copy && decide (o.seq < c.openSeq))).length

/-- The 32-byte pieces of a descriptor. -/
def descPieces (s : State) (e : Enq) : List (Except Nat Place) :=
  (List.range 8).map (fun i => place s e.core e.slot (capOid e.cap) (e.off.toNat + 32 * i) 32)

/-- A descriptor is asked for; where some of it stands in host memory the request goes out over PCIe, and its
completion is awaited (R264, R382). -/
def askDesc (s : State) (e : Enq) : State :=
  let hosts := (descPieces s e).filterMap (fun p => match p with
    | .ok (.host a peer) => some (a, peer)
    | _ => none)
  if hosts = [] ∨ hosts.any (fun h => s.hostDown h.1 h.2 false) then { s with enqs := s.enqs ++ [e] }
  else
    let s := hosts.foldl (fun s h => s.askHost (s.ctx e.core e.slot).part h.1 h.2 32) s
    { s with enqs := s.enqs ++ [{ e with pcie := 1, asked := s.now }] }

/-- One released item is performed (R272): an arrival sets out, a descriptor is asked for, a message takes its
target slot and leaves; absent where the target queue has no room. The result of a message to a context that has
ended comes when it would enter the queue, as with ACK (R373). -/
def releaseItem (s : State) (core slot : Nat) (g : Gated) : Option State :=
  let c := s.ctx core slot
  match g with
  | .arrive n seq dst tag aw =>
    some { s with arrs := s.arrs ++ [{ core := core, n := n, from' := core, slot := slot, team := c.team, time := c.time, for' := if aw then .await else .token dst seq tag }] }
  | .enqt id seq k dst tag waddr off cap caps time =>
    some (askDesc s { core := core, slot := slot, team := c.team, id := id, seq := seq, k := k, dst := dst, tag := tag, waddr := waddr, off := off, cap := cap, caps := caps, time := time })
  | .enqm seq dst tag tidx q ack payload =>
    if s.queueFree c.team tidx q then
      let f : Flight := { team := c.team, tidx := tidx, q := q, m := { src := c.tidx, val := payload, time := c.time }, from' := core, fslot := slot, ack := none }
      let late := ack || msgGone s f
      let s := sendMsg s { f with ack := if late then some (dst, seq, tag) else none }
      some (if late then s else s.updCtx core slot (fun c =>
        c.push { dst := dst, val := 1, due := seq + 8, seq := seq, tag := tag, fixed := false }))
    else none

/-- The own issue from which on commands stay gated: that of the closed region in its window, else of the open
one. -/
def Ctx.releaseLim (c : Ctx) : Nat :=
  if c.win then ((c.shadow c.closedSet).map (·.seq)).getD c.openSeq else c.openSeq

/-- Release items of closed regions in issue order, up to one that must wait. -/
def releaseItems (s : State) (core slot : Nat) : List Gated → State
  | [] => s
  | g :: r =>
    if g.seq < (s.ctx core slot).releaseLim then
      match releaseItem s core slot g with
      | some s => releaseItems (s.updCtx core slot (fun c => { c with gatedItems := r })) core slot r
      | none => s
    else s

/-- Release a context's commands of closed regions in issue order (R308 step 3): an item that must wait holds back
the engine operations issued with it or after it. -/
def releaseGated (s : State) (core slot : Nat) : State :=
  let s := releaseItems s core slot (s.ctx core slot).gatedItems
  let c := s.ctx core slot
  let lim := ((c.gatedItems.map (·.seq)) ++ [c.releaseLim]).foldl min c.releaseLim
  s.updCore core (fun k => { k with ops := k.ops.map (fun o =>
    if o.slot == slot && decide (o.seq < lim) then { o with gated := false } else o) })

/-- The droop-check window ends without fog (R308 step 3): gated commands are released, the closed
region's shadow set is freed, and a mark that waited behind it is made. -/
def windowEnd (s : State) (core slot : Nat) : State :=
  let c := s.ctx core slot
  let s :=
    if c.win then
      let lim := c.openSeq
      let own := (c.shadow c.closedSet).map (·.mark)
      let c := { c.setShadow c.closedSet none with win := false, recClaims := c.recClaims.filter (fun r => decide (lim ≤ r.1)), recMsgs := c.recMsgs.filter (fun r => decide (lim ≤ r.1)), fogRun := if c.fogMark = own then 0 else c.fogRun, fogMark := if c.fogMark = own then none else c.fogMark, fogSilent := if c.fogMark = own then 0 else c.fogSilent }
      s.setCtx core slot c
    else s
  let s := releaseGated s core slot
  let c := s.ctx core slot
  if c.markDue && c.st == .waiting && c.fixOpen then s.setCtx core slot c.mark else s

/-! ## Rollback (R311, R393) -/

/-- The region that a fog strikes: the closed region in its window, else the open one. -/
def Ctx.fogged (c : Ctx) : Option (Nat × Shadow) :=
  if c.win then (c.shadow c.closedSet).map (fun h => (c.closedSet, h))
  else if c.fixOpen then (c.shadow c.openSet).map (fun h => (c.openSet, h))
  else none

/-- Change the record that the load of operation `id` has left: a plane's, the one that a later load would
give back (R229), and what an `mstat` issued behind it will report (R216). -/
def Core.updRecord (k : Core) (id : Nat) (f : Plane → Plane) : Core :=
  let g (p : Plane) : Plane := if p.by' = id + 1 then f p else p
  { k with pl0 := g k.pl0, pl1 := g k.pl1, ops := k.ops.map (fun o => { o with before := o.before.map g, cap := { o.cap with recs := o.cap.recs.map g } }) }

/-- A plane's record returns to what it was before a discarded load, which has begun nothing; so does the record
that a later load of another context would give back (R229). -/
def undoLoad (k : Core) (o : EOp) : Core :=
  match o.before with
  | none => k
  | some b => k.updRecord o.id (fun p => { b with w := p.w, sc := p.sc })

/-- FOG_REPEAT and the count of consecutive rollbacks (R392). -/
def fogRepeat (s : State) (core slot : Nat) : State :=
  let c := s.ctx core slot
  let i := s.islandOf core
  if c.fogRun = 4 ∨ c.fogRun = 8 ∨ c.fogRun = 12 then
    let s := (s.postE c.part 0x6D (island := i) (core := core) (die := dieOf core)).postF 0x6D
      (island := i) (core := core) (die := dieOf core)
    s.updIsland i (fun x => { x with vfloor := min x.vmax (x.vfloor + 2) })
  else if c.fogRun = 16 then
    let s := yieldTeam (s.updTeam c.team (fun m => { m with fled := s.teamCores c.team })) c.team
    if c.fogSilent = 16 then
      { s with wear := s.wear.set (s.phys core) { s.wearOf (s.phys core) with monRetire := true } {} }
    else s
  else s

/-- A fog rolls a context back (R311, R252, R272, R393): operations, once all that they have reached is written,
accesses, results, faults and items of the region go; the opening state returns; a new region opens at the mark.
Log entry 46. -/
def rollback (s : State) (core slot : Nat) (silent : Bool) : State :=
  let c := s.ctx core slot
  match c.fogged with
  | none => s
  | some (i, h) =>
    let gone (o : EOp) : Bool := o.slot == slot && decide (h.seq ≤ o.seq)
    let s := ((s.core core).ops.filter (fun o => gone o && !o.gated)).foldl (fun s o => (writeLeft s core o).1) s
    let k := s.core core
    let k := (k.ops.filter gone).reverse.foldl undoLoad k
    let c := s.ctx core slot
    let kept := c.faults.filter (fun f => decide (f.seq < h.seq))
    let wake (o : EOp) : EOp :=
      if o.slot != slot then o else
      { o with held := o.held && !(o.inb && !kept.any (fun f => f.id == o.id)), cancelTag := o.cancelTag.filter (fun t => decide (t.2 < h.seq)) }
    let s := s.setCore core { k with ops := (k.ops.filter (fun o => !gone o)).map wake }
    let c := s.ctx core slot
    let run := if c.fogMark = some h.mark then c.fogRun + 1 else 1
    let sil := (if c.fogMark = some h.mark then c.fogSilent else 0) + oneIf silent
    let pl := (c.recClaims.filter (fun r => decide (h.seq ≤ r.1))).map (·.2)
    let pm := (c.recMsgs.filter (fun r => decide (h.seq ≤ r.1))).map (·.2)
    let stay := c.st == .waiting && decide (c.waitSeq < h.seq)
    let lost := (c.accs.filter (fun a => decide (h.seq ≤ a.seq))).map (·.dst) ++ (c.res.filter (fun (r : Pend) => decide (h.seq ≤ r.seq))).map (·.dst)
    let pats := lost.foldl
      (fun t d => match d with
        | .pat n => t.set n (t.get n 0 - 1) 0
        | _ => t) c.patLoad
    let c := { c with a := h.arch, patLoad := pats, accs := c.accs.filter (fun a => decide (a.seq < h.seq)), res := h.late ++ c.res.filter (fun (r : Pend) => decide (r.seq < h.seq)), faults := kept, gatedItems := c.gatedItems.filter (fun g => decide (g.seq < h.seq)) }
    let c := { c with recClaims := [], recMsgs := [], playClaims := pl ++ c.playClaims, playMsgs := pm ++ c.playMsgs, fogMark := some h.mark, fogRun := run, fogSilent := sil, nfog := min 0xFFFF (c.nfog + 1) }
    let c := { c with st := if stay then .waiting else .ready, wait := if stay then c.wait else .none, win := false, fixOpen := true, fixCur := i, held := 0, iss := h.seq }
    let c := (c.setShadow i (some { h with late := [] })).setShadow (1 - i) none
    fogRepeat (s.setCtx core slot c) core slot

/-- A fog of a context that may be affected: none in supervisor mode, Ended or a free slot (R393). -/
def fogCtx (s : State) (core slot : Nat) (silent : Bool) : State :=
  let c := s.ctx core slot
  match c.st with
  | .ready | .waiting | .ending => if c.sup then s else rollback s core slot silent
  | _ => s

end Sys2Proof.Machine
end

