-- ==== Sys2Proof/Machine/Roles.lean ====
section
/-!
DEFINITION. Sys2Proof/Machine/Roles.lean: which tiles an engine operation reads, writes, decodes and
counts into (R143, R144, R152, R192, R199, R219, R240), from its instruction, the descriptors and the
format registers in effect.
-/
namespace Sys2Proof.Machine

/-- The tile operands of an engine instruction in field order: those it writes, those it decodes, those
it reads without decoding. `encs` are destinations that take encoded values. -/
structure Form where
  dests : List Nat := []
  encs : List Nat := []
  decs : List Nat := []
  raws : List Nat := []
  /-- Those it names as a source whose elements it does not read (R217, R228). -/
  names : List Nat := []
  /-- All of them in field order, for the checks of R189. -/
  fields : List Nat := []
  deriving DecidableEq, Repr

/-- Elementwise and conversion forms: one destination, sources decoded. -/
def Form.ew (o : VT) (n : Nat) : Form :=
  let l := [o.ta, o.tb, o.tc].take n
  { dests := [o.td], encs := [o.td], decs := l, fields := o.td :: l }

/-- The tile operands of a V or M instruction; none for any other (R199, R219). `row` is the class of
R132. The tile that vstat names is no source of TILE_ALIAS: DESIGN CHOICE (log entry 67). -/
def vForm (i : Instr) : Option (CfClass × Nat × VT × Form) :=
  match i with
  | .tclr _ o => some (.N, 0, o, { dests := [o.td], fields := [o.td] })
  | .vadd _ cf o | .vsub _ cf o | .vmul _ cf o | .vmin _ cf o | .vmax _ cf o | .vcmp _ cf o =>
    some (.A, cf, o, .ew o 2)
  | .vfma _ cf o | .vfms _ cf o | .vfnma _ cf o => some (.F, cf, o, .ew o 3)
  | .vabs _ cf o | .vneg _ cf o => some (.A, cf, o, .ew o 1)
  | .vclamp _ cf o | .vsel _ cf o => some (.A, cf, o, .ew o 3)
  | .vand _ cf o | .vor _ cf o | .vxor _ cf o | .vshl _ cf o | .vshr _ cf o | .vsra _ cf o =>
    some (.I, cf, o, .ew o 2)
  | .vnot _ cf o => some (.I, cf, o, .ew o 1)
  | .vmov _ o => some (.N, 0, o, { dests := [o.td], raws := [o.ta], fields := [o.td, o.ta] })
  | .vbcast _ o | .vcvt _ o | .vtrans _ o | .vunpk _ o => some (.N, 0, o, .ew o 1)
  | .viota _ cf o => some (.A, cf, o, .ew o 0)
  | .vrcp _ cf o | .vrsq _ cf o | .vexp2 _ cf o | .vlog2 _ cf o | .vtanh _ cf o | .vlgst _ cf o
  | .vsqrt _ cf o => some (.F, cf, o, .ew o 1)
  | .vrcpf _ cf o | .vrsqf _ cf o | .vscal _ cf o => some (.F, cf, o, .ew o 2)
  | .vrsum _ cf o | .vcsum _ cf o | .vrmax _ cf o | .vcmax _ cf o | .vrmin _ cf o | .vcmin _ cf o
  | .vrarg _ cf o | .vscan _ cf o | .vcscan _ cf o => some (.A, cf, o, .ew o 1)
  | .vperm _ o | .vgath _ o | .vscat _ o | .vpack _ o | .vdeq _ o => some (.N, 0, o, .ew o 2)
  | .vtopk _ cf o =>
    some (.A, cf, o, { dests := [o.td, o.tb], encs := [o.td, o.tb], decs := [o.ta], fields := [o.td, o.ta, o.tb] })
  | .vquant _ o => some (.N, 0, o, { dests := [o.td], encs := [o.td], decs := [o.ta], fields := [o.td, o.ta] })
  | .vstat _ o => some (.N, 0, o, { dests := [o.td], fields := [o.td, o.ta] })
  | _ => none

/-- An operation marked in place (R199). -/
def inPlace (i : Instr) : Bool :=
  match i with
  | .vadd .. | .vsub .. | .vmul .. | .vfma .. | .vfms .. | .vfnma .. | .vmin .. | .vmax .. | .vabs ..
  | .vneg .. | .vclamp .. | .vsel .. | .vcmp .. | .vand .. | .vor .. | .vxor .. | .vnot .. | .vshl ..
  | .vshr .. | .vsra .. | .vmov .. | .vrcp .. | .vrsq .. | .vrcpf .. | .vrsqf .. | .vexp2 ..
  | .vlog2 .. | .vtanh .. | .vlgst .. | .vsqrt .. | .vscal .. => true
  | _ => false

/-- An operation that rounds under MODE 4 (R149). -/
def drawsStochastic (i : Instr) : Bool :=
  match i with
  | .tclr .. | .vmov .. | .vstat .. => false
  | .mdrain .. => true
  | i => (vForm i).isSome

/-- Tile operands of an M instruction, with the governing register of what it decodes or encodes: 0 fa,
1 fw, 2 fo, 3 fv (R146, R219). The tile that mstat names is no source of TILE_ALIAS: DESIGN CHOICE (log entry 67). -/
def mForm (i : Instr) : Option (Nat × MT × Form) :=
  match i with
  | .mloadw _ o | .mloadwt _ o => some (1, o, { decs := [o.y], fields := [o.y] })
  | .mswap _ o => some (3, o, {})
  | .mma _ o => some (0, o, { dests := [o.x], decs := [o.y], fields := [o.x, o.y] })
  | .mzero _ o => some (3, o, { dests := [o.x], fields := [o.x] })
  | .mdrain _ o =>
    let extra := (if o.zv = 1 then [o.z] else []) ++ (if o.wv = 1 then [o.w] else [])
    some (2, o, { dests := o.x :: (if o.acc = 1 then [o.y] else []), encs := [o.x],
                  raws := (if o.acc = 1 then [] else [o.y]) ++ extra, fields := [o.x, o.y] ++ extra })
  | .mcbl _ o => some (3, o, { raws := [o.y], fields := [o.y] })
  | .moutl _ o => some (3, o, { dests := [o.x], fields := [o.x] })
  | .mscl _ o => some (3, o, { dests := [o.x], raws := [o.y], fields := [o.x, o.y] })
  | .mstat _ o => some (3, o, { dests := [o.x], names := [o.y], fields := [o.x, o.y] })
  | .vcbl _ o => some (3, o, { decs := [o.y], fields := [o.y] })
  | _ => none

/-- How a copy stands (R232): inbound, outbound from a tile, memory to memory, prefetch. -/
inductive CpKind where
  | inbound | outbound | mem | pf
  deriving DecidableEq, Repr

/-- The copies (R232), with whether s[Y] names an index tile. -/
def cForm (i : Instr) : Option (CpKind × Bool × CP) :=
  match i with
  | .cpLd _ o => some (.inbound, false, o)
  | .cpSt _ o => some (.outbound, false, o)
  | .cpSs _ o => some (.outbound, false, o)
  | .cpMm _ o => some (.mem, false, o)
  | .cpGath _ o => some (.inbound, true, o)
  | .cpScat _ o => some (.outbound, true, o)
  | .cpBc _ o => some (.outbound, false, o)
  | .cpAcc _ o => some (.outbound, false, o)
  | .cpFill _ o => some (.inbound, false, o)
  | .cpPf _ o => some (.pf, false, o)
  | _ => none

/-! ## Scales, outliers and the whole set -/

/-- An operand that decodes with escapes under a governing register: an integer element format with
SUB = 3 (R144). -/
def escapes (d : BitVec 128) (g : BitVec 18) : Bool := isInt (baseFmt (dFmt d)) && govSub g == 3

/-- The scale tiles of the block-scaled tiles among `l` (R143). -/
def scaleTiles (a : Arch) (l : List Nat) : List Nat :=
  (l.filter (fun t => decide (t < 63) && isBlock (dFmt (a.desc t)))).map (· + 1)

/-- The outlier tile that an operation reads, if any (R144). -/
def outlierTile (a : Arch) (g fs : BitVec 18) (decs : List Nat) : Option Nat :=
  if fld fs 7 3 ≠ 0 ∧ decs.any (fun t => escapes (a.desc t) g) then some (fld fs 0 7) else none

/-- The governing register of number n of R146 in an architectural state. -/
def Arch.gov (a : Arch) (n : Nat) : BitVec 18 :=
  match n with
  | 0 => a.fa | 1 => a.fw | 2 => a.fo | _ => a.fv

/-- vquant writes its destination's scale tile (R209). -/
def writesScale (i : Instr) : Bool :=
  match i with
  | .vquant .. => true
  | _ => false

/-- Every tile an engine operation holds, with whether it writes it (R192). -/
def opTiles (i : Instr) (a : Arch) (yval : Word) : List (Nat × Bool) :=
  let eng (g : Nat) (f : Form) : List (Nat × Bool) :=
    f.dests.map (fun t => (t, true)) ++ (f.decs ++ f.raws ++ f.names).map (fun t => (t, false)) ++
      (scaleTiles a f.encs).map (fun t => (t, writesScale i)) ++
      (scaleTiles a f.decs).map (fun t => (t, false)) ++
      (match outlierTile a (a.gov g) a.fs f.decs with
       | some t => [(t, false)]
       | none => [])
  match vForm i with
  | some (_, _, _, f) => eng 3 f
  | none =>
    match mForm i with
    | some (g, _, f) => eng g f
    | none =>
      match cForm i with
      | some (k, idx, o) =>
        (match k with
         | .inbound => [(o.t, true)]
         | .outbound => [(o.t, false)]
         | _ => []) ++ (if idx then [(yval.toNat % 64, false)] else [])
      | none => []

/-- Tiles into whose status words an operation counts (R152, R155). -/
def opCounts (i : Instr) : List Nat :=
  match vForm i with
  | some (_, _, _, f) => f.encs ++ f.decs
  | none =>
    match mForm i with
    | some (_, _, f) =>
      (match i with
       | .mma _ o => [o.x, o.y]
       | .mscl _ o => [o.x]
       | _ => f.encs ++ f.decs)
    | none => []

/-- An operation reads the status word of tile `t` (R211, R228). Log entry 30. -/
def readsStatus (i : Instr) (t : Nat) : Bool :=
  match i with
  | .vstat _ o => o.ta == t
  | .mstat _ o => o.y == t
  | _ => false

/-- An inbound operation (R44): every V operation with a thread, every M operation with a thread, and
inbound copies. -/
def isInbound (i : Instr) : Bool :=
  (vForm i).isSome ||
  (match i with
   | .mloadw .. | .mloadwt .. | .mma .. | .mzero .. | .mdrain .. | .moutl .. | .mscl .. | .mstat .. => true
   | _ => false) ||
  (match cForm i with
   | some (.inbound, _) => true
   | _ => false)

/-- Gated in an open fixed region: outbound copies, and M operations that write accumulators or planes
(R229, R251). -/
def isGated (i : Instr) : Bool :=
  match i with
  | .mloadw .. | .mloadwt .. | .mma .. | .mzero .. | .mscl .. => true
  | .mdrain _ o => o.acc == 1
  | i =>
    match cForm i with
    | some (.outbound, _) | some (.mem, _) => true
    | _ => false

/-! ## Rows (R196, R205, R234) -/

/-- Rows of a pattern: the product of its counts (R236). -/
def patCnt (b : BitVec 512) (d : Nat) : Nat := fld b (64 * d + 48) 8 + 1
def patRows (b : BitVec 512) : Nat :=
  patCnt b 1 * patCnt b 2 * patCnt b 3 * patCnt b 4 * patCnt b 5

/-- Progress rows of an operation, its descriptors as captured (R196, R205, R207, R211, R222 to R228,
R234). -/
def rowCount (i : Instr) (desc : Nat → BitVec 128) (pat : Option (BitVec 512)) (usesPat : Bool) : Nat :=
  match i with
  | .tclr _ o => if o.flags % 2 = 1 then dRows (desc o.td) else dVRows (desc o.td)
  | .vscat _ o => dVRows (desc o.ta)
  | .vcsum _ _ o | .vcmax _ _ o | .vcmin _ _ o => min 1 (dVRows (desc o.td))
  | .vstat _ o => min 1 (dVRows (desc o.td))
  | .mloadw _ o | .mloadwt _ o | .mma _ o => dVRows (desc o.y)
  | .mzero _ _ => 1
  | .mdrain _ o => dVRows (desc o.x)
  | .mscl _ _ => 128
  | .moutl _ o | .mstat _ o => min 2 (dVRows (desc o.x))
  | .cpMm _ _ => ((pat.map patRows).getD 0)
  | .cpPf _ _ => if usesPat then (pat.map patRows).getD 0 else 1
  | i =>
    match vForm i with
    | some (_, _, o, _) => dVRows (desc o.td)
    | none =>
      match cForm i with
      | some (_, _, o) => dVRows (desc o.t)
      | none => 0

end Sys2Proof.Machine
end

