-- ==== Sys2Proof/Machine/Ops.lean ====
section
/-!
DEFINITION. Sys2Proof/Machine/Ops.lean: the named operations that steps share: own issues and what they
count (R43, R119, R262), results and access answers, engine operations as threads with their tile states
(R191, R217, R238), progress words (R51, R181), taking a trap (R50, R184, R346) and the return from one
(R56, R186).
-/
namespace Sys2Proof.Machine

/-! ## Format writes (R119, R120, R135, R145) -/

/-- The bytes of a stepset CTLARG: count × unit (R135). -/
def stepBytes (arg : Nat) : Word :=
  wrap64 (sNat (bits arg 2 16) 16 * (if bits arg 1 1 = 1 then 4096 else 32))

/-- A format write takes effect: registers in the order of items 0x170 to 0x179. -/
def Arch.writeFmt (a : Arch) (reg arg : Nat) : Arch :=
  let v := BitVec.ofNat 18 arg
  match reg with
  | 0 => { a with fa := v }
  | 1 => { a with fw := v }
  | 2 => { a with fo := v }
  | 3 => { a with fv := v }
  | 4 => { a with fs := v }
  | 5 => { a with rm := v }
  | 6 => { a with seed := if bits arg 16 1 = 0 then setFld a.seed 0 16 arg else setFld a.seed 16 16 arg, draw := 0 }
  | 7 => { a with cbsel := v }
  | 8 => { a with stepC0 := stepBytes arg }
  | _ => { a with stepC1 := stepBytes arg }

/-- The pending writes whose counts have run out take effect, oldest first. -/
def Arch.landFmt (a : Arch) : Arch :=
  { (a.pend.filter (fun p => p.left == 0)).foldl (fun a p => a.writeFmt p.reg p.arg) a with
    pend := a.pend.filter (fun p => p.left != 0) }

/-- An issue in user (`sup` false) or supervisor mode passes for the writes that count it (R120). -/
def Arch.tickFmt (a : Arch) (sup : Bool) : Arch :=
  { a with pend := a.pend.map (fun p => if p.sup == sup then { p with left := p.left - 1 } else p) }

/-! ## Claims (R262, R263) -/

/-- One user issue, or one cycle of a wait, passes for each claim in flight. -/
def Arch.tickClaims (a : Arch) : Arch :=
  { a with claims := a.claims.map (fun c => { c with left := c.left - 1 }) }

/-- A claim whose count has run out lands: begin in [31:0], end in [63:32], and its tag frees. -/
def Arch.landClaim (a : Arch) (c : Claim) : Arch :=
  let a := a.putSeq (.h c.h) (BitVec.ofNat 512 (c.lo % 2 ^ 32 + c.hi % 2 ^ 32 * 2 ^ 32)) c.seq
  if c.tag = 0 then a else { a with tg := a.tg.set c.tag (a.tg.get c.tag 0 - 1) 0 }

def Claim.due (c : Claim) : Bool := c.valid && c.left == 0 && c.served

/-- Every served claim whose count has run out lands, oldest first. -/
def Arch.landClaims (a : Arch) : Arch :=
  { (a.claims.filter Claim.due).foldl Arch.landClaim a with
    claims := a.claims.filter (fun c => !c.due) }

/-- A claim must land at this boundary and has not been served: the issue is held (R262). -/
def Arch.claimLate (a : Arch) : Bool := a.claims.any (fun c => c.valid && c.left == 0 && !c.served)

/-! ## Boundaries and issues -/

/-- What lands at the boundary before the next issue: results (R110, R112), format writes, claims. -/
def Ctx.boundary (c : Ctx) : Ctx :=
  let c := c.landAll (fun r => decide (r.due ≤ c.iss))
  let a := c.a.landFmt
  { c with a := if c.sup then a else a.landClaims }

/-- One own issue passes (R42, R43, R78, R119, R262, R312). -/
def Ctx.tick (c : Ctx) : Ctx :=
  let a := c.a.tickFmt c.sup
  { c with iss := c.iss + 1, burst := c.burst + 1, held := 0, issIval := c.issIval + 1, time := c.time + oneIf ((c.iss + 1) % 64 == 0), a := if c.sup then a else a.tickClaims }

/-! ## Code (R7, R102) -/

/-- One byte of a code object; a byte on a page that is not resident in device memory is a free value
(log entry 17). -/
def codeByte (s : State) (oid : Nat) (ob : Obj) (o : Nat) : Nat :=
  let ps := pageBytes ob.psz
  let e := ob.pages.get (o / ps) {}
  if e.state = 1 ∨ e.state = 2 then (Tab.get s.mem (devKey e.die (e.frame * 4096 + o % ps)) 0).toNat
  else Config.fetchHole oid o % 256

/-- Length of a partition's code object in words, at most 2^24 (R128; log entry 115); 0 where there is none. -/
def codeLen (s : State) (p oid : Nat) : Nat :=
  match s.objOf p oid with
  | some ob => min (ob.len / 10) (2 ^ 24)
  | none => 0

/-- The word at a word address: 80 bits, little-endian. -/
def codeWord (s : State) (p oid w : Nat) : Nat :=
  match s.objOf p oid with
  | some ob => (List.range 10).foldr (fun i r => codeByte s oid ob (10 * w + i) + 256 * r) 0
  | none => 0

/-- The repetition at which a context's next bundle stands (R348, R362), given its REPEAT. Log entry 32. -/
def repIndex (reps repeat' : Nat) : Nat := if reps = 0 then 0 else repeat' + 1 - reps

/-- The repetition index of the user bundle at the pc. -/
def userRep (s : State) (c : Ctx) : Nat := repIndex c.a.reps (bits (codeWord s c.part c.oid c.a.pc) 57 8)

/-! ## Answers to scalar accesses (R112, R169) -/

/-- A pattern load of issue `seq` into entry n has faulted: the entry is invalid, unless a later load has
written it (R112, R237). -/
def Ctx.losePat (c : Ctx) (n seq : Nat) : Ctx :=
  let c := { c with patLoad := c.patLoad.set n (c.patLoad.get n 0 - 1) 0 }
  let key := (Dst.pat n).key
  if c.a.lastw.get key 0 ≤ seq then
    { c with pats := c.pats.set n none none, a := { c.a with lastw := c.a.lastw.set key seq 0 } }
  else c

/-- The answer to an access: its result, written no earlier than its minimum latency, or its fault. A
faulting pattern load leaves its entry invalid (R237). -/
def respond (s : State) (core slot : Nat) (a : Acc) : State :=
  s.updCtx core slot (fun c =>
    let c := { c with accs := c.accs.filter (fun x => x.id != a.id) }
    match a.fault with
    | some code =>
      let f : PendFault := { code := code, async := true, sup := a.sup, tval := a.off, tinst := a.waddr, slot := a.sl, k := a.k, seq := a.seq, id := a.id, tag := a.tag }
      let c := { c with faults := c.faults ++ [f] }
      (match a.dst with
       | .pat n => c.losePat n a.seq
       | _ => c)
    | none => c.push { dst := a.dst, val := a.val, due := a.seq + a.minLat, seq := a.seq, tag := a.tag, fixed := false })

/-! ## Engine operations -/

/-- An operation of the slot other than `id`, issued before `lim`, that writes tile `t`. -/
def writerLeft (ops : List EOp) (slot id t lim : Nat) : Bool :=
  ops.any (fun o => o.slot == slot && o.id != id && !o.predOff && decide (o.seq < lim) && o.tiles.contains (t, true))

/-- Tile `t` leaves filling or draining for state `v` when operation `o` lets go of it, unless another
writer remains in flight (R191, R217); so does the tile in each shadow set that the operation precedes
(R311). -/
def releaseTile (s : State) (core : Nat) (o : EOp) (t v : Nat) : State :=
  let ops := (s.core core).ops
  s.updCtx core o.slot (fun c =>
    let put (lim : Nat) (a : Arch) : Arch := if writerLeft ops o.slot o.id t lim then a else a.setTstate t v
    let sh (h : Shadow) : Shadow := if o.seq < h.seq then { h with arch := put h.seq h.arch } else h
    { c with a := put (2 ^ 64) c.a, sh0 := c.sh0.map sh, sh1 := c.sh1.map sh })

/-- The tiles an operation writes. -/
def EOp.written (o : EOp) : List Nat := (o.tiles.filter (·.2)).map (·.1)

/-- The source tile of an outbound copy, with its consume flag. -/
def EOp.outSource (o : EOp) : Option (Nat × Bool) :=
  match cForm o.ins with
  | some (.outbound, _, x) => some (x.t, x.con == 1)
  | _ => none

/-- A context in Ending is Ended once no inbound operation, claim, access or fault of it is left, and what was on its
way is written (R48, R373). Log entries 48, 86. -/
def endingRelease (s : State) (core slot : Nat) : State :=
  let c := s.ctx core slot
  if c.st == .ending && !(s.core core).ops.any (fun o => o.slot == slot && o.inb) && !c.a.claims.any (·.valid) &&
      c.accs.isEmpty && c.faults.isEmpty then
    s.setCtx core slot { c.landAll (fun _ => true) with st := .ended, time := max c.time c.thrTime }
  else s

/-- What waits on a tag observes a thread's time `t` (R81, R91). -/
def Ctx.tagSeen (c : Ctx) (tag t : Nat) : Ctx :=
  if tag = 0 then c else { c with tagTime := c.tagTime.set tag (max t (c.tagTime.get tag 0)) 0 }

/-- An operation has completed at time `t`: an instruction that observes it, by its tag, a tile, as a copy, or at the
end of its context or team, takes the time over (R81, R91). -/
def Ctx.threadDone (c : Ctx) (o : EOp) (t : Nat) : Ctx :=
  let c := c.tagSeen o.tag t
  { c with tileTime := o.tiles.foldl (fun (l : Tab Nat) x => l.set x.1 (max t (l.get x.1 0)) 0) c.tileTime,
           copyTime := if o.copy then max t c.copyTime else c.copyTime,
           thrTime := max t c.thrTime }

/-- Take an operation out of the engine. -/
def dropOp (s : State) (core : Nat) (o : EOp) : State :=
  s.updCore core (fun k => { k with ops := k.ops.filter (fun x => x.id != o.id) })

/-- An operation completes (R81, R111, R191): what it has left is written, the tiles it wrote become ready, its tag
frees, and its time waits for what observes it. Log entry 55. -/
def finishOp (s : State) (core : Nat) (o : EOp) : State :=
  let x := writeLeft s core o
  let s := x.1
  let s := if o.predOff then s else o.written.foldl (fun s t => releaseTile s core o t 2) s
  let s := dropOp s core o
  let s := s.updCtx core o.slot (fun c => (c.opDone o.tag o.seq).threadDone o x.2)
  endingRelease s core o.slot

/-- Every cp.cancel of `l` whose last copy has left the engine frees its tag (R248). -/
def cancelsDone (ops : List EOp) (slot : Nat) (l : List (Nat × Nat)) (c : Ctx) : Ctx :=
  l.foldl (fun c x =>
    if ops.any (fun o => o.slot == slot && o.cancelTag.contains x) then c else c.opDone x.1 x.2) c

/-- A cancelled copy leaves the engine (R238, R248): an inbound one leaves its tile empty, an outbound
one leaves its source ready; its fault is discarded (R347); the tag of each cp.cancel that waits for it frees
with the last of its copies. Its time waits for what observes it, a wait on such a tag among them (R81, R91). -/
def cancelCopy (s : State) (core : Nat) (o : EOp) : State :=
  let x := writeLeft s core o
  let s := x.1
  let s := if o.predOff then s else
    match o.outSource with
    | some (t, _) => if o.srcDone then s else releaseTile s core o t 2
    | none => o.written.foldl (fun s t => releaseTile s core o t 0) s
  let s := dropOp s core o
  let s := s.updCtx core o.slot (fun c =>
    let c := o.cancelTag.foldl (fun c t => c.tagSeen t.1 x.2) ((c.opDone o.tag o.seq).threadDone o x.2)
    cancelsDone (s.core core).ops o.slot o.cancelTag { c with faults := c.faults.filter (fun f => f.id != o.id) })
  endingRelease s core o.slot

/-! ## Capturing (R119, R189, R233) -/

/-- Captured descriptors of tiles t0 to t63, BASE stepped by k × STEP. -/
def captureDescs (a : Arch) (k : Nat) (tiles : List Nat) : Tab (BitVec 128) :=
  tiles.foldl (fun t n => if n < 64 then t.set n (dStepped (a.desc n) k) 0 else t) []

/-- Every tile an instruction's elements or bytes come from or go to. -/
def capTiles (i : Instr) (a : Arch) (yval : Word) : List Nat :=
  (opTiles i a yval).map (·.1) ++
  (match vForm i with
   | some (_, _, _, f) => f.fields
   | none => (match mForm i with
      | some (_, _, f) => f.fields
      | none => []))

/-- The plane records that `mstat` captures (R216, R228). -/
def planeRecs (i : Instr) (k : Core) : List Plane :=
  match i with
  | .mstat .. => [{ k.pl0 with w := [], sc := [] }, { k.pl1 with w := [], sc := [] }]
  | _ => []

/-- The format state an operation captures (R119, R145, R149). -/
def capFmt (a : Arch) : Cap :=
  { fa := a.fa, fw := a.fw, fo := a.fo, fv := a.fv, fs := a.fs, rm := a.rm, seed := a.seed, draw := a.draw, cbsel := a.cbsel, cbA := a.cbA, cbW := a.cbW }

/-- The physical plane of an M operation: ROLE xor PLANE (R214); of mstat, the active one (R228). -/
def planeOf (i : Instr) (role : Nat) : Nat :=
  match i with
  | .mloadw _ o | .mloadwt _ o | .mma _ o => (role + o.plane) % 2
  | .mstat .. => role % 2
  | _ => 0

def Core.plane (k : Core) (n : Nat) : Plane := if n = 0 then k.pl0 else k.pl1
def Core.setPlane (k : Core) (n : Nat) (p : Plane) : Core := if n = 0 then { k with pl0 := p } else { k with pl1 := p }

/-- A load of a plane. -/
def isLoad (i : Instr) : Bool :=
  match i with
  | .mloadw .. | .mloadwt .. => true
  | _ => false

/-- K and N of a load from its tile's valid region (R220). -/
def loadShape (i : Instr) (d : BitVec 128) : Nat × Nat :=
  match i with
  | .mloadwt .. => (dVCols d, dVRows d)
  | _ => (dVRows d, dVCols d)

/-- The weight tile of a load. -/
def loadTile (i : Instr) : Nat :=
  match i with
  | .mloadw _ o | .mloadwt _ o => o.y
  | _ => 0

/-- The plane takes the record of a load at its issue: empty, owned by the issuing slot (R213, R220). -/
def startLoad (p : Plane) (o : EOp) : Plane :=
  let d := o.cap.descs.get (loadTile o.ins) 0
  let (kk, nn) := loadShape o.ins d
  { p with loaded := false, loading := true, owner := some o.slot, kk := kk, nn := nn, fmt := dFmt d, blk := if isBlock (dFmt d) then govBlk o.cap.fw else 0, sub3 := escapes d o.cap.fw, nout := fld o.cap.fs 7 3, base := dBase d, waddr := o.waddr, by' := o.id + 1 }

/-- Put a new operation in the engine with the next number: its destinations become filling, an outbound
copy's source draining (R191, R217, R238); a load takes its plane (R220). -/
def launch (s : State) (core : Nat) (o : EOp) : State :=
  let k := s.core core
  let used := (k.ops.filter (·.copy)).map (·.entry)
  let entry := ((List.range 32).find? (fun e => !used.contains e)).getD 0
  let o := { o with id := k.nextId, entry := if o.copy then entry else 0, asked := s.now }
  let load := isLoad o.ins && !o.predOff
  let o := if load then { o with before := some (k.plane o.cap.plane) } else o
  let k := if load then k.setPlane o.cap.plane (startLoad (k.plane o.cap.plane) o) else k
  let s := s.setCore core { k with ops := k.ops ++ [o], nextId := k.nextId + 1 }
  if o.predOff then s else
  s.updCtx core o.slot (fun c =>
    let a := o.written.foldl (fun a t => a.setTstate t 1) c.a
    { c with a := match o.outSource with
        | some (t, _) => a.setTstate t 3
        | none => a })

/-! ## Progress words (R51, R179, R181, R249) -/

/-- The tile operand codes of an instruction in the order of its operand fields; 72 where none. -/
def operandCodes (i : Instr) : List Nat :=
  match vForm i with
  | some (_, _, _, f) => f.fields
  | none =>
    match mForm i with
    | some (_, o, f) =>
      (match i with
       | .mloadw .. | .mloadwt .. => [72, o.y]
       | .mdrain .. => [o.x, o.y, if o.zv = 1 then o.z else 72, if o.wv = 1 then o.w else 72]
       | _ => f.fields)
    | none =>
      match cForm i with
      | some (_, _, o) => [o.t]
      | none => []

/-- The copy fields of an instruction, if it is a copy. -/
def copyOf (i : Instr) : Option CP := (cForm i).map (·.2.2)

/-- The slot word as items 13 and 14 hold it: an M word with its physical plane in bit 13 (R230). -/
def savedWord (o : EOp) : Nat :=
  match mForm o.ins with
  | some _ => if isLoad o.ins || (match o.ins with | .mma .. => true | _ => false) then
      o.word - bits o.word 13 1 * 2 ^ 13 + o.cap.plane * 2 ^ 13 else o.word
  | none => o.word

/-- The sixteen items of the progress word of a stopped operation. -/
def progItems (o : EOp) : List Word :=
  let n (x : Nat) : Word := BitVec.ofNat 64 x
  let base (p : Nat) : Word :=
    let t := (operandCodes o.ins).getD p 72
    if t < 64 then n (dBase (o.cap.descs.get t 0)) else 0
  let copy := copyOf o.ins
  [n (o.waddr % 2 ^ 24 + o.rep % 256 * 2 ^ 24 + o.rows % 512 * 2 ^ 32 + o.sl % 8 * 2 ^ 41 + 2 ^ 63),
   base 0, if copy.isSome then o.cap.yval else base 1, base 2, base 3,
   n o.cap.fa.toNat, n o.cap.fw.toNat, n o.cap.fo.toNat, n o.cap.fv.toNat, n o.cap.fs.toNat, n o.cap.rm.toNat,
   n (o.cap.seed.toNat + o.cap.draw.toNat * 2 ^ 32),
   (match copy with
    | some x => n (o.cap.off.toNat % 2 ^ 48 + o.cap.patIdx % 8 * 2 ^ 48 + x.pat * 2 ^ 51)
    | none => 0),
   n (savedWord o % 2 ^ 64), n (savedWord o / 2 ^ 64), n o.k]

def Arch.item (a : Arch) (n i : Nat) : Word := a.prog.get (16 * n + i) 0
def Arch.setItem (a : Arch) (n i : Nat) (v : Word) : Arch := { a with prog := a.prog.set (16 * n + i) v 0 }

/-- Progress word n is valid. -/
def Arch.progValid (a : Arch) (n : Nat) : Bool := fld (a.item n 0) 63 1 == 1

/-- Invalidate progress word n. -/
def Arch.progClear (a : Arch) (n : Nat) : Arch := a.setItem n 0 (setFld (a.item n 0) 63 1 0)

/-- The slot whose number is `n` (R105). -/
def slotNamed (n : Nat) : Slot :=
  match n with
  | 1 => .V0 | 2 => .V1 | 3 => .M | 4 => .C0 | 5 => .C1 | _ => .S

/-- The operation that a progress word names, as it would run again (R56): its formats, bases, k, rows
and, for a copy, offset, s[Y] and pattern entry from the items; the rest of its descriptors and the
codebooks as they stand (log entry 34). None where the word is not an inbound engine operation. -/
def progOp (c : Ctx) (slot n seq : Nat) : Option EOp :=
  let it (i : Nat) : Nat := (c.a.item n i).toNat
  let word := it 13 + it 14 % 2 ^ 16 * 2 ^ 64
  let sl := bits (it 0) 41 3
  match decodeSlot (slotNamed sl) word with
  | .error _ => none
  | .ok i =>
    if isInbound i = false then none else
    let k := it 15 % 2 ^ 32
    let v (x : Nat) : BitVec 18 := BitVec.ofNat 18 x
    let a := { c.a with fa := v (it 5), fw := v (it 6), fo := v (it 7), fv := v (it 8), fs := v (it 9), rm := v (it 10), seed := BitVec.ofNat 32 (it 11), draw := BitVec.ofNat 32 (it 11 / 2 ^ 32) }
    let copy := copyOf i
    let yval : Word := if copy.isSome then c.a.item n 2 else 0
    let descs := captureDescs a k (capTiles i a yval)
    let descs := (operandCodes i).zipIdx.foldl (fun t p =>
      if p.1 < 64 ∧ (copy.isNone ∨ p.2 = 0) then t.set p.1 (setFld (t.get p.1 0) 0 25 (it (1 + p.2))) 0 else t) descs
    let pe := bits (it 12) 48 3
    let pat := if bits (it 12) 51 1 = 1 then c.pats.get pe none else none
    let cap := { capFmt a with descs := descs, plane := planeOf i 0, off := BitVec.ofNat 64 (it 12 % 2 ^ 48), yval := yval, pat := pat, patIdx := pe }
    let d (t : Nat) : BitVec 128 := if t < 64 then descs.get t 0 else accDesc
    some { id := 0, slot := slot, ins := i, word := word, waddr := bits (it 0) 0 24, sl := sl, inb := true, copy := copy.isSome, tiles := opTiles i a yval, counts := opCounts i, rep := bits (it 0) 24 8, k := k, seq := seq, sup := false, tag := bits word 59 5, predOff := false, gated := false, rows := bits (it 0) 32 9, nrows := rowCount i d pat (bits (it 12) 51 1 == 1), cap := cap, time := c.time }

/-- The issue-order number that the operation of progress word n had, where the word was made here. -/
def Ctx.order (c : Ctx) (n : Nat) : Option Nat := match c.progIds.get n 0 with
  | 0 => none
  | x + 1 => some x

/-- Relaunch the operation of progress word n at its recorded row and invalidate the word. A load whose
plane has another owner starts again at row 0 (R230). Log entry 77. A valid word that names no operation is only cleared:
DESIGN CHOICE (log entry 57). -/
def relaunch (s : State) (core slot n seq : Nat) : State :=
  let c := s.ctx core slot
  let s' := s.setCtx core slot { c with a := c.a.progClear n }
  match progOp c slot n seq with
  | none => s'
  | some o =>
    let p := (s.core core).plane o.cap.plane
    let mine := p.owner == some slot
    let o := match o.ins with
      | .mma .. => { o with cap := { o.cap with pk := p.kk, pn := p.nn, pfmt := p.fmt, pblk := p.blk } }
      | .mloadw .. | .mloadwt .. => if mine then o else { o with rows := 0 }
      | .mstat .. => { o with cap := { o.cap with plane := c.a.role % 2, recs := planeRecs o.ins (s.core core) } }
      | _ => o
    launch s' core { o with ord := c.order n }

/-- The first n progress words that stand valid, in ascending order. -/
def validWords (a : Arch) : List Nat := (List.range 8).filter a.progValid

/-! ## Taking a trap (R50, R184, R346) -/

/-- The number that no operation bears: of a check at issue. -/
def noId : Nat := 2 ^ 64

/-- A trap of a context in user mode is due: a pending fault, or a yield (R41, R57). -/
def trapDue (c : Ctx) : Bool :=
  !c.sup && c.wait != .stopped && (match c.st with
    | .ready | .waiting => !c.faults.isEmpty || c.ypend
    | .ending => !c.faults.isEmpty
    | _ => false)

/-- A fault's number in the issue order. -/
def PendFault.order (f : PendFault) : Nat := f.ord.getD f.id

/-- The pending fault whose instruction issued earliest (R346). -/
def earliest (l : List PendFault) : Option PendFault :=
  l.foldl (fun b f => match b with
    | none => some f
    | some g => if f.order < g.order then some f else b) none

/-- R50 step 3: every inbound operation of the context stops at its row boundary. -/
def freeze (s : State) (core slot : Nat) : State :=
  s.updCore core (fun k => { k with ops := k.ops.map (fun o => if o.slot == slot && o.inb then { o with held := true } else o) })

/-- Landing counts fall without issues: while the context waits on the tag of a `next`, and in Ending (R263). -/
def Ctx.claimsRun (c : Ctx) : Bool :=
  c.st == .ending || (c.st == .waiting && (match c.wait with
    | .claim _ => true
    | _ => false))

/-- `n` core cycles pass for the landing counts of a context in such a wait (R263). -/
def Ctx.cyclesPass (c : Ctx) (n : Nat) : Ctx :=
  if c.claimsRun then { c with a := { c.a with claims := c.a.claims.map (fun x => { x with left := x.left - n }) } } else c

/-- The claim that a range entry gives, and the entry after it (R45). -/
def claimOf (f e g : Nat) : Nat × Nat := (f, min (f + g) e)

/-- The same claim in flight, whatever has happened to it since its issue. -/
def Claim.is (z x : Claim) : Bool := z.valid && !z.served && z.seq == x.seq && z.h == x.h

/-- A context's oldest claim that awaits the dispatcher. -/
def Ctx.unserved (c : Ctx) : Option Claim := c.a.claims.find? (fun x => x.valid && !x.served)

/-- The contexts whose claims await the dispatcher. -/
def claimants (s : State) : List (Nat × Nat) :=
  s.cores.flatMap (fun e => (e.2.resident.filter (fun i => (e.2.slot i).unserved.isSome)).map (fun i => (e.1, i)))

/-- No claim of the same team was issued before the oldest one of this context (R46). -/
def claimTurn (s : State) (p : Nat × Nat) : Bool :=
  !(claimants s).any (fun q =>
    (s.ctx q.1 q.2).team == (s.ctx p.1 p.2).team &&
    (match (s.ctx q.1 q.2).unserved, (s.ctx p.1 p.2).unserved with
     | some y, some x => decide (y.ord < x.ord)
     | _, _ => false))

/-- The dispatcher serves a context's oldest unserved claim (R45, R46): from its team's range entry, or, after
a rollback, as the first time (R272). A mark's shadow set that holds the claim holds it served. -/
def serveClaim (s : State) (core slot : Nat) : State :=
  let c := s.ctx core slot
  match c.unserved with
  | none => s
  | some x =>
    let give (s : State) (lo hi : Nat) (play : List (Nat × Nat)) : State :=
      let c := s.ctx core slot
      let note (a : Arch) : Arch := { a with claims := a.claims.map (fun z => if z.is x then { z with served := true, lo := lo, hi := hi } else z) }
      let sh (h : Shadow) : Shadow := { h with arch := note h.arch }
      s.setCtx core slot { c with a := note c.a, sh0 := c.sh0.map sh, sh1 := c.sh1.map sh, playClaims := play, recClaims := if c.fixOpen || c.win then c.recClaims ++ [(x.seq, lo, hi)] else c.recClaims }
    match c.playClaims with
    | (lo, hi) :: r => give s lo hi r
    | [] =>
      match s.team c.team with
      | none => give s 0 0 []
      | some t =>
        match t.rangeE, s.task t.task with
        | some (f, e), some k =>
          let (lo, hi) := claimOf f e k.grain
          give (s.setTeam c.team (some { t with rangeE := some (hi, e) })) lo hi []
        | _, _ => give s 0 0 []

/-- Every claim of a context is served, and before each of them the earlier ones of its team (R46); at most `n`
claims in all. -/
def serveClaims (core slot : Nat) : Nat → State → State
  | 0, s => s
  | n + 1, s =>
    if (s.ctx core slot).unserved.isNone then s
    else
      match (claimants s).find? (fun p => (s.ctx p.1 p.2).team == (s.ctx core slot).team && claimTurn s p) with
      | some p => serveClaims core slot n (serveClaim s p.1 p.2)
      | none => s

/-- R50 steps 1 and 2: claims in flight have been made, accesses in flight complete, and every result is
written. Log entry 64. -/
def settle (s : State) (core slot : Nat) : State :=
  let s := serveClaims core slot (8 * (claimants s).length) s
  let s := (s.ctx core slot).accs.foldl (fun s a => respond s core slot a) s
  s.updCtx core slot (fun c =>
    let c := c.landAll (fun _ => true)
    { c with a := c.a.landFmt })

/-- The load of an operation that stops is no longer in flight: until it runs again no `mma` finds its plane
loaded or under load (R215, R230). Log entry 35. -/
def stopLoads (l : List EOp) (k : Core) : Core :=
  l.foldl (fun k o => k.updRecord o.id (fun p => { p with loading := false })) k

/-- Stopped operations take the progress words named, one each (R51). -/
def Ctx.recordAt (c : Ctx) (l : List (EOp × Nat)) : Ctx :=
  l.foldl (fun c p =>
    { c with
      a := { c.a with prog := (progItems p.1).zipIdx.foldl (fun t q => t.set (16 * p.2 + q.2) q.1 0) c.a.prog },
      progIds := c.progIds.set p.2 (p.1.ord.getD p.1.id + 1) 0 }) c

/-- Cancelled copies leave; the others that are inbound stop, every row that they have reached written, and take
progress words in issue order, the first eight of them (R51, log entry 33). The trap entry observes them (R94). -/
def stopInbound (s : State) (core slot : Nat) : State :=
  let mine (o : EOp) : Bool := o.slot == slot && o.inb
  let s := ((s.core core).ops.filter (fun o => mine o && o.stopping)).foldl (fun s o => cancelCopy s core o) s
  let l := ((s.core core).ops.filter (fun o => mine o && !o.predOff)).take 8
  let s := l.foldl (fun s o =>
    let x := writeLeft s core o
    x.1.updCtx core slot (fun c => { c with time := max c.time x.2 })) s
  let s := s.updCore core (fun k => stopLoads l { k with ops := (k.ops.filter (fun o => !l.any (fun x => x.id == o.id))).map (fun o => if mine o then { o with held := false } else o) })
  s.updCtx core slot (fun c => ({ c with a := { c.a with prog := [] }, progIds := [] }).recordAt l.zipIdx)

/-- A context that waits in a bundle which has issued goes back before it (R57); the token of its wait is saved (R273), and
the tag of its `deqm` is free again, since that bundle issues anew (log entry 22). -/
def Ctx.unwait (c : Ctx) : Ctx :=
  let back (c : Ctx) : Ctx := { c with a := { c.a with pc := c.waitPc, reps := c.waitReps, lv := c.waitLv } }
  match c.st, c.wait with
  | .waiting, .barrier n tok =>
    let c := back c
    { c with a := { c.a with aw := some (c.waitPc, n, tok) } }
  | .waiting, .queue _ _ _ tag => (back c).freeTag tag
  | _, _ => c

/-- What a trap reports. -/
structure Report where
  code : Nat
  async : Bool
  slot : Nat
  k : Nat
  tval : Word
  /-- The failing slot word, or none for the header. -/
  tinst : Option Nat
  deriving DecidableEq, Repr

/-- sr.cause (R176). Log entry 47. -/
def causeWord (r : Report) (rep : Nat) : Word :=
  BitVec.ofNat 64 (r.code % 128 + oneIf r.async * 2 ^ 7 + r.slot % 8 * 2 ^ 8 + rep % 256 * 2 ^ 11 + r.k % 2 ^ 32 * 2 ^ 19)

/-- Enter supervisor mode at a word of the partition's supervisor code (R182, R327, R365): the bank is
loaded, and supervisor mode has its own empty loop levels and remembered operations. -/
def enterSup (s : State) (core slot : Nat) (pc : Nat) : State :=
  let c := s.ctx core slot
  let p := s.part c.part
  s.setCtx core slot { c with st := .supervisor, wait := .none, sup := true, spc := pc, sreps := 0, slv := [], srem := [], bankK := BitVec.ofNat 128 (p.savecap0.toNat + p.savecap1.toNat * 2 ^ 64), bankS := [(1, BitVec.ofNat 64 c.tidx)].filter (fun e => e.2 != 0), supOid := fld p.supcfg 0 24, vec := fld p.supcfg 24 24, markDue := false, held := 0 }

/-- The partition has a supervisor code object (R327). -/
def hasSup (s : State) (p : Nat) : Bool :=
  let oid := fld (s.part p).supcfg 0 24
  oid != 0 && (s.objOf p oid).isSome

/-- Write the trap registers and vector (R184 steps 4 to 6), or fail the team where the partition has no
supervisor code (R327). Log entry 85. -/
def deliver (s : State) (core slot : Nat) (r : Report) : State :=
  let c := (s.ctx core slot).unwait
  let s := s.setCtx core slot c
  if hasSup s c.part = false then supFault s core slot r.code c.a.pc r.tval
  else
    let rep := userRep s c
    let s := s.setCtx core slot { c with cause := causeWord r rep, epc := BitVec.ofNat 64 c.a.pc, tval := r.tval, tinst := BitVec.ofNat 64 (r.tinst.getD c.a.pc) }
    enterSup s core slot (fld (s.part c.part).supcfg 24 24)

/-- The entry proper: R50 steps 1 to 3, progress words, and one trap by R346. A check at issue is not
kept when another cause goes first: the bundle is judged again. -/
def vector (s : State) (core slot : Nat) : State :=
  let s := stopInbound (settle s core slot) core slot
  let c := s.ctx core slot
  let met := c.faults.filter (fun f => decide (f.id < noId))
  match (match earliest met with
    | some f => some f
    | none => if c.ypend then none else earliest c.faults) with
  | some f =>
    let c := { c with faults := met.filter (fun g => g.id != f.id) }
    let c := if f.tag = 0 then c else c.doneTag f.tag f.seq
    deliver (s.setCtx core slot c) core slot { code := f.code, async := f.async, slot := f.slot, k := f.k, tval := f.tval, tinst := some f.tinst }
  | none =>
    let c := { c with faults := met, ypend := false }
    deliver (s.setCtx core slot c) core slot { code := 0x78, async := true, slot := 7, k := 0, tval := 0, tinst := none }

/-- A trap entry goes as far as it can: the open region closes as at a mark and its window is waited out
(R50 step 4), and so is a PCIe completion of an access in flight; then the context vectors. Log entry 74. -/
def enterTrap (s : State) (core slot : Nat) : State :=
  let c := s.ctx core slot
  if trapDue c = false then s
  else if c.fixOpen then
    if c.win then s else (freeze s core slot).updCtx core slot Ctx.closeRegion
  else if c.win || c.accs.any (·.pcie) then s
  else vector s core slot

/-- A check at issue fails, or `trap` acts, in user mode: the fault is pending and its entry begins
(R184). In supervisor mode it stops the context (R187, R345). -/
def raise (s : State) (core slot : Nat) (f : PendFault) : State :=
  let c := s.ctx core slot
  if c.sup then supFault s core slot f.code c.spc f.tval
  else enterTrap (s.setCtx core slot { c with faults := c.faults ++ [f] }) core slot

/-- Faults met by operations issued in supervisor mode, while in it, stop the context (R345). -/
def supFaults (s : State) (core slot : Nat) : State :=
  let c := s.ctx core slot
  if c.sup then
    match earliest (c.faults.filter (·.sup)) with
    | some f => supFault s core slot f.code c.spc f.tval
    | none => s
  else s

/-! ## Return from a trap (R53, R56, R67, R186, R187, R230, R253) -/

/-- A capability that eret and cp.res accept (R67). -/
def capValid (s : State) (part : Nat) (k : BitVec 128) : Bool :=
  capOid k == 0 || isSpad (capOid k) || (s.objOf part (capOid k)).isSome

/-- Items of the tiles and accumulators that R53 refuses, in order. -/
def tileRefused (s : State) (core slot : Nat) : Option Nat :=
  let c := s.ctx core slot
  let ops := (s.core core).ops.filter (fun o => o.slot == slot && !o.predOff)
  let words := (validWords c.a).filterMap (fun n => progOp c slot n 0)
  let fills (t : Nat) : Bool := (words ++ ops).any (fun o => o.written.contains t)
  let drains (t : Nat) : Bool := ops.any (fun o => match o.outSource with
    | some (u, _) => u == t && !o.srcDone
    | none => false)
  (List.range 72).findSome? (fun t =>
    let v := c.a.tstate t
    if (v = 1 ∧ fills t = false) ∨ (v = 3 ∧ drains t = false) then some (if t < 64 then 2 * t else 0x0C0 + (t - 64))
    else none)

/-- A valid progress word below `n` names a load of a plane, which the same `eret` starts again before word `n`. -/
def loadStopped (c : Ctx) (slot plane n : Nat) : Bool :=
  (validWords c.a).any (fun m => decide (m < n) && (progOp c slot m 0).any (fun o => isLoad o.ins && o.cap.plane == plane))

/-- The plane of a relaunched `mma` is usable: owned by the slot, loaded or under load (R230). Log entry 35. -/
def planeUsable (s : State) (core slot n : Nat) : Bool :=
  match progOp (s.ctx core slot) slot n 0 with
  | some o =>
    (match o.ins with
     | .mma .. =>
       let p := (s.core core).plane o.cap.plane
       p.owner == some slot && (p.loaded || p.loading || loadStopped (s.ctx core slot) slot o.cap.plane n)
     | _ => true)
  | none => true

/-- The pattern entry of a relaunched patterned copy is valid (R253). -/
def patUsable (c : Ctx) (slot n : Nat) : Bool :=
  match progOp c slot n 0 with
  | some o => !(o.copy && fld (c.a.item n 12) 51 1 == 1 && o.cap.pat.isNone)
  | none => true

/-- The item of the first thing that `eret` refuses (R186, R348). Log entry 57. -/
def eretRefused (s : State) (core slot : Nat) : Option Nat :=
  let c := s.ctx core slot
  match (List.range 16).find? (fun n => !capValid s c.part (c.a.k.get n 0)) with
  | some n => some (0x100 + 2 * n)
  | none =>
    match tileRefused s core slot with
    | some t => some t
    | none =>
      match (validWords c.a).find? (fun n => !planeUsable s core slot n) with
      | some n => some (0x200 + 16 * n)
      | none => ((validWords c.a).find? (fun n => !patUsable c slot n)).map (fun n => 0x200 + 16 * n)

/-- ERET_STATE: refused in place (R187). -/
def refuse (s : State) (core slot sl item : Nat) : State :=
  s.updCtx core slot (fun c =>
    { c with cause := BitVec.ofNat 64 (0x73 + sl * 2 ^ 8), tval := BitVec.ofNat 64 item })

/-- The return (R186 steps 2 and 3): user mode at sr.epc, frozen and supervisor-made format writes go on in
user issues, the progress words' operations run again in ascending order, and a region opens. -/
def returnUser (s : State) (core slot seq : Nat) : State :=
  let c := s.ctx core slot
  let a := { c.a with pc := fld c.epc 0 24, pend := c.a.pend.map (fun p => { p with sup := false }) }
  let c := { c with sup := false, st := .ready, wait := .none, a := a, slv := [], srem := [], sreps := 0 }
  let s := (validWords a).foldl (fun s n => relaunch s core slot n seq) (s.setCtx core slot c)
  s.updCtx core slot Ctx.openRegion

/-- `eret` at the end of its bundle, made by own issue `seq`: refused in place, with issue going on at
`next`, or the return. -/
def returnFromTrap (s : State) (core slot seq : Nat) : State :=
  match eretRefused s core slot with
  | some item => refuse s core slot 0 item
  | none => returnUser s core slot seq

end Sys2Proof.Machine
end

