-- ==== Sys2Proof/Machine/Tasks.lean ====
section
/-!
DEFINITION. Sys2Proof/Machine/Tasks.lean: tasks: descriptors (R277 to R279), submission queues (R274,
R275), completion entries (R276), and a task's end (R39, R280, R281, R357).
-/
namespace Sys2Proof.Machine

/-! ## The command processor's own reads and writes -/

/-- `n` bytes at `o` of a partition's object as the command processor reads them at the home (R377); none
where the page is not in device memory. Bytes lie within one page. Own holders give the words up; a word that fails
its check gives no data and is logged (R351, R352, R387). Log entry 58. -/
def cpRead (s : State) (p oid o n : Nat) : State × Option Nat :=
  match translate s p oid o n with
  | .ok (.dev d pa) =>
    let s := recallWords (combineFor s d pa n) d (span (pa / 32) ((pa + n + 31) / 32 - pa / 32))
    let s := l2Host s d pa n false
    if hasBad (s.die d).bad pa n then (logHomeBad s d pa n, none) else (s, some (ofBytes (s.readDev d pa n)))
  | _ => (s, none)

/-- A write by the command processor: at the home, at the partition time; one that covers a failing word in part does
not perform, and is logged (R387). -/
def cpWrite (s : State) (p oid o : Nat) (b : List Byte) : State :=
  match translate s p oid o b.length with
  | .ok (.dev d pa) =>
    let s := combineFor s d pa b.length
    let s := (homeWrites s d (span (pa / 32) ((pa + b.length + 31) / 32 - pa / 32)) (s.part p).ptime).1
    if partBad (s.die d).bad pa b.length then logHomeBad s d pa b.length
    else (l2Host s d pa b.length true).writeDev d pa b
  | _ => s

/-! ## Descriptors (R277 to R279) -/

/-- A field of a task descriptor held as a number: byte `b`, bit `lo`, `len` bits. -/
def dfld (d b lo len : Nat) : Nat := bits d (8 * b + lo) len

def dA (d : Nat) : Nat := dfld d 0 0 3
def dB (d : Nat) : Nat := dfld d 0 3 3
def dNvar (d : Nat) : Nat := dfld d 0 12 2 + 1
def dNarg (d : Nat) : Nat := dfld d 0 14 4
def dNsucc (d : Nat) : Nat := dfld d 0 18 4
def dRng (d : Nat) : Bool := dfld d 0 7 1 == 1
def dSel (d j : Nat) : Nat := dfld d (128 + 4 * j) 0 32

/-- Reserved fields are zero, and so are the entries beyond the counts. -/
def descReserved (d : Nat) : Bool :=
  dfld d 0 46 18 == 0 && (dRng d || dfld d 8 0 64 == 0) && dfld d 16 24 40 == 0 && dfld d 224 0 256 == 0 &&
  (List.range 4).all (fun v => dfld d (32 + 8 * v) 8 56 == 0 && (decide (v < dNvar d) || dfld d (32 + 8 * v) 0 64 == 0)) &&
  (List.range 8).all (fun i => decide (i < dNarg d) || dfld d (64 + 8 * i) 0 64 == 0) &&
  (List.range 8).all (fun m => decide (m < dNsucc d) || dfld d (192 + 4 * m) 0 32 == 0) &&
  (List.range 16).all (fun j => bits (dSel d j) 13 19 == 0)

/-- A literal capability is accepted (R278). -/
def literalOk (s : State) (p : Nat) (k : BitVec 128) : Bool :=
  fld k 29 3 == 0 && decide (capLower k ≤ capUpper k) &&
  (isSpad (capOid k) ||
    (match s.objOf p (capOid k) with
     | some o => decide (capUpper k ≤ o.len)
     | none => false))

/-- k j of a task: its source with the rights ANDed with MASK, or the null capability (R278). -/
def selCap (d j : Nat) (src : Nat → BitVec 128) : BitVec 128 :=
  let sel := dSel d j
  if bits sel 4 1 = 1 then
    let k := src (bits sel 0 4)
    setFld k 24 8 (capRights k &&& bits sel 5 8)
  else 0

def taskCaps (d : Nat) (src : Nat → BitVec 128) : Tab (BitVec 128) :=
  (List.range 16).foldl (fun t j => t.set j (selCap d j src) 0) []

/-- A rectangle register holds a valid rectangle; its fields (R328). -/
def rectOf (w : Word) : Option (Nat × Nat × Nat × Nat) :=
  if fld w 0 1 = 1 then some (fld w 1 4, fld w 5 4, fld w 9 3, fld w 12 3) else none

/-- A partition's valid rectangles. -/
def State.rects (s : State) (p : Nat) : List (Nat × Nat × Nat × Nat) :=
  (List.range 8).filterMap (fun m => rectOf ((s.part p).prect.get m 0))

/-- A variant within the limits of R24 and R38. -/
def Variant.legal (v : Variant) : Bool :=
  decide (v.spad ≤ 0x600000) && decide (v.acc ≤ 8) && decide (v.l1 ≤ 4) && decide (v.energy ≤ 7)

/-- The variant of an object's code, within its limits. -/
def variantOf (s : State) (p oid v : Nat) : Option Variant :=
  match s.objOf p oid with
  | some ob => if ob.kind = 0 then (match ob.hdr with
      | some h => h.variants[v]?.filter Variant.legal
      | none => none) else none
  | none => none

/-- Variant v of a descriptor is acceptable. -/
def descVariant (s : State) (p d v : Nat) (caps : Tab (BitVec 128)) : Bool :=
  let capi := dfld d (32 + 8 * v) 0 4
  let k := caps.get capi 0
  bits (dSel d capi) 4 1 == 1 && capHas k rEX &&
  (variantOf s p (capOid k) (dfld d (32 + 8 * v) 4 4)).isSome

/-- The task that a handle names (R277). -/
def State.byHandle (s : State) (p h : Nat) : Option (Nat × Task) :=
  match s.task (h % 2 ^ 15) with
  | some t => if t.part = p ∧ t.gen % 2 ^ 17 = h / 2 ^ 15 % 2 ^ 17 then some (h % 2 ^ 15, t) else none
  | none => none

/-- The checks of R279 on a descriptor with its source capabilities; `lits` for a queue entry's literals. -/
def descOk (s : State) (p d : Nat) (src : Nat → BitVec 128) (lits : Bool) : Bool :=
  descReserved d && decide (dA d ≤ 4) && decide (dB d ≤ 4) && decide (dNarg d ≤ 8) && decide (dNsucc d ≤ 8) &&
  (!dRng d || decide (dfld d 8 0 32 ≤ dfld d 12 0 32)) &&
  (!lits || (List.range 16).all (fun j => bits (dSel d j) 4 1 == 0 || literalOk s p (src (bits (dSel d j) 0 4)))) &&
  (List.range (dNvar d)).all (fun v => descVariant s p d v (taskCaps d src)) &&
  (s.rects p).any (fun r => decide (dA d ≤ r.2.2.1) && decide (dB d ≤ r.2.2.2)) &&
  (List.range (dNsucc d)).all (fun m =>
    match s.byHandle p (dfld d (192 + 4 * m) 0 32) with
    | some (_, t) => t.st == .waiting
    | none => false)

/-- Tasks of a partition in the task table. -/
def State.taskCount (s : State) (p : Nat) : Nat :=
  (s.tasks.filter (fun e => match e.2 with
    | some t => t.part == p
    | none => false)).length

/-- The partition's share of the task table is full (R275, R279); a disabled partition has none (R328). -/
def shareFull (s : State) (p : Nat) : Bool := fld (s.part p).pset 0 1 == 0 || decide (fld (s.part p).pset 1 16 ≤ s.taskCount p)

/-- A free task-table index: the first from a free value on (log entry 23). -/
def freeIndex (s : State) : Nat :=
  let b := Config.pick s.fresh
  ((List.range 32768).find? (fun i => (s.task ((b + i) % 32768)).isNone)).elim 0 (fun i => (b + i) % 32768)

/-- Take a descriptor into the task table (R279, R280): its index. -/
def takeIn (s : State) (p d : Nat) (src : Nat → BitVec 128) (time : Nat) : State × Nat :=
  let i := freeIndex s
  let caps := taskCaps d src
  let gen := s.gens.get i 0 + 1
  let dep := dfld d 0 22 16
  let vars := (List.range (dNvar d)).map (fun v => (capOid (caps.get (dfld d (32 + 8 * v) 0 4) 0), dfld d (32 + 8 * v) 4 4))
  let t : Task := { gen := gen, part := p, a := dA d, b := dB d, pin := dfld d 0 6 1 == 1, rng := dRng d, prio := dfld d 0 8 4, dep := dep, home := if dfld d 0 40 1 = 1 then some (dfld d 0 38 2) else none, cq := dfld d 0 41 3, nocq := dfld d 0 44 1 == 1, lo := dfld d 8 0 32, hi := dfld d 12 0 32, grain := dfld d 16 0 24 + 1, tag := BitVec.ofNat 64 (dfld d 24 0 64), vars := vars, args := (List.range (dNarg d)).map (fun i => BitVec.ofNat 64 (dfld d (64 + 8 * i) 0 64)), caps := caps, succ := (List.range (dNsucc d)).map (fun m => dfld d (192 + 4 * m) 0 32), st := if dep = 0 then .eligible else .waiting, eligAt := s.now, accOrd := s.accepts, pref := none, holdSince := none, holdPosted := false, enqTime := time, joules := 0, uncl := 0, cause := 0 }
  let s := s.draw.setTask i (some t)
  ({ s with gens := s.gens.set i gen 0, accepts := s.accepts + 1, passDue := s.passDue || dep == 0 }, i)

/-! ## Completion entries (R276) -/

def Part.queueOf (p : Part) (q : Nat) : Queue := p.qs.get q {}
def State.updQueue (s : State) (p q : Nat) (f : Queue → Queue) : State :=
  s.updPart p (fun x => { x with qs := x.qs.set q (f (x.queueOf q)) {} })

/-- A completion or acceptance entry without its PHASE. -/
def cqEntry (handle cause : Nat) (failed accept : Bool) (tag : Word) (joules uncl : Nat) : BitVec 256 :=
  BitVec.ofNat 256 (handle + cause % 128 * 2 ^ 32 + oneIf failed * 2 ^ 39 + oneIf accept * 2 ^ 40 + tag.toNat * 2 ^ 64 +
    joules % 2 ^ 64 * 2 ^ 128 + uncl % 2 ^ 32 * 2 ^ 192)

/-- An entry waits for its ring. -/
def queueEntry (s : State) (p q : Nat) (e : BitVec 256) (task : Option Nat) : State :=
  s.updQueue p q (fun x => { x with waiting := x.waiting ++ [(e, task)] })

/-- A completion ring that is enabled and has room (R274, R276), with the host link up (R404). -/
def cqRoom (s : State) (x : Queue) : Bool :=
  s.linkUp && ringOn x.cqcfg && decide ((x.written + 2 ^ 32 - x.cqhead % 2 ^ 32) % 2 ^ 32 < 2 ^ fld x.cqcfg 1 5)

/-! ## Submission queues (R275) -/

/-- Refuse a queue entry: a completion entry with FAILED, unless NOCQ (R279). -/
def refuseEntry (s : State) (p d : Nat) : State :=
  if dfld d 0 44 1 = 1 then s
  else queueEntry s p (dfld d 0 41 3) (cqEntry 0 0x56 true false (BitVec.ofNat 64 (dfld d 24 0 64)) 0 0) none

/-- Consume one queue entry: 4096 bits, the descriptor and then the literals. -/
def consume (s : State) (p e : Nat) : State :=
  let d := e % 2 ^ 2048
  let src (i : Nat) : BitVec 128 := BitVec.ofNat 128 (bits e (2048 + 128 * i) 128)
  if descOk s p d src true then
    let (s, i) := takeIn s p d src 0
    if dfld d 0 45 1 = 1 then
      match s.task i with
      | some t => queueEntry s p t.cq (cqEntry (s.handle i) 0 false true t.tag 0 0) (some i)
      | none => s
    else s
  else refuseEntry s p d

/-- Consume up to `n` entries from position `head`, until the share is full. -/
def consumeFrom (s : State) (p q oid ln head : Nat) : Nat → State
  | 0 => s
  | n + 1 =>
    if shareFull s p then s else
    match cpRead s p oid (512 + 512 * (head % 2 ^ ln)) 512 with
    | (s, none) => s
    | (s, some e) =>
      let s := consume s p e
      let s := cpWrite s p oid 0 (toBytes 4 (head + 1))
      consumeFrom s p q oid ln (head + 1) n

/-- A submission queue is read (R275): SQ_OVERRUN, or its entries in ring order. -/
def readQueue (s : State) (p q : Nat) : State :=
  let x := (s.part p).queueOf q
  if ringOn x.sqcfg = false ∨ x.sqoff = true ∨ fld (s.part p).pset 0 1 = 0 then s else
  let oid := fld x.sqcfg 8 24
  let ln := fld x.sqcfg 1 5
  match cpRead s p oid 0 4 with
  | (s, none) => s
  | (s, some head) =>
    match cpRead s p oid 32 4 with
    | (s, none) => s
    | (s, some tail) =>
      let n := (tail + 2 ^ 32 - head) % 2 ^ 32
      if 2 ^ ln < n then (s.updQueue p q (fun x => { x with sqoff := true })).postE p 0x79
      else consumeFrom s p q oid ln head n

/-- Every submission queue of a partition, in ascending number. -/
def readQueues (s : State) (p : Nat) : State := allParts.foldl (fun s q => readQueue s p q) s

/-! ## The end of a task (R39, R276, R280, R281, R357) -/

/-- A task-table entry becomes free; the partition's queues are read on (R275). When entries that a full share left in
the ring are taken on, the spec does not say: here, and where TAIL is applied next, but not where the host raises TTSHARE
(DESIGN CHOICE: log entry 129). -/
def freeTask (s : State) (i : Nat) : State :=
  match s.task i with
  | some t => readQueues (s.setTask i none) t.part
  | none => s

/-- One predecessor's completion reaches a successor: its count falls, and at 0 it becomes eligible. -/
def releaseSucc (s : State) (p h : Nat) : State :=
  match s.byHandle p h with
  | some (i, t) =>
    if t.st ≠ .waiting ∨ t.dep = 0 then s
    else if t.dep = 1 then { s.setTask i (some { t with dep := 0, st := .eligible, eligAt := s.now }) with passDue := true }
    else s.setTask i (some { t with dep := t.dep - 1 })
  | none => s

/-- The islands of a partition's reserved rectangle count as idle from now on at the earliest (R295). -/
def touchResv (s : State) (p : Nat) : State :=
  match (s.part p).resv with
  | some (i, some (x, y)) => (match s.task i with
    | some t => (rectCores x y t.a t.b).foldl (fun s c => s.updIsland (s.islandOf c) (fun v => { v with idleSince := s.now })) s
    | none => s)
  | _ => s

/-- A reservation of the partition for task `i` ends (R283). -/
def dropResv (s : State) (p i : Nat) : State :=
  match (s.part p).resv with
  | some (t, _) => if t = i then (touchResv s p).updPart p (fun x => { x with resv := none }) else s
  | none => s

/-- A task reaches Complete or Failed: a completion entry waits for its ring, or with NOCQ, or for a
disabled partition, the entry is freed at once (log entry 81). A range task that never had a team reports UNCLAIMED 0, on
which the spec is silent (R281; DESIGN CHOICE: log entry 130). -/
def endTask (s : State) (i : Nat) (cause : Nat) (entry : Bool) : State :=
  match s.task i with
  | none => s
  | some t =>
    let h := s.handle i
    let s := dropResv s t.part i
    let s := s.setTask i (some { t with st := if cause = 0 then .complete else .failed, cause := cause })
    let s := if cause = 0 then t.succ.foldl (fun s h => releaseSucc s t.part h) s else s
    if entry && !t.nocq then queueEntry s t.part t.cq (cqEntry h cause (cause != 0) false t.tag t.joules t.uncl) (some i)
    else freeTask s i

/-- The live teams of a task: their numbers. -/
def State.taskTeams (s : State) (i : Nat) : List Nat :=
  (s.teams.filter (fun e => match e.2 with
    | some t => t.task == i && t.st != .complete
    | none => false)).map (·.1)

/-- A task is failed as TASKKILL fails it (R357): at once while Waiting or Eligible, through its live teams
while Running. -/
def killTask (s : State) (i : Nat) (entry : Bool) : State :=
  match s.task i with
  | none => s
  | some t =>
    match t.st with
    | .waiting | .eligible => endTask s i 0x57 entry
    | .running => (s.taskTeams i).foldl (fun s m => failTeam s m 0x57) s
    | _ => s

end Sys2Proof.Machine
end

