-- ==== Sys2Proof/Machine/Ingress.lean ====
section
/-!
DEFINITION. Sys2Proof/Machine/Ingress.lean: host and peer writes on their way into the global order (R95,
R317, R387, R391): credit, host windows, timeouts, and the submission queues they ring (R275).
-/
namespace Sys2Proof.Machine

/-- A die's buffer has room for one maximum payload (R317). -/
def ingressRoom (d : Die) : Bool :=
  decide ((d.ingress.map (fun w => w.data.length)).foldl (· + ·) 0 + Config.maxPayload ≤ Config.ingressBytes)

/-- Posted writes go into their dies' buffers in order, each link waiting behind its first write that finds
no room; a write arrives when it enters the buffer (R95, R317), and over the host link only while that is up (R404). -/
def drainPosted (s : State) (blocked : List Nat) : List (Nat × Nat × Ingress) → State × List (Nat × Nat × Ingress)
  | [] => (s, [])
  | (l, d, w) :: r =>
    if blocked.contains l || !ingressRoom (s.die d) || (l == 0 && !s.linkUp) then
      let (s, kept) := drainPosted s (l :: blocked) r
      (s, (l, d, w) :: kept)
    else
      drainPosted (s.updDie d (fun x => { x with ingress := x.ingress ++ [{ w with at' := s.now }] })) blocked r

/-- A link that is down may retrain: 100 ms after it went down, or after the last time; at once where it has not trained
yet (R402). Log entry 110. -/
def Epl.mayTrain (x : Epl) (now : Nat) : Bool := x.tried == 0 || decide (x.tried + 100000000 ≤ now)

/-- The first waiting write of each link, by home die. -/
def linkHeads (seen : List Nat) : List (Nat × Nat × Ingress) → List Nat
  | [] => []
  | (l, d, _) :: r => if seen.contains l then linkHeads seen r else d :: linkHeads (l :: seen) r

/-- Writes bound for a die that wait on a link. -/
def postedTo (l : List (Nat × Nat × Ingress)) (d : Nat) : Nat := (l.filter (fun e => e.2.1 == d)).length

/-- Credit of a die begins or ends to be withheld (R317, R391); `moved` says that writes for it got in, which ends
one stretch of withholding even where the next begins at once. -/
def markCredit (s : State) (heads : List Nat) (moved : Bool) (d : Nat) : State :=
  s.updDie d (fun x =>
    match x.withheld with
    | none =>
      if heads.contains d then
        { x with withheld := some s.now, ovfPosted := x.ovfPosted && decide (s.now < x.flowing + 1000000) }
      else x
    | some _ =>
      if !heads.contains d then { x with withheld := none, flowing := s.now }
      else if moved then { x with withheld := some s.now, flowing := s.now }
      else x)

/-- Let posted writes flow as far as credit allows. -/
def flowPosted (s : State) : State :=
  let was := s.posted
  let (s, kept) := drainPosted s [] was
  let s := { s with posted := kept }
  [0, 1, 2, 3].foldl (fun s d => markCredit s (linkHeads [] kept) (decide (postedTo kept d < postedTo was d)) d) s

/-- The piece of a write that lies in word `x` enters the global order at its home at a time no lower than `t`
(R79, R88, R95). Of an uncorrectable word a write of part is dropped, logged and posted (R387). -/
def applyPiece (die t : Nat) (w : Ingress) (s : State) (x : Nat) : State × Nat :=
  let a := max w.addr (32 * x)
  let n := min (w.addr + w.data.length) (32 * x + 32) - a
  let s := recallWord s die x
  if partBad (s.die die).bad a n then
    let s := s.logErr die 0x42 false (homeStoreOf s die x) none none (32 * x)
    (s.postE w.part 0x42 (die := die) (arg := w.off + (a - w.addr)), t)
  else
    let (s, u) := homeWrite (combineFor s die a n) die x t
    ((l2Host s die a n true).writeDev die a ((w.data.drop (a - w.addr)).take n), u)

/-- One write enters the global order piece by piece, in ascending order; the largest time given (R95). -/
def applyWrite (s : State) (die t : Nat) (w : Ingress) : State × Nat :=
  (span (w.addr / 32) ((w.addr + w.data.length + 31) / 32 - w.addr / 32)).foldl
    (fun r x => let p := applyPiece die t w r.1 x; (p.1, max r.2 p.2)) (s, t)

/-- The submission queues whose TAIL words the writes cover are read, in ascending order (R275). -/
def ringTails (s : State) (die : Nat) (ws : List Ingress) : State :=
  allParts.foldl (fun s p => allParts.foldl (fun s q =>
    let x := (s.part p).queueOf q
    if ringOn x.sqcfg = false then s else
    match translate s p (fld x.sqcfg 8 24) 32 4 with
    | .ok (.dev d pa) =>
      if d = die ∧ ws.any (fun w => decide (w.addr < pa + 4) && decide (pa < w.addr + w.data.length)) then readQueue s p q
      else s
    | _ => s) s) s

/-- A host window (R95, R81): every write in the die's buffer is applied in arrival order, before the
bundle's S slot, each at a time no lower than the one before it, and the context's time becomes the largest given. -/
def hostWindow (s : State) (core slot : Nat) : State :=
  let die := dieOf core
  let ws := (s.die die).ingress
  if ws = [] then s else
  let (s, t) := ws.foldl (fun r w => applyWrite r.1 die r.2 w) (s, max (s.ctx core slot).time (s.die die).inTime)
  let s := s.updDie die (fun x => { x with ingress := [], inTime := t })
  let s := s.updCtx core slot (fun c => { c with time := t })
  flowPosted (ringTails s die ws)

/-- A write is due: its partition's TIMEOUT, as it stands, has passed since its arrival (R95). -/
def isDue (s : State) (w : Ingress) : Bool :=
  let t := fld (s.part w.part).wincfg 0 16
  t != 0 && decide (w.at' + 1000 * t ≤ s.now)

/-- When the first of the writes that wait in the dies' buffers becomes due, and its die (R95). -/
def nextDue (s : State) : Option (Nat × Nat) :=
  ([0, 1, 2, 3].flatMap (fun d => (s.die d).ingress.filterMap (fun w =>
    let t := fld (s.part w.part).wincfg 0 16
    if t = 0 then none else some (w.at' + 1000 * t, d)))).foldl (fun b x =>
      if b.any (fun y => decide (y.1 ≤ x.1)) then b else some x) none

/-- The writes up to the last that is due. -/
def duePrefix (s : State) (ws : List Ingress) : List Ingress :=
  ws.take (ws.zipIdx.foldl (fun n p => if isDue s p.1 then p.2 + 1 else n) 0)

/-- A timeout application (R78, R95): each write at a time no lower than its partition's, which rises to it, nor than
that of the write that arrived before it. -/
def applyDue (s : State) (die : Nat) (ws : List Ingress) : State :=
  let s := ws.foldl (fun s w =>
    let (s, t) := applyWrite s die (max (s.part w.part).ptime (s.die die).inTime) w
    (s.updPart w.part (fun x => { x with ptime := max x.ptime t })).updDie die (fun x => { x with inTime := t })) s
  let s := s.updDie die (fun x => { x with ingress := x.ingress.drop ws.length })
  flowPosted (ringTails s die ws)

end Sys2Proof.Machine
end

