-- ==== Sys2Proof/Machine/Pages.lean ====
section
/-!
DEFINITION. Sys2Proof/Machine/Pages.lean: page frames (R70, R328, R329), page moves (R87, R387), and the
page request ring (R376 to R380).
-/
namespace Sys2Proof.Machine

/-! ## Page frames -/

/-- 4 KiB frames in a page of a PSZ code. -/
def pageFrames (psz : Nat) : Nat := pageBytes psz / 4096

/-- Pages of an object (R378). -/
def pageCount (o : Obj) : Nat := (o.len + pageBytes o.psz - 1) / pageBytes o.psz

/-- Frames that a page table of `n` entries takes (R69). -/
def tableFrames (n : Nat) : Nat := (8 * n + 4095) / 4096

/-- A page in device memory. -/
def Page.onDevice (e : Page) : Bool := e.state == 1 || e.state == 2

/-- Frames that an object holds: its page table and its pages in device memory. -/
def framesOf (o : Obj) : Nat :=
  tableFrames (pageCount o) + (o.pages.filter (fun e => e.2.onDevice)).length * pageFrames o.psz

/-- Frames that a partition's objects hold. -/
def State.framesHeld (s : State) (p : Nat) : Nat :=
  ((s.objs.filter (fun e => e.2.part == p)).map (fun e => framesOf e.2)).foldl (· + ·) 0

/-- `n` more frames stay within the partition's MEM (R328). -/
def inShare (s : State) (p n : Nat) : Bool :=
  decide ((s.framesHeld p + n) * 4096 ≤ fld (s.part p).pmem 0 32 * 2 ^ 20)

/-- Frames f to f + n − 1 of a die of `cap` frames are free. -/
def Die.isFree (d : Die) (cap f n : Nat) : Bool :=
  decide (f + n ≤ cap) && d.frames.all (fun r => decide (r.1 + r.2 ≤ f) || decide (f + n ≤ r.1))

/-- The first of `n` contiguous free frames (R70): at a free value where that is free, else at the lowest
run boundary listed (log entry 18). -/
def findFrames (s : State) (die n : Nat) : Option Nat :=
  let d := s.die die
  let cap := s.order.dieFrames
  ((Config.frameChoice s.fresh % cap) :: 0 :: d.frames.map (fun r => r.1 + r.2)).find? (fun f => d.isFree cap f n)

def takeFrames (s : State) (die f n : Nat) : State :=
  s.draw.updDie die (fun d => { d with frames := (f, n) :: d.frames })

def freeFrames (s : State) (die f n : Nat) : State :=
  s.updDie die (fun d => { d with frames := d.frames.filter (fun r => r != (f, n)) })

/-- Device bytes [pa, pa + n) become zero, and their words pass their check. Log entry 8. -/
def wipeDev (s : State) (die pa n : Nat) : State :=
  let lo := devKey die pa
  let own (e : Nat × List Byte) : Bool := decide (wordKey die (pa / 32) ≤ e.1) && decide (e.1 < wordKey die (pa / 32) + n / 32)
  let s := { s with mem := s.mem.filter (fun e => !(decide (lo ≤ e.1) && decide (e.1 < lo + n))), l2Old := s.l2Old.filter (fun e => !own e), l1Old := s.l1Old.filter (fun e => !own e) }
  s.updDie die (fun d => { d with bad := d.bad.filter (fun w => !(decide (pa ≤ 32 * w) && decide (32 * w < pa + n))) })

/-- Change a page entry. -/
def State.setPage (s : State) (oid n : Nat) (e : Page) : State :=
  match s.obj oid with
  | some o => s.setObj oid (some { o with pages := o.pages.set n e {} })
  | none => s

/-- The entry of page n of an object. -/
def State.pageOf (s : State) (oid n : Nat) : Page :=
  match s.obj oid with
  | some o => o.pages.get n {}
  | none => {}

/-! ## Moves (R87) -/

/-- A context holds a capability to an object, in its registers, the supervisor bank or a shadow set. -/
def holdsCap (c : Ctx) (oid : Nat) : Bool :=
  let has (a : Arch) : Bool := a.k.any (fun e => capOid e.2 == oid)
  has c.a || capOid c.bankK == oid || c.sh0.any (fun h => has h.arch) || c.sh1.any (fun h => has h.arch)

/-- Teams that hold slots. -/
def State.liveTeams (s : State) : List Nat :=
  (s.teams.filter (fun e => match e.2 with
    | some t => t.st != .out && t.st != .complete
    | none => false)).map (·.1)

/-- The cores of every team that holds a capability to an object (R378). -/
def holderCores (s : State) (oid : Nat) : List Nat :=
  ((s.liveTeams.filter (fun t => (s.teamCtxs t).any (fun p => holdsCap (s.ctx p.1 p.2) oid))).flatMap s.teamCores).eraseDups

/-- No context stands on any of the cores, and no team that is going out holds anything there (R19, R54). -/
def coresFree (s : State) (l : List Nat) : Bool := l.all (fun c => (s.core c).resident.isEmpty && (s.heldOn c).isEmpty)

/-- The partials of a page are combined and its cached blocks written back and dropped (R87 steps 1 and
2), with fresh times at the partition time. -/
def settlePage (s : State) (p die frame psz : Nat) : State :=
  dropPage s die (frame * 4096) (pageBytes psz) (s.part p).ptime

/-- Move a page in device memory to frames of die `dst`; none where it has no free frames. Words found
uncorrectable stay so, and are logged (R387). -/
def movePage (s : State) (oid n dst : Nat) : Option State :=
  match s.obj oid with
  | none => none
  | some o =>
    let e := o.pages.get n {}
    let k := pageFrames o.psz
    let b := pageBytes o.psz
    match findFrames s dst k with
    | none => none
    | some f =>
      let s := takeFrames (settlePage s o.part e.die e.frame o.psz) dst f k
      let lo := devKey e.die (e.frame * 4096)
      let cells := s.mem.filter (fun c => decide (lo ≤ c.1) && decide (c.1 < lo + b))
      let bad := (s.die e.die).bad.filter (fun w => decide (e.frame * 128 ≤ w) && decide (w < e.frame * 128 + b / 32))
      let s := wipeDev (wipeDev s dst (f * 4096) b) e.die (e.frame * 4096) b
      let s := { s with mem := cells.foldl (fun (m : List Host.Cell) (c : Host.Cell) => Tab.set m (c.1 - lo + devKey dst (f * 4096)) c.2 0) s.mem }
      let moved := bad.map (fun w => w - e.frame * 128 + f * 128)
      let s := s.updDie dst (fun d => { d with bad := d.bad ++ moved })
      let s := moved.foldl (fun s w => s.logErr dst 0x42 false 4 none none (32 * w)) s
      let s := freeFrames s e.die e.frame k
      let s := freshTimes s dst (f * 4096) b (s.part o.part).ptime
      some (s.setPage oid n { state := if dst = o.home then 1 else 2, die := dst, q := false, acnt := 0, frame := f })

/-- Put a page without device frames, or its data from flash, into zeroed frames on die HOME, STATE 1;
none where it has no free frames. `bad` are the words of the data that failed their check. -/
def placePage (s : State) (oid n : Nat) (data : List Byte) (bad : List Nat) : Option State :=
  match s.obj oid with
  | none => none
  | some o =>
    let k := pageFrames o.psz
    match findFrames s o.home k with
    | none => none
    | some f =>
      let s := wipeDev (takeFrames s o.home f k) o.home (f * 4096) (pageBytes o.psz)
      let s := dropPage s o.home (f * 4096) (pageBytes o.psz) (s.part o.part).ptime
      let s := { s with mem := writeBytes s.mem (devKey o.home (f * 4096)) data }
      let s := s.updDie o.home (fun d => { d with bad := d.bad ++ bad.map (fun w => f * 128 + w) })
      some (s.setPage oid n { state := 1, die := o.home, q := false, acnt := 0, frame := f })

/-- A page in device memory goes to flash through the NVMe queues, under a free handle (R87). Words found
uncorrectable stay so there, and are logged (R387; log entry 109). -/
def pageOut (s : State) (oid n : Nat) : State :=
  match s.obj oid with
  | none => s
  | some o =>
    let e := o.pages.get n {}
    let b := pageBytes o.psz
    let h := ((s.flash.map (fun x => x.1)).foldl max 0) + 1
    let s := settlePage s o.part e.die e.frame o.psz
    let data := s.readDev e.die (e.frame * 4096) b
    let bad := (s.die e.die).bad.filter (fun w => decide (e.frame * 128 ≤ w) && decide (w < e.frame * 128 + b / 32))
    let s := bad.foldl (fun s w => s.logErr e.die 0x42 false 4 none none (32 * w)) (s.send (.nvme h data))
    let s := freeFrames (wipeDev s e.die (e.frame * 4096) b) e.die e.frame (pageFrames o.psz)
    { s.setPage oid n { state := 4, frame := h } with
      flash := Tab.set s.flash h data [], flashBad := s.flashBad.set h (bad.map (fun w => w - e.frame * 128)) [] }

/-- A handle's data leaves flash. -/
def dropFlash (s : State) (h : Nat) : State := { s with flash := s.flash.erase h, flashBad := s.flashBad.erase h }

/-- An object that the device itself reads or runs for a partition: its supervisor code, a submission queue,
the page request ring, or code of one of its tasks. -/
def deviceUses (s : State) (p oid : Nat) : Bool :=
  let x := s.part p
  fld x.supcfg 0 24 == oid || x.qs.any (fun q => fld q.2.sqcfg 8 24 == oid) || fld x.pgrq 8 24 == oid ||
  s.tasks.any (fun e => e.2.any (fun t => t.vars.any (fun v => v.1 == oid)))

/-- Pages of a partition that may go to flash: in device memory, of objects that no team holding a slot has
a capability to and that the device does not use itself (log entry 18). -/
def coldPages (s : State) (p : Nat) : List (Nat × Nat) :=
  (s.objs.filter (fun e => e.2.part == p && e.2.kind == 0 && (holderCores s e.1).isEmpty && !deviceUses s p e.1)).flatMap
    (fun e => (e.2.pages.filter (fun x => x.2.onDevice)).map (fun x => (e.1, x.1)))

/-- `k` more frames on a die, in the partition's share, are wanting. -/
def framesShort (s : State) (p die k : Nat) : Bool := !inShare s p k || (findFrames s die k).isNone

/-- Cold pages that free values name go to flash, at most `n` of them, while frames or the share are wanting (R378;
log entry 18). -/
def makeRoom (p die k : Nat) : Nat → State → State
  | 0, s => s
  | n + 1, s =>
    if framesShort s p die k then
      let cold := coldPages s p
      match cold[Config.pick s.fresh % max 1 cold.length]? with
      | some c => makeRoom p die k n (pageOut s.draw c.1 c.2)
      | none => s
    else s

/-- Bring a page in (R378): the new state and STATUS. Where frames or the share are wanting, cold pages go to flash
first. -/
def bringIn (s : State) (p oid n : Nat) (flashOk : Bool) : State × Nat :=
  match s.objOf p oid with
  | none => (s, 3)
  | some o =>
    let e := o.pages.get n {}
    if e.state = 1 ∨ e.state = 2 ∨ e.state = 3 then (s, 1)
    else if e.state = 4 ∧ flashOk = false then (s, 2)
    else
      let k := pageFrames o.psz
      let s := makeRoom p o.home k (coldPages s p).length s
      if inShare s p k = false then (s, 2)
      else
        let data := if e.state = 4 then s.flash.get e.frame [] else []
        match placePage s oid n data (if e.state = 4 then s.flashBad.get e.frame [] else []) with
        | some s => (if e.state = 4 then dropFlash s e.frame else s, 1)
        | none => (s, 2)

/-! ## The page request ring (R376 to R380) -/

/-- The ring is enabled. -/
def pgrqOn (x : Part) : Bool :=
  fld x.pgrq 0 1 == 1 && decide (4 ≤ fld x.pgrq 1 5) && decide (fld x.pgrq 1 5 ≤ 12) && !x.pgrqOff && fld x.pset 0 1 == 1

/-- Offset of entry i of a ring of 2^ln entries. -/
def pgrqAt (ln i : Nat) : Nat := 512 + 32 * (i % 2 ^ ln)

/-- Fields of an entry (R377). -/
def reqOid (e : Nat) : Nat := bits e 0 24
def reqPage (e : Nat) : Nat := bits e 32 32
def reqStatus (e : Nat) : Nat := bits e 64 3

/-- A reserved field of an entry is set. -/
def reqBad (e : Nat) : Bool := bits e 24 8 != 0 || bits e 67 61 != 0 || bits e 192 64 != 0

/-- STATUS that an entry gets at once, or none where it needs a bring-in. -/
def reqNow (s : State) (p e : Nat) : Option Nat :=
  if reqBad e then some 3
  else match s.objOf p (reqOid e) with
    | none => some 3
    | some o =>
      if pageCount o ≤ reqPage e then some 3
      else
        let v := (o.pages.get (reqPage e) {}).state
        if v = 1 ∨ v = 2 ∨ v = 3 then some 1 else none

/-- Write STATUS and TDONE of the entry at offset `o`. -/
def settleReq (s : State) (p oid o e st : Nat) : State :=
  let s := cpWrite s p oid (o + 8) [BitVec.ofNat 8 (bits e 64 8 / 8 * 8 + st)]
  cpWrite s p oid (o + 16) (toBytes 8 s.now)

/-- Request the quiesce point of a bring-in, once a page (R378). -/
def askBringIn (s : State) (p oid n : Nat) : State :=
  if s.quiesce.any (fun q => q.work == .bringIn p oid n) then s
  else { s with quiesce := s.quiesce ++ [{ cores := holderCores s oid, since := s.now, work := .bringIn p oid n }] }

/-- Settle or request each of `n` entries from position `i` up. `only` restricts it to one page, with the
STATUS that its bring-in gave. -/
def scanRing (s : State) (p oid ln : Nat) (only : Option (Nat × Nat × Nat)) (i : Nat) : Nat → State
  | 0 => s
  | n + 1 =>
    let s := match cpRead s p oid (pgrqAt ln i) 32 with
      | (s, none) => s
      | (s, some e) =>
        if reqStatus e ≠ 0 then s else
        match only with
        | some (x, g, st) =>
          if reqOid e = x ∧ reqPage e = g then settleReq s p oid (pgrqAt ln i) e (if reqBad e then 3 else st) else s
        | none =>
          match reqNow s p e with
          | some st => settleReq s p oid (pgrqAt ln i) e st
          | none => askBringIn s p (reqOid e) (reqPage e)
    scanRing s p oid ln only (i + 1) n

/-- Settled entries from position `i` up, at most n. -/
def settledRun (s : State) (p oid ln i : Nat) : Nat → Nat
  | 0 => 0
  | n + 1 =>
    match (cpRead s p oid (pgrqAt ln i) 32).2 with
    | some e => if reqStatus e ≠ 0 then settledRun s p oid ln (i + 1) n + 1 else 0
    | none => 0

/-- HEAD and the number of entries up to TAIL. -/
def ringSpan (s : State) (p oid : Nat) : State × Option (Nat × Nat) :=
  match cpRead s p oid 0 4 with
  | (s, none) => (s, none)
  | (s, some head) =>
    match cpRead s p oid 32 4 with
    | (s, none) => (s, none)
    | (s, some tail) => (s, some (head, (tail + 2 ^ 32 - head) % 2 ^ 32))

/-- The command processor reads a partition's ring from HEAD to TAIL and advances HEAD. -/
def readRing (s : State) (p : Nat) (only : Option (Nat × Nat × Nat)) : State :=
  let x := s.part p
  if pgrqOn x = false then s else
  let oid := fld x.pgrq 8 24
  let ln := fld x.pgrq 1 5
  match ringSpan s p oid with
  | (s, none) => s
  | (s, some (head, n)) =>
    if 2 ^ ln < n then (s.updPart p (fun x => { x with pgrqOff := true })).postE p 0x79
    else
      let s := scanRing s p oid ln only head n
      let k := settledRun s p oid ln head n
      if k = 0 then s else cpWrite s p oid 0 (toBytes 4 (head + k))

/-- TAIL of a partition's ring, for R380; 0 where it has none. -/
def ringTailNow (s : State) (p : Nat) : Nat :=
  let x := s.part p
  if pgrqOn x = false then 0 else
  ((cpRead s p (fld x.pgrq 8 24) 32 4).2).getD 0

/-- An entry posted before position `tail` of a partition's ring has STATUS 0 (R380). Log entry 62. -/
def ringWaits (s : State) (p tail : Nat) : Bool :=
  let x := s.part p
  if pgrqOn x = false then false else
  let oid := fld x.pgrq 8 24
  let ln := fld x.pgrq 1 5
  match ringSpan s p oid with
  | (_, none) => false
  | (s, some (head, n)) =>
    let m := (tail + 2 ^ 32 - head) % 2 ^ 32
    decide (m ≤ n) && (List.range m).any (fun j =>
      (cpRead s p oid (pgrqAt ln (head + j)) 32).2.any (fun e => reqStatus e == 0))

end Sys2Proof.Machine
end

