-- ==== Sys2Proof/Machine/TeamEnd.lean ====
section
/-!
DEFINITION. Sys2Proof/Machine/TeamEnd.lean: how slots empty: ctxout and a team that goes out (R54, R55,
R57, R78, R213, R258, R288, R378, R379).
-/
namespace Sys2Proof.Machine

/-- A plane whose owner leaves is empty (R213). -/
def Plane.leave (p : Plane) (slot : Nat) : Plane :=
  if p.owner = some slot then { p with loaded := false, loading := false, owner := none } else p

/-- A slot becomes Free: its context and operations go, and the planes it owns are empty, those too that another
context's load would give back (R213, R229). -/
def freeSlot (s : State) (core slot : Nat) : State :=
  let s := s.updCore core (fun k => { k with ops := (k.ops.filter (fun o => o.slot != slot)).map (fun o => { o with before := o.before.map (·.leave slot), cap := { o.cap with recs := o.cap.recs.map (·.leave slot) } }), pl0 := k.pl0.leave slot, pl1 := k.pl1.leave slot })
  (s.setCtx core slot {}).updIsland (s.islandOf core) (fun x => { x with idleSince := s.now })

/-- The partition time rises to a time (R78). -/
def raisePtime (s : State) (p t : Nat) : State := s.updPart p (fun x => { x with ptime := max x.ptime t })

/-- The barriers that a team has claimed, by position in the team (R258). -/
def claimedBars (s : State) (t : Nat) : List (Nat × Nat × Barrier) :=
  ((s.teamCores t).zipIdx).flatMap (fun p =>
    ((s.core p.1).bar.filter (fun b => b.2.team == some t)).map (fun b => (p.2, b.1, b.2)))

/-- The barriers of a team are reset to the values of R257. -/
def resetBars (s : State) (t : Nat) : State :=
  (s.teamCores t).foldl (fun s c => s.updCore c (fun k => { k with bar := k.bar.filter (fun b => b.2.team != some t) })) s

/-- What the dispatcher keeps of a context whose slot goes (R288). -/
def keepOf (core : Nat) (c : Ctx) (ended : Bool) : Kept :=
  { tidx := c.tidx, joule := c.joule, cwear := c.cwear, time := c.time, thr := max c.time c.thrTime, q := c.q, qres := c.qres, core := core, part := c.part, extbase := c.extbase, extent := c.extent, nacc := c.nacc, holds := true, ended := ended, playClaims := c.playClaims, playMsgs := c.playMsgs, aw := c.a.aw }

/-- Release a slot with its data kept; its extent and accumulators stay its team's until the team is out (R54). -/
def leaveSlot (s : State) (core slot : Nat) (ended : Bool) : State :=
  let s := chargeCtx s core slot
  let c := s.ctx core slot
  let s := s.updTeam c.team (fun t => { t with kept := t.kept ++ [keepOf core c ended] })
  freeSlot s core slot

/-- Nothing that the context started is outstanding: engine threads, answers, arrivals, enqt reads and
messages (R54; log entry 26). -/
def quiet (s : State) (core slot : Nat) : Bool :=
  let c := s.ctx core slot
  !(s.core core).ops.any (fun o => o.slot == slot) && c.accs.isEmpty && c.gatedItems.isEmpty &&
  !s.arrs.any (fun a => a.from' == core && a.slot == slot) && !s.enqs.any (fun e => e.core == core && e.slot == slot) &&
  !s.flights.any (fun f => f.from' == core && f.fslot == slot && f.ack.isSome)

/-- Every context of the team is out or Ended, and nothing that an Ended one gated waits for its window (R272): the Ended
ones' slots are freed with them, barriers are saved
and reset, the partition time rises, and the page request ring is read (R55, R57, R78, R258, R378). -/
def teamOut (s : State) (t : Nat) : State :=
  let left := s.teamCtxs t
  if left.any (fun p => (s.ctx p.1 p.2).st != .ended || (s.ctx p.1 p.2).win || !quiet s p.1 p.2) then s else
  let s := left.foldl (fun s p => leaveSlot s p.1 p.2 true) s
  match s.team t with
  | none => s
  | some tm =>
    match s.task tm.task with
    | none => s
    | some k =>
      let s := settleBars s t
      let bars := claimedBars s t
      let s := resetBars s t
      let tm := { tm with kept := tm.kept.map (fun k => { k with holds := false }), st := .out, outAt := s.now, bars := bars, ringTail := ringTailNow s k.part }
      let s := raisePtime (s.setTeam t (some tm)) k.part ((tm.kept.map (·.thr)).foldl max 0)
      readRing { s with passDue := true } k.part none

/-- `ctxout` completes once the context is quiet (R54): its slot is freed, the other contexts of the team are
asked to yield (R379), and the team goes out with the last. -/
def ctxoutRelease (s : State) (core slot : Nat) : State :=
  let c := s.ctx core slot
  if c.wait = .ctxout ∧ quiet s core slot then
    let s := leaveSlot s core slot false
    teamOut (yieldTeam s c.team) c.team
  else s

/-- A context that ends while its team goes out leaves with the others (R57). -/
def outWithEnded (s : State) (core slot : Nat) : State :=
  let c := s.ctx core slot
  if c.st == .ended && (s.team c.team).any (fun t => t.st == .running && !t.kept.isEmpty) then teamOut s c.team else s

/-- A running team whose contexts are all Ended is Ending (R288). -/
def noteEnding (s : State) (t : Nat) : State :=
  if (s.team t).any (fun m => m.st == .running && m.kept.isEmpty) && (s.teamCtxs t).all (fun p => (s.ctx p.1 p.2).st == .ended) then
    s.updTeam t (fun m => { m with st := .ending })
  else s

/-- After any operation of a context ends, `end` and `ctxout` may go on (R48, R54); a fault of one issued in
supervisor mode stops the context (R345). -/
def afterOp (s : State) (core slot : Nat) : State :=
  let s := if (s.ctx core slot).wait = .ctxout then supFaults s core slot else s
  let s := endingRelease s core slot
  ctxoutRelease (noteEnding (outWithEnded s core slot) (s.ctx core slot).team) core slot

end Sys2Proof.Machine
end

