-- ==== Sys2Proof/Machine/Issue.lean ====
section
/-!
DEFINITION. Sys2Proof/Machine/Issue.lean: how a bundle issues (R107 to R117, R119, R307, R358 to R361): its
words, holds and checks, the order of its slots, and its end. Each instruction states what its own slot
does as a `SlotSem`; every bundle, and every instruction alone in a bundle, issues through `attempt`.
-/
namespace Sys2Proof.Machine

/-- One slot of the bundle in hand at its issue: where it stands, its operation, word address, re-issue index
and repetition, whether its predicate holds, the own issue, its tag, the header's address and the next
bundle's. -/
structure At where
  core : Nat
  slot : Nat
  sl : Nat
  ins : Instr
  word : Nat
  waddr : Nat
  k : Nat
  rep : Nat
  on : Bool
  seq : Nat
  tag : Nat
  hdr : Nat
  nxt : Nat

/-- The context that issues. -/
def At.ctx (a : At) (s : State) : Ctx := s.ctx a.core a.slot

/-- When a slot's result comes (R109, R112): at a fixed latency, from a tagged producer, at once, or from an
engine. -/
inductive Lat where
  | fixed (l : Nat) | prod (m : Nat) | now | engine
  deriving DecidableEq, Repr

/-- What an instruction does in its slot. -/
structure SlotSem where
  lat : Lat := .now
  /-- Steps 1 to 7 of R359, and step 8. -/
  chk : At → State → Option Trap := fun _ _ => none
  post : At → State → Option Trap := fun _ _ => none
  /-- A hold of its own; the tiles it names, each with whether it writes it (R192). -/
  hold : At → State → Bool := fun _ _ => false
  tiles : At → State → List (Nat × Bool) := fun _ _ => []
  /-- The tiles that it names for the aliases of a bundle (R239, R360); whether a hold of its own counts toward a
  rotation point (R42, R265). -/
  named : At → State → List (Nat × Bool) := tiles
  counted : Bool := false
  /-- Its destination may stand in any state (tdef, R191). -/
  anyState : Bool := false
  /-- Its bundle is a restart mark (R267); its issue is a gated command in an open region (R251, R272). -/
  mark : At → State → Bool := fun _ _ => false
  gates : At → State → Bool := fun _ _ => false
  /-- It acts before the later slots of its bundle are checked (R200, R360). -/
  early : Bool := false
  eff : At → State → State := fun _ s => s
  /-- The word at which issue goes on when it transfers control (R161); what it does once the pc has moved. -/
  goes : At → State → Option Nat := fun _ _ => none
  fin : At → State → State := fun _ s => s

/-- One slot that issues: slot number, re-issue index, operation, word and its address, meaning; whether it
is explicit (R114). -/
structure Piece where
  sl : Nat
  k : Nat
  ins : Instr
  word : Nat
  waddr : Nat
  sem : SlotSem

/-- A decoded bundle: attributes, control op, header and next bundle's word address, slots that issue. -/
structure Frame where
  attr : Attr
  ctl : Option Instr
  hdr : Nat
  nxt : Nat
  pieces : List Piece

/-- A failing check of R358: cause, sr.tval, SLOT, KIDX. -/
structure BErr where
  code : Nat
  tval : Nat
  slot : Nat
  /-- The re-issue index of the failing slot (R348). -/
  k : Nat := 0
  deriving DecidableEq, Repr

/-! ## Decoding a bundle (R107, R358) -/

/-- Bit of PRESENT or STICKY for slot number j (R104). -/
def maskBit (m j : Nat) : Bool := bits m (5 - j) 1 == 1

/-- Slot words of a header. -/
def attrWords (a : Attr) : Nat := ((List.range 6).filter (maskBit a.present)).length

/-- A control transfer of R116. -/
def isTransfer (i : Instr) : Bool :=
  match i with
  | .br .. | .bp .. | .jmp .. | .call .. | .ret .. | .loop .. | .loopi .. | .trap .. | .eret .. | .endc ..
  | .ctxout .. => true
  | _ => false

/-- The slots of a bundle from slot number j on, their words from word address w on. Log entry 50. -/
def readSlots (sem : Instr → SlotSem) (word : Nat → Nat) (rem : Tab Remembered) (a : Attr) (hdr rep : Nat) :
    List Nat → Nat → Except BErr (List Piece)
  | [], _ => .ok []
  | j :: r, w =>
    if maskBit a.present j then
      match decodeSlot (slotNamed j) (word w) with
      | .error e => .error { code := e.code, tval := w, slot := j, k := if maskBit a.sticky j then rep else 0 }
      | .ok i =>
        match readSlots sem word rem a hdr rep r (w + 1) with
        | .error e => .error e
        | .ok l => .ok ({ sl := j, k := if maskBit a.sticky j then rep else 0, ins := i, word := word w, waddr := w, sem := sem i } :: l)
    else if maskBit a.sticky j then
      let x := rem.get j {}
      match decodeSlot (slotNamed j) x.word with
      | .error e => .error { code := e.code, tval := hdr, slot := j, k := x.k + 1 }
      | .ok i =>
        match readSlots sem word rem a hdr rep r w with
        | .error e => .error e
        | .ok l => .ok ({ sl := j, k := x.k + 1, ins := i, word := x.word, waddr := hdr, sem := sem i } :: l)
    else readSlots sem word rem a hdr rep r w

/-- The slots of the bundle whose header is decoded (R358, R107). Log entry 51. -/
def fetchSlots (sem : Instr → SlotSem) (core slot : Nat) (s : State) (a : Attr) (ctl : Option Instr) : Except BErr Frame :=
  let c := s.ctx core slot
  let hdr := c.pcNow
  let len := codeLen s c.part c.codeOid
  let word (w : Nat) : Nat := codeWord s c.part c.codeOid w
  let rep := repIndex c.repsNow a.rep
  if maskBit a.sticky 0 || [1, 2, 3, 4, 5].any (fun j => maskBit a.sticky j && !maskBit a.present j && !(c.remNow.get j {}).present) then
    .error { code := 5, tval := hdr, slot := 7 }
  else if attrWords a ≠ 0 ∧ len < hdr + 1 + attrWords a then .error { code := 7, tval := len, slot := 7 }
  else
    match readSlots sem word c.remNow a hdr rep [0, 1, 2, 3, 4, 5] (hdr + 1) with
    | .error e => .error e
    | .ok l =>
      if 0 < a.rep ∧ l.any (fun p => p.sl == 0 && isTransfer p.ins) then .error { code := 6, tval := hdr + 1, slot := 0 }
      else .ok { attr := a, ctl := ctl, hdr := hdr, nxt := hdr + 1 + attrWords a, pieces := l }

/-- Decode the bundle at the context's pc, in the order of R358. -/
def fetch (sem : Instr → SlotSem) (core slot : Nat) (s : State) : Except BErr Frame :=
  let c := s.ctx core slot
  if codeLen s c.part c.codeOid ≤ c.pcNow then .error { code := 7, tval := c.pcNow, slot := 7 } else
  match decodeHeader (codeWord s c.part c.codeOid c.pcNow) with
  | .error e => .error { code := e.code, tval := c.pcNow, slot := 7 }
  | .ok (a, ctl) => fetchSlots sem core slot s a ctl

/-! ## Holds (R108, R110, R111) -/

/-- The bundle is held: its next attempt comes a cycle later. -/
def holdBundle (s : State) : State := s

/-- The bundle is held by a tag wait, producer distance or tile interlock: such cycles count toward a rotation
point (R42). -/
def holdCounted (s : State) (core slot : Nat) : State := s.updCtx core slot (fun c => { c with held := c.held + 1 })

/-- The head of a slot word. -/
def headOf (i : Instr) : Head :=
  match slotParts i with
  | some (h, _, _) => h
  | none => { slot := .S, pd := 0, atag := 0, w0 := 0, w1 := 0, pneg := 0, pidx := 0 }

/-- Tags that a bundle waits on. -/
def waitsOf (f : Frame) : List Nat := (f.pieces.flatMap (fun p => [(headOf p.ins).w0, (headOf p.ins).w1])).filter (· != 0)

/-- Tags that a bundle allocates, one entry each. -/
def tagsOf (f : Frame) : List Nat := (f.pieces.map (fun p => (headOf p.ins).atag)).filter (· != 0)

/-- Those whose instances stay allocated after the issue: an untagged instruction's frees at it (R221, R256). -/
def allocsOf (f : Frame) : List Nat :=
  ((f.pieces.filter (fun p => p.sem.lat != .now)).map (fun p => (headOf p.ins).atag)).filter (· != 0)

/-- A wait on a tag writes the results that hold its instances and have arrived (R111, R112, R363). -/
def landTags (c : Ctx) (l : List Nat) : Ctx := if l = [] then c else c.landAll (fun r => l.contains r.tag)

/-- Producer distances write every fixed-latency result that they cover (R110). -/
def landPd (c : Ctx) (f : Frame) : Ctx :=
  let ds := (f.pieces.map (fun p => (headOf p.ins).pd)).filter (· != 0)
  if ds = [] then c else c.landAll (fun r => r.fixed && ds.any (fun d => decide (r.seq + d ≤ c.iss)))

/-- A slot's predicate (R105, R113). -/
def predOn (c : Ctx) (i : Instr) : Bool := c.getP (headOf i).pidx != ((headOf i).pneg == 1)

/-! ## Interlocks (R192, R216, R238) -/

/-- What an interlock says of one tile: go on, hold, or a state that nothing will change. -/
inductive Judge where
  | go | wait | bad (t : Nat)
  deriving DecidableEq, Repr

/-- Judge one tile operand: `m` for an M slot, which follows earlier M operations in engine order, and which copies out of
any tile it names and readers of its accumulators hold too (R192, R217). -/
def judgeTile (s : State) (core slot : Nat) (m : Bool) (t : Nat) (wr : Bool) : Judge :=
  let v := (s.ctx core slot).a.tstate t
  let ops := (s.core core).ops.filter (fun o => o.slot == slot && !o.predOff && !o.held)
  let seen := ops.filter (fun o => !(m && (mForm o.ins).isSome))
  let writer := seen.any (fun o => o.tiles.contains (t, true))
  let reader := seen.any (fun o => (wr || (m && (o.copy || decide (64 ≤ t)))) &&
    ((o.tiles.contains (t, false) && !(o.copy && o.srcDone)) || readsStatus o.ins t))
  let drains := ops.any (fun o => match o.outSource with
    | some (u, _) => u == t && !o.srcDone
    | none => false)
  let mine := m && ops.any (fun o => (mForm o.ins).isSome && o.tiles.contains (t, true))
  if writer || reader then .wait
  else if v = 2 ∨ (v = 1 ∧ mine) ∨ (v = 0 ∧ wr) then .go
  else if v = 3 ∧ drains then .wait
  else .bad t

/-- Judge every tile of a slot: the first hold, else the first bad state. Log entry 53. -/
def judgeAll (s : State) (core slot : Nat) (m : Bool) (l : List (Nat × Bool)) : Judge :=
  let js := l.map (fun p => judgeTile s core slot m p.1 p.2)
  if js.contains .wait then .wait else (js.find? (fun j => j != .go)).getD .go

/-! ## Checks at issue (R359, R360) -/

/-- A slot fails at issue. -/
structure Failure where
  trap : Trap
  sl : Nat
  k : Nat
  waddr : Nat

/-- A tile that a slot names together with an earlier slot of its bundle, either writing it; tile management is no such
slot (R239, R360). Log entry 63. -/
def crossAlias (before l : List (Nat × Bool)) : Option Trap :=
  match l.find? (fun p => before.any (fun q => q.1 == p.1 && (p.2 || q.2))) with
  | some p => tileTrap 0x25 p.1 true
  | none => none

/-- Check the slots in order; early effects show to the slots after them. Answers the first failure. -/
def checkSlots : List (At × SlotSem) → List (Nat × Bool) → State → Option Failure
  | [], _, _ => none
  | (a, m) :: r, before, s =>
    if a.on = false then checkSlots r before s else
    let own := if m.early then [] else m.named a s
    match firstOf [m.chk a s, crossAlias before own, m.post a s] with
    | some t => some { trap := t, sl := a.sl, k := a.k, waddr := a.waddr }
    | none => checkSlots r (before ++ own) (if m.early then m.eff a s else s)

/-! ## Engine operations at issue (R119, R149, R189, R233, R272) -/

/-- s[Y] of a copy, always a user register (R233). -/
def opYval (a : Arch) (i : Instr) : Word :=
  match copyOf i with
  | some o => a.s.get o.y 0
  | none => 0

/-- The pattern entry that a copy names (R237, R243). -/
def patEntry (i : Instr) (y : Word) : Option Nat :=
  match i with
  | .cpMm _ o => some (o.t / 16 % 8)
  | i =>
    match copyOf i with
    | some o => if o.pat = 1 then some (y.toNat % 8) else none
    | none => none

/-- The stepped memory offset of a copy, and the stepped source offset of cp.mm (R233). -/
def copyOff (a : Arch) (o : CP) (sl k : Nat) : Word :=
  a.s.get o.x 0 + sext64 o.off 14 + BitVec.ofNat 64 k * (if sl = 4 then a.stepC0 else a.stepC1)
def copySoff (a : Arch) (o : CP) (sl k : Nat) : Word :=
  a.s.get o.y 0 + BitVec.ofNat 64 k * (if sl = 4 then a.stepC0 else a.stepC1)

/-- Elements that DRAW advances by: the valid elements of the destination of an operation that rounds under
MODE 4, while that is the mode (R149). Log entry 54. -/
def drawCount (a : Arch) (i : Instr) : Nat :=
  if drawsStochastic i && fld a.rm 0 3 == 4 then
    match vForm i with
    | some (_, _, o, _) => dVRows (a.desc o.td) * dVCols (a.desc o.td)
    | none =>
      match i with
      | .mdrain _ o => dVRows (a.desc o.x) * dVCols (a.desc o.x)
      | _ => 0
  else 0

/-- What an operation captures at its issue. -/
def capture (s : State) (p : At) : Cap :=
  let a := (p.ctx s).a
  let y := opYval a p.ins
  let pl := planeOf p.ins a.role
  let r := (s.core p.core).plane pl
  let base := { capFmt a with descs := captureDescs a p.k (capTiles p.ins a y), plane := pl, recs := planeRecs p.ins (s.core p.core), pk := r.kk, pn := r.nn, pfmt := r.fmt, pblk := r.blk }
  match copyOf p.ins with
  | none => base
  | some o =>
    { base with off := copyOff a o p.sl p.k, soff := copySoff a o p.sl p.k, yval := y, xval := a.s.get o.x 0, pat := (patEntry p.ins y).bind (fun e => (p.ctx s).pats.get e none), patIdx := (patEntry p.ins y).getD 0 }

/-- The operation that a slot starts. -/
def opOf (s : State) (p : At) : EOp :=
  let c := p.ctx s
  let y := opYval c.a p.ins
  let cap := capture s p
  let d (t : Nat) : BitVec 128 := if t < 64 then cap.descs.get t 0 else accDesc
  { id := 0, slot := p.slot, ins := p.ins, word := p.word, waddr := p.waddr, sl := p.sl, inb := isInbound p.ins, copy := (copyOf p.ins).isSome, tiles := if p.on then opTiles p.ins c.a y else [], counts := if p.on then opCounts p.ins else [], rep := p.rep, k := p.k, seq := p.seq, sup := c.sup, tag := p.tag, predOff := !p.on, gated := p.on && c.fixOpen && !c.sup && isGated p.ins, rows := 0, nrows := if p.on then rowCount p.ins d cap.pat (patEntry p.ins y).isSome else 0, cap := cap, time := c.time }

/-- Start it: the engine takes it, and DRAW advances. -/
def startOp (p : At) (s : State) : State :=
  let n := drawCount (p.ctx s).a p.ins
  let s := launch s p.core (opOf s p)
  if n = 0 then s else
  s.updCtx p.core p.slot (fun c => { c with a := { c.a with draw := c.a.draw + BitVec.ofNat 32 n } })

/-- Copies in flight on a core (R232), and inbound operations of a slot (R44). -/
def copiesOn (s : State) (core : Nat) : Nat := ((s.core core).ops.filter (·.copy)).length
def inboundOf (s : State) (core slot : Nat) : Nat := ((s.core core).ops.filter (fun o => o.slot == slot && o.inb)).length

/-! ## Effects -/

/-- A predicated-off slot writes nothing and frees its tag when it would have completed (R113). -/
def offEffect (a : At) (m : SlotSem) (s : State) : State :=
  let leave (n : Nat) (fixed : Bool) : State :=
    s.updCtx a.core a.slot (fun c => c.push { dst := .nothing, val := 0, due := a.seq + n, seq := a.seq, tag := a.tag, fixed := fixed })
  match m.lat with
  | .fixed l => leave l true
  | .prod n => leave n false
  | .now => s
  | .engine => startOp a s

/-- Write a result: destination and value of a producer. -/
def produce (a : At) (m : Lat) (d : Dst) (v : BitVec 512) (s : State) : State :=
  let (n, fixed) := match m with
    | .fixed l => (l, true)
    | .prod l => (l, false)
    | _ => (1, false)
  s.updCtx a.core a.slot (fun c => c.push { dst := d, val := v, due := a.seq + n, seq := a.seq, tag := a.tag, fixed := fixed })

/-- What the slots do, in order (R108). -/
def runSlots : List (At × SlotSem) → State → State
  | [], s => s
  | (a, m) :: r, s => runSlots r (if a.on then m.eff a s else offEffect a m s)

/-! ## The end of a bundle (R115, R117) -/

/-- The active level opened last among those whose end word is `w`. -/
def lastLevel (t : Tab Level) (w : Nat) : Option Nat :=
  ([0, 1, 2, 3].filter (fun i => (t.get i {}).active && (t.get i {}).stop == w)).foldl (fun b i =>
    match b with
    | none => some i
    | some j => if (t.get j {}).opened < (t.get i {}).opened then some i else b) none

/-- The end check with its cascade: the levels, and where issue goes on, none for the next bundle. -/
def endCheck (t : Tab Level) (w : Nat) : Nat → Tab Level × Option Nat
  | 0 => (t, none)
  | n + 1 =>
    match lastLevel t w with
    | none => (t, none)
    | some i =>
      let l := t.get i {}
      if 1 < l.count then (t.set i { l with count := l.count - 1 } {}, some l.start)
      else endCheck (t.set i { l with count := 0, active := false } {}) w n

/-- The pc, repetitions and loop levels after a repetition of a bundle. -/
def advance (c : Ctx) (f : Frame) (rep : Nat) (goes : Option Nat) : Ctx :=
  if rep < f.attr.rep then c.setReps (f.attr.rep - rep)
  else
    let c := c.setReps 0
    match goes with
    | some pc => c.setPc pc
    | none =>
      let (lv, to') := endCheck c.lvNow f.hdr 4
      (c.setLv lv).setPc (to'.getD f.nxt)

/-- A mark that is due is made at once where no window runs (R307, R308). -/
def settleMark (c : Ctx) : Ctx :=
  if c.markDue && c.fixOpen && !c.win && !c.sup then c.mark else c

/-! ## One attempt to issue -/

/-- The pending write of a header control op (R119): its register in the order of items 0x170 to 0x179. -/
def ctlWrite (i : Instr) : Option (Nat × Nat) :=
  match i with
  | .fmtA _ x => some (0, x)
  | .fmtW _ x => some (1, x)
  | .fmtO _ x => some (2, x)
  | .fmtV _ x => some (3, x)
  | .fmtS _ x => some (4, x)
  | .rm _ x => some (5, x)
  | .seed _ x => some (6, x)
  | .cbsel _ x => some (7, x)
  | .stepset _ x => some (8 + x % 2, x)
  | _ => none

/-- The control op of a header makes its pending write at repetition 0 (R119). -/
def noteCtl (f : Frame) (rep : Nat) (c : Ctx) : Ctx :=
  match f.ctl.bind ctlWrite with
  | some (r, x) => if rep = 0 then { c with a := { c.a with pend := c.a.pend ++ [{ reg := r, arg := x, left := 3, sup := c.sup }] } } else c
  | none => c

/-- Every engine slot remembers its operation and its re-issue index (R114). -/
def remember (f : Frame) (c : Ctx) : Ctx :=
  f.pieces.foldl (fun c p => if p.sl = 0 then c else c.setRem (c.remNow.set p.sl { present := true, word := p.word, k := p.k } {})) c

/-- A bundle that waits on tags or names tiles observes the threads that held them (R81, R91). Log entry 55. -/
def observe (tags tiles : List Nat) (c : Ctx) : Ctx :=
  { c with time := (tags.map (fun t => c.tagTime.get t 0) ++ tiles.map (fun t => c.tileTime.get t 0)).foldl max c.time }

/-- The tiles that the slots of a bundle name. -/
def tilesNamed (l : List (At × SlotSem)) (s : State) : List Nat :=
  l.flatMap (fun x => (x.2.tiles { x.1 with on := true } s).map (·.1))

/-- What the issue of a bundle that names `tiles` does to its context before its slots act. -/
def startIssue (f : Frame) (rep : Nat) (tiles : List Nat) (c : Ctx) : Ctx :=
  remember f ((allocsOf f).foldl Ctx.allocTag (noteCtl f rep (observe (waitsOf f) tiles c).tick))

/-- The core counts the bundle; YLD ends the context's turn with its last repetition; a due mark is made (R42,
R307); a token that a yield had saved has been judged (R273). -/
def endIssue (s : State) (core slot : Nat) (f : Frame) (rep : Nat) : State :=
  let s := s.updCore core (fun k => { k with issues := k.issues + 1, cur := slot })
  s.updCtx core slot (fun c =>
    settleMark { c with last := (s.core core).issues, burst := if f.attr.yld = 1 ∧ rep = f.attr.rep then 256 else c.burst, a := if c.sup then c.a else { c.a with aw := none } })

/-- The bundle issues: host window, counts, control op, tags, remembered operations, slots in order, its end
(R95, R108, R114, R115, R119). -/
def issueNow (s : State) (core slot : Nat) (f : Frame) (rep : Nat) (l : List (At × SlotSem)) : State :=
  let s := if f.attr.hw = 1 ∧ rep = 0 then hostWindow s core slot else s
  let s := runSlots l (s.updCtx core slot (startIssue f rep (tilesNamed l s)))
  let goes := l.findSome? (fun x => if x.1.on then x.2.goes x.1 s else none)
  let s := s.updCtx core slot (fun c => advance c f rep goes)
  endIssue (l.foldl (fun s x => if x.1.on then x.2.fin x.1 s else s) s) core slot f rep

/-- A fault of the bundle at the boundary, before anything of it issues (R107, R184). -/
def failBundle (s : State) (core slot : Nat) (code : Nat) (tval : Word) (sl k waddr : Nat) : State :=
  let c := s.ctx core slot
  raise s core slot { code := code, async := false, sup := c.sup, tval := tval, tinst := waddr, slot := sl, k := k, seq := c.iss, id := noId, tag := 0 }

/-- A mark before the issue (R307, R308): none where a region opens here, a hold while a window runs. -/
def markHere (s : State) (core slot : Nat) : Option State :=
  let c := s.ctx core slot
  if c.sup || c.openSeq == c.iss then some s
  else if c.win then none
  else some (s.setCtx core slot c.mark)

/-- The slots of a frame as they stand at this issue. -/
def atSlots (s : State) (core slot rep : Nat) (f : Frame) : List (At × SlotSem) :=
  let c := s.ctx core slot
  f.pieces.map (fun p =>
    ({ core := core, slot := slot, sl := p.sl, ins := p.ins, word := p.word, waddr := p.waddr, k := p.k, rep := rep, on := predOn c p.ins, seq := c.iss, tag := (headOf p.ins).atag, hdr := f.hdr, nxt := f.nxt }, p.sem))

/-- The tile interlocks of the slots, each judged on the descriptors that the early effects of the slots before
it leave (R200, R360). An M slot that starts an operation follows earlier M operations in engine order; one that
does not waits for its tile (R226). -/
def judgeTiles (core slot : Nat) : List (At × SlotSem) → State → List ((At × SlotSem) × Judge)
  | [], _ => []
  | (a, m) :: r, s =>
    ((a, m), judgeAll s core slot (a.sl == 3 && m.lat == .engine) (m.tiles { a with on := true } s)) ::
      judgeTiles core slot r (if a.on && m.early then m.eff a s else s)

/-- What the tile interlocks and the inbound limit say of a bundle: a hold first, else the first tile state that
nothing will change (R44, R192, R359). A predicated-off slot is held and never traps (R113). -/
def interlock (s : State) (core slot : Nat) (l : List (At × SlotSem)) : Judge × Nat × Nat × Nat :=
  let js := judgeTiles core slot l s
  let inb := (l.filter (fun x => x.2.lat == .engine && isInbound x.1.ins)).length
  if js.any (fun j => j.2 == .wait) || (inb != 0 && decide (8 < inboundOf s core slot + inb)) then (.wait, 0, 0, 0)
  else
    match js.find? (fun j => j.1.1.on && !j.1.2.anyState && j.2 != .go) with
    | some j => (j.2, j.1.1.sl, j.1.1.k, j.1.1.waddr)
    | none => (.go, 0, 0, 0)

/-- The holds of R108 besides the interlocks: the slots' own, whatever their predicates
(R113), and the core's limit of copies (R232). -/
def otherHolds (s : State) (core : Nat) (l : List (At × SlotSem)) : Bool :=
  let cps := (l.filter (fun x => x.2.lat == .engine && (copyOf x.1.ins).isSome)).length
  l.any (fun x => x.2.hold x.1 s) || (cps != 0 && decide (32 < copiesOn s core + cps))

/-- The last holds, and the issue: gated commands of a region stay within 32 (R251). -/
def issueGated (s : State) (core slot : Nat) (f : Frame) (rep : Nat) (l : List (At × SlotSem)) : State :=
  let c := s.ctx core slot
  let g := (l.filter (fun x => x.1.on && (x.2.gates x.1 s || (x.2.lat == .engine && isGated x.1.ins)))).length
  if c.sup || g == 0 || decide (gatedOpen s core slot + g ≤ 32) then issueNow s core slot f rep l
  else
    match markHere s core slot with
    | none => holdBundle s
    | some s => issueNow s core slot f rep l

/-- Checks, holds and issue of a decoded bundle whose marks and tags let it go on. The cycles of an interlock, and of a
hold that counts, count toward a rotation point whatever else holds it (R42); a mark is made whatever the predicates
(R113, R267). -/
def issueChecked (s : State) (core slot : Nat) (f : Frame) (rep : Nat) : State :=
  let l := atSlots s core slot rep f
  match checkSlots l [] s with
  | some x => failBundle s core slot x.trap.code x.trap.tval x.sl x.k x.waddr
  | none =>
    match (if l.any (fun x => x.2.mark x.1 s) then markHere s core slot else some s) with
    | none => holdBundle s
    | some s =>
      match interlock s core slot l with
      | (.wait, _) => holdCounted s core slot
      | j =>
        if l.any (fun x => x.2.counted && x.2.hold x.1 s) then holdCounted s core slot
        else if otherHolds s core l then holdBundle s
        else match j with
        | (.bad t, sl, k, w) => failBundle s core slot 0x22 (BitVec.ofNat 64 t) sl k w
        | _ => issueGated s core slot f rep l

/-- A decoded bundle at its boundary: FIX, tag waits, producer distance, tag counters. Log entry 60. -/
def issueFrame (s : State) (core slot : Nat) (f : Frame) : State :=
  let rep := repIndex (s.ctx core slot).repsNow f.attr.rep
  match (if f.attr.fix = 1 ∧ rep = 0 then markHere s core slot else some s) with
  | none => holdBundle s
  | some s =>
    let tags := waitsOf f
    let s := s.updCtx core slot (fun c => landTags c tags)
    let c := s.ctx core slot
    match tags.find? (fun t => c.tagCount t != 0) with
    | some _ =>
      if !c.sup && tags.any (fun t => c.a.claims.any (fun x => x.valid && x.tag == t)) then
        match tags.find? (fun t => c.a.claims.any (fun x => x.valid && x.tag == t)) with
        | some t => s.setCtx core slot { c with st := .waiting, wait := .claim t, waitSeq := c.iss, held := 0, burst := 256 }
        | none => s
      else holdCounted s core slot
    | none =>
      let s := s.updCtx core slot (fun c => landPd c f)
      let c := s.ctx core slot
      let al := tagsOf f
      if al.any (fun t => decide (255 < c.tagCount t + (al.filter (· == t)).length)) then holdBundle s
      else issueChecked s core slot f rep

/-- A context that issues: Ready, or in supervisor mode, waiting for nothing. -/
def canIssue (c : Ctx) : Bool := (c.st == .ready || c.st == .supervisor) && c.wait == .none

/-- A fetch meets a word of code that fails its check at the home (R351, R385): logged and posted, and the trap of the
bundle that needs it is pending, once. Log entry 126. -/
def codeError (s : State) (core slot die w o : Nat) : State :=
  let c := s.ctx core slot
  if c.faults.any (fun f => f.code == 0x42 && f.slot == 7) then s else
  let s := s.uncorr die (homeStoreOf s die w) (32 * w) c.part core o
  let id := (s.core core).nextId
  (s.updCore core (fun k => { k with nextId := id + 1 })).addFault core slot { code := 0x42, async := true, sup := c.sup, tval := BitVec.ofNat 64 o, tinst := c.pcNow, slot := 7, k := 0, seq := c.iss, id := id, tag := 0 }

/-- A core fetches one 32-byte word of code, at offset `o` of an object, on a page of die `die`: from its instruction
cache, else from the word's home (R23). Log entry 115. -/
def fillCode (s : State) (core slot oid page die w o : Nat) : State :=
  let k := s.core core
  if k.icache.contains (die, w) then
    s.updCore core (fun k => { k with icache := (die, w) :: k.icache.filter (· != (die, w)) })
  else if (s.die die).bad.contains w then codeError s core slot die w o
  else
    (l2Touch s core slot oid page die (w / 16) (w % 16) (w % 16)).updCore core (fun k => { k with icache := ((die, w) :: k.icache).take 4096 })

/-- The core fetches the words of the bundle at a context's pc: the header, and the slot words that it announces.
Log entry 115. -/
def fetchCode (s : State) (core slot : Nat) : State :=
  let c := s.ctx core slot
  if canIssue c = false ∨ trapDue c = true ∨ !c.faults.isEmpty then s else
  match s.objOf c.part c.codeOid with
  | none => s
  | some ob =>
    let n := match decodeHeader (codeWord s c.part c.codeOid c.pcNow) with
      | .ok (a, _) => 1 + attrWords a
      | .error _ => 1
    let hi := min (10 * (c.pcNow + n)) ob.len
    let ps := pageBytes ob.psz
    (span (10 * c.pcNow / 32) ((hi + 31) / 32 - 10 * c.pcNow / 32)).foldl (fun s j =>
      let e := ob.pages.get (32 * j / ps) {}
      if e.state = 1 ∨ e.state = 2 then fillCode s core slot c.codeOid (32 * j / ps) e.die (128 * e.frame + 32 * j % ps / 32) (32 * j) else s) s

/-- One attempt of a context to issue its next bundle: pending traps go first (R346), then what lands at the
boundary, the first region and due marks (R307), then the bundle. -/
def attempt (s : State) (core slot : Nat) (get : State → Except BErr Frame) : State :=
  let c := s.ctx core slot
  if canIssue c = false then s
  else if c.sup && c.faults.any (·.sup) then supFaults s core slot
  else if trapDue c then enterTrap s core slot
  else
    let s := s.updCtx core slot (fun c =>
      let c := c.boundary
      if c.sup || c.fixOpen then c else c.openRegion)
    let c := s.ctx core slot
    if !c.sup && c.a.claimLate then holdBundle s
    else
      match (if c.markDue && !c.sup then (markHere s core slot).map (fun s => s.updCtx core slot (fun c => { c with markDue := false })) else some s) with
      | none => holdBundle s
      | some s =>
        match get s with
        | .error e => failBundle s core slot e.code (BitVec.ofNat 64 e.tval) e.slot e.k (if e.slot = 7 then (s.ctx core slot).pcNow else e.tval)
        | .ok f => issueFrame s core slot f

/-! ## One instruction in a bundle of its own -/

/-- The header attributes of a bundle whose only slot is that of number `sl`. -/
def soloAttr (sl : Nat) : Attr := { present := 2 ^ (5 - sl), sticky := 0, rep := 0, fix := 0, hw := 0, yld := 0 }

/-- The bundle of one slot instruction at the context's pc. -/
def soloFrame (i : Instr) (m : SlotSem) (core slot : Nat) (s : State) : Frame :=
  let pc := (s.ctx core slot).pcNow
  let sl := (headOf i).slot.num
  { attr := soloAttr sl, ctl := none, hdr := pc, nxt := pc + 2, pieces := [{ sl := sl, k := 0, ins := i, word := encode i, waddr := pc + 1, sem := m }] }

/-- A slot instruction issues alone from the context in hand. -/
def issueOne (i : Instr) (m : SlotSem) (s : State) : State :=
  attempt s s.cur.1 s.cur.2 (fun s' => .ok (soloFrame i m s.cur.1 s.cur.2 s'))

/-- A header control op issues in a header of its attributes at the pc of the context in hand, with the slots
that follow it there. -/
def issueCtl (sem : Instr → SlotSem) (i : Instr) (a : Attr) (s : State) : State :=
  attempt s s.cur.1 s.cur.2 (fun s' => fetchSlots sem s.cur.1 s.cur.2 s' a (some i))

end Sys2Proof.Machine
end

