-- ==== Sys2Proof/Machine/Access.lean ====
section
/-!
DEFINITION. Sys2Proof/Machine/Access.lean: the scalar memory instructions, range flushes and atomics (R166 to R172).
-/
namespace Sys2Proof.Machine

/-! ## Checks and holds (R166, R167) -/

/-- The offset and the capability of an SM form. -/
def smOff (o : SM) (c : Ctx) : Word := memOffset c o.x o.off
def smCap (o : SM) (c : Ctx) : BitVec 128 := c.getK o.k

/-- Steps 1 to 4 of R166 for `n` bytes with right `r`. -/
def accessErr (o : SM) (r n : Nat) (c : Ctx) : Option Trap :=
  let x := smOff o c
  if x.toNat % n ≠ 0 then some { code := 0x40, tval := x }
  else (capCheck c (smCap o c) (capHas (smCap o c) r) x n).map (fun k => { code := k, tval := x })

/-- An access at offset `x` of an object leaves the core: device memory, PCIe space, or the scratchpad of another
core (R167). -/
def leavesBy (core oid x : Nat) : Bool :=
  if oid = oidLocal then false
  else if oid = oidCluster then clusterMember core (clusterSplit x).1 != core
  else if oid = oidRemote then 16 * bits x 27 4 + bits x 23 4 != core
  else true

def leavesCore (o : SM) (p : At) (s : State) : Bool := leavesBy p.core (capOid (smCap o (p.ctx s))) (smOff o (p.ctx s)).toNat

/-- An earlier access that left the core has not passed the checks of the memory port, or of the core that holds its
bytes: a later one that `leaves` does not issue (R64, R167). An uncorrectable word or a failed PCIe request comes after
those checks (R351, R382). -/
def portBarred (leaves : Bool) (c : Ctx) : Bool := leaves && c.accs.any (fun a => a.leaves && a.barred)

def portHold (o : SM) (p : At) (s : State) : Bool := portBarred (leavesCore o p s) (p.ctx s)

/-! ## Performing an access (log entry 27) -/

/-- The answer of an access: result with its minimum latency, or fault. -/
def answer (p : At) (s : State) (d : Dst) (v : BitVec 512) (m : Nat) (x : Word) (leaves : Bool) (fault : Option Nat) :
    State :=
  let k := s.core p.core
  let c := p.ctx s
  let a : Acc := { id := k.nextId, dst := d, val := v, minLat := m, seq := p.seq, tag := p.tag, waddr := p.waddr, off := x, leaves := leaves, pcie := false, width := 0, sgn := false, fault := fault, sl := p.sl, k := p.k, sup := c.sup }
  (s.updCore p.core (fun k => { k with nextId := k.nextId + 1 })).updCtx p.core p.slot (fun c => { c with accs := c.accs ++ [a] })

/-- The access that has just been answered did not pass its port checks, the page entry's among them (R167, R385). -/
def bar (p : At) (s : State) : State :=
  s.updCtx p.core p.slot (fun c => { c with accs := c.accs.map (fun b => if b.id == (s.core p.core).nextId - 1 then { b with barred := true } else b) })

/-- An access to device bytes takes its place in the global order (R79 to R81, R84): combination, placement and
times; the context's time follows. -/
def devTouch (s : State) (core slot oid o die pa n : Nat) (wr : Bool) (ty hint : Nat) : State :=
  let s := combineFor s die pa n
  let (s, t) := request s core slot oid (pageNo s core slot oid o) die pa (s.ctx core slot).time wr ty hint
  s.updCtx core slot (fun c => { c with time := max c.time t })

/-- A word of device memory is dirty in a core's own L1 or victim buffer. -/
def dirtyHere (s : State) (core d pa : Nat) : Bool :=
  ((s.core core).l1 ++ (s.core core).victim).any (fun b => b.ty == 0 && b.has d (pa / 512) (pa / 32 % 16) && b.dirty.testBit (pa / 32 % 16))

/-- The store of a word that a core's access meets (R352): L1 where it is dirty in the core, L2, or LPDDR-6. -/
def devStore (s : State) (core d pa : Nat) : Nat :=
  if dirtyHere s core d pa then 0 else if (s.die d).badL2.contains (pa / 32) then 1 else 4

/-- Another core holds a word own that fails its check: the recall brings it to the home so (R387). -/
def otherBad (s : State) (core d pa : Nat) : Bool :=
  let h := ((s.die d).times (pa / 32)).2.2
  h != 0 && h - 1 != core && (s.core (h - 1)).l1Bad.contains (d, pa / 32)

/-- An error response to an access: logged and posted (R351, R352, R385). -/
def errorAt (s : State) (core slot : Nat) (pl : Place) (x : Word) : State :=
  let part := (s.ctx core slot).part
  match pl with
  | .sram t a => s.uncorr (dieOf t) 2 (a / 32 * 32) part core x.toNat
  | .dev d pa =>
    let s := if otherBad s core d pa then recallWord s d (pa / 32) else s
    if devStore s core d pa = 0 then s.uncorr (dieOf core) 0 (l1Addr (s.core core) (pa / 32)) part core x.toNat
    else s.uncorr d (devStore s core d pa) (pa / 32 * 32) part core x.toNat
  | .host .. => s

/-- The object or page entry of an access meets an uncorrectable word of its table (R385). -/
def tableErr (s : State) (core slot oid o : Nat) (code : Nat) : State :=
  if code ≠ 0x42 then s
  else if s.entryBad (dieOf core) oid then s.uncorr (dieOf core) 4 (32 * Config.objWord (dieOf core) oid) (s.ctx core slot).part core o
  else match s.objOf (s.ctx core slot).part oid with
  | some ob => s.uncorr ob.home 4 (32 * tableWord ob (o / pageBytes ob.psz)) (s.ctx core slot).part core o
  | none => s

/-- A core's own partial of an element of [pa, pa + n) fails its check (R385). -/
def partialBad (s : State) (core : Nat) (pl : Place) (n : Nat) : Bool :=
  match pl with
  | .dev d pa => (s.core core).part.any (fun e => e.bad && e.die == d && decide (pa < e.addr / 32 * 32 + 32) && decide (e.addr / 32 * 32 < pa + n))
  | _ => false

/-- The error response to a commutative update: logged and posted (R351, R352). -/
def partialErr (s : State) (core slot : Nat) (pl : Place) (x : Word) : State :=
  match pl with
  | .dev _ pa => s.uncorr (dieOf core) 0 (l1Addr (s.core core) (pa / 32)) (s.ctx core slot).part core x.toNat
  | _ => s

/-- PCIE_DMA_ERR is posted to the partition too (R382). -/
def dmaErr (s : State) (core slot : Nat) (x : Word) : State :=
  s.postE (s.ctx core slot).part 0x48 (island := s.islandOf core) (core := core) (die := dieOf core) (arg := x.toNat)

/-- `n` bytes at a place, within one word, fail their check when a core reads them. -/
def badAt (s : State) (core : Nat) (pl : Place) (n : Nat) : Option Nat :=
  match pl with
  | .sram t a => if hasBad (s.core t).bad a n then some 0x43 else none
  | .dev d pa =>
    if dirtyHere s core d pa then (if (s.core core).l1Bad.contains (d, pa / 32) then some 0x43 else none)
    else if hasBad (s.die d).bad pa n || otherBad s core d pa then some 0x42 else none
  | .host .. => none

/-- The word stands failing in the core's own victim buffer, which answers a request for it (R82, R385). -/
def victimBad (s : State) (core : Nat) (pl : Place) : Bool :=
  match pl with
  | .dev d pa => (s.core core).l1Bad.contains (d, pa / 32) && (s.core core).victim.any (fun b => b.has d (pa / 512) (pa / 32 % 16) && b.dirty.testBit (pa / 32 % 16))
  | _ => false

/-- A write of `n` bytes would have to read a failing word (R387). -/
def partAt (s : State) (core : Nat) (pl : Place) (n : Nat) : Option Nat :=
  match pl with
  | .sram t a => if partBad (s.core t).bad a n then some 0x43 else none
  | .dev d pa => if n = 32 then none else badAt s core (.dev d pa) n
  | .host .. => none

/-- `n` bytes at a place, as a number. -/
def State.getAt (s : State) (pl : Place) (n : Nat) : Nat :=
  match pl with
  | .sram t a => ofBytes (s.readSram t a n)
  | .dev d pa => ofBytes (s.readDev d pa n)
  | .host .. => 0

/-- Write `n` bytes at a place of scratchpad or device memory. -/
def State.putAt (s : State) (pl : Place) (n v : Nat) : State :=
  match pl with
  | .sram t a => s.writeSram t a (toBytes n v)
  | .dev d pa => s.writeDev d pa (toBytes n v)
  | .host .. => s

/-- What a load reads from a leased copy in its core's L1, if it does: its value may be an old one (R98). -/
def lookAt (s : State) (core slot : Nat) (pl : Place) (n ty : Nat) : Option Nat :=
  match pl with
  | .dev d pa => (leasedWord (combineFor s d pa n) core slot d pa (s.ctx core slot).time ty).map (fun b => ofBytes ((b.drop (pa % 32)).take n))
  | _ => none

/-- A write to device memory reaches the writer's own leased copy (R80). -/
def throughAt (s : State) (core slot : Nat) (pl : Place) : State :=
  match pl with
  | .dev d pa => writeThrough s core d pa (s.ctx core slot).time
  | _ => s

/-- An access at a place takes its place in the global order (R79 to R81, R98). -/
def touchAt (s : State) (core slot oid o : Nat) (pl : Place) (n : Nat) (wr : Bool) (ty hint : Nat) : State :=
  match pl with
  | .dev d pa => devTouch s core slot oid o d pa n wr ty hint
  | .sram t a =>
    let (s, t) := spadTouch s t a n (s.ctx core slot).time wr
    s.updCtx core slot (fun c => { c with time := max c.time t })
  | .host .. => s

/-- A load's register value (R168). -/
def loadValue (v n : Nat) (sgn : Bool) : Word := if sgn then sext64 v (8 * n) else BitVec.ofNat 64 v

/-- A load (R168, R382). -/
def doLoad (o : SM) (p : At) (s : State) : State :=
  let c := p.ctx s
  let x := smOff o c
  let oid := capOid (smCap o c)
  let n := widthBytes o.w
  let out := leavesCore o p s
  let fail (s : State) (k : Nat) : State := answer p s (c.dstS o.a) 0 12 x out (some k)
  match place s p.core p.slot oid x.toNat n with
  | .error k => bar p (fail (tableErr s p.core p.slot oid x.toNat k) k)
  | .ok (.host a peer) =>
    if s.hostDown a peer false then fail (dmaErr s p.core p.slot x) 0x48
    else
      let s := answer p (s.askHost c.part a peer n) (c.dstS o.a) 0 12 x out none
      s.updCtx p.core p.slot (fun c => { c with accs := c.accs.map (fun b => if b.id == (s.core p.core).nextId - 1 then { b with pcie := true, width := n, sgn := o.ext == 1, asked := s.now } else b) })
  | .ok pl =>
    let u := if victimBad s p.core pl then s else touchAt s p.core p.slot oid x.toNat pl n false o.ty o.hint
    match badAt u p.core pl n with
    | some k => fail (errorAt u p.core p.slot pl x) k
    | none =>
      let v := (lookAt s p.core p.slot pl n o.ty).getD (u.getAt pl n)
      answer p u (c.dstS o.a) ((loadValue v n (o.ext == 1)).setWidth 512) 12 x out none

/-- A store (R168, R319, R387, R402). -/
def doStore (o : SM) (p : At) (s : State) : State :=
  let c := p.ctx s
  let x := smOff o c
  let oid := capOid (smCap o c)
  let n := widthBytes o.w
  let out := leavesCore o p s
  let v := (c.getS o.a).toNat % 2 ^ (8 * n)
  let fail (s : State) (k : Nat) : State := answer p s .nothing 0 1 x out (some k)
  match place s p.core p.slot oid x.toNat n with
  | .error k => bar p (fail (tableErr s p.core p.slot oid x.toNat k) k)
  | .ok (.host a peer) =>
    if s.hostDown a peer true then fail (dmaErr s p.core p.slot x) 0x48
    else answer p (s.writeHost c.part a peer (toBytes n v)) .nothing 0 1 x out none
  | .ok pl =>
    match partAt s p.core pl n with
    | some k => fail (errorAt s p.core p.slot pl x) k
    | none => answer p (throughAt ((touchAt s p.core p.slot oid x.toNat pl n true o.ty o.hint).putAt pl n v) p.core p.slot pl) .nothing 0 1 x out none

/-- A prefetch (R168): dropped where a check fails or the core has no L1 (R73); it makes no access, so the context's
time stays. It has no width: its bounds are those of one byte at its offset (log entry 114). -/
def doPrefetch (o : SM) (p : At) (s : State) : State :=
  let c := p.ctx s
  let x := smOff o c
  let oid := capOid (smCap o c)
  let s := match capCheck c (smCap o c) (capHas (smCap o c) rRD) x 1, place s p.core p.slot oid x.toNat 1 with
    | none, .ok (.dev d pa) =>
      if (s.core p.core).l1size = 0 then s
      else (request s p.core p.slot oid (pageNo s p.core p.slot oid x.toNat) d pa c.time false o.ty o.hint).1
    | _, _ => s
  produce p (.prod 1) .nothing 0 s

/-- The device pages of an object that meet [x, x + n): die, first byte and bytes. -/
def rangePages (s : State) (part oid x n : Nat) : List (Nat × Nat × Nat) :=
  match s.objOf part oid with
  | none => []
  | some ob =>
    let ps := pageBytes ob.psz
    ob.pages.filterMap (fun e =>
      let lo := max x (e.1 * ps)
      let hi := min (x + n) ((e.1 + 1) * ps)
      if (e.2.state = 1 ∨ e.2.state = 2) ∧ lo < hi then some (e.2.die, e.2.frame * 4096 + lo - e.1 * ps, hi - lo) else none)

/-- A range flush (R77, R170). -/
def flushSem (o : SM) (drop : Bool) : SlotSem :=
  { lat := .prod 8,
    chk := fun p s =>
      let c := p.ctx s
      let n := (c.getS o.a).toNat
      if n = 0 then none else
      (capCheck c (smCap o c) (capHas (smCap o c) rRD || capHas (smCap o c) rWR) (smOff o c) n).map (fun k => { code := k, tval := smOff o c }),
    eff := fun p s =>
      let c := p.ctx s
      let s := (rangePages s c.part (capOid (smCap o c)) (smOff o c).toNat (c.getS o.a).toNat).foldl (fun s r => flushRange s r.1 r.2.1 r.2.2 drop) s
      let s := answer p s .nothing 0 8 (smOff o c) false none
      s.updCtx p.core p.slot (fun c => { c with accs := c.accs.map (fun b => if b.id == (s.core p.core).nextId - 1 then { b with flush := true } else b) }) }

/-! ## Atomics (R83, R171, R172) -/

/-- What an atomic does: the new value from old, v, s[A] and the bits; whether a .w result is zero-extended;
its COP as a commutative update, none for the others. -/
structure Amo where
  f : Nat → Nat → Nat → Nat → Nat
  zext : Bool := false
  float : Bool := false
  cop : Option Nat := none

/-- The CFMT that an atomic of `n` bytes updates (R172). -/
def Amo.fmt (m : Amo) (n : Nat) : Nat := if m.float then 0 else if n = 4 then 2 else 3

/-- Its minimum latency is 16 (R112). Log entry 87. -/
def doAmo (o : SM) (m : Amo) (p : At) (s : State) : State :=
  let c := p.ctx s
  let x := smOff o c
  let k := smCap o c
  let oid := capOid k
  let n := widthBytes o.w
  let out := leavesCore o p s
  let v := (c.getS o.v).toNat % 2 ^ (8 * n)
  let a := (c.getS o.a).toNat % 2 ^ (8 * n)
  let fail (s : State) (code : Nat) : State := answer p s (c.dstS o.a) 0 16 x out (some code)
  let comm := if capHas k rCM && !isSpad oid then (s.objOf c.part oid).filter (fun ob => ob.cr && decide (x.toNat + n ≤ ob.len) && !s.entryBad (dieOf p.core) oid) else none
  match comm with
  | some ob =>
    if m.cop ≠ some ob.cop ∨ m.fmt n ≠ ob.cfmt then bar p (fail s 0x30)
    else
      match place s p.core p.slot oid x.toNat n with
      | .error code => bar p (fail (tableErr s p.core p.slot oid x.toNat code) code)
      | .ok (.dev d pa) =>
        if partialBad s p.core (.dev d pa) n then fail (partialErr s p.core p.slot (.dev d pa) x) 0x43
        else
          let (u, t) := commUpdate s p.core p.slot ob oid (pageNo s p.core p.slot oid x.toNat) d pa v c.time
          answer p (u.updCtx p.core p.slot (fun c => { c with time := max c.time t })) (c.dstS o.a) 0 16 x out none
      | .ok _ => bar p (fail s 0x41)
  | none =>
    match place s p.core p.slot oid x.toNat n with
    | .error code => bar p (fail (tableErr s p.core p.slot oid x.toNat code) code)
    | .ok (.host ..) => bar p (fail s 0x41)
    | .ok pl =>
      match badAt s p.core pl n with
      | some code => fail (errorAt s p.core p.slot pl x) code
      | none =>
        let s := touchAt s p.core p.slot oid x.toNat pl n true o.ty 0
        let old := s.getAt pl n
        let r := loadValue old n (n == 4 && !m.zext)
        answer p (throughAt (s.putAt pl n (m.f old v a (8 * n) % 2 ^ (8 * n))) p.core p.slot pl) (c.dstS o.a) (r.setWidth 512) 16 x out none

/-- A fill that would evict more dirty blocks than a victim buffer in use has room for is held until an entry frees
(R82). -/
def victimHold (o : SM) (wr : Bool) (p : At) (s : State) : Bool :=
  let n := (s.core p.core).victim.length
  if n = 0 then false else
  let c := p.ctx s
  let x := (smOff o c).toNat
  match place s p.core p.slot (capOid (smCap o c)) x 1 with
  | .ok (.dev d pa) =>
    let t := s.updCore p.core (fun k => { k with victim := [] })
    decide (8 < n + ((devTouch t p.core p.slot (capOid (smCap o c)) x d pa 1 wr o.ty o.hint).core p.core).victim.length)
  | _ => false

/-- The holds of a scalar access (R82, R167). -/
def accessHold (o : SM) (wr : Bool) (p : At) (s : State) : Bool := portHold o p s || victimHold o wr p s

/-- The slot of an atomic: it needs AT (R171). -/
def amoSem (o : SM) (m : Amo) : SlotSem :=
  { lat := .prod 16, chk := fun p s => accessErr o rAT (widthBytes o.w) (p.ctx s), hold := accessHold o true, eff := doAmo o m }

/-- The smaller (`less`) or larger of two patterns of `w` bits as signed numbers. -/
def pickSigned (a b w : Nat) (less : Bool) : Nat := if decide (sNat b w < sNat a w) == less then b else a

/-- R168: a load. -/
def semLd (o : SM) : SlotSem :=
  { lat := .prod 12, chk := fun p s => accessErr o rRD (widthBytes o.w) (p.ctx s), hold := accessHold o false, eff := doLoad o }

/-- ld issues alone in its bundle (R108). -/
def execLd (h : Head) (o : SM) (s : State) : Host.Outcome State Fault Refusal :=
  .next (issueOne (.ld h o) (semLd o) s)

/-- R168: a store. -/
def semSt (o : SM) : SlotSem :=
  { lat := .prod 1, chk := fun p s => accessErr o rWR (widthBytes o.w) (p.ctx s), hold := accessHold o true, eff := doStore o }

/-- st issues alone in its bundle (R108). -/
def execSt (h : Head) (o : SM) (s : State) : Host.Outcome State Fault Refusal :=
  .next (issueOne (.st h o) (semSt o) s)

/-- R168: a prefetch. -/
def semPf (o : SM) : SlotSem :=
  { lat := .prod 1, hold := victimHold o false, eff := doPrefetch o }

/-- pf issues alone in its bundle (R108). -/
def execPf (h : Head) (o : SM) (s : State) : Host.Outcome State Fault Refusal :=
  .next (issueOne (.pf h o) (semPf o) s)

/-- R77: dirty words are written back. -/
def semCclean (o : SM) : SlotSem :=
  flushSem o false

/-- cclean issues alone in its bundle (R108). -/
def execCclean (h : Head) (o : SM) (s : State) : Host.Outcome State Fault Refusal :=
  .next (issueOne (.cclean h o) (semCclean o) s)

/-- R77: blocks are dropped, dirty words written back first. -/
def semCinval (o : SM) : SlotSem :=
  flushSem o true

/-- cinval issues alone in its bundle (R108). -/
def execCinval (h : Head) (o : SM) (s : State) : Host.Outcome State Fault Refusal :=
  .next (issueOne (.cinval h o) (semCinval o) s)

/-- R77: dirty words are written back and blocks dropped. -/
def semCflush (o : SM) : SlotSem :=
  flushSem o true

/-- cflush issues alone in its bundle (R108). -/
def execCflush (h : Head) (o : SM) (s : State) : Host.Outcome State Fault Refusal :=
  .next (issueOne (.cflush h o) (semCflush o) s)

/-- R171: the wrapped sum. -/
def semAmoAdd (o : SM) : SlotSem :=
  amoSem o { f := fun x v _ _ => x + v, cop := some 0 }

/-- amoAdd issues alone in its bundle (R108). -/
def execAmoAdd (h : Head) (o : SM) (s : State) : Host.Outcome State Fault Refusal :=
  .next (issueOne (.amoAdd h o) (semAmoAdd o) s)

/-- R171: the sum in f32, RNE. -/
def semAmoFadd (o : SM) : SlotSem :=
  amoSem o { f := fun x v _ _ => (rnd32 ((val32 (BitVec.ofNat 32 x)).add (val32 (BitVec.ofNat 32 v)))).toNat, zext := true, float := true, cop := some 0 }

/-- amoFadd issues alone in its bundle (R108). -/
def execAmoFadd (h : Head) (o : SM) (s : State) : Host.Outcome State Fault Refusal :=
  .next (issueOne (.amoFadd h o) (semAmoFadd o) s)

/-- R171: the signed minimum. -/
def semAmoMin (o : SM) : SlotSem :=
  amoSem o { f := fun x v _ w => pickSigned x v w true, cop := some 1 }

/-- amoMin issues alone in its bundle (R108). -/
def execAmoMin (h : Head) (o : SM) (s : State) : Host.Outcome State Fault Refusal :=
  .next (issueOne (.amoMin h o) (semAmoMin o) s)

/-- R171: the signed maximum. -/
def semAmoMax (o : SM) : SlotSem :=
  amoSem o { f := fun x v _ w => pickSigned x v w false, cop := some 2 }

/-- amoMax issues alone in its bundle (R108). -/
def execAmoMax (h : Head) (o : SM) (s : State) : Host.Outcome State Fault Refusal :=
  .next (issueOne (.amoMax h o) (semAmoMax o) s)

/-- R171: the unsigned minimum. -/
def semAmoMinz (o : SM) : SlotSem :=
  amoSem o { f := fun x v _ _ => min x v, zext := true }

/-- amoMinz issues alone in its bundle (R108). -/
def execAmoMinz (h : Head) (o : SM) (s : State) : Host.Outcome State Fault Refusal :=
  .next (issueOne (.amoMinz h o) (semAmoMinz o) s)

/-- R171: the unsigned maximum. -/
def semAmoMaxz (o : SM) : SlotSem :=
  amoSem o { f := fun x v _ _ => max x v, zext := true }

/-- amoMaxz issues alone in its bundle (R108). -/
def execAmoMaxz (h : Head) (o : SM) (s : State) : Host.Outcome State Fault Refusal :=
  .next (issueOne (.amoMaxz h o) (semAmoMaxz o) s)

/-- R171: bitwise and. -/
def semAmoAnd (o : SM) : SlotSem :=
  amoSem o { f := fun x v _ _ => x &&& v }

/-- amoAnd issues alone in its bundle (R108). -/
def execAmoAnd (h : Head) (o : SM) (s : State) : Host.Outcome State Fault Refusal :=
  .next (issueOne (.amoAnd h o) (semAmoAnd o) s)

/-- R171: bitwise or. -/
def semAmoOr (o : SM) : SlotSem :=
  amoSem o { f := fun x v _ _ => x ||| v }

/-- amoOr issues alone in its bundle (R108). -/
def execAmoOr (h : Head) (o : SM) (s : State) : Host.Outcome State Fault Refusal :=
  .next (issueOne (.amoOr h o) (semAmoOr o) s)

/-- R171: bitwise exclusive or. -/
def semAmoXor (o : SM) : SlotSem :=
  amoSem o { f := fun x v _ _ => x ^^^ v }

/-- amoXor issues alone in its bundle (R108). -/
def execAmoXor (h : Head) (o : SM) (s : State) : Host.Outcome State Fault Refusal :=
  .next (issueOne (.amoXor h o) (semAmoXor o) s)

/-- R171: a swap. -/
def semAmoSwap (o : SM) : SlotSem :=
  amoSem o { f := fun _ v _ _ => v }

/-- amoSwap issues alone in its bundle (R108). -/
def execAmoSwap (h : Head) (o : SM) (s : State) : Host.Outcome State Fault Refusal :=
  .next (issueOne (.amoSwap h o) (semAmoSwap o) s)

/-- R171: a compare and swap. -/
def semAmoCas (o : SM) : SlotSem :=
  amoSem o { f := fun x v a _ => if x = a then v else x }

/-- amoCas issues alone in its bundle (R108). -/
def execAmoCas (h : Head) (o : SM) (s : State) : Host.Outcome State Fault Refusal :=
  .next (issueOne (.amoCas h o) (semAmoCas o) s)

end Sys2Proof.Machine
end

