-- ==== Sys2Proof/Machine/Dispatcher.lean ====
section
/-!
DEFINITION. Sys2Proof/Machine/Dispatcher.lean: the dispatcher (R35 to R40, R45 to R49, R55, R58, R59, R282 to
R290, R295, R372, R380, R414): passes, placement, energy admission, cracking, launch, and the end of teams.
-/
namespace Sys2Proof.Machine

/-! ## Candidates and their order (R282) -/

/-- A candidate of a pass: a task, or a team of it that waits to be restored, with its keys. -/
structure Cand where
  team : Option Nat
  task : Nat
  part : Nat
  prio : Nat
  time : Nat
  ord : Nat
  deriving DecidableEq, Repr

/-- Effective priority: 1 a ms of waiting, up to the partition's ceiling; a PRIO at or above it stays. -/
def effPrio (s : State) (p prio since : Nat) : Nat :=
  let ceil := fld (s.part p).priocfg 0 4
  if ceil ≤ prio then prio else min ceil (prio + (s.now - since) / 1000000)

/-- A team that is out waits to be restored, no request of it being open (R380). -/
def canReturn (s : State) (t : Team) (p : Nat) : Bool := t.st == .out && t.failed.isNone && !ringWaits s p t.ringTail

/-- The candidates of a pass. -/
def candidates (s : State) : List Cand :=
  s.tasks.filterMap (fun e => match e.2 with
    | some t => if t.st = .eligible then
        some { team := none, task := e.1, part := t.part, prio := effPrio s t.part t.prio t.eligAt, time := t.eligAt, ord := t.accOrd }
      else none
    | none => none) ++
  s.teams.filterMap (fun e => match e.2 with
    | some m => (match s.task m.task with
      | some t => if canReturn s m t.part then
          some { team := some e.1, task := m.task, part := t.part, prio := effPrio s t.part t.prio m.outAt, time := m.outAt, ord := t.accOrd }
        else none
      | none => none)
    | none => none)

/-- `a` comes before `b` in pass order. -/
def Cand.before (a b : Cand) : Bool :=
  decide (b.prio < a.prio) || (a.prio == b.prio && (decide (a.time < b.time) || (a.time == b.time &&
    (decide (a.part < b.part) || (a.part == b.part && decide (a.ord < b.ord))))))

/-- Insert a candidate behind those that do not come after it. -/
def insertCand (c : Cand) : List Cand → List Cand
  | [] => [c]
  | d :: r => if c.before d then c :: d :: r else d :: insertCand c r

/-- Candidates in pass order. -/
def passOrder (l : List Cand) : List Cand := l.foldl (fun r c => insertCand c r) []

/-! ## Placement (R19, R22, R24, R35, R37, R58, R285, R291, R414) -/

/-- What is to be placed: task, shape, variant, and the team that returns. -/
structure Want where
  id : Nat
  task : Task
  v : Variant
  oid : Nat
  back : Option Team

/-- Variant n of a task. -/
def taskVariant (s : State) (t : Task) (n : Nat) : Option (Variant × Nat) :=
  match t.vars[n]? with
  | some (oid, x) => (variantOf s t.part oid x).map (fun v => (v, oid))
  | none => none

/-- A core with no context takes the variant's L1; another keeps its own (R58). -/
def l1Of (k : Core) (v : Variant) : Nat := if k.resident.isEmpty then v.l1 else k.l1size

/-- A variant's extent at a base, with its accumulators, fits on a core beside the contexts there (R37). -/
def fitsCore (s : State) (core : Nat) (v : Variant) (base : Nat) : Bool :=
  let k := s.core core
  let l1 := l1Of k v
  let out := s.heldOn core
  decide (k.resident.length < 4) && decide (v.l1 ≤ l1) && decide (base + v.spad ≤ (12 - l1) * 2 ^ 19) &&
  k.resident.all (fun i => decide (base + v.spad ≤ (k.slot i).extbase) || decide ((k.slot i).extbase + (k.slot i).extent ≤ base) || v.spad == 0 || (k.slot i).extent == 0) &&
  out.all (fun x => decide (base + v.spad ≤ x.extbase) || decide (x.extbase + x.extent ≤ base) || v.spad == 0 || x.extent == 0) &&
  decide ((k.resident.map (fun i => (k.slot i).nacc)).foldl (· + ·) 0 + (out.map (·.nacc)).foldl (· + ·) 0 + v.acc ≤ 8)

/-- The team's extent base on a rectangle's cores (R37). -/
def baseOn (s : State) (cores : List Nat) (v : Variant) : Option Nat :=
  ((List.range 1537).find? (fun i => cores.all (fun c => fitsCore s c v (4096 * i)))).map (4096 * ·)

/-- No hole, no drained or retired core, no core of a requested quiesce point. -/
def coreOpen (s : State) (core : Nat) : Bool :=
  !s.isHole core && decide ((s.wearOf (s.phys core)).cstate < 2) && !s.quiesce.any (fun q => q.cores.contains core)

/-- A rectangle lies within another, given as origin and exponents. -/
def rectIn (r : Nat × Nat × Nat × Nat) (x0 y0 a b : Nat) : Bool :=
  decide (r.1 ≤ x0) && decide (x0 + 2 ^ a ≤ r.1 + 2 ^ r.2.2.1) && decide (r.2.1 ≤ y0) && decide (y0 + 2 ^ b ≤ r.2.1 + 2 ^ r.2.2.2)

/-- Cores of a partition's reserved rectangle, with the reserved task (R283). -/
def reserved (s : State) (p : Nat) : Option (Nat × List Nat) :=
  match (s.part p).resv with
  | some (i, some (x, y)) => (s.task i).map (fun t => (i, rectCores x y t.a t.b))
  | _ => none

/-- A core lies in a rectangle reserved for another task. -/
def coreReserved (s : State) (i core : Nat) : Bool :=
  allParts.any (fun p => match reserved s p with
    | some (j, l) => j != i && l.contains core
    | none => false)

/-- The whole cluster of a core is in use (R22). -/
def clusterWhole (s : State) (core : Nat) : Bool := [0, 1, 2, 3].all (fun m => !s.isHole (clusterMember core m))

/-- A team uses the cluster view (R414). -/
def usesCluster (w : Want) : Bool := w.v.cview || w.task.caps.any (fun k => capOid k.2 == oidCluster)

/-- Every barrier number that a returning team saved is unclaimed on the new cores (R258). -/
def barsFree (s : State) (w : Want) (cores : List Nat) : Bool :=
  match w.back with
  | some m => m.bars.all (fun b => ((s.core (cores.getD b.1 0)).barrier b.2.1).team.isNone)
  | none => true

/-- The conditions of R285 that ignore occupancy, energy and free slots. -/
def rectStands (s : State) (w : Want) (x0 y0 : Nat) : Bool :=
  let cores := rectCores x0 y0 w.task.a w.task.b
  (s.rects w.task.part).any (fun r => rectIn r x0 y0 w.task.a w.task.b) &&
  cores.all (fun c => coreOpen s c && !coreReserved s w.id c) &&
  (!usesCluster w || cores.all (clusterWhole s)) &&
  decide (w.v.spad ≤ (12 - w.v.l1) * 2 ^ 19)

/-- A rectangle qualifies (R285); a team that a repeated rollback sent away goes to other cores (R392, log entry
118). -/
def qualifies (s : State) (w : Want) (x0 y0 : Nat) : Bool :=
  let cores := rectCores x0 y0 w.task.a w.task.b
  rectStands s w x0 y0 && barsFree s w cores && (baseOn s cores w.v).isSome &&
  (match w.back with
   | some m => if w.task.pin then m.x0 == x0 && m.y0 == y0 else cores.all (fun c => !m.fled.contains c)
   | none => true)

/-- Origins of a shape, in ascending logical index (R35). -/
def origins (a b : Nat) : List (Nat × Nat) :=
  (List.range (16 / 2 ^ b)).flatMap (fun j => (List.range (16 / 2 ^ a)).map (fun i => (2 ^ a * i, 2 ^ b * j)))

/-- Keys 1 to 3 of R285; `occ` clear leaves out key 3. -/
def rectKey (s : State) (w : Want) (occ : Bool) (o : Nat × Nat) : Nat × Nat × Nat :=
  let cores := rectCores o.1 o.2 w.task.a w.task.b
  (match w.task.home with
   | some d => oneIf (!cores.all (fun c => dieOf c == d))
   | none => 0,
   (cores.map (fun c => s.life (s.phys c))).foldl (· + ·) 0,
   if occ then (cores.map (fun c => (s.core c).resident.length)).foldl (· + ·) 0 else 0)

/-- Lexicographic order of keys. -/
def keyLess (a b : Nat × Nat × Nat) : Bool :=
  decide (a.1 < b.1) || (a.1 == b.1 && (decide (a.2.1 < b.2.1) || (a.2.1 == b.2.1 && decide (a.2.2 < b.2.2))))

/-- The first rectangle by the keys of R285 among those that `f` accepts. -/
def firstRect (s : State) (w : Want) (occ : Bool) (f : Nat × Nat → Bool) : Option (Nat × Nat) :=
  ((origins w.task.a w.task.b).filter f).foldl (fun b o =>
    match b with
    | none => some o
    | some c => if keyLess (rectKey s w occ o) (rectKey s w occ c) then some o else b) none

/-! ## Energy admission (R286) -/

/-- The islands that cores stand on. -/
def islandsOf (s : State) (cores : List Nat) : List Nat := (cores.map s.islandOf).eraseDups

/-- Requirement of a team of a class on an island, in eighths of a grain. -/
def reqOn (s : State) (p cls : Nat) (cores : List Nat) (i : Nat) : Nat :=
  min (fld (s.part p).charge (8 * cls) 8 * (cores.filter (fun c => s.islandOf c == i)).length) (32 * (s.island i).grant)

/-- The variant that R284 tries first. -/
def firstVariant (t : Task) : Nat := t.pref.getD 0

/-- RESV: what the reserved tasks but `i` require on an island. -/
def resvOn (s : State) (i isl : Nat) : Nat :=
  allParts.foldl (fun n p =>
    match reserved s p with
    | some (j, l) => if j = i then n else
        (match (s.task j).bind (fun t => taskVariant s t (firstVariant t)) with
         | some (v, _) => n + reqOn s p v.energy l isl
         | none => n)
    | none => n) 0

/-- The islands that let no team in on these cores. Log entry 111. -/
def energyShort (s : State) (w : Want) (cores : List Nat) : List Nat :=
  (islandsOf s cores).filter (fun i =>
    let x := s.island i
    !(decide (0 < x.grant) && decide (x.bal - (x.commit : Int) - (resvOn s w.id i : Int) ≥ (reqOn s w.task.part w.v.energy cores i : Int))))

/-! ## Launch (R40, R47, R55, R59, R290) -/

/-- The bytes [base, base + n) go to a context of a partition: one that another partition last wrote reads zero, any
other holds a value that its own wrote earlier (R59; log entry 8). Earlier accesses to them order nothing of it. -/
def takePages (s : State) (core base n part : Nat) : State :=
  let f := s.fresh
  s.draw.updCore core (fun k =>
    let w := k.writer.filter (fun e => decide (base ≤ e.1) && decide (e.1 < base + n))
    { k with sram := w.foldl (fun t e => Tab.set t e.1 (if e.2 = part + 1 then Config.oldByte f e.1 (Tab.get t e.1 0) else 0) 0) k.sram, bad := k.bad.filter (fun x => !w.any (fun e => e.1 / 32 == x && e.2 != part + 1)), spadT := k.spadT.filter (fun e => !(decide (base ≤ 32 * e.1) && decide (32 * e.1 < base + n))) })

/-- The split of a core without a context (R58, R59). -/
def setSplit (s : State) (core l1 : Nat) : State :=
  if (s.core core).l1size = l1 then s
  else (emptyL1 s core).updCore core (fun k => { k with l1size := l1 })

/-- What registers hold at a restore entry (log entry 29): the state of a launch, with scalars, predicates,
hand-off and step registers free. -/
def lostArch (f : Nat) : Arch :=
  { s := (List.range 63).foldl (fun (t : Tab Word) i => t.set (i + 1) (Config.lost f (i + 1)) 0) [],
    p := (Config.lost f 64).truncate 8 ||| 1,
    h := (List.range 8).foldl (fun (t : Tab Word) i => t.set i (Config.lost f (72 + i)) 0) [],
    stepC0 := Config.lost f 80, stepC1 := Config.lost f 81 }

/-- The launch state of a context (R40), its accumulators +0.0; a returning one starts at the restore entry with what the
dispatcher kept (R290). -/
def newCtx (s : State) (w : Want) (team x0 y0 base prio tidx core : Nat) : Ctx :=
  let t := w.task
  let c : Ctx := { st := .loading, x0 := x0, y0 := y0, ea := t.a, eb := t.b, tidx := tidx, part := t.part, prio := prio, extbase := base, extent := w.v.spad, nacc := w.v.acc, team := team, oid := w.oid, last := (s.core core).issues }
  match w.back with
  | none =>
    { c with a := { s := t.args.zipIdx.foldl (fun (r : Tab Word) x => r.set (x.2 + 1) x.1 0) [], k := t.caps, pc := w.v.entry }, time := max (s.part t.part).ptime t.enqTime }
  | some m =>
    match m.kept.find? (fun k => k.tidx == tidx) with
    | some k => { c with a := { lostArch s.fresh with aw := k.aw }, joule := k.joule, cwear := k.cwear, time := k.time, q := k.q, qres := k.qres, playClaims := k.playClaims, playMsgs := k.playMsgs }
    | none => c

/-- Load one context into the lowest free slot of its core. -/
def loadCtx (s : State) (w : Want) (team x0 y0 base prio : Nat) (core tidx : Nat) : State :=
  let k := s.core core
  let slot := ([0, 1, 2, 3].find? (fun i => (k.slot i).st == .free)).getD 0
  let s := if k.resident.isEmpty then setSplit s core w.v.l1 else s
  let s := takePages s core base w.v.spad w.task.part
  let s := s.updCore core (fun k => { k with accBad := k.accBad.filter (fun x => x.1 != slot) })
  (s.setCtx core slot (newCtx s w team x0 y0 base prio tidx core)).draw

/-- Saved barriers go back into the same numbers on the new cores (R258). -/
def restoreBars (s : State) (m : Team) (cores : List Nat) : State :=
  m.bars.foldl (fun s b =>
    s.updBar (cores.getD b.1 0) b.2.1 (fun _ => { b.2.2 with root := 16 * (m.y0 + b.2.2.ty0) + m.x0 + b.2.2.tx0 })) s

/-- A team is admitted: resources, balances and contexts; the team is Loading. -/
def admitTeam (s : State) (w : Want) (vn : Nat) (team : Option Nat) (x0 y0 base prio : Nat) (rng : Option (Nat × Nat)) : State :=
  let cores := rectCores x0 y0 w.task.a w.task.b
  let s := (islandsOf s cores).foldl (fun s i => s.updIsland i (fun x => { x with commit := x.commit + reqOn s w.task.part w.v.energy cores i })) s
  let n := team.getD s.nextTeam
  let m : Team := match w.back with
    | some b => { b with st := .loading, x0 := x0, y0 := y0, prio := prio, extbase := base, oid := w.oid, fled := [] }
    | none => { task := w.id, st := .loading, x0 := x0, y0 := y0, variant := vn, oid := w.oid, prio := prio, rangeE := rng, launched := s.now, outAt := 0, kept := [], bars := [], ringTail := 0, failed := none, extbase := base }
  let s := cores.zipIdx.foldl (fun s c => loadCtx s w n x0 y0 base prio c.1 c.2) s
  let s := restoreBars s m cores
  let s := { s with nextTeam := if team.isNone then s.nextTeam + 1 else s.nextTeam }
  let s := s.setTeam n (some { m with bars := [] })
  (dropResv s w.task.part w.id).updTask w.id (fun t => { t with st := .running, holdSince := none, holdPosted := false })

/-- A step to a setting begins: 0.1 µs and 0.5 µs a setting; a step down changes TRIM first (R304). Log entry 94. -/
def startStep (s : State) (i v : Nat) : State :=
  let x := s.island i
  if v = x.vset then s
  else
    let d := max v x.vset - min v x.vset
    s.updIsland i (fun x => { x with stepTo := some v, stepEnd := s.now + 100 + 500 * d, trim := if v < x.vset then Config.trimOf i v % 16 else x.trim })

/-- Test strips on an island end without a result: the floor keeps its value, and a voltage below it steps up to it
(R306, log entry 72). -/
def abortStrips (s : State) (i : Nat) : State :=
  let x := s.island i
  if x.strips.isNone then s
  else startStep (s.updIsland i (fun x => { x with strips := none, stepTo := none })) i (max x.vset (min x.vfloor x.vmax))

/-- What one attempt to place a team and let it in answers. -/
inductive Admit where
  | yes (s : State)
  /-- Held by R286 alone. -/
  | energy (s : State)
  /-- An island is waking first (R295). -/
  | waking (s : State)
  | no

/-- Place one variant and let it in (R284 to R286, R295). -/
def tryVariant (s : State) (w : Want) (vn : Nat) (team : Option Nat) (prio : Nat) (rng : Option (Nat × Nat)) : Admit :=
  match firstRect s w true (fun o => qualifies s w o.1 o.2) with
  | none => .no
  | some (x0, y0) =>
    let cores := rectCores x0 y0 w.task.a w.task.b
    match energyShort s w cores with
    | i :: r =>
      .energy ((i :: r).foldl (fun s i => s.updIsland i (fun x => { x with held := max x.held (reqOn s w.task.part w.v.energy cores i) })) s)
    | [] =>
      let asleep := (islandsOf s cores).filter (fun i => (s.island i).retention)
      if asleep ≠ [] then .waking (asleep.foldl (fun s i => s.updIsland i (fun x => { x with waking := true })) s)
      else match baseOn s cores w.v with
        | some base => .yes (admitTeam ((islandsOf s cores).foldl abortStrips s) w vn team x0 y0 base prio rng)
        | none => .no

/-- Try variants in order; the first that can be placed and admitted is taken (R284). `first` says that the
variant in hand is the first tried, whose hold R372 counts. -/
def tryVariants (s : State) (i : Nat) (t : Task) (team : Option Nat) (back : Option Team) (prio : Nat) (rng : Option (Nat × Nat)) (first : Bool) : List Nat → Admit
  | [] => .energy s
  | n :: r =>
    match taskVariant s t n with
    | none => tryVariants s i t team back prio rng false r
    | some (v, oid) =>
      match tryVariant s { id := i, task := t, v := v, oid := oid, back := back } n team prio rng with
      | .yes s => .yes s
      | .waking s => .waking s
      | .no => tryVariants s i t team back prio rng false r
      | .energy s =>
        let s := if first && t.st == .eligible then s.updTask i (fun t => { t with holdSince := some (t.holdSince.getD s.now) }) else s
        tryVariants s i t team back prio rng false r

/-- The variants to try for a new team of a task. -/
def variantOrder (t : Task) : List Nat :=
  match t.pref with
  | some v => [v]
  | none => List.range t.vars.length

/-- The state after an attempt, admitted or not. -/
def Admit.state (a : Admit) (s : State) : State :=
  match a with
  | .yes s | .energy s | .waking s => s
  | .no => s

/-! ## The range table (R289) -/

/-- Open and exhausted range entries of a partition, or of all. -/
def rangeCount (s : State) (f : Task → Bool) : Nat :=
  (s.teams.filter (fun e => match e.2 with
    | some m => m.rangeE.isSome && (s.task m.task).any f
    | none => false)).length

/-- The range table is full for a partition (R289, R328); a disabled one has no share of it. -/
def rangeFull (s : State) (p : Nat) : Bool :=
  fld (s.part p).pset 0 1 == 0 || decide (4096 ≤ rangeCount s (fun _ => true)) || decide (fld (s.part p).pset 17 13 ≤ rangeCount s (fun t => t.part == p))

/-- Grains' worth of unclaimed iterations of an entry. -/
def grainsLeft (f e g : Nat) : Nat := (e - f + g - 1) / max 1 g

/-- The entry of a partition to crack next, not among `skip` (R45, R289). -/
def crackTarget (s : State) (p : Nat) (skip : List Nat) : Option Nat :=
  (s.teams.filterMap (fun e => match e.2 with
    | some m => (match m.rangeE, s.task m.task with
      | some (f, x), some t =>
        if t.part = p ∧ m.failed.isNone ∧ skip.contains e.1 = false ∧ 2 ≤ grainsLeft f x t.grain then some (e.1, x - f) else none
      | _, _ => none)
    | none => none)).foldl (fun (b : Option (Nat × Nat)) c =>
      match b with
      | none => some c
      | some d => if d.2 < c.2 then some c else b) none |>.map (·.1)

/-- Cracks of one partition, until no entry remains to be taken. -/
def crack (p : Nat) : Nat → List Nat → State → State
  | 0, _, s => s
  | n + 1, skip, s =>
    match crackTarget s p skip with
    | none => s
    | some t =>
      match s.team t with
      | none => s
      | some m =>
        match m.rangeE, s.task m.task with
        | some (f, e), some k =>
          let mid := f + k.grain * ((grainsLeft f e k.grain + 1) / 2)
          if rangeFull s p then s else
          match tryVariants s m.task k none none (effPrio s p k.prio k.eligAt) (some (mid, e)) false (variantOrder k) with
          | .yes s => crack p n skip (s.updTeam t (fun m => { m with rangeE := some (f, mid) }))
          | a => crack p n (t :: skip) (a.state s)
        | _, _ => s

/-! ## Reservations (R283) -/

/-- The rectangle that a task would reserve. Log entry 73. -/
def resvRect (s : State) (i : Nat) : Option (Nat × Nat) :=
  match s.task i with
  | none => none
  | some t =>
    match taskVariant s t (firstVariant t) with
    | none => none
    | some (v, oid) =>
      let w : Want := { id := i, task := t, v := v, oid := oid, back := none }
      firstRect s w false (fun o => rectStands s w o.1 o.2)

/-- A reserved rectangle still stands for its task. -/
def resvStands (s : State) (i x y : Nat) : Bool :=
  match s.task i with
  | none => false
  | some t =>
    match taskVariant s t (firstVariant t) with
    | none => false
    | some (v, oid) => rectStands s { id := i, task := t, v := v, oid := oid, back := none } x y

/-- A partition's reservation at a pass: kept with its rectangle while that stands, its rectangle chosen afresh where
none does, or made for the first candidate that has waited 2 ms: a task, since a team that waits to be restored has none
that could be reserved (DEDUCED: log entry 73). It ends by `dropResv` alone. -/
def settleResv (s : State) (l : List Cand) (p : Nat) : State :=
  let put (i : Nat) : State := (touchResv s p).updPart p (fun x => { x with resv := some (i, resvRect s i) })
  match (s.part p).resv with
  | some (i, o) => if o.any (fun r => resvStands s i r.1 r.2) then s else put i
  | none =>
    match l.find? (fun c => c.team.isNone && c.part == p && decide (c.time + 2000000 ≤ s.now)) with
    | some c => put c.task
    | none => s

/-! ## The pass -/

/-- Consider one candidate. A team whose partition has no supervisor code is failed instead (R327). -/
def consider (s : State) (c : Cand) : State :=
  match s.task c.task with
  | none => s
  | some t =>
    match c.team with
    | some n =>
      (match s.team n with
       | none => s
       | some m =>
         if hasSup s c.part = false then failTeam s n 0x57
         else (tryVariants s c.task t (some n) (some m) c.prio none false [m.variant]).state s)
    | none =>
      if t.rng && rangeFull s c.part then s
      else (tryVariants s c.task t none none c.prio (if t.rng then some (t.lo, t.hi) else none) true (variantOrder t)).state s

/-- A dispatcher pass (R282): each candidate in order; cracks of a partition once its candidates are done. -/
def pass (s : State) : State :=
  let s := { s with passDue := false, islands := s.islands.foldl (fun (t : Tab Island) e => t.set e.1 { e.2 with held := 0 } {}) s.islands }
  let l := passOrder (candidates s)
  let s := allParts.foldl (fun s p => settleResv s l p) s
  let s := l.foldl consider s
  allParts.foldl (fun s p => crack p 4096 [] s) s

/-- DISPATCHER_PASS (R282); none while admission has stopped (R324). -/
def execDispatcherPass (s : State) : Host.Outcome State Fault Refusal :=
  .next (if s.power = .on then pass s else s)

/-- ISLAND_WAKE (R295): a waking island runs, and the team is placed. -/
def execIslandWake (island : Nat) (s : State) : Host.Outcome State Fault Refusal :=
  .next (if (s.island island).waking then
      { s.updIsland island (fun x => { x with retention := false, waking := false, idleSince := s.now }) with passDue := true }
    else s)

/-- A task's energy hold has lasted 1 ms unposted. -/
def holdDue (s : State) (t : Task) : Bool :=
  t.st == .eligible && !t.holdPosted && (match t.holdSince with
    | some h => decide (h + 1000000 ≤ s.now)
    | none => false)

/-- FALLBACK_PRESSURE (R287, R372): once for each hold. -/
def execFallbackPressure (s : State) : Host.Outcome State Fault Refusal :=
  .next ((s.tasks.filter (fun e => e.2.any (holdDue s))).foldl (fun s e =>
    match e.2 with
    | some t => (s.postE t.part 0x64 (handle := s.handle e.1)).updTask e.1 (fun t => { t with holdPosted := true })
    | none => s) s)

/-! ## Start and end of teams (R47, R49, R281, R288, R357) -/

/-- Every context of a loaded team starts: in user mode, at the restore entry, or in Ended where it was (R57,
log entry 25). -/
def startTeam (s : State) (n : Nat) : State :=
  match s.team n with
  | none => s
  | some m =>
    let s := (s.teamCtxs n).foldl (fun s p =>
      let c := s.ctx p.1 p.2
      match m.kept.find? (fun k => k.tidx == c.tidx) with
      | none => s.setCtx p.1 p.2 { c with st := .ready }
      | some k =>
        if k.ended then s.setCtx p.1 p.2 { c with st := .ended }
        else enterSup s p.1 p.2 (fld (s.part c.part).rstcfg 0 24)) s
    s.setTeam n (some { m with st := .running, kept := [] })

/-- One of the teams that `f` names, by a free value (log entry 2). -/
def someTeam (s : State) (f : Nat → Team → Bool) : Option Nat :=
  let l := s.teams.filterMap (fun e => match e.2 with
    | some m => if f e.1 m then some e.1 else none
    | none => none)
  l[Config.pick s.fresh % max 1 l.length]?

/-- TEAM_LOADED (R47). -/
def execTeamLoaded (s : State) : Host.Outcome State Fault Refusal :=
  .next (match someTeam s (fun _ m => m.st == .loading) with
    | some n => startTeam s.draw n
    | none => s)

/-- Nothing of a team is left to wait for: contexts Ended with every thread joined and window over, or of a
failing team with its outbound copies done. Log entry 80. -/
def teamDone (s : State) (n : Nat) (m : Team) : Bool :=
  let l := s.teamCtxs n
  let idle := l.all (fun p => !(s.core p.1).ops.any (fun o => o.slot == p.2)) && !s.enqs.any (fun e => e.team == n)
  match m.st with
  | .failing => idle
  | .running | .ending =>
    idle && m.kept.isEmpty && l.all (fun p =>
      let c := s.ctx p.1 p.2
      c.st == .ended && !c.win && c.gatedItems.isEmpty)
  | _ => false

/-- A team's slots, barriers, messages and range entry go, and its task takes its joules and iterations; the
task ends with its last team. -/
def finishTeam (s : State) (n : Nat) (m : Team) : State :=
  match s.task m.task with
  | none => s.setTeam n none
  | some t =>
    let l := s.teamCtxs n
    let s := l.foldl (fun s p => chargeCtx s p.1 p.2) s
    let joules := (l.map (fun p => (s.ctx p.1 p.2).joule) ++ m.kept.map (·.joule)).foldl (· + ·) 0
    let time := (l.map (fun p => max (s.ctx p.1 p.2).time (s.ctx p.1 p.2).thrTime) ++ m.kept.map (·.thr)).foldl max 0
    let mine (r : Release) : Bool := ((s.core r.core).barrier r.n).team == some n
    let s := { s with rels := s.rels.filter (fun r => !mine r), answers := s.answers.filter (fun r => !mine r), arrs := s.arrs.filter (fun a => a.team != n), flights := s.flights.filter (fun f => f.team != n) }
    let s := resetBars s n
    let s := l.foldl (fun s p => freeSlot s p.1 p.2) s
    let s := (raisePtime s t.part time).setTeam n none
    let s : State := { s.updTask m.task (fun t => { t with joules := t.joules + joules, uncl := t.uncl + (match m.rangeE with
        | some (f, e) => e - f
        | none => 0) }) with passDue := true }
    if (s.taskTeams m.task).isEmpty then endTask s m.task t.cause (fld (s.part t.part).pset 0 1 == 1) else s

/-- TEAM_COMPLETE (R49). -/
def execTeamComplete (s : State) : Host.Outcome State Fault Refusal :=
  .next (match someTeam s (teamDone s) with
    | some n => (match s.team n with
      | some m => finishTeam s.draw n m
      | none => s)
    | none => s)

end Sys2Proof.Machine
end

