-- ==== Sys2Proof/Machine/Events.lean ====
section
/-!
DEFINITION. Sys2Proof/Machine/Events.lean: the events of one core and its contexts that are no engine
operation (R48, R50, R79, R82, R119, R169, R170, R184, R262, R263, R308). An event that finds nothing to do
leaves the state as it is (log entry 16).
-/
namespace Sys2Proof.Machine

/-- TRAP_ENTRY (R50, R184): the trap that is due goes as far as it can. -/
def execTrapEntry (core slot : Nat) (s : State) : Host.Outcome State Fault Refusal :=
  .next (enterTrap s core slot)

/-- FORMAT_WRITE_EFFECT (R119): writes whose counts have run out take effect. -/
def execFormatWriteEffect (core slot : Nat) (s : State) : Host.Outcome State Fault Refusal :=
  .next (s.updCtx core slot (fun c => { c with a := c.a.landFmt }))

/-- Every context of a team in Waiting takes its yield at once (R50, R57). -/
def takeYields (s : State) (t : Nat) : State :=
  (s.teamCtxs t).foldl (fun s p => if (s.ctx p.1 p.2).st == .waiting then enterTrap s p.1 p.2 else s) s

/-- YIELD_REQUEST (R50). -/
def execYieldRequest (team : Nat) (s : State) : Host.Outcome State Fault Refusal :=
  .next (takeYields (yieldTeam s team) team)

/-! ## Answers (R169, R170, R382) -/

/-- An access in flight. -/
def Ctx.accOf (c : Ctx) (id : Nat) : Option Acc := c.accs.find? (fun a => a.id == id)

/-- An answer arrives, and what waited for it goes on. -/
def answerNow (s : State) (core slot : Nat) (a : Acc) : State := afterOp (respond s core slot a) core slot

/-- SCALAR_ACCESS_RESPONSE (R169). -/
def execScalarAccessResponse (core slot id : Nat) (s : State) : Host.Outcome State Fault Refusal :=
  .next (match (s.ctx core slot).accOf id with
    | some a => if a.pcie || a.flush then s else answerNow s core slot a
    | none => s)

/-- CACHE_FLUSH_COMPLETE (R170). -/
def execCacheFlushComplete (core slot id : Nat) (s : State) : Host.Outcome State Fault Refusal :=
  .next (match (s.ctx core slot).accOf id with
    | some a => if a.flush then answerNow s core slot a else s
    | none => s)

/-! ## Claims (R45, R46, R262, R263) -/

/-- The context waits on a tag on which no claim is pending any more (R41, R263). -/
def Ctx.claimOver (c : Ctx) : Bool :=
  match c.st, c.wait with
  | .waiting, .claim t => !c.a.claims.any (fun x => x.valid && x.tag == t)
  | _, _ => false

/-- The oldest claim lands: the cycles left of it have passed for all, and a context that has waited for it on its tag
is Ready again. -/
def landOldest (c : Ctx) : Ctx :=
  match c.a.claims.find? (·.valid) with
  | none => c
  | some x =>
    if x.served = false then c else
    let a : Arch := { c.a with claims := c.a.claims.map (fun (y : Claim) => { y with left := y.left - x.left }) }
    let c := { c with a := a.landClaims }
    if c.claimOver then { c with st := .ready, wait := .none } else c

/-- NEXT_LANDING (R262, R263): at a boundary the claims that are due land; in a wait the oldest one does. -/
def execNextLanding (core slot : Nat) (s : State) : Host.Outcome State Fault Refusal :=
  .next (afterOp (s.updCtx core slot (fun c =>
    if c.sup then c else if c.claimsRun then landOldest c else { c with a := c.a.landClaims })) core slot)

/-- RANGE_CLAIM (R45, R46): one claim is served: the first in issue order of the team that a free value picks
(log entry 2). -/
def execRangeClaim (s : State) : Host.Outcome State Fault Refusal :=
  .next (let l := (claimants s).filter (claimTurn s)
    match l[Config.pick s.fresh % max 1 l.length]? with
    | some p => serveClaim s.draw p.1 p.2
    | none => s)

/-- DROOP_WINDOW_END (R308). -/
def execDroopWindowEnd (core slot : Nat) (s : State) : Host.Outcome State Fault Refusal :=
  .next (afterOp (windowEnd s core slot) core slot)

/-! ## Coherence (R79, R82; log entry 4) -/

/-- The object and page that hold a device byte. -/
def pageAt (s : State) (die pa : Nat) : Nat × Nat :=
  (s.objs.findSome? (fun e =>
    (e.2.pages.find? (fun p => p.2.onDevice && p.2.die == die && decide (4096 * p.2.frame ≤ pa) &&
      decide (pa < 4096 * p.2.frame + pageBytes e.2.psz))).map (fun p => (e.1, p.1)))).getD (0, 0)

/-- HOME_REQUEST (R79): a context's request for the block of one word, with any combination that it needs. -/
def execHomeRequest (core slot die pa : Nat) (wr : Bool) (ty : Nat) (s : State) : Host.Outcome State Fault Refusal :=
  .next (let s := combineFor s die pa 1
    let p := pageAt s die pa
    let r := request s core slot p.1 p.2 die pa (s.ctx core slot).time wr ty 0
    r.1.updCtx core slot (fun c => { c with time := max c.time r.2 }))

/-- OWN_RECALL (R79, R82): the L1 gives up the blocks own that hold a word, with their times. -/
def execOwnRecall (core die pa : Nat) (s : State) : Host.Outcome State Fault Refusal :=
  .next (recallFrom s core die (pa / 32))

/-- WRITE_BACK_GRANT (R82): the oldest entry of the victim buffer is answered and freed. -/
def execWriteBackGrant (core : Nat) (s : State) : Host.Outcome State Fault Refusal :=
  .next (grantOldest s core)

end Sys2Proof.Machine
end

