-- ==== Sys2Proof/Machine/Quiesce.lean ====
section
/-!
DEFINITION. Sys2Proof/Machine/Quiesce.lean: the command processor: quiesce points and what is applied there
(R17 to R19, R87, R291, R313, R328, R329, R394, R400, R401), page requests and migration notifications
(R86, R378, R383, R384), and entries of the completion rings (R276).
-/
namespace Sys2Proof.Machine

/-! ## Columns (R19, R400, R401) -/

/-- ARG of an event of kind CORE_*: physical row and column (R355). -/
def coreArg (phys : Nat) : Nat := phys % 72 / 8 + phys % 8 * 16

/-- Post an event about a physical core. `core` is its logical index, 0x1FF where it stands behind none. -/
def postCore (s : State) (code phys core : Nat) : State :=
  s.postF code (island := islandOfPhys phys) (core := core) (die := phys / 72) (arg := coreArg phys)

/-- The logical core of row `j` of a die's column (R17). -/
def logicalAt (die col j : Nat) : Nat := 16 * (8 * (die / 2) + j) + 8 * (die % 2) + col

/-- The logical cores of a column that are no holes. -/
def columnCores (s : State) (die col : Nat) : List Nat :=
  ((List.range 8).map (logicalAt die col)).filter (fun c => !s.isHole c)

/-- A core's SRAM leaves the mesh: its dirty L1 words are written back, its partials combined, and its record
is that of a core as shipped (R19, R389). -/
def retireCore (s : State) (core : Nat) : State :=
  let s := (s.core core).part.foldl (fun s e => combineFor s e.die e.addr 1) s
  (emptyL1 s core).setCore core {}

/-- VMAX of an island after a core has left: 80 unless another worn core stands there (R400). -/
def restoreVmax (s : State) (i : Nat) : State :=
  let worn := (s.coresOf i).any (fun c => (s.wearOf (s.phys c)).cstate != 0)
  let derated := (s.coresOf i).any (fun c => (s.wearOf (s.phys c)).cstate == 1)
  s.updIsland i (fun x => { x with vmax := if derated then min 60 x.vmax else if worn then x.vmax else 80 })

def State.updWear (s : State) (p : Nat) (f : Wear → Wear) : State := { s with wear := s.wear.set p (f (s.wearOf p)) {} }

/-- The islands, 0 to 47. -/
def allIslands : List Nat := List.range 48

/-- The cores in use that a partition's rectangles hold (R396). -/
def partCores (s : State) (p : Nat) : List Nat :=
  ((s.rects p).flatMap (fun r => rectCores r.1 r.2.1 r.2.2.1 r.2.2.2)).filter (fun c => !s.isHole c)

/-- An island that several partitions' rectangles share stays in the PF's last MODE (R330). -/
def sharedModes (s : State) : State :=
  let l := allIslands.filter (fun i => (s.island i).mode != (s.island i).pfMode &&
    decide (2 ≤ (allParts.filter (fun p => (s.coresOf i).any (fun c => (partCores s p).contains c))).length))
  l.foldl (fun s i => s.updIsland i (fun x => { x with mode := x.pfMode })) s

/-- The position of a retired core passes to the spare, or becomes a hole (R19, R400, R401). A spare that is to leave
its column takes no position (R394). -/
def replaceCore (s : State) (die col j : Nat) : State :=
  let core := logicalAt die col j
  let old := s.phys core
  let r := s.remapOf die col
  let ok := r.spare != 15 && decide ((s.wearOf (72 * die + 8 * r.spare + col)).cstate ≤ 1) &&
    !s.quiesce.any (fun q => q.work == .spare die col)
  let s := retireCore s core
  let r' : Remap := { lrow := r.lrow.set j (if ok then r.spare else 15), spare := if ok then 15 else r.spare }
  let s : State := { s with remap := s.remap.set (8 * die + col) r' {} }
  let s := sharedModes (restoreVmax s (islandOfPhys old))
  if ok then restoreVmax s (s.islandOf core) else postCore s 0x6B old core

/-- The quiesce point of a column: every retired core that stands behind one of its positions is replaced. Where two
retire at one quiesce point, the spec does not say which takes the spare: DESIGN CHOICE, the one of lower logical row
(log entry 95). -/
def applyColumn (s : State) (die col : Nat) : State :=
  (List.range 8).foldl (fun s j =>
    let c := logicalAt die col j
    if !s.isHole c && (s.wearOf (s.phys c)).cstate == 3 then replaceCore s die col j else s) s

/-- A spare that failed its pattern or has retired leaves its column (R18, R394); CORE_RETIRED is posted once. -/
def applySpare (s : State) (die col : Nat) : State :=
  let r := s.remapOf die col
  if r.spare = 15 then s
  else
    let p := 72 * die + 8 * r.spare + col
    let s : State := { s with remap := s.remap.set (8 * die + col) { r with spare := 15 } {} }
    if (s.wearOf p).cstate = 3 then s
    else postCore (s.updWear p (fun x => { x with cstate := 3 })) 0x6A p 0x1FF

/-! ## Object commands that wait (R329) -/

/-- The partials of a device range are discarded, and its tracked blocks forgotten. -/
def discardPartials (s : State) (die pa n : Nat) : State :=
  let inR (e : Partial) : Bool := e.die == die && decide (pa ≤ e.addr) && decide (e.addr < pa + n)
  let s := (List.range 256).foldl (fun s c =>
    if (s.core c).part.any inR then s.updCore c (fun k => { k with part := k.part.filter (fun e => !inR e) }) else s) s
  s.updDie die (fun d => { d with tracked := d.tracked.filter (fun t => !(decide (pa ≤ t.1) && decide (t.1 < pa + n))) })

/-- The cached blocks of a device range are dropped without write-back. -/
def discardBlocks (s : State) (die pa n : Nat) : State :=
  let inR (b : Block) : Bool := b.die == die && decide (pa ≤ 512 * b.frame) && decide (512 * b.frame < pa + n)
  let s := (List.range 256).foldl (fun s c =>
    if (s.core c).l1.any inR || (s.core c).victim.any inR then
      s.updCore c (fun k => { k with l1 := k.l1.filter (fun b => !inR b), victim := k.victim.filter (fun b => !inR b) })
    else s) s
  let own (w : Nat) : Bool := decide (pa ≤ 32 * w) && decide (32 * w < pa + n)
  let s := (List.range 256).foldl (fun s c =>
    let k := s.core c
    if k.l1Bad.any (fun x => x.1 == die && own x.2) || k.icache.any (fun x => x.1 == die && own x.2) then
      s.updCore c (fun k => { k with l1Bad := k.l1Bad.filter (fun x => !(x.1 == die && own x.2)), icache := k.icache.filter (fun x => !(x.1 == die && own x.2)) })
    else s) s
  s.updDie die (fun d => { d with l2 := d.l2.filter (fun b => !inR b), badL2 := d.badL2.filter (fun w => !own w), home := d.home.filter (fun e => !own e.1) })

/-- The page's frames of device memory are freed with what caches and buffers hold of them; a page on flash
gives up its data there. -/
def releasePage (s : State) (psz : Nat) (e : Page) : State :=
  if e.onDevice then
    let pa := e.frame * 4096
    let b := pageBytes psz
    let s := discardBlocks (discardPartials s e.die pa b) e.die pa b
    freeFrames (wipeDev s e.die pa b) e.die e.frame (pageFrames psz)
  else if e.state = 4 then dropFlash s e.frame
  else s

/-- REMOVE (R329). -/
def removeNow (s : State) (oid : Nat) : State :=
  match s.obj oid with
  | none => s
  | some o =>
    let s := o.pages.foldl (fun s e => releasePage s o.psz e.2) s
    let s := freeFrames s o.home (o.ptbase / 4096) (tableFrames (pageCount o))
    s.setObj oid none

/-- MAP and UNMAP (R329): the page's frames are freed and its entry is written. -/
def remapPage (s : State) (oid page : Nat) (e : Page) : State :=
  match s.obj oid with
  | none => s
  | some o => (releasePage s o.psz (o.pages.get page {})).setPage oid page e

/-- An object command ends with a RESULT, and BUSY is clear. -/
def endCommand (s : State) (p res : Nat) : State := s.updPart p (fun x => { x with objbusy := false, objres := res })

/-- The command `op` of a partition is carried out at its quiesce point. -/
def applyObject (s : State) (p op oid page frame : Nat) : State :=
  let s := match op with
    | 2 => removeNow s oid
    | 3 => remapPage s oid page { state := 3, frame := frame }
    | _ => remapPage s oid page {}
  endCommand s p 0

/-! ## Quiesce points (R291) -/

/-- The object whose capability no team that holds a slot may hold (R87, R329). -/
def QuiWork.oid : QuiWork → Option Nat
  | .object _ _ oid .. | .bringIn _ oid _ | .move oid .. => some oid
  | _ => none

/-- The quiesce point falls: no team holds a core of the request, or a capability that it excludes. -/
def hasFallen (s : State) (q : Quiesce) : Bool :=
  coresFree s q.cores && (match q.work.oid with
    | some o => (holderCores s o).isEmpty
    | none => true)

/-- A move scheduled from a notification (R87, R384): a page in device memory goes to another die; where no
frames are free there it stays. -/
def applyMove (s : State) (oid page die : Nat) : State :=
  let e := s.pageOf oid page
  if e.onDevice && e.die != die then (movePage s oid page die).getD s else s

/-- What a quiesce point applies; a bring-in goes with the page requests. Log entry 113. -/
def applyWork (s : State) (w : QuiWork) : State :=
  match w with
  | .column d c => applyColumn s d c
  | .spare d c => applySpare s d c
  | .object p op oid page frame => applyObject s p op oid page frame
  | .bringIn .. => s
  | .rectangle _ => s
  | .move oid page die => applyMove s oid page die

/-- A bring-in waits for its page request to be settled. -/
def QuiWork.isBringIn : QuiWork → Bool
  | .bringIn .. => true
  | _ => false

/-- A request leaves the list, and a pass is due for the cores it gives back. -/
def dropQuiesce (s : State) (q : Quiesce) : State := { s with quiesce := s.quiesce.filter (fun x => x != q), passDue := true }

/-- QUIESCE_POINT (R291): every request whose quiesce point has fallen, oldest first. -/
def execQuiescePoint (s : State) : Host.Outcome State Fault Refusal :=
  .next (s.quiesce.foldl (fun s q => if !q.work.isBringIn && hasFallen s q then applyWork (dropQuiesce s q) q.work else s) s)

/-- The teams that keep a quiesce point from falling. -/
def holdersOf (s : State) (q : Quiesce) : List Nat :=
  let cores := q.cores ++ (match q.work.oid with
    | some o => holderCores s o
    | none => [])
  s.liveTeams.filter (fun t => (s.teamCtxs t).any (fun p => cores.contains p.1))

/-- The quiesce limit of a team's partition has run out since a request (R291). -/
def limitOver (s : State) (q : Quiesce) (t : Nat) : Bool :=
  match (s.team t).bind (fun m => s.task m.task) with
  | some k => decide (q.since + 1000 * fld (s.part k.part).qlimit 0 24 ≤ s.now)
  | none => false

/-- QUIESCE_LIMIT_EXPIRY (R291): the teams that still stand in the way are asked to yield. -/
def execQuiesceLimitExpiry (s : State) : Host.Outcome State Fault Refusal :=
  .next (s.quiesce.foldl (fun s q =>
    ((holdersOf s q).filter (limitOver s q)).foldl (fun s t => takeYields (yieldTeam s t) t) s) s)

/-! ## Page requests and notifications (R376 to R384) -/

/-- A page and partition of a bring-in. -/
def Quiesce.bringOf (q : Quiesce) (p : Nat) : Option (Nat × Nat) :=
  match q.work with
  | .bringIn p' oid page => if p' = p then some (oid, page) else none
  | _ => none

/-- PAGE_REQUEST_SETTLE (R378): the oldest bring-in of the partition whose quiesce point has fallen is made,
and every entry that names its page is settled. -/
def execPageRequestSettle (p : Nat) (flashOk : Bool) (s : State) : Host.Outcome State Fault Refusal :=
  .next (match s.quiesce.find? (fun q => (q.bringOf p).isSome && hasFallen s q) with
    | none => s
    | some q =>
      match q.bringOf p with
      | none => s
      | some (oid, page) =>
        let r := bringIn (dropQuiesce s q) p oid page flashOk
        readRing r.1 p (some (oid, page, r.2)))

/-- One notification: stale where the page's Q is clear, else a move to the requester's die is scheduled at a
quiesce point of the cores of the teams that hold a capability. -/
def readNotif (s : State) (n : Nat × Nat × Nat × Nat) : State :=
  if (s.pageOf n.1 n.2.1).q = false then s
  else
    let q : Quiesce := { cores := holderCores s n.1, since := s.now, work := .move n.1 n.2.1 n.2.2.1 }
    { s with quiesce := s.quiesce ++ [q] }

/-- Pages that the placement hints of the task graph ask to move (R38, R87): those in device memory of objects that a
task not yet admitted holds capabilities of, away from the die it asks for. -/
def hinted (s : State) : List (Nat × Nat × Nat) :=
  s.tasks.flatMap (fun e => match e.2 with
    | some t => if t.st = .waiting ∨ t.st = .eligible then (match t.home with
        | some d => (t.caps.map (fun k => capOid k.2)).flatMap (fun o => match s.objOf t.part o with
          | some ob => (ob.pages.filter (fun p => p.2.onDevice && p.2.die != d)).map (fun p => (o, p.1, d))
          | none => [])
        | none => []) else []
    | none => [])

/-- At most one such move is scheduled at a time, by a free value (log entries 2, 18). -/
def hintMove (s : State) : State :=
  match (hinted s)[Config.pick s.fresh % ((hinted s).length + 1)]? with
  | none => s
  | some (o, page, d) =>
    if s.quiesce.any (fun q => q.work == .move o page d) then s
    else
      let q : Quiesce := { cores := holderCores s o, since := s.now, work := .move o page d }
      { s.draw with quiesce := s.quiesce ++ [q] }

/-- NOTIFICATION_QUEUE_READ (R86, R87, R384): the queues of all dies are consumed; below 2048 entries a queue may
raise NOTIFY_OVERFLOW again (R383). -/
def execNotificationQueueRead (s : State) : Host.Outcome State Fault Refusal :=
  .next (hintMove ([0, 1, 2, 3].foldl (fun s d =>
    let l := (s.die d).notif
    l.foldl readNotif (s.updDie d (fun x => { x with notif := [], notifOvf := false }))) s))

/-! ## Entries of completion rings (R276) -/

/-- The completion queues with room whose oldest entry is an acceptance entry, or is none. -/
def ringsReady (s : State) (accept : Bool) : List (Nat × Nat) :=
  allParts.flatMap (fun p => (allParts.filter (fun q =>
    let x := (s.part p).queueOf q
    cqRoom s x && (match x.waiting with
      | e :: _ => (fld e.1 40 1 == 1) == accept
      | [] => false))).map (fun q => (p, q)))

/-- The oldest waiting entry of a completion queue is written with its PHASE; a completion entry frees the
task-table entry. -/
def writeEntry (s : State) (p q : Nat) : State :=
  let x := (s.part p).queueOf q
  match x.waiting with
  | [] => s
  | (e, i) :: r =>
    let n := 2 ^ fld x.cqcfg 1 5
    let ph := 1 - x.written / n % 2
    let s := s.send (.pcieWrite (.vf p) (fld x.cqcfg 12 52 * 4096 + 32 * (x.written % n)) (toBytes 32 (e.toNat + ph * 2 ^ 63)))
    let s := s.updQueue p q (fun y => { y with waiting := r, written := y.written + 1 })
    if fld e 40 1 = 1 then s
    else match i with
      | some t => freeTask s t
      | none => s

/-- One entry of one of these queues, by a free value (log entry 2). -/
def writeSome (s : State) (accept : Bool) : State :=
  let l := ringsReady s accept
  match l[Config.pick s.fresh % max 1 l.length]? with
  | some r => writeEntry s.draw r.1 r.2
  | none => s

/-- ACCEPTANCE_ENTRY_WRITE (R276). -/
def execAcceptanceEntryWrite (s : State) : Host.Outcome State Fault Refusal := .next (writeSome s true)

/-- COMPLETION_ENTRY_WRITE (R276). -/
def execCompletionEntryWrite (s : State) : Host.Outcome State Fault Refusal := .next (writeSome s false)

end Sys2Proof.Machine
end

