-- ==== Sys2Proof/Machine/System.lean ====
section
/-!
DEFINITION. Sys2Proof/Machine/System.lean: system registers, the item window and the system instructions (R174 to R187).
-/
namespace Sys2Proof.Machine

/-! ## The item window (R181) -/

/-- A number as a register word. -/
def nw (x : Nat) : Word := BitVec.ofNat 64 x

/-- The low or high 64 bits of a 128-bit register, and a write of either. -/
def halfOf (v : BitVec 128) (hi : Nat) : Word := nw (fld v (64 * hi) 64)
def putHalf (v : BitVec 128) (hi : Nat) (w : Word) : BitVec 128 := setFld v (64 * hi) 64 w.toNat

/-- A tile's BUSY bit (R188, R191): an engine thread in flight names it. Log entry 49. -/
def busyNow (ops : List EOp) (slot t : Nat) : Bool :=
  ops.any (fun o => o.slot == slot && !o.predOff && (o.tiles.any (fun p => p.1 == t) || readsStatus o.ins t))

/-- The format register items 0x168 to 0x16F. -/
def fmtItem (a : Arch) (i : Nat) : Word :=
  match i with
  | 0 => nw a.fa.toNat
  | 1 => nw a.fw.toNat
  | 2 => nw a.fo.toNat
  | 3 => nw a.fv.toNat
  | 4 => nw a.fs.toNat
  | 5 => nw a.rm.toNat
  | 6 => nw (a.seed.toNat + a.draw.toNat * 2 ^ 32)
  | _ => nw a.cbsel.toNat

def setFmtItem (a : Arch) (i : Nat) (w : Word) : Arch :=
  let v := BitVec.ofNat 18 w.toNat
  match i with
  | 0 => { a with fa := v }
  | 1 => { a with fw := v }
  | 2 => { a with fo := v }
  | 3 => { a with fv := v }
  | 4 => { a with fs := v }
  | 5 => { a with rm := v }
  | 6 => { a with seed := BitVec.ofNat 32 w.toNat, draw := BitVec.ofNat 32 (w.toNat / 2 ^ 32) }
  | _ => { a with cbsel := v }

/-- How many low bits of format register `r`'s item, and of a CTLARG written to it, are not reserved: registers in
the order of items 0x170 to 0x179 (R135, R145). -/
def fmtBits (r : Nat) : Nat :=
  match r with
  | 0 | 1 | 2 | 3 => 11
  | 4 => 10
  | 5 => 3
  | 6 => 17
  | 7 => 1
  | _ => 18

/-- The latest pending write to register `r` (log entry 14). -/
def pendOf (a : Arch) (r : Nat) : Option PendFmt := (a.pend.filter (fun p => p.reg == r)).getLast?

def pendItem (a : Arch) (r : Nat) : Word :=
  match pendOf a r with
  | some p => nw (p.arg % 2 ^ 18 + p.left % 4 * 2 ^ 18 + 2 ^ 20)
  | none => 0

def setPendItem (a : Arch) (r : Nat) (w : Word) : Arch :=
  let rest := a.pend.filter (fun p => p.reg != r)
  { a with pend := if fld w 20 1 = 1 then rest ++ [{ reg := r, arg := fld w 0 (fmtBits r), left := fld w 18 2 }] else rest }

/-- Loop level items 0x140 + 4 n. Log entry 61. -/
def levelItem (l : Level) (i : Nat) : Word :=
  match i with
  | 0 => nw (l.count % 2 ^ 32 + oneIf l.active * 2 ^ 32)
  | 1 => nw l.start
  | 2 => nw l.stop
  | _ => 0

def setLevelItem (l : Level) (i now : Nat) (w : Word) : Level :=
  match i with
  | 0 => { l with count := fld w 0 32, active := fld w 32 1 == 1, opened := now }
  | 1 => { l with start := fld w 0 24 }
  | 2 => { l with stop := fld w 0 24 }
  | _ => l

/-- Remembered operation items 0x150 + 3 s. -/
def remItem (r : Remembered) (i : Nat) : Word :=
  match i with
  | 0 => nw (r.word % 2 ^ 64)
  | 1 => nw (r.word / 2 ^ 64 % 2 ^ 16 + oneIf r.present * 2 ^ 16)
  | _ => nw (r.k % 2 ^ 32)

def setRemItem (r : Remembered) (i : Nat) (w : Word) : Remembered :=
  match i with
  | 0 => { r with word := r.word / 2 ^ 64 * 2 ^ 64 + w.toNat }
  | 1 => { r with word := r.word % 2 ^ 64 + fld w 0 16 * 2 ^ 64, present := fld w 16 1 == 1 }
  | _ => { r with k := fld w 0 32 }

/-- Items of a `next` in flight, 0x180 + 2 n. -/
def noClaim : Claim := { valid := false }
def claimItem (c : Claim) (i : Nat) : Word :=
  if i = 0 then nw (c.lo % 2 ^ 32 + c.hi % 2 ^ 32 * 2 ^ 32)
  else nw (c.left % 64 + c.h % 8 * 2 ^ 6 + oneIf c.valid * 2 ^ 9 + c.tag % 32 * 2 ^ 10)

def setClaimItem (c : Claim) (i : Nat) (w : Word) : Claim :=
  if i = 0 then { c with lo := fld w 0 32, hi := fld w 32 32 }
  else { c with left := fld w 0 6, h := fld w 6 3, valid := fld w 9 1 == 1, tag := fld w 10 5, served := true }

/-- The list with entry `n` replaced, places without a `next` before it. -/
def setClaim (l : List Claim) (n : Nat) (c : Claim) : List Claim :=
  (List.range (max l.length (n + 1))).map (fun i => if i = n then c else l.getD i noClaim)

/-- An item's value in a user architectural state (R181); none for an index that names no item. -/
def itemOf (a : Arch) (ops : List EOp) (slot nacc i : Nat) : Option Word :=
  if i < 0x080 then
    let d := a.desc (i / 2)
    some (halfOf (setFld d 120 1 (oneIf (busyNow ops slot (i / 2)))) (i % 2))
  else if i < 0x0C8 then some (if 0xC0 ≤ i ∧ nacc ≤ i - 0xC0 then 0 else a.status (i - 0x080))
  else if i < 0x100 then none
  else if i < 0x120 then some (halfOf (a.k.get ((i - 0x100) / 2) 0) (i % 2))
  else if i = 0x120 then none
  else if i < 0x140 then some (nw (a.tg.get (i - 0x120) 0))
  else if i < 0x150 then some (levelItem (a.lv.get ((i - 0x140) / 4) {}) (i % 4))
  else if i < 0x15F then some (remItem (a.rem.get ((i - 0x150) / 3 + 1) {}) ((i - 0x150) % 3))
  else if i = 0x15F then none
  else if i = 0x160 then some (nw a.reps)
  else if i = 0x161 then some a.stepC0
  else if i = 0x162 then some a.stepC1
  else if i = 0x163 then some (nw a.hnext)
  else if i < 0x168 then none
  else if i < 0x170 then some (fmtItem a (i - 0x168))
  else if i < 0x17A then some (pendItem a (i - 0x170))
  else if i < 0x180 then none
  else if i < 0x190 then some (claimItem (a.claims.getD ((i - 0x180) / 2) noClaim) (i % 2))
  else if i < 0x198 then none
  else if i < 0x1A0 then some (a.h.get (i - 0x198) 0)
  else if i < 0x200 then none
  else if i < 0x280 then some (a.item ((i - 0x200) / 16) (i % 16))
  else if i < 0x300 then none
  else if i < 0x340 then some (if i = 0x300 then 0 else a.s.get (i - 0x300) 0)
  else if i = 0x340 then some (nw (a.p ||| 1).toNat)
  else none

/-- Bits of an item that are not reserved (R9). -/
def itemMask (i : Nat) (w : Word) : Word :=
  if i < 0x080 then (if i % 2 = 0 then w &&& 0x3FFFFFFFFFFFFFFF else w &&& 0x00FFFFFFFFFFFFFF)
  else if i < 0x0C8 then nw (w.toNat % 2 ^ 59)
  else if 0x100 ≤ i ∧ i < 0x120 then (if i % 2 = 0 then setFld w 29 3 0 else w)
  else if 0x168 ≤ i ∧ i < 0x170 then (if i = 0x16E then w else nw (w.toNat % 2 ^ fmtBits (i - 0x168)))
  else if 0x200 ≤ i ∧ i < 0x280 then
    (match i % 16 with
     | 0 => nw (w.toNat % 2 ^ 44 + fld w 63 1 * 2 ^ 63)
     | 5 | 6 | 7 | 8 => nw (w.toNat % 2 ^ 11)
     | 9 => nw (w.toNat % 2 ^ 10)
     | 10 => nw (w.toNat % 2 ^ 3)
     | 12 => nw (w.toNat % 2 ^ 52)
     | 14 => nw (w.toNat % 2 ^ 16)
     | 15 => nw (w.toNat % 2 ^ 32)
     | _ => w)
  else w

/-- A write of an item; `now` orders the loop levels that it opens. -/
def setItemOf (a : Arch) (nacc now i : Nat) (v : Word) : Arch :=
  let w := itemMask i v
  if i < 0x080 then a.setDesc (i / 2) (putHalf (a.desc (i / 2)) (i % 2) w)
  else if i < 0x0C8 then (if 0xC0 ≤ i ∧ nacc ≤ i - 0xC0 then a else a.setStatus (i - 0x080) w)
  else if i < 0x120 then
    { a with k := a.k.set ((i - 0x100) / 2) (putHalf (a.k.get ((i - 0x100) / 2) 0) (i % 2) w) 0 }
  else if i < 0x140 then { a with tg := a.tg.set (i - 0x120) (w.toNat % 256) 0 }
  else if i < 0x150 then
    { a with lv := a.lv.set ((i - 0x140) / 4) (setLevelItem (a.lv.get ((i - 0x140) / 4) {}) (i % 4) now w) {} }
  else if i < 0x15F then
    { a with rem := a.rem.set ((i - 0x150) / 3 + 1) (setRemItem (a.rem.get ((i - 0x150) / 3 + 1) {}) ((i - 0x150) % 3) w) {} }
  else if i = 0x160 then { a with reps := w.toNat % 256 }
  else if i = 0x161 then { a with stepC0 := w }
  else if i = 0x162 then { a with stepC1 := w }
  else if i = 0x163 then { a with hnext := w.toNat % 8 }
  else if i < 0x170 then setFmtItem a (i - 0x168) w
  else if i < 0x17A then setPendItem a (i - 0x170) w
  else if i < 0x190 then
    let n := (i - 0x180) / 2
    { a with claims := setClaim a.claims n (setClaimItem (a.claims.getD n noClaim) (i % 2) w) }
  else if i < 0x1A0 then { a with h := a.h.set (i - 0x198) w 0 }
  else if i < 0x280 then a.setItem ((i - 0x200) / 16) (i % 16) w
  else if i < 0x340 then (if i = 0x300 then a else { a with s := a.s.set (i - 0x300) w 0 })
  else { a with p := BitVec.ofNat 8 w.toNat ||| 1 }

/-- An item by index, the shadow sets' copies among them; a copy of a set that is free is no item: DESIGN CHOICE (log
entry 121). -/
def readItem (s : State) (core slot i : Nat) : Option Word :=
  let c := s.ctx core slot
  let ops := (s.core core).ops
  let sh (h : Option Shadow) (j : Nat) : Option Word :=
    h.bind (fun x => itemOf x.arch (ops.filter (fun o => decide (o.seq < x.seq))) slot c.nacc j)
  if i < 0x1000 then itemOf c.a ops slot c.nacc i
  else if i < 0x1400 then sh c.sh0 (i - 0x1000)
  else if i < 0x2000 then none
  else if i < 0x2400 then sh c.sh1 (i - 0x2000)
  else none

/-! ## System registers (R174 to R180) -/

/-- How a code may be used: unassigned, through its instruction alone, or by mfsr and mtsr in each mode. -/
inductive SrKind where
  | none | instr | userRo | supRo | supRw
  deriving DecidableEq, Repr

def srKind (code : Nat) : SrKind :=
  match code with
  | 0x000 | 0x006 => .userRo
  | 0x001 | 0x002 | 0x003 | 0x005 | 0x020 | 0x021 => .supRw
  | 0x004 | 0x018 => .supRo
  | 0x008 | 0x009 | 0x00A | 0x00B | 0x00C => .instr
  | _ => if 0x010 ≤ code ∧ code < 0x018 then .supRw else .none

/-- INDEX of sr.isel. -/
def Ctx.itemIndex (c : Ctx) : Nat := fld c.isel 0 14

/-- INDEX rises after an access of sr.idat when sr.isel[16] is set. -/
def Ctx.stepIndex (c : Ctx) : Ctx :=
  if fld c.isel 16 1 = 1 then { c with isel := setFld c.isel 0 14 (c.itemIndex + 1) } else c

/-- sr.status (R175). -/
def statusWord (c : Ctx) : Word :=
  nw (oneIf c.sup + oneIf c.ypend * 2 + (validWords c.a).length * 2 ^ 8)

/-- sr.ctx (R178). -/
def ctxWord (c : Ctx) (slot : Nat) : Word :=
  nw (c.x0 % 16 + c.y0 % 16 * 2 ^ 4 + c.ea % 8 * 2 ^ 8 + c.eb % 8 * 2 ^ 11 + c.tidx % 256 * 2 ^ 14 + slot % 4 * 2 ^ 22 +
    c.part % 8 * 2 ^ 24 + c.prio % 16 * 2 ^ 27 + c.extbase % 2 ^ 23 * 2 ^ 31)

/-- sr.fix (R180). -/
def fixWord (s : State) (core slot : Nat) : Word :=
  let c := s.ctx core slot
  nw (c.fixCur % 2 + oneIf c.fixOpen * 2 + gatedClosed s core slot * 2 ^ 2 + oneIf c.win * 2 ^ 8 + c.nfog % 2 ^ 16 * 2 ^ 16)

/-- A system register's value. -/
def srValue (s : State) (core slot code : Nat) : Word :=
  let c := s.ctx core slot
  match code with
  | 0x000 => statusWord c
  | 0x001 => c.cause
  | 0x002 => c.epc
  | 0x003 => c.tval
  | 0x004 => nw c.vec
  | 0x005 => c.tinst
  | 0x006 => ctxWord c slot
  | 0x018 => fixWord s core slot
  | 0x020 => c.isel
  | 0x021 => (readItem s core slot c.itemIndex).getD 0
  | _ => if 0x010 ≤ code ∧ code < 0x018 then c.a.item (code - 0x010) 0 else 0

/-- A write of a system register, reserved fields discarded (R9). -/
def srWrite (s : State) (core slot code : Nat) (v : Word) : State :=
  s.updCtx core slot (fun c =>
    match code with
    | 0x001 => { c with cause := nw (v.toNat % 2 ^ 51) }
    | 0x002 => { c with epc := nw (v.toNat % 2 ^ 24) }
    | 0x003 => { c with tval := v }
    | 0x005 => { c with tinst := nw (v.toNat % 2 ^ 24) }
    | 0x020 => { c with isel := nw (v.toNat % 2 ^ 14 + fld v 16 1 * 2 ^ 16) }
    | 0x021 => { c with a := setItemOf c.a c.nacc (c.iss + 1) c.itemIndex v }.stepIndex
    | _ => if 0x010 ≤ code ∧ code < 0x018 then { c with a := setItemOf c.a c.nacc 0 (0x200 + 16 * (code - 0x010)) v } else c)

/-- The system register code of an SI form. -/
def srCode (o : SI) : Nat := bits o.imm 0 12

/-- MODE_FAULT and SR_ACCESS of mfsr (R174, R181). -/
def mfsrErr (o : SI) (s : State) (core slot : Nat) : Option Trap :=
  let c := s.ctx core slot
  let t (k : Nat) : Option Trap := some { code := k, tval := nw (srCode o) }
  let idx := if srCode o = 0x021 ∧ (readItem s core slot c.itemIndex).isNone then t 0x72 else none
  if bits o.imm 12 21 ≠ 0 then t 0x72 else
  match srKind (srCode o) with
  | .none | .instr => t 0x72
  | .userRo => none
  | .supRo | .supRw => if c.sup then idx else t 0x71

/-- MODE_FAULT and SR_ACCESS of mtsr (R174, R181, R183). -/
def mtsrErr (o : SI) (s : State) (core slot : Nat) : Option Trap :=
  let c := s.ctx core slot
  let t (k : Nat) : Option Trap := some { code := k, tval := nw (srCode o) }
  if c.sup = false then t 0x71
  else if bits o.imm 12 21 ≠ 0 then t 0x72 else
  match srKind (srCode o) with
  | .none | .instr => t 0x72
  | .userRo | .supRo => t 0x71
  | .supRw =>
    if srCode o = 0x021 ∧ (0x1000 ≤ c.itemIndex ∨ (readItem s core slot c.itemIndex).isNone) then t 0x72 else none

/-! ## Modes (R183, R359) -/

/-- MODE_FAULT of an instruction that one mode alone may issue; sr.tval its OPCODE (R348). Log entry 76. -/
def onlySup (op : Nat) (c : Ctx) : Option Trap := if c.sup then none else some { code := 0x71, tval := nw op }
def onlyUser (op : Nat) (c : Ctx) : Option Trap := if c.sup then some { code := 0x71, tval := nw op } else none

/-- A tagged producer of s[a] from the state at its issue (R112). -/
def tagged (m a : Nat) (v : At → State → Word) : SlotSem :=
  { lat := .prod m, eff := fun p s => produce p (.prod m) ((p.ctx s).dstS a) ((v p s).setWidth 512) s }

/-- `end` (R48): the open region closes, and the context waits in Ending at this bundle. -/
def endContext (s : State) (core slot : Nat) : State :=
  afterOp (s.updCtx core slot (fun c => { c.closeRegion with st := .ending })) core slot

/-- R174, R183: s[A] := the register, L = 1; an access of sr.idat steps the index. -/
def semMfsr (o : SI) : SlotSem :=
  { lat := .fixed 1,
    chk := fun p s => mfsrErr o s p.core p.slot,
    eff := fun p s => produce p (.fixed 1) ((p.ctx s).dstS o.a) ((srValue s p.core p.slot (srCode o)).setWidth 512) s,
    fin := fun p s => if srCode o = 0x021 then s.updCtx p.core p.slot Ctx.stepIndex else s }

/-- mfsr issues alone in its bundle (R108). -/
def execMfsr (h : Head) (o : SI) (s : State) : Host.Outcome State Fault Refusal :=
  .next (issueOne (.mfsr h o) (semMfsr o) s)

/-- R174, R181, R183: the register := s[A], for the bundle after this one. -/
def semMtsr (o : SI) : SlotSem :=
  { chk := fun p s => mtsrErr o s p.core p.slot,
    fin := fun p s => srWrite s p.core p.slot (srCode o) ((p.ctx s).getS o.a) }

/-- mtsr issues alone in its bundle (R108). -/
def execMtsr (h : Head) (o : SI) (s : State) : Host.Outcome State Fault Refusal :=
  .next (issueOne (.mtsr h o) (semMtsr o) s)

/-- R185: TRAP_INSN after its bundle. Log entry 59. -/
def semTrap (o : SI) : SlotSem :=
  { fin := fun p s =>
      let k := s.core p.core
      let c := p.ctx s
      raise (s.updCore p.core (fun k => { k with nextId := k.nextId + 1 })) p.core p.slot { code := 0x70, async := false, sup := c.sup, tval := nw (bits o.imm 0 16), tinst := p.hdr, slot := 7, k := 0, seq := p.seq, id := k.nextId, tag := 0 } }

/-- trap issues alone in its bundle (R108). -/
def execTrap (h : Head) (o : SI) (s : State) : Host.Outcome State Fault Refusal :=
  .next (issueOne (.trap h o) (semTrap o) s)

/-- R186: the return from a trap. -/
def semEret (_ : SR) : SlotSem :=
  { chk := fun p s => onlySup 0x103 (p.ctx s), fin := fun p s => returnFromTrap s p.core p.slot p.seq }

/-- eret issues alone in its bundle (R108). -/
def execEret (h : Head) (o : SR) (s : State) : Host.Outcome State Fault Refusal :=
  .next (issueOne (.eret h o) (semEret o) s)

/-- R54, R373: the context leaves its slot once its outbound threads complete. -/
def semCtxout (_ : SR) : SlotSem :=
  { chk := fun p s => onlySup 0x104 (p.ctx s),
    hold := fun p s => inboundOf s p.core p.slot != 0,
    fin := fun p s => ctxoutRelease (s.updCtx p.core p.slot (fun c => { c with wait := .ctxout })) p.core p.slot }

/-- ctxout issues alone in its bundle (R108). -/
def execCtxout (h : Head) (o : SR) (s : State) : Host.Outcome State Fault Refusal :=
  .next (issueOne (.ctxout h o) (semCtxout o) s)

/-- R48, R307: the context ends; its region closes, held while an earlier window runs. -/
def semEndc (_ : SR) : SlotSem :=
  { chk := fun p s => onlyUser 0x105 (p.ctx s),
    hold := fun p s => (p.ctx s).win,
    goes := fun p _ => some p.hdr,
    fin := fun p s => endContext s p.core p.slot }

/-- endc issues alone in its bundle (R108). -/
def execEndc (h : Head) (o : SR) (s : State) : Host.Outcome State Fault Refusal :=
  .next (issueOne (.endc h o) (semEndc o) s)

/-- R183: device time. -/
def semRdtime (o : SR) : SlotSem :=
  tagged 8 o.a (fun _ s => nw s.now)

/-- rdtime issues alone in its bundle (R108). -/
def execRdtime (h : Head) (o : SR) (s : State) : Host.Outcome State Fault Refusal :=
  .next (issueOne (.rdtime h o) (semRdtime o) s)

/-- Cycles have passed on a core since its count was last looked at: one or more, by a free value (log
entry 10). -/
def passCycles (s : State) (core : Nat) : State :=
  (s.updCore core (fun k => { k with cyc := k.cyc + 1 + Config.cycles core s.fresh })).draw

/-- R183: the core's cycle count. -/
def semRdcyc (o : SR) : SlotSem :=
  { lat := .prod 8,
    eff := fun p s =>
      let s := passCycles s p.core
      produce p (.prod 8) ((p.ctx s).dstS o.a) ((nw (s.core p.core).cyc).setWidth 512) s }

/-- rdcyc issues alone in its bundle (R108). -/
def execRdcyc (h : Head) (o : SR) (s : State) : Host.Outcome State Fault Refusal :=
  .next (issueOne (.rdcyc h o) (semRdcyc o) s)

end Sys2Proof.Machine
end

