-- ==== Sys2Proof/Machine/Governor.lean ====
section
/-!
DEFINITION. Sys2Proof/Machine/Governor.lean: the energy governor (R292 to R306, R395 to R399), wear (R312,
R313, R400), calibration (R306, R394), droop and silent errors (R305, R311, R392, R393).
-/
namespace Sys2Proof.Machine

/-! ## Contracts (R293, R297, R395) -/

/-- Eighths of a grain as grains, rounded up. -/
def ceil8 (n : Nat) : Nat := (n + 7) / 8

/-- BASESUM: the islands' base parts (R294, R395). -/
def baseSum (s : State) : Nat := (allIslands.map (fun i => ceil8 (s.island i).base)).foldl (· + ·) 0

/-- Grains in a power of n/8 W: floor(n / 8 / 1.6). -/
def grainsOf (n : Nat) : Nat := 10 * n / 128

def State.tj (s : State) : Nat := fld s.pkgcon 32 8

/-- A partition has cores (R396). -/
def hasCores (s : State) (p : Nat) : Bool := !(partCores s p).isEmpty

/-- Post to every partition that has cores. Log entry 92. -/
def postAll (s : State) (code : Nat) : State := (allParts.filter (hasCores s)).foldl (fun s p => s.postE p code) s

/-- A context is resident on an island. -/
def islandBusy (s : State) (i : Nat) : Bool := (s.coresOf i).any (fun c => !(s.core c).resident.isEmpty)

/-- Post an event that names an island to each partition with cores or resident contexts there (R299, R355). -/
def postIsland (s : State) (i code : Nat) : State :=
  let here (p : Nat) : Bool :=
    (partCores s p).any (fun c => s.islandOf c == i) ||
    (s.coresOf i).any (fun c => (s.core c).resident.any (fun x => (s.ctx c x).part == p))
  (allParts.filter here).foldl (fun s p => s.postE p code (island := i) (die := i / 12)) s

/-- Bp after `n` lowering steps from a contract value, down to the base part. Log entry 91. -/
def bpAfter (s : State) (n : Nat) : Nat :=
  let c := grainsOf (fld s.pkgcon 0 16)
  max (min c (baseSum s)) (c - n * (c / 8))

/-- Sensors are read; Bp is lowered or restored by one step for temperature and peak draw (R297, R395). -/
def setBp (s : State) : State :=
  let s := allIslands.foldl (fun s i => s.updIsland i (fun x => { x with temp := Config.sensor i s.fresh % 256 })) s
  let draw := Config.draw10ms s.fresh
  let top := fld s.pkgcon 16 16
  let hot := allIslands.any (fun i => decide (s.tj ≤ (s.island i).temp + 5))
  let cool := allIslands.all (fun i => decide ((s.island i).temp + 10 < s.tj))
  let peak := decide (98 * top < 100 * draw)
  let calm := decide (100 * draw < 90 * top)
  let thlim := hot || (s.thlim && !cool)
  let peaklim := peak || (s.peaklim && !calm)
  let n := s.bpSteps
  let lower := (hot || peak) && decide (bpAfter s (n + 1) < bpAfter s n)
  let n' := if lower then n + 1 else if thlim || peaklim then n else n - 1
  let s := { s with thlim := thlim, peaklim := peaklim, bpSteps := n', bp := bpAfter s n' }
  if lower then postAll (s.postF 0x66) 0x66 else s

/-- A trip begins on each die whose hottest sensor reads TJ, and ends once every island is below TJ − 10
(R398). -/
def setTrip (s : State) : State :=
  if allIslands.all (fun i => decide ((s.island i).temp + 10 < s.tj)) then { s with trip := none, tripDies := [] }
  else [0, 1, 2, 3].foldl (fun s d =>
    if !s.tripDies.contains d && (span (12 * d) 12).any (fun i => decide (s.tj ≤ (s.island i).temp)) then
      ({ s with trip := some (s.trip.getD s.now), tripDies := s.tripDies ++ [d] }).postF 0x67 (die := d)
    else s) s

/-- An island of a die on which a trip is in force. -/
def tripped (s : State) (i : Nat) : Bool := s.tripDies.contains (i / 12)

/-! ## Floors (R396) -/

/-- FLOOR of a partition that has cores. -/
def floorOf (s : State) (p : Nat) : Nat := if hasCores s p then fld (s.part p).partcon 16 10 else 0

/-- F(p) of every partition. Log entry 93. -/
def scaledFloors (s : State) : List Nat :=
  let av := s.bp - baseSum s
  let fs := (allParts.map (floorOf s)).foldl (· + ·) 0
  if fs ≤ av then allParts.map (fun p => fld (s.part p).partcon 16 10)
  else
    let f := allParts.map (fun p => floorOf s p * av / fs)
    (allParts.foldl (fun (r : List Nat × Nat) p =>
      if decide (0 < floorOf s p) && decide (0 < r.2) then (r.1 ++ [f.getD p 0 + 1], r.2 - 1) else (r.1 ++ [f.getD p 0], r.2))
      ([], av - f.foldl (· + ·) 0)).1

/-- Once per 1 ms: none before, or long enough ago. -/
def msOver (now : Nat) (at' : Option Nat) : Bool :=
  match at' with
  | some t => decide (t + 1000000 ≤ now)
  | none => true

/-- FLOORS_SCALED goes to each partition whose F(p) has changed, and to the package queue; PARTSTAT is
updated (R395, R396). -/
def setFloors (s : State) (f : List Nat) (infeas : Bool) : State :=
  let moved := allParts.filter (fun p => f.getD p 0 % 1024 != fld (s.part p).partstat 0 10)
  let s := moved.foldl (fun s p =>
    if msOver s.now (s.part p).scaledAt then (s.postE p 0x65).updPart p (fun x => { x with scaledAt := some s.now }) else s) s
  let s := if !moved.isEmpty && msOver s.now s.floorsAt then { s.postF 0x65 with floorsAt := some s.now } else s
  allParts.foldl (fun s p => s.updPart p (fun x =>
    { x with partstat := BitVec.ofNat 64 (f.getD p 0 % 1024 + oneIf (decide (f.getD p 0 < fld x.partcon 16 10)) * 2 ^ 10 + oneIf infeas * 2 ^ 11) })) s

/-! ## Grants (R294) -/

/-- n_p(i) for every island. -/
def coresOn (s : State) (p : Nat) : List Nat :=
  let l := (partCores s p).map s.islandOf
  allIslands.map (fun i => (l.filter (· == i)).length)

/-- One partition's floor: F grains over its islands. -/
def giveFloor (n : List Nat) (f : Nat) (g : List Nat) : List Nat :=
  let all := n.foldl (· + ·) 0
  if all = 0 then g
  else
    let part := n.map (fun x => f * x / all)
    ((n.zip (part.zip g)).foldl (fun (r : List Nat × Nat) x =>
      if decide (0 < x.1) && decide (0 < r.2) then (r.1 ++ [x.2.2 + x.2.1 + 1], r.2 - 1) else (r.1 ++ [x.2.2 + x.2.1], r.2))
      ([], f - part.foldl (· + ·) 0)).1

/-- The surplus loop's state: grants, surplus, grains of each partition, the partition served last. -/
structure Share where
  g : List Nat
  left : Nat
  given : List Nat
  last : Nat

/-- D(i) − G(i) of an island that qualifies, else 0. -/
def want (d : List Nat) (g : List Nat) (i : Nat) : Nat :=
  if g.getD i 0 < 24 then d.getD i 0 - g.getD i 0 else 0

/-- One grain to a partition's island with the largest want. -/
def serveOne (d : List Nat) (n : List (List Nat)) (cap : List Nat) (r : Share) (p : Nat) : Share :=
  if r.left = 0 ∨ cap.getD p 0 ≤ r.given.getD p 0 then r
  else
    let mine := allIslands.filter (fun i => decide (0 < (n.getD p []).getD i 0) && decide (0 < want d r.g i))
    match mine.foldl (fun (b : Option Nat) i =>
      match b with
      | none => some i
      | some j => if want d r.g j < want d r.g i then some i else b) none with
    | none => r
    | some i => { g := r.g.set i (r.g.getD i 0 + 1), left := r.left - 1, given := r.given.set p (r.given.getD p 0 + 1), last := p }

/-- Rounds of the surplus until none is left or a round gives none. -/
def serveAll (d : List Nat) (n : List (List Nat)) (cap : List Nat) : Nat → Share → Share
  | 0, r => r
  | k + 1, r =>
    let r' := (allParts.map (fun j => (r.last + 1 + j) % 8)).foldl (serveOne d n cap) r
    if r'.left = r.left then r else serveAll d n cap k r'

/-- GRANT_next of every island, and the partition served last. -/
def grants (s : State) (f : List Nat) : List Nat × Nat :=
  let base := allIslands.map (fun i => ceil8 (s.island i).base)
  if s.bp < baseSum s then (allIslands.map (fun _ => 0), s.lastServed)
  else
    let n := allParts.map (coresOn s)
    let g := allParts.foldl (fun g p => giveFloor (n.getD p []) (f.getD p 0) g) base
    let d := allIslands.map (fun i => max (ceil8 (s.island i).u) (ceil8 (s.island i).held))
    let cap := allParts.map (fun p => grainsOf (fld (s.part p).partcon 0 16))
    let given := allParts.map (fun p => if (n.getD p []).any (· != 0) then f.getD p 0 else 0)
    let r := serveAll d n cap s.bp { g := g, left := s.bp - g.foldl (· + ·) 0, given := given, last := s.lastServed }
    (r.g.map (fun x => min x 24), r.last)

/-! ## Metering and balances (R292, R293, R296) -/

/-- U(i) of the interval just ended: activity, LPDDR-6 traffic and the base charge. -/
def meterIsland (s : State) (i : Nat) : State :=
  s.updIsland i (fun x => { x with u := x.uAcc + x.base + Config.metered i x.coeff s.fresh, uAcc := 0 })

/-- A value held between bounds. -/
def clamp (x lo hi : Int) : Int := max lo (min x hi)

/-- The balance takes the grant of the interval and gives its usage. Log entry 89. -/
def balanceIsland (s : State) (i : Nat) : State :=
  s.updIsland i (fun x => { x with bal := clamp (x.bal + 8 * x.grant - x.u) (-32768) (32 * x.grant) })

/-- Each resident context is charged its own activity (R296). -/
def chargeCtxs (s : State) (core : Nat) : State := (s.core core).resident.foldl (fun s i => chargeCtx s core i) s

/-- STALL of a core for the interval just ended (R302); at retention its clock has stopped (R25, R174). -/
def stallCore (s : State) (core : Nat) : State :=
  let asleep := (s.island (s.islandOf core)).retention
  let s := s.updCore core (fun k => { k with cyc := if asleep then k.cyc else k.cyc + 1 + Config.cycles core s.fresh })
  s.updCore core (fun k =>
    let n := (k.cyc - k.cycAt) % 2 ^ 24
    { k with cycAt := k.cyc, stallCyc := n, mstall := Config.stalls core s.fresh % (n + 1) })

/-! ## Warnings and throttle (R298 to R301, R397, R398) -/

/-- A warning at close `m`. -/
def warnIsland (s : State) (i m : Nat) : State :=
  if (s.island i).warn then s
  else postIsland (s.updIsland i (fun x => { x with warn := true, warnAt := m })) i 0x60

/-- A throttle level; each rise posts THROTTLE. -/
def setLevel (s : State) (i l : Nat) : State :=
  let up := decide ((s.island i).level < l)
  let s := s.updIsland i (fun x => { x with level := l })
  if up then postIsland s i 0x61 else s

/-- R300 and R301 at close `m`. Log entry 90. -/
def throttleIsland (s : State) (i m : Nat) : State :=
  let x := s.island i
  let proj : Int := x.bal + 2 * (8 * (x.grant : Int) - x.u)
  let s := if proj < 0 then warnIsland s i m
    else if x.level = 0 then s.updIsland i (fun x => { x with warn := false }) else s
  let x := s.island i
  if x.warn && decide (x.warnAt + 2 ≤ m) && decide (x.bal < 0) then setLevel s i (min 4 (x.level + 1))
  else if x.bal ≥ 0 then setLevel s i (x.level - 1)
  else s

/-- Throttling under a cap below the idle floor or a trip (R397, R398): `was` at the last close, `now'` at this
one. `capIn` counts the closes since entry up to 3, and is 4 while the level falls again, also on an island that was
idle at entry. -/
def limitIsland (s : State) (i m : Nat) (was now' : Bool) : State :=
  let x := s.island i
  if now' then
    if was = false then
      if islandBusy s i then warnIsland (s.updIsland i (fun x => { x with capIn := 1 })) i m else s
    else if x.capIn = 1 then s.updIsland i (fun x => { x with capIn := 2 })
    else if x.capIn = 2 then setLevel (s.updIsland i (fun x => { x with capIn := 3 })) i 4
    else s
  else if x.capIn = 0 ∧ ¬(was ∧ 0 < x.level) then throttleIsland s i m
  else
    let s := setLevel s i (x.level - 1)
    s.updIsland i (fun x => { x with capIn := if x.level = 0 then 0 else 4 })

/-! ## Voltage (R302 to R304, R306, R398, R400) -/

/-- STEP of an island at a time: the step is on its way, or was over less than 0.1 µs ago. -/
def Island.stepping (x : Island) (now : Nat) : Bool := x.stepTo.isSome || decide (now < x.stepEnd)

/-- A step whose time has come reaches its target; STEP clears 0.1 µs later. -/
def reachStep (s : State) (i : Nat) : State :=
  let x := s.island i
  match x.stepTo with
  | some v =>
    if x.stepEnd ≤ s.now then
      s.updIsland i (fun x => { x with vset := v, trim := Config.trimOf i v % 16, stepTo := none, stepEnd := x.stepEnd + 100 })
    else s
  | none => s

/-- A Ready or Waiting context stands on the island (R303). -/
def islandLive (s : State) (i : Nat) : Bool :=
  (s.coresOf i).any (fun c => (s.core c).resident.any (fun j => (s.ctx c j).st == .ready || (s.ctx c j).st == .waiting))

/-- The request of an island (R303), which may lie below setting 0. -/
def dvfsRequest (s : State) (i : Nat) : Option Int :=
  let x := s.island i
  if islandLive s i = false then none
  else if x.mode = 1 then (if x.vtgt = x.vset then none else some x.vtgt)
  else
    let cores := s.coresOf i
    let c := (cores.map (fun c => (s.core c).stallCyc)).foldl (· + ·) 0
    let m := (cores.map (fun c => (s.core c).mstall)).foldl (· + ·) 0
    if c = 0 then none
    else if c ≤ 2 * m then some ((x.vset : Int) - 5)
    else if 8 * m ≤ c ∧ x.warn = false then some ((x.vset : Int) + 5)
    else none

/-- A request is judged (R303). -/
def judgeRequest (s : State) (i : Nat) (r : Int) : State :=
  let x := s.island i
  if r < (x.vfloor : Int) then
    if x.vfloor < x.vset then startStep s i x.vfloor
    else postIsland (s.updIsland i (fun x => { x with denied := true })) i 0x62
  else startStep s i (min r.toNat x.vmax)

/-- DVFS at a close: none while STEP is set or test strips hold the voltage; a trip ends strips and steps to VFLOOR;
a floor above VSET or a VMAX below it forces a step; else the island's own request. -/
def dvfsIsland (s : State) (i : Nat) : State :=
  let s := if tripped s i then abortStrips s i else s
  let x := s.island i
  if x.strips.isSome || x.stepping s.now then s
  else if tripped s i then startStep s i x.vfloor
  else if x.vset < min x.vfloor x.vmax then startStep s i (min x.vfloor x.vmax)
  else if x.vmax < x.vset then startStep s i x.vmax
  else match dvfsRequest s i with
    | some r => judgeRequest s i r
    | none => s

/-! ## Retention (R295, R389) -/

/-- A reserved rectangle covers a core of the island. -/
def islandReserved (s : State) (i : Nat) : Bool :=
  allParts.any (fun p => match reserved s p with
    | some (_, l) => l.any (fun c => s.islandOf c == i)
    | none => false)

/-- Before its clock stops a core gives up its partials and its L1 (R389). -/
def sleepCore (s : State) (core : Nat) : State :=
  emptyL1 ((s.core core).part.foldl (fun s e => combineFor s e.die e.addr 1) s) core

/-- An island is judged at a close; test strips keep it from retention. -/
def retainIsland (s : State) (i : Nat) : State :=
  let x := s.island i
  if islandBusy s i || islandReserved s i || x.strips.isSome then s.updIsland i (fun x => { x with idleSince := s.now })
  else if !x.retention && decide (x.idleSince + 100000 ≤ s.now) then
    ((s.coresOf i).foldl sleepCore s).updIsland i (fun x => { x with retention := true, waking := false })
  else s

/-! ## Wear (R312, R313, R400) -/

/-- The logical core that a physical core stands behind. -/
def State.logicalOf (s : State) (p : Nat) : Option Nat :=
  ((List.range 8).map (logicalAt (p / 72) (p % 8))).find? (fun c => !s.isHole c && s.phys c == p)

/-- A core's wear of one interval joins its record and is split among its contexts by their issues. -/
def wearCore (s : State) (core : Nat) : State :=
  let p := s.phys core
  let w := Config.wearOf p s.fresh
  let mon := Config.monitor p s.fresh
  let s := s.updWear p (fun x => { x with wear := x.wear + w, monDerate := x.monDerate || mon == 1, monRetire := x.monRetire || mon == 2 })
  let k := s.core core
  let all := (k.resident.map (fun i => (k.slot i).issIval)).foldl (· + ·) 0
  k.resident.foldl (fun s i => s.updCtx core i (fun c =>
    { c with cwear := c.cwear + (if all = 0 then 0 else w * c.issIval / all), issIval := 0 })) s

/-- Enter a state: it is set and its event posted. Log entry 95. -/
def enterWear (s : State) (p st code : Nat) : State :=
  postCore (s.updWear p (fun x => { x with cstate := st })) code p ((s.logicalOf p).getD 0x1FF)

/-- Derating (R313, R400): a floor above 60 retires the core instead. -/
def derate (s : State) (p : Nat) : State :=
  let s := enterWear s p 1 0x68
  let i := islandOfPhys p
  if 60 < (s.island i).vfloor then s.updWear p (fun x => { x with monRetire := true })
  else s.updIsland i (fun x => { x with vmax := min 60 x.vmax })

/-- A retired core that stands behind a position asks for its column's quiesce point (R19, R291). -/
def askColumn (s : State) (w : QuiWork) (die col : Nat) : State :=
  if s.quiesce.any (fun q => q.work == w) then s
  else
    let q : Quiesce := { cores := columnCores s die col, since := s.now, work := w }
    { s with quiesce := s.quiesce ++ [q] }

/-- The physical core is the spare of its column. -/
def State.isSpare (s : State) (p : Nat) : Bool := (s.remapOf (p / 72) (p % 8)).spare == p % 72 / 8

/-- A physical core passes through the states of R313 as far as its wear and monitors say. A retired core leaves its
position, or its column's SPARE (R18, R19), at a quiesce point. -/
def wearStates (s : State) (p : Nat) : State :=
  let life := s.life p
  let w := s.wearOf p
  let s := if w.cstate = 0 ∧ (85 ≤ life ∨ w.monDerate) then derate s p else s
  let s := if (s.wearOf p).cstate < 2 ∧ 95 ≤ life then enterWear s p 2 0x69 else s
  let w := s.wearOf p
  let s := if w.cstate < 3 ∧ (100 ≤ life ∨ w.monRetire) then enterWear s p 3 0x6A else s
  if (s.wearOf p).cstate ≠ 3 then s
  else if (s.logicalOf p).isSome then askColumn s (.column (p / 72) (p % 8)) (p / 72) (p % 8)
  else if s.isSpare p then askColumn s (.spare (p / 72) (p % 8)) (p / 72) (p % 8)
  else s

/-! ## The close (R292) -/

/-- The cores in use. -/
def coresInUse (s : State) : List Nat := (List.range 256).filter (fun c => !s.isHole c)

/-- PWRSTAT (R395). -/
def setPwrstat (s : State) (scaled : Bool) : State :=
  { s with pwrstat := BitVec.ofNat 64 (oneIf s.infeas + oneIf scaled * 2 + oneIf (s.bpSteps != 0) * 4 + oneIf s.trip.isSome * 8 + oneIf (s.peaklim && s.bpSteps != 0) * 16 + s.bp % 1024 * 2 ^ 8 + baseSum s % 1024 * 2 ^ 18) }

/-- What `bq` tells of an island until the next close: BAL, GRANT, WARN and THROT (R269). -/
def tellIsland (x : Island) : Island :=
  { x with told := (x.bal % 65536).toNat + x.grant % 32 * 2 ^ 16 + oneIf x.warn * 2 ^ 21 + oneIf x.throt * 2 ^ 22 }

/-- The governor's own steps at close `m`: metering, balances, grants, throttle, DVFS, commitments. -/
def govern (s : State) (m : Nat) : State :=
  let was := s.infeas
  let tripWas := s.tripDies
  let s := setTrip (setBp s)
  let infeas := decide (s.bp < baseSum s)
  let s := { s with infeas := infeas }
  let s := if infeas && !was then postAll (s.postF 0x63) 0x63 else s
  let s := allIslands.foldl meterIsland s
  let s := if infeas then s else allIslands.foldl balanceIsland s
  let f := scaledFloors s
  let s := setFloors s f infeas
  let g := grants s f
  let s := { s with lastServed := g.2 }
  let s := allIslands.foldl (fun s i => s.updIsland i (fun x => { x with grant := if tripped s i then 0 else g.1.getD i 0 })) s
  let s := allIslands.foldl (fun s i => limitIsland s i m (was || tripWas.contains (i / 12)) (infeas || tripped s i)) s
  let s := allIslands.foldl dvfsIsland s
  let s := allIslands.foldl (fun s i => s.updIsland i (fun x => tellIsland { x with commit := 0, throt := decide (0 < x.level) || x.droop })) s
  setPwrstat s (allParts.any (fun p => fld (s.part p).partstat 10 1 == 1))

/-- One interval closes. -/
def closeInterval (s : State) : State :=
  let m := s.intv + 1
  let s := allIslands.foldl reachStep s
  let s := (coresInUse s).foldl (fun s c => chargeCtxs (stallCore s c) c) s
  let s := govern s m
  let s := allIslands.foldl retainIsland s
  let s := (coresInUse s).foldl wearCore s
  let s := (List.range 288).foldl wearStates s
  let s := { s with active := s.active + (if allIslands.all (fun i => (s.island i).retention) then 0 else 10000) }
  let s := allParts.foldl (fun s p => readRing s p none) s
  ({ s with intv := m, nextClose := s.nextClose + 10000, passDue := true }).draw

/-- GOVERNOR_INTERVAL_CLOSE (R292). -/
def execGovernorIntervalClose (s : State) : Host.Outcome State Fault Refusal :=
  .next (if s.power = .on ∨ s.power = .entering then closeInterval s else s)

/-- VOLTAGE_STEP_REACHED (R304). -/
def execVoltageStepReached (island : Nat) (s : State) : Host.Outcome State Fault Refusal :=
  .next (reachStep s island)

/-- METER_CORRECTION (R296): the coefficients, which are not architectural, take what the sensor gives. -/
def execMeterCorrection (island coeff : Nat) (s : State) : Host.Outcome State Fault Refusal :=
  .next (s.updIsland island (fun x => { x with coeff := coeff }))

/-! ## Droop and silent errors (R305, R311, R392, R393) -/

/-- DROOP_STRETCH (R305). -/
def execDroopStretch (island : Nat) (s : State) : Host.Outcome State Fault Refusal :=
  .next (s.updIsland island (fun x => { x with droop := true }))

/-- DROOP_RECOVERY (R305). -/
def execDroopRecovery (island : Nat) (s : State) : Host.Outcome State Fault Refusal :=
  .next (s.updIsland island (fun x => { x with droop := false }))

/-- SUSPECT_DROOP (R311): a region of every context on the island is fogged. -/
def execSuspectDroop (island : Nat) (s : State) : Host.Outcome State Fault Refusal :=
  .next ((s.coresOf island).foldl (fun s c => (s.core c).resident.foldl (fun s i => fogCtx s c i false) s) s)

/-- SILENT_ERROR (R311, R393): a region of the context is fogged. In a released operation, and in supervisor
mode, the row is run again, and its results are committed only then. Where the context has operations of both
kinds in flight, a free value says in which the error was (log entry 2). -/
def execSilentError (core slot : Nat) (s : State) : Host.Outcome State Fault Refusal :=
  .next (let released := (s.core core).ops.any (fun o => o.slot == slot && !o.gated && isGated o.ins)
    if released && Config.pick s.fresh % 2 == 1 then s.draw else fogCtx s.draw core slot true)

/-! ## Calibration (R306, R394) -/

/-- An island that may be given to test strips: idle under R295 for 50 ms. -/
def stripsMayRun (s : State) (i : Nat) : Bool :=
  !islandBusy s i && !islandReserved s i && decide ((s.island i).idleSince + 50000000 ≤ s.now) &&
  !((s.island i).waking)

/-- The physical spares of an island that stand ready in their columns. -/
def sparesOf (s : State) (i : Nat) : List Nat :=
  (List.range 288).filter (fun p => islandOfPhys p == i && s.isSpare p)

/-- CALIB_FAIL of an island. -/
def calibFail (s : State) (i : Nat) : State := s.postF 0x6C (island := i) (die := i / 12)

/-- A spare that failed its pattern is to leave its column (R394). Log entry 96. -/
def failSpare (s : State) (p : Nat) : State := askColumn s (.spare (p / 72) (p % 8)) (p / 72) (p % 8)

/-- The physical cores that strips of an island test: those in use, and the spares. -/
def stripCores (s : State) (i : Nat) : List Nat := (s.coresOf i).map s.phys ++ sparesOf s i

/-- Strips go to a setting: its patterns run for 100 µs once the voltage stands there. -/
def stripSetting (s : State) (i v : Nat) (atTop : Bool) (gone : List Nat) : State :=
  let s := startStep (s.updIsland i (fun x => { x with stepTo := none })) i v
  s.updIsland i (fun x => { x with strips := some { cur := v, due := (if x.stepTo.isSome then x.stepEnd else s.now) + 100000, atTop := atTop, gone := gone } })

/-- Strips begin (R306): the island leaves retention and goes to VFLOOR + 10, at most VMAX. Log entry 72. -/
def startStrips (s : State) (i : Nat) : State :=
  let x := s.island i
  let top := min x.vmax (x.vfloor + 10)
  stripSetting (s.updIsland i (fun x => { x with retention := false })) i top (top == x.vmax) []

/-- Strips end with a failure point, or with none: the new floor (R306), and CALIB_FAIL where the failure point has
risen by more than 4 (R394). -/
def endStrips (s : State) (i : Nat) (fp : Option Nat) : State :=
  let s := match fp, (s.island i).calFail with
    | some v, some old => if old + 4 < v then calibFail s i else s
    | _, _ => s
  s.updIsland i (fun x => { x with strips := none, vfloor := fp.elim 0 (· + 5), calFail := some (fp.getD 0), calAt := s.active, overdue := false, idleSince := s.now })

/-- Cores that cannot set the floor leave the test: those in use take the monitor retire threshold (R394). -/
def dropFailing (s : State) (l : List Nat) : State :=
  l.foldl (fun s p => if s.isSpare p then s else s.updWear p (fun w => { w with monRetire := true })) s

/-- The patterns at one setting are done, and the cores of `bad` failed (R306, R394): a failing spare is to leave its
column. At the first setting the strips start again at VMAX; at VMAX, and where the floor would exceed VMAX, the cores
that fail leave the test, which goes on with the others; elsewhere this setting is the failure point. -/
def stripResult (s : State) (i : Nat) (t : Strips) (bad : List Nat) : State :=
  let x := s.island i
  let s := (bad.filter s.isSpare).foldl failSpare s
  let next (s : State) (gone : List Nat) : State :=
    if t.cur = 0 || (stripCores s i).all gone.contains then endStrips s i none else stripSetting s i (t.cur - 1) true gone
  if bad = [] then next s t.gone
  else if t.atTop = false then stripSetting (calibFail s i) i x.vmax true t.gone
  else if x.vmax < t.cur + 5 then next (dropFailing (calibFail s i) bad) (t.gone ++ bad)
  else endStrips s i (some t.cur)

/-- The patterns of the setting in hand are done, and the spares' wear grows by what they ran (R400). -/
def stepStrips (s : State) (i : Nat) (t : Strips) (fails : List Nat) : State :=
  let s := reachStep s i
  let s := (sparesOf s i).foldl (fun s p => s.updWear p (fun w => { w with wear := w.wear + Config.wearOf p s.fresh })) s.draw
  stripResult s i t ((stripCores s i).filter (fun p => fails.contains p && !t.gone.contains p))

/-- TEST_STRIPS (R306): strips begin on an idle island, not on one whose cores and spares are all retired (R394); where
they run, the setting in hand is done once its time has come. `fails` names the physical cores that fail there. -/
def execTestStrips (island : Nat) (fails : List Nat) (s : State) : Host.Outcome State Fault Refusal :=
  .next (match (s.island island).strips with
    | some t => if t.due ≤ s.now then stepStrips s island t fails else s
    | none =>
      if stripsMayRun s island && (stripCores s island).any (fun p => (s.wearOf p).cstate != 3) then startStrips s island else s)

/-- CALIBRATION_OVERDUE (R394): 8 h of Active time since the last calibration. Log entry 97. -/
def execCalibrationOverdue (island : Nat) (s : State) : Host.Outcome State Fault Refusal :=
  .next (let x := s.island island
    if !x.overdue && decide (x.calAt + 28800000000000 ≤ s.active) then
      calibFail (s.updIsland island (fun x => { x with overdue := true, vfloor := min x.vmax (x.vfloor + 2) })) island
    else s)

end Sys2Proof.Machine
end

