-- ==== Sys2Proof/Machine/Agenda.lean ====
section
/-!
DEFINITION. Sys2Proof/Machine/Agenda.lean: which step comes next (log entries 2 and 3): the head of the
agenda, else one that the state enables, chosen by a free value; and how a program is placed where the next
step fetches (log entry 1).
-/
namespace Sys2Proof.Machine

/-! ## Steps that a state enables -/

/-- Steps of one context: its trap entry, answers to its accesses, its landings, its window's end. -/
def ctxSteps (s : State) (core slot : Nat) : List Instr :=
  let c := s.ctx core slot
  (if trapDue c && !canIssue c then [.trapEntry core slot] else []) ++
  c.accs.flatMap (fun a =>
    if a.flush then [.cacheFlushComplete core slot a.id]
    else if a.pcie then [.pcieCompletion core slot a.id true (Config.pcieData s.fresh), .pcieCompletion core slot a.id false 0, .pcieDmaTimeout core slot a.id]
    else [.scalarAccessResponse core slot a.id]) ++
  (if c.a.claims.any (fun x => x.valid && x.served) && (c.st == .ending || c.st == .waiting) then [.nextLanding core slot] else []) ++
  (if c.a.claims.any (fun x => x.valid && !x.served) then [.rangeClaim] else []) ++
  (if c.win || !c.gatedItems.isEmpty then [.droopWindowEnd core slot] else [])

/-- Steps of one engine operation. -/
def opSteps (core : Nat) (o : EOp) : List Instr :=
  if o.gated || o.held then []
  else if o.stopping then [.engineOpStop core o.id]
  else if o.copy then [.copyComplete core o.id o.nrows, .copyRowFault core o.id, .pcieCompletion core o.slot o.id false 0, .pcieDmaTimeout core o.slot o.id] ++
    (if o.nrows = 0 then [] else [.copyComplete core o.id 0]) ++ (if o.outSource.isSome && !o.srcDone then [.copyLastRowRead core o.id] else [])
  else [.engineOpComplete core o.id o.nrows] ++ (if o.nrows = 0 then [] else [.engineOpComplete core o.id 0])

/-- Steps of one core. -/
def coreSteps (s : State) (core : Nat) : List Instr :=
  let k := s.core core
  (if k.resident.any (fun i => canIssue (k.slot i)) then [.bundleIssue core] else []) ++
  k.resident.flatMap (ctxSteps s core) ++ k.ops.flatMap (opSteps core) ++
  (if k.victim.isEmpty then [] else [.writeBackGrant core])

/-- Steps of the package's other agents. -/
def packageSteps (s : State) : List Instr :=
  (if s.arrs.isEmpty then [] else [.barrierArrival]) ++
  (if s.rels.isEmpty then [] else [.barrierReleaseMessage]) ++
  (if s.answers.isEmpty then [] else [.barrierInitAnswer]) ++
  (if s.flights.isEmpty then [] else [.messageDelivery]) ++
  (if s.enqs.isEmpty then [] else [.enqtResult]) ++
  (s.enqs.filter (fun e => e.pcie == 1)).flatMap (fun e => [.pcieCompletion e.core e.slot e.id true 0, .pcieCompletion e.core e.slot e.id false 0, .pcieDmaTimeout e.core e.slot e.id]) ++
  (if s.passDue then [.dispatcherPass] else []) ++
  (if s.teams.isEmpty then [] else [.teamLoaded, .teamComplete]) ++
  (if s.quiesce.isEmpty then [] else [.quiescePoint, .quiesceLimitExpiry]) ++
  (if s.parts.any (fun p => p.2.qs.any (fun q => !q.2.waiting.isEmpty)) then [.acceptanceEntryWrite, .completionEntryWrite] else []) ++
  ([0, 1, 2, 3].filter (fun d => !(s.die d).ingress.isEmpty)).map (fun d => .ingressTimeout d) ++
  (if s.dies.any (fun d => !d.2.notif.isEmpty) then [.notificationQueueRead] else [])

/-- A time, if any, is so long ago. -/
def longAgo (s : State) (t : Option Nat) (n : Nat) : Bool := t.any (fun x => decide (x + n ≤ s.now))

/-- The object command in progress of a partition. -/
def commandStep (p : Nat) (x : Part) : List Instr :=
  if x.objbusy = false then [] else
  match fld (x.objrun.get 0 0) 0 4 with
  | 1 => [.install p none]
  | 2 => [.removeObj]
  | 3 => [.mapPage]
  | _ => [.unmapPage]

/-- Steps of the governor, the command processor and the management controller that time or a request makes due. -/
def timedSteps (s : State) : List Instr :=
  s.islands.flatMap (fun e =>
    (if e.2.waking then [.islandWake e.1] else []) ++ (if e.2.stepTo.isSome && decide (e.2.stepEnd ≤ s.now) then [.voltageStepReached e.1] else []) ++
    (match e.2.strips with
      | some t => if t.due ≤ s.now then .testStrips e.1 [] :: (stripCores s e.1).map (fun p => .testStrips e.1 [p]) else []
      | none => if stripsMayRun s e.1 then [.testStrips e.1 []] else []) ++
    (if !e.2.overdue && decide (e.2.calAt + 28800000000000 ≤ s.active) then [.calibrationOverdue e.1] else [])) ++
  (if s.tasks.any (fun e => e.2.any (fun t => t.st == .eligible && !t.holdPosted && longAgo s t.holdSince 1000000)) then [.fallbackPressure] else []) ++
  s.quiesce.flatMap (fun q => match q.work with
    | .bringIn p _ _ => [.pageRequestSettle p true, .pageRequestSettle p false]
    | _ => []) ++
  s.parts.flatMap (fun e => commandStep e.1 e.2) ++
  ([0, 1, 2, 3].filter (fun d => longAgo s (s.die d).withheld 1000000 && !(s.die d).ovfPosted)).map (fun d => .ingressOverflow d) ++
  (s.epl.filter (fun e => !e.2.up && fld e.2.map 0 1 == 1 && e.2.mayTrain s.now)).flatMap (fun e => [.eplRetrain e.1 true, .eplRetrain e.1 false]) ++
  (s.epl.filter (fun e => decide (e.2.winAt + 1000000000 ≤ s.now))).map (fun e => .eplReplayWindow e.1) ++
  (if longAgo s s.trip 100000000 || s.islands.any (fun e => decide (s.tj + 10 ≤ e.2.temp)) then [.thermalTripTimeout] else []) ++
  (if decide (s.recAt + 600000000000 ≤ s.now) then [.lifetimeRecordWrite] else []) ++
  (if s.power = .entering then [.pwrctlRetain] else [])

/-- Every step that a state enables, but the governor's close. -/
def enabled (s : State) : List Instr :=
  if s.running then s.cores.flatMap (fun e => coreSteps s e.1) ++ packageSteps s ++ timedSteps s else []

/-! ## The next step -/

/-- What `ns` of device time do to contexts by themselves: core cycles pass for the counts of those that wait for
a claim (R263; log entry 3). -/
def elapsed (s : State) (ns : Nat) : State :=
  if ns = 0 then s else
  s.cores.foldl (fun s e =>
    ((e.2.resident).filter (fun i => (e.2.slot i).claimsRun && !(e.2.slot i).a.claims.isEmpty)).foldl
      (fun s i => s.updCtx e.1 i (·.cyclesPass (Config.cyclesIn s.fresh e.1 ns))) s) s

/-- The step that device time itself brings next, and when: an interval's close (R292), or a write in a die's buffer
that becomes due (R95, R410). -/
def forced (s : State) : Nat × Instr :=
  match nextDue s with
  | some (t, d) => if t < s.nextClose then (t, .ingressTimeout d) else (s.nextClose, .governorIntervalClose)
  | none => (s.nextClose, .governorIntervalClose)

/-- The next step and the state in which it is taken. Device time passes before it; an interval's close, and a write
that becomes due, are never skipped (R95, R292). Log entry 12. -/
def takeStep (s : State) : State × Instr :=
  match s.agenda with
  | (d, i) :: r =>
    let f := forced s
    if s.running && decide (f.1 < s.now + d) then
      (elapsed { s with now := max s.now f.1, agenda := (s.now + d - max s.now f.1, i) :: r } (f.1 - s.now), f.2)
    else (elapsed { s with now := s.now + d, agenda := r } d, i)
  | [] =>
    let l := enabled s
    let t := s.now + Config.elapse s.fresh
    let f := forced s
    if s.running && (l.isEmpty || decide (f.1 ≤ t)) then
      (elapsed { s.draw with now := max s.now f.1 } (f.1 - s.now), f.2)
    else (elapsed { s.draw with now := t } (t - s.now), l.getD (Config.pick s.fresh % max 1 l.length) .governorIntervalClose)

/-! ## Placing a program (log entry 1) -/

/-- The words of an 80-bit number and what follows it, as bytes. -/
def wordBytes (l : List Nat) : List Byte := l.flatMap (toBytes 10)

/-- The bundle that holds one word: a header by itself, or a slot word behind a header that names its slot. -/
def bundleOf (w : Nat) : List Nat :=
  match classSlot w with
  | some sl => [(soloAttr sl.num).put 0 0, w]
  | none => [w]

/-- A core whose slot 0 holds a Ready context at word 0 of object 1 of partition 0, and that object on page
frame 0 of die 0, holding the bundle of word `w`; the next step issues it. -/
def placeWord (s : State) (w : Nat) : State :=
  let b := wordBytes (bundleOf w)
  let page : Page := { state := 1, die := 0, frame := 0 }
  let ob : Obj := { part := 0, psz := 0, kind := 0, home := 0, cr := false, cfmt := 0, cop := 0, cblk := 0, len := b.length, ptbase := 4096, pages := [(0, page)], hdr := none }
  let s := { s with mem := writeBytes s.mem (devKey 0 0) b, agenda := [(0, .bundleIssue 0)] }
  (s.setObj 1 (some ob)).setCtx 0 0 { st := .ready, part := 0, oid := 1 }

end Sys2Proof.Machine
end

