-- ==== Sys2Proof/Machine/Control.lean ====
section
/-!
DEFINITION. Sys2Proof/Machine/Control.lean: control transfers, loops and capability instructions (R161 to R165).
-/
namespace Sys2Proof.Machine

/-- The length in words of the code object of the current mode (R161, R162). -/
def lenNow (p : At) (s : State) : Nat := codeLen s (p.ctx s).part (p.ctx s).codeOid

/-- CODE_BOUNDS of a transfer to `t` (R162). -/
def targetErr (p : At) (s : State) (t : Word) : Option Trap :=
  if t.toNat < lenNow p s then none else some { code := 0x07, tval := t }

/-- The register A of an SB form: bits [38:33] (R128). -/
def sbReg (o : SB) : Nat := o.cnt / 512

/-- A transfer to TGT, taken under `c` (R161). -/
def branchSem (o : SB) (c : Ctx → Bool) : SlotSem :=
  { chk := fun p s => if c (p.ctx s) then targetErr p s (BitVec.ofNat 64 o.tgt) else none,
    goes := fun p s => if c (p.ctx s) then some o.tgt else none }

/-- A transfer to a register (R161, R162). -/
def jumpSem (o : SB) : SlotSem :=
  { chk := fun p s => targetErr p s ((p.ctx s).getS (sbReg o)),
    goes := fun p s => some (fld ((p.ctx s).getS (sbReg o)) 0 24) }

/-- The word at an end word, as the opening of a loop of count zero reads it (R368). -/
def endWord (p : At) (s : State) (w : Nat) : Nat := codeWord s (p.ctx s).part (p.ctx s).codeOid w

/-- Opening a loop level with a count (R117, R118, R162, R368). Log entry 56. -/
def loopSem (o : SB) (count : Ctx → Nat) : SlotSem :=
  { chk := fun p s =>
      if o.tgt < p.nxt ∨ lenNow p s ≤ o.tgt ∨ (count (p.ctx s) = 0 ∧ bits (endWord p s o.tgt) 77 3 ≠ 7) then
        some { code := 0x24, tval := BitVec.ofNat 64 o.tgt }
      else none,
    eff := fun p s => s.updCtx p.core p.slot (fun c =>
      c.setLv (c.lvNow.set o.l { active := count c != 0, count := count c, start := p.nxt, stop := o.tgt, opened := p.seq + 1 } {})),
    goes := fun p s =>
      if count (p.ctx s) = 0 then some (o.tgt + 1 + attrWords (getAttr (endWord p s o.tgt))) else none }

/-- A capability instruction that writes k[A[3:0]], L = 1 (R164). The null capability gives itself. Log entry 88. -/
def capOp (a : Nat) (src : Ctx → BitVec 128) (v : Ctx → Option (BitVec 128)) : SlotSem :=
  { lat := .fixed 1,
    chk := fun p s => if capOid (src (p.ctx s)) = 0 ∨ (v (p.ctx s)).isSome then none else some { code := 0x32 },
    eff := fun p s =>
      let c := p.ctx s
      let r := if capOid (src c) = 0 then 0 else (v c).getD 0
      produce p (.fixed 1) (c.dstK (a % 16)) (r.setWidth 512) s }

/-- What capq reads (R165). -/
def capRead (k : BitVec 128) (sel : Nat) : Nat :=
  if capOid k = 0 then 0 else
  match sel with
  | 0 => fld k 0 32
  | 1 => capLower k
  | 2 => capUpper k
  | _ => capUpper k - capLower k

/-- R161: always taken. -/
def semBr (o : SB) : SlotSem :=
  branchSem o (fun _ => true)

/-- br issues alone in its bundle (R108). -/
def execBr (h : Head) (o : SB) (s : State) : Host.Outcome State Fault Refusal :=
  .next (issueOne (.br h o) (semBr o) s)

/-- R161: taken when p[P] xor PN. -/
def semBp (o : SB) : SlotSem :=
  branchSem o (fun c => c.getP o.p != (o.pn == 1))

/-- bp issues alone in its bundle (R108). -/
def execBp (h : Head) (o : SB) (s : State) : Host.Outcome State Fault Refusal :=
  .next (issueOne (.bp h o) (semBp o) s)

/-- R161: to a[23:0]. -/
def semJmp (o : SB) : SlotSem :=
  jumpSem o

/-- jmp issues alone in its bundle (R108). -/
def execJmp (h : Head) (o : SB) (s : State) : Host.Outcome State Fault Refusal :=
  .next (issueOne (.jmp h o) (semJmp o) s)

/-- R161, R163: to TGT, with the link in s[A] at the next boundary. -/
def semCall (o : SB) : SlotSem :=
  { branchSem o (fun _ => true) with
    lat := .prod 1,
    eff := fun p s => produce p (.prod 1) ((p.ctx s).dstS (sbReg o)) (BitVec.ofNat 512 p.nxt) s }

/-- call issues alone in its bundle (R108). -/
def execCall (h : Head) (o : SB) (s : State) : Host.Outcome State Fault Refusal :=
  .next (issueOne (.call h o) (semCall o) s)

/-- R161: to a[23:0]. -/
def semRet (o : SB) : SlotSem :=
  jumpSem o

/-- ret issues alone in its bundle (R108). -/
def execRet (h : Head) (o : SB) (s : State) : Host.Outcome State Fault Refusal :=
  .next (issueOne (.ret h o) (semRet o) s)

/-- R117, R161: opens level L with count a[31:0]. -/
def semLoop (o : SB) : SlotSem :=
  loopSem o (fun c => fld (c.getS (sbReg o)) 0 32)

/-- loop issues alone in its bundle (R108). -/
def execLoop (h : Head) (o : SB) (s : State) : Host.Outcome State Fault Refusal :=
  .next (issueOne (.loop h o) (semLoop o) s)

/-- R117, R161: opens level L with count CNT15. -/
def semLoopi (o : SB) : SlotSem :=
  loopSem o (fun _ => o.cnt)

/-- loopi issues alone in its bundle (R108). -/
def execLoopi (h : Head) (o : SB) (s : State) : Host.Outcome State Fault Refusal :=
  .next (issueOne (.loopi h o) (semLoopi o) s)

/-- R161: nothing. -/
def semNop (_ : SR) : SlotSem := {}

/-- nop issues alone in its bundle (R108). -/
def execNop (h : Head) (o : SR) (s : State) : Host.Outcome State Fault Refusal :=
  .next (issueOne (.nop h o) (semNop o) s)

/-- R164: ka with LOWER := o, where LOWER ≤ o ≤ UPPER. -/
def semLea (o : SM) : SlotSem :=
  capOp o.a (fun c => c.getK o.k) (fun c =>
    let k := c.getK o.k
    let x := (memOffset c o.x o.off).toNat
    if capLower k ≤ x ∧ x ≤ capUpper k then some (setFld k 32 48 x) else none)

/-- lea issues alone in its bundle (R108). -/
def execLea (h : Head) (o : SM) (s : State) : Host.Outcome State Fault Refusal :=
  .next (issueOne (.lea h o) (semLea o) s)

/-- R164: k[B] with fewer rights. -/
def semCaprs (o : SR) : SlotSem :=
  capOp o.a (fun c => c.getK (o.b % 16)) (fun c =>
    let k := c.getK (o.b % 16)
    let r := (c.getS o.c).toNat
    if r < 256 ∧ r &&& capRights k = r then some (setFld k 24 8 r) else none)

/-- caprs issues alone in its bundle (R108). -/
def execCaprs (h : Head) (o : SR) (s : State) : Host.Outcome State Fault Refusal :=
  .next (issueOne (.caprs h o) (semCaprs o) s)

/-- R164: k[B] with tighter bounds. -/
def semCaprt (o : SR) : SlotSem :=
  capOp o.a (fun c => c.getK (o.b % 16)) (fun c =>
    let k := c.getK (o.b % 16)
    let lo := (c.getS o.c).toNat
    let hi := (c.getS o.d).toNat
    if capLower k ≤ lo ∧ lo ≤ hi ∧ hi ≤ capUpper k then some (setFld (setFld k 32 48 lo) 80 48 hi) else none)

/-- caprt issues alone in its bundle (R108). -/
def execCaprt (h : Head) (o : SR) (s : State) : Host.Outcome State Fault Refusal :=
  .next (issueOne (.caprt h o) (semCaprt o) s)

/-- R165: a field of k[B]. -/
def semCapq (o : SR) : SlotSem :=
  { lat := .fixed 1, eff := fun p s => produce p (.fixed 1) ((p.ctx s).dstS o.a) (BitVec.ofNat 512 (capRead ((p.ctx s).getK (o.b % 16)) o.c)) s }

/-- capq issues alone in its bundle (R108). -/
def execCapq (h : Head) (o : SR) (s : State) : Host.Outcome State Fault Refusal :=
  .next (issueOne (.capq h o) (semCapq o) s)

/-- R164: a copy. -/
def semCapmv (o : SR) : SlotSem :=
  capOp o.a (fun c => c.getK (o.b % 16)) (fun c => some (c.getK (o.b % 16)))

/-- capmv issues alone in its bundle (R108). -/
def execCapmv (h : Head) (o : SR) (s : State) : Host.Outcome State Fault Refusal :=
  .next (issueOne (.capmv h o) (semCapmv o) s)

end Sys2Proof.Machine
end

