-- ==== Sys2Proof/Machine/Checks.lean ====
section
/-!
DEFINITION. Sys2Proof/Machine/Checks.lean: what an engine slot checks at its issue (R140, R143, R144, R146,
R189, R190, R194, R198, R359 steps 4 to 7), and tile elements that an instruction reads at its issue (R200,
R226).
-/
namespace Sys2Proof.Machine

/-! ## Tiles of an operation -/

/-- The operands that the operation decodes or encodes, in field order. -/
def Form.coded (f : Form) : List Nat := f.fields.filter (fun t => (f.encs ++ f.decs).contains t)

/-- Step 4: every operand in field order, then the scale tiles, then the outlier tile (R189, R359). -/
def tilesErr (c : Ctx) (k : Nat) (f : Form) (g : BitVec 18) : Option Trap :=
  let olt := match outlierTile c.a g c.a.fs f.decs with
    | some t => if t < 64 then [t] else []
    | none => []
  firstOf ((f.fields ++ scaleTiles c.a f.coded ++ olt).map (checkTile c k))

/-- FMT_OPERAND of an unsigned tile under SUB 2 (R140). -/
def unsignedErr (a : Arch) (f : Form) (g : BitVec 18) : Option Trap :=
  firstOf (f.coded.map (fun t => tileTrap 0x14 t (govSub g == 2 && isUnsigned (baseFmt (dFmt (a.desc t))))))

/-- A tile covers `l` lines of `n` entries: line by line, or down its columns (R143, R144). -/
def covers (d : BitVec 128) (down : Bool) (l n : Nat) : Bool :=
  if down then decide (n ≤ dVRows d) && decide (l ≤ dVCols d) else decide (l ≤ dVRows d) && decide (n ≤ dVCols d)

/-- Lines and K length of a tile's valid region. -/
def linesOf (d : BitVec 128) (down : Bool) : Nat × Nat := if down then (dVCols d, dVRows d) else (dVRows d, dVCols d)

/-- ⌈n / b⌉. -/
def ceilDiv (n b : Nat) : Nat := (n + b - 1) / b

/-- SCALE_TILE (R143); sr.tval names the data tile (log entry 36). -/
def scaleErr (a : Arch) (g : BitVec 18) (down : Bool) (t : Nat) : Option Trap :=
  let d := a.desc t
  let (l, n) := linesOf d down
  let sc := a.desc (t + 1)
  tileTrap 0x12 t (isBlock (dFmt d) && (decide (63 ≤ t) || dFmt sc != 0 || (l != 0 && n != 0 && !covers sc down l (ceilDiv n (govBlk g)))))

/-- OUTLIER_TILE (R144): two operands with escapes, or an outlier tile that does not serve. Log entry 79. -/
def outlierErr (a : Arch) (g : BitVec 18) (down : Bool) (decs : List Nat) : Option Trap :=
  let nout := fld a.fs 7 3
  let olt := fld a.fs 0 7
  match decs.filter (fun t => escapes (a.desc t) g) with
  | [] => none
  | [t] =>
    let d := a.desc t
    let (l, n) := linesOf d down
    tileTrap 0x13 t (nout != 0 && (decide (64 ≤ olt) || dFmt (a.desc olt) != 0 ||
      (l != 0 && n != 0 && !covers (a.desc olt) false l (ceilDiv n (blockLen (dFmt d) g) * nout))))
  | _ :: t :: _ => tileTrap 0x13 t (nout != 0)

/-- TILE_ALIAS (R194): scale and outlier tiles are sources too, and never in place. -/
def aliasErr (p : At) (s : State) (f : Form) (g : BitVec 18) : Option Trap :=
  let c := p.ctx s
  let olt := (outlierTile c.a g c.a.fs f.decs).toList
  let sc := scaleTiles c.a f.decs ++ (if writesScale p.ins then [] else scaleTiles c.a f.encs) ++ olt
  let dests := f.dests ++ (if writesScale p.ins then scaleTiles c.a f.encs else [])
  firstOf [aliasCheck p.core c p.k (inPlace p.ins) dests (f.decs ++ f.raws), aliasCheck p.core c p.k false dests sc]

/-- Steps 4 to 7 of one engine slot, with its own format and shape checks (R359). -/
def engineErr (p : At) (s : State) (f : Form) (g : BitVec 18) (down : Bool) (fmts : List (Option Trap))
    (shape : Option Trap) : Option Trap :=
  let c := p.ctx s
  firstOf ([tilesErr c p.k f g] ++ fmts ++ [unsignedErr c.a f g] ++ f.coded.map (scaleErr c.a g down) ++
    [outlierErr c.a g down f.decs, shape, aliasErr p s f g])

/-! ## Elements read at an issue (R200, R226) -/

/-- The codebook table that cbsel names (R141). -/
def selCb (cbsel : BitVec 18) (cbA cbW : Tab (BitVec 16)) : Tab (BitVec 16) := if fld cbsel 0 1 = 0 then cbA else cbW

/-- The environment of a read at issue of tiles `l`. -/
def issueEnv (p : At) (s : State) (l : List Nat) : Env :=
  let o := opOf s p
  { s := s, core := p.core, o := { o with cap := { o.cap with descs := captureDescs (p.ctx s).a p.k l } } }

/-- How a V-slot instruction reads its sources (R146, R198). -/
def fvRd (e : Env) : Rd := { g := e.o.cap.fv, cb := selCb e.o.cap.cbsel e.o.cap.cbA e.o.cap.cbW }

/-- The 32-byte words of an element's bytes that fail their check, in scratchpad or accumulator memory. -/
def Env.elemBad (e : Env) (t i j : Nat) : Bool :=
  let k := e.s.core e.core
  if dValid (e.desc t) i j = false then false
  else if 64 ≤ t then k.accBad.contains (e.o.slot, 4096 * (t - 64) + 8 * i + j / 8)
  else match elemAt e.core (e.s.ctx e.core e.o.slot).extbase (e.desc t) i j with
    | some (a, _, n) => hasBad k.bad a n
    | none => false

/-- ADDR of an accumulator word in the error log: its slot, and its byte of the slot's tiles (R352; log entry 109). -/
def accByte (slot w : Nat) : Nat := slot * 2 ^ 20 + 2 ^ 15 * (w / 4096) + 32 * (w % 4096)

/-- The failing word of an element: its store (2 scratchpad, 3 accumulator), its address there, and the offset by
which the operation reaches the element, in its view or its accumulator tile (R352, R355). -/
def Env.badPlace (e : Env) (t i j : Nat) : Nat × Nat × Nat :=
  if 64 ≤ t then (3, accByte e.o.slot (4096 * (t - 64) + 8 * i + j / 8), 256 * i + 32 * (j / 8))
  else
    let d := e.desc t
    let o := dBase d + i * dPitch d + j * fmtWidth (dFmt d) / 8
    match elemAt e.core (e.s.ctx e.core e.o.slot).extbase d i j with
    | some (a, _, n) => (2, (if hasBad (e.s.core e.core).bad a 1 then a else a + n - 1) / 32 * 32, o)
    | none => (2, 0, o)

/-- Elements of scratchpad take their place in the global order, those in words read ahead excepted (R89, R98; log
entry 4). -/
def Env.touch (e : Env) (wr : Bool) (l : List (Nat × Nat × Nat)) (x : State × Nat) : State × Nat :=
  l.foldl (fun x y =>
    if 64 ≤ y.1 then x else
    match elemAt e.core (e.s.ctx e.core e.o.slot).extbase (e.desc y.1) y.2.1 y.2.2 with
    | some (a, _, n) =>
      if !wr && (e.o.aheadOf e.o.rows).any (fun p => p.1 == .sram e.core (a / 32 * 32)) then x else spadTouch x.1 e.core a n x.2 wr
    | none => x) x

/-- Elements (t, i, j) read at issue: where one fails its check, SRAM_UNCORR is logged and pending and `eff`
does not happen (R351; log entry 37). -/
def readAtIssue (p : At) (s : State) (e : Env) (l : List (Nat × Nat × Nat)) (eff : State → State) : State :=
  match l.find? (fun x => e.elemBad x.1 x.2.1 x.2.2) with
  | none =>
    let x := e.touch false l (s, (p.ctx s).time)
    eff (x.1.updCtx p.core p.slot (fun c => { c with time := max c.time x.2 }))
  | some x =>
    let (st, a, arg) := e.badPlace x.1 x.2.1 x.2.2
    let c := p.ctx s
    let id := (s.core p.core).nextId
    let s := (s.uncorr (dieOf p.core) st a c.part p.core arg).updCore p.core (fun k => { k with nextId := k.nextId + 1 })
    s.addFault p.core p.slot { code := 0x43, async := true, sup := c.sup, tval := 0, tinst := p.waddr, slot := p.sl, k := p.k, seq := p.seq, id := id, tag := 0 }

end Sys2Proof.Machine
end

