-- ==== Sys2Proof/Machine/Rows.lean ====
section
/-!
DEFINITION. Sys2Proof/Machine/Rows.lean: one progress row of a vector or matrix operation (R153, R195, R196,
R387): what it reads, writes and counts, and how it is committed whole or not at all.
-/
namespace Sys2Proof.Machine

/-- What one row does: elements (tile, row, column) that it reads, codes that it writes, what it counts, and
what else it changes. -/
structure RowOut where
  reads : List (Nat × Nat × Nat) := []
  writes : List (Nat × Nat × Nat × Nat) := []
  counts : List Cnt := []
  extra : State → State := fun s => s

/-- One value on its way into a destination: result and counts. -/
abbrev Conv := Nat × List Cnt

/-- The elements that decodes named, with their scales (R143). -/
def readsOf (e : Env) (r : Rd) (l : List Cnt) : List (Nat × Nat × Nat) :=
  (l.filter (·.dec)).flatMap (fun c =>
    let i := c.el / 512
    let j := c.el % 512
    let f := dFmt (e.desc c.t)
    (c.t, i, j) :: (if isBlock f then [if r.down then (c.t + 1, i / govBlk r.g, j) else (c.t + 1, i, j / govBlk r.g)] else []))

/-- A row from its writes and counts; `keep` says which decodes count in this row, the others having been
counted by a lower one (R153). -/
def mkRow (e : Env) (r : Rd) (writes : List (Nat × Nat × Nat × Nat)) (counts : List Cnt) (keep : Cnt → Bool) : RowOut :=
  { reads := readsOf e r counts, writes := writes, counts := counts.filter (fun c => !c.dec || keep c) }

/-! ## Words found uncorrectable (R387) -/

/-- Bits of SRAM word `w` that the writes of a row cover. -/
def bitsIn (e : Env) (w : Nat) (l : List (Nat × Nat × Nat × Nat)) : Nat :=
  l.foldl (fun n x =>
    if 64 ≤ x.1 then n else
    match elemAt e.core (e.s.ctx e.core e.o.slot).extbase (e.desc x.1) x.2.1 x.2.2.1 with
    | some (a, sh, _) =>
      let b := fmtWidth (dFmt (e.desc x.1))
      let lo := max (8 * a + sh) (256 * w)
      let hi := min (8 * a + sh + b) (256 * w + 256)
      n + (hi - lo)
    | none => n) 0

/-- Elements of accumulator word `w` that the writes of a row cover. -/
def accIn (w : Nat) (l : List (Nat × Nat × Nat × Nat)) : Nat :=
  (l.filter (fun x => decide (64 ≤ x.1) && 4096 * (x.1 - 64) + 8 * x.2.1 + x.2.2.1 / 8 == w)).length

/-- A failing word that a row reads, or would write in part: its store, its address there, and the offset by which
the row reaches it (R352, R355). -/
def rowBad (e : Env) (r : RowOut) : Option (Nat × Nat × Nat) :=
  match r.reads.find? (fun x => e.elemBad x.1 x.2.1 x.2.2) with
  | some x => some (e.badPlace x.1 x.2.1 x.2.2)
  | none =>
    let k := e.s.core e.core
    match k.bad.find? (fun w => let n := bitsIn e w r.writes; n != 0 && n != 256) with
    | some w =>
      let x := (r.writes.find? (fun x => bitsIn e w [x] != 0)).getD (0, 0, 0, 0)
      some (2, 32 * w, (e.badPlace x.1 x.2.1 x.2.2.1).2.2)
    | none => ((k.accBad.filter (fun w => w.1 == e.o.slot)).find? (fun w => let n := accIn w.2 r.writes; n != 0 && n != 8)).map (fun w => (3, accByte w.1 w.2, 32 * (w.2 % 4096)))

/-- Failing accumulator words that a row writes whole pass their check again. -/
def healAcc (e : Env) (r : RowOut) (s : State) : State :=
  if (s.core e.core).accBad = [] then s
  else s.updCore e.core (fun k => { k with accBad := k.accBad.filter (fun w => !(w.1 == e.o.slot && accIn w.2 r.writes == 8)) })

/-- Failing words that a row writes whole pass their check again. -/
def healRow (e : Env) (r : RowOut) (s : State) : State :=
  let s := healAcc e r s
  if (s.core e.core).bad = [] then s
  else s.updCore e.core (fun k => { k with bad := k.bad.filter (fun w => bitsIn e w r.writes != 256) })

/-- A row's operation takes a time. -/
def Env.setTime (e : Env) (x : State × Nat) : State := x.1.updOp e.core e.o.id (fun o => { o with time := x.2 })

/-- A row's reads, and where it moves whole its writes, take their place in the global order (R89, R98). -/
def touchRow (e : Env) (r : RowOut) (whole : Bool) (s : State) : State :=
  let x := e.touch false r.reads (s, e.o.time)
  e.setTime (if whole then e.touch true (r.writes.map (fun w => (w.1, w.2.1, w.2.2.1))) x else x)

/-- Commit a row: elements, counts and all else of it (R153, R196). -/
def commitRow (e : Env) (r : RowOut) (s : State) : State :=
  let s := r.writes.foldl (fun s x => writeCode s e.core e.o.slot x.1 (e.desc x.1) x.2.1 x.2.2.1 x.2.2.2) (healRow e r s)
  r.extra (s.updCtx e.core e.o.slot (fun c => applyCnts c e.o.seq r.counts))

/-! ## A row by pieces (R88, R93, R196) -/

/-- What a row's writes do to bytes of SRAM: address, value and the bits written. -/
def byteWrites (e : Env) (l : List (Nat × Nat × Nat × Nat)) : List (Nat × Byte × Byte) :=
  l.flatMap (fun x =>
    if 64 ≤ x.1 then [] else
    match elemAt e.core (e.s.ctx e.core e.o.slot).extbase (e.desc x.1) x.2.1 x.2.2.1 with
    | some (a, sh, n) =>
      let w := fmtWidth (dFmt (e.desc x.1))
      (List.range n).map (fun b => (a + b, BitVec.ofNat 8 (x.2.2.2 % 2 ^ w * 2 ^ sh / 256 ^ b), BitVec.ofNat 8 ((2 ^ w - 1) * 2 ^ sh / 256 ^ b)))
    | none => [])

/-- The pieces of a row's writes: one for each word of SRAM. -/
def rowChunks (e : Env) (r : RowOut) : List Chunk :=
  let l := byteWrites e r.writes
  ((l.map (fun x => x.1 / 32)).eraseDups).map (fun w =>
    let b := (List.range 32).map (fun j => (l.filter (fun x => x.1 == 32 * w + j)).foldl
      (fun (p : Byte × Byte) x => ((p.1 &&& ~~~x.2.2) ||| (x.2.1 &&& x.2.2), p.2 ||| x.2.2)) (0, 0))
    { pl := .sram e.core (32 * w), oid := oidLocal, o := 32 * w, data := b.map (·.1), mask := b.map (·.2) })

/-- Reach a row: its counts and all else of it but its writes to SRAM, which are left (R93). -/
def reachRow (e : Env) (r : RowOut) (s : State) : State :=
  let s := (r.writes.filter (fun x => decide (64 ≤ x.1))).foldl (fun s x => writeCode s e.core e.o.slot x.1 (e.desc x.1) x.2.1 x.2.2.1 x.2.2.2) (healAcc e r (touchRow e r false s))
  let s := r.extra (s.updCtx e.core e.o.slot (fun c => applyCnts c e.o.seq r.counts))
  s.updOp e.core e.o.id (fun o => { o with rows := o.rows + 1, seen := [], left := o.left ++ rowChunks e r })

end Sys2Proof.Machine
end

