-- ==== Sys2Proof/Machine/Transc.lean ====
section
/-!
DEFINITION. Sys2Proof/Machine/Transc.lean: the special functions (R203, R204): exact where the value is
a fraction; otherwise an interval around the exact value, narrowed until both ends round alike.
-/
namespace Sys2Proof.Machine

/-! ## Square roots and reciprocals -/

/-- The bits of floor(√n), from bit `k - 1` down. -/
def isqrtBits (n : Nat) : Nat → Nat → Nat
  | 0, r => r
  | k + 1, r => if (r + 2 ^ k) * (r + 2 ^ k) ≤ n then isqrtBits n k (r + 2 ^ k) else isqrtBits n k r

/-- floor(√n). -/
def isqrt (n : Nat) : Nat := isqrtBits n (Nat.log2 n / 2 + 1) 0

/-- √(n / d) as a fraction that rounds as the exact value does: exact, or midway above the last of
at least 160 bits. -/
def sqrtFrac (n d : Nat) : Nat × Nat :=
  let s := 160 + (Nat.log2 d + 1)
  let m := n * 2 ^ (2 * s) / d
  let y := isqrt m
  if y * y = m ∧ n * 2 ^ (2 * s) % d = 0 then (y, 2 ^ s) else (2 * y + 1, 2 ^ (s + 1))

/-- n / d rounded by RNE to 12 significant bits, exponent unbounded (R203). -/
def round12 (neg : Bool) (n d : Nat) : XVal :=
  if n = 0 then .fin neg 0 1 else
  let q : Int := ilog2 n d - 11
  let a := if 0 ≤ q then n else n * 2 ^ (-q).toNat
  let b := if 0 ≤ q then d * 2 ^ q.toNat else d
  let m := a / b + (if goesUp rne neg (a / b) (a % b) b then 1 else 0)
  .dyadic neg m q

/-- vrcp before R (R203, R204). -/
def xrcp : XVal → XVal
  | .nan => .nan
  | .inf s => .fin s 0 1
  | .fin s n d => if n = 0 then .inf s else round12 s d n

/-- vrsq before R (R203, R204). -/
def xrsq : XVal → XVal
  | .nan => .nan
  | .inf s => if s then .nan else .zero
  | .fin s n d =>
    if n = 0 then .inf s
    else if s then .nan
    else let r := sqrtFrac d n; round12 false r.1 r.2

/-- vsqrt before R (R203, R204). -/
def xsqrt : XVal → XVal
  | .nan => .nan
  | .inf s => if s then .nan else .inf false
  | .fin s n d =>
    if n = 0 then .fin s 0 1
    else if s then .nan
    else let r := sqrtFrac n d; .fin false r.1 r.2

/-- vrcpf (R203). An exact sum of zero takes the sign that log entry 44 gives it: −0 where `rdn` says RDN. -/
def xrcpf (rdn : Bool) (x y : XVal) : XVal :=
  if x.isNan || y.isNan then .nan
  else if y.isZero || y.isInf then y
  else y.add (y.mul ((XVal.ofNat 1).sub (x.mul y))) rdn

/-- vrsqf (R203), with the sign of a zero sum as in `xrcpf`. -/
def xrsqf (rdn : Bool) (x y : XVal) : XVal :=
  if x.isNan || y.isNan then .nan
  else if y.isZero || y.isInf then y
  else y.add ((y.mul ((XVal.ofNat 1).sub ((x.mul y).mul y))).mul (.fin false 1 2)) rdn

/-! ## Fixed-point series, in units of 2^-p with an error below 2^32 units -/

/-- Σ 1 / (k 2^k) for k from 1 to `n`: ln 2 in units of 2^-p. -/
def ln2Fix (p : Nat) : Nat → Nat
  | 0 => 0
  | k + 1 => ln2Fix p k + 2 ^ p / ((k + 1) * 2 ^ (k + 1))

/-- e^y for 0 ≤ y ≤ 1 in units of 2^-p: `t` is the term of order `k`. -/
def expFix (p y : Nat) : Nat → Nat → Nat → Nat
  | 0, _, _ => 0
  | f + 1, k, t => t + expFix p y f (k + 1) (t * y / 2 ^ p / (k + 1))

/-- Σ z^(2k+1) / (2k+1) in units of 2^-p: `t` is z^(2k+1). -/
def atanhFix (p z2 : Nat) : Nat → Nat → Nat → Nat
  | 0, _, _ => 0
  | f + 1, k, t => t / (2 * k + 1) + atanhFix p z2 f (k + 1) (t * z2 / 2 ^ p)

/-- e^y, 0 ≤ y ≤ 1. -/
def expUnit (p y : Nat) : Nat := expFix p y (p / 2 + 40) 0 (2 ^ p)

/-- An interval [a − 2^32, a + 2^32] in units of 2^(e − p). -/
def ball (neg : Bool) (a p : Nat) (e : Int) : XVal × XVal :=
  let lo := a - 2 ^ 32
  let hi := a + 2 ^ 32
  let f (m : Nat) : XVal := .dyadic neg m (e - p)
  if neg then (f hi, f lo) else (f lo, f hi)

/-- floor of ± n / d. -/
def floorFrac (neg : Bool) (n d : Nat) : Int :=
  if neg then -(((n + d - 1) / d : Nat) : Int) else ((n / d : Nat) : Int)

/-- 2^x: an interval at `p` bits. -/
def exp2Ball (neg : Bool) (n d p : Nat) : XVal × XVal :=
  let i := floorFrac neg n d
  let fn := ((if neg then -(n : Int) else n) - i * d).toNat
  let y := fn * ln2Fix p (p + 8) / d
  ball false (expUnit p y) p i

/-- e^x = 2^m e^y: m and e^y in units of 2^-p. -/
def expParts (neg : Bool) (n d p : Nat) : Int × Nat :=
  let l := ln2Fix (p + 16) (p + 24)
  let x : Int := (n * 2 ^ (p + 16) / d : Nat)
  let x := if neg then -x else x
  let m := x / (l : Int)
  let y := (x - m * l).toNat / 2 ^ 16
  (m, expUnit p y)

/-- log2 x for x = n / d above 0. -/
def log2Ball (n d p : Nat) : XVal × XVal :=
  let e := ilog2 n d
  let un := if 0 ≤ e then n else n * 2 ^ (-e).toNat
  let ud := if 0 ≤ e then d * 2 ^ e.toNat else d
  let z := (un - ud) * 2 ^ p / (un + ud)
  let ln := 2 * atanhFix p (z * z / 2 ^ p) (p / 3 + 40) 0 z
  let r : Int := e * 2 ^ p + ((ln * 2 ^ p / ln2Fix p (p + 8) : Nat) : Int)
  let f (v : Int) : XVal := .dyadic (decide (v < 0)) v.natAbs (-(p : Int))
  (f (r - 2 ^ 32), f (r + 2 ^ 32))

/-- A positive fraction with both ends widened by 2^-(p - 40) of its size. -/
def around (neg : Bool) (n d p : Nat) : XVal × XVal :=
  let k := 2 ^ (p - 40)
  let lo : XVal := .fin neg (n * (k - 1)) (d * k)
  let hi : XVal := .fin neg (n * (k + 1)) (d * k)
  if neg then (hi, lo) else (lo, hi)

/-- tanh |x| = (e^2x − 1) / (e^2x + 1); for |x| below 2^-p / 8 an interval from the series x − x³/3. -/
def tanhBall (neg : Bool) (n d p : Nat) : XVal × XVal :=
  if n * 64 < d then
    -- x − x³/3 < tanh x < x − x³/3 + 2x⁵/15
    let b := 15 * d ^ 5
    let lo := 15 * n * d ^ 4 - 5 * n ^ 3 * d ^ 2
    let up := lo + 2 * n ^ 5
    if n * 2 ^ (p / 4) < d then
      (if neg then (.fin true up b, .fin true lo b) else (.fin false lo b, .fin false up b))
    else
      let (m, a) := expParts false (2 * n) d (p + 8)
      let w := a * 2 ^ m.toNat
      around neg (w - 2 ^ (p + 8)) (w + 2 ^ (p + 8)) p
  else
    let (m, a) := expParts false (2 * n) d (p + 8)
    let w := a * 2 ^ m.toNat
    around neg (w - 2 ^ (p + 8)) (w + 2 ^ (p + 8)) p

/-- 1 / (1 + e^−x). -/
def lgstBall (neg : Bool) (n d p : Nat) : XVal × XVal :=
  let (m, a) := expParts (!neg) n d (p + 8)
  let one := 2 ^ (p + 8)
  if 0 ≤ m then around false one (one + a * 2 ^ m.toNat) p
  else around false (one * 2 ^ (-m).toNat) (one * 2 ^ (-m).toNat + a) p

/-- Round a value known by intervals: the first precision at which both ends round alike; beyond the
last, a free value chooses an end (log entry 15). -/
def roundBall (f : Nat → XVal × XVal) (rd : XVal → XVal × Enc) (key : Nat) : List Nat → XVal × Enc
  | [] => if Config.transc key 0 % 2 = 0 then rd (f 1200).1 else rd (f 1200).2
  | p :: r =>
    let (lo, hi) := f p
    if rd lo = rd hi then rd lo else roundBall f rd key r

/-- The precisions tried. -/
def precisions : List Nat := [120, 250, 600, 1200]

/-- The four transcendental functions. -/
inductive Fun where
  | exp2 | log2 | tanh | lgst
  deriving DecidableEq, Repr

/-- R(f(x)) (R203, R204): `rd` is R with what it counts. Beyond ±1100 (exp2), 90 (tanh) and 180, −1500
(lgst) the exact value rounds as the stand-in given does, in every compute format and mode. -/
def special (fn : Fun) (rd : XVal → XVal × Enc) (x : XVal) : XVal × Enc :=
  let near1 (s : Bool) : XVal := .fin s (2 ^ 400 - 1) (2 ^ 400)
  match fn, x with
  | _, .nan => rd .nan
  | .exp2, .inf s => rd (if s then .zero else .inf false)
  | .log2, .inf s => rd (if s then .nan else .inf false)
  | .tanh, .inf s => rd (.fin s 1 1)
  | .lgst, .inf s => rd (if s then .zero else .ofNat 1)
  | .exp2, .fin s n d =>
    if n = 0 then rd (.ofNat 1)
    else if 1100 * d < n then rd (.dyadic false 1 (if s then -1200 else 1100))
    else if n % d = 0 then rd (.dyadic false 1 (if s then -((n / d : Nat) : Int) else (n / d : Nat)))
    else roundBall (exp2Ball s n d) rd n precisions
  | .log2, .fin s n d =>
    if n = 0 then rd (.inf true)
    else if s then rd .nan
    else
      let e := ilog2 n d
      if (if 0 ≤ e then n = d * 2 ^ e.toNat else n * 2 ^ (-e).toNat = d) then rd (.ofInt e)
      else roundBall (log2Ball n d) rd n precisions
  | .tanh, .fin s n d =>
    if n = 0 then rd (.fin s 0 1)
    else if 90 * d < n then rd (near1 s)
    else roundBall (tanhBall s n d) rd n precisions
  | .lgst, .fin s n d =>
    if n = 0 then rd (.fin false 1 2)
    else if s = false ∧ 180 * d < n then rd (near1 false)
    else if s = true ∧ 1500 * d < n then rd (.dyadic false 1 (-2300))
    else roundBall (lgstBall s n d) rd n precisions

end Sys2Proof.Machine
end

