-- ==== Sys2Proof/Machine/Vector.lean ====
section
/-!
DEFINITION. Sys2Proof/Machine/Vector.lean: the vector operations (R196 to R212): their issue and their rows.
-/
namespace Sys2Proof.Machine

/-! ## Issue (R189, R198, R199) -/

/-- A vector operation: the checks of its form under fv, with its own format and shape checks, and its start
(R119, R191, R212). -/
def vecSem (fmts : At → Arch → List (Option Trap)) (shape : At → Arch → Option Trap) : SlotSem :=
  { lat := .engine,
    chk := fun p s =>
      match vForm p.ins with
      | none => none
      | some (cl, cf, o, f) =>
        let a := (p.ctx s).a
        let comp := tileTrap 0x10 o.td (cl != .N && !cfOk cl (cfFmt cf a.fv))
        engineErr p s f a.fv false (comp :: fmts p a) (shape p a),
    tiles := fun p s => opTiles p.ins (p.ctx s).a 0,
    eff := startOp }

/-- No check of its own. -/
def plainVec : SlotSem := vecSem (fun _ _ => []) (fun _ _ => none)

/-! ## Values on their way (R147 to R150, R198) -/

/-- One destination element in the making: the operation, its operands, compute format, mode and place. -/
structure El where
  e : Env
  o : VT
  f : Nat
  mode : Mode
  i : Nat
  j : Nat

def El.rd (x : El) : Rd := fvRd x.e
def El.fv (x : El) : BitVec 18 := x.e.o.cap.fv

/-- The element (i, j) of td, with its stochastic draw (R149). -/
def elAt (e : Env) (o : VT) (cf i j : Nat) : El :=
  let cap := e.o.cap
  { e := e, o := o, f := cfFmt cf cap.fv, mode := modeAt cap.rm cap.seed cap.draw (i * dVCols (e.desc o.td) + j), i := i, j := j }

/-- What a rounding of this element counts into td (R152). -/
def El.cnt (x : El) (t : Nat) (c : Enc) : Cnt := c.cnt t (cntBlock (dFmt (x.e.desc t)) x.fv false x.i x.j)

/-- Decode of a source element. -/
def El.src (x : El) (t i j : Nat) : XVal × List Cnt := x.e.decode x.rd t i j

/-- C(x) and R(v): one rounding to the compute format. -/
def El.round (x : El) (v : XVal) : XVal × List Cnt :=
  let (r, c) := roundCf x.f x.fv x.mode v
  (r, [x.cnt x.o.td c])

/-- C of a source element. -/
def El.conv (x : El) (t i j : Nat) : XVal × List Cnt :=
  let (v, l) := x.src t i j
  let (r, m) := x.round v
  (r, l ++ m)

/-- Enc(v, t) at this element's place (R150). -/
def El.enc (x : El) (t : Nat) (v : XVal) : Conv :=
  let d := x.e.desc t
  let sc := if isBlock (dFmt d) then x.e.scale false t x.i (x.j / govBlk x.fv) else .zero
  let c := encScaled (dFmt d) x.fv x.rd.cb x.mode sc v
  (c.code, [x.cnt t c])

/-- Enc(R(v), td). -/
def El.result (x : El) (v : XVal) (l : List Cnt) : Conv :=
  let (r, m) := x.round v
  let (c, n) := x.enc x.o.td r
  (c, l ++ m ++ n)

/-- Enc(v, td) without a compute format. -/
def El.exact (x : El) (v : XVal) (l : List Cnt) : Conv :=
  let (c, n) := x.enc x.o.td v
  (c, l ++ n)

/-- Exact sums that cancel are −0 under RDN (R201). -/
def El.rdn (x : El) : Bool := x.mode.m == 2

/-- Columns of row i of td that the operation produces: valid and on this core (R62, R195). -/
def colsOf (e : Env) (t i : Nat) : List Nat :=
  (List.range (dVCols (e.desc t))).filter (fun j => dValid (e.desc t) i j && ownElem e.core (e.s.ctx e.core e.o.slot).extbase t (e.desc t) i j)

/-- A row of td made element by element. -/
def rowBy (e : Env) (o : VT) (cf i : Nat) (cols : List Nat) (keep : Cnt → Bool) (f : El → Conv) : RowOut :=
  let l := cols.map (fun j => (j, f (elAt e o cf i j)))
  mkRow e (fvRd e) (l.map (fun x => (o.td, i, x.1, x.2.1))) (l.flatMap (fun x => x.2.2)) keep

/-- Every decode counts. -/
def every : Cnt → Bool := fun _ => true

/-- A row after rows that counted `prev`: an element that one of them read is not counted again, and a block that one of
them saturated counts no more (R152, R153). -/
def RowOut.after (r : RowOut) (prev : List Cnt) : RowOut :=
  let l := r.counts.filter (fun c => !(c.dec && prev.any (fun d => d.dec && d.t == c.t && d.el == c.el)))
  let seen (c : Cnt) : Bool := prev.any (fun d => d.sat && d.t == c.t && d.blk == c.blk)
  { r with counts := l.map (fun c => { c with again := c.again || seen c }) }

/-- Row i of an operation whose rows `f` read elements that other rows read too: each is committed with the lowest row
that reads it (R153). -/
def sharedRow (f : Nat → RowOut) (i : Nat) : RowOut := (f i).after ((List.range i).flatMap (fun m => (f m).counts))

/-- The code of +0 in a tile's format (R150, R195). -/
def zeroCode (e : Env) (t : Nat) : Nat := (encElem (dFmt (e.desc t)) e.o.cap.fv (fvRd e).cb rne .zero).code

/-! ## Elementwise (R201, R203) -/

/-- Source n at this element, under the modifier. -/
def El.tile (x : El) (n : Nat) : Nat := [x.o.ta, x.o.tb, x.o.tc].getD n 0
def El.c (x : El) (n : Nat) : XVal × List Cnt := x.conv (x.tile n) x.i (srcColumn x.o n x.j)
def El.d (x : El) (n : Nat) : XVal × List Cnt := x.src (x.tile n) x.i (srcColumn x.o n x.j)

/-- op of one, two or three converted sources. -/
def El.op1 (x : El) (f : XVal → XVal) : Conv := let a := x.c 0; x.result (f a.1) a.2
def El.op2 (x : El) (f : XVal → XVal → XVal) : Conv :=
  let a := x.c 0
  let b := x.c 1
  x.result (f a.1 b.1) (a.2 ++ b.2)
def El.op3 (x : El) (f : XVal → XVal → XVal → XVal) : Conv :=
  let a := x.c 0
  let b := x.c 1
  let c := x.c 2
  x.result (f a.1 b.1 c.1) (a.2 ++ b.2 ++ c.2)

/-- 1 or 0. -/
def truth (b : Bool) : XVal := .ofNat (oneIf b)

/-- The conditions of vcmp (R199, R201). -/
def vcond (c : Nat) (a b : XVal) : Bool :=
  let nan := a.isNan || b.isNan
  match c with
  | 0 => a.eq b
  | 1 => nan || !a.eq b
  | 2 => a.lt b
  | 3 => !nan && !b.lt a
  | 4 => b.lt a
  | _ => !nan && !a.lt b

/-- The 8-bit pattern of a converted integer, and the value of a pattern (R201). -/
def pat8 (x : XVal) : Nat := (x.trunc % 256).toNat
def El.val8 (x : El) (p : Nat) : XVal := if x.f = 9 then .ofInt (sNat p 8) else .ofNat (p % 256)

def El.bits1 (x : El) (f : Nat → Nat) : Conv := let a := x.c 0; x.result (x.val8 (f (pat8 a.1))) a.2
def El.bits2 (x : El) (f : Nat → Nat → Nat) : Conv := x.op2 (fun a b => x.val8 (f (pat8 a) (pat8 b)))

/-- A shift by C(b); beyond 0 to 7 it gives `far` (R201). -/
def El.shift (x : El) (f : XVal → Nat → Nat) (far : XVal → Nat) : Conv :=
  x.op2 (fun a b => x.val8 (let n := b.trunc; if 0 ≤ n ∧ n ≤ 7 then f a n.toNat else far a))

/-- The sign fill of vsra: zeros under ui8. -/
def El.fill (x : El) (a : XVal) : Nat := if x.f = 9 ∧ a.trunc < 0 then 255 else 0

/-- a × 2^n. -/
def scale2 (a : XVal) (n : Int) : XVal :=
  match a with
  | .fin s m d => if 0 ≤ n then .fin s (m * 2 ^ n.toNat) d else .fin s m (d * 2 ^ (-n).toNat)
  | v => v

/-- n of vscal: truncated and clamped (R201). -/
def scaleExp (b : XVal) : Int :=
  match b with
  | .inf s => if s then -1024 else 1024
  | v => max (-1024) (min 1024 v.trunc)

/-- R(f(x)) of a transcendental function, encoded (R203, R204). -/
def El.fun? (x : El) (f : Fun) : Conv :=
  let a := x.c 0
  let (v, c) := special f (roundCf x.f x.fv x.mode) a.1
  let (r, n) := x.enc x.o.td v
  (r, a.2 ++ [x.cnt x.o.td c] ++ n)

/-! ## Reductions and scans (R205, R206) -/

/-- Fold the converted values of a line; an empty one gives `none'`. -/
def foldLine (f : XVal → XVal → XVal) (none' : XVal) : List XVal → XVal
  | [] => none'
  | v :: r => r.foldl f v

/-- A reduction of positions (i, j) of ta into one element. -/
def El.reduce (x : El) (l : List (Nat × Nat)) (f : XVal → XVal → XVal) (none' : XVal) : Conv :=
  let vs := l.map (fun p => x.conv x.o.ta p.1 p.2)
  x.result (foldLine f none' (vs.map (·.1))) (vs.flatMap (·.2))

/-- The bounds of the compute format: −∞ and +∞, or its integer range. -/
def El.least (x : El) : XVal := if isInt x.f then .ofInt (if x.f = 9 then -128 else 0) else .inf true
def El.most (x : El) : XVal := if isInt x.f then .ofInt (if x.f = 9 then 127 else 255) else .inf false

def El.sum (x : El) (a b : XVal) : XVal := a.add b x.rdn

/-- Positions of row i, and of column j, of ta. -/
def rowPos (e : Env) (o : VT) (i : Nat) : List (Nat × Nat) := (List.range (dVCols (e.desc o.ta))).map (fun j => (i, j))
def colPos (e : Env) (o : VT) (j : Nat) : List (Nat × Nat) := (List.range (dVRows (e.desc o.ta))).map (fun i => (i, j))

/-- A row reduction writes column 0. -/
def rowReduce (e : Env) (o : VT) (cf i : Nat) (f : El → XVal → XVal → XVal) (n : El → XVal) : RowOut :=
  rowBy e o cf i ((colsOf e o.td i).filter (· == 0)) every (fun x => x.reduce (rowPos e o i) (f x) (n x))

/-- A column reduction writes row 0, as one progress row. -/
def colReduce (e : Env) (o : VT) (cf : Nat) (f : El → XVal → XVal → XVal) (n : El → XVal) : RowOut :=
  rowBy e o cf 0 (colsOf e o.td 0) every (fun x => x.reduce (colPos e o x.j) (f x) (n x))

/-- The index of the largest or smallest value, of the first NaN where there is one (R205). -/
def argOf (least : Bool) (l : List XVal) : Nat :=
  match l.findIdx? (·.isNan) with
  | some i => i
  | none =>
    (l.zipIdx.foldl (fun (b : Option (XVal × Nat)) p =>
      match b with
      | none => some p
      | some q => if (if least then p.1.below q.1 else q.1.below p.1) then some p else b) none).elim 0 (·.2)

/-- vrarg: an exact integer, not rounded to the compute format (log entry 39). -/
def El.arg (x : El) (least : Bool) : Conv :=
  let vs := (rowPos x.e x.o x.i).map (fun p => x.conv x.o.ta p.1 p.2)
  x.exact (.ofNat (argOf least (vs.map (·.1)))) (vs.flatMap (·.2))

/-- A prefix of `n` positions along a line; the newest conversion alone counts (R153, R206). Log entry 66. -/
def El.upto (x : El) (n : Nat) (pos : Nat → Nat × Nat) : Conv :=
  let vs := (List.range n).map (fun m => x.conv x.o.ta (pos m).1 (pos m).2)
  let dec := vs.flatMap (fun v => v.2.filter (·.dec))
  let last := ((vs.getLast?).elim [] (fun v => v.2.filter (fun c => !c.dec)))
  x.result (foldLine x.sum .zero (vs.map (·.1))) (dec ++ last)

/-- Positions before or up to p. -/
def upTo (o : VT) (p : Nat) : Nat := if bits o.flags 0 1 = 1 then p else p + 1

/-! ## Movement (R202, R207) -/

/-- An exact index below n (R207). -/
def indexOf (v : XVal) (n : Nat) : Option Nat :=
  match v.int? with
  | some x => if 0 ≤ x ∧ x < n then some x.toNat else none
  | none => none

/-- Move one element of ta or tb, Enc(Decode(x)). -/
def El.move (x : El) (t i j : Nat) : Conv := let v := x.src t i j; x.exact v.1 v.2

/-- Move the element that an index names, or zero. -/
def El.pick (x : El) (k : XVal × List Cnt) (n : Nat) (at' : Nat → Nat × Nat) : Conv :=
  match indexOf k.1 n with
  | some m => let v := x.src x.o.ta (at' m).1 (at' m).2; x.exact v.1 (k.2 ++ v.2)
  | none => x.exact .zero k.2

/-- The row of td that vscat writes for source row i. -/
def scatRow (e : Env) (o : VT) (i : Nat) : Option Nat := indexOf (e.decode (fvRd e) o.tb i 0).1 (dVRows (e.desc o.td))

/-- vmov copies codes, of f19 without its container's bits [12:0], which every write gives as zero (R139); a position that
is not read gives +0 of the format (R195, R202). -/
def movRow (e : Env) (o : VT) (i : Nat) : RowOut :=
  let l := (colsOf e o.td i).map (fun j => (j, srcColumn o 0 j))
  let code (n : Nat) : Nat := if baseFmt (dFmt (e.desc o.td)) = 1 then n / 2 ^ 13 * 2 ^ 13 else n
  { reads := l.map (fun p => (o.ta, i, p.2)), writes := l.map (fun p => (o.td, i, p.1, code ((e.code o.ta i p.2).getD (zeroCode e o.ta)))) }

/-- vscat, one source row (R207); into no column it counts nothing (R370). -/
def scatOut (e : Env) (o : VT) (i : Nat) : RowOut :=
  let k := e.decode (fvRd e) o.tb i 0
  if dVCols (e.desc o.td) = 0 then {} else
  match scatRow e o i with
  | none => mkRow e (fvRd e) [] k.2 every
  | some n =>
    let l := (colsOf e o.td n).map (fun j => (j, let x := elAt e o 0 n j; let v := x.src o.ta i j; x.exact v.1 v.2))
    mkRow e (fvRd e) (l.map (fun x => (o.td, n, x.1, x.2.1))) (k.2 ++ l.flatMap (fun x => x.2.2)) every

/-- The tclr of row i: valid elements, or every one (R200). -/
def clrRow (e : Env) (o : VT) (i : Nat) : RowOut :=
  let d := e.desc o.td
  let z := zeroCode e o.td
  let n := if bits o.flags 0 1 = 1 then dCols d else dVCols d
  { writes := (List.range n).map (fun j => (o.td, i, j, z)) }

/-! ## Top-k (R208) -/

/-- a goes before b: NaN first, then descending or ascending. -/
def goesBefore (least : Bool) (a b : XVal) : Bool :=
  if a.isNan then !b.isNan else if b.isNan then false else if least then a.below b else b.below a

/-- Insert a column before the first value that it precedes. -/
def insertTop (least : Bool) (p : XVal × Nat) : List (XVal × Nat) → List (XVal × Nat)
  | [] => [p]
  | q :: r => if goesBefore least p.1 q.1 then p :: q :: r else q :: insertTop least p r

/-- The conversion that orders column j of row i; under MODE 4 it takes a free draw (log entry 38). -/
def topConv (e : Env) (o : VT) (cf i j : Nat) : XVal × Enc :=
  let cap := e.o.cap
  let m : Mode := if fld cap.rm 0 3 = 4 then { m := 4, q := (Config.orderDraw (i * 1024 + j) cap.draw.toNat).toNat } else { m := fld cap.rm 0 3 }
  roundCf (cfFmt cf cap.fv) cap.fv m (e.decode (fvRd e) o.ta i j).1

/-- Columns of row i of ta in order. -/
def topOrder (e : Env) (o : VT) (cf i : Nat) : List Nat :=
  let d := e.desc o.ta
  let l := ((List.range (dVCols d)).filter (fun j => dValid d i j)).map (fun j => ((topConv e o cf i j).1, j))
  (l.foldl (fun acc p => insertTop (bits o.flags 0 1 == 1) p acc) []).map (·.2)

/-- vtopk, one row: values to td and columns to tb, whose exact indices count only where they saturate. The
conversions of elements that are not written count too, into no block; of one that another core's column of td takes, the
decode alone counts here (R152). -/
def topRow (e : Env) (o : VT) (cf i : Nat) : RowOut :=
  let ord := topOrder e o cf i
  let n := dVCols (e.desc o.ta)
  let vals := (colsOf e o.td i).map (fun m =>
    let x := elAt e o cf i m
    (m, match ord[m]? with
      | some j => let v := x.conv o.ta i j; x.result v.1 v.2
      | none => x.exact .zero []))
  let idx := (colsOf e o.tb i).map (fun m =>
    let x := elAt e o cf i m
    let c := x.enc o.tb (.ofNat ((ord[m]?).getD n))
    (m, (c.1, c.2.filter (·.sat))))
  let rest := (ord.drop (dVCols (e.desc o.td))).flatMap (fun j =>
    (e.decode (fvRd e) o.ta i j).2 ++ [{ (topConv e o cf i j).2.cnt o.td 0 with again := true }])
  let away := ((List.range (dVCols (e.desc o.td))).filter (fun m => !(colsOf e o.td i).contains m)).flatMap (fun m =>
    match ord[m]? with
    | some j => (e.decode (fvRd e) o.ta i j).2
    | none => [])
  mkRow e (fvRd e) (vals.map (fun x => (o.td, i, x.1, x.2.1)) ++ idx.map (fun x => (o.tb, i, x.1, x.2.1)))
    (vals.flatMap (fun x => x.2.2) ++ idx.flatMap (fun x => x.2.2) ++ rest ++ away) every

/-! ## Quantisation and status (R209, R211) -/

/-- The scale of one block (R209), rounded under FLUSH and SAT of fv (R146, R148). Log entry 78. -/
def quantScale (g : BitVec 18) (pow2 : Bool) (q : XVal) (l : List XVal) : XVal :=
  if l.any (fun v => v.isNan || v.isInf) then .nan
  else
    let amax := (l.map (·.abs)).foldl (fun a b => if a.lt b then b else a) .zero
    if amax.isZero || q.isZero then .zero
    else
      let r := amax.div q
      if pow2 then
        match r with
        | .fin _ n d =>
          let e := ilog2 n d
          let e := if (if 0 ≤ e then n = d * 2 ^ e.toNat else n * 2 ^ (-e).toNat = d) then e else e + 1
          .dyadic false 1 (max (-149) (min 127 e))
        | v => v
      else f32.val (roundF f32 { m := 3 } (govFlush g) (govSat g) r).code

/-- vquant, one row: scales without counts, then elements by the new scales. -/
def quantRow (e : Env) (o : VT) (i : Nat) : RowOut :=
  let d := e.desc o.td
  let rd := fvRd e
  let b := govBlk rd.g
  let vs := (List.range (dVCols d)).map (fun j => e.decode rd o.ta i j)
  let q := maxFinite (dFmt d) rd.g rd.cb
  let scs := (List.range (ceilDiv (dVCols d) b)).map (fun n => quantScale rd.g (bits o.flags 0 1 == 1) q (((vs.drop (n * b)).take b).map (·.1)))
  let code (s : XVal) : Nat := (roundF f32 rne false false s).code
  let els := (colsOf e o.td i).map (fun j =>
    let x := elAt e o 0 i j
    let c := encScaled (dFmt d) rd.g rd.cb x.mode (scs.getD (j / b) .zero) ((vs.getD j (.zero, [])).1)
    (j, c.code, x.cnt o.td c))
  mkRow e rd (scs.zipIdx.map (fun p => (o.td + 1, i, p.2, code p.1)) ++ els.map (fun x => (o.td, i, x.1, x.2.1)))
    (vs.flatMap (·.2) ++ els.map (fun x => x.2.2)) every

/-- Row 0 of vstat and mstat: the status word of `t`, cleared in the same read with `clr`. Log entry 67. -/
def statRow (e : Env) (td t : Nat) (clr : Bool) : RowOut :=
  let c := e.s.ctx e.core e.o.slot
  let vals := (statusValues (c.a.status t)).zipIdx
  let cols := colsOf e td 0
  { writes := (vals.filter (fun p => cols.contains p.2)).map (fun p => (td, 0, p.2, (rnd32 (.ofNat p.1)).toNat)),
    extra := fun s => if clr then s.updCtx e.core e.o.slot (fun c => c.apply e.o.seq (fun a => a.setStatus t 0)) else s }

/-! ## One row of every vector operation -/

/-- vtrans, one row: element (i, j) from (j, i) of ta. A block of ta counts as saturated with the first of its excess
escapes that this core's elements of td take (R152). -/
def transRow (e : Env) (o : VT) (i : Nat) : RowOut :=
  let rd := fvRd e
  let cnts (i j : Nat) : List Cnt := (e.decode rd o.ta j i).2
  let l := (colsOf e o.td i).map (fun j =>
    let v := e.decode rd o.ta j i
    let again (c : Cnt) : Bool := c.oflow && (List.range i).any (fun h => (colsOf e o.td h).contains j && (cnts h j).any (fun b => b.oflow && b.blk == c.blk))
    (j, (elAt e o 0 i j).exact v.1 (v.2.map (fun c => { c with again := again c }))))
  mkRow e rd (l.map (fun x => (o.td, i, x.1, x.2.1))) (l.flatMap (fun x => x.2.2)) every

/-- Progress row i of a vector operation; none for any other instruction. -/
def vecRow (e : Env) (i : Nat) : Option RowOut :=
  let ew (o : VT) (cf : Nat) (f : El → Conv) : Option RowOut := some (rowBy e o cf i (colsOf e o.td i) every f)
  match e.o.ins with
  | .tclr _ o => some (clrRow e o i)
  | .vadd _ cf o => ew o cf (fun x => x.op2 (fun a b => a.add b x.rdn))
  | .vsub _ cf o => ew o cf (fun x => x.op2 (fun a b => a.sub b x.rdn))
  | .vmul _ cf o => ew o cf (fun x => x.op2 XVal.mul)
  | .vfma _ cf o => ew o cf (fun x => x.op3 (fun a b c => (a.mul b).add c x.rdn))
  | .vfms _ cf o => ew o cf (fun x => x.op3 (fun a b c => (a.mul b).sub c x.rdn))
  | .vfnma _ cf o => ew o cf (fun x => x.op3 (fun a b c => (a.mul b).neg.add c x.rdn))
  | .vmin _ cf o => ew o cf (fun x => x.op2 XVal.min)
  | .vmax _ cf o => ew o cf (fun x => x.op2 XVal.max)
  | .vabs _ cf o => ew o cf (fun x => x.op1 XVal.abs)
  | .vneg _ cf o => ew o cf (fun x => x.op1 XVal.neg)
  | .vclamp _ cf o => ew o cf (fun x => x.op3 (fun a b c => (a.max b).min c))
  | .vsel _ cf o => ew o cf (fun x =>
      let a := x.c 0
      let b := x.c 1
      let c := x.d 2
      x.result (if c.1.isZero then b.1 else a.1) (a.2 ++ b.2 ++ c.2))
  | .vcmp _ cf o => ew o cf (fun x => x.op2 (fun a b => truth (vcond (bits o.flags 0 3) a b)))
  | .vand _ cf o => ew o cf (fun x => x.bits2 (fun a b => a &&& b))
  | .vor _ cf o => ew o cf (fun x => x.bits2 (fun a b => a ||| b))
  | .vxor _ cf o => ew o cf (fun x => x.bits2 (fun a b => a ^^^ b))
  | .vnot _ cf o => ew o cf (fun x => x.bits1 (fun a => 255 - a))
  | .vshl _ cf o => ew o cf (fun x => x.shift (fun a n => pat8 a * 2 ^ n % 256) (fun _ => 0))
  | .vshr _ cf o => ew o cf (fun x => x.shift (fun a n => pat8 a / 2 ^ n) (fun _ => 0))
  | .vsra _ cf o => ew o cf (fun x => x.shift (fun a n => ((a.trunc / 2 ^ n) % 256).toNat) x.fill)
  | .vmov _ o => some (movRow e o i)
  | .vbcast _ o =>
    (match bits o.flags 0 2 with
     | 0 => some (sharedRow (fun i => rowBy e o 0 i (colsOf e o.td i) every (fun x => x.move o.ta 0 0)) i)
     | 1 => some (sharedRow (fun i => rowBy e o 0 i (colsOf e o.td i) every (fun x => x.move o.ta 0 x.j)) i)
     | _ => some (rowBy e o 0 i (colsOf e o.td i) every (fun x => x.move o.ta i 0)))
  | .viota _ cf o => ew o cf (fun x =>
      x.result (.ofNat (match bits o.flags 0 2 with
        | 0 => x.j
        | 1 => x.i
        | _ => x.i * dVCols (e.desc o.td) + x.j)) [])
  | .vcvt _ o => ew o 0 (fun x => let a := x.d 0; x.exact a.1 a.2)
  | .vrcp _ cf o => ew o cf (fun x => x.op1 xrcp)
  | .vrsq _ cf o => ew o cf (fun x => x.op1 xrsq)
  | .vrcpf _ cf o => ew o cf (fun x => x.op2 (xrcpf x.rdn))
  | .vrsqf _ cf o => ew o cf (fun x => x.op2 (xrsqf x.rdn))
  | .vexp2 _ cf o => ew o cf (fun x => x.fun? .exp2)
  | .vlog2 _ cf o => ew o cf (fun x => x.fun? .log2)
  | .vtanh _ cf o => ew o cf (fun x => x.fun? .tanh)
  | .vlgst _ cf o => ew o cf (fun x => x.fun? .lgst)
  | .vsqrt _ cf o => ew o cf (fun x => x.op1 xsqrt)
  | .vrsum _ cf o => some (rowReduce e o cf i El.sum (fun _ => .zero))
  | .vcsum _ cf o => some (colReduce e o cf El.sum (fun _ => .zero))
  | .vrmax _ cf o => some (rowReduce e o cf i (fun _ => XVal.max) El.least)
  | .vcmax _ cf o => some (colReduce e o cf (fun _ => XVal.max) El.least)
  | .vrmin _ cf o => some (rowReduce e o cf i (fun _ => XVal.min) El.most)
  | .vcmin _ cf o => some (colReduce e o cf (fun _ => XVal.min) El.most)
  | .vrarg _ cf o => some (rowBy e o cf i ((colsOf e o.td i).filter (· == 0)) every (fun x => x.arg (bits o.flags 0 1 == 1)))
  | .vscan _ cf o => ew o cf (fun x => x.upto (upTo o x.j) (fun m => (x.i, m)))
  | .vcscan _ cf o =>
    some (sharedRow (fun i => rowBy e o cf i (colsOf e o.td i) every (fun x => x.upto (upTo o x.i) (fun m => (m, x.j)))) i)
  | .vtrans _ o => some (transRow e o i)
  | .vperm _ o => ew o 0 (fun x => x.pick (x.src o.tb x.i x.j) (dCols (e.desc o.ta)) (fun n => (x.i, n)))
  | .vgath _ o =>
    some (sharedRow (fun i => rowBy e o 0 i (colsOf e o.td i) every (fun x =>
      x.pick (x.src o.tb x.i 0) (dRows (e.desc o.ta)) (fun n => (n, x.j)))) i)
  | .vscat _ o => some (sharedRow (scatOut e o) i)
  | .vpack _ o => ew o 0 (fun x => x.move (if x.j % 2 = 0 then o.ta else o.tb) x.i (x.j / 2))
  | .vunpk _ o => ew o 0 (fun x => x.move o.ta x.i (2 * x.j + bits o.flags 0 1))
  | .vtopk _ cf o => some (topRow e o cf i)
  | .vquant _ o => some (quantRow e o i)
  | .vdeq _ o => ew o 0 (fun x =>
      let a := x.src o.ta x.i x.j
      let b := x.src o.tb x.i (x.j / 2 ^ (bits o.flags 0 3 + 4))
      x.exact (a.1.mul b.1) (a.2 ++ b.2))
  | .vscal _ cf o => ew o cf (fun x =>
      let a := x.c 0
      let b := x.d 1
      x.result (if b.1.isNan then .nan else scale2 a.1 (scaleExp b.1)) (a.2 ++ b.2))
  | .vstat _ o => some (statRow e o.td o.ta (bits o.flags 0 1 == 1))
  | _ => none

/-! ## Checks of their own -/

/-- FMT_OPERAND of a destination. -/
def needFmt (t : Nat) (ok : BitVec 128 → Bool) (a : Arch) : Option Trap := tileTrap 0x14 t (!ok (a.desc t))

/-- An operation of the slot that counts into tile `t` and goes on (R153); `m` leaves out the M operations. -/
def countsInto (s : State) (core slot t : Nat) (m : Bool) : Bool :=
  (s.core core).ops.any (fun o => o.slot == slot && !o.predOff && !o.held && o.counts.contains t && !(m && (mForm o.ins).isSome))

/-- The shape of vtopk (R208). -/
def topShape (o : VT) (a : Arch) : Option Trap :=
  let k := dVCols (a.desc o.td)
  if k < 1 ∨ 64 < k then tileTrap 0x23 o.td true
  else tileTrap 0x23 o.tb (dVCols (a.desc o.tb) != k || dVRows (a.desc o.tb) != dVRows (a.desc o.td))

/-- R200: +0 to the elements of td. -/
def semTclr (_ : VT) : SlotSem :=
  plainVec

/-- tclr issues alone in its bundle (R108). -/
def execTclr (h : Head) (o : VT) (s : State) : Host.Outcome State Fault Refusal :=
  .next (issueOne (.tclr h o) (semTclr o) s)

/-- R201: a + b. -/
def semVadd (_ : Nat) (_ : VT) : SlotSem :=
  plainVec

/-- vadd issues alone in its bundle (R108). -/
def execVadd (h : Head) (cf : Nat) (o : VT) (s : State) : Host.Outcome State Fault Refusal :=
  .next (issueOne (.vadd h cf o) (semVadd cf o) s)

/-- R201: a − b. -/
def semVsub (_ : Nat) (_ : VT) : SlotSem :=
  plainVec

/-- vsub issues alone in its bundle (R108). -/
def execVsub (h : Head) (cf : Nat) (o : VT) (s : State) : Host.Outcome State Fault Refusal :=
  .next (issueOne (.vsub h cf o) (semVsub cf o) s)

/-- R201: a × b. -/
def semVmul (_ : Nat) (_ : VT) : SlotSem :=
  plainVec

/-- vmul issues alone in its bundle (R108). -/
def execVmul (h : Head) (cf : Nat) (o : VT) (s : State) : Host.Outcome State Fault Refusal :=
  .next (issueOne (.vmul h cf o) (semVmul cf o) s)

/-- R201: a × b + c. -/
def semVfma (_ : Nat) (_ : VT) : SlotSem :=
  plainVec

/-- vfma issues alone in its bundle (R108). -/
def execVfma (h : Head) (cf : Nat) (o : VT) (s : State) : Host.Outcome State Fault Refusal :=
  .next (issueOne (.vfma h cf o) (semVfma cf o) s)

/-- R201: a × b − c. -/
def semVfms (_ : Nat) (_ : VT) : SlotSem :=
  plainVec

/-- vfms issues alone in its bundle (R108). -/
def execVfms (h : Head) (cf : Nat) (o : VT) (s : State) : Host.Outcome State Fault Refusal :=
  .next (issueOne (.vfms h cf o) (semVfms cf o) s)

/-- R201: −(a × b) + c. -/
def semVfnma (_ : Nat) (_ : VT) : SlotSem :=
  plainVec

/-- vfnma issues alone in its bundle (R108). -/
def execVfnma (h : Head) (cf : Nat) (o : VT) (s : State) : Host.Outcome State Fault Refusal :=
  .next (issueOne (.vfnma h cf o) (semVfnma cf o) s)

/-- R201: the smaller. -/
def semVmin (_ : Nat) (_ : VT) : SlotSem :=
  plainVec

/-- vmin issues alone in its bundle (R108). -/
def execVmin (h : Head) (cf : Nat) (o : VT) (s : State) : Host.Outcome State Fault Refusal :=
  .next (issueOne (.vmin h cf o) (semVmin cf o) s)

/-- R201: the larger. -/
def semVmax (_ : Nat) (_ : VT) : SlotSem :=
  plainVec

/-- vmax issues alone in its bundle (R108). -/
def execVmax (h : Head) (cf : Nat) (o : VT) (s : State) : Host.Outcome State Fault Refusal :=
  .next (issueOne (.vmax h cf o) (semVmax cf o) s)

/-- R201: |a|. -/
def semVabs (_ : Nat) (_ : VT) : SlotSem :=
  plainVec

/-- vabs issues alone in its bundle (R108). -/
def execVabs (h : Head) (cf : Nat) (o : VT) (s : State) : Host.Outcome State Fault Refusal :=
  .next (issueOne (.vabs h cf o) (semVabs cf o) s)

/-- R201: −a. -/
def semVneg (_ : Nat) (_ : VT) : SlotSem :=
  plainVec

/-- vneg issues alone in its bundle (R108). -/
def execVneg (h : Head) (cf : Nat) (o : VT) (s : State) : Host.Outcome State Fault Refusal :=
  .next (issueOne (.vneg h cf o) (semVneg cf o) s)

/-- R201: min(max(a, b), c). -/
def semVclamp (_ : Nat) (_ : VT) : SlotSem :=
  plainVec

/-- vclamp issues alone in its bundle (R108). -/
def execVclamp (h : Head) (cf : Nat) (o : VT) (s : State) : Host.Outcome State Fault Refusal :=
  .next (issueOne (.vclamp h cf o) (semVclamp cf o) s)

/-- R201: a or b by c. -/
def semVsel (_ : Nat) (_ : VT) : SlotSem :=
  plainVec

/-- vsel issues alone in its bundle (R108). -/
def execVsel (h : Head) (cf : Nat) (o : VT) (s : State) : Host.Outcome State Fault Refusal :=
  .next (issueOne (.vsel h cf o) (semVsel cf o) s)

/-- R201: a comparison. -/
def semVcmp (_ : Nat) (_ : VT) : SlotSem :=
  plainVec

/-- vcmp issues alone in its bundle (R108). -/
def execVcmp (h : Head) (cf : Nat) (o : VT) (s : State) : Host.Outcome State Fault Refusal :=
  .next (issueOne (.vcmp h cf o) (semVcmp cf o) s)

/-- R201: bitwise and. -/
def semVand (_ : Nat) (_ : VT) : SlotSem :=
  plainVec

/-- vand issues alone in its bundle (R108). -/
def execVand (h : Head) (cf : Nat) (o : VT) (s : State) : Host.Outcome State Fault Refusal :=
  .next (issueOne (.vand h cf o) (semVand cf o) s)

/-- R201: bitwise or. -/
def semVor (_ : Nat) (_ : VT) : SlotSem :=
  plainVec

/-- vor issues alone in its bundle (R108). -/
def execVor (h : Head) (cf : Nat) (o : VT) (s : State) : Host.Outcome State Fault Refusal :=
  .next (issueOne (.vor h cf o) (semVor cf o) s)

/-- R201: bitwise exclusive or. -/
def semVxor (_ : Nat) (_ : VT) : SlotSem :=
  plainVec

/-- vxor issues alone in its bundle (R108). -/
def execVxor (h : Head) (cf : Nat) (o : VT) (s : State) : Host.Outcome State Fault Refusal :=
  .next (issueOne (.vxor h cf o) (semVxor cf o) s)

/-- R201: the complement. -/
def semVnot (_ : Nat) (_ : VT) : SlotSem :=
  plainVec

/-- vnot issues alone in its bundle (R108). -/
def execVnot (h : Head) (cf : Nat) (o : VT) (s : State) : Host.Outcome State Fault Refusal :=
  .next (issueOne (.vnot h cf o) (semVnot cf o) s)

/-- R201: a left shift. -/
def semVshl (_ : Nat) (_ : VT) : SlotSem :=
  plainVec

/-- vshl issues alone in its bundle (R108). -/
def execVshl (h : Head) (cf : Nat) (o : VT) (s : State) : Host.Outcome State Fault Refusal :=
  .next (issueOne (.vshl h cf o) (semVshl cf o) s)

/-- R201: a logical right shift. -/
def semVshr (_ : Nat) (_ : VT) : SlotSem :=
  plainVec

/-- vshr issues alone in its bundle (R108). -/
def execVshr (h : Head) (cf : Nat) (o : VT) (s : State) : Host.Outcome State Fault Refusal :=
  .next (issueOne (.vshr h cf o) (semVshr cf o) s)

/-- R201: an arithmetic right shift. -/
def semVsra (_ : Nat) (_ : VT) : SlotSem :=
  plainVec

/-- vsra issues alone in its bundle (R108). -/
def execVsra (h : Head) (cf : Nat) (o : VT) (s : State) : Host.Outcome State Fault Refusal :=
  .next (issueOne (.vsra h cf o) (semVsra cf o) s)

/-- R202: codes of one format. -/
def semVmov (o : VT) : SlotSem :=
  vecSem (fun _ a => [needFmt o.td (fun d => dFmt d == dFmt (a.desc o.ta)) a]) (fun _ _ => none)

/-- vmov issues alone in its bundle (R108). -/
def execVmov (h : Head) (o : VT) (s : State) : Host.Outcome State Fault Refusal :=
  .next (issueOne (.vmov h o) (semVmov o) s)

/-- R202: one element, row or column. -/
def semVbcast (_ : VT) : SlotSem :=
  plainVec

/-- vbcast issues alone in its bundle (R108). -/
def execVbcast (h : Head) (o : VT) (s : State) : Host.Outcome State Fault Refusal :=
  .next (issueOne (.vbcast h o) (semVbcast o) s)

/-- R202: indices. -/
def semViota (_ : Nat) (_ : VT) : SlotSem :=
  plainVec

/-- viota issues alone in its bundle (R108). -/
def execViota (h : Head) (cf : Nat) (o : VT) (s : State) : Host.Outcome State Fault Refusal :=
  .next (issueOne (.viota h cf o) (semViota cf o) s)

/-- R202: one rounding into td. -/
def semVcvt (_ : VT) : SlotSem :=
  plainVec

/-- vcvt issues alone in its bundle (R108). -/
def execVcvt (h : Head) (o : VT) (s : State) : Host.Outcome State Fault Refusal :=
  .next (issueOne (.vcvt h o) (semVcvt o) s)

/-- R203: a reciprocal estimate. -/
def semVrcp (_ : Nat) (_ : VT) : SlotSem :=
  plainVec

/-- vrcp issues alone in its bundle (R108). -/
def execVrcp (h : Head) (cf : Nat) (o : VT) (s : State) : Host.Outcome State Fault Refusal :=
  .next (issueOne (.vrcp h cf o) (semVrcp cf o) s)

/-- R203: a reciprocal square root estimate. -/
def semVrsq (_ : Nat) (_ : VT) : SlotSem :=
  plainVec

/-- vrsq issues alone in its bundle (R108). -/
def execVrsq (h : Head) (cf : Nat) (o : VT) (s : State) : Host.Outcome State Fault Refusal :=
  .next (issueOne (.vrsq h cf o) (semVrsq cf o) s)

/-- R203: a Newton step of the reciprocal. -/
def semVrcpf (_ : Nat) (_ : VT) : SlotSem :=
  plainVec

/-- vrcpf issues alone in its bundle (R108). -/
def execVrcpf (h : Head) (cf : Nat) (o : VT) (s : State) : Host.Outcome State Fault Refusal :=
  .next (issueOne (.vrcpf h cf o) (semVrcpf cf o) s)

/-- R203: a Newton step of the reciprocal square root. -/
def semVrsqf (_ : Nat) (_ : VT) : SlotSem :=
  plainVec

/-- vrsqf issues alone in its bundle (R108). -/
def execVrsqf (h : Head) (cf : Nat) (o : VT) (s : State) : Host.Outcome State Fault Refusal :=
  .next (issueOne (.vrsqf h cf o) (semVrsqf cf o) s)

/-- R203: 2^x. -/
def semVexp2 (_ : Nat) (_ : VT) : SlotSem :=
  plainVec

/-- vexp2 issues alone in its bundle (R108). -/
def execVexp2 (h : Head) (cf : Nat) (o : VT) (s : State) : Host.Outcome State Fault Refusal :=
  .next (issueOne (.vexp2 h cf o) (semVexp2 cf o) s)

/-- R203: log2 x. -/
def semVlog2 (_ : Nat) (_ : VT) : SlotSem :=
  plainVec

/-- vlog2 issues alone in its bundle (R108). -/
def execVlog2 (h : Head) (cf : Nat) (o : VT) (s : State) : Host.Outcome State Fault Refusal :=
  .next (issueOne (.vlog2 h cf o) (semVlog2 cf o) s)

/-- R203: tanh x. -/
def semVtanh (_ : Nat) (_ : VT) : SlotSem :=
  plainVec

/-- vtanh issues alone in its bundle (R108). -/
def execVtanh (h : Head) (cf : Nat) (o : VT) (s : State) : Host.Outcome State Fault Refusal :=
  .next (issueOne (.vtanh h cf o) (semVtanh cf o) s)

/-- R203: the logistic of x. -/
def semVlgst (_ : Nat) (_ : VT) : SlotSem :=
  plainVec

/-- vlgst issues alone in its bundle (R108). -/
def execVlgst (h : Head) (cf : Nat) (o : VT) (s : State) : Host.Outcome State Fault Refusal :=
  .next (issueOne (.vlgst h cf o) (semVlgst cf o) s)

/-- R203: the square root. -/
def semVsqrt (_ : Nat) (_ : VT) : SlotSem :=
  plainVec

/-- vsqrt issues alone in its bundle (R108). -/
def execVsqrt (h : Head) (cf : Nat) (o : VT) (s : State) : Host.Outcome State Fault Refusal :=
  .next (issueOne (.vsqrt h cf o) (semVsqrt cf o) s)

/-- R205: row sums. -/
def semVrsum (_ : Nat) (_ : VT) : SlotSem :=
  plainVec

/-- vrsum issues alone in its bundle (R108). -/
def execVrsum (h : Head) (cf : Nat) (o : VT) (s : State) : Host.Outcome State Fault Refusal :=
  .next (issueOne (.vrsum h cf o) (semVrsum cf o) s)

/-- R205: column sums. -/
def semVcsum (_ : Nat) (_ : VT) : SlotSem :=
  plainVec

/-- vcsum issues alone in its bundle (R108). -/
def execVcsum (h : Head) (cf : Nat) (o : VT) (s : State) : Host.Outcome State Fault Refusal :=
  .next (issueOne (.vcsum h cf o) (semVcsum cf o) s)

/-- R205: row maxima. -/
def semVrmax (_ : Nat) (_ : VT) : SlotSem :=
  plainVec

/-- vrmax issues alone in its bundle (R108). -/
def execVrmax (h : Head) (cf : Nat) (o : VT) (s : State) : Host.Outcome State Fault Refusal :=
  .next (issueOne (.vrmax h cf o) (semVrmax cf o) s)

/-- R205: column maxima. -/
def semVcmax (_ : Nat) (_ : VT) : SlotSem :=
  plainVec

/-- vcmax issues alone in its bundle (R108). -/
def execVcmax (h : Head) (cf : Nat) (o : VT) (s : State) : Host.Outcome State Fault Refusal :=
  .next (issueOne (.vcmax h cf o) (semVcmax cf o) s)

/-- R205: row minima. -/
def semVrmin (_ : Nat) (_ : VT) : SlotSem :=
  plainVec

/-- vrmin issues alone in its bundle (R108). -/
def execVrmin (h : Head) (cf : Nat) (o : VT) (s : State) : Host.Outcome State Fault Refusal :=
  .next (issueOne (.vrmin h cf o) (semVrmin cf o) s)

/-- R205: column minima. -/
def semVcmin (_ : Nat) (_ : VT) : SlotSem :=
  plainVec

/-- vcmin issues alone in its bundle (R108). -/
def execVcmin (h : Head) (cf : Nat) (o : VT) (s : State) : Host.Outcome State Fault Refusal :=
  .next (issueOne (.vcmin h cf o) (semVcmin cf o) s)

/-- R205: row indices of the extreme. -/
def semVrarg (_ : Nat) (_ : VT) : SlotSem :=
  plainVec

/-- vrarg issues alone in its bundle (R108). -/
def execVrarg (h : Head) (cf : Nat) (o : VT) (s : State) : Host.Outcome State Fault Refusal :=
  .next (issueOne (.vrarg h cf o) (semVrarg cf o) s)

/-- R206: prefix sums along rows. -/
def semVscan (_ : Nat) (_ : VT) : SlotSem :=
  plainVec

/-- vscan issues alone in its bundle (R108). -/
def execVscan (h : Head) (cf : Nat) (o : VT) (s : State) : Host.Outcome State Fault Refusal :=
  .next (issueOne (.vscan h cf o) (semVscan cf o) s)

/-- R206: prefix sums down columns. -/
def semVcscan (_ : Nat) (_ : VT) : SlotSem :=
  plainVec

/-- vcscan issues alone in its bundle (R108). -/
def execVcscan (h : Head) (cf : Nat) (o : VT) (s : State) : Host.Outcome State Fault Refusal :=
  .next (issueOne (.vcscan h cf o) (semVcscan cf o) s)

/-- R207: the transpose. -/
def semVtrans (_ : VT) : SlotSem :=
  plainVec

/-- vtrans issues alone in its bundle (R108). -/
def execVtrans (h : Head) (o : VT) (s : State) : Host.Outcome State Fault Refusal :=
  .next (issueOne (.vtrans h o) (semVtrans o) s)

/-- R207: columns by index. -/
def semVperm (_ : VT) : SlotSem :=
  plainVec

/-- vperm issues alone in its bundle (R108). -/
def execVperm (h : Head) (o : VT) (s : State) : Host.Outcome State Fault Refusal :=
  .next (issueOne (.vperm h o) (semVperm o) s)

/-- R207: rows by index. -/
def semVgath (_ : VT) : SlotSem :=
  plainVec

/-- vgath issues alone in its bundle (R108). -/
def execVgath (h : Head) (o : VT) (s : State) : Host.Outcome State Fault Refusal :=
  .next (issueOne (.vgath h o) (semVgath o) s)

/-- R207: rows to the rows that an index names. -/
def semVscat (_ : VT) : SlotSem :=
  plainVec

/-- vscat issues alone in its bundle (R108). -/
def execVscat (h : Head) (o : VT) (s : State) : Host.Outcome State Fault Refusal :=
  .next (issueOne (.vscat h o) (semVscat o) s)

/-- R207: columns of ta and tb in turn. -/
def semVpack (_ : VT) : SlotSem :=
  plainVec

/-- vpack issues alone in its bundle (R108). -/
def execVpack (h : Head) (o : VT) (s : State) : Host.Outcome State Fault Refusal :=
  .next (issueOne (.vpack h o) (semVpack o) s)

/-- R207: even or odd columns. -/
def semVunpk (_ : VT) : SlotSem :=
  plainVec

/-- vunpk issues alone in its bundle (R108). -/
def execVunpk (h : Head) (o : VT) (s : State) : Host.Outcome State Fault Refusal :=
  .next (issueOne (.vunpk h o) (semVunpk o) s)

/-- R208: the first k values of each row and their columns. -/
def semVtopk (_ : Nat) (o : VT) : SlotSem :=
  vecSem (fun _ _ => []) (fun _ a => topShape o a)

/-- vtopk issues alone in its bundle (R108). -/
def execVtopk (h : Head) (cf : Nat) (o : VT) (s : State) : Host.Outcome State Fault Refusal :=
  .next (issueOne (.vtopk h cf o) (semVtopk cf o) s)

/-- R209: block scales and elements. -/
def semVquant (o : VT) : SlotSem :=
  vecSem (fun _ a => [needFmt o.td (fun d => isBlock (dFmt d)) a]) (fun _ _ => none)

/-- vquant issues alone in its bundle (R108). -/
def execVquant (h : Head) (o : VT) (s : State) : Host.Outcome State Fault Refusal :=
  .next (issueOne (.vquant h o) (semVquant o) s)

/-- R210: the product with grouped scales. -/
def semVdeq (_ : VT) : SlotSem :=
  plainVec

/-- vdeq issues alone in its bundle (R108). -/
def execVdeq (h : Head) (o : VT) (s : State) : Host.Outcome State Fault Refusal :=
  .next (issueOne (.vdeq h o) (semVdeq o) s)

/-- R201: a × 2^n. -/
def semVscal (_ : Nat) (_ : VT) : SlotSem :=
  plainVec

/-- vscal issues alone in its bundle (R108). -/
def execVscal (h : Head) (cf : Nat) (o : VT) (s : State) : Host.Outcome State Fault Refusal :=
  .next (issueOne (.vscal h cf o) (semVscal cf o) s)

/-- R211: a status word; a copy of its bundle must not write the tile either (R239, R360). -/
def semVstat (o : VT) : SlotSem :=
  { vecSem (fun _ a => [needFmt o.td (fun d => dFmt d == 0) a]) (fun _ _ => none) with named := fun p s => opTiles p.ins (p.ctx s).a 0 ++ [(o.ta, false)], hold := fun p s => countsInto s p.core p.slot o.ta false }

/-- vstat issues alone in its bundle (R108). -/
def execVstat (h : Head) (o : VT) (s : State) : Host.Outcome State Fault Refusal :=
  .next (issueOne (.vstat h o) (semVstat o) s)

end Sys2Proof.Machine
end

