-- ==== Sys2Proof/Machine/Matrix.lean ====
section
/-!
DEFINITION. Sys2Proof/Machine/Matrix.lean: the matrix engine (R154, R155, R213 to R231): issue of its instructions and their rows.
-/
namespace Sys2Proof.Machine

/-! ## Issue (R213 to R222, R359) -/

/-- A matrix operation: the checks of its form, with its own at steps 5 and 6. -/
def matSem (down : Bool) (fmts : At → State → List (Option Trap)) (shape : At → Arch → Option Trap) : SlotSem :=
  { lat := .engine,
    chk := fun p s =>
      match mForm p.ins with
      | none => none
      | some (g, _, f) =>
        let a := (p.ctx s).a
        engineErr p s f (a.gov g) down (fmts p s) (shape p a),
    tiles := fun p s => opTiles p.ins (p.ctx s).a 0,
    eff := startOp }

/-- FMT_OPERAND where a format register and a tile disagree (R218). -/
def agree (g : BitVec 18) (t : Nat) (a : Arch) : Option Trap := tileTrap 0x14 t (govFmt g != dFmt (a.desc t))

/-- FMT_OPERAND where a tile is not of a format. -/
def only (f t : Nat) (a : Arch) : Option Trap := tileTrap 0x14 t (dFmt (a.desc t) != f)

/-- Narrow formats (R218). -/
def isNarrow (f : Nat) : Bool :=
  let b := baseFmt f
  b == 6 || b == 7 || b == 8 || (decide (11 ≤ b) && decide (b ≤ 16))

/-- TILE_SHAPE of a load (R220). -/
def loadShapeErr (i : Instr) (t : Nat) (a : Arch) : Option Trap :=
  let (k, n) := loadShape i (a.desc t)
  tileTrap 0x23 t (decide (64 < n) || decide ((if isNarrow (dFmt (a.desc t)) then 256 else 128) < k))

/-- The plane that an `mma` captures. -/
def mmaPlane (o : MT) (p : At) (s : State) : Plane := (s.core p.core).plane ((o.plane + (p.ctx s).a.role) % 2)

/-- PLANE_EMPTY (R215). -/
def planeErr (o : MT) (p : At) (s : State) : Option Trap :=
  let q := mmaPlane o p s
  if q.owner = some p.slot ∧ (q.loaded || q.loading) = true then none
  else some { code := 0x26, tval := BitVec.ofNat 64 ((o.plane + (p.ctx s).a.role) % 2) }

/-- The formats of an `mma`: fa, the K limit, block sizes and outliers (R144, R146, R218). -/
def mmaFmts (o : MT) (p : At) (s : State) : List (Option Trap) :=
  let a := (p.ctx s).a
  let q := mmaPlane o p s
  let f := dFmt (a.desc o.y)
  [planeErr o p s, agree a.fa o.y a, tileTrap 0x14 o.y (decide (128 < q.kk) && !isNarrow f),
   tileTrap 0x11 o.y (isBlock f && q.blk != 0 && q.blk != govBlk a.fa)]

/-- The outlier rule of an `mma`, the plane's load counted as the weight operand (R222), and its shape. -/
def mmaShape (o : MT) (p : At) (s : State) : Option Trap :=
  let a := (p.ctx s).a
  let q := mmaPlane o p s
  let d := a.desc o.y
  firstOf [tileTrap 0x13 o.y (escapes d a.fa && fld a.fs 7 3 != 0 && q.sub3 && q.nout != 0),
    tileTrap 0x23 o.y (decide (128 < dVRows d) || decide (q.kk < dVCols d))]

/-- The tiles of scl and bias (R225). -/
def drainTiles (o : MT) : List Nat := (if o.zv = 1 then [o.z] else []) ++ (if o.wv = 1 then [o.w] else [])

/-- TILE_SHAPE of `mdrain`. -/
def drainShape (o : MT) (a : Arch) : Option Trap :=
  let d := a.desc o.x
  tileTrap 0x23 o.x (decide (128 < dVRows d) || decide (64 < dVCols d))

/-! ## Loads (R220) -/

/-- Change the plane that an operation captured. -/
def updPlane (e : Env) (f : Plane → Plane) (s : State) : State :=
  s.updCore e.core (fun k => k.setPlane e.o.cap.plane (f (k.plane e.o.cap.plane)))

/-- Row r of the weight tile: weights unscaled at (k, n), and the scales of its block or line. -/
def loadRow (e : Env) (t : Nat) (down : Bool) (r : Nat) : RowOut :=
  let d := e.desc t
  let rd : Rd := { g := e.o.cap.fw, cb := e.o.cap.cbW, down := down, cross := down }
  let b := govBlk rd.g
  let l := (List.range (dVCols d)).map (fun j => (j, e.decodeRaw rd t r j))
  let key (j : Nat) : Nat := if down then 64 * r + j else 64 * j + r
  let code (i j : Nat) : BitVec 32 := BitVec.ofNat 32 ((e.code (t + 1) i j).getD 0)
  let scs : List (Nat × BitVec 32) :=
    if isBlock (dFmt d) = false then []
    else if down then (List.range (dVCols d)).map (fun j => (64 * (r / b) + j, code (r / b) j))
    else (List.range (ceilDiv (dVCols d) b)).map (fun m => (64 * m + r, code r m))
  { mkRow e rd [] (l.flatMap (fun x => x.2.2)) every with
    extra := updPlane e (fun p =>
      let p := if r = 0 then { p with w := [], sc := [] } else p
      { p with w := l.foldl (fun w x => w.set (key x.1) (rnd32 x.2.1) 0) p.w, sc := scs.foldl (fun w x => w.set x.1 x.2 0) p.sc }) }

/-- A load completes: the plane is loaded, unless a later load has taken it; then its earlier record is the
one that a discard gives back (R213, R220, R229). -/
def finishLoad (e : Env) (s : State) : State :=
  let k := s.core e.core
  let p := k.plane e.o.cap.plane
  let p := if e.o.nrows = 0 then { p with w := [], sc := [] } else p
  s.setCore e.core ((k.setPlane e.o.cap.plane p).updRecord e.o.id (fun p => { p with loaded := true, loading := false }))

/-! ## Multiply and accumulate (R154, R155, R222) -/

/-- The exact sum of products for k from lo up, n of them, by IEEE 754 on exact values. -/
def dotSum (a w : Nat → XVal) (lo : Nat) : Nat → XVal
  | 0 => .zero
  | n + 1 => (dotSum a w lo n).add ((a (lo + n)).mul (w (lo + n)))

/-- First loop of R154: one block. -/
def blockStep (a w : Nat → XVal) (sa sw : Nat → XVal) (kk bl : Nat) (c : BitVec 32) (b : Nat) : BitVec 32 :=
  let t := rnd32 (((val32 (rnd32 (dotSum a w (b * bl) (min kk ((b + 1) * bl) - b * bl)))).mul (sa b)).mul (sw b))
  rnd32 ((val32 c).add (val32 t))

/-- Second loop of R154: one product. No block scale enters it, also where the other operand is block-scaled: DESIGN
CHOICE (log entry 120). -/
def wideStep (a w : Nat → XVal) (c : BitVec 32) (k : Nat) : BitVec 32 := rnd32 ((val32 c).add ((a k).mul (w k)))

/-- A sum over K of decoded values in the order of R154: `wide` for f19 and f32. -/
def accumulate (wide : Bool) (a w sa sw : Nat → XVal) (kk bl : Nat) (c : BitVec 32) : BitVec 32 :=
  if wide then (List.range kk).foldl (wideStep a w) c
  else (List.range (ceilDiv kk bl)).foldl (blockStep a w sa sw kk bl) c

/-- What an accumulator code counts (R155, R224). -/
def accCnt (t : Nat) (v : BitVec 32) : Cnt :=
  { t := t, dec := false, el := 0, blk := 0, nan := (val32 v).isNan, inf := (val32 v).isInf }

/-- Row i of an `mma`. -/
def mmaRow (e : Env) (o : MT) (i : Nat) : RowOut :=
  let cap := e.o.cap
  let d := e.desc o.y
  let f := dFmt d
  let rd : Rd := { g := cap.fa, cb := cap.cbA }
  let p := (e.s.core e.core).plane cap.plane
  let av := (List.range (dVCols d)).map (fun k => e.decodeRaw rd o.y i k)
  let bl := if isBlock f then govBlk cap.fa else if cap.pblk ≠ 0 then cap.pblk else 32
  let a (k : Nat) : XVal := (av.getD k (.zero, [])).1
  let sa (b : Nat) : XVal := if isBlock f then e.scale false o.y i b else .ofNat 1
  let l := (List.range cap.pn).map (fun n =>
    let c := if o.acc = 1 then BitVec.ofNat 32 ((e.code o.x i n).getD 0) else 0
    (n, accumulate (f ≤ 1 || cap.pfmt ≤ 1) a (fun k => val32 (p.w.get (64 * k + n) 0)) sa
      (fun b => if cap.pblk ≠ 0 then val32 (p.sc.get (64 * b + n) 0) else .ofNat 1) cap.pk bl c))
  let r := mkRow e rd (l.map (fun x => (o.x, i, x.1, x.2.toNat))) (av.flatMap (·.2) ++ l.map (fun x => accCnt o.x x.2)) every
  { r with reads := r.reads ++ (if o.acc = 1 then (List.range cap.pn).map (fun n => (o.x, i, n)) else []) }

/-- `mzero`: every element (R223). -/
def zeroRow (o : MT) : RowOut :=
  { writes := (List.range 128).flatMap (fun i => (List.range 64).map (fun j => (o.x, i, j, 0))) }

/-- Row i of `mscl` (R224). -/
def sclRow (e : Env) (o : MT) (i : Nat) : RowOut :=
  let n := min 64 (dVCols (e.desc o.y))
  let l := (List.range n).map (fun j =>
    (j, rnd32 ((f32.val ((e.code o.x i j).getD 0)).mul (f32.val ((e.code o.y 0 j).getD 0)))))
  { reads := (List.range n).flatMap (fun j => [(o.x, i, j), (o.y, 0, j)]),
    writes := l.map (fun x => (o.x, i, x.1, x.2.toNat)), counts := l.map (fun x => accCnt o.x x.2) }

/-! ## Draining (R225) -/

/-- Row i of `mdrain`. -/
def drainRow (e : Env) (o : MT) (i : Nat) : RowOut :=
  let cap := e.o.cap
  let d := e.desc o.x
  let fo := cap.fo
  let cb := selCb cap.cbsel cap.cbA cap.cbW
  let val (t r j : Nat) : XVal := f32.val ((e.code t r j).getD 0)
  let l := (colsOf e o.x i).map (fun j =>
    let mode := modeAt cap.rm cap.seed cap.draw (i * dVCols d + j)
    let v := val o.y i j
    let v := if o.zv = 1 then v.mul (val o.z 0 j) else v
    let v := if o.wv = 1 then v.add (val o.w 0 j) (mode.m == 2) else v
    let sc := if isBlock (dFmt d) then f32.val ((e.code (o.x + 1) i (j / govBlk fo)).getD 0) else .zero
    (j, encScaled (dFmt d) fo cb mode sc v))
  { reads := (List.range (dVCols d)).flatMap (fun j => (o.y, i, j) :: (drainTiles o).map (fun t => (t, 0, j))),
    writes := l.map (fun x => (o.x, i, x.1, x.2.code)) ++
      (if o.acc = 1 ∧ 0 < dVCols d then (List.range 64).map (fun j => (o.y, i, j, 0)) else []),
    counts := l.map (fun x => x.2.cnt o.x (cntBlock (dFmt d) fo false i x.1)) }

/-! ## Tables and status (R226 to R228) -/

/-- Row i of `moutl`. -/
def outlRow (e : Env) (o : MT) (i : Nat) : RowOut :=
  let cb := if i = 0 then e.o.cap.cbA else e.o.cap.cbW
  { writes := ((colsOf e o.x i).filter (· < 16)).map (fun j => (o.x, i, j, (cb.get j 0).toNat)) }

/-- The eight values of the record of plane n (R228). -/
def planeValues (p : Plane) (slot n : Nat) : List Nat :=
  if p.loaded && p.owner == some slot then [1, n, p.kk, p.nn, p.fmt, p.blk, p.base, p.waddr] else [0, 0, 0, 0, 0, 0, 0, 0]

/-- Row i of `mstat`: the status word, then the plane records as they stood behind the M operations issued before it
(R216). -/
def mstatRow (e : Env) (o : MT) (i : Nat) : RowOut :=
  if i = 0 then statRow e o.x o.y (o.acc == 1)
  else
    let role := e.o.cap.plane
    let rec' (n : Nat) : List Nat := planeValues (e.o.cap.recs.getD n {}) e.o.slot n
    let vals := (rec' (role % 2) ++ rec' ((role + 1) % 2)).zipIdx
    let cols := colsOf e o.x 1
    { writes := (vals.filter (fun p => cols.contains p.2)).map (fun p => (o.x, 1, p.2, (rnd32 (.ofNat p.1)).toNat)) }

/-- Progress row i of a matrix operation; none for any other instruction. -/
def matRow (e : Env) (i : Nat) : Option RowOut :=
  match e.o.ins with
  | .mloadw _ o => some (loadRow e o.y true i)
  | .mloadwt _ o => some (loadRow e o.y false i)
  | .mma _ o => some (mmaRow e o i)
  | .mzero _ o => some (zeroRow o)
  | .mdrain _ o => some (drainRow e o i)
  | .mscl _ o => some (sclRow e o i)
  | .moutl _ o => some (outlRow e o i)
  | .mstat _ o => some (mstatRow e o i)
  | _ => none

/-- Entries of a table (R226). -/
def tableOf (l : List (BitVec 16)) : Tab (BitVec 16) := l.zipIdx.foldl (fun t p => t.set p.2 p.1 0) []

/-- `mcbl` and `vcbl` (R226): a table is written at the issue of the slot. -/
def writeTable (p : At) (toW : Arch → Bool) (l : Env → List (BitVec 16)) (s : State) (e : Env) : State :=
  s.updCtx p.core p.slot (fun c =>
    { c with a := if toW c.a then { c.a with cbW := tableOf (l e) } else { c.a with cbA := tableOf (l e) } })

/-- An M instruction that acts at its issue on a source tile. -/
def tableSem (o : MT) (fmts : At → State → List (Option Trap)) (toW : Arch → Bool) (l : Env → List (BitVec 16))
    (cnts : Env → List Cnt) : SlotSem :=
  { matSem false fmts (fun _ _ => none) with
    lat := .now,
    eff := fun p s =>
      let e := issueEnv p s (capTiles p.ins (p.ctx s).a 0)
      readAtIssue p s e ((List.range 16).map (fun j => (o.y, 0, j))) (fun s =>
        writeTable p toW l (s.updCtx p.core p.slot (fun c => applyCnts c p.seq (cnts e))) e) }

/-- The checks of an `mma` (R359): PLANE_EMPTY goes before every check that uses the plane. -/
def mmaErr (o : MT) (p : At) (s : State) : Option Trap :=
  match mForm p.ins with
  | none => none
  | some (_, _, f) =>
    let a := (p.ctx s).a
    firstOf [tilesErr (p.ctx s) p.k f a.fa, engineErr p s f a.fa false (mmaFmts o p s) (mmaShape o p s)]

/-- R220: weights with K down the columns. -/
def semMloadw (o : MT) : SlotSem :=
  matSem true (fun p s => [agree (p.ctx s).a.fw o.y (p.ctx s).a]) (fun p a => loadShapeErr p.ins o.y a)

/-- mloadw issues alone in its bundle (R108). -/
def execMloadw (h : Head) (o : MT) (s : State) : Host.Outcome State Fault Refusal :=
  .next (issueOne (.mloadw h o) (semMloadw o) s)

/-- R220: weights with K along the rows. -/
def semMloadwt (o : MT) : SlotSem :=
  matSem false (fun p s => [agree (p.ctx s).a.fw o.y (p.ctx s).a]) (fun p a => loadShapeErr p.ins o.y a)

/-- mloadwt issues alone in its bundle (R108). -/
def execMloadwt (h : Head) (o : MT) (s : State) : Host.Outcome State Fault Refusal :=
  .next (issueOne (.mloadwt h o) (semMloadwt o) s)

/-- R221: ROLE is inverted. -/
def semMswap (_ : MT) : SlotSem :=
  { eff := fun p s => s.updCtx p.core p.slot (fun c => { c with a := { c.a with role := 1 - c.a.role } }) }

/-- mswap issues alone in its bundle (R108). -/
def execMswap (h : Head) (o : MT) (s : State) : Host.Outcome State Fault Refusal :=
  .next (issueOne (.mswap h o) (semMswap o) s)

/-- R222: the product of an A tile and the captured plane. -/
def semMma (o : MT) : SlotSem :=
  { matSem false (mmaFmts o) (fun _ _ => none) with chk := fun p s => mmaErr o p s }

/-- mma issues alone in its bundle (R108). -/
def execMma (h : Head) (o : MT) (s : State) : Host.Outcome State Fault Refusal :=
  .next (issueOne (.mma h o) (semMma o) s)

/-- R223: +0 to every element. -/
def semMzero (_ : MT) : SlotSem :=
  matSem false (fun _ _ => []) (fun _ _ => none)

/-- mzero issues alone in its bundle (R108). -/
def execMzero (h : Head) (o : MT) (s : State) : Host.Outcome State Fault Refusal :=
  .next (issueOne (.mzero h o) (semMzero o) s)

/-- R225: an accumulator into a tile. -/
def semMdrain (o : MT) : SlotSem :=
  matSem false (fun p s => agree (p.ctx s).a.fo o.x (p.ctx s).a :: (drainTiles o).map (fun t => only 0 t (p.ctx s).a)) (fun _ a => drainShape o a)

/-- mdrain issues alone in its bundle (R108). -/
def execMdrain (h : Head) (o : MT) (s : State) : Host.Outcome State Fault Refusal :=
  .next (issueOne (.mdrain h o) (semMdrain o) s)

/-- R226: a codebook table from a bf16 tile. -/
def semMcbl (o : MT) : SlotSem :=
  tableSem o (fun p s => [only 2 o.y (p.ctx s).a]) (fun _ => o.plane == 1) (fun e => (List.range 16).map (fun j => BitVec.ofNat 16 ((e.code o.y 0 j).getD 0))) (fun _ => [])

/-- mcbl issues alone in its bundle (R108). -/
def execMcbl (h : Head) (o : MT) (s : State) : Host.Outcome State Fault Refusal :=
  .next (issueOne (.mcbl h o) (semMcbl o) s)

/-- R227: both codebook tables into a bf16 tile. -/
def semMoutl (o : MT) : SlotSem :=
  matSem false (fun p s => [only 2 o.x (p.ctx s).a]) (fun _ _ => none)

/-- moutl issues alone in its bundle (R108). -/
def execMoutl (h : Head) (o : MT) (s : State) : Host.Outcome State Fault Refusal :=
  .next (issueOne (.moutl h o) (semMoutl o) s)

/-- R224: the columns of an accumulator are scaled. -/
def semMscl (o : MT) : SlotSem :=
  matSem false (fun p s => [only 0 o.y (p.ctx s).a]) (fun _ _ => none)

/-- mscl issues alone in its bundle (R108). -/
def execMscl (h : Head) (o : MT) (s : State) : Host.Outcome State Fault Refusal :=
  .next (issueOne (.mscl h o) (semMscl o) s)

/-- R228: a status word and the plane records. -/
def semMstat (o : MT) : SlotSem :=
  { matSem false (fun p s => [only 0 o.x (p.ctx s).a]) (fun _ _ => none) with hold := fun p s => countsInto s p.core p.slot o.y true }

/-- mstat issues alone in its bundle (R108). -/
def execMstat (h : Head) (o : MT) (s : State) : Host.Outcome State Fault Refusal :=
  .next (issueOne (.mstat h o) (semMstat o) s)

/-- R226: the selected codebook table from any tile, rounded to bf16. -/
def semVcbl (o : MT) : SlotSem :=
  tableSem o (fun _ _ => []) (fun a => fld a.cbsel 0 1 == 1)
    (fun e => (List.range 16).map (fun j =>
      if dValid (e.desc o.y) 0 j then BitVec.ofNat 16 (roundF bf16 rne false false (e.decode (fvRd e) o.y 0 j).1).code else 0))
    (fun e => (List.range 16).flatMap (fun j => (e.decode (fvRd e) o.y 0 j).2))

/-- vcbl issues alone in its bundle (R108). -/
def execVcbl (h : Head) (o : MT) (s : State) : Host.Outcome State Fault Refusal :=
  .next (issueOne (.vcbl h o) (semVcbl o) s)

end Sys2Proof.Machine
end

