-- ==== Sys2Proof/Machine/Copy.lean ====
section
/-!
DEFINITION. Sys2Proof/Machine/Copy.lean: the copy slots (R232 to R255): issue of copies, their rows, the pattern cache, cancel and resume.
-/
namespace Sys2Proof.Machine

/-! ## Checks and holds at issue (R233, R237, R239, R242, R244, R245, R250) -/

/-- s[Y] of the copy at issue. -/
def At.yval (p : At) (s : State) : Word := opYval (p.ctx s).a p.ins

/-- The data tile of a copy with a tile side. -/
def copyTile (i : Instr) : Option Nat :=
  match cForm i with
  | some (.inbound, _, o) | some (.outbound, _, o) => some o.t
  | _ => none

/-- The tile that a gather or scatter takes its indices from (R244). -/
def copyIndex (i : Instr) (y : Word) : Option Nat :=
  match cForm i with
  | some (_, true, _) => some (y.toNat % 64)
  | _ => none

/-- Steps 4 to 7: the data tile, then the index tile; an index tile that is not f32; overlap of the two. -/
def copyErr (p : At) (s : State) : Option Trap :=
  let c := p.ctx s
  let idx := (copyIndex p.ins (p.yval s)).toList
  let tile := (copyTile p.ins).toList
  let dest := match cForm p.ins with
    | some (.inbound, _, _) => tile
    | _ => []
  firstOf ((tile ++ idx).map (checkTile c p.k) ++ idx.map (fun t => tileTrap 0x29 t (dFmt (c.a.desc t) != 0)) ++
    [aliasCheck p.core c p.k false dest idx])

/-- A reserved field of a pattern block is set (R236). -/
def patReserved (b : BitVec 512) : Bool :=
  fld b 27 37 != 0 || [1, 2, 3, 4, 5].any (fun d => fld b (64 * d + 56) 8 != 0) || fld b 384 128 != 0

/-- A cp.pat into the entry is in flight: the copy is held, and judged after it (R237). Log entry 70. -/
def patHold (p : At) (s : State) : Bool :=
  match patEntry p.ins (p.yval s) with
  | some n => (p.ctx s).patLoad.get n 0 != 0
  | none => false

/-- COPY_PATTERN and BAR_BUSY of a patterned copy (R237, R258). -/
def patErr (p : At) (s : State) : Option Trap :=
  let c := p.ctx s
  let y := p.yval s
  match patEntry p.ins y with
  | none => none
  | some n =>
    let bad : Option Trap := some { code := 0x27, tval := BitVec.ofNat 64 n }
    let named := match p.ins with
      | .cpMm .. => true
      | _ => decide (y.toNat < 8)
    if named = false then some { code := 0x27, tval := y }
    else if c.patLoad.get n 0 ≠ 0 then none
    else match c.pats.get n none with
      | none => bad
      | some b =>
        let rows := match copyTile p.ins with
          | some t => dVRows (c.a.desc t)
          | none => 0
        if patReserved b ∨ 256 < patRows b ∨ patRows b < rows then bad
        else if fld b 16 1 = 1 ∧ barBusy s p.core (fld b 17 10) c.team then some { code := 0x50, tval := BitVec.ofNat 64 (fld b 17 10) }
        else none

/-- COPY_TARGET of s[Y] holding more than its low `n` bits. -/
def yErr (n : Nat) (p : At) (s : State) : Option Trap :=
  if 2 ^ n ≤ (p.yval s).toNat then some { code := 0x28, tval := p.yval s } else none

/-- The target cores of a push, with its s[X] value (R242). Log entry 84. -/
def pushTargets (c : Ctx) (i : Instr) (x : Word) : List Nat :=
  match i with
  | .cpSs .. => [c.coreAt (fld x 0 4) (fld x 4 4)]
  | .cpBc .. => (rectCores (fld x 0 4) (fld x 4 4) (fld x 8 3) (fld x 11 3)).map (fun n => c.coreAt (n % 16) (n / 16))
  | _ => []

/-- COPY_TARGET of a push (R242). -/
def pushErr (p : At) (s : State) : Option Trap :=
  let c := p.ctx s
  let x := match copyOf p.ins with
    | some o => c.a.s.get o.x 0
    | none => 0
  let ok := match p.ins with
    | .cpSs .. => decide (x.toNat < 2 ^ 8) && c.inTeam (fld x 0 4) (fld x 4 4)
    | _ => decide (x.toNat < 2 ^ 14) && c.subteam (fld x 0 4) (fld x 4 4) (fld x 8 3) (fld x 11 3)
  if ok then yErr 11 p s else some { code := 0x28, tval := x }

/-- A copy: an engine thread (R232). -/
def copySem (fmt post : At → State → Option Trap) : SlotSem :=
  { lat := .engine,
    chk := fun p s => firstOf [copyErr p s, fmt p s],
    post := fun p s => firstOf [patErr p s, post p s],
    hold := patHold,
    tiles := fun p s => opTiles p.ins (p.ctx s).a (p.yval s),
    eff := startOp }

/-- No check of its own. -/
def noErr (_ : At) (_ : State) : Option Trap := none

/-! ## Places of a row (R60 to R64, R234 to R236) -/

/-- Bytes that lie in one 32-byte word: their place, their number, and the object and offset by which they
were reached. -/
structure Seg where
  pl : Place
  n : Nat
  oid : Nat
  o : Nat
  deriving DecidableEq, Repr

/-- One side of a row: bytes, the last with its low `keep` bits only; a row of an accumulator; a value. -/
inductive Side where
  | segs (l : List Seg) (keep : Nat)
  | acc (n i : Nat)
  | value (b : List Byte)
  deriving DecidableEq, Repr

/-- Cut [o, o + n) at multiples of 32. -/
def cut (o n : Nat) : List (Nat × Nat) :=
  (List.range ((o % 32 + n + 31) / 32)).map (fun j =>
    let lo := max o (32 * (o / 32 + j))
    (lo, min (o + n) (32 * (o / 32 + j + 1)) - lo))

/-- All of a list's values, or its first error. -/
def allOk {α : Type} : List (Except Nat α) → Except Nat (List α)
  | [] => .ok []
  | .error e :: _ => .error e
  | .ok x :: r =>
    match allOk r with
    | .error e => .error e
    | .ok l => .ok (x :: l)

/-- Memory side: `n` bytes at offset `o` of an object; through the remote window they lie in one extent (R64). -/
def memSide (s : State) (core slot oid o n keep : Nat) : Except Nat Side :=
  match (if oid = oidRemote then spadPlace s core slot oid o n else .ok (.sram core 0)) with
  | .error k => .error k
  | .ok _ => (allOk ((cut o n).map (fun x => (place s core slot oid x.1 x.2).map (fun pl => Seg.mk pl x.2 oid x.1)))).map (fun l => Side.segs l keep)

/-- The state in which a row has met an uncorrectable word of a page table, where that is what it met (R385). -/
def sideErr (core slot oid o n : Nat) (d : Except Nat Side) (x : State × Nat) : State × Nat :=
  match d with
  | .error 0x42 =>
    let bad := (cut o n).find? (fun p => match place x.1 core slot oid p.1 p.2 with
      | .error k => k == 0x42
      | .ok _ => false)
    (tableErr x.1 core slot oid ((bad.map (·.1)).getD o) 0x42, x.2)
  | _ => x

/-- Bits of a row on the tile side, its bytes, and the bits of its last byte. -/
def rowBits (d : BitVec 128) : Nat := dVCols d * fmtWidth (dFmt d)
def rowBytes (d : BitVec 128) : Nat := (rowBits d + 7) / 8
def lastBits (d : BitVec 128) : Nat := if rowBits d % 8 = 0 then 8 else rowBits d % 8

/-- `n` bytes at byte `b` of a tile's view. -/
def viewSegs (s : State) (core slot : Nat) (d : BitVec 128) (b n : Nat) : Except Nat (List Seg) :=
  allOk ((cut b n).map (fun x =>
    (if dView d then spadPlace s core slot oidCluster x.1 x.2
     else .ok (.sram core ((s.ctx core slot).extbase + x.1))).map (fun pl => Seg.mk pl x.2 (if dView d then oidCluster else oidLocal) x.1)))

/-- Tile side: row i of tile `t`, across every member in the cluster view (R234). -/
def tileSide (s : State) (core slot t : Nat) (d : BitVec 128) (i : Nat) : Except Nat Side :=
  if 64 ≤ t then .ok (.acc (t - 64) i)
  else (viewSegs s core slot d (dBase d + i * dPitch d) (rowBytes d)).map (fun l => .segs l (lastBits d))

/-! ## Reading and writing a row (R73, R81, R88, R93, R95, R241, R387) -/

/-- Read one piece: its bytes, or the cause that it meets; `seen` holds pieces read ahead. -/
def readSeg (core slot : Nat) (seen : List (Place × List Byte)) (g : Seg) (x : State × Nat) : (State × Nat) × Except Nat (List Byte) :=
  match seen.find? (fun p => p.1 == g.pl && p.2.length == g.n) with
  | some p => (x, .ok p.2)
  | none =>
    let x := touchChunk core slot g.pl g.oid g.o g.n false x
    let s := x.1
    match badAt s core g.pl g.n with
    | some k => ((errorAt s core slot g.pl (BitVec.ofNat 64 g.o), x.2), .error k)
    | none =>
      match g.pl with
      | .sram t a => (x, .ok (s.readSram t a g.n))
      | .dev d pa => (x, .ok (s.readDev d pa g.n))
      | .host a peer =>
        if s.hostDown a peer false then ((dmaErr s core slot (BitVec.ofNat 64 g.o), x.2), .error 0x48)
        else (({ s.askHost (s.ctx core slot).part a peer g.n with fresh := s.fresh + 4 }, x.2), .ok (hostBytes s.fresh g.n))

/-- Read pieces in ascending order. -/
def readSegs (core slot : Nat) (seen : List (Place × List Byte)) : List Seg → State × Nat → (State × Nat) × Except Nat (List Byte)
  | [], x => (x, .ok [])
  | g :: r, x =>
    match readSeg core slot seen g x with
    | (x, .error k) => (x, .error k)
    | (x, .ok b) =>
      match readSegs core slot seen r x with
      | (x, .error k) => (x, .error k)
      | (x, .ok l) => (x, .ok (b ++ l))

/-- The first word of an accumulator row that fails its check. -/
def accRowBad (k : Core) (slot n i : Nat) : Option Nat :=
  (List.range 8).find? (fun w => k.accBad.contains (slot, 4096 * n + 8 * i + w))

/-- A source piece that its row may read later (R93): in scratchpad or device memory, not read ahead, and passing its
check now. -/
def Seg.later (s : State) (core : Nat) (seen : List (Place × List Byte)) (g : Seg) : Bool :=
  !seen.any (fun p => p.1 == g.pl && p.2.length == g.n) && (badAt s core g.pl g.n).isNone &&
  match g.pl with
  | .host .. => false
  | _ => true

/-- Reach the source pieces of row `row` from its byte `at'` up: those that may be read later are left, zeros standing for
their bytes. -/
def reachSegs (core slot row : Nat) (seen : List (Place × List Byte)) : Nat → List Seg → State × Nat → (State × Nat) × Except Nat (List Byte × List Unread)
  | _, [], x => (x, .ok ([], []))
  | at', g :: r, x =>
    if g.later x.1 core seen then
      match reachSegs core slot row seen (at' + g.n) r x with
      | (x, .error k) => (x, .error k)
      | (x, .ok l) => (x, .ok (List.replicate g.n 0 ++ l.1, { row := row, rowAt := at', pl := g.pl, oid := g.oid, o := g.o, n := g.n } :: l.2))
    else
      match readSeg core slot seen g x with
      | (x, .error k) => (x, .error k)
      | (x, .ok b) =>
        match reachSegs core slot row seen (at' + g.n) r x with
        | (x, .error k) => (x, .error k)
        | (x, .ok l) => (x, .ok (b ++ l.1, l.2))

/-- Read one side of a row. -/
def readSide (core slot : Nat) (seen : List (Place × List Byte)) (d : Side) (x : State × Nat) : (State × Nat) × Except Nat (List Byte) :=
  match d with
  | .segs l _ => readSegs core slot seen l x
  | .value b => (x, .ok b)
  | .acc n i =>
    let s := x.1
    match accRowBad (s.core core) slot n i with
    | some w =>
      ((s.uncorr (dieOf core) 3 (accByte slot (4096 * n + 8 * i + w)) (s.ctx core slot).part core (256 * i + 32 * w), x.2), .error 0x43)
    | none => (x, .ok ((List.range 64).flatMap (fun j => toBytes 4 ((s.ctx core slot).acc.get (accKey n i j) 0).toNat)))

/-- What a write of one piece would meet: a failing word that it leaves in part, or a link that is down, host or peer
(R382, R402). -/
def writeFails (s : State) (core : Nat) (g : Seg) (keep : Nat) : Option Nat :=
  match g.pl with
  | .host a peer => if s.hostDown a peer false then some 0x48 else none
  | pl => if keep = 8 then partAt s core pl g.n else badAt s core pl g.n

/-- The pieces that write the bytes of row `row`, from its byte `at'` up, to their places; of the last byte only the low
`keep` bits (R234). -/
def segChunks (keep row : Nat) : Nat → List Seg → List Byte → List Chunk
  | _, [], _ => []
  | at', g :: r, b =>
    let m : List Byte := List.replicate g.n 0xFF
    { pl := g.pl, oid := g.oid, o := g.o, data := b.take g.n, row := row, rowAt := at',
      mask := if r.isEmpty then m.dropLast ++ [BitVec.ofNat 8 (2 ^ keep - 1)] else m } :: segChunks keep row (at' + g.n) r (b.drop g.n)

/-- The first thing that a write of a side would meet, with the state that has logged it. -/
def sideFails (core slot : Nat) (s : State) : Side → Option (Nat × State)
  | .segs l keep =>
    match l.find? (fun g => (writeFails s core g (if some g = l.getLast? then keep else 8)).isSome) with
    | none => none
    | some g =>
      match g.pl with
      | .host .. => some (0x48, dmaErr s core slot (BitVec.ofNat 64 g.o))
      | pl => some ((badAt s core pl g.n).getD 0x43, errorAt s core slot pl (BitVec.ofNat 64 g.o))
  | _ => none

/-- Write one side of a row: an accumulator row at once (log entry 69), anything else as the pieces that it answers. -/
def writeSide (core slot row : Nat) (b : List Byte) (s : State) : Side → State × List Chunk
  | .segs l keep => (s, segChunks keep row 0 l b)
  | .acc n i =>
    let s := s.updCtx core slot (fun c => { c with acc := (List.range 64).foldl (fun (t : Tab (BitVec 32)) (j : Nat) => t.set (accKey n i j) (BitVec.ofNat 32 (ofBytes ((b.drop (4 * j)).take 4))) 0) c.acc })
    (s.updCore core (fun k => { k with accBad := k.accBad.filter (fun w => !(w.1 == slot && w.2 / 8 == 512 * n + i)) }), [])
  | .value _ => (s, [])

/-! ## Rows -/

/-- A row that fails: cause and the offset of the row's first byte (R348). -/
structure CopyFail where
  code : Nat
  off : Word
  deriving DecidableEq, Repr

/-- What a row is to do once its checks have passed and its bytes have places: nothing; move bytes from one side to
others, with the offset that a failure of the source reports and that of one of a destination (log entry 122); make
commutative updates of an object; fill home slices. -/
inductive RowPlan where
  | skip
  | move (src : Side) (dsts : List Side) (soff off : Word)
  | update (src : Side) (dst : List Seg) (off : Word)
  | fill (l : List Seg)

/-- What the checks of a row answer: the machine, the thread's time, and the plan or the failure. -/
abbrev PlanEnd := (State × Nat) × Except CopyFail RowPlan

/-- What a row answers: the machine, the thread's time, and the pieces that it has left to write and to read, or the
failure that stops it. -/
abbrev RowEnd := (State × Nat) × Except CopyFail (List Chunk × List Unread)

/-- The pieces that a row reads. -/
def RowPlan.reads : RowPlan → List Seg
  | .move (.segs l _) .. | .update (.segs l _) .. => l
  | _ => []

/-- Move a row whose sides have been translated, or fail. -/
def moveOk (src dst : Except Nat Side) (soff off : Word) (x : State × Nat) : PlanEnd :=
  match src, dst with
  | .error k, _ => (x, .error { code := k, off := soff })
  | _, .error k => (x, .error { code := k, off := off })
  | .ok a, .ok b => (x, .ok (.move a [b] soff off))

/-- The source of row `row` of a copy that writes its destinations whole, or piece by piece: then its own pieces may be
read later too (R93), but where a row of an accumulator takes the bytes at once. -/
def takeSide (core slot row : Nat) (whole : Bool) (seen : List (Place × List Byte)) (src : Side) (dsts : List Side) (x : State × Nat) : (State × Nat) × Except Nat (List Byte × List Unread) :=
  match src with
  | .segs l _ =>
    if whole || dsts.any (fun d => match d with
      | .acc .. => true
      | _ => false) then
      (match readSegs core slot seen l x with
       | (x, .error k) => (x, .error k)
       | (x, .ok b) => (x, .ok (b, [])))
    else reachSegs core slot row seen 0 l x
  | d =>
    match readSide core slot seen d x with
    | (x, .error k) => (x, .error k)
    | (x, .ok b) => (x, .ok (b, []))

/-- Move a row from one side to others: nothing is written where any part of it fails (R349). Log entry 69. -/
def moveRow (core slot row : Nat) (whole : Bool) (seen : List (Place × List Byte)) (src : Side) (dsts : List Side) (soff off : Word) (x : State × Nat) : RowEnd :=
  match dsts.findSome? (sideFails core slot x.1) with
  | some (k, s) => ((s, x.2), .error { code := k, off := off })
  | none =>
    match takeSide core slot row whole seen src dsts x with
    | (y, .error k) => (y, .error { code := k, off := soff })
    | (y, .ok b) =>
      let w := dsts.foldl (fun (p : State × List Chunk) d => let q := writeSide core slot row b.1 p.1 d; (q.1, p.2 ++ q.2)) (y.1, [])
      ((w.1, y.2), .ok (w.2, b.2))

/-- Indices of pattern row i, and the sum of its strides (R236). -/
def patStep (b : BitVec 512) (i : Nat) : Int :=
  ([1, 2, 3, 4, 5].foldl (fun (r : Int × Nat) d =>
    (r.1 + (r.2 % patCnt b d : Nat) * sNat (fld b (64 * d) 48) 48, r.2 / patCnt b d)) (0, i)).1

/-- Offset of row i on the memory side, from the stepped offset `o` (R235, R236). -/
def rowOffset (e : EOp) (x : CP) (d : BitVec 128) (o : Word) (i : Nat) : Word :=
  match e.cap.pat with
  | some b => o + wrap64 (patStep b i)
  | none => o + wrap64 (i * (if x.y = 0 then (dPitch d : Int) else e.cap.yval.toInt))

/-- The user capability that a row is checked against (R233). -/
def rowCap (s : State) (core slot n : Nat) : BitVec 128 := (s.ctx core slot).a.k.get n 0

/-- The check of R66 for a row. -/
def rowCheck (s : State) (core slot n r : Nat) (off : Word) (len : Nat) : Option CopyFail :=
  let k := rowCap s core slot n
  (capCheck (s.ctx core slot) k (capHas k r) off len).map (fun c => { code := c, off := off })

/-- The index that row i takes (R244): absent where it is not valid. -/
def indexAt (s : State) (core slot : Nat) (d : BitVec 128) (i : Nat) (x : State × Nat) : (State × Nat) × Except Nat (Option Nat) :=
  if dValid d i 0 = false then (x, .ok none) else
  match viewSegs s core slot d (dBase d + i * dPitch d) 4 with
  | .error k => (x, .error k)
  | .ok l =>
    match readSegs core slot [] l x with
    | (x, .error k) => (x, .error k)
    | (x, .ok b) => (x, .ok (indexOf (f32.val (ofBytes b)) (2 ^ 24)))

/-- The remote-window offset of byte `a` of a core's scratchpad (R63). -/
def remoteOff (core a : Nat) : Nat := 2 ^ 27 * (core / 16) + 2 ^ 23 * (core % 16) + a

/-- Remote-window pieces of a row on one target (R242). -/
def pushPieces (c : Ctx) (d : BitVec 128) (i target : Nat) : List (Nat × Nat) :=
  (cut (dBase d + i * dPitch d) (rowBytes d)).map (fun x =>
    if dView d then
      let (m, l) := clusterSplit x.1
      (remoteOff (clusterMember target m) (c.extbase + l), x.2)
    else (remoteOff target (c.extbase + x.1), x.2))

/-- A row of a push (R242): every target before the row commits, the issuing core skipped. -/
def pushRow (core : Nat) (e : EOp) (o : CP) (d : BitVec 128) (i : Nat) (x : State × Nat) : PlanEnd :=
  let s := x.1
  let c := s.ctx core e.slot
  let ts := ((pushTargets c e.ins e.cap.xval).filter (· != core)).map (pushPieces c d i)
  let off := BitVec.ofNat 64 ((ts.flatten.map (·.1)).headD 0)
  let k := rowCap s core e.slot o.k
  if capOid k ≠ oidRemote ∨ capHas k rWR = false then (x, .error { code := 0x30, off := off }) else
  match ts.flatten.findSome? (fun g => rowCheck s core e.slot o.k rWR (BitVec.ofNat 64 g.1) g.2) with
  | some f => (x, .error { f with off := off })
  | none =>
    let side (l : List (Nat × Nat)) : Except Nat Side :=
      (allOk (l.map (fun g => (spadPlace s core e.slot oidRemote g.1 g.2).map (fun pl => Seg.mk pl g.2 oidRemote g.1)))).map (fun l => .segs l (lastBits d))
    match allOk (ts.map side), tileSide s core e.slot o.t d i with
    | .error n, _ | _, .error n => (x, .error { code := n, off := off })
    | .ok l, .ok src => (x, .ok (.move src l off off))

/-- A tile's format suits a commutative range (R245). -/
def suits (cfmt : Nat) (d : BitVec 128) : Bool :=
  match cfmt with
  | 1 => dFmt d == 2
  | 3 => dFmt d == 0 && dVCols d % 2 == 0
  | _ => dFmt d == 0

/-- A row of cp.acc, checked in the order of R83. Log entry 82. -/
def accumRow (core : Nat) (e : EOp) (o : CP) (d : BitVec 128) (i : Nat) (x : State × Nat) : PlanEnd :=
  let s := x.1
  let off := rowOffset e o d e.cap.off i
  let n := rowBytes d
  let stop (x : State × Nat) (k : Nat) : PlanEnd := (x, .error { code := k, off := off })
  match rowCheck s core e.slot o.k rCM off n with
  | some f => (x, .error f)
  | none =>
    let oid := capOid (rowCap s core e.slot o.k)
    let part := (s.ctx core e.slot).part
    if isSpad oid then stop x 0x30
    else if s.entryBad (dieOf core) oid then stop (tableErr s core e.slot oid off.toNat 0x42, x.2) 0x42
    else match s.objOf part oid with
    | none => stop x 0x33
    | some ob =>
      if ob.len < off.toNat + n then stop x 0x33
      else if ob.cr = false ∨ suits ob.cfmt d = false then stop x 0x30
      else if off.toNat % cfmtBytes ob.cfmt ≠ 0 then stop x 0x40
      else
        let m := memSide s core e.slot oid off.toNat n 8
        match m, tileSide s core e.slot o.t d i with
        | .error k, _ | _, .error k => stop (sideErr core e.slot oid off.toNat n m x) k
        | .ok (.segs l _), .ok src =>
          if l.any (fun g => match g.pl with | .host .. => true | _ => false) then stop x 0x41 else (x, .ok (.update src l off))
        | .ok _, .ok _ => (x, .ok .skip)

/-- A prefetch fills the home slices (R247): no access is made, so times stay. -/
def fillRow (core slot : Nat) (l : List Seg) (x : State × Nat) : State × Nat :=
  l.foldl (fun (x : State × Nat) (g : Seg) =>
    match g.pl with
    | .dev d pa => (l2Touch x.1 core slot g.oid (pageNo x.1 core slot g.oid g.o) d (pa / 512) (pa / 32 % 16) (pa / 32 % 16), x.2)
    | _ => x) x

/-- ROWLEN + 1 (R236). -/
def patLen (e : EOp) : Nat :=
  match e.cap.pat with
  | some b => fld b 0 16 + 1
  | none => 0

/-- A row between a memory side of `n` bytes at `off` through k[`kn`] and another side, checked first (R66). -/
def memRow (core : Nat) (e : EOp) (kn n : Nat) (off : Word) (load : Bool) (keep : Nat) (other : Except Nat Side) (x : State × Nat) : PlanEnd :=
  match rowCheck x.1 core e.slot kn (if load then rRD else rWR) off n with
  | some f => (x, .error f)
  | none =>
    let oid := capOid (rowCap x.1 core e.slot kn)
    let m := memSide x.1 core e.slot oid off.toNat n (if load then 8 else keep)
    let x := sideErr core e.slot oid off.toNat n m x
    if load then moveOk m other off off x else moveOk other m off off x

/-- Row i of a gather or scatter whose index is known (R244). A row without one is gathered as +0: as code 0, in a codebook
format too, whose table a copy does not capture (R233; DESIGN CHOICE: log entry 123). -/
def indexedRow (core : Nat) (e : EOp) (o : CP) (d : BitVec 128) (i : Nat) (load : Bool) (n : Option Nat) (x : State × Nat) : PlanEnd :=
  let t := tileSide x.1 core e.slot o.t d i
  match n with
  | none => if load then moveOk (.ok (.value (List.replicate (rowBytes d) 0))) t e.cap.off e.cap.off x else (x, .ok .skip)
  | some n => memRow core e o.k (rowBytes d) (e.cap.off + BitVec.ofNat 64 (n * dPitch d)) load (lastBits d) t x

/-- The checks and places of row i of a copy (R234 to R247). A row whose index cannot be read reports the copy's stepped
offset (log entry 122). -/
def planRow (core : Nat) (e : EOp) (i : Nat) (x : State × Nat) : PlanEnd :=
  let s := x.1
  let desc (t : Nat) : BitVec 128 := if t < 64 then e.cap.descs.get t 0 else accDesc
  let linear (o : CP) (load : Bool) : PlanEnd :=
    let d := desc o.t
    memRow core e o.k (rowBytes d) (rowOffset e o d e.cap.off i) load (lastBits d) (tileSide s core e.slot o.t d i) x
  let indexed (o : CP) (load : Bool) : PlanEnd :=
    match indexAt s core e.slot (desc (e.cap.yval.toNat % 64)) i x with
    | (x, .error k) => (x, .error { code := k, off := e.cap.off })
    | (x, .ok n) => indexedRow core e o (desc o.t) i load n x
  if (copyTile e.ins).any (fun t => rowBits (desc t) == 0) then (x, .ok .skip) else
  match e.ins with
  | .cpLd _ o => linear o true
  | .cpSt _ o => linear o false
  | .cpGath _ o => indexed o true
  | .cpScat _ o => indexed o false
  | .cpSs _ o | .cpBc _ o => pushRow core e o (desc o.t) i x
  | .cpAcc _ o => accumRow core e o (desc o.t) i x
  | .cpFill _ o =>
    let n := rowBytes (desc o.t)
    let v := toBytes 8 e.cap.yval.toNat
    moveOk (.ok (.value ((List.range n).map (fun b => v.getD (b % 8) 0)))) (tileSide s core e.slot o.t (desc o.t) i) 0 0 x
  | .cpMm _ o =>
    let n := patLen e
    let step := match e.cap.pat with
      | some b => wrap64 (patStep b i)
      | none => 0
    let a := e.cap.soff + step
    let b := e.cap.off + step
    let oid (k : Nat) : Nat := capOid (rowCap s core e.slot k)
    (match rowCheck s core e.slot (o.t % 16) rRD a n, rowCheck s core e.slot o.k rWR b n with
     | some f, _ | none, some f => (x, .error f)
     | none, none =>
       let src := memSide s core e.slot (oid (o.t % 16)) a.toNat n 8
       let dst := memSide s core e.slot (oid o.k) b.toNat n 8
       (match src with
        | .error k => (sideErr core e.slot (oid (o.t % 16)) a.toNat n src x, .error { code := k, off := a })
        | .ok _ => moveOk src dst a b (sideErr core e.slot (oid o.k) b.toNat n dst x)))
  | .cpPf _ o =>
    let off := match e.cap.pat with
      | some p => e.cap.off + wrap64 (patStep p i)
      | none => e.cap.off
    let n := if o.pat = 1 then patLen e else e.cap.yval.toNat
    (match rowCheck s core e.slot o.k rRD off n with
     | some f => (x, .error f)
     | none =>
       if n = 0 then (x, .ok .skip) else
       match memSide s core e.slot (capOid (rowCap s core e.slot o.k)) off.toNat n 8 with
       | .ok (.segs l _) => (x, .ok (.fill l))
       | .ok _ => (x, .ok .skip)
       | .error k => (x, .error { code := k, off := off }))
  | _ => (x, .ok .skip)

/-- A row of commutative updates: it fails where the core's own partial of an element fails its check (R385, R387). -/
def updateRow (core row : Nat) (e : EOp) (whole : Bool) (src : Side) (l : List Seg) (off : Word) (x : State × Nat) : RowEnd :=
  match l.find? (fun g => partialBad x.1 core g.pl g.n) with
  | some g => ((partialErr x.1 core e.slot g.pl (BitVec.ofNat 64 g.o), x.2), .error { code := 0x43, off := off })
  | none =>
    match takeSide core e.slot row whole (e.aheadOf row) src [] x with
    | (y, .error k) => (y, .error { code := k, off := off })
    | (y, .ok b) => (y, .ok ((segChunks 8 row 0 l b.1).map (fun g => { g with upd := true }), b.2))

/-- Row i of a copy (R234 to R247): reached, with the pieces that it writes and, unless it moves whole, those that it has
still to read; or nothing of it. -/
def copyRow (core : Nat) (e : EOp) (i : Nat) (whole : Bool) (x : State × Nat) : RowEnd :=
  match planRow core e i x with
  | (x, .error f) => (x, .error f)
  | (x, .ok .skip) => (x, .ok ([], []))
  | (x, .ok (.move src dsts soff off)) => moveRow core e.slot i whole (e.aheadOf i) src dsts soff off x
  | (x, .ok (.update src l off)) => updateRow core i e whole src l off x
  | (x, .ok (.fill l)) => (fillRow core e.slot l x, .ok ([], []))

/-! ## The pattern cache (R237) -/

/-- The stepped offset of cp.pat (R233, R366). -/
def patOff (o : CP) (p : At) (s : State) : Word :=
  let c := p.ctx s
  c.getS o.x + sext64 o.off 14 + BitVec.ofNat 64 p.k * (if p.sl = 4 then c.a.stepC0 else c.a.stepC1)

/-- A copy of the context has captured entry n and has not ended; a stopped one counts while the entry holds
what it captured (R237, R253). -/
def patUsed (p : At) (s : State) (n : Nat) : Bool :=
  let c := p.ctx s
  (s.core p.core).ops.any (fun e => e.slot == p.slot && e.copy && !e.predOff && patEntry e.ins e.cap.yval == some n) ||
  ((c.pats.get n none).isSome && (validWords c.a).any (fun w => fld (c.a.item w 12) 51 1 == 1 && fld (c.a.item w 12) 48 3 == n))

/-- A side of a row has bytes in host memory or PCIe space. -/
def Side.onHost (d : Side) : Bool :=
  match d with
  | .segs l _ => l.any (fun g => match g.pl with
    | .host .. => true
    | _ => false)
  | _ => false

/-- The load of a pattern block: two pieces, each within a word (R237); one that reads host memory awaits its
completion (R382). -/
def loadPattern (o : CP) (p : At) (s : State) : State :=
  let c := p.ctx s
  let x := patOff o p s
  let oid := capOid (c.getK o.k)
  let out := leavesBy p.core oid x.toNat
  let dst : Dst := .pat (o.t % 8)
  let s := s.updCtx p.core p.slot (fun c => { c with patLoad := c.patLoad.set (o.t % 8) (c.patLoad.get (o.t % 8) 0 + 1) 0 })
  let fail (s : State) (k : Nat) : State := answer p s dst 0 12 x out (some k)
  match memSide s p.core p.slot oid x.toNat 64 8 with
  | .error k => bar p (fail (sideErr p.core p.slot oid x.toNat 64 (.error k) (s, c.time)).1 k)
  | .ok d =>
    match readSide p.core p.slot [] d (s, c.time) with
    | (y, .error k) => fail y.1 k
    | (y, .ok b) =>
      let s := answer p (y.1.updCtx p.core p.slot (fun c => { c with time := max c.time y.2 })) dst (BitVec.ofNat 512 (ofBytes b)) 12 x out none
      if d.onHost then
        s.updCtx p.core p.slot (fun c => { c with accs := c.accs.map (fun b => if b.id == (s.core p.core).nextId - 1 then { b with pcie := true, width := 64, asked := s.now } else b) })
      else s

/-! ## Cancel and resume (R248, R249, R253) -/

/-- The tag of a copy is in a mask s[X][31:1]. -/
def inMask (m : Word) (tag : Nat) : Bool := tag != 0 && m.getLsbD tag

/-- The progress word n is that of a copy, with its operation. -/
def stoppedCopy (c : Ctx) (slot n : Nat) : Option EOp :=
  if c.a.progValid n then (progOp c slot n 0).filter (·.copy) else none

/-- A stopped copy is cancelled: its word becomes invalid, its tile empty, its tag frees and its fault goes. -/
def cancelWord (core slot : Nat) (m : Word) (s : State) (n : Nat) : State :=
  let c := s.ctx core slot
  match stoppedCopy c slot n with
  | none => s
  | some e =>
    if inMask m e.tag = false then s else
    let s := s.setCtx core slot { c with a := c.a.progClear n, faults := c.faults.filter (fun f => !(f.tinst == e.waddr && f.slot == e.sl && f.k == e.k && f.async)) }
    let s := e.written.foldl (fun s t => releaseTile s core { e with seq := (s.ctx core slot).iss } t 0) s
    s.updCtx core slot (fun c => c.opDone e.tag c.iss)

/-- R248. Log entry 75. -/
def cancelCopies (o : CP) (p : At) (s : State) : State :=
  let m := (p.ctx s).getS o.x
  let hit (e : EOp) : Bool := e.slot == p.slot && e.copy && inMask m e.tag
  let idle (e : EOp) : Bool := e.gated || e.held || e.predOff
  let x := ((s.core p.core).ops.filter (fun e => hit e && idle e)).foldl (fun (x : State × Nat) e => (cancelCopy x.1 p.core e, max x.2 (writeLeft x.1 p.core e).2)) (s, 0)
  let s := x.1.updCtx p.core p.slot (fun c => c.tagSeen p.tag x.2)
  let s := (List.range 8).foldl (cancelWord p.core p.slot m) s
  let running := (s.core p.core).ops.any hit
  let s := s.updCore p.core (fun k => { k with ops := k.ops.map (fun e => if hit e then { e with stopping := true, cancelTag := e.cancelTag ++ [(p.tag, p.seq)] } else e) })
  if running then s else produce p (.prod 8) .nothing 0 s

/-- The held copy that a selector names. -/
def heldCopy (p : At) (s : State) (x : Word) : Option EOp :=
  (s.core p.core).ops.find? (fun e => e.copy && e.slot == p.slot && e.held && e.entry == fld x 0 5)

/-- COPY_HANDLE of cp.res. -/
def resErr (o : CP) (p : At) (s : State) : Option Trap :=
  let x := (p.ctx s).getS o.x
  let ok := decide (x.toNat < 64) &&
    (if fld x 5 1 = 1 then (heldCopy p s x).isSome else decide (x.toNat < 8) && (stoppedCopy (p.ctx s) p.slot (x.toNat % 8)).isSome)
  if ok then none else some { code := 0x2A, tval := x }

/-- The capability registers that a copy's rows are checked against. -/
def copyCaps (i : Instr) : List Nat :=
  match i with
  | .cpFill .. => []
  | .cpMm _ o => [o.k, o.t % 16]
  | i => ((copyOf i).map (·.k)).toList

/-- R249: the copy goes on at its row, or the instruction is refused in place (R187). -/
def resumeCopy (o : CP) (p : At) (s : State) : State :=
  let c := p.ctx s
  let x := c.getS o.x
  let n := x.toNat % 8
  let held := fld x 5 1 == 1
  let copy := if held then heldCopy p s x else stoppedCopy c p.slot n
  match copy with
  | none => s
  | some e =>
    match (copyCaps e.ins).find? (fun k => !capValid s c.part (c.a.k.get k 0)) with
    | some k => refuse s p.core p.slot p.sl (0x100 + 2 * k)
    | none =>
      if held then s.updCore p.core (fun k => { k with ops := k.ops.map (fun y => if y.id = e.id then { y with held := false, asked := s.now } else y) })
      else if patUsable c p.slot n = false then refuse s p.core p.slot p.sl (0x200 + 16 * n)
      else relaunch s p.core p.slot n p.seq

/-- R241: rows from memory into a tile. -/
def semCpLd (_ : CP) : SlotSem :=
  copySem noErr noErr

/-- cpLd issues alone in its bundle (R108). -/
def execCpLd (h : Head) (o : CP) (s : State) : Host.Outcome State Fault Refusal :=
  .next (issueOne (.cpLd h o) (semCpLd o) s)

/-- R241: rows of a tile to memory. -/
def semCpSt (_ : CP) : SlotSem :=
  copySem noErr noErr

/-- cpSt issues alone in its bundle (R108). -/
def execCpSt (h : Head) (o : CP) (s : State) : Host.Outcome State Fault Refusal :=
  .next (issueOne (.cpSt h o) (semCpSt o) s)

/-- R242: a tile to one teammate. -/
def semCpSs (_ : CP) : SlotSem :=
  copySem noErr pushErr

/-- cpSs issues alone in its bundle (R108). -/
def execCpSs (h : Head) (o : CP) (s : State) : Host.Outcome State Fault Refusal :=
  .next (issueOne (.cpSs h o) (semCpSs o) s)

/-- R243: memory to memory. -/
def semCpMm (_ : CP) : SlotSem :=
  copySem noErr noErr

/-- cpMm issues alone in its bundle (R108). -/
def execCpMm (h : Head) (o : CP) (s : State) : Host.Outcome State Fault Refusal :=
  .next (issueOne (.cpMm h o) (semCpMm o) s)

/-- R244: memory rows by index. -/
def semCpGath (_ : CP) : SlotSem :=
  copySem noErr (yErr 6)

/-- cpGath issues alone in its bundle (R108). -/
def execCpGath (h : Head) (o : CP) (s : State) : Host.Outcome State Fault Refusal :=
  .next (issueOne (.cpGath h o) (semCpGath o) s)

/-- R244: tile rows to memory by index. -/
def semCpScat (_ : CP) : SlotSem :=
  copySem noErr (yErr 6)

/-- cpScat issues alone in its bundle (R108). -/
def execCpScat (h : Head) (o : CP) (s : State) : Host.Outcome State Fault Refusal :=
  .next (issueOne (.cpScat h o) (semCpScat o) s)

/-- R242: a tile to a subteam. -/
def semCpBc (_ : CP) : SlotSem :=
  copySem noErr pushErr

/-- cpBc issues alone in its bundle (R108). -/
def execCpBc (h : Head) (o : CP) (s : State) : Host.Outcome State Fault Refusal :=
  .next (issueOne (.cpBc h o) (semCpBc o) s)

/-- R245: commutative updates. -/
def semCpAcc (o : CP) : SlotSem :=
  copySem (fun p s => let d := (p.ctx s).a.desc o.t; tileTrap 0x29 o.t (dFmt d != 0 && dFmt d != 2)) noErr

/-- cpAcc issues alone in its bundle (R108). -/
def execCpAcc (h : Head) (o : CP) (s : State) : Host.Outcome State Fault Refusal :=
  .next (issueOne (.cpAcc h o) (semCpAcc o) s)

/-- R246: the bytes of a register. -/
def semCpFill (_ : CP) : SlotSem :=
  copySem noErr noErr

/-- cpFill issues alone in its bundle (R108). -/
def execCpFill (h : Head) (o : CP) (s : State) : Host.Outcome State Fault Refusal :=
  .next (issueOne (.cpFill h o) (semCpFill o) s)

/-- R247: a fill of the home L2 slices. -/
def semCpPf (_ : CP) : SlotSem :=
  copySem noErr noErr

/-- cpPf issues alone in its bundle (R108). -/
def execCpPf (h : Head) (o : CP) (s : State) : Host.Outcome State Fault Refusal :=
  .next (issueOne (.cpPf h o) (semCpPf o) s)

/-- R248: copies are cancelled by tag. -/
def semCpCancel (o : CP) : SlotSem :=
  { lat := .prod 8,
    post := fun p s => let m := (p.ctx s).getS o.x; if m.toNat % 2 ≠ 0 ∨ 2 ^ 32 ≤ m.toNat then some { code := 0x2A, tval := m } else none,
    eff := cancelCopies o }

/-- cpCancel issues alone in its bundle (R108). -/
def execCpCancel (h : Head) (o : CP) (s : State) : Host.Outcome State Fault Refusal :=
  .next (issueOne (.cpCancel h o) (semCpCancel o) s)

/-- R249: a copy is resumed, in supervisor mode. -/
def semCpRes (o : CP) : SlotSem :=
  { chk := fun p s => onlySup 0x00B (p.ctx s),
    post := resErr o, eff := resumeCopy o }

/-- cpRes issues alone in its bundle (R108). -/
def execCpRes (h : Head) (o : CP) (s : State) : Host.Outcome State Fault Refusal :=
  .next (issueOne (.cpRes h o) (semCpRes o) s)

/-- R237: a pattern block into the cache. -/
def semCpPat (o : CP) : SlotSem :=
  { lat := .prod 12,
    chk := fun p s =>
      let c := p.ctx s
      let x := patOff o p s
      if x.toNat % 32 ≠ 0 then some { code := 0x40, tval := x }
      else (capCheck c (c.getK o.k) (capHas (c.getK o.k) rRD) x 64).map (fun k => { code := k, tval := x }),
    hold := fun p s => patUsed p s (o.t % 8) || portBarred (leavesBy p.core (capOid ((p.ctx s).getK o.k)) (patOff o p s).toNat) (p.ctx s),
    eff := loadPattern o }

/-- cpPat issues alone in its bundle (R108). -/
def execCpPat (h : Head) (o : CP) (s : State) : Host.Outcome State Fault Refusal :=
  .next (issueOne (.cpPat h o) (semCpPat o) s)

end Sys2Proof.Machine
end

