-- ==== Sys2Proof/Machine/Engine.lean ====
section
/-!
DEFINITION. Sys2Proof/Machine/Engine.lean: engine threads going on by themselves (R51, R191, R196, R232 to R234,
R238, R249, R250, R388). An event that finds nothing to do leaves the state as it is (log entry 16).
-/
namespace Sys2Proof.Machine

/-- An operation of an open region, while the region before it is in its window, reads and writes nothing: what a fogged
region re-executes on is not changed by a later region's rows (R335; log entry 127). -/
def inWindow (s : State) (core : Nat) (o : EOp) : Bool :=
  let c := s.ctx core o.slot
  c.win && c.fixOpen && !o.sup && decide (c.openSeq ≤ o.seq)

/-- An operation goes on: it is not gated, held or asked to stop, and waits out no window. -/
def running (s : State) (core : Nat) (o : EOp) : Bool := !o.gated && !o.held && !o.stopping && !inWindow s core o

/-- An inbound copy that `cp.res` has resumed, and that stops again while its context is in supervisor mode, takes
the first progress word that is not valid (R51, R249). -/
def parkCopy (s : State) (core id : Nat) : State :=
  match s.opAt core id with
  | none => s
  | some o =>
    let c := s.ctx core o.slot
    if c.sup && o.inb && !o.sup then
      match (List.range 8).find? (fun n => !c.a.progValid n) with
      | some n => (dropOp s core o).setCtx core o.slot (c.recordAt [(o, n)])
      | none => s
    else s

/-- The fault of an operation: it is held or stopped, and its trap is pending (R249, R388). -/
def opFault (s : State) (core : Nat) (o : EOp) (code : Nat) (tval : Word) : State :=
  let s := s.updOp core o.id (fun o => { o with held := true, seen := [] })
  let s := s.addFault core o.slot { code := code, async := true, sup := o.sup, tval := tval, tinst := o.waddr, slot := o.sl, k := o.k, seq := o.seq, id := o.id, tag := 0, ord := o.ord }
  let s := parkCopy s core o.id
  if (s.ctx core o.slot).wait = .ctxout then supFaults s core o.slot else s

/-! ## Vector and matrix operations (R91, R153, R196, R217) -/

/-- An operation that uses a weight plane. -/
def usesPlane (i : Instr) : Bool :=
  match i with
  | .mloadw .. | .mloadwt .. | .mma .. => true
  | _ => false

/-- The matrix engine runs a context's operations in issue order, and those of one plane too, gated ones not
excepted (R216). -/
def engineReady (s : State) (core : Nat) (o : EOp) : Bool :=
  (mForm o.ins).isNone || o.predOff ||
  !(s.core core).ops.any (fun e => decide (e.id < o.id) && !e.predOff && (mForm e.ins).isSome &&
    (e.slot == o.slot || (usesPlane e.ins && usesPlane o.ins && e.cap.plane == o.cap.plane)))

/-- The progress row that an operation has next, in the state that it reads: pieces read ahead as they were (R93). -/
def nextRow (s : State) (core : Nat) (o : EOp) : Env × Option RowOut :=
  let e : Env := { s := overlay s o, core := core, o := o }
  (e, match vecRow e o.rows with
    | some r => some r
    | none => matRow e o.rows)

/-- One progress row: done as `go` says, or stopped by a word that fails its check. Log entry 68. -/
def stepRow (go : Env → RowOut → State → State) (s : State) (core : Nat) (o : EOp) : State × Bool :=
  match nextRow s core o with
  | (_, none) => (s, false)
  | (e, some r) =>
    match rowBad e r with
    | some (st, a, arg) => (opFault (s.uncorr (dieOf core) st a (s.ctx core o.slot).part core arg) core o 0x43 0, false)
    | none => (go e r s, true)

/-- Commit a row whole. -/
def wholeRow (e : Env) (r : RowOut) (s : State) : State :=
  (commitRow e r (touchRow e r true s)).updOp e.core e.o.id (fun o => { o with rows := o.rows + 1, seen := [] })

/-- Up to `n` progress rows, each whole. -/
def stepRows (core id : Nat) : Nat → State → State
  | 0, s => s
  | n + 1, s =>
    match s.opAt core id with
    | none => s
    | some o =>
      if o.nrows ≤ o.rows then s else
      match stepRow wholeRow s core o with
      | (s, true) => stepRows core id n s
      | (s, false) => s

/-- An event that names no further row of an operation that has some left, or pieces of them, moves one piece (R93). -/
def pieceTurn (o : EOp) (rows : Nat) : Bool := decide (rows ≤ o.rows) && decide (rows < o.nrows) && (decide (o.rows < o.nrows) || !o.left.isEmpty)

/-- One piece of a vector or matrix operation, by a free value: one that it has left is performed; or its next row is
reached, once the one before it is whole (R196); or one word is read ahead for that row. Log entry 4. -/
def rowPiece (s : State) (core : Nat) (o : EOp) : State :=
  let n := Config.piece s.fresh
  let s := s.draw
  if !o.left.isEmpty then performOne s core n o
  else if n % 2 = 0 then (stepRow reachRow s core o).1
  else
    let a := 32 * (n / 2 % (2 ^ 16 * 3))
    if (o.aheadOf o.rows).any (fun p => p.1 == .sram core a) then s
    else
      let x := spadTouch s core a 32 o.time false
      x.1.updOp core o.id (fun p => { p with seen := p.seen ++ [(o.rows, .sram core a, s.readSram core a 32)], time := x.2 })

/-- An operation whose last row is committed is complete (R191, R213). -/
def endOp (s : State) (core id : Nat) : State :=
  match s.opAt core id with
  | none => s
  | some o =>
    if o.held || decide (o.rows < o.nrows) then s else
    let s := if isLoad o.ins && !o.predOff then finishLoad { s := s, core := core, o := o } s else s
    afterOp (finishOp s core o) core o.slot

/-- ENGINE_OP_COMPLETE (R191): the operation commits rows up to its row `rows`, and completes with its last; or one of
its pieces is moved. -/
def execEngineOpComplete (core id rows : Nat) (s : State) : Host.Outcome State Fault Refusal :=
  .next (match s.opAt core id with
    | none => s
    | some o =>
      if o.copy || !running s core o || !engineReady s core o then s
      else if pieceTurn o rows then rowPiece s core o
      else endOp (stepRows core id (min rows o.nrows - o.rows) (settleOp s core o)) core id)

/-- ENGINE_OP_STOP (R51, R248): a cancelled copy leaves the engine; an operation of a context whose trap is due
stops at its row, all that it has reached written. -/
def execEngineOpStop (core id : Nat) (s : State) : Host.Outcome State Fault Refusal :=
  .next (match s.opAt core id with
    | none => s
    | some o =>
      if o.stopping then afterOp (cancelCopy s core o) core o.slot
      else if o.inb && trapDue (s.ctx core o.slot) then (settleOp s core o).updOp core id (fun o => { o with held := true })
      else s)

/-! ## Copies (R232 to R250) -/

/-- A row of a copy is done: whole, or reached, with the pieces `l` left to write and `u` to read. -/
def doneRow (s : State) (core : Nat) (o : EOp) (time : Nat) (whole : Bool) (l : List Chunk) (u : List Unread) : State :=
  let x := if whole then putChunks core o.slot l (s, time) else (s, time)
  x.1.updOp core o.id (fun p => { p with rows := p.rows + 1, time := x.2, asked := s.now, seen := p.seen.filter (fun q => q.1 != o.rows), left := if whole then p.left else p.left ++ l, unread := p.unread ++ u })

/-- Up to `n` copy rows, each whole or only reached, stopping before one that fails; with it, the failing
row's own end. -/
def copyRows (core id : Nat) (whole : Bool) : Nat → State → State × Option (State × CopyFail)
  | 0, s => (s, none)
  | n + 1, s =>
    match s.opAt core id with
    | none => (s, none)
    | some o =>
      if o.nrows ≤ o.rows then (s, none) else
      match copyRow core o o.rows whole (s, o.time) with
      | ((s', t), .ok l) => copyRows core id whole n (doneRow s' core o t whole l.1 l.2)
      | ((s', _), .error f) => (s, some (s', f))

/-- A copy reads one piece ahead, of its next row or of the row behind those that it has begun so; `n` picks it
(R93, R234). -/
def readAhead (s : State) (core n : Nat) (o : EOp) : State :=
  let begun := ((List.range (o.nrows - o.rows)).takeWhile (fun j => !(o.aheadOf (o.rows + j)).isEmpty)).length
  let i := o.rows + n % (begun + 1)
  if o.nrows ≤ i then s else
  match planRow core o i (s, o.time) with
  | (x, .ok p) =>
    (match p.reads[n / (begun + 1) % max 1 p.reads.length]? with
     | none => s
     | some g =>
       if (o.aheadOf i).any (fun q => q.1 == g.pl) then s else
       match readSeg core o.slot [] g x with
       | (y, .ok b) => y.1.updOp core o.id (fun p => { p with seen := p.seen ++ [(i, g.pl, b)], time := y.2 })
       | _ => s)
  | _ => s

/-- One piece of a copy, by a free value: one that it has left is performed, its next row is reached, or a piece of
a source row is read ahead. Log entry 4. -/
def copyPiece (s : State) (core : Nat) (o : EOp) : State :=
  let n := Config.piece s.fresh
  let s := s.draw
  match n % 3 with
  | 0 => performOne s core (n / 3) o
  | 1 => (copyRows core o.id false 1 s).1
  | _ => readAhead s core (n / 3) o

/-- The arrivals of a copy that completes (R250). -/
def copyArrive (s : State) (core : Nat) (o : EOp) : State :=
  let c := s.ctx core o.slot
  let go (t n : Nat) : Arrival :=
    { core := t, n := n, from' := core, slot := o.slot, team := c.team, time := o.time, for' := .copy o.waddr o.sl o.k o.seq o.id o.sup o.ord }
  if o.predOff then s else
  match o.ins with
  | .cpSs .. | .cpBc .. =>
    if fld o.cap.yval 10 1 = 1 then
      { s with arrs := s.arrs ++ ((pushTargets c o.ins o.cap.xval).filter (· != core)).map (fun t => go t (fld o.cap.yval 0 10)) }
    else s
  | _ =>
    match o.cap.pat with
    | some b => if fld b 16 1 = 1 then { s with arrs := s.arrs ++ [go core (fld b 17 10)] } else s
    | none => s

/-- The source of an outbound copy has been read (R238). -/
def sourceRead (s : State) (core : Nat) (o : EOp) : State :=
  if o.predOff || o.srcDone then s else
  match o.outSource with
  | some (t, con) => (releaseTile s core o t (if con then 0 else 2)).updOp core o.id (fun o => { o with srcDone := true })
  | none => s

/-- A copy that has committed its last row completes: its source, its arrivals, its tiles and its tag. -/
def endCopy (s : State) (core id : Nat) : State :=
  match s.opAt core id with
  | none => s
  | some o =>
    if o.rows < o.nrows then s
    else afterOp (finishOp (copyArrive (sourceRead s core o) core o) core o) core o.slot

/-- COPY_COMPLETE (R234): the copy commits rows up to its row `rows`, and completes with its last; or one of its
pieces is moved. -/
def execCopyComplete (core id rows : Nat) (s : State) : Host.Outcome State Fault Refusal :=
  .next (match s.opAt core id with
    | none => s
    | some o =>
      if !o.copy || !running s core o then s
      else if pieceTurn o rows then copyPiece s core o
      else endCopy (copyRows core id true (min rows o.nrows - o.rows) (settleOp s core o)).1 core id)

/-- COPY_LAST_ROW_READ (R238): an outbound copy has read its last row, every piece of it; its writes may be left. -/
def execCopyLastRowRead (core id : Nat) (s : State) : Host.Outcome State Fault Refusal :=
  .next (match s.opAt core id with
    | none => s
    | some o =>
      if !o.copy || !running s core o || o.outSource.isNone then s
      else match copyRows core id false (o.nrows - o.rows) s with
        | (s', none) => (match s'.opAt core id with
          | some o => sourceRead (settleReads s' core o) core o
          | none => s)
        | (_, some _) => s)

/-- sr.tval of a copy's fault (R348). -/
def copyTval (o : EOp) (f : CopyFail) : Word :=
  BitVec.ofNat 64 (f.off.toNat % 2 ^ 48 + (if o.inb then 0 else o.entry % 32 * 2 ^ 48 + 2 ^ 53) + o.rows % 512 * 2 ^ 54)

/-- The end of a copy's failing row: a prefetch is done, a copy of a failing team is dropped (R347), any other
is held with its trap pending. -/
def stopCopy (s : State) (core : Nat) (o : EOp) (f : CopyFail) : State :=
  match o.ins with
  | .cpPf .. => endCopy (s.updOp core o.id (fun o => { o with rows := o.nrows })) core o.id
  | _ =>
    if (s.team (s.ctx core o.slot).team).any (fun t => t.failed.isSome) then afterOp (cancelCopy s core o) core o.slot
    else opFault s core o f.code (copyTval o f)

/-- COPY_ROW_FAULT (R249): the rows below the failing one are committed, and the copy stops there. -/
def execCopyRowFault (core id : Nat) (s : State) : Host.Outcome State Fault Refusal :=
  .next (match s.opAt core id with
    | none => s
    | some o =>
      if !o.copy || !running s core o then s
      else match copyRows core id true (o.nrows - o.rows) (settleOp s core o) with
        | (_, none) => s
        | (_, some (s', f)) => (match s'.opAt core id with
          | some o => stopCopy s' core o f
          | none => s))

/-! ## Completions of PCIe requests (R382) -/

/-- PCIE_DMA_ERR of an access that waits for a completion (R382): the trap and the event. -/
def pcieFails (s : State) (core slot : Nat) (a : Acc) : State := answerNow (dmaErr s core slot a.off) core slot { a with fault := some 0x48 }

/-- The register value of a completion's data (R168); a pattern block is what its request read. -/
def pcieValue (a : Acc) (data : Word) : BitVec 512 :=
  if a.width = 64 then a.val else
  let v := data.toNat % 2 ^ (8 * a.width)
  ((if a.sgn then sext64 v (8 * a.width) else BitVec.ofNat 64 v)).setWidth 512

/-- Where the first of some pieces in host memory or PCIe space stands in its object. -/
def hostOff (l : List Seg) : Option Nat :=
  (l.find? (fun g => match g.pl with
    | .host .. => true
    | _ => false)).map (·.o)

/-- Where a row asks for bytes of host memory: of its source, or of the last byte of a destination that it writes in part
(R234); with the row's offset on that side (log entry 122). -/
def RowPlan.asks : RowPlan → Option (Nat × Word)
  | .move src dsts soff off =>
    let part (d : Side) : Option Nat := match d with
      | .segs l keep => if keep = 8 then none else hostOff l.getLast?.toList
      | _ => none
    (match src with
     | .segs l _ => (hostOff l).map (fun o => (o, soff))
     | _ => none).or ((dsts.findSome? part).map (fun o => (o, off)))
  | .update (.segs l _) _ off => (hostOff l).map (fun o => (o, off))
  | _ => none

/-- The same for a copy's next row. -/
def hostRow (s : State) (core : Nat) (o : EOp) : Option (Nat × Word) :=
  if o.nrows ≤ o.rows then none else
  match planRow core o o.rows (s, o.time) with
  | (_, .ok p) => p.asks
  | _ => none

/-- A copy's request fails: it stops or is held at the row that made it, and the event is posted (R249, R382). -/
def copyDmaErr (s : State) (core : Nat) (o : EOp) : State :=
  if !o.copy || !running s core o then s else
  match hostRow s core o with
  | none => s
  | some (x, off) => stopCopy (dmaErr (settleOp s core o) core o.slot (BitVec.ofNat 64 x)) core o { code := 0x48, off := off }

/-- The descriptor read of an enqt that waits for its completion (R264). -/
def enqOf (s : State) (core slot id : Nat) : Option Enq :=
  s.enqs.find? (fun e => e.core == core && e.slot == slot && e.id == id && e.pcie == 1)

/-- A descriptor's completion: 2 it has come, 3 it failed. -/
def setEnq (s : State) (e : Enq) (v : Nat) : State := { s with enqs := s.enqs.map (fun x => if x = e then { x with pcie := v } else x) }

/-- PCIE_COMPLETION (R382): of an access, of the descriptor read of an enqt, or of a row of a copy. -/
def execPcieCompletion (core slot id : Nat) (ok : Bool) (data : Word) (s : State) : Host.Outcome State Fault Refusal :=
  .next (match (s.ctx core slot).accOf id with
    | some a =>
      if a.pcie = false then s
      else if ok then answerNow s core slot { a with val := pcieValue a data }
      else pcieFails s core slot a
    | none =>
      match enqOf s core slot id with
      | some e => setEnq s e (if ok then 2 else 3)
      | none =>
        match s.opAt core id with
        | some o => if ok || o.slot != slot then s else copyDmaErr s core o
        | none => s)

/-- A request that went out at `asked` has waited 10 ms (R382). -/
def dmaLate (s : State) (asked : Nat) : Bool := decide (asked + 10000000 ≤ s.now)

/-- PCIE_DMA_TIMEOUT (R382): the completion of a request has not arrived within 10 ms. -/
def execPcieDmaTimeout (core slot id : Nat) (s : State) : Host.Outcome State Fault Refusal :=
  .next (match (s.ctx core slot).accOf id with
    | some a => if a.pcie && dmaLate s a.asked then pcieFails s core slot a else s
    | none =>
      match enqOf s core slot id with
      | some e => if dmaLate s e.asked then setEnq s e 3 else s
      | none =>
        match s.opAt core id with
        | some o => if o.slot == slot && dmaLate s o.asked then copyDmaErr s core o else s
        | none => s)

end Sys2Proof.Machine
end

