-- ==== Sys2Proof/Machine/Scalar.lean ====
section
/-!
DEFINITION. Sys2Proof/Machine/Scalar.lean: the integer and predicate instructions (R109, R156 to R160).
-/
namespace Sys2Proof.Machine

/-- A fixed-latency producer of a scalar register (R109, R156). -/
def intOp (l a : Nat) (v : Ctx → Word) : SlotSem :=
  { lat := .fixed l, eff := fun p s => produce p (.fixed l) ((p.ctx s).dstS a) ((v (p.ctx s)).setWidth 512) s }

/-- A predicate instruction: p[A[2:0]], L = 1 (R160). -/
def predOp (a : Nat) (v : Ctx → Bool) : SlotSem :=
  { lat := .fixed 1, eff := fun p s => produce p (.fixed 1) (.p (a % 8)) (BitVec.ofNat 512 (oneIf (v (p.ctx s)))) s }

/-- IMM33, sign-extended (R156). -/
def immI (o : SI) : Word := sext64 o.imm 33

/-- A shift or rotate amount: b[5:0] (R159). -/
def amount (b : Word) : Nat := b.toNat % 64

/-- Bits [127:64] of a product (R157). -/
def mulHigh (a b : Int) : Word := BitVec.ofInt 64 (a * b / 2 ^ 64)

/-- Quotients and remainders (R158). -/
def divS (a b : Word) : Word :=
  if b = 0 then BitVec.ofNat 64 (2 ^ 64 - 1) else wrap64 (Int.tdiv a.toInt b.toInt)
def remS (a b : Word) : Word := if b = 0 then a else wrap64 (Int.tmod a.toInt b.toInt)
def divU (a b : Word) : Word :=
  if b = 0 then BitVec.ofNat 64 (2 ^ 64 - 1) else BitVec.ofNat 64 (a.toNat / b.toNat)
def remU (a b : Word) : Word := if b = 0 then a else BitVec.ofNat 64 (a.toNat % b.toNat)

/-- Leading and trailing zeros and set bits; 64 of 0 for the first two (R157). -/
def leadZeros (a : Word) : Word := BitVec.ofNat 64 (if a = 0 then 64 else 63 - Nat.log2 a.toNat)
def trailZeros (a : Word) : Word := BitVec.ofNat 64 (((List.range 64).find? (fun i => a.getLsbD i)).getD 64)
def setBits (a : Word) : Word := BitVec.ofNat 64 ((List.range 64).filter (fun i => a.getLsbD i)).length

/-- The conditions of cmp and cmpi by code (R128, R160). -/
def compare (cond : Nat) (a b : Word) : Bool :=
  match cond with
  | 0 => a == b
  | 1 => a != b
  | 2 => decide (a.toInt < b.toInt)
  | 3 => decide (b.toInt ≤ a.toInt)
  | 4 => decide (a.toNat < b.toNat)
  | _ => decide (b.toNat ≤ a.toNat)

/-- R157: the wrapped sum. -/
def semAdd (o : SR) : SlotSem :=
  intOp 1 o.a (fun c => c.getS o.b + c.getS o.c)

/-- add issues alone in its bundle (R108). -/
def execAdd (h : Head) (o : SR) (s : State) : Host.Outcome State Fault Refusal :=
  .next (issueOne (.add h o) (semAdd o) s)

/-- R157: the wrapped sum with the signed immediate. -/
def semAddi (o : SI) : SlotSem :=
  intOp 1 o.a (fun c => c.getS o.b + immI o)

/-- addi issues alone in its bundle (R108). -/
def execAddi (h : Head) (o : SI) (s : State) : Host.Outcome State Fault Refusal :=
  .next (issueOne (.addi h o) (semAddi o) s)

/-- R157: the wrapped difference. -/
def semSub (o : SR) : SlotSem :=
  intOp 1 o.a (fun c => c.getS o.b - c.getS o.c)

/-- sub issues alone in its bundle (R108). -/
def execSub (h : Head) (o : SR) (s : State) : Host.Outcome State Fault Refusal :=
  .next (issueOne (.sub h o) (semSub o) s)

/-- R157: the low half of the product. -/
def semMul (o : SR) : SlotSem :=
  intOp 3 o.a (fun c => c.getS o.b * c.getS o.c)

/-- mul issues alone in its bundle (R108). -/
def execMul (h : Head) (o : SR) (s : State) : Host.Outcome State Fault Refusal :=
  .next (issueOne (.mul h o) (semMul o) s)

/-- R157: the low half of the product with the immediate. -/
def semMuli (o : SI) : SlotSem :=
  intOp 3 o.a (fun c => c.getS o.b * immI o)

/-- muli issues alone in its bundle (R108). -/
def execMuli (h : Head) (o : SI) (s : State) : Host.Outcome State Fault Refusal :=
  .next (issueOne (.muli h o) (semMuli o) s)

/-- R157: the high half of the signed product. -/
def semMulh (o : SR) : SlotSem :=
  intOp 3 o.a (fun c => mulHigh (c.getS o.b).toInt (c.getS o.c).toInt)

/-- mulh issues alone in its bundle (R108). -/
def execMulh (h : Head) (o : SR) (s : State) : Host.Outcome State Fault Refusal :=
  .next (issueOne (.mulh h o) (semMulh o) s)

/-- R157: the high half of the unsigned product. -/
def semMulhz (o : SR) : SlotSem :=
  intOp 3 o.a (fun c => mulHigh (c.getS o.b).toNat (c.getS o.c).toNat)

/-- mulhz issues alone in its bundle (R108). -/
def execMulhz (h : Head) (o : SR) (s : State) : Host.Outcome State Fault Refusal :=
  .next (issueOne (.mulhz h o) (semMulhz o) s)

/-- R158: the signed quotient. -/
def semDiv (o : SR) : SlotSem :=
  intOp 7 o.a (fun c => divS (c.getS o.b) (c.getS o.c))

/-- div issues alone in its bundle (R108). -/
def execDiv (h : Head) (o : SR) (s : State) : Host.Outcome State Fault Refusal :=
  .next (issueOne (.div h o) (semDiv o) s)

/-- R158: the unsigned quotient. -/
def semDivz (o : SR) : SlotSem :=
  intOp 7 o.a (fun c => divU (c.getS o.b) (c.getS o.c))

/-- divz issues alone in its bundle (R108). -/
def execDivz (h : Head) (o : SR) (s : State) : Host.Outcome State Fault Refusal :=
  .next (issueOne (.divz h o) (semDivz o) s)

/-- R158: the signed remainder. -/
def semRem (o : SR) : SlotSem :=
  intOp 7 o.a (fun c => remS (c.getS o.b) (c.getS o.c))

/-- rem issues alone in its bundle (R108). -/
def execRem (h : Head) (o : SR) (s : State) : Host.Outcome State Fault Refusal :=
  .next (issueOne (.rem h o) (semRem o) s)

/-- R158: the unsigned remainder. -/
def semRemz (o : SR) : SlotSem :=
  intOp 7 o.a (fun c => remU (c.getS o.b) (c.getS o.c))

/-- remz issues alone in its bundle (R108). -/
def execRemz (h : Head) (o : SR) (s : State) : Host.Outcome State Fault Refusal :=
  .next (issueOne (.remz h o) (semRemz o) s)

/-- R157: bitwise and. -/
def semAnd (o : SR) : SlotSem :=
  intOp 1 o.a (fun c => c.getS o.b &&& c.getS o.c)

/-- and issues alone in its bundle (R108). -/
def execAnd (h : Head) (o : SR) (s : State) : Host.Outcome State Fault Refusal :=
  .next (issueOne (.and h o) (semAnd o) s)

/-- R157: bitwise and with the sign-extended immediate. -/
def semAndi (o : SI) : SlotSem :=
  intOp 1 o.a (fun c => c.getS o.b &&& immI o)

/-- andi issues alone in its bundle (R108). -/
def execAndi (h : Head) (o : SI) (s : State) : Host.Outcome State Fault Refusal :=
  .next (issueOne (.andi h o) (semAndi o) s)

/-- R157: bitwise or. -/
def semOr (o : SR) : SlotSem :=
  intOp 1 o.a (fun c => c.getS o.b ||| c.getS o.c)

/-- or issues alone in its bundle (R108). -/
def execOr (h : Head) (o : SR) (s : State) : Host.Outcome State Fault Refusal :=
  .next (issueOne (.or h o) (semOr o) s)

/-- R157: bitwise or with the sign-extended immediate. -/
def semOri (o : SI) : SlotSem :=
  intOp 1 o.a (fun c => c.getS o.b ||| immI o)

/-- ori issues alone in its bundle (R108). -/
def execOri (h : Head) (o : SI) (s : State) : Host.Outcome State Fault Refusal :=
  .next (issueOne (.ori h o) (semOri o) s)

/-- R157: bitwise exclusive or. -/
def semXor (o : SR) : SlotSem :=
  intOp 1 o.a (fun c => c.getS o.b ^^^ c.getS o.c)

/-- xor issues alone in its bundle (R108). -/
def execXor (h : Head) (o : SR) (s : State) : Host.Outcome State Fault Refusal :=
  .next (issueOne (.xor h o) (semXor o) s)

/-- R157: bitwise exclusive or with the sign-extended immediate. -/
def semXori (o : SI) : SlotSem :=
  intOp 1 o.a (fun c => c.getS o.b ^^^ immI o)

/-- xori issues alone in its bundle (R108). -/
def execXori (h : Head) (o : SI) (s : State) : Host.Outcome State Fault Refusal :=
  .next (issueOne (.xori h o) (semXori o) s)

/-- R157, R159: shift left by b[5:0]. -/
def semShl (o : SR) : SlotSem :=
  intOp 1 o.a (fun c => c.getS o.b <<< amount (c.getS o.c))

/-- shl issues alone in its bundle (R108). -/
def execShl (h : Head) (o : SR) (s : State) : Host.Outcome State Fault Refusal :=
  .next (issueOne (.shl h o) (semShl o) s)

/-- R157, R159: shift left by the immediate. -/
def semShli (o : SI) : SlotSem :=
  intOp 1 o.a (fun c => c.getS o.b <<< (o.imm % 64))

/-- shli issues alone in its bundle (R108). -/
def execShli (h : Head) (o : SI) (s : State) : Host.Outcome State Fault Refusal :=
  .next (issueOne (.shli h o) (semShli o) s)

/-- R157, R159: logical shift right by b[5:0]. -/
def semShr (o : SR) : SlotSem :=
  intOp 1 o.a (fun c => c.getS o.b >>> amount (c.getS o.c))

/-- shr issues alone in its bundle (R108). -/
def execShr (h : Head) (o : SR) (s : State) : Host.Outcome State Fault Refusal :=
  .next (issueOne (.shr h o) (semShr o) s)

/-- R157, R159: logical shift right by the immediate. -/
def semShri (o : SI) : SlotSem :=
  intOp 1 o.a (fun c => c.getS o.b >>> (o.imm % 64))

/-- shri issues alone in its bundle (R108). -/
def execShri (h : Head) (o : SI) (s : State) : Host.Outcome State Fault Refusal :=
  .next (issueOne (.shri h o) (semShri o) s)

/-- R157, R159: arithmetic shift right by b[5:0]. -/
def semSra (o : SR) : SlotSem :=
  intOp 1 o.a (fun c => (c.getS o.b).sshiftRight (amount (c.getS o.c)))

/-- sra issues alone in its bundle (R108). -/
def execSra (h : Head) (o : SR) (s : State) : Host.Outcome State Fault Refusal :=
  .next (issueOne (.sra h o) (semSra o) s)

/-- R157, R159: arithmetic shift right by the immediate. -/
def semSrai (o : SI) : SlotSem :=
  intOp 1 o.a (fun c => (c.getS o.b).sshiftRight (o.imm % 64))

/-- srai issues alone in its bundle (R108). -/
def execSrai (h : Head) (o : SI) (s : State) : Host.Outcome State Fault Refusal :=
  .next (issueOne (.srai h o) (semSrai o) s)

/-- R157, R159: rotate left by b[5:0]. -/
def semRotl (o : SR) : SlotSem :=
  intOp 1 o.a (fun c => (c.getS o.b).rotateLeft (amount (c.getS o.c)))

/-- rotl issues alone in its bundle (R108). -/
def execRotl (h : Head) (o : SR) (s : State) : Host.Outcome State Fault Refusal :=
  .next (issueOne (.rotl h o) (semRotl o) s)

/-- R157, R159: rotate right by b[5:0]. -/
def semRotr (o : SR) : SlotSem :=
  intOp 1 o.a (fun c => (c.getS o.b).rotateRight (amount (c.getS o.c)))

/-- rotr issues alone in its bundle (R108). -/
def execRotr (h : Head) (o : SR) (s : State) : Host.Outcome State Fault Refusal :=
  .next (issueOne (.rotr h o) (semRotr o) s)

/-- R157: leading zeros. -/
def semClz (o : SR) : SlotSem :=
  intOp 1 o.a (fun c => leadZeros (c.getS o.b))

/-- clz issues alone in its bundle (R108). -/
def execClz (h : Head) (o : SR) (s : State) : Host.Outcome State Fault Refusal :=
  .next (issueOne (.clz h o) (semClz o) s)

/-- R157: trailing zeros. -/
def semCtz (o : SR) : SlotSem :=
  intOp 1 o.a (fun c => trailZeros (c.getS o.b))

/-- ctz issues alone in its bundle (R108). -/
def execCtz (h : Head) (o : SR) (s : State) : Host.Outcome State Fault Refusal :=
  .next (issueOne (.ctz h o) (semCtz o) s)

/-- R157: set bits. -/
def semPopc (o : SR) : SlotSem :=
  intOp 1 o.a (fun c => setBits (c.getS o.b))

/-- popc issues alone in its bundle (R108). -/
def execPopc (h : Head) (o : SR) (s : State) : Host.Outcome State Fault Refusal :=
  .next (issueOne (.popc h o) (semPopc o) s)

/-- R157: the smaller as signed. -/
def semMin (o : SR) : SlotSem :=
  intOp 1 o.a (fun c => if (c.getS o.c).toInt < (c.getS o.b).toInt then c.getS o.c else c.getS o.b)

/-- min issues alone in its bundle (R108). -/
def execMin (h : Head) (o : SR) (s : State) : Host.Outcome State Fault Refusal :=
  .next (issueOne (.min h o) (semMin o) s)

/-- R157: the larger as signed. -/
def semMax (o : SR) : SlotSem :=
  intOp 1 o.a (fun c => if (c.getS o.b).toInt < (c.getS o.c).toInt then c.getS o.c else c.getS o.b)

/-- max issues alone in its bundle (R108). -/
def execMax (h : Head) (o : SR) (s : State) : Host.Outcome State Fault Refusal :=
  .next (issueOne (.max h o) (semMax o) s)

/-- R157: the smaller as unsigned. -/
def semMinz (o : SR) : SlotSem :=
  intOp 1 o.a (fun c => if (c.getS o.c).toNat < (c.getS o.b).toNat then c.getS o.c else c.getS o.b)

/-- minz issues alone in its bundle (R108). -/
def execMinz (h : Head) (o : SR) (s : State) : Host.Outcome State Fault Refusal :=
  .next (issueOne (.minz h o) (semMinz o) s)

/-- R157: the larger as unsigned. -/
def semMaxz (o : SR) : SlotSem :=
  intOp 1 o.a (fun c => if (c.getS o.b).toNat < (c.getS o.c).toNat then c.getS o.c else c.getS o.b)

/-- maxz issues alone in its bundle (R108). -/
def execMaxz (h : Head) (o : SR) (s : State) : Host.Outcome State Fault Refusal :=
  .next (issueOne (.maxz h o) (semMaxz o) s)

/-- R157, R159: sign extension from width C. -/
def semSext (o : SR) : SlotSem :=
  intOp 1 o.a (fun c => sext64 (c.getS o.b).toNat (8 * widthBytes (o.c % 4)))

/-- sext issues alone in its bundle (R108). -/
def execSext (h : Head) (o : SR) (s : State) : Host.Outcome State Fault Refusal :=
  .next (issueOne (.sext h o) (semSext o) s)

/-- R157, R159: zero extension from width C. -/
def semZext (o : SR) : SlotSem :=
  intOp 1 o.a (fun c => BitVec.ofNat 64 ((c.getS o.b).toNat % 2 ^ (8 * widthBytes (o.c % 4))))

/-- zext issues alone in its bundle (R108). -/
def execZext (h : Head) (o : SR) (s : State) : Host.Outcome State Fault Refusal :=
  .next (issueOne (.zext h o) (semZext o) s)

/-- R157: a copy. -/
def semMov (o : SR) : SlotSem :=
  intOp 1 o.a (fun c => c.getS o.b)

/-- mov issues alone in its bundle (R108). -/
def execMov (h : Head) (o : SR) (s : State) : Host.Outcome State Fault Refusal :=
  .next (issueOne (.mov h o) (semMov o) s)

/-- R157: the immediate, sign-extended from bit 38. Log entry 42. -/
def semMovi (o : SL) : SlotSem :=
  intOp 1 o.a (fun _ => sext64 o.imm 39)

/-- movi issues alone in its bundle (R108). -/
def execMovi (h : Head) (o : SL) (s : State) : Host.Outcome State Fault Refusal :=
  .next (issueOne (.movi h o) (semMovi o) s)

/-- R157: the immediate above bits [24:0] of d. -/
def semMovhi (o : SL) : SlotSem :=
  intOp 1 o.a (fun c => BitVec.ofNat 64 (o.imm % 2 ^ 39 * 2 ^ 25 + (c.getS o.a).toNat % 2 ^ 25))

/-- movhi issues alone in its bundle (R108). -/
def execMovhi (h : Head) (o : SL) (s : State) : Host.Outcome State Fault Refusal :=
  .next (issueOne (.movhi h o) (semMovhi o) s)

/-- R157: a or b by a predicate. -/
def semSel (o : SR) : SlotSem :=
  intOp 1 o.a (fun c => if c.getP (o.d % 8) then c.getS o.b else c.getS o.c)

/-- sel issues alone in its bundle (R108). -/
def execSel (h : Head) (o : SR) (s : State) : Host.Outcome State Fault Refusal :=
  .next (issueOne (.sel h o) (semSel o) s)

/-- R160: a predicate from a comparison of registers. -/
def semCmp (o : SR) : SlotSem :=
  predOp o.a (fun c => compare (o.a / 8) (c.getS o.b) (c.getS o.c))

/-- cmp issues alone in its bundle (R108). -/
def execCmp (h : Head) (o : SR) (s : State) : Host.Outcome State Fault Refusal :=
  .next (issueOne (.cmp h o) (semCmp o) s)

/-- R160: a predicate from a comparison with the immediate. -/
def semCmpi (o : SI) : SlotSem :=
  predOp o.a (fun c => compare (o.a / 8) (c.getS o.b) (immI o))

/-- cmpi issues alone in its bundle (R108). -/
def execCmpi (h : Head) (o : SI) (s : State) : Host.Outcome State Fault Refusal :=
  .next (issueOne (.cmpi h o) (semCmpi o) s)

/-- R160: and of predicates. -/
def semPand (o : SR) : SlotSem :=
  predOp o.a (fun c => c.getP (o.b % 8) && c.getP (o.c % 8))

/-- pand issues alone in its bundle (R108). -/
def execPand (h : Head) (o : SR) (s : State) : Host.Outcome State Fault Refusal :=
  .next (issueOne (.pand h o) (semPand o) s)

/-- R160: or of predicates. -/
def semPor (o : SR) : SlotSem :=
  predOp o.a (fun c => c.getP (o.b % 8) || c.getP (o.c % 8))

/-- por issues alone in its bundle (R108). -/
def execPor (h : Head) (o : SR) (s : State) : Host.Outcome State Fault Refusal :=
  .next (issueOne (.por h o) (semPor o) s)

/-- R160: exclusive or of predicates. -/
def semPxor (o : SR) : SlotSem :=
  predOp o.a (fun c => c.getP (o.b % 8) != c.getP (o.c % 8))

/-- pxor issues alone in its bundle (R108). -/
def execPxor (h : Head) (o : SR) (s : State) : Host.Outcome State Fault Refusal :=
  .next (issueOne (.pxor h o) (semPxor o) s)

/-- R160: not of a predicate. -/
def semPnot (o : SR) : SlotSem :=
  predOp o.a (fun c => !c.getP (o.b % 8))

/-- pnot issues alone in its bundle (R108). -/
def execPnot (h : Head) (o : SR) (s : State) : Host.Outcome State Fault Refusal :=
  .next (issueOne (.pnot h o) (semPnot o) s)

/-- R160: a copy of a predicate. -/
def semPmov (o : SR) : SlotSem :=
  predOp o.a (fun c => c.getP (o.b % 8))

/-- pmov issues alone in its bundle (R108). -/
def execPmov (h : Head) (o : SR) (s : State) : Host.Outcome State Fault Refusal :=
  .next (issueOne (.pmov h o) (semPmov o) s)

end Sys2Proof.Machine
end

