-- ==== Sys2Proof/Machine/Sync.lean ====
section
/-!
DEFINITION. Sys2Proof/Machine/Sync.lean: barrier, claim, task, message, join, energy and wear instructions (R256 to R272), and the
events that carry them on.
-/
namespace Sys2Proof.Machine

/-! ## Barriers (R257 to R261) -/

/-- The barrier that a bar form names. -/
def barNo (o : SI) : Nat := bits o.imm 0 10

/-- BAR_BUSY (R258). -/
def busyErr (o : SI) (p : At) (s : State) : Option Trap :=
  if barBusy s p.core (barNo o) (p.ctx s).team then some { code := 0x50, tval := nw (barNo o) } else none

/-- A bar form: a MODE_FAULT in supervisor mode and BAR_BUSY; the first that names a barrier claims it. -/
def barSem (op : Nat) (lat : Lat) (o : SI) (eff : At → State → State) : SlotSem :=
  { lat := lat,
    chk := fun p s => onlyUser op (p.ctx s),
    post := busyErr o,
    eff := fun p s => eff p (claimBar s p.core (barNo o) (p.ctx s).team) }

/-- The scope that bar.init names: SCOPE, TX0, TY0, C and E. -/
def barScope (o : SI) (v : Word) : Nat × Nat × Nat × Nat × Nat :=
  if bits o.imm 10 1 = 1 then (1, fld v 16 4, fld v 20 4, fld v 24 3, fld v 27 3) else (0, 0, 0, 0, 0)

/-- BAR_SCOPE (R259): a barrier that has no scope yet, its EXPECT and SCOPE 0, takes one at any ARRIVED (log entry 41).
Log entry 65. -/
def scopeErr (o : SI) (p : At) (s : State) : Option Trap :=
  let c := p.ctx s
  let v := c.getS o.b
  let b := (s.core p.core).barrier (barNo o)
  let (sc, x, y, w, h) := barScope o v
  let bad := if sc = 1 then
      fld v 30 34 != 0 || !c.subteam x y w h ||
        !(decide (x ≤ c.tx) && decide (c.tx < x + 2 ^ w) && decide (y ≤ c.ty) && decide (c.ty < y + 2 ^ h))
    else fld v 16 48 != 0
  if bad || ((b.expect != 0 || b.scope != 0) && b.arrived != 0 && (b.scope, b.tx0, b.ty0, b.c, b.e) != (sc, x, y, w, h)) then some { code := 0x51, tval := nw (barNo o) }
  else none

/-- bar.init (R259): the counting core completes phases; another core forwards what it has counted and asks
the root for its PHASES (log entry 28). A root whose barrier another team has claimed takes nothing and answers nothing
(DESIGN CHOICE: log entry 124). -/
def initBar (o : SI) (p : At) (s : State) : State :=
  let c := p.ctx s
  let n := barNo o
  let v := c.getS o.b
  let (sc, x, y, w, h) := barScope o v
  let root := if sc = 1 then c.coreAt x y else p.core
  let old := (s.core p.core).barrier n
  let s := s.updBar p.core n (fun b => { b with expect := fld v 0 16, scope := sc, tx0 := x, ty0 := y, c := w, e := h, root := root, arrived := if root = p.core then b.arrived else 0 })
  if root = p.core then completePhases s p.core n
  else
    let s := s.updBar p.core n (fun b => { b with times := [] })
    if barBusy s root n c.team then s else
    let s := claimBar s root n c.team
    let s := s.updBar root n (fun b => { b with arrived := b.arrived + old.arrived, times := b.times ++ old.times })
    let s := completePhases s root n
    { s with answers := s.answers ++ [{ core := p.core, n := n, phases := ((s.core root).barrier n).phases, root := root, team := c.team }] }

/-- The context leaves the ready set in this bundle, which has issued (R41, R57): a rotation point, even if the
wait ends at once (R42). -/
def startWait (p : At) (w : Wait) (s : State) : State :=
  s.updCtx p.core p.slot (fun c => { c with st := .waiting, wait := w, waitPc := p.hdr, waitReps := c.repsNow, waitLv := c.lvNow, waitSeq := p.seq, burst := 256 })

/-- The boundary after this bundle is a restart mark (R272). -/
def markAfter (p : At) (s : State) : State := s.updCtx p.core p.slot (fun c => { c with markDue := true })

/-- A wait for token `t` of barrier `n` (R260, R261): a phase that has completed is left at the largest time among its
arrivals (R81). -/
def waitToken (n t : Nat) (p : At) (s : State) : State :=
  if waitOver ((s.core p.core).barrier n).phases t then
    s.updCtx p.core p.slot (fun c => { c with time := max c.time (phaseTime s p.core n t) })
  else startWait p (.barrier n (some t)) s

/-- bar.wait (R261). -/
def waitBar (o : SI) (p : At) (s : State) : State :=
  waitToken (barNo o) (fld ((p.ctx s).getS o.b) 0 16) p (markAfter p s)

/-- An effect on another party: gated in an open region, else performed (R272). -/
def gateItem (p : At) (g : Gated) (s : State) : State :=
  if (p.ctx s).fixOpen && !(p.ctx s).sup then
    s.updCtx p.core p.slot (fun c => { c with gatedItems := c.gatedItems ++ [g] })
  else (releaseItem s p.core p.slot g).getD s

/-- bar.aw (R261): an arrival, and the wait for its token. One that a yield has taken out of its wait has arrived: it
judges the token that was saved, or awaits it still (R260, R273). -/
def arriveWait (o : SI) (p : At) (s : State) : State :=
  let n := barNo o
  match (p.ctx s).a.aw.filter (fun x => x.1 == p.hdr && x.2.1 == n) with
  | some (_, _, some t) => waitToken n t p (markAfter p s)
  | some (_, _, none) => startWait p (.barrier n none) (markAfter p s)
  | none => startWait p (.barrier n none) (markAfter p (gateItem p (.arrive n p.seq .nothing 0 true) s))

/-- What bar.query reads (R261): EXPECT and ARRIVED at the root. -/
def queryBar (o : SI) (p : At) (s : State) : Word :=
  let n := barNo o
  let b := (s.core p.core).barrier n
  let r := (s.core (countingCore s p.core n)).barrier n
  b.word r.expect r.arrived

/-! ## Tasks (R264) -/

/-- MEM_MISALIGNED and the capability checks of `enqt`. Log entry 31. -/
def enqtErr (o : SR) (c : Ctx) : Option Trap :=
  let x := c.getS o.c
  let k := c.getK (o.b % 16)
  if x.toNat % 64 ≠ 0 then some { code := 0x40, tval := x }
  else (capCheck c k (capHas k rRD) x 256).map (fun e => { code := e, tval := x })

/-- `enqt` sets out with all sixteen capability registers. -/
def doEnqt (o : SR) (p : At) (s : State) : State :=
  let c := p.ctx s
  let id := (s.core p.core).nextId
  let caps : Tab (BitVec 128) := (List.range 16).foldl (fun t i => t.set i (c.getK i) 0) []
  gateItem p (.enqt id p.seq p.k (c.dstS o.a) p.tag p.waddr (c.getS o.c) (c.getK (o.b % 16)) caps c.time)
    (s.updCore p.core (fun k => { k with nextId := k.nextId + 1 }))

/-! ## Messages (R265, R266) -/

/-- The team index that s[B] of `enqm` names. -/
def msgIndex (c : Ctx) (v : Word) : Nat := fld v 0 4 + fld v 4 4 * 2 ^ c.ea

/-- MSG_TARGET of `enqm`. -/
def enqmErr (o : SR) (c : Ctx) : Option Trap :=
  let v := c.getS o.b
  if fld v 11 53 ≠ 0 ∨ c.inTeam (fld v 0 4) (fld v 4 4) = false then some { code := 0x53, tval := v } else none

/-- `enqm` outside a region waits for a slot of its target queue; in one its release does (R265, R272). -/
def enqmHold (o : SR) (p : At) (s : State) : Bool :=
  let c := p.ctx s
  !c.fixOpen && !s.queueFree c.team (msgIndex c (c.getS o.b)) (fld (c.getS o.b) 8 2)

def doEnqm (o : SR) (p : At) (s : State) : State :=
  let c := p.ctx s
  let v := c.getS o.b
  gateItem p (.enqm p.seq (c.dstS o.a) p.tag (msgIndex c v) (fld v 8 2) (fld v 10 1 == 1) (c.getS o.c)) s

/-- `deqm` (R266, R272): the first message of the queue recorded before a rollback, the oldest of the queue, none, or a wait. -/
def doDeqm (o : SR) (p : At) (s : State) : State :=
  let c := p.ctx s
  let v := c.getS o.c
  let q := fld v 0 2
  let take (c : Ctx) (q : Nat) (m : Msg) : Ctx :=
    let c := { c with recMsgs := if c.fixOpen || c.win then c.recMsgs ++ [(p.seq, q, m)] else c.recMsgs }
    deliverMsg c m q (.h (o.a % 8)) (c.dstS o.b) p.seq p.tag
  match c.playMsgs.find? (fun x => x.1 == q) with
  | some (q', m) => s.setCtx p.core p.slot (take { c with playMsgs := c.playMsgs.erase (q', m) } q' m)
  | none =>
    match c.queue q with
    | m :: r => s.setCtx p.core p.slot (take { c with q := c.q.set q r [] } q m)
    | [] =>
      if fld v 2 1 = 1 then produce p (.prod 8) (c.dstS o.b) 0 s
      else startWait p (.queue q (o.a % 8) o.b p.tag) s

/-! ## Copies and variants (R267, R268) -/

/-- The copies of a context that cpjoin names. -/
def joins (o : SI) (x : EOp) : Bool := x.copy && (bits o.imm 0 1 == 1 || (x.tag != 0 && bits o.imm x.tag 1 == 1))

/-- Those in the engine. -/
def joined (o : SI) (p : At) (s : State) : List EOp :=
  (s.core p.core).ops.filter (fun x => x.slot == p.slot && joins o x)

/-- One stopped with a valid progress word has not completed. -/
def joinStopped (o : SI) (p : At) (s : State) : Bool :=
  let c := p.ctx s
  (validWords c.a).any (fun n => (progOp c p.slot n 0).any (joins o))

/-- The variants that a context's task carries. -/
def variantCount (c : Ctx) (s : State) : Nat :=
  match (s.team c.team).bind (fun t => s.task t.task) with
  | some k => k.vars.length
  | none => 0

def setPref (o : SI) (p : At) (s : State) : State :=
  match s.team (p.ctx s).team with
  | some t => s.updTask t.task (fun k => { k with pref := if bits o.imm 2 1 = 1 then none else some (bits o.imm 0 2) })
  | none => s

/-! ## Budget and wear (R269, R271) -/

/-- sr.budget of an island, as it stood at the last close. -/
def budgetWord (s : State) (i : Nat) : Word :=
  nw ((s.island i).told % 2 ^ 24 + i % 64 * 2 ^ 24 + s.intv % 2 ^ 32 * 2 ^ 32)

/-- sr.wear. -/
def wearWord (s : State) (core : Nat) (c : Ctx) : Word :=
  nw (c.cwear % 2 ^ 40 + s.life (s.phys core) * 2 ^ 40 + (s.wearOf (s.phys core)).cstate % 4 * 2 ^ 48)

/-- R259: EXPECT and the scope are set. -/
def semBarInit (o : SI) : SlotSem :=
  { barSem 0x120 .now o (initBar o) with post := fun p s => firstOf [busyErr o p s, scopeErr o p s] }

/-- barInit issues alone in its bundle (R108). -/
def execBarInit (h : Head) (o : SI) (s : State) : Host.Outcome State Fault Refusal :=
  .next (issueOne (.barInit h o) (semBarInit o) s)

/-- R261, R272: an arrival, gated in an open region; s[A] := its token. -/
def semBarArrive (o : SI) : SlotSem :=
  { barSem 0x121 (.prod 8) o (fun p s => gateItem p (.arrive (barNo o) p.seq ((p.ctx s).dstS o.a) p.tag false) s) with gates := fun _ _ => true }

/-- barArrive issues alone in its bundle (R108). -/
def execBarArrive (h : Head) (o : SI) (s : State) : Host.Outcome State Fault Refusal :=
  .next (issueOne (.barArrive h o) (semBarArrive o) s)

/-- R261, R272: waits for the phase of token s[B][15:0]; a restart mark stands behind it. -/
def semBarWait (o : SI) : SlotSem :=
  barSem 0x122 .now o (waitBar o)

/-- barWait issues alone in its bundle (R108). -/
def execBarWait (h : Head) (o : SI) (s : State) : Host.Outcome State Fault Refusal :=
  .next (issueOne (.barWait h o) (semBarWait o) s)

/-- R261, R272: arrives, and waits for that arrival's token; a restart mark stands between them. -/
def semBarAw (o : SI) : SlotSem :=
  { barSem 0x123 .now o (arriveWait o) with gates := fun p s => !(p.ctx s).a.aw.any (fun x => x.1 == p.hdr && x.2.1 == barNo o) }

/-- barAw issues alone in its bundle (R108). -/
def execBarAw (h : Head) (o : SI) (s : State) : Host.Outcome State Fault Refusal :=
  .next (issueOne (.barAw h o) (semBarAw o) s)

/-- R257, R261: s[A] := the state of the barrier. -/
def semBarQuery (o : SI) : SlotSem :=
  barSem 0x124 (.prod 8) o (fun p s => produce p (.prod 8) ((p.ctx s).dstS o.a) ((queryBar o p s).setWidth 512) s)

/-- barQuery issues alone in its bundle (R108). -/
def execBarQuery (h : Head) (o : SI) (s : State) : Host.Outcome State Fault Refusal :=
  .next (issueOne (.barQuery h o) (semBarQuery o) s)

/-- R262: a claim that lands before the 32nd own issue after this one, in the next hand-off register. -/
def semNext (_ : SR) : SlotSem :=
  { lat := .prod 32,
    chk := fun p s => onlyUser 0x125 (p.ctx s),
    post := fun p s => if 8 ≤ ((p.ctx s).a.claims.filter (·.valid)).length then some { code := 0x52 } else none,
    eff := fun p s => ({ s with claimNo := s.claimNo + 1 } : State).updCtx p.core p.slot (fun c =>
      let x : Claim := { left := 31, h := c.a.hnext, tag := p.tag, seq := p.seq, ord := s.claimNo }
      { c with a := { c.a with claims := c.a.claims.filter (·.valid) ++ [x], hnext := (c.a.hnext + 1) % 8 } }) }

/-- next issues alone in its bundle (R108). -/
def execNext (h : Head) (o : SR) (s : State) : Host.Outcome State Fault Refusal :=
  .next (issueOne (.next h o) (semNext o) s)

/-- R264, R272: a descriptor is submitted, gated in an open region. -/
def semEnqt (o : SR) : SlotSem :=
  { lat := .prod 16, chk := fun p s => firstOf [onlyUser 0x126 (p.ctx s), enqtErr o (p.ctx s)], gates := fun _ _ => true, eff := doEnqt o }

/-- enqt issues alone in its bundle (R108). -/
def execEnqt (h : Head) (o : SR) (s : State) : Host.Outcome State Fault Refusal :=
  .next (issueOne (.enqt h o) (semEnqt o) s)

/-- R265, R272: a message is sent, gated in an open region. -/
def semEnqm (o : SR) : SlotSem :=
  { lat := .prod 8, chk := fun p s => onlyUser 0x127 (p.ctx s), post := fun p s => enqmErr o (p.ctx s), hold := enqmHold o, counted := true, gates := fun _ _ => true, eff := doEnqm o }

/-- enqm issues alone in its bundle (R108). -/
def execEnqm (h : Head) (o : SR) (s : State) : Host.Outcome State Fault Refusal :=
  .next (issueOne (.enqm h o) (semEnqm o) s)

/-- R266: the oldest message of a queue. -/
def semDeqm (o : SR) : SlotSem :=
  { lat := .prod 8,
    chk := fun p s => onlyUser 0x128 (p.ctx s),
    post := fun p s => let v := (p.ctx s).getS o.c
      if fld v 3 61 ≠ 0 then some { code := 0x53, tval := v } else none,
    eff := doDeqm o }

/-- deqm issues alone in its bundle (R108). -/
def execDeqm (h : Head) (o : SR) (s : State) : Host.Outcome State Fault Refusal :=
  .next (issueOne (.deqm h o) (semDeqm o) s)

/-- R267: held until the copies named have completed, which it observes (R81, R91); a mark where one is gated in the open region. -/
def semCpjoin (o : SI) : SlotSem :=
  { hold := fun p s => !(joined o p s).isEmpty || joinStopped o p s,
    mark := fun p s => (joined o p s).any (fun x => x.gated && decide ((p.ctx s).openSeq ≤ x.seq)),
    eff := fun p s => s.updCtx p.core p.slot (fun c => { c with time := max c.time c.copyTime }) }

/-- cpjoin issues alone in its bundle (R108). -/
def execCpjoin (h : Head) (o : SI) (s : State) : Host.Outcome State Fault Refusal :=
  .next (issueOne (.cpjoin h o) (semCpjoin o) s)

/-- R268: the task's preferred variant is set or cleared. -/
def semWiden (o : SI) : SlotSem :=
  { chk := fun p s => onlyUser 0x12A (p.ctx s),
    post := fun p s =>
      if bits o.imm 2 1 = 0 ∧ variantCount (p.ctx s) s ≤ bits o.imm 0 2 then some { code := 0x54, tval := nw (bits o.imm 0 2) } else none,
    eff := setPref o }

/-- widen issues alone in its bundle (R108). -/
def execWiden (h : Head) (o : SI) (s : State) : Host.Outcome State Fault Refusal :=
  .next (issueOne (.widen h o) (semWiden o) s)

/-- R269: the budget word of the core's island. -/
def semBq (o : SR) : SlotSem :=
  tagged 8 o.a (fun p s => budgetWord s (s.islandOf p.core))

/-- bq issues alone in its bundle (R108). -/
def execBq (h : Head) (o : SR) (s : State) : Host.Outcome State Fault Refusal :=
  .next (issueOne (.bq h o) (semBq o) s)

/-- R270: the context's joule counter. -/
def semJread (o : SR) : SlotSem :=
  tagged 8 o.a (fun p s => nw (p.ctx s).joule)

/-- jread issues alone in its bundle (R108). -/
def execJread (h : Head) (o : SR) (s : State) : Host.Outcome State Fault Refusal :=
  .next (issueOne (.jread h o) (semJread o) s)

/-- R271: the context's wear word. -/
def semWq (o : SR) : SlotSem :=
  tagged 8 o.a (fun p s => wearWord s p.core (p.ctx s))

/-- wq issues alone in its bundle (R108). -/
def execWq (h : Head) (o : SR) (s : State) : Host.Outcome State Fault Refusal :=
  .next (issueOne (.wq h o) (semWq o) s)

/-! ## Events (R259, R260, R264, R265) -/

/-- One of `n` things in flight, by a free value (log entry 2). -/
def chosen (s : State) (n : Nat) : Nat := Config.pick s.fresh % max 1 n

/-- BARRIER_ARRIVAL (R260): one arrival reaches its barrier. -/
def execBarrierArrival (s : State) : Host.Outcome State Fault Refusal :=
  .next (let i := chosen s s.arrs.length
    match s.arrs[i]? with
    | some a => afterOp (arrive { s.draw with arrs := s.arrs.eraseIdx i } a) a.from' a.slot
    | none => s)

/-- BARRIER_RELEASE_MESSAGE (R259). -/
def execBarrierReleaseMessage (s : State) : Host.Outcome State Fault Refusal :=
  .next (match s.rels with
    | r :: l => mirror { s with rels := l } r
    | [] => s)

/-- BARRIER_INIT_ANSWER (R259): the value of the root is taken. -/
def execBarrierInitAnswer (s : State) : Host.Outcome State Fault Refusal :=
  .next (match s.answers with
    | r :: l => takePhases { s with answers := l } r
    | [] => s)

/-- No earlier message of the same sender to the same queue is in flight (R266). -/
def firstFlight (l : List Flight) (i : Nat) (f : Flight) : Bool :=
  !(l.take i).any (fun g => g.from' == f.from' && g.fslot == f.fslot && g.team == f.team && g.tidx == f.tidx && g.q == f.q)

/-- MESSAGE_DELIVERY (R265). -/
def execMessageDelivery (s : State) : Host.Outcome State Fault Refusal :=
  .next (let l := s.flights.zipIdx.filter (fun p => firstFlight s.flights p.2 p.1)
    match l[chosen s l.length]? with
    | some (f, i) => afterOp (enterQueue { s.draw with flights := s.flights.eraseIdx i } f) f.from' f.fslot
    | none => s)

/-- s[A] of `enqt`: handle, or the cause of its refusal (R264). -/
def enqResult (handle : Nat) (cause : Option Nat) : Word :=
  match cause with
  | none => nw (handle % 2 ^ 32)
  | some k => nw (k % 128 * 2 ^ 32 + 2 ^ 63)

/-- The bytes of a descriptor in memory as a load reads them: its number, or the fault (R169, R264); through the remote
window they lie in one extent (R64). -/
def readDesc (s : State) (e : Enq) : State × Except Nat Nat :=
  let oid := capOid e.cap
  let go (s : State) (r : Except Nat Nat) (i : Nat) : State × Except Nat Nat :=
    match r with
    | .error k => (s, .error k)
    | .ok v =>
      let o := e.off.toNat + 32 * i
      match place s e.core e.slot oid o 32 with
      | .error k => (tableErr s e.core e.slot oid o k, .error k)
      | .ok (.host a peer) =>
        if e.pcie = 3 || s.hostDown a peer false then (dmaErr s e.core e.slot e.off, .error 0x48)
        else ({ s with fresh := s.fresh + 4 }, .ok (v + ofBytes (hostBytes s.fresh 32) * 2 ^ (256 * i)))
      | .ok pl =>
        let s := touchAt s e.core e.slot oid o pl 32 false 0 0
        match badAt s e.core pl 32 with
        | some k => (errorAt s e.core e.slot pl e.off, .error k)
        | none => (s, .ok (v + s.getAt pl 32 * 2 ^ (256 * i)))
  match (if oid = oidRemote then spadPlace s e.core e.slot oid e.off.toNat 256 else .ok (.sram e.core 0)) with
  | .error k => (s, .error k)
  | .ok _ => (List.range 8).foldl (fun r i => go r.1 r.2 i) (s, .ok 0)

/-- The dispatcher has read a descriptor: the task is taken in or refused, or the reading faulted (R264,
R279). -/
def enqDone (s : State) (e : Enq) : State :=
  let c := s.ctx e.core e.slot
  if c.team ≠ e.team then s else
  let (s, r) := readDesc s e
  let write (s : State) (v : Word) : State :=
    s.updCtx e.core e.slot (fun c => c.push { dst := e.dst, val := v.setWidth 512, due := e.seq + 16, seq := e.seq, tag := e.tag, fixed := false })
  match r with
  | .error k =>
    s.addFault e.core e.slot { code := k, async := true, sup := false, tval := e.off, tinst := e.waddr, slot := 0, k := e.k, seq := e.seq, id := e.id, tag := e.tag }
  | .ok d =>
    let src (i : Nat) : BitVec 128 := e.caps.get i 0
    if shareFull s c.part then write s (enqResult 0 (some 0x55))
    else if descOk s c.part d src false = false then write s (enqResult 0 (some 0x56))
    else
      let (s, i) := takeIn s c.part d src e.time
      write s (enqResult (s.handle i) none)

/-- ENQT_RESULT (R264): of a descriptor whose reading waits for no PCIe completion. -/
def execEnqtResult (s : State) : Host.Outcome State Fault Refusal :=
  .next (let l := s.enqs.zipIdx.filter (fun p => p.1.pcie != 1)
    match l[chosen s l.length]? with
    | some (e, i) => afterOp (enqDone { s.draw with enqs := s.enqs.eraseIdx i } e) e.core e.slot
    | none => s)

end Sys2Proof.Machine
end

