-- ==== Sys2Proof/Machine/TileMgmt.lean ====
section
/-!
DEFINITION. Sys2Proof/Machine/TileMgmt.lean: the tile management instructions (R200).
-/
namespace Sys2Proof.Machine

/-- An accumulator named in a tile management instruction (R190). -/
def accNamed (l : List Nat) : Option Trap := firstOf (l.map (fun t => tileTrap 0x20 t (decide (64 ≤ t))))

/-- Tile management (R200): it acts before the later slots of its bundle, under the destination rule. -/
def mgmtSem (o : VT) (l src : List Nat) (chk : At → State → Option Trap) (eff : At → State → State) : SlotSem :=
  { early := true,
    chk := fun p s => firstOf [accNamed (o.td :: l), chk p s],
    tiles := fun _ _ => (o.td, true) :: src.map (fun t => (t, false)),
    eff := eff }

/-- Change td's descriptor. -/
def updDesc (p : At) (t : Nat) (f : BitVec 128 → BitVec 128) (s : State) : State :=
  s.updCtx p.core p.slot (fun c => { c with a := c.a.setDesc t (f (c.a.desc t)) })

/-- The descriptor table of the code object in use (R125). -/
def tileTable (c : Ctx) (s : State) : List (BitVec 128) :=
  match (s.objOf c.part c.codeOid).bind (·.hdr) with
  | some h => h.tiles
  | none => []

/-- TILE_DESC of the entry that `tdef` names. For an index at or beyond the table's length no bit of a descriptor has failed:
DESIGN CHOICE, sr.tval[15:8] is 0 (log entry 112). -/
def tdefErr (o : VT) (p : At) (s : State) : Option Trap :=
  match (tileTable (p.ctx s) s)[o.ta]? with
  | none => some { code := 0x20, tval := BitVec.ofNat 64 o.td }
  | some d => (descErr d).map (fun b => { code := 0x20, tval := BitVec.ofNat 64 (o.td + b * 256) })

/-- `elem` of tshape and tstep. -/
def useElem (o : VT) : Bool := bits o.flags 0 1 == 1

/-- The form of an `elem` source. -/
def elemForm (o : VT) : Form := { decs := [o.ta], fields := [o.ta] }

/-- The checks of an `elem` source (R189, R198). -/
def elemErr (o : VT) (p : At) (s : State) : Option Trap :=
  let c := p.ctx s
  if useElem o then
    firstOf ([tilesErr c p.k (elemForm o) c.a.fv, unsignedErr c.a (elemForm o) c.a.fv, scaleErr c.a c.a.fv false o.ta,
      outlierErr c.a c.a.fv false [o.ta]])
  else none

/-- The tiles that an `elem` source reads. -/
def elemTiles (a : Arch) (o : VT) : List Nat := [o.ta] ++ scaleTiles a [o.ta] ++ (outlierTile a a.fv a.fs [o.ta]).toList

/-- Read `n` elements of row 0 of ta, count them, and go on with their values. -/
def withElems (o : VT) (n : Nat) (p : At) (s : State) (eff : List XVal → State → State) : State :=
  let e := issueEnv p s (elemTiles (p.ctx s).a o)
  readAtIssue p s e ((List.range n).map (fun j => (o.ta, 0, j))) (fun s =>
    let r := (List.range n).map (fun j => e.decode (fvRd e) o.ta 0 j)
    eff (r.map (·.1)) (s.updCtx p.core p.slot (fun c => applyCnts c p.seq (r.flatMap (·.2)))))

/-- A decoded value as a count of at most `n` (R200). -/
def clampCount (v : XVal) (n : Nat) : Nat :=
  match v with
  | .inf false => n
  | v => min n v.trunc.toNat

/-- A decoded value as a STEP (R200). -/
def clampStep (v : XVal) : Int :=
  match v with
  | .inf s => if s then -0x800000 else 0x7FFFE0
  | v => max (-0x800000) (min 0x7FFFE0 (Int.tdiv v.trunc 32 * 32))

/-- The valid counts of a descriptor. -/
def setShape (d : BitVec 128) (r c : Nat) : BitVec 128 :=
  setFld (setFld d 43 9 (min r (dRows d))) 52 10 (min c (dCols d))

def setStep (d : BitVec 128) (x : Int) : BitVec 128 := setFld d 94 24 (BitVec.ofInt 24 x).toNat

def doShape (o : VT) (p : At) (s : State) : State :=
  if useElem o then
    withElems o 2 p s (fun l s => updDesc p o.td (fun d => setShape d (clampCount (l.getD 0 .zero) (dRows d)) (clampCount (l.getD 1 .zero) (dCols d))) s)
  else
    let d' := (p.ctx s).a.desc o.ta
    updDesc p o.td (fun d => setShape d (dVRows d') (dVCols d')) s

def doStep (o : VT) (p : At) (s : State) : State :=
  if useElem o then withElems o 1 p s (fun l s => updDesc p o.td (fun d => setStep d (clampStep (l.getD 0 .zero))) s)
  else
    let d' := (p.ctx s).a.desc o.ta
    updDesc p o.td (fun d => setStep d (dStep d')) s

/-- R200: entry TA of the descriptor table into td, empty, its status clear. -/
def semTdef (o : VT) : SlotSem :=
  { mgmtSem o [] [] (tdefErr o) (fun p s =>
      let d := ((tileTable (p.ctx s) s)[o.ta]?).getD 0
      s.updCtx p.core p.slot (fun c => { c with a := (c.a.setDesc o.td (setFld (setFld d 118 2 0) 120 1 0)).setStatus o.td 0 })) with
    anyState := true }

/-- tdef issues alone in its bundle (R108). -/
def execTdef (h : Head) (o : VT) (s : State) : Host.Outcome State Fault Refusal :=
  .next (issueOne (.tdef h o) (semTdef o) s)

/-- R200: the valid rows and columns. -/
def semTshape (o : VT) : SlotSem :=
  mgmtSem o [o.ta] (if useElem o then [o.ta] else []) (elemErr o) (doShape o)

/-- tshape issues alone in its bundle (R108). -/
def execTshape (h : Head) (o : VT) (s : State) : Host.Outcome State Fault Refusal :=
  .next (issueOne (.tshape h o) (semTshape o) s)

/-- R200: VIEW. -/
def semTview (o : VT) : SlotSem :=
  mgmtSem o [] [] (fun _ _ => none) (fun p s => updDesc p o.td (fun d => setFld d 25 1 o.flags) s)

/-- tview issues alone in its bundle (R108). -/
def execTview (h : Head) (o : VT) (s : State) : Host.Outcome State Fault Refusal :=
  .next (issueOne (.tview h o) (semTview o) s)

/-- R200: STATE, empty or ready. -/
def semTstate (o : VT) : SlotSem :=
  mgmtSem o [] [] (fun _ _ => none) (fun p s => updDesc p o.td (fun d => setFld d 118 2 o.flags) s)

/-- tstate issues alone in its bundle (R108). -/
def execTstate (h : Head) (o : VT) (s : State) : Host.Outcome State Fault Refusal :=
  .next (issueOne (.tstate h o) (semTstate o) s)

/-- R200: STEP. -/
def semTstep (o : VT) : SlotSem :=
  mgmtSem o [o.ta] (if useElem o then [o.ta] else []) (elemErr o) (doStep o)

/-- tstep issues alone in its bundle (R108). -/
def execTstep (h : Head) (o : VT) (s : State) : Host.Outcome State Fault Refusal :=
  .next (issueOne (.tstep h o) (semTstep o) s)

end Sys2Proof.Machine
end

