-- ==== Sys2Proof/Machine/Bundle.lean ====
section
/-!
DEFINITION. Sys2Proof/Machine/Bundle.lean: what every instruction does in its slot, and BUNDLE_ISSUE: the core's
choice of a context (R42) and the issue of its next bundle (R108).
-/
namespace Sys2Proof.Machine

/-- What an instruction does in its slot; events and header control ops have no slot. -/
def slotSem (i : Instr) : SlotSem :=
  match i with
  | .add _ o => semAdd o
  | .addi _ o => semAddi o
  | .sub _ o => semSub o
  | .mul _ o => semMul o
  | .muli _ o => semMuli o
  | .mulh _ o => semMulh o
  | .mulhz _ o => semMulhz o
  | .div _ o => semDiv o
  | .divz _ o => semDivz o
  | .rem _ o => semRem o
  | .remz _ o => semRemz o
  | .and _ o => semAnd o
  | .andi _ o => semAndi o
  | .or _ o => semOr o
  | .ori _ o => semOri o
  | .xor _ o => semXor o
  | .xori _ o => semXori o
  | .shl _ o => semShl o
  | .shli _ o => semShli o
  | .shr _ o => semShr o
  | .shri _ o => semShri o
  | .sra _ o => semSra o
  | .srai _ o => semSrai o
  | .rotl _ o => semRotl o
  | .rotr _ o => semRotr o
  | .clz _ o => semClz o
  | .ctz _ o => semCtz o
  | .popc _ o => semPopc o
  | .min _ o => semMin o
  | .max _ o => semMax o
  | .minz _ o => semMinz o
  | .maxz _ o => semMaxz o
  | .sext _ o => semSext o
  | .zext _ o => semZext o
  | .mov _ o => semMov o
  | .movi _ o => semMovi o
  | .movhi _ o => semMovhi o
  | .sel _ o => semSel o
  | .cmp _ o => semCmp o
  | .cmpi _ o => semCmpi o
  | .pand _ o => semPand o
  | .por _ o => semPor o
  | .pxor _ o => semPxor o
  | .pnot _ o => semPnot o
  | .pmov _ o => semPmov o
  | .br _ o => semBr o
  | .bp _ o => semBp o
  | .jmp _ o => semJmp o
  | .call _ o => semCall o
  | .ret _ o => semRet o
  | .loop _ o => semLoop o
  | .loopi _ o => semLoopi o
  | .nop _ o => semNop o
  | .lea _ o => semLea o
  | .caprs _ o => semCaprs o
  | .caprt _ o => semCaprt o
  | .capq _ o => semCapq o
  | .capmv _ o => semCapmv o
  | .ld _ o => semLd o
  | .st _ o => semSt o
  | .pf _ o => semPf o
  | .cclean _ o => semCclean o
  | .cinval _ o => semCinval o
  | .cflush _ o => semCflush o
  | .amoAdd _ o => semAmoAdd o
  | .amoFadd _ o => semAmoFadd o
  | .amoMin _ o => semAmoMin o
  | .amoMax _ o => semAmoMax o
  | .amoMinz _ o => semAmoMinz o
  | .amoMaxz _ o => semAmoMaxz o
  | .amoAnd _ o => semAmoAnd o
  | .amoOr _ o => semAmoOr o
  | .amoXor _ o => semAmoXor o
  | .amoSwap _ o => semAmoSwap o
  | .amoCas _ o => semAmoCas o
  | .mfsr _ o => semMfsr o
  | .mtsr _ o => semMtsr o
  | .trap _ o => semTrap o
  | .eret _ o => semEret o
  | .ctxout _ o => semCtxout o
  | .endc _ o => semEndc o
  | .rdtime _ o => semRdtime o
  | .rdcyc _ o => semRdcyc o
  | .barInit _ o => semBarInit o
  | .barArrive _ o => semBarArrive o
  | .barWait _ o => semBarWait o
  | .barAw _ o => semBarAw o
  | .barQuery _ o => semBarQuery o
  | .next _ o => semNext o
  | .enqt _ o => semEnqt o
  | .enqm _ o => semEnqm o
  | .deqm _ o => semDeqm o
  | .cpjoin _ o => semCpjoin o
  | .widen _ o => semWiden o
  | .bq _ o => semBq o
  | .jread _ o => semJread o
  | .wq _ o => semWq o
  | .tdef _ o => semTdef o
  | .tshape _ o => semTshape o
  | .tview _ o => semTview o
  | .tstate _ o => semTstate o
  | .tstep _ o => semTstep o
  | .tclr _ o => semTclr o
  | .vadd _ cf o => semVadd cf o
  | .vsub _ cf o => semVsub cf o
  | .vmul _ cf o => semVmul cf o
  | .vfma _ cf o => semVfma cf o
  | .vfms _ cf o => semVfms cf o
  | .vfnma _ cf o => semVfnma cf o
  | .vmin _ cf o => semVmin cf o
  | .vmax _ cf o => semVmax cf o
  | .vabs _ cf o => semVabs cf o
  | .vneg _ cf o => semVneg cf o
  | .vclamp _ cf o => semVclamp cf o
  | .vsel _ cf o => semVsel cf o
  | .vcmp _ cf o => semVcmp cf o
  | .vand _ cf o => semVand cf o
  | .vor _ cf o => semVor cf o
  | .vxor _ cf o => semVxor cf o
  | .vnot _ cf o => semVnot cf o
  | .vshl _ cf o => semVshl cf o
  | .vshr _ cf o => semVshr cf o
  | .vsra _ cf o => semVsra cf o
  | .vmov _ o => semVmov o
  | .vbcast _ o => semVbcast o
  | .viota _ cf o => semViota cf o
  | .vcvt _ o => semVcvt o
  | .vrcp _ cf o => semVrcp cf o
  | .vrsq _ cf o => semVrsq cf o
  | .vrcpf _ cf o => semVrcpf cf o
  | .vrsqf _ cf o => semVrsqf cf o
  | .vexp2 _ cf o => semVexp2 cf o
  | .vlog2 _ cf o => semVlog2 cf o
  | .vtanh _ cf o => semVtanh cf o
  | .vlgst _ cf o => semVlgst cf o
  | .vsqrt _ cf o => semVsqrt cf o
  | .vrsum _ cf o => semVrsum cf o
  | .vcsum _ cf o => semVcsum cf o
  | .vrmax _ cf o => semVrmax cf o
  | .vcmax _ cf o => semVcmax cf o
  | .vrmin _ cf o => semVrmin cf o
  | .vcmin _ cf o => semVcmin cf o
  | .vrarg _ cf o => semVrarg cf o
  | .vscan _ cf o => semVscan cf o
  | .vcscan _ cf o => semVcscan cf o
  | .vtrans _ o => semVtrans o
  | .vperm _ o => semVperm o
  | .vgath _ o => semVgath o
  | .vscat _ o => semVscat o
  | .vpack _ o => semVpack o
  | .vunpk _ o => semVunpk o
  | .vtopk _ cf o => semVtopk cf o
  | .vquant _ o => semVquant o
  | .vdeq _ o => semVdeq o
  | .vscal _ cf o => semVscal cf o
  | .vstat _ o => semVstat o
  | .mloadw _ o => semMloadw o
  | .mloadwt _ o => semMloadwt o
  | .mswap _ o => semMswap o
  | .mma _ o => semMma o
  | .mzero _ o => semMzero o
  | .mdrain _ o => semMdrain o
  | .mcbl _ o => semMcbl o
  | .moutl _ o => semMoutl o
  | .mscl _ o => semMscl o
  | .mstat _ o => semMstat o
  | .vcbl _ o => semVcbl o
  | .cpLd _ o => semCpLd o
  | .cpSt _ o => semCpSt o
  | .cpSs _ o => semCpSs o
  | .cpMm _ o => semCpMm o
  | .cpGath _ o => semCpGath o
  | .cpScat _ o => semCpScat o
  | .cpBc _ o => semCpBc o
  | .cpAcc _ o => semCpAcc o
  | .cpFill _ o => semCpFill o
  | .cpPf _ o => semCpPf o
  | .cpCancel _ o => semCpCancel o
  | .cpRes _ o => semCpRes o
  | .cpPat _ o => semCpPat o
  | .bundleIssue .. | .formatWriteEffect .. | .trapEntry .. | .yieldRequest .. | .scalarAccessResponse ..
  | .engineOpComplete .. | .copyLastRowRead .. | .copyComplete .. | .copyRowFault .. | .droopWindowEnd ..
  | .suspectDroop .. | .silentError .. | .droopStretch .. | .nextLanding .. | .hostWrite ..
  | .hostRead .. | .peerLinkArrival .. | .ingressTimeout .. | .ingressOverflow .. | .islandWake ..
  | .pageRequestSettle .. | .homeRequest .. | .ownRecall .. | .writeBackGrant .. | .memoryError ..
  | .errCorrected .. | .patrolScrub .. | .pcieCompletion .. | .pcieDmaTimeout .. | .voltageStepReached ..
  | .meterCorrection .. | .testStrips .. | .vfFlr .. | .eplReplay .. | .eplRetrain ..
  | .eplReplayWindow .. | .spdmNegotiateAlgorithms .. | .sqcfgWrite .. | .cqheadWrite .. | .pkgconWrite ..
  | .aperWrite .. | .savecapWrite .. | .psetWrite .. | .prectWrite .. | .isldvWrite ..
  | .taskkill .. | .install .. | .objrdixWrite .. | .pgrqcfgWrite .. | .errlogEntryFree ..
  | .registerWrite .. | .fmtA .. | .fmtW .. | .fmtO .. | .fmtV ..
  | .fmtS .. | .rm .. | .seed .. | .cbsel .. | .stepset ..
  | .engineOpStop .. | .cacheFlushComplete .. | .droopRecovery .. | .calibrationOverdue .. | .rangeClaim ..
  | .barrierArrival .. | .barrierReleaseMessage .. | .messageDelivery .. | .acceptanceEntryWrite .. | .completionEntryWrite ..
  | .dispatcherPass .. | .teamLoaded .. | .teamComplete .. | .fallbackPressure .. | .quiescePoint ..
  | .quiesceLimitExpiry .. | .governorIntervalClose .. | .lifetimeRecordWrite .. | .thermalTripTimeout .. | .powerOn ..
  | .powerLoss .. | .perstAssert .. | .perstDeassert .. | .sidebandWake .. | .pfFlr ..
  | .pcieLink .. | .spdmGetVersion .. | .spdmGetCapabilities .. | .spdmGetDigests .. | .spdmGetCertificate ..
  | .spdmChallenge .. | .spdmGetMeasurements .. | .pwrctlRetain .. | .pwrctlWake .. | .removeObj ..
  | .mapPage .. | .unmapPage .. | .enqtResult .. | .orderlyPowerOff .. | .hostLinkUp ..
  | .notificationQueueRead .. | .barrierInitAnswer .. => {}

/-! ## The choice of a context (R42) -/

/-- The current context stands at a rotation point. -/
def rotates (c : Ctx) : Bool := !canIssue c || decide (256 ≤ c.burst) || decide (16 < c.held)

/-- Slot `i` goes before slot `j` of a core at a rotation point. -/
def before (k : Core) (i j : Nat) : Bool :=
  let a := k.slot i
  let b := k.slot j
  let la := decide (a.last + 768 ≤ k.issues)
  let lb := decide (b.last + 768 ≤ k.issues)
  if la || lb then la && (!lb || decide (a.last < b.last) || (a.last == b.last && decide (i < j)))
  else decide (b.prio < a.prio) || (a.prio == b.prio && (decide (a.last < b.last) || (a.last == b.last && decide (i < j))))

/-- The context that a rotation point chooses from the ready set. -/
def choose (k : Core) : Option Nat :=
  (([0, 1, 2, 3].filter (fun i => canIssue (k.slot i)))).foldl (fun b i =>
    match b with
    | none => some i
    | some j => if before k i j then some i else some j) none

/-- The context that issues next, chosen anew at a rotation point. -/
def rotate (s : State) (core : Nat) : Option (State × Nat) :=
  let k := s.core core
  if rotates (k.slot k.cur) = false then some (s, k.cur)
  else (choose k).map (fun i =>
    ((s.updCore core (fun k => { k with cur := i })).updCtx core i (fun c => { c with burst := 0, held := 0 }), i))

/-- BUNDLE_ISSUE (R108): the chosen context of a powered core fetches its next bundle and attempts to issue it. -/
def execBundleIssue (core : Nat) (s : State) : Host.Outcome State Fault Refusal :=
  .next (if s.power = .on ∨ s.power = .entering then
      match rotate s core with
      | some (s, slot) => attempt (fetchCode (chargeCtx { s with cur := (core, slot) } core slot) core slot) core slot (fetch slotSem core slot)
      | none => s
    else s)

end Sys2Proof.Machine
end

