-- ==== Sys2Proof/Machine/Power.lean ====
section
/-!
DEFINITION. Sys2Proof/Machine/Power.lean: boot, Retain, wake and the lifetime record (R292, R312, R322 to R325,
R398, R404 to R407).
-/
namespace Sys2Proof.Machine

/-! ## The lifetime record (R312, R407) -/

/-- The valid copy with the higher sequence number. -/
def newestRec (n : Nor) : Option LifeRec :=
  if n.rec0.valid && (!n.rec1.valid || decide (n.rec1.seq ≤ n.rec0.seq)) then some n.rec0
  else if n.rec1.valid then some n.rec1 else none

/-- The newest copy, valid or not, is not valid. -/
def newestLost (n : Nor) : Bool := if n.rec1.seq ≤ n.rec0.seq then !n.rec0.valid else !n.rec1.valid

/-- The record is written to the copy that is not the newest valid one. -/
def writeRecord (s : State) : State :=
  let n := s.nor
  let r : LifeRec := { seq := max n.rec0.seq n.rec1.seq + 1, valid := true, wear := s.wear }
  let first := n.rec0.valid && (!n.rec1.valid || decide (n.rec1.seq ≤ n.rec0.seq))
  { s with recAt := s.now, nor := if first then { n with rec1 := r, dirtyLoss := false } else { n with rec0 := r, dirtyLoss := false } }

/-- The physical cores, 0 to 287 (R11). -/
def allPhys : List Nat := List.range 288

/-- Every core is charged `n` times 10 min at its highest rate. -/
def chargeAll (w : Tab Wear) (n : Nat) : Tab Wear :=
  allPhys.foldl (fun (t : Tab Wear) p =>
    t.set p { t.get p {} with wear := (t.get p {}).wear + n * Config.maxWear10min p } {}) w

/-- Wear of every core at 0.85 of its limit. -/
def worn85 : Tab Wear :=
  allPhys.foldl (fun (t : Tab Wear) p => t.set p { wear := (85 * Config.limitOf p + 99) / 100 } {}) []

/-- The wear that step 4 of R322 takes from the record, and whether the record was lost (R312, R407). -/
def loadRecord (n : Nor) : Tab Wear × Bool :=
  match (if n.idOk then newestRec n else none) with
  | none => (worn85, true)
  | some r =>
    if newestLost n then (chargeAll r.wear 2, true)
    else (if n.dirtyLoss then chargeAll r.wear 1 else r.wear, false)

/-! ## Boot (R322, R405, R406) -/

/-- BOOTSTAT. -/
def bootWord (stage : Nat) (slotB failA failB : Bool) (code : Nat) : Word :=
  BitVec.ofNat 64 (stage + oneIf slotB * 8 + oneIf failA * 16 + oneIf failB * 32 + code * 64)

/-- A remap entry of die `d`, column `c` obeys R18: its rows are 0 to 8 or 15, distinct apart from 15, and none is that of
a retired core. -/
def entryObeys (retired : List Nat) (d c : Nat) (r : Remap) : Bool :=
  let rows := (r.lrow ++ [r.spare]).filter (· != 15)
  rows.all (fun x => decide (x ≤ 8) && !retired.contains (72 * d + 8 * x + c)) && rows.eraseDups.length == rows.length

/-- A slot passes steps 1 and 2, its remap entries among what step 2 judges (R322, R405). -/
def Image.passes (m : Image) : Bool :=
  m.ok1 && m.ok2 && (List.range 32).all (fun k => entryObeys m.retired (k / 8) (k % 8) (m.remap.get k {}))

/-- The slot that boots: A, or B where A fails (R405). -/
def Nor.booted (n : Nor) : Image := if n.slotA.passes then n.slotA else n.slotB

/-- Steps 1 and 2 fail in both slots (R405). -/
def Nor.fails (n : Nor) : Bool := !n.slotA.passes && !n.slotB.passes

/-- BOOTSTAT where both slots fail: STAGE is the last step that slot B, tried last, completed (log entry 98). -/
def failWord (n : Nor) : Word := bootWord (oneIf n.slotB.ok1) false true true 0x7C

/-- Both slots fail: the compute dies stay off and the link does not train; the sideband says so. -/
def bootFails (s : State) : State :=
  { s with power := .failed, linkUp := false, bootstat := failWord s.nor }.send (.sideband 0x7C)

/-- The retirement map of the configuration image (R322 step 4). -/
def retiredMap (m : Image) (w : Tab Wear) : Tab Wear :=
  m.retired.foldl (fun (t : Tab Wear) p => t.set p { t.get p {} with cstate := 3 } {}) w

/-- Calibration's values at power-on (R293, R302, R306), and the first interval's grant (R292). -/
def calibrated (now active : Nat) : Tab Island :=
  allIslands.foldl (fun (t : Tab Island) i =>
    let b := Config.base0 i
    t.set i { base := b, grant := min 24 (ceil8 b), vfloor := min 80 (Config.vfloor0 i), trim := Config.trimOf i 50 % 16, idleSince := now, calAt := active } {}) []

/-- Steps 1 to 5 from power-off: everything but NOR flash starts anew. Log entry 98. -/
def boot (s : State) : State :=
  let n := s.nor
  if n.fails then bootFails s
  else
    let m := n.booted
    let (wear, lost) := loadRecord n
    let code := if n.idOk = false then 0x7D else if lost then 0x7E else 0
    let t : State := { State.reset with order := s.order, remap := m.remap, nor := { n with dirtyLoss := false }, out := s.out, agenda := s.agenda, fresh := s.fresh, cur := s.cur, wear := retiredMap m wear, islands := calibrated 0 0, bootstat := bootWord 5 (!n.slotA.passes) (!n.slotA.passes) false code, bootEvents := if n.idOk then [] else [0x7D] }
    let t := setPwrstat (allIslands.foldl restoreVmax t) false
    if lost then t.postF 0x7E else t

/-- POWER_ON (R322, R405): from the unpowered part. -/
def execPowerOn (s : State) : Host.Outcome State Fault Refusal :=
  .next (match s.power with
    | .off | .failed => boot s
    | _ => s)

/-- What is left without power: NOR flash, and what has been sent outside. -/
def unpowered (s : State) : State :=
  { State.reset with order := s.order, nor := s.nor, out := s.out, agenda := s.agenda, fresh := s.fresh, cur := s.cur, now := s.now, nextClose := s.nextClose, power := .off, linkUp := false, bootstat := 0 }

/-- POWER_LOSS (R312): in Retain the record has been written, or charged. -/
def execPowerLoss (s : State) : Host.Outcome State Fault Refusal :=
  .next (match s.power with
    | .on | .entering => unpowered { s with nor := { s.nor with dirtyLoss := true } }
    | _ => unpowered s)

/-- ORDERLY_POWER_OFF (R312). -/
def execOrderlyPowerOff (s : State) : Host.Outcome State Fault Refusal :=
  .next (match s.power with
    | .on | .entering => unpowered (writeRecord s)
    | _ => unpowered s)

/-- LIFETIME_RECORD_WRITE (R312): every 10 min. -/
def execLifetimeRecordWrite (s : State) : Host.Outcome State Fault Refusal :=
  .next (if s.running && decide (s.recAt + 600000000000 ≤ s.now) then writeRecord s else s)

/-! ## Retain (R323, R324) -/

/-- A team is resident in some partition: a context holds a slot. -/
def anyResident (s : State) : Bool := s.cores.any (fun e => !e.2.resident.isEmpty)

/-- The compute dies power off: SRAM, L2, tile tables, planes and barriers are gone, and so is what was on its
way between cores; peer links fall, and what waits on them is lost. -/
def diesOff (s : State) : State :=
  { s with power := .retain, cores := [], arrs := [], rels := [], answers := [], flights := [], enqs := [], l1Old := [], l2Old := [], posted := s.posted.filter (fun w => w.1 == 0), dies := s.dies.foldl (fun (t : Tab Die) e => t.set e.1 { e.2 with l2 := [], badL2 := [], home := e.2.home.map (fun h => (h.1, h.2.1, h.2.2.1, 0)) } {}) [], epl := s.epl.foldl (fun (t : Tab Epl) e => t.set e.1 { e.2 with up := false, training := false, cnt := 0, run := 0, tried := 0 } {}) [] }

/-- Every dirty word of L2 is written back (R324). -/
def cleanL2 (s : State) : State := s.dies.foldl (fun s e => e.2.l2.foldl (fun s b => l2Clean s e.1 b) s) s

/-- Entry to Retain once admission has stopped: ingress is applied, caches are emptied, governor state and the
lifetime record are saved, and the dies power off. A posted write that gets its credit only then stays in its die's
buffer, and is applied after the wake: the spec does not say what becomes of it (DESIGN CHOICE: log entry 128). -/
def enterRetain (s : State) : State :=
  let s := [0, 1, 2, 3].foldl (fun s d => applyDue s d (s.die d).ingress) s
  let s := cleanL2 ((coresInUse s).foldl sleepCore s)
  diesOff (writeRecord { s with saved := some s.islands })

/-- A Retain request is judged: refused while a team is resident, else admission stops. Log entry 100. -/
def askRetain (s : State) : State :=
  if anyResident s then { s with refused := true } else { s with power := .entering }

/-- PWRCTL_RETAIN (R324): the request and the entry, or the entry after a request made by a register write. -/
def execPwrctlRetain (s : State) : Host.Outcome State Fault Refusal :=
  .next (match s.power with
    | .on => (let s := askRetain s
      if s.power = .entering then enterRetain s else s)
    | .entering => enterRetain s
    | _ => s)

/-! ## Emergency Retain (R398) -/

/-- Every word that is dirty in an L1 or in L2 takes its last value that reached LPDDR-6: what the home held of it, and
below that what LPDDR-6 held (R398). Log entry 40. -/
def lastReached (s : State) : State :=
  { s with mem := (s.l1Old ++ s.l2Old).foldl (fun m e => writeBytes m (32 * e.1) e.2) s.mem, l1Old := [], l2Old := [] }

/-- Registers of queues, apertures and event queues of a partition take their reset values (R398). -/
def resetQueues (x : Part) : Part :=
  { x with qs := [], aper := [], evq := {}, pgrqOff := false, objbusy := false, resv := none }

/-- What calibration gave an island stands; balances and throttles start anew. -/
def restart (now : Nat) (x : Island) : Island :=
  { base := x.base, grant := min 24 (ceil8 x.base), vfloor := x.vfloor, vmax := x.vmax, vset := max 50 x.vfloor, vtgt := x.vtgt, mode := x.mode, pfMode := x.pfMode, trim := x.trim, calAt := x.calAt, calFail := x.calFail, overdue := x.overdue, coeff := x.coeff, idleSince := now }

/-- An emergency Retain: ingress, dirty words, partials and the dispatcher's state are lost; the wear record is
charged, the image's retirement map standing; THERMAL_TRIP waits for the package event queue. Log entry 99. -/
def emergencyRetain (s : State) : State :=
  let s := lastReached s
  let (wear, _) := loadRecord { s.nor with dirtyLoss := true }
  let s : State := { s with wear := retiredMap s.nor.booted wear, parts := s.parts.foldl (fun (t : Tab Part) e => t.set e.1 (resetQueues e.2) {}) [], islands := s.islands.foldl (fun (t : Tab Island) e => t.set e.1 (restart s.now e.2) {}) [] }
  let s : State := { s with tasks := [], gens := [], teams := [], accepts := 0, quiesce := [], posted := s.posted.filter (fun w => w.1 == 0), evq := {}, trip := none, tripDies := [], infeas := false, thlim := false, peaklim := false, bpSteps := 0, saved := none, bootEvents := s.bootEvents ++ [0x67] }
  writeRecord (diesOff { s with dies := s.dies.foldl (fun (t : Tab Die) e => t.set e.1 { e.2 with ingress := [], withheld := none, ovfPosted := false, bad := e.2.bad.filter (fun w => !e.2.badL2.contains w), notif := [], tracked := [], pressAt := [] } {}) [] })

/-- THERMAL_TRIP_TIMEOUT (R398): a sensor at TJ + 10, or a trip that has lasted 100 ms. -/
def execThermalTripTimeout (s : State) : Host.Outcome State Fault Refusal :=
  .next (let hot := allIslands.any (fun i => decide (s.tj + 10 ≤ (s.island i).temp))
    let long := s.trip.any (fun t => decide (t + 100000000 ≤ s.now))
    if s.running && (hot || long) then emergencyRetain s else s)

/-- PERST_ASSERT (R404): an emergency Retain, with the host link down; writes that wait on it are lost. -/
def execPerstAssert (s : State) : Host.Outcome State Fault Refusal :=
  .next (let t := if s.running then emergencyRetain s else s
    { t with linkUp := false, linkWait := [], posted := t.posted.filter (fun w => w.1 != 0) })

/-! ## Wake (R323, R325, R405) -/

/-- CODE after a wake: that of the boot; after a wake that failed, what the identity check gives. -/
def wakeCode (s : State) : Nat :=
  let k := fld s.bootstat 6 7
  if k ≠ 0x7C then k else if s.nor.idOk then 0 else 0x7D

/-- The wake sequence; what waits on the host link is served next, in order. An image that fails in both slots leaves
the device in Retain. CODE stays that of the boot. Log entries 71, 98. -/
def wake (s : State) : State :=
  match s.power with
  | .retain =>
    let n := s.nor
    if n.fails then { s with bootstat := failWord n }.send (.sideband 0x7C)
    else
      let islands := (s.saved.getD s.islands).foldl (fun (t : Tab Island) e => t.set e.1 { e.2 with idleSince := s.now, strips := none } {}) []
      flowPosted { s with power := .on, agenda := s.linkWait.map (fun i => (0, i)) ++ s.agenda, linkWait := [], saved := none, islands := islands, bootstat := bootWord 5 (!n.slotA.passes) (!n.slotA.passes) false (wakeCode s), nextClose := (s.now / 10000 + 1) * 10000, passDue := true }
  | _ => s

/-- PERST_DEASSERT (R404). -/
def execPerstDeassert (s : State) : Host.Outcome State Fault Refusal := .next (wake s)

/-- SIDEBAND_WAKE (R325). -/
def execSidebandWake (s : State) : Host.Outcome State Fault Refusal := .next (wake s)

/-- PWRCTL_WAKE (R323). -/
def execPwrctlWake (s : State) : Host.Outcome State Fault Refusal := .next (wake s)

end Sys2Proof.Machine
end

