-- ==== Sys2Proof/Machine/HostRegs.lean ====
section
/-!
DEFINITION. Sys2Proof/Machine/HostRegs.lean: the management registers of the physical function and of the virtual
functions (R274, R276, R286, R297, R302, R315, R321, R323, R326 to R331, R352, R354, R357, R376, R395), and the
object commands (R329).
-/
namespace Sys2Proof.Machine

/-! ## Reaching a function (R314, R325, R328) -/

/-- The request `i`, which does `f`, reaches the device over the host link; in Retain it starts the wake and waits for
it on the link, behind those that wait there (R325). Log entry 71. -/
def viaPf (s : State) (i : Instr) (f : State → State) : State :=
  if s.linkUp = false then s
  else match s.power with
    | .on | .entering => f s
    | .retain =>
      if s.linkWait = [] then (let w := wake s
        if w.power = .on then f w else { w with linkWait := [i] })
      else wake { s with linkWait := s.linkWait ++ [i] }
    | _ => s

/-- A virtual function serves requests only while its partition is enabled. -/
def viaVf (s : State) (p : Nat) (i : Instr) (f : State → State) : State :=
  viaPf s i (fun s => if decide (p < 8) && fld (s.part p).pset 0 1 == 1 then f s else s)

/-- A register with some of its bits cleared: reserved fields read zero (R9). -/
def mask (v : Word) (m : Nat) : Word := v &&& BitVec.ofNat 64 m

/-- An object of a partition that stands in device memory (KIND 0). -/
def ownDevice (s : State) (p oid : Nat) : Bool :=
  match s.objOf p oid with
  | some o => o.kind == 0
  | none => false

/-! ## Queues (R274, R276, R354, R376) -/

/-- SQCFG: discarded with a reserved field set, or when it enables a queue on no KIND 0 object of the partition. A queue
that SQ_OVERRUN has disabled (R275) reads EN as written and is served again after any accepted write, on which the spec is
silent (DESIGN CHOICE: log entry 131). -/
def setSqcfg (s : State) (p q : Nat) (v : Word) : State :=
  if fld v 6 2 ≠ 0 ∨ fld v 32 32 ≠ 0 ∨ (fld v 0 1 = 1 ∧ ownDevice s p (fld v 8 24) = false) then s
  else s.updQueue p q (fun x => { x with sqcfg := v, sqoff := false })

/-- CQCFG: discarded with a reserved field set. -/
def setCqcfg (s : State) (p q : Nat) (v : Word) : State :=
  if fld v 6 6 ≠ 0 then s else s.updQueue p q (fun x => { x with cqcfg := v })

/-- CQHEAD: reserved bits are dropped (R9). Log entry 103. -/
def setCqhead (s : State) (p q : Nat) (v : Word) : State := s.updQueue p q (fun x => { x with cqhead := fld v 0 32 })

/-- SQCFG_WRITE (R274). -/
def execSqcfgWrite (p q : Nat) (v : Word) (s : State) : Host.Outcome State Fault Refusal :=
  .next (viaVf s p (.sqcfgWrite p q v) (fun s => if q < 8 then setSqcfg s p q v else s))

/-- CQHEAD_WRITE (R276): waiting entries may now find room. -/
def execCqheadWrite (p q : Nat) (v : Word) (s : State) : Host.Outcome State Fault Refusal :=
  .next (viaVf s p (.cqheadWrite p q v) (fun s => if q < 8 then setCqhead s p q v else s))

/-- EVQCFG and EVQHEAD of a partition; a ring that has room again takes EVENT_LOST first (R356). -/
def setEvq (s : State) (p : Nat) (f : EvQ → EvQ) : State :=
  let (s, q) := evDrain s (.vf p) (f (s.part p).evq)
  s.updPart p (fun x => { x with evq := q })

/-- The same of the package; events held for its enabling are posted (R398, R406). -/
def setPkgEvq (s : State) (f : EvQ → EvQ) : State :=
  let (s, q) := evDrain s .pf (f s.evq)
  let s := { s with evq := q }
  if ringOn q.cfg then s.bootEvents.foldl (fun s c => s.postF c) { s with bootEvents := [] } else s

/-- EVQCFG without its reserved bit. -/
def evqCfg (v : Word) (q : EvQ) : EvQ := { q with cfg := mask v (2 ^ 64 - 1 - 2 ^ 11) }
def evqHead (v : Word) (q : EvQ) : EvQ := { q with head := fld v 0 32 }

/-- PGRQCFG: a ring must lie in a KIND 0 object of the partition; clearing the register names none.
Log entry 102. -/
def setPgrq (s : State) (p : Nat) (v : Word) : State :=
  let v := mask v (2 ^ 32 - 1 - 0xC0)
  if (fld v 0 1 = 1 ∨ fld v 8 24 ≠ 0) ∧ ownDevice s p (fld v 8 24) = false then s
  else s.updPart p (fun x => { x with pgrq := v, pgrqOff := false })

/-- PGRQCFG_WRITE (R376). -/
def execPgrqcfgWrite (p : Nat) (v : Word) (s : State) : Host.Outcome State Fault Refusal :=
  .next (viaVf s p (.pgrqcfgWrite p v) (fun s => setPgrq s p v))

/-! ## Apertures (R315) -/

/-- The conditions on a valid aperture. -/
def aperOk (s : State) (p : Nat) (v : Word) : Bool :=
  ownDevice s p (fld v 2 24) && decide (12 ≤ fld v 26 6) && decide (fld v 26 6 ≤ 41) && decide (4096 * fld v 32 32 % 2 ^ fld v 26 6 = 0)

/-- APERn: checked only where V is set. -/
def setAper (s : State) (p n : Nat) (v : Word) : State :=
  if fld v 0 1 = 1 ∧ aperOk s p v = false then s
  else s.updPart p (fun x => { x with aper := x.aper.set n v 0 })

/-- APER_WRITE (R315). -/
def execAperWrite (p n : Nat) (v : Word) (s : State) : Host.Outcome State Fault Refusal :=
  .next (viaVf s p (.aperWrite p n v) (fun s => if n < 64 then setAper s p n v else s))

/-! ## Partition configuration (R327) -/

/-- Length in words of the object that SUPCFG names; without one nothing bounds the entry words. -/
def entryOk (s : State) (p oid w : Nat) : Bool := oid == 0 || decide (w < codeLen s p oid)

def setSupcfg (s : State) (p : Nat) (v : Word) : State :=
  let oid := fld v 0 24
  if fld v 48 16 ≠ 0 ∨ (oid ≠ 0 ∧ ownDevice s p oid = false) ∨ entryOk s p oid (fld v 24 24) = false then s
  else s.updPart p (fun x => { x with supcfg := v })

def setRstcfg (s : State) (p : Nat) (v : Word) : State :=
  if fld v 24 40 ≠ 0 ∨ entryOk s p (fld (s.part p).supcfg 0 24) (fld v 0 24) = false then s
  else s.updPart p (fun x => { x with rstcfg := v })

/-- SAVECAP0 waits for SAVECAP1; the pair is checked as a literal capability. -/
def setSavecap (s : State) (p half : Nat) (v : Word) : State :=
  if half = 0 then s.updPart p (fun x => { x with saveWait := some v })
  else
    let lo := (s.part p).saveWait.getD (s.part p).savecap0
    let ok := literalOk s p (BitVec.ofNat 128 (lo.toNat + v.toNat * 2 ^ 64))
    s.updPart p (fun x => if ok then { x with savecap0 := lo, savecap1 := v, saveWait := none } else { x with saveWait := none })

/-- SAVECAP_WRITE (R327). -/
def execSavecapWrite (p half : Nat) (v : Word) (s : State) : Host.Outcome State Fault Refusal :=
  .next (viaVf s p (.savecapWrite p half v) (fun s => setSavecap s p half v))

def setPriocfg (s : State) (p : Nat) (v : Word) : State :=
  if fld v 4 60 ≠ 0 then s else s.updPart p (fun x => { x with priocfg := v })

def setMigcfg (s : State) (p : Nat) (v : Word) : State :=
  if fld v 16 48 ≠ 0 ∨ fld v 0 16 = 0 then s else s.updPart p (fun x => { x with migcfg := v })

def setQlimit (s : State) (p : Nat) (v : Word) : State :=
  if fld v 24 40 ≠ 0 ∨ fld v 0 24 = 0 then s else s.updPart p (fun x => { x with qlimit := v })

/-- TASKKILL (R357): a task of the partition, by its handle. -/
def setTaskkill (s : State) (p : Nat) (v : Word) : State :=
  match s.byHandle p (fld v 0 32) with
  | some (i, _) => killTask s i true
  | none => s

/-- TASKKILL (R357). -/
def execTaskkill (p : Nat) (v : Word) (s : State) : Host.Outcome State Fault Refusal :=
  .next (viaVf s p (.taskkill p v) (fun s => setTaskkill s p v))

/-! ## Package contract and islands (R297, R302, R330) -/

/-- PKGCON: SUST and PEAK within the limits of R33, SUST × 1.004 within PEAK, TJ in its range. -/
def setPkgcon (s : State) (v : Word) : State :=
  let sust := fld v 0 16
  let peak := fld v 16 16
  let tj := fld v 32 8
  if sust ≤ 7200 ∧ peak ≤ 10000 ∧ 1004 * sust ≤ 1000 * peak ∧ 85 ≤ tj ∧ tj ≤ 115 then { s with pkgcon := mask v (2 ^ 40 - 1) } else s

/-- PKGCON_WRITE (R297). -/
def execPkgconWrite (v : Word) (s : State) : Host.Outcome State Fault Refusal :=
  .next (viaPf s (.pkgconWrite v) (fun s => setPkgcon s v))

/-- Every core in use on an island lies in a rectangle of the partition. -/
def ownsIsland (s : State) (p i : Nat) : Bool := (s.coresOf i).all (fun c => (partCores s p).contains c)

/-- ISLDV: VTGT and MODE, and DENIED cleared by a one. -/
def setIsldv (s : State) (i : Nat) (v : Word) : State :=
  s.updIsland i (fun x => { x with vtgt := fld v 21 7, mode := fld v 34 1, denied := x.denied && fld v 33 1 == 0 })

/-- A write of ISLDV by a function; the PF's MODE is kept for the time when the island is shared (R330). -/
def writeIsldv (s : State) (fn : Fn) (i : Nat) (v : Word) : State :=
  match fn with
  | .pf => (setIsldv s i v).updIsland i (fun x => { x with pfMode := fld v 34 1 })
  | .vf p => if ownsIsland s p i then setIsldv s i v else s

/-- ISLDV_WRITE (R330). -/
def execIsldvWrite (fn : Fn) (island : Nat) (v : Word) (s : State) : Host.Outcome State Fault Refusal :=
  .next (let f (s : State) : State := if island < 48 then writeIsldv s fn island v else s
    match fn with
    | .pf => viaPf s (.isldvWrite fn island v) f
    | .vf p => viaVf s p (.isldvWrite fn island v) f)

/-! ## Partition set-up (R328) -/

/-- A share field summed over the enabled partitions but `p`. -/
def shareSum (s : State) (p lo len : Nat) : Nat :=
  ((allParts.filter (fun q => q != p && fld (s.part q).pset 0 1 == 1)).map (fun q => fld (s.part q).pset lo len)).foldl (· + ·) 0

/-- Waiting entries of a partition's completion rings are dropped, and their table entries freed (R276). -/
def dropEntries (s : State) (p : Nat) : State :=
  allParts.foldl (fun s q =>
    let l := ((s.part p).queueOf q).waiting
    let s := s.updQueue p q (fun x => { x with waiting := [] })
    l.foldl (fun s e => match e.2 with
      | some i => if fld e.1 40 1 = 1 then s else s.setTask i none
      | none => s) s) s

/-- A configuration with EN clear. -/
def off (v : Word) : Word := setFld v 0 1 0

/-- Every task of a partition fails as by TASKKILL, with no completion entry, now or when its teams end. -/
def killAll (s : State) (p : Nat) : State :=
  ((s.tasks.filter (fun e => e.2.any (fun t => t.part == p))).map (·.1)).foldl (fun s i =>
    killTask (s.updTask i (fun t => { t with nocq := true })) i false) s

/-- Clearing EN disables the partition's queues and its ring, and fails its tasks. -/
def disablePart (s : State) (p : Nat) : State :=
  let s := s.updPart p (fun x => { x with qs := x.qs.foldl (fun (t : Tab Queue) e => t.set e.1 { e.2 with sqcfg := off e.2.sqcfg, cqcfg := off e.2.cqcfg } {}) [], evq := { x.evq with cfg := off x.evq.cfg }, pgrq := off x.pgrq })
  killAll (dropEntries s p) p

/-- PSET: the shares of the enabled partitions stay within 32,768 and 4096. -/
def setPset (s : State) (p : Nat) (v : Word) : State :=
  let on := fld v 0 1 == 1
  if fld v 30 34 ≠ 0 then s
  else if on && (decide (32768 < fld v 1 16 + shareSum s p 1 16) || decide (4096 < fld v 17 13 + shareSum s p 17 13)) then s
  else
    let was := fld (s.part p).pset 0 1 == 1
    let s := s.updPart p (fun x => { x with pset := v })
    sharedModes (if was && !on then disablePart s p else { s with passDue := true })

/-- PSET_WRITE (R328). -/
def execPsetWrite (p : Nat) (v : Word) (s : State) : Host.Outcome State Fault Refusal :=
  .next (viaPf s (.psetWrite p v) (fun s => if p < 8 then setPset s p v else s))

/-- PMEM: the MEM values stay within the device memory fitted. -/
def setPmem (s : State) (p : Nat) (v : Word) : State :=
  let rest := ((allParts.filter (· != p)).map (fun q => fld (s.part q).pmem 0 32)).foldl (· + ·) 0
  if fld v 32 32 ≠ 0 ∨ 4 * 1024 * s.order.dieGiB < fld v 0 32 + rest then s else s.updPart p (fun x => { x with pmem := v })

/-- PARTCON: discarded with a reserved field set. -/
def setPartcon (s : State) (p : Nat) (v : Word) : State :=
  if fld v 26 38 ≠ 0 then s else s.updPart p (fun x => { x with partcon := v })

/-- Two rectangles overlap. -/
def rectsMeet (a b : Nat × Nat × Nat × Nat) : Bool :=
  decide (a.1 < b.1 + 2 ^ b.2.2.1) && decide (b.1 < a.1 + 2 ^ a.2.2.1) && decide (a.2.1 < b.2.1 + 2 ^ b.2.2.2) && decide (b.2.1 < a.2.1 + 2 ^ a.2.2.2)

/-- A rectangle is aligned to its shape and meets no other valid one of any partition. -/
def rectOk (s : State) (p m : Nat) (r : Nat × Nat × Nat × Nat) : Bool :=
  decide (r.2.2.1 ≤ 4) && decide (r.2.2.2 ≤ 4) && r.1 % 2 ^ r.2.2.1 == 0 && r.2.1 % 2 ^ r.2.2.2 == 0 &&
  allParts.all (fun q => (List.range 8).all (fun j =>
    match rectOf ((s.part q).prect.get j 0) with
    | some t => (q == p && j == m) || !rectsMeet r t
    | none => true))

/-- The cores of one PRECT value. -/
def rectWordCores (w : Word) : List Nat :=
  match rectOf w with
  | some r => rectCores r.1 r.2.1 r.2.2.1 r.2.2.2
  | none => []

/-- PRECTm: the cores that the partition loses are given up at a quiesce point. -/
def setPrect (s : State) (p m : Nat) (v : Word) : State :=
  let ok := match rectOf v with
    | some r => rectOk s p m r
    | none => true
  if fld v 15 49 ≠ 0 ∨ ok = false then s
  else
    let lost := (rectWordCores ((s.part p).prect.get m 0)).filter (fun c => !(rectWordCores v).contains c)
    let s : State := { s.updPart p (fun x => { x with prect := x.prect.set m v 0 }) with passDue := true }
    let q : Quiesce := { cores := lost, since := s.now, work := .rectangle p }
    sharedModes (if lost.isEmpty then s else { s with quiesce := s.quiesce ++ [q] })

/-- PRECT_WRITE (R328). -/
def execPrectWrite (p m : Nat) (v : Word) (s : State) : Host.Outcome State Fault Refusal :=
  .next (viaPf s (.prectWrite p m v) (fun s => if p < 8 ∧ m < 8 then setPrect s p m v else s))

/-! ## Object commands (R329) -/

/-- A word of the command that GO submitted. -/
def Part.cmd (x : Part) (w : Nat) : Word := x.objrun.get w 0
def cmdOp (x : Part) : Nat := fld (x.cmd 0) 0 4
def cmdOid (x : Part) : Nat := fld (x.cmd 0) 4 24
def cmdPage (x : Part) : Nat := fld (x.cmd 2) 0 32

/-- OBJDB.GO: discarded while BUSY, else it submits the command words as they stand; an operation that is none of the
four is malformed. -/
def goObject (s : State) (p : Nat) : State :=
  if (s.part p).objbusy then s
  else
    let s := s.updPart p (fun x => { x with objbusy := true, objrun := x.objcmd })
    if 1 ≤ cmdOp (s.part p) ∧ cmdOp (s.part p) ≤ 4 then s else endCommand s p 1

/-- INSTALL is malformed. Log entry 105. -/
def installBad (x : Part) : Bool :=
  let o := cmdOid x
  let w := x.cmd 1
  fld (x.cmd 0) 28 36 != 0 || fld w 14 50 != 0 || fld (x.cmd 2) 48 16 != 0 ||
  o == 0 || decide (0xFFFFF0 ≤ o) || decide (1 < fld w 2 2) || (fld w 6 1 == 1 && fld w 2 2 == 1) ||
  fld w 9 2 == 3 || (fld w 6 1 == 0 && fld w 7 6 != 0) || fld (x.cmd 2) 0 48 == 0

/-- The entry that INSTALL writes, with its page table at a frame. -/
def installObj (x : Part) (p f : Nat) (hdr : Option CodeHdr) : Obj :=
  let w := x.cmd 1
  { part := p, psz := fld w 0 2, kind := fld w 2 2, home := fld w 4 2, cr := fld w 6 1 == 1, cfmt := fld w 7 2, cop := fld w 9 2, cblk := fld w 11 2, len := fld (x.cmd 2) 0 48, ptbase := 4096 * f, pages := [], hdr := hdr }

/-- Pages 0 to n − 1 are placed and zeroed on HOME; none where frames run out. -/
def placeAll (oid : Nat) : Nat → State → Option State
  | 0, s => some s
  | n + 1, s => (placeAll oid n s).bind (fun s => placePage s oid n [] [])

/-- INSTALL: the page table takes frames on die HOME, and the pages too with PLACE. -/
def installNow (s : State) (p : Nat) (hdr : Option CodeHdr) : Option State :=
  let x := s.part p
  let o := installObj x p 0 hdr
  let n := pageCount o
  let all := fld (x.cmd 1) 13 1 == 1 && o.kind == 0
  if inShare s p (tableFrames n + (if all then n * pageFrames o.psz else 0)) = false ∨ 65536 ≤ s.objs.length then none
  else
    match findFrames s o.home (tableFrames n) with
    | none => none
    | some f =>
      let s := takeFrames s o.home f (tableFrames n)
      let s := s.setObj (cmdOid x) (some (installObj x p f hdr))
      if all then placeAll (cmdOid x) n s else some s

/-- INSTALL (R329), once GO has been written. -/
def execInstall (p : Nat) (hdr : Option CodeHdr) (s : State) : Host.Outcome State Fault Refusal :=
  .next (let x := s.part p
    if x.objbusy = false ∨ cmdOp x ≠ 1 then s
    else if installBad x then endCommand s p 1
    else if (s.obj (cmdOid x)).isSome then endCommand s p 2
    else match installNow s p hdr with
      | some s => endCommand s p 0
      | none => endCommand s p 3)

/-- The partitions whose command in progress is `op` and has not yet asked for its quiesce point. -/
def commandsOf (s : State) (op : Nat) : List Nat :=
  allParts.filter (fun p => (s.part p).objbusy && cmdOp (s.part p) == op &&
    !s.quiesce.any (fun q => match q.work with
      | .object p' .. => p' == p
      | _ => false))

/-- A command asks for the quiesce point of the cores of every team that holds a capability to its object. -/
def askObject (s : State) (p : Nat) : State :=
  let x := s.part p
  let q : Quiesce := { cores := holderCores s (cmdOid x), since := s.now, work := .object p (cmdOp x) (cmdOid x) (cmdPage x) (fld (x.cmd 3) 0 32) }
  { s with quiesce := s.quiesce ++ [q] }

/-- REMOVE, MAP and UNMAP are checked, and then wait. -/
def startCommand (s : State) (p : Nat) : State :=
  let x := s.part p
  if fld (x.cmd 0) 28 36 ≠ 0 ∨ (cmdOp x ≠ 2 ∧ fld (x.cmd 2) 32 32 ≠ 0) ∨ (cmdOp x = 3 ∧ fld (x.cmd 3) 32 32 ≠ 0) then endCommand s p 1
  else match s.objOf p (cmdOid x) with
    | none => endCommand s p 2
    | some o => if cmdOp x ≠ 2 ∧ pageCount o ≤ cmdPage x then endCommand s p 1 else askObject s p

/-- One of the partitions with such a command, by a free value (log entry 2). -/
def someCommand (s : State) (op : Nat) : State :=
  let l := commandsOf s op
  match l[Config.pick s.fresh % max 1 l.length]? with
  | some p => startCommand s.draw p
  | none => s

/-- REMOVE (R329). -/
def execRemoveObj (s : State) : Host.Outcome State Fault Refusal := .next (someCommand s 2)
/-- MAP (R329). -/
def execMapPage (s : State) : Host.Outcome State Fault Refusal := .next (someCommand s 3)
/-- UNMAP (R329). -/
def execUnmapPage (s : State) : Host.Outcome State Fault Refusal := .next (someCommand s 4)

/-- An object entry as R68 lays it out. -/
def objEntry (oid : Nat) (o : Obj) : Nat :=
  oid + o.part * 2 ^ 24 + 2 ^ 27 + o.psz * 2 ^ 28 + o.kind * 2 ^ 30 + o.home * 2 ^ 32 + oneIf o.cr * 2 ^ 34 + o.cfmt * 2 ^ 35 + o.cop * 2 ^ 37 +
  o.cblk * 2 ^ 39 + o.len * 2 ^ 48 + o.ptbase * 2 ^ 96

/-- A page entry as R69 lays it out. -/
def pageEntry (e : Page) : Nat := e.state + e.die * 2 ^ 3 + oneIf e.q * 2 ^ 5 + e.acnt * 2 ^ 16 + e.frame % 2 ^ 32 * 2 ^ 32

/-- OBJRDIX: the read registers show the named entry as it stands. -/
def setObjrdix (s : State) (p : Nat) (v : Word) : State :=
  let v := mask v (2 ^ 57 - 1)
  let e := match s.objOf p (fld v 0 24) with
    | some o => if fld v 56 1 = 1 then pageEntry (o.pages.get (fld v 24 32) {}) else objEntry (fld v 0 24) o
    | none => 0
  s.updPart p (fun x => { x with objrdix := v, objrd := BitVec.ofNat 256 e })

/-- OBJRDIX_WRITE (R329). -/
def execObjrdixWrite (p : Nat) (v : Word) (s : State) : Host.Outcome State Fault Refusal :=
  .next (viaVf s p (.objrdixWrite p v) (fun s => setObjrdix s p v))

/-! ## The error log (R352) -/

/-- A function sees an entry: the PF all, a VF those of its partition. -/
def seesEntry (fn : Fn) (e : LogEntry) : Bool :=
  match fn with
  | .pf => true
  | .vf p => e.part == some p

/-- Writing 1 to V frees an entry that the function sees; ERRLOG_FULL may be raised again (R353). -/
def freeEntry (s : State) (fn : Fn) (die e : Nat) : State :=
  if ((s.die die).log.get e none).any (seesEntry fn) then
    s.updDie die (fun d => { d with log := d.log.set e none none, logFull := false })
  else s

/-- ERRLOG_ENTRY_FREE (R352). -/
def execErrlogEntryFree (fn : Fn) (die e : Nat) (s : State) : Host.Outcome State Fault Refusal :=
  .next (let f (s : State) : State := if die < 4 ∧ e < 256 then freeEntry s fn die e else s
    match fn with
    | .pf => viaPf s (.errlogEntryFree fn die e) f
    | .vf p => viaVf s p (.errlogEntryFree fn die e) f)

/-- A log entry as R352 lays it out. -/
def logWord (e : LogEntry) : Nat :=
  e.code + oneIf e.corr * 2 ^ 7 + e.store * 2 ^ 8 + e.part.getD 0 * 2 ^ 11 + oneIf e.part.isSome * 2 ^ 14 + 2 ^ 15 + e.core.getD 0 * 2 ^ 16 +
  oneIf e.core.isSome * 2 ^ 24 + e.addr % 2 ^ 48 * 2 ^ 32 + e.count * 2 ^ 80 + e.tfirst % 2 ^ 64 * 2 ^ 128 + e.tlast % 2 ^ 64 * 2 ^ 192

/-! ## Reading registers (R326, R331) -/

/-- A number as a register. -/
def reg (n : Nat) : Word := BitVec.ofNat 64 n

/-- A remap entry (R17). -/
def remapWord (s : State) (i : Nat) : Word :=
  let r := s.remap.get i {}
  reg ((r.lrow.zipIdx.foldl (fun n x => n + x.1 * 2 ^ (4 * x.2)) 0) + r.spare * 2 ^ 32)

/-- ISLDV (R302). -/
def isldvWord (s : State) (i : Nat) : Word :=
  let x := s.island i
  reg (x.vset + x.vfloor * 2 ^ 7 + x.vmax * 2 ^ 14 + x.vtgt * 2 ^ 21 + x.trim * 2 ^ 28 + oneIf (x.stepping s.now) * 2 ^ 32 + oneIf x.denied * 2 ^ 33 +
    x.mode * 2 ^ 34 + x.temp * 2 ^ 48)

/-- STALL of a core (R302). -/
def stallWord (k : Core) : Word := reg (k.stallCyc + k.mstall * 2 ^ 24)

/-- One of the four registers of an error log entry, as a function sees it. -/
def logReg (s : State) (fn : Fn) (o : Nat) : Word :=
  match (s.die (o / 0x2000)).log.get (o % 0x2000 / 32) none with
  | some e => if seesEntry fn e then reg (bits (logWord e) (64 * (o / 8 % 4)) 64) else 0
  | none => 0

/-- EPLSTAT (R402). -/
def eplstat (x : Epl) : Word := reg (oneIf x.up + oneIf x.training * 2 + min x.downs 65535 * 2 ^ 16 + min x.replays (2 ^ 32 - 1) * 2 ^ 32)

/-- PWRCTL (R323): RETAIN reads one while the request is carried out. -/
def pwrctl (s : State) : Word :=
  let st := match s.power with
    | .entering => 2
    | .retain => 3
    | _ => oneIf (allIslands.all (fun i => (s.island i).retention))
  reg (oneIf (s.power == .entering) + st * 4 + oneIf s.refused * 16)

/-- A register of a virtual function (R326). -/
def vfReg (s : State) (p o : Nat) : Word :=
  let x := s.part p
  if o < 0x40 then [x.supcfg, x.rstcfg, x.savecap0, x.savecap1, x.priocfg, x.migcfg, x.qlimit, reg x.ptime].getD (o / 8) 0
  else if 0x400 ≤ o ∧ o < 0x440 then (x.queueOf (o / 8 % 8)).sqcfg
  else if 0x440 ≤ o ∧ o < 0x480 then (x.queueOf (o / 8 % 8)).cqcfg
  else if 0x480 ≤ o ∧ o < 0x4C0 then reg (x.queueOf (o / 8 % 8)).cqhead
  else if o = 0x500 then x.charge
  else if o = 0x508 then x.partcon
  else if o = 0x510 then x.partstat
  else if o = 0x600 then x.evq.cfg
  else if o = 0x608 then reg x.evq.head
  else if o = 0x610 then x.pgrq
  else if 0x800 ≤ o ∧ o < 0xA00 then x.aper.get ((o - 0x800) / 8) 0
  else if o = 0xA00 then x.wincfg
  else if 0x1000 ≤ o ∧ o < 0x1020 then x.objcmd.get ((o - 0x1000) / 8) 0
  else if o = 0x1048 then reg (oneIf x.objbusy + x.objres * 2)
  else if o = 0x1050 then x.objrdix
  else if 0x1060 ≤ o ∧ o < 0x1080 then reg (fld x.objrd (64 * ((o - 0x1060) / 8)) 64)
  else if 0x2000 ≤ o ∧ o < 0x2100 then remapWord s ((o - 0x2000) / 8)
  else if 0x3000 ≤ o ∧ o < 0x3180 then isldvWord s ((o - 0x3000) / 8)
  else if 0x4000 ≤ o ∧ o < 0x4800 then
    (let c := (o - 0x4000) / 8
    if (partCores s p).contains c then stallWord (s.core c) else 0)
  else if 0x8000 ≤ o ∧ o < 0x10000 then logReg s (.vf p) (o - 0x8000)
  else 0

/-- A register of the physical function (R331). -/
def pfReg (s : State) (o : Nat) : Word :=
  if o = 0 then s.pkgcon
  else if o = 8 then pwrctl s
  else if o = 0x10 then s.pwrstat
  else if o = 0x100 then s.evq.cfg
  else if o = 0x108 then reg s.evq.head
  else if 0x200 ≤ o ∧ o < 0x240 then eplstat (s.linkOf (o / 8 % 8))
  else if 0x240 ≤ o ∧ o < 0x280 then (s.linkOf (o / 8 % 8)).map
  else if o = 0x300 then s.bootstat
  else if 0x1000 ≤ o ∧ o < 0x1800 then
    (let x := s.part ((o - 0x1000) / 256)
    let r := o % 256
    if r = 0 then x.pset else if r = 8 then x.pmem else if r = 0x50 then x.partcon
    else if 0x10 ≤ r ∧ r < 0x50 then x.prect.get ((r - 0x10) / 8) 0 else 0)
  else if 0x2000 ≤ o ∧ o < 0x2100 then remapWord s ((o - 0x2000) / 8)
  else if 0x3000 ≤ o ∧ o < 0x3180 then isldvWord s ((o - 0x3000) / 8)
  else if 0x4000 ≤ o ∧ o < 0x4900 then
    (match s.logicalOf ((o - 0x4000) / 8) with
     | some c => stallWord (s.core c)
     | none => 0)
  else if 0x8000 ≤ o ∧ o < 0x10000 then logReg s .pf (o - 0x8000)
  else if 0x10000 ≤ o ∧ o < 0x11000 then Config.spdm o s.spdmSeen
  else 0

/-- The management register at an offset as a function reads it. -/
def readReg (s : State) (fn : Fn) (o : Nat) : Word :=
  match fn with
  | .pf => pfReg s (o / 8 * 8)
  | .vf p => vfReg s p (o / 8 * 8)

/-- An aligned read of 8 bytes, or of 4, which gets its half of the register (R326). -/
def readBar0 (s : State) (fn : Fn) (o : Nat) (wide : Bool) : Word :=
  if wide then readReg s fn o else reg (fld (readReg s fn o) (if o % 8 = 4 then 32 else 0) 32)

/-! ## Writing registers (R326, R331) -/

/-- A write of a virtual function's register. -/
def writeVf (s : State) (p o : Nat) (v : Word) : State :=
  if o = 0 then setSupcfg s p v
  else if o = 8 then setRstcfg s p v
  else if o = 0x10 then setSavecap s p 0 v
  else if o = 0x18 then setSavecap s p 1 v
  else if o = 0x20 then setPriocfg s p v
  else if o = 0x28 then setMigcfg s p v
  else if o = 0x30 then setQlimit s p v
  else if 0x400 ≤ o ∧ o < 0x440 then setSqcfg s p (o / 8 % 8) v
  else if 0x440 ≤ o ∧ o < 0x480 then setCqcfg s p (o / 8 % 8) v
  else if 0x480 ≤ o ∧ o < 0x4C0 then setCqhead s p (o / 8 % 8) v
  else if o = 0x500 then s.updPart p (fun x => { x with charge := v })
  else if o = 0x600 then setEvq s p (evqCfg v)
  else if o = 0x608 then setEvq s p (evqHead v)
  else if o = 0x610 then setPgrq s p v
  else if o = 0x618 then setTaskkill s p v
  else if 0x800 ≤ o ∧ o < 0xA00 then setAper s p ((o - 0x800) / 8) v
  else if o = 0xA00 then s.updPart p (fun x => { x with wincfg := mask v 0xFFFF })
  else if 0x1000 ≤ o ∧ o < 0x1020 then s.updPart p (fun x => { x with objcmd := x.objcmd.set ((o - 0x1000) / 8) v 0 })
  else if o = 0x1040 then (if fld v 0 1 = 1 then goObject s p else s)
  else if o = 0x1050 then setObjrdix s p v
  else if 0x3000 ≤ o ∧ o < 0x3180 then writeIsldv s (.vf p) ((o - 0x3000) / 8) v
  else if 0x8000 ≤ o ∧ o < 0x10000 ∧ o % 32 = 0 ∧ fld v 15 1 = 1 then freeEntry s (.vf p) ((o - 0x8000) / 0x2000) (o % 0x2000 / 32)
  else s

/-- Two enabled mappings overlap (R321). Log entry 104. -/
def mapsMeet (s : State) (l : Nat) (v : Word) : Bool :=
  fld v 0 1 == 1 && allParts.any (fun j =>
    let w := (s.linkOf j).map
    j != l && fld w 0 1 == 1 && decide (fld v 32 32 < fld w 32 32 + 2 ^ 28) && decide (fld w 32 32 < fld v 32 32 + 2 ^ 28))

/-- A mapping register: not one that overlaps another. -/
def setMap (s : State) (l : Nat) (v : Word) : State :=
  if mapsMeet s l v then s else s.updLink l (fun x => { x with map := mask v (2 ^ 64 - 2 ^ 32 + 15) })

/-- PWRCTL: WAKE finds the device awake; RETAIN asks for Retain; REFUSED is cleared by a one. -/
def setPwrctl (s : State) (v : Word) : State :=
  let s := if fld v 4 1 = 1 then { s with refused := false } else s
  if fld v 0 1 = 1 ∧ s.power = .on then askRetain s else s

/-- A write of the physical function's register. -/
def writePf (s : State) (o : Nat) (v : Word) : State :=
  if o = 0 then setPkgcon s v
  else if o = 8 then setPwrctl s v
  else if o = 0x100 then setPkgEvq s (evqCfg v)
  else if o = 0x108 then setPkgEvq s (evqHead v)
  else if 0x240 ≤ o ∧ o < 0x280 then setMap s (o / 8 % 8) v
  else if 0x1000 ≤ o ∧ o < 0x1800 then
    (let p := (o - 0x1000) / 256
    let r := o % 256
    if r = 0 then setPset s p v else if r = 8 then setPmem s p v else if r = 0x50 then setPartcon s p v
    else if 0x10 ≤ r ∧ r < 0x50 then setPrect s p ((r - 0x10) / 8) v else s)
  else if 0x3000 ≤ o ∧ o < 0x3180 then writeIsldv s .pf ((o - 0x3000) / 8) v
  else if 0x8000 ≤ o ∧ o < 0x10000 ∧ o % 32 = 0 ∧ fld v 15 1 = 1 then freeEntry s .pf ((o - 0x8000) / 0x2000) (o % 0x2000 / 32)
  else if 0x10000 ≤ o ∧ o < 0x11000 then { s with spdmIn := s.spdmIn ++ [(o - 0x10000, v)] }
  else s

/-- Bits that a one clears, which a write of the other half leaves alone: DENIED of ISLDV, REFUSED of PWRCTL, V of
a log entry. -/
def wcBits (fn : Fn) (o : Nat) : Nat :=
  if 0x3000 ≤ o ∧ o < 0x3180 then 2 ^ 33
  else if fn = .pf ∧ o = 8 then 17
  else if 0x8000 ≤ o ∧ o < 0x10000 ∧ o % 32 = 0 then 2 ^ 15 else 0

/-- The whole register that a write makes: a 4-byte write leaves the other half unchanged, that of a SAVECAP0
that waits as it waits. Log entry 107. -/
def wholeReg (s : State) (fn : Fn) (o : Nat) (wide : Bool) (v : Word) : Word :=
  if wide then v
  else
    let cur := match fn with
      | .vf p => if o / 8 * 8 = 0x10 then (s.part p).saveWait.getD (s.part p).savecap0 else readReg s fn o
      | .pf => readReg s fn o
    let other := setFld cur (if o % 8 = 4 then 32 else 0) 32 0
    setFld (other &&& ~~~(reg (wcBits fn (o / 8 * 8)))) (if o % 8 = 4 then 32 else 0) 32 (fld v 0 32)

/-- REGISTER_WRITE (R326, R331): an aligned 8-byte or 4-byte write. -/
def execRegisterWrite (fn : Fn) (off : Nat) (wide : Bool) (v : Word) (s : State) : Host.Outcome State Fault Refusal :=
  .next (if off % (if wide then 8 else 4) ≠ 0 then s
    else
      let o := off / 8 * 8
      match fn with
      | .pf => viaPf s (.registerWrite fn off wide v) (fun s => writePf s o (wholeReg s .pf off wide v))
      | .vf p => viaVf s p (.registerWrite fn off wide v) (fun s => writeVf s p o (wholeReg s (.vf p) off wide v)))

end Sys2Proof.Machine
end

