-- ==== Sys2Proof/Machine/Host.lean ====
section
/-!
DEFINITION. Sys2Proof/Machine/Host.lean: accesses of the host, of PCIe peers and of peer devices through BAR2
(R95, R96, R314 to R317, R321, R351, R391).
-/
namespace Sys2Proof.Machine

/-! ## Apertures (R315, R316) -/

/-- The valid aperture that holds a BAR2 offset, lowest number first. -/
def aperAt (s : State) (p off : Nat) : Option Word :=
  ((List.range 64).map (fun n => (s.part p).aper.get n 0)).find? (fun v =>
    fld v 0 1 == 1 && decide (4096 * fld v 32 32 ≤ off) && decide (off < 4096 * fld v 32 32 + 2 ^ fld v 26 6))

/-- Where `n` bytes at a BAR2 offset stand, within one 4 KiB unit: die and device address. -/
def barPlace (s : State) (p off n : Nat) (wr : Bool) : Option (Nat × Nat) :=
  match aperAt s p off with
  | none => none
  | some v =>
    if wr && fld v 1 1 == 0 then none
    else match translate s p (fld v 2 24) (off - 4096 * fld v 32 32) n with
      | .ok (.dev d pa) => some (d, pa)
      | _ => none

/-- HOST_UNMAPPED, at most once per 1 ms (R316). -/
def unmapped (s : State) (p : Nat) : State :=
  if msOver s.now (s.part p).unmapAt then (s.postE p 0x75).updPart p (fun x => { x with unmapAt := some s.now }) else s

/-- An access cut at 4 KiB boundaries: offsets and lengths. -/
def pagesOf (off n : Nat) : List (Nat × Nat) :=
  (List.range ((off % 4096 + n + 4095) / 4096)).map (fun i =>
    let a := max off (4096 * (off / 4096 + i))
    let b := min (off + n) (4096 * (off / 4096 + i + 1))
    (a, b - a))

/-! ## Writes (R95, R317) -/

/-- One write of a partition over a link goes behind what waits there, and on as credit allows. It keeps the die and
device address that its page has here (log entry 116). -/
def postWrite (s : State) (link p off : Nat) (data : List Byte) : State :=
  match barPlace s p off data.length true with
  | some (d, pa) => flowPosted { s with posted := s.posted ++ [(link, d, { part := p, at' := s.now, addr := pa, off := off, data := data })] }
  | none => unmapped s p

/-- Bytes [off, off + n) lie in BAR2 of a virtual function as it is sized (R314). -/
def inBar2 (s : State) (p off n : Nat) : Bool := decide (off + n ≤ 2 ^ (30 + (s.part p).bar2))

/-- A write through BAR2. Log entry 108. -/
def barWrite (s : State) (link p off : Nat) (data : List Byte) : State :=
  (pagesOf off data.length).foldl (fun s c => postWrite s link p c.1 ((data.drop (c.1 - off)).take c.2)) s

/-- HOST_WRITE (R316). -/
def execHostWrite (p off : Nat) (data : List Byte) (s : State) : Host.Outcome State Fault Refusal :=
  .next (viaVf s p (.hostWrite p off data) (fun s => if inBar2 s p off data.length then barWrite s 0 p off data else s))

/-! ## Reads (R96, R351) -/

/-- One part of a read at the home: own holders are recalled, no lease is given; an uncorrectable word is logged and
aborts it. -/
def readPart (r : State × Option (List Byte)) (die pa n : Nat) : State × Option (List Byte) :=
  let s := recallWords (combineFor r.1 die pa n) die (span (pa / 32) ((pa + n + 31) / 32 - pa / 32))
  let s := l2Host s die pa n false
  if hasBad (s.die die).bad pa n then (logHomeBad s die pa n, none)
  else (s, r.2.map (· ++ s.readDev die pa n))

/-- A read through BAR2: Unsupported Request where any of it is not served. -/
def barRead (s : State) (p off n : Nat) : State :=
  let l := (pagesOf off n).map (fun c => (barPlace s p c.1 c.2 false).map (fun x => (x.1, x.2, c.2)))
  if l.any (·.isNone) then (unmapped s p).send .unsupported
  else
    let r := (l.filterMap id).foldl (fun r c => readPart r c.1 c.2.1 c.2.2) (s, some [])
    match r.2 with
    | some b => r.1.send (.readData b)
    | none => r.1.send .completerAbort

/-- A read waits on its link behind posted writes that wait there (R391). -/
def linkHeld (s : State) (link : Nat) : Bool := s.posted.any (fun w => w.1 == link)

/-- A read of a management register: aligned, of 8 bytes or of 4 (R326); another one is not supported (log entry
107). A virtual function whose partition is disabled serves none (R328). -/
def regRead (s : State) (fn : Fn) (off n : Nat) : State :=
  let on := match fn with
    | .pf => true
    | .vf p => decide (p < 8) && fld (s.part p).pset 0 1 == 1
  if on && (n == 4 || n == 8) && off % n == 0 then s.send (.regData (n == 8) (readBar0 s fn off (n == 8))) else s.send .unsupported

/-- HOST_READ (R316, R326); with the partition disabled an Unsupported Request (R328). -/
def execHostRead (bar : Bar) (off n : Nat) (s : State) : Host.Outcome State Fault Refusal :=
  .next (if linkHeld s 0 then s
    else viaPf s (.hostRead bar off n) (fun s => match bar with
      | .bar0 fn => regRead s fn off n
      | .bar2 p => if decide (p < 8) && fld (s.part p).pset 0 1 == 1 && inBar2 s p off n then barRead s p off n else s.send .unsupported))

/-- PEER_LINK_ARRIVAL (R321): a write, or a read of as many bytes as `data` has, over a link that is up. -/
def execPeerLinkArrival (link p off : Nat) (wr : Bool) (data : List Byte) (s : State) : Host.Outcome State Fault Refusal :=
  .next (if (s.linkOf link).up = false ∨ s.running = false ∨ 8 ≤ link then s
    else
      let s := s.updLink link (fun x => { x with run := 0 })
      let on := decide (p < 8) && fld (s.part p).pset 0 1 == 1
      if wr then (if on then barWrite s (link + 1) p off data else s)
      else if linkHeld s (link + 1) then s
      else if on then barRead s p off data.length else s.send .unsupported)

/-! ## The ingress buffer (R95, R391) -/

/-- INGRESS_TIMEOUT (R95). -/
def execIngressTimeout (die : Nat) (s : State) : Host.Outcome State Fault Refusal :=
  .next (let ws := duePrefix s (s.die die).ingress
    if ws.isEmpty then s else applyDue s die ws)

/-- INGRESS_OVERFLOW (R391): to the package and to each partition with a write in the buffer. -/
def execIngressOverflow (die : Nat) (s : State) : Host.Outcome State Fault Refusal :=
  .next (let d := s.die die
    if d.ovfPosted || !d.withheld.any (fun t => decide (t + 1000000 ≤ s.now)) then s
    else
      let s := (s.updDie die (fun x => { x with ovfPosted := true })).postF 0x47 (die := die)
      (allParts.filter (fun p => d.ingress.any (fun w => w.part == p))).foldl (fun s p => s.postE p 0x47 (die := die)) s)

end Sys2Proof.Machine
end

