-- ==== Sys2Proof/Machine/ErrLog.lean ====
section
/-!
DEFINITION. Sys2Proof/Machine/ErrLog.lean: errors that arise in the stores (R351 to R353, R385 to R388).
-/
namespace Sys2Proof.Machine

/-- STORE code (R352). -/
def storeCode : Store → Nat
  | .l1 => 0 | .l2 => 1 | .scratchpad => 2 | .accumulator => 3 | .lpddr => 4

/-- A word stands dirty in an L1 or its victim buffer. -/
def dirtyIn (k : Core) (die w : Nat) : Bool :=
  (k.l1 ++ k.victim).any (fun b => b.has die (w / 16) (w % 16) && b.dirty.testBit (w % 16))

/-- A word stands clean in an L1 or an instruction cache. -/
def cleanIn (k : Core) (die w : Nat) : Bool := k.l1.any (fun b => b.has die (w / 16) (w % 16)) || k.icache.contains (die, w)

/-- The partials of a word in a commutative buffer fail their check from now on: an update that meets one is answered so
(R385), and a combination leaves the home word failing (R387). -/
def spoilPartial (s : State) (core die w : Nat) : State :=
  s.updCore core (fun k => { k with part := k.part.map (fun e => if e.at die w then { e with bad := true } else e) })

/-- The core and partition of a request that met an error: none for the host, or where no context stands on the core
(R352). -/
def requesterOf (s : State) (core : Nat) : Option Nat × Option Nat :=
  if 256 ≤ core ∨ s.isHole core then (none, none)
  else (if s.partOn core = 0 then none else some (s.partOn core - 1), some core)

/-- A parity error in a clean copy (R352, R385): it is refetched and logged as corrected. Where its word fails at the
home, the copy is dropped, and the next access meets the home's error. -/
def refetch (s : State) (core die w : Nat) : State :=
  if (s.die die).bad.contains w then
    (dropL1 s core (fun b => b.has die (w / 16) (w % 16))).updCore core (fun k => { k with icache := k.icache.filter (· != (die, w)) })
  else s.corrected (dieOf core) 0 (l1Addr (s.core core) w) (requesterOf s core).1 (some core)

/-- An error in a core's L1, victim buffer, commutative buffer or instruction cache (R385, R387). A dirty word fails its
check from now on. -/
def l1Error (s : State) (core die w : Nat) : State :=
  let k := s.core core
  if dirtyIn k die w then
    s.updCore core (fun k => { k with l1Bad := if k.l1Bad.contains (die, w) then k.l1Bad else k.l1Bad ++ [(die, w)] })
  else if k.part.any (·.at die w) then spoilPartial s core die w
  else if cleanIn k die w then refetch s core die w
  else s

/-- An error in a die's L2 (R385): a dirty word fails its check from now on; a clean one is refetched from LPDDR-6, and
dropped where that fails. -/
def l2Error (s : State) (die w : Nat) : State :=
  match (s.die die).l2.find? (·.has die (w / 16) (w % 16)) with
  | none => s
  | some b =>
    if b.dirty.testBit (w % 16) then
      spoilL2 s die w
    else if (s.die die).bad.contains w then s
    else
      let r := requesterOf s (Config.requester s.fresh)
      s.draw.corrected die 1 (32 * w) r.1 r.2

/-- Word of accumulator memory that byte `a` of a slot's tiles lies in. -/
def accWord (a : Nat) : Nat × Nat := (a / 2 ^ 20 % 4, 4096 * (a % 2 ^ 20 / 2 ^ 15) + a % 2 ^ 15 / 32)

/-- MEMORY_ERROR (R351, R385, R387): a store finds an error that it cannot correct. `loc` is a die (L2, LPDDR-6) or a
core; `addr` the device address, the scratchpad byte, for L1 the key die × 2^40 + device address, for accumulators
slot × 2^20 + byte. The word fails its check from now on: every access that meets it answers, logs and posts as
`State.uncorr` says. Log entry 109. -/
def execMemoryError (store : Store) (loc addr : Nat) (s : State) : Host.Outcome State Fault Refusal :=
  .next (match store with
    | .lpddr => if loc < 4 then spoilWord s loc (addr / 32) else s
    | .l2 => if loc < 4 then l2Error s loc (addr / 32) else s
    | .l1 => l1Error s loc (addr / 2 ^ 40) (addr % 2 ^ 40 / 32)
    | .scratchpad => s.updCore loc (fun k => { k with bad := if k.bad.contains (addr / 32) then k.bad else k.bad ++ [addr / 32] })
    | .accumulator => s.updCore loc (fun k => { k with accBad := if k.accBad.contains (accWord addr) then k.accBad else k.accBad ++ [accWord addr] }))

/-- ADDR of a corrected error in the log (R352). -/
def corrAddr (s : State) (store : Store) (loc addr : Nat) : Nat :=
  match store with
  | .l1 => l1Addr (s.core loc) (addr % 2 ^ 40 / 32)
  | _ => addr / 32 * 32

/-- ERR_CORRECTED (R385, R386): the data are right, the word is written back as it was, and the error is logged with
the requester that met it: for L1 and accumulators the core's own, elsewhere one that a free value names (R352). -/
def execErrCorrected (store : Store) (loc addr : Nat) (s : State) : Host.Outcome State Fault Refusal :=
  .next (match store with
    | .l1 | .accumulator => s.corrected (dieOf loc) (storeCode store) (corrAddr s store loc addr) (requesterOf s loc).1 (some loc)
    | .scratchpad =>
      let r := requesterOf s (Config.requester s.fresh)
      s.draw.corrected (dieOf loc) (storeCode store) (corrAddr s store loc addr) r.1 r.2
    | .l2 | .lpddr =>
      let r := requesterOf s (Config.requester s.fresh)
      s.draw.corrected loc (storeCode store) (corrAddr s store loc addr) r.1 r.2)

/-- PATROL_SCRUB (R386): a word of LPDDR-6 is read, with no requester; what `bad` finds wrong is corrected; a word
that is uncorrectable there is logged so. One that fails only as it stands dirty in L2 is good here. -/
def execPatrolScrub (die addr : Nat) (bad : Bool) (s : State) : Host.Outcome State Fault Refusal :=
  .next (if (s.die die).bad.contains (addr / 32) && !(s.die die).badL2.contains (addr / 32) then s.logErr die 0x42 false 4 none none (addr / 32 * 32)
    else if bad then s.corrected die 4 (addr / 32 * 32) none none else s)

end Sys2Proof.Machine
end

