-- ==== Sys2Proof/Machine/FmtCtl.lean ====
section
/-!
DEFINITION. Sys2Proof/Machine/FmtCtl.lean: the header control ops (R119, R135, R145): each issues in a header of its
attributes, with the slots that stand behind it.
-/
namespace Sys2Proof.Machine

/-- FMT_A (R135): fa after the shadow of four bundles (R119). -/
def execFmtA (a : Attr) (arg : Nat) (s : State) : Host.Outcome State Fault Refusal :=
  .next (issueCtl slotSem (.fmtA a arg) a s)

/-- FMT_W (R135): fw. -/
def execFmtW (a : Attr) (arg : Nat) (s : State) : Host.Outcome State Fault Refusal :=
  .next (issueCtl slotSem (.fmtW a arg) a s)

/-- FMT_O (R135): fo. -/
def execFmtO (a : Attr) (arg : Nat) (s : State) : Host.Outcome State Fault Refusal :=
  .next (issueCtl slotSem (.fmtO a arg) a s)

/-- FMT_V (R135): fv. -/
def execFmtV (a : Attr) (arg : Nat) (s : State) : Host.Outcome State Fault Refusal :=
  .next (issueCtl slotSem (.fmtV a arg) a s)

/-- FMT_S (R135): the outlier tile and entry count. -/
def execFmtS (a : Attr) (arg : Nat) (s : State) : Host.Outcome State Fault Refusal :=
  .next (issueCtl slotSem (.fmtS a arg) a s)

/-- RM (R135): the rounding mode. -/
def execRm (a : Attr) (arg : Nat) (s : State) : Host.Outcome State Fault Refusal :=
  .next (issueCtl slotSem (.rm a arg) a s)

/-- SEED (R145): one half of the seed; DRAW clears. -/
def execSeed (a : Attr) (arg : Nat) (s : State) : Host.Outcome State Fault Refusal :=
  .next (issueCtl slotSem (.seed a arg) a s)

/-- CBSEL (R135): the codebook table of V-slot instructions. -/
def execCbsel (a : Attr) (arg : Nat) (s : State) : Host.Outcome State Fault Refusal :=
  .next (issueCtl slotSem (.cbsel a arg) a s)

/-- STEPSET (R135): step.c0 or step.c1. -/
def execStepset (a : Attr) (arg : Nat) (s : State) : Host.Outcome State Fault Refusal :=
  .next (issueCtl slotSem (.stepset a arg) a s)

end Sys2Proof.Machine
end

