-- ==== Sys2Proof/Machine/Links.lean ====
section
/-!
DEFINITION. Sys2Proof/Machine/Links.lean: peer links (R320, R402), the host link and function level resets
(R404).
-/
namespace Sys2Proof.Machine

/-! ## Peer links -/

/-- A link goes down: writes that wait on it are lost, and EPL_DOWN is posted once until it has been up.
Log entries 101, 110. -/
def linkDown (s : State) (l : Nat) : State :=
  let first := !(s.linkOf l).downPosted
  let s := s.updLink l (fun x => { x with up := false, training := false, downs := min 65535 (x.downs + 1), run := 0, downPosted := true, tried := max 1 s.now })
  let s := flowPosted { s with posted := s.posted.filter (fun w => w.1 != l + 1) }
  if first then s.postF 0x7A else s

/-- EPL_REPLAY (R320): a flit is sent again; the 16th replay in a row brings the link down. -/
def execEplReplay (link : Nat) (s : State) : Host.Outcome State Fault Refusal :=
  .next (if (s.linkOf link).up = false then s
    else
      let s := s.updLink link (fun x => { x with cnt := x.cnt + 1, run := x.run + 1 })
      if 16 ≤ (s.linkOf link).run then linkDown s link else s)

/-- EPL_RETRAIN (R402): a down link with EN set retrains, every 100 ms; `ok` when it comes back. -/
def execEplRetrain (link : Nat) (ok : Bool) (s : State) : Host.Outcome State Fault Refusal :=
  .next (let x := s.linkOf link
    if x.up || fld x.map 0 1 == 0 || !s.running || !x.mayTrain s.now then s
    else if ok then s.updLink link (fun x => { x with up := true, training := false, run := 0, downPosted := false })
    else s.updLink link (fun x => { x with training := true, tried := max 1 s.now }))

/-- EPL_REPLAY_WINDOW (R402): a 1 s window ends, and the next begins. Log entry 110. -/
def execEplReplayWindow (link : Nat) (s : State) : Host.Outcome State Fault Refusal :=
  .next (let x := s.linkOf link
    if s.now < x.winAt + 1000000000 then s
    else
      let s := s.updLink link (fun y => { y with replays := min x.cnt (2 ^ 32 - 1), cnt := 0, winAt := s.now })
      if 1024 < x.cnt then s.postF 0x7B else s)

/-! ## The host link -/

/-- PCIE_LINK (R404): the link goes down: writes that have not arrived are lost; events posted from then on are dropped
and counted. -/
def execPcieLink (s : State) : Host.Outcome State Fault Refusal :=
  .next (if s.linkUp then (flowPosted { s with linkUp := false, linkWait := [], posted := s.posted.filter (fun w => w.1 != 0) }).postF 0x76 else s)

/-- The host sizes BAR2 of virtual function p to 2^e GiB, 1 GiB to 2 TiB (R314); the exponent is the host's, a free
value (log entry 117). -/
def sizeBar2 (s : State) (p : Nat) : State := s.draw.updPart p (fun x => { x with bar2 := Config.pick s.fresh % 12 })

/-- HOST_LINK_UP (R404): rings have room again, and EVENT_LOST is written where events were dropped (R356). The host
sizes the BAR2 of the functions (R314). -/
def execHostLinkUp (s : State) : Host.Outcome State Fault Refusal :=
  .next (match s.power with
    | .off | .failed => s
    | _ =>
      let s := allParts.foldl sizeBar2 s
      allParts.foldl (fun s p => setEvq s p id) (setPkgEvq { s with linkUp := true } id))

/-! ## Function level resets -/

/-- The registers of a virtual function at reset: set-up and contract stay, and the partition time never falls. -/
def resetPart (x : Part) : Part :=
  { pset := x.pset, pmem := x.pmem, prect := x.prect, partcon := x.partcon, ptime := x.ptime, unmapAt := x.unmapAt, scaledAt := x.scaledAt, resv := x.resv }

/-- An object command of the partition that waits ends with BUSY. -/
def dropCommand (s : State) (p : Nat) : State :=
  { s with quiesce := s.quiesce.filter (fun q => match q.work with
    | .object p' .. => p' != p
    | _ => true) }

/-- FLR of VF p: its tasks fail without completion entries and its registers are reset. Log entry 106. -/
def flr (s : State) (p : Nat) : State :=
  (dropCommand (killAll (dropEntries s p) p) p).updPart p resetPart

/-- VF_FLR (R404). -/
def execVfFlr (p : Nat) (s : State) : Host.Outcome State Fault Refusal :=
  .next (viaPf s (.vfFlr p) (fun s => if p < 8 then flr s p else s))

/-- The set-up of one partition at reset: its rectangles are given up at quiesce points. -/
def resetSetup (s : State) (p : Nat) : State :=
  let s := (List.range 8).foldl (fun s m => setPrect s p m 0) s
  s.updPart p (fun x => { x with pset := 0, pmem := 0, partcon := 7200 })

/-- PF_FLR (R404): an FLR of every VF, and the PF's registers at reset. -/
def execPfFlr (s : State) : Host.Outcome State Fault Refusal :=
  .next (viaPf s .pfFlr (fun s =>
    let s := allParts.foldl (fun s p => resetSetup (flr s p) p) s
    let s := allIslands.foldl (fun s i => s.updIsland i (fun x => { x with vtgt := 50, mode := 0, pfMode := 0, denied := false })) s
    let s := allParts.foldl (fun s l => s.updLink l (fun x => { x with map := 0 })) s
    { s with pkgcon := State.reset.pkgcon, refused := false, evq := {} }))

end Sys2Proof.Machine
end

