-- ==== Sys2Proof/Machine/Spdm.lean ====
section
/-!
DEFINITION. Sys2Proof/Machine/Spdm.lean: the SPDM responder of the management controller (R322, R406; log
entry 11).
-/
namespace Sys2Proof.Machine

/-- The responder answers request `n` with contents `v`, or with ERROR, ErrorCode Unspecified; without power it
answers nothing. What stands in the PF's mailbox was the request (R331). -/
def spdmAnswer (s : State) (n : Nat) (err : Bool) (v : Word) : State :=
  match s.power with
  | .off => s
  | _ => { s.send (.spdm n err (if err then 0 else v)) with spdmSeen := s.spdmSeen + 1, spdmIn := [] }

/-- A request that the identity key answers: refused where step 3 of the boot has not succeeded (R406). -/
def spdmIdentity (s : State) (n : Nat) : State :=
  spdmAnswer s n (s.nor.idOk = false ∨ s.power = .failed) (Config.spdm n s.spdmSeen)

/-- SPDM_GET_VERSION (R322): SPDM 1.3. -/
def execSpdmGetVersion (s : State) : Host.Outcome State Fault Refusal := .next (spdmAnswer s 1 false 0x13)
/-- SPDM_GET_CAPABILITIES (R322). -/
def execSpdmGetCapabilities (s : State) : Host.Outcome State Fault Refusal := .next (spdmAnswer s 2 false (Config.spdm 2 s.spdmSeen))
/-- SPDM_NEGOTIATE_ALGORITHMS (R322): ECDSA P-256 and SHA-256 only. -/
def execSpdmNegotiateAlgorithms (ecdsaP256 sha256 : Bool) (s : State) : Host.Outcome State Fault Refusal :=
  .next (spdmAnswer s 3 (!(ecdsaP256 && sha256)) (Config.spdm 3 s.spdmSeen))
/-- SPDM_GET_DIGESTS (R406). -/
def execSpdmGetDigests (s : State) : Host.Outcome State Fault Refusal := .next (spdmIdentity s 4)
/-- SPDM_GET_CERTIFICATE (R406). -/
def execSpdmGetCertificate (s : State) : Host.Outcome State Fault Refusal := .next (spdmIdentity s 5)
/-- SPDM_CHALLENGE (R406). -/
def execSpdmChallenge (s : State) : Host.Outcome State Fault Refusal := .next (spdmIdentity s 6)
/-- SPDM_GET_MEASUREMENTS (R322, R406): with the hashes of firmware and configuration image of the slot that has booted. -/
def execSpdmGetMeasurements (s : State) : Host.Outcome State Fault Refusal :=
  .next (let t := spdmIdentity s 7
    if s.power = .off ∨ s.power = .failed ∨ s.nor.idOk = false then t else t.send (.hashes s.nor.booted.fwHash s.nor.booted.cfgHash))

end Sys2Proof.Machine
end

