-- ==== Sys2Proof/Machine/Dispatch.lean ====
section
/-!
DEFINITION. Sys2Proof/Machine/Dispatch.lean: one arm for each constructor of Instr: the meaning of each step.
-/
namespace Sys2Proof.Machine

/-- The meaning of an instruction or event at a state. -/
def exec (i : Instr) (s : State) : Host.Outcome State Fault Refusal :=
  match i with
  | .bundleIssue core => Sys2Proof.Machine.execBundleIssue core s
  | .formatWriteEffect core slot => Sys2Proof.Machine.execFormatWriteEffect core slot s
  | .trapEntry core slot => Sys2Proof.Machine.execTrapEntry core slot s
  | .yieldRequest team => Sys2Proof.Machine.execYieldRequest team s
  | .scalarAccessResponse core slot id => Sys2Proof.Machine.execScalarAccessResponse core slot id s
  | .engineOpComplete core id rows => Sys2Proof.Machine.execEngineOpComplete core id rows s
  | .copyLastRowRead core id => Sys2Proof.Machine.execCopyLastRowRead core id s
  | .copyComplete core id rows => Sys2Proof.Machine.execCopyComplete core id rows s
  | .copyRowFault core id => Sys2Proof.Machine.execCopyRowFault core id s
  | .droopWindowEnd core slot => Sys2Proof.Machine.execDroopWindowEnd core slot s
  | .suspectDroop island => Sys2Proof.Machine.execSuspectDroop island s
  | .silentError core slot => Sys2Proof.Machine.execSilentError core slot s
  | .droopStretch island => Sys2Proof.Machine.execDroopStretch island s
  | .nextLanding core slot => Sys2Proof.Machine.execNextLanding core slot s
  | .hostWrite p off data => Sys2Proof.Machine.execHostWrite p off data s
  | .hostRead bar off n => Sys2Proof.Machine.execHostRead bar off n s
  | .peerLinkArrival link p off wr data => Sys2Proof.Machine.execPeerLinkArrival link p off wr data s
  | .ingressTimeout die => Sys2Proof.Machine.execIngressTimeout die s
  | .ingressOverflow die => Sys2Proof.Machine.execIngressOverflow die s
  | .islandWake island => Sys2Proof.Machine.execIslandWake island s
  | .pageRequestSettle p flashOk => Sys2Proof.Machine.execPageRequestSettle p flashOk s
  | .homeRequest core slot die pa wr ty => Sys2Proof.Machine.execHomeRequest core slot die pa wr ty s
  | .ownRecall core die pa => Sys2Proof.Machine.execOwnRecall core die pa s
  | .writeBackGrant core => Sys2Proof.Machine.execWriteBackGrant core s
  | .memoryError store loc addr => Sys2Proof.Machine.execMemoryError store loc addr s
  | .errCorrected store loc addr => Sys2Proof.Machine.execErrCorrected store loc addr s
  | .patrolScrub die addr bad => Sys2Proof.Machine.execPatrolScrub die addr bad s
  | .pcieCompletion core slot id ok data => Sys2Proof.Machine.execPcieCompletion core slot id ok data s
  | .pcieDmaTimeout core slot id => Sys2Proof.Machine.execPcieDmaTimeout core slot id s
  | .voltageStepReached island => Sys2Proof.Machine.execVoltageStepReached island s
  | .meterCorrection island coeff => Sys2Proof.Machine.execMeterCorrection island coeff s
  | .testStrips island fails => Sys2Proof.Machine.execTestStrips island fails s
  | .vfFlr p => Sys2Proof.Machine.execVfFlr p s
  | .eplReplay link => Sys2Proof.Machine.execEplReplay link s
  | .eplRetrain link ok => Sys2Proof.Machine.execEplRetrain link ok s
  | .eplReplayWindow link => Sys2Proof.Machine.execEplReplayWindow link s
  | .spdmNegotiateAlgorithms ecdsaP256 sha256 => Sys2Proof.Machine.execSpdmNegotiateAlgorithms ecdsaP256 sha256 s
  | .sqcfgWrite p q v => Sys2Proof.Machine.execSqcfgWrite p q v s
  | .cqheadWrite p q v => Sys2Proof.Machine.execCqheadWrite p q v s
  | .pkgconWrite v => Sys2Proof.Machine.execPkgconWrite v s
  | .aperWrite p n v => Sys2Proof.Machine.execAperWrite p n v s
  | .savecapWrite p half v => Sys2Proof.Machine.execSavecapWrite p half v s
  | .psetWrite p v => Sys2Proof.Machine.execPsetWrite p v s
  | .prectWrite p m v => Sys2Proof.Machine.execPrectWrite p m v s
  | .isldvWrite fn island v => Sys2Proof.Machine.execIsldvWrite fn island v s
  | .taskkill p v => Sys2Proof.Machine.execTaskkill p v s
  | .install p hdr => Sys2Proof.Machine.execInstall p hdr s
  | .objrdixWrite p v => Sys2Proof.Machine.execObjrdixWrite p v s
  | .pgrqcfgWrite p v => Sys2Proof.Machine.execPgrqcfgWrite p v s
  | .errlogEntryFree fn die e => Sys2Proof.Machine.execErrlogEntryFree fn die e s
  | .registerWrite fn off wide v => Sys2Proof.Machine.execRegisterWrite fn off wide v s
  | .add h o => Sys2Proof.Machine.execAdd h o s
  | .addi h o => Sys2Proof.Machine.execAddi h o s
  | .sub h o => Sys2Proof.Machine.execSub h o s
  | .mul h o => Sys2Proof.Machine.execMul h o s
  | .muli h o => Sys2Proof.Machine.execMuli h o s
  | .mulh h o => Sys2Proof.Machine.execMulh h o s
  | .mulhz h o => Sys2Proof.Machine.execMulhz h o s
  | .div h o => Sys2Proof.Machine.execDiv h o s
  | .divz h o => Sys2Proof.Machine.execDivz h o s
  | .rem h o => Sys2Proof.Machine.execRem h o s
  | .remz h o => Sys2Proof.Machine.execRemz h o s
  | .and h o => Sys2Proof.Machine.execAnd h o s
  | .andi h o => Sys2Proof.Machine.execAndi h o s
  | .or h o => Sys2Proof.Machine.execOr h o s
  | .ori h o => Sys2Proof.Machine.execOri h o s
  | .xor h o => Sys2Proof.Machine.execXor h o s
  | .xori h o => Sys2Proof.Machine.execXori h o s
  | .shl h o => Sys2Proof.Machine.execShl h o s
  | .shli h o => Sys2Proof.Machine.execShli h o s
  | .shr h o => Sys2Proof.Machine.execShr h o s
  | .shri h o => Sys2Proof.Machine.execShri h o s
  | .sra h o => Sys2Proof.Machine.execSra h o s
  | .srai h o => Sys2Proof.Machine.execSrai h o s
  | .rotl h o => Sys2Proof.Machine.execRotl h o s
  | .rotr h o => Sys2Proof.Machine.execRotr h o s
  | .clz h o => Sys2Proof.Machine.execClz h o s
  | .ctz h o => Sys2Proof.Machine.execCtz h o s
  | .popc h o => Sys2Proof.Machine.execPopc h o s
  | .min h o => Sys2Proof.Machine.execMin h o s
  | .max h o => Sys2Proof.Machine.execMax h o s
  | .minz h o => Sys2Proof.Machine.execMinz h o s
  | .maxz h o => Sys2Proof.Machine.execMaxz h o s
  | .sext h o => Sys2Proof.Machine.execSext h o s
  | .zext h o => Sys2Proof.Machine.execZext h o s
  | .mov h o => Sys2Proof.Machine.execMov h o s
  | .movi h o => Sys2Proof.Machine.execMovi h o s
  | .movhi h o => Sys2Proof.Machine.execMovhi h o s
  | .sel h o => Sys2Proof.Machine.execSel h o s
  | .cmp h o => Sys2Proof.Machine.execCmp h o s
  | .cmpi h o => Sys2Proof.Machine.execCmpi h o s
  | .pand h o => Sys2Proof.Machine.execPand h o s
  | .por h o => Sys2Proof.Machine.execPor h o s
  | .pxor h o => Sys2Proof.Machine.execPxor h o s
  | .pnot h o => Sys2Proof.Machine.execPnot h o s
  | .pmov h o => Sys2Proof.Machine.execPmov h o s
  | .br h o => Sys2Proof.Machine.execBr h o s
  | .bp h o => Sys2Proof.Machine.execBp h o s
  | .jmp h o => Sys2Proof.Machine.execJmp h o s
  | .call h o => Sys2Proof.Machine.execCall h o s
  | .ret h o => Sys2Proof.Machine.execRet h o s
  | .loop h o => Sys2Proof.Machine.execLoop h o s
  | .loopi h o => Sys2Proof.Machine.execLoopi h o s
  | .nop h o => Sys2Proof.Machine.execNop h o s
  | .lea h o => Sys2Proof.Machine.execLea h o s
  | .caprs h o => Sys2Proof.Machine.execCaprs h o s
  | .caprt h o => Sys2Proof.Machine.execCaprt h o s
  | .capq h o => Sys2Proof.Machine.execCapq h o s
  | .capmv h o => Sys2Proof.Machine.execCapmv h o s
  | .ld h o => Sys2Proof.Machine.execLd h o s
  | .st h o => Sys2Proof.Machine.execSt h o s
  | .pf h o => Sys2Proof.Machine.execPf h o s
  | .cclean h o => Sys2Proof.Machine.execCclean h o s
  | .cinval h o => Sys2Proof.Machine.execCinval h o s
  | .cflush h o => Sys2Proof.Machine.execCflush h o s
  | .amoAdd h o => Sys2Proof.Machine.execAmoAdd h o s
  | .amoFadd h o => Sys2Proof.Machine.execAmoFadd h o s
  | .amoMin h o => Sys2Proof.Machine.execAmoMin h o s
  | .amoMax h o => Sys2Proof.Machine.execAmoMax h o s
  | .amoMinz h o => Sys2Proof.Machine.execAmoMinz h o s
  | .amoMaxz h o => Sys2Proof.Machine.execAmoMaxz h o s
  | .amoAnd h o => Sys2Proof.Machine.execAmoAnd h o s
  | .amoOr h o => Sys2Proof.Machine.execAmoOr h o s
  | .amoXor h o => Sys2Proof.Machine.execAmoXor h o s
  | .amoSwap h o => Sys2Proof.Machine.execAmoSwap h o s
  | .amoCas h o => Sys2Proof.Machine.execAmoCas h o s
  | .mfsr h o => Sys2Proof.Machine.execMfsr h o s
  | .mtsr h o => Sys2Proof.Machine.execMtsr h o s
  | .trap h o => Sys2Proof.Machine.execTrap h o s
  | .eret h o => Sys2Proof.Machine.execEret h o s
  | .ctxout h o => Sys2Proof.Machine.execCtxout h o s
  | .endc h o => Sys2Proof.Machine.execEndc h o s
  | .rdtime h o => Sys2Proof.Machine.execRdtime h o s
  | .rdcyc h o => Sys2Proof.Machine.execRdcyc h o s
  | .barInit h o => Sys2Proof.Machine.execBarInit h o s
  | .barArrive h o => Sys2Proof.Machine.execBarArrive h o s
  | .barWait h o => Sys2Proof.Machine.execBarWait h o s
  | .barAw h o => Sys2Proof.Machine.execBarAw h o s
  | .barQuery h o => Sys2Proof.Machine.execBarQuery h o s
  | .next h o => Sys2Proof.Machine.execNext h o s
  | .enqt h o => Sys2Proof.Machine.execEnqt h o s
  | .enqm h o => Sys2Proof.Machine.execEnqm h o s
  | .deqm h o => Sys2Proof.Machine.execDeqm h o s
  | .cpjoin h o => Sys2Proof.Machine.execCpjoin h o s
  | .widen h o => Sys2Proof.Machine.execWiden h o s
  | .bq h o => Sys2Proof.Machine.execBq h o s
  | .jread h o => Sys2Proof.Machine.execJread h o s
  | .wq h o => Sys2Proof.Machine.execWq h o s
  | .fmtA a arg => Sys2Proof.Machine.execFmtA a arg s
  | .fmtW a arg => Sys2Proof.Machine.execFmtW a arg s
  | .fmtO a arg => Sys2Proof.Machine.execFmtO a arg s
  | .fmtV a arg => Sys2Proof.Machine.execFmtV a arg s
  | .fmtS a arg => Sys2Proof.Machine.execFmtS a arg s
  | .rm a arg => Sys2Proof.Machine.execRm a arg s
  | .seed a arg => Sys2Proof.Machine.execSeed a arg s
  | .cbsel a arg => Sys2Proof.Machine.execCbsel a arg s
  | .stepset a arg => Sys2Proof.Machine.execStepset a arg s
  | .tdef h o => Sys2Proof.Machine.execTdef h o s
  | .tshape h o => Sys2Proof.Machine.execTshape h o s
  | .tview h o => Sys2Proof.Machine.execTview h o s
  | .tstate h o => Sys2Proof.Machine.execTstate h o s
  | .tstep h o => Sys2Proof.Machine.execTstep h o s
  | .tclr h o => Sys2Proof.Machine.execTclr h o s
  | .vadd h cf o => Sys2Proof.Machine.execVadd h cf o s
  | .vsub h cf o => Sys2Proof.Machine.execVsub h cf o s
  | .vmul h cf o => Sys2Proof.Machine.execVmul h cf o s
  | .vfma h cf o => Sys2Proof.Machine.execVfma h cf o s
  | .vfms h cf o => Sys2Proof.Machine.execVfms h cf o s
  | .vfnma h cf o => Sys2Proof.Machine.execVfnma h cf o s
  | .vmin h cf o => Sys2Proof.Machine.execVmin h cf o s
  | .vmax h cf o => Sys2Proof.Machine.execVmax h cf o s
  | .vabs h cf o => Sys2Proof.Machine.execVabs h cf o s
  | .vneg h cf o => Sys2Proof.Machine.execVneg h cf o s
  | .vclamp h cf o => Sys2Proof.Machine.execVclamp h cf o s
  | .vsel h cf o => Sys2Proof.Machine.execVsel h cf o s
  | .vcmp h cf o => Sys2Proof.Machine.execVcmp h cf o s
  | .vand h cf o => Sys2Proof.Machine.execVand h cf o s
  | .vor h cf o => Sys2Proof.Machine.execVor h cf o s
  | .vxor h cf o => Sys2Proof.Machine.execVxor h cf o s
  | .vnot h cf o => Sys2Proof.Machine.execVnot h cf o s
  | .vshl h cf o => Sys2Proof.Machine.execVshl h cf o s
  | .vshr h cf o => Sys2Proof.Machine.execVshr h cf o s
  | .vsra h cf o => Sys2Proof.Machine.execVsra h cf o s
  | .vmov h o => Sys2Proof.Machine.execVmov h o s
  | .vbcast h o => Sys2Proof.Machine.execVbcast h o s
  | .viota h cf o => Sys2Proof.Machine.execViota h cf o s
  | .vcvt h o => Sys2Proof.Machine.execVcvt h o s
  | .vrcp h cf o => Sys2Proof.Machine.execVrcp h cf o s
  | .vrsq h cf o => Sys2Proof.Machine.execVrsq h cf o s
  | .vrcpf h cf o => Sys2Proof.Machine.execVrcpf h cf o s
  | .vrsqf h cf o => Sys2Proof.Machine.execVrsqf h cf o s
  | .vexp2 h cf o => Sys2Proof.Machine.execVexp2 h cf o s
  | .vlog2 h cf o => Sys2Proof.Machine.execVlog2 h cf o s
  | .vtanh h cf o => Sys2Proof.Machine.execVtanh h cf o s
  | .vlgst h cf o => Sys2Proof.Machine.execVlgst h cf o s
  | .vsqrt h cf o => Sys2Proof.Machine.execVsqrt h cf o s
  | .vrsum h cf o => Sys2Proof.Machine.execVrsum h cf o s
  | .vcsum h cf o => Sys2Proof.Machine.execVcsum h cf o s
  | .vrmax h cf o => Sys2Proof.Machine.execVrmax h cf o s
  | .vcmax h cf o => Sys2Proof.Machine.execVcmax h cf o s
  | .vrmin h cf o => Sys2Proof.Machine.execVrmin h cf o s
  | .vcmin h cf o => Sys2Proof.Machine.execVcmin h cf o s
  | .vrarg h cf o => Sys2Proof.Machine.execVrarg h cf o s
  | .vscan h cf o => Sys2Proof.Machine.execVscan h cf o s
  | .vcscan h cf o => Sys2Proof.Machine.execVcscan h cf o s
  | .vtrans h o => Sys2Proof.Machine.execVtrans h o s
  | .vperm h o => Sys2Proof.Machine.execVperm h o s
  | .vgath h o => Sys2Proof.Machine.execVgath h o s
  | .vscat h o => Sys2Proof.Machine.execVscat h o s
  | .vpack h o => Sys2Proof.Machine.execVpack h o s
  | .vunpk h o => Sys2Proof.Machine.execVunpk h o s
  | .vtopk h cf o => Sys2Proof.Machine.execVtopk h cf o s
  | .vquant h o => Sys2Proof.Machine.execVquant h o s
  | .vdeq h o => Sys2Proof.Machine.execVdeq h o s
  | .vscal h cf o => Sys2Proof.Machine.execVscal h cf o s
  | .vstat h o => Sys2Proof.Machine.execVstat h o s
  | .mloadw h o => Sys2Proof.Machine.execMloadw h o s
  | .mloadwt h o => Sys2Proof.Machine.execMloadwt h o s
  | .mswap h o => Sys2Proof.Machine.execMswap h o s
  | .mma h o => Sys2Proof.Machine.execMma h o s
  | .mzero h o => Sys2Proof.Machine.execMzero h o s
  | .mdrain h o => Sys2Proof.Machine.execMdrain h o s
  | .mcbl h o => Sys2Proof.Machine.execMcbl h o s
  | .moutl h o => Sys2Proof.Machine.execMoutl h o s
  | .mscl h o => Sys2Proof.Machine.execMscl h o s
  | .mstat h o => Sys2Proof.Machine.execMstat h o s
  | .vcbl h o => Sys2Proof.Machine.execVcbl h o s
  | .cpLd h o => Sys2Proof.Machine.execCpLd h o s
  | .cpSt h o => Sys2Proof.Machine.execCpSt h o s
  | .cpSs h o => Sys2Proof.Machine.execCpSs h o s
  | .cpMm h o => Sys2Proof.Machine.execCpMm h o s
  | .cpGath h o => Sys2Proof.Machine.execCpGath h o s
  | .cpScat h o => Sys2Proof.Machine.execCpScat h o s
  | .cpBc h o => Sys2Proof.Machine.execCpBc h o s
  | .cpAcc h o => Sys2Proof.Machine.execCpAcc h o s
  | .cpFill h o => Sys2Proof.Machine.execCpFill h o s
  | .cpPf h o => Sys2Proof.Machine.execCpPf h o s
  | .cpCancel h o => Sys2Proof.Machine.execCpCancel h o s
  | .cpRes h o => Sys2Proof.Machine.execCpRes h o s
  | .cpPat h o => Sys2Proof.Machine.execCpPat h o s
  | .engineOpStop core id => Sys2Proof.Machine.execEngineOpStop core id s
  | .cacheFlushComplete core slot id => Sys2Proof.Machine.execCacheFlushComplete core slot id s
  | .droopRecovery island => Sys2Proof.Machine.execDroopRecovery island s
  | .calibrationOverdue island => Sys2Proof.Machine.execCalibrationOverdue island s
  | .rangeClaim => Sys2Proof.Machine.execRangeClaim s
  | .barrierArrival => Sys2Proof.Machine.execBarrierArrival s
  | .barrierReleaseMessage => Sys2Proof.Machine.execBarrierReleaseMessage s
  | .messageDelivery => Sys2Proof.Machine.execMessageDelivery s
  | .acceptanceEntryWrite => Sys2Proof.Machine.execAcceptanceEntryWrite s
  | .completionEntryWrite => Sys2Proof.Machine.execCompletionEntryWrite s
  | .dispatcherPass => Sys2Proof.Machine.execDispatcherPass s
  | .teamLoaded => Sys2Proof.Machine.execTeamLoaded s
  | .teamComplete => Sys2Proof.Machine.execTeamComplete s
  | .fallbackPressure => Sys2Proof.Machine.execFallbackPressure s
  | .quiescePoint => Sys2Proof.Machine.execQuiescePoint s
  | .quiesceLimitExpiry => Sys2Proof.Machine.execQuiesceLimitExpiry s
  | .governorIntervalClose => Sys2Proof.Machine.execGovernorIntervalClose s
  | .lifetimeRecordWrite => Sys2Proof.Machine.execLifetimeRecordWrite s
  | .thermalTripTimeout => Sys2Proof.Machine.execThermalTripTimeout s
  | .powerOn => Sys2Proof.Machine.execPowerOn s
  | .powerLoss => Sys2Proof.Machine.execPowerLoss s
  | .perstAssert => Sys2Proof.Machine.execPerstAssert s
  | .perstDeassert => Sys2Proof.Machine.execPerstDeassert s
  | .sidebandWake => Sys2Proof.Machine.execSidebandWake s
  | .pfFlr => Sys2Proof.Machine.execPfFlr s
  | .pcieLink => Sys2Proof.Machine.execPcieLink s
  | .spdmGetVersion => Sys2Proof.Machine.execSpdmGetVersion s
  | .spdmGetCapabilities => Sys2Proof.Machine.execSpdmGetCapabilities s
  | .spdmGetDigests => Sys2Proof.Machine.execSpdmGetDigests s
  | .spdmGetCertificate => Sys2Proof.Machine.execSpdmGetCertificate s
  | .spdmChallenge => Sys2Proof.Machine.execSpdmChallenge s
  | .spdmGetMeasurements => Sys2Proof.Machine.execSpdmGetMeasurements s
  | .pwrctlRetain => Sys2Proof.Machine.execPwrctlRetain s
  | .pwrctlWake => Sys2Proof.Machine.execPwrctlWake s
  | .removeObj => Sys2Proof.Machine.execRemoveObj s
  | .mapPage => Sys2Proof.Machine.execMapPage s
  | .unmapPage => Sys2Proof.Machine.execUnmapPage s
  | .enqtResult => Sys2Proof.Machine.execEnqtResult s
  | .orderlyPowerOff => Sys2Proof.Machine.execOrderlyPowerOff s
  | .hostLinkUp => Sys2Proof.Machine.execHostLinkUp s
  | .notificationQueueRead => Sys2Proof.Machine.execNotificationQueueRead s
  | .barrierInitAnswer => Sys2Proof.Machine.execBarrierInitAnswer s

end Sys2Proof.Machine
end

