-- ==== Sys2Proof/Machine/Step.lean ====
section
/-!
DEFINITION. Sys2Proof/Machine/Step.lean: one step of the machine, and the placing of an instruction where the
next step runs it.
-/
namespace Sys2Proof.Machine

/-- One step: what comes next (log entry 2), at its meaning. After a boot that failed nothing runs until
power is cycled (R405). -/
def step (s : State) : Host.Outcome State Fault Refusal :=
  if s.power = .failed ∧ s.agenda = [] then .fault .bootFailed
  else exec (takeStep s).2 (takeStep s).1

/-- `s` with one instruction word placed where the next step issues it (log entry 1). -/
def State.withFetchWord (s : State) (nbits w : Nat) : State := placeWord s (w % 2 ^ max 80 nbits)

end Sys2Proof.Machine
end

