-- ==== Sys2Proof/Safety.lean ====
section
/-!
DEFINITION. Sys2Proof/Safety.lean: what every state of a run keeps (the form of memory), and the terms in which
statements about single instructions are made: the context in hand, when nothing keeps a lone instruction from
issuing, and the state that its issue leaves.
-/
namespace Sys2Proof.Machine

/-- Every byte store is in its canonical form: LPDDR-6 and each core's scratchpad. -/
def memoryForm (s : State) : Bool := Memory.wf s.mem && s.cores.all (fun e => Memory.wf e.2.sram)

/-! ## The context in hand -/

/-- The context whose bundle is issuing, and an update of it. -/
def hand (s : State) : Ctx := s.ctx s.cur.1 s.cur.2
def setHand (s : State) (c : Ctx) : State := s.setCtx s.cur.1 s.cur.2 c

/-- The context at the boundary before its next bundle: what is due has landed (R109, R112, R119, R262), and in
user mode a region is open (R307). -/
def atBoundary (c : Ctx) : Ctx :=
  if c.boundary.sup || c.boundary.fixOpen then c.boundary else c.boundary.openRegion

/-- The tags that a slot waits on (R105). -/
def waited (h : Head) : List Nat := [h.w0, h.w1].filter (· != 0)

/-- What the waits and the producer distance of a slot make land (R110, R111). -/
def landed (h : Head) (c : Ctx) : Ctx :=
  if h.pd = 0 then landTags c (waited h)
  else (landTags c (waited h)).landAll (fun r => r.fixed && decide (r.seq + h.pd ≤ (landTags c (waited h)).iss))

/-- The context in hand as a slot with head `h` finds it when its bundle issues. -/
def found (h : Head) (s : State) : Ctx := landed h (atBoundary (hand s))

/-- The state in which a core takes up the bundle of its current context: the context is in hand, charged the energy of
its activity so far (R296), and the bundle's words are fetched (R23). -/
def fetched (s : State) (core : Nat) : State :=
  let slot := (s.core core).cur
  fetchCode (chargeCtx { s with cur := (core, slot) } core slot) core slot

/-- The word address of the bundle about to issue. -/
def pcOf (s : State) : Nat := (atBoundary (hand s)).pcNow

/-- The tag that a slot allocates has room for one more instance (R111, R256). -/
def tagRoom (h : Head) (s : State) : Bool := h.atag == 0 || decide ((found h s).tagCount h.atag < 255)

/-- The context in hand may issue a bundle whose one slot has head `h`, and the slot's predicate holds: it is
Ready or in supervisor mode and waits for nothing (R41), no trap is due (R346), no claim must land first (R262),
no restart mark is due (R307), the tags waited on have no instance outstanding, and the tag named has room (R111). -/
def free (h : Head) (s : State) : Bool :=
  let b := atBoundary (hand s)
  canIssue (hand s) && !trapDue (hand s) && !((hand s).sup && (hand s).faults.any (·.sup)) &&
    (b.sup || (!b.a.claimLate && !b.markDue)) &&
    (waited h).all (fun t => (landTags b (waited h)).tagCount t == 0) &&
    ((found h s).getP h.pidx != (h.pneg == 1)) && tagRoom h s

/-! ## What a lone issue leaves -/

/-- The state in which a lone slot is checked: the context in hand as its head finds it. -/
def judged (h : Head) (s : State) : State := setHand s (found h s)

/-- Where a lone slot instruction stands at its issue. -/
def here (i : Instr) (s : State) : At :=
  { core := s.cur.1, slot := s.cur.2, sl := (headOf i).slot.num, ins := i, word := encode i, waddr := pcOf s + 1, k := 0, rep := 0, on := true, seq := (found (headOf i) s).iss, tag := (headOf i).atag, hdr := pcOf s, nxt := pcOf s + 2 }

/-- The lone slot `i` passes every check of R359 and R360, no interlock, limit or hold of its own keeps it back
(R108, R192, R232), it needs no restart mark first (R267), a gated command of an open region finds room among the
32 (R251), and its tag has room (R111). -/
def passes (i : Instr) (s : State) : Bool :=
  let m := slotSem i
  let p := here i s
  let t := judged (headOf i) s
  (m.chk p t).isNone && (m.post p t).isNone && !m.mark p t &&
    !otherHolds t s.cur.1 [(p, m)] && (interlock t s.cur.1 s.cur.2 [(p, m)]).1 == .go &&
    ((found (headOf i) s).sup || !(m.gates p t || (m.lat == .engine && isGated i)) || decide (gatedOpen t s.cur.1 s.cur.2 + 1 ≤ 32))

/-- One own issue passes for the context, which observes the threads whose tags it waits on or whose `tiles` it names;
a producer or an engine operation takes its tag, and every slot but S remembers its operation (R43, R81, R111, R114). -/
def passed (h : Head) (i : Instr) (alloc : Bool) (tiles : List Nat) (c : Ctx) : Ctx :=
  let c := (observe ([h.w0, h.w1].filter (· != 0)) tiles c).tick
  let c := if alloc then c.allocTag h.atag else c
  if h.slot = .S then c else c.setRem (c.remNow.set h.slot.num { present := true, word := encode i, k := 0 } {})

/-- The context in which the slot of a lone instruction takes effect. -/
def atIssue (i : Instr) (alloc : Bool) (s : State) : Ctx :=
  passed (headOf i) i alloc (tilesNamed [(here i s, slotSem i)] (judged (headOf i) s)) (found (headOf i) s)

/-- The state in which it does. -/
def issuing (i : Instr) (alloc : Bool) (s : State) : State := setHand s (atIssue i alloc s)

/-- Where issue goes on: at `goes`, else by the end check of the loop levels, else behind the bundle at word
`hdr` (R117, R161). -/
def movedOn (hdr : Nat) (goes : Option Nat) (c : Ctx) : Ctx :=
  match goes with
  | some t => (c.setReps 0).setPc t
  | none =>
    ((c.setReps 0).setLv (endCheck c.lvNow hdr 4).1).setPc ((endCheck c.lvNow hdr 4).2.getD (hdr + 2))

/-- The core counts the bundle, a due mark is made, and a token that a yield had saved has been judged (R42, R273,
R307). -/
def counted (core slot : Nat) (s : State) : State :=
  (s.updCore core (fun k => { k with issues := k.issues + 1, cur := slot })).updCtx core slot
    (fun c => settleMark { c with last := (s.core core).issues + 1, a := if c.sup then c.a else { c.a with aw := none } })

/-- The state after the lone issue of `i` that takes effect as `eff`, goes on at `goes` and ends as `fin`. -/
def issued (i : Instr) (alloc : Bool) (s : State) (eff : State → State) (goes : Option Nat) (fin : State → State) : State :=
  let t := eff (issuing i alloc s)
  counted s.cur.1 s.cur.2 (fin (t.updCtx s.cur.1 s.cur.2 (movedOn (pcOf s) goes)))

/-- A result of the issue in hand on its way to its register: the value `v` for `d`, written at the boundary of
own issue `iss + l` at the latest (R109, R112). -/
def result (i : Instr) (s : State) (l : Nat) (fixed : Bool) (d : Dst) (v : BitVec 512) : Pend :=
  { dst := d, val := v, due := (found (headOf i) s).iss + l, seq := (found (headOf i) s).iss, tag := (headOf i).atag, fixed := fixed }

/-- The state after the lone issue of a producer whose one effect is that result. -/
def produced (i : Instr) (s : State) (l : Nat) (fixed : Bool) (d : Dst) (v : BitVec 512) : State :=
  issued i true s (fun t => t.updCtx s.cur.1 s.cur.2 (fun c => c.push (result i s l fixed d v))) none id

/-- The same for a fixed-latency producer of s[a], with the value `v` (R109, R156). -/
def writesS (i : Instr) (s : State) (l a : Nat) (v : Word) : State :=
  produced i s l true ((found (headOf i) s).dstS a) (v.setWidth 512)

/-- The same for a predicate instruction: p[a mod 8], L = 1 (R160). -/
def writesP (i : Instr) (s : State) (a : Nat) (v : Bool) : State :=
  produced i s 1 true (.p (a % 8)) (if v then 1 else 0)

/-- The same for a capability instruction: k[a mod 16], L = 1 (R164). -/
def writesK (i : Instr) (s : State) (a : Nat) (v : BitVec 128) : State :=
  produced i s 1 true ((found (headOf i) s).dstK (a % 16)) (v.setWidth 512)

/-- The same for a tagged producer of s[a] with minimum latency `m` (R112). -/
def answersS (i : Instr) (s : State) (m a : Nat) (v : Word) : State :=
  produced i s m false ((found (headOf i) s).dstS a) (v.setWidth 512)

/-! ## Atomics -/

/-- Of memory and scratchpad, `t` keeps every byte of `u` but the `n` bytes at a place. -/
def KeepsOtherBytes (u t : State) (pl : Place) (n : Nat) : Prop :=
  (∀ d, (match pl with
    | .dev d' pa => d < devKey d' pa ∨ devKey d' pa + n ≤ d
    | _ => True) → Tab.get t.mem d 0 = Tab.get u.mem d 0) ∧
  ∀ core b, (match pl with
    | .sram core' b' => core ≠ core' ∨ b < b' ∨ b' + n ≤ b
    | _ => True) → Tab.get (t.core core).sram b 0 = Tab.get (u.core core).sram b 0

/-- The atomic `i` with operands `o`, through a capability that makes no commutative update (R83, R172) and passes
its checks, on bytes of scratchpad or device memory: the new memory value is `f` of the old one, of v and of s[A]'s
low bits, every other byte stays, and s[A] gets the old value (R171). A place in host memory or of a KIND 1 object is
answered with AMO_PLACE, and no byte changes. -/
def AtomicDoes (i : Instr) (o : SM) (s : State) (zext : Bool) (f : Nat → Nat → Nat → Nat) : Prop :=
  let c := found (headOf i) s
  let x := memOffset c o.x o.off
  let k := c.getK o.k
  let n := 2 ^ o.w
  ∀ (pl : Place) (u : State), x.toNat % n = 0 → capCheck c k (capHas k rAT) x n = none →
    accessHold o true (here i s) (judged (headOf i) s) = false →
    (capHas k rCM = false ∨ isSpad (capOid k) = true ∨ ∀ ob, s.objOf c.part (capOid k) = some ob → ob.cr = false) →
    place (issuing i true s) s.cur.1 s.cur.2 (capOid k) x.toNat n = .ok pl →
    ((∀ a peer, pl ≠ .host a peer) → badAt (issuing i true s) s.cur.1 pl n = none →
      u = touchAt (issuing i true s) s.cur.1 s.cur.2 (capOid k) x.toNat pl n true o.ty 0 →
      ∃ t a, exec i s = .next t ∧ (hand t).accs = c.accs ++ [a] ∧
        t.getAt pl n = f (u.getAt pl n) ((c.getS o.v).toNat % 2 ^ (8 * n)) ((c.getS o.a).toNat % 2 ^ (8 * n)) % 2 ^ (8 * n) ∧
        KeepsOtherBytes u t pl n ∧
        a.dst = c.dstS o.a ∧ a.fault = none ∧ a.minLat = 16 ∧ a.tag = (headOf i).atag ∧
        a.val.setWidth 64 = (if n = 4 ∧ zext = false then (BitVec.ofNat 32 (u.getAt pl n)).signExtend 64 else .ofNat 64 (u.getAt pl n))) ∧
    (∀ a peer, pl = .host a peer → (∀ b ∈ c.accs, b.id ≠ (s.core s.cur.1).nextId) →
      ∃ t b, exec i s = .next t ∧ (hand t).accs = c.accs ++ [b] ∧ b.fault = some 0x41 ∧ b.off = x ∧ b.tag = (headOf i).atag ∧ t.mem = s.mem)

/-- The atomic `i` with operands `o` through a capability with CM, on an element of a commutative range whose format it
matches, acts on its core's partial of that element (R83, R172): the partial, at the identity of the operation where the
core has none, takes v by the operation; s[A] gets 0; no byte and no other partial changes. It needs room in the buffer
and in its home's table of blocks, and a partial of the word that passes its check. Its turn in the global order may
end the residency of an own copy elsewhere. -/
def CommutativeDoes (i : Instr) (o : SM) (s : State) (cop : Nat) (fmt : Nat → Nat) : Prop :=
  let c := found (headOf i) s
  let x := memOffset c o.x o.off
  let k := c.getK o.k
  let n := 2 ^ o.w
  ∀ (ob : Obj) (d pa : Nat), x.toNat % n = 0 → capCheck c k (capHas k rAT) x n = none →
    accessHold o true (here i s) (judged (headOf i) s) = false →
    capHas k rCM = true → isSpad (capOid k) = false → s.objOf c.part (capOid k) = some ob → ob.cr = true → x.toNat + n ≤ ob.len →
    s.entryBad (dieOf s.cur.1) (capOid k) = false → ob.cop = cop → ob.cfmt = fmt n →
    place (issuing i true s) s.cur.1 s.cur.2 (capOid k) x.toNat n = .ok (.dev d pa) →
    (∀ e ∈ (s.core s.cur.1).part, e.bad = false) →
    ((s.core s.cur.1).part.map (fun e => (e.die, e.addr / 32))).eraseDups.length < 64 → (s.die d).tracked.length < 4096 →
    ∃ t a e, exec i s = .next t ∧ (hand t).accs = c.accs ++ [a] ∧ t.mem = s.mem ∧ (∀ core, (t.core core).sram = (s.core core).sram) ∧
      a.dst = c.dstS o.a ∧ a.fault = none ∧ a.minLat = 16 ∧ a.tag = (headOf i).atag ∧ a.val = 0 ∧
      e ∈ (t.core s.cur.1).part ∧ e.die = d ∧ e.addr = pa ∧
      e.val = .ofNat 64 (combOp ob.cfmt cop (match (s.core s.cur.1).part.find? (fun y => y.die == d && y.addr == pa) with
        | some y => y.val.toNat
        | none => combId ob.cfmt cop) ((c.getS o.v).toNat % 2 ^ (8 * n))) ∧
      ∀ y, (y.die ≠ d ∨ y.addr ≠ pa) → (y ∈ (t.core s.cur.1).part ↔ y ∈ (s.core s.cur.1).part)

/-! ## Header control and engine operations -/

/-- A head that waits for nothing and is always on: what a bundle without slots asks of its context. -/
def noHead : Head := { slot := .S, pd := 0, atag := 0, w0 := 0, w1 := 0, pneg := 0, pidx := 0 }

/-- The attributes of a header without slots and marks, with its YLD bit. -/
def bare (yld : Nat) : Attr := { present := 0, sticky := 0, rep := 0, fix := 0, hw := 0, yld := yld }

/-- The lone slot `i` starts an engine operation (R91, R119, R191, R233): exec answers a next state in which the engine
holds one operation more, at its first row, with the format state in force at the issue; the tiles `fills` are
filling and the tiles `drains` draining. It is gated where `gates` holds and the issue stands in an open region
(R229, R251). -/
def Starts (i : Instr) (s : State) (gates : Bool) (fills drains : List Nat) : Prop :=
  let c := found (headOf i) s
  ∃ t e, exec i s = .next t ∧ (t.core s.cur.1).ops = (s.core s.cur.1).ops ++ [e] ∧
    (e.ins = i ∧ e.slot = s.cur.2 ∧ e.seq = c.iss ∧ e.tag = (headOf i).atag ∧ e.rows = 0 ∧ e.predOff = false ∧ e.held = false ∧
      e.stopping = false ∧ e.gated = (gates && c.fixOpen && !c.sup)) ∧
    (e.cap.fa = c.a.fa ∧ e.cap.fw = c.a.fw ∧ e.cap.fo = c.a.fo ∧ e.cap.fv = c.a.fv ∧ e.cap.fs = c.a.fs ∧ e.cap.rm = c.a.rm ∧
      e.cap.seed = c.a.seed ∧ e.cap.draw = c.a.draw ∧ e.cap.cbsel = c.a.cbsel ∧ e.cap.cbA = c.a.cbA ∧ e.cap.cbW = c.a.cbW) ∧
    (∀ u ∈ fills, (hand t).a.tstate u = 1) ∧ (∀ u ∈ drains, (hand t).a.tstate u = 3)

/-- The bytes that pieces take in, in order: each by its store, 0 for device memory or a core's number and 1 for its
scratchpad, and its place there. -/
def spots (l : List Seg) : List (Nat × Nat) := l.flatMap (fun g => match g.pl with
  | .dev d pa => (span (devKey d pa) g.n).map (fun k => (0, k))
  | .sram core a => (span a g.n).map (fun k => (core + 1, k))
  | .host .. => [])

/-- The byte at such a place. -/
def byteAt (s : State) (p : Nat × Nat) : Byte :=
  match p.1 with
  | 0 => Tab.get s.mem p.2 0
  | core + 1 => Tab.get (s.core core).sram p.2 0

/-- Byte `j` of one side of a copy's row (R234): of its pieces, of a row of an accumulator, 256 bytes (R190), or of a
value. -/
def sideByte (s : State) (core slot : Nat) (d : Side) (j : Nat) : Byte :=
  match d with
  | .segs l _ => byteAt s ((spots l).getD j (0, 0))
  | .acc n i => ((s.ctx core slot).acc.get (accKey n i (j / 4)) 0).extractLsb' (8 * (j % 4)) 8
  | .value b => b.getD j 0

/-- The places of a side that is no accumulator's row; it has no piece in host memory. -/
def Side.spots (d : Side) : List (Nat × Nat) :=
  match d with
  | .segs l _ => Machine.spots l
  | _ => []
def Side.onDevice (d : Side) : Prop := ∀ l keep, d = .segs l keep → ∀ g ∈ l, ∀ a peer, g.pl ≠ .host a peer

/-- No word of any store fails its check, and no commutative block has partials. -/
def Calm (s : State) : Prop :=
  (∀ d, (s.die d).bad = [] ∧ (s.die d).tracked = []) ∧
  ∀ c, (s.core c).bad = [] ∧ (s.core c).l1Bad = [] ∧ (s.core c).accBad = [] ∧ (s.core c).part = []

/-- R234, R242: `i` answers a next state in which each side of `dsts` holds the bytes that `src` held, of the last byte of
its pieces only the low `keep` bits, and every other byte of memory, scratchpad and accumulators is as it was. Asked for
sides on the device whose pieces lie apart. -/
def RowMoves (i : Instr) (s : State) (core slot : Nat) (src : Side) (dsts : List Side) : Prop :=
  src.onDevice → (∀ d ∈ dsts, d.onDevice) → (dsts.flatMap Side.spots).Nodup →
  ∃ t, exec i s = .next t ∧
    (∀ d ∈ dsts,
      (∀ l keep, d = .segs l keep → ∀ j p, (spots l)[j]? = some p →
        byteAt t p = if j + 1 < (spots l).length then sideByte s core slot src j
          else (byteAt s p &&& ~~~(BitVec.ofNat 8 (2 ^ keep - 1))) ||| (sideByte s core slot src j &&& BitVec.ofNat 8 (2 ^ keep - 1))) ∧
      (∀ n r, d = .acc n r → ∀ j, j < 256 → sideByte t core slot d j = sideByte s core slot src j)) ∧
    (∀ p, p ∉ dsts.flatMap Side.spots → byteAt t p = byteAt s p) ∧
    ∀ u, (∀ n r j, Side.acc n r ∈ dsts → j < 64 → u ≠ accKey n r j) → (t.ctx core slot).acc.get u 0 = (s.ctx core slot).acc.get u 0

/-- R236: the sum of the strides of row `i` of a pattern block, dimension 1 running fastest. -/
def strideSum (b : BitVec 512) (i : Nat) : Int :=
  let n (d : Nat) : Nat := (b.extractLsb' (64 * d + 48) 8).toNat + 1
  let stride (d : Nat) : Int := (b.extractLsb' (64 * d) 48).toInt
  (i % n 1 : Nat) * stride 1 + (i / n 1 % n 2 : Nat) * stride 2 + (i / n 1 / n 2 % n 3 : Nat) * stride 3 +
    (i / n 1 / n 2 / n 3 % n 4 : Nat) * stride 4 + (i / n 1 / n 2 / n 3 / n 4 % n 5 : Nat) * stride 5

/-- The vector operations that write td alone (R200 to R211). -/
def vectorOps (h : Head) (cf : Nat) (o : VT) : List Instr :=
  [.tclr h o, .vadd h cf o, .vsub h cf o, .vmul h cf o, .vfma h cf o, .vfms h cf o, .vfnma h cf o, .vmin h cf o, .vmax h cf o,
    .vabs h cf o, .vneg h cf o, .vclamp h cf o, .vsel h cf o, .vcmp h cf o, .vand h cf o, .vor h cf o, .vxor h cf o, .vnot h cf o,
    .vshl h cf o, .vshr h cf o, .vsra h cf o, .vmov h o, .vbcast h o, .viota h cf o, .vcvt h o, .vrcp h cf o, .vrsq h cf o,
    .vrcpf h cf o, .vrsqf h cf o, .vexp2 h cf o, .vlog2 h cf o, .vtanh h cf o, .vlgst h cf o, .vsqrt h cf o, .vrsum h cf o,
    .vcsum h cf o, .vrmax h cf o, .vcmax h cf o, .vrmin h cf o, .vcmin h cf o, .vrarg h cf o, .vscan h cf o, .vcscan h cf o,
    .vtrans h o, .vperm h o, .vgath h o, .vscat h o, .vpack h o, .vunpk h o, .vquant h o, .vdeq h o, .vscal h cf o, .vstat h o]

/-- A finite value as a fraction; 0 for any other. -/
def XVal.rat : XVal → ℚ
  | .fin s n d => (if s then -1 else 1) * (n / d)
  | _ => 0

/-- Row 0 of `vstat` and `mstat` (R211, R228): the status word of `t` as four exact f32 values, of which the valid
columns of `td` on this core are written; with `clr` the word is cleared, and without it nothing else changes. -/
def StatusRow (e : Env) (td t : Nat) (clr : Bool) (r : RowOut) : Prop :=
  let w := ((e.s.ctx e.core e.o.slot).a.status t).toNat
  r.writes = ((List.range 4).filter (fun j => decide (j ∈ colsOf e td 0))).map (fun j =>
    (td, 0, j, (rnd32 (.ofNat ([w % 2 ^ 20, w / 2 ^ 20 % 2 ^ 20, w / 2 ^ 40 % 2 ^ 16, w / 2 ^ 56 % 8].getD j 0))).toNat)) ∧
  ∀ u : State, (clr = true → ((r.extra u).ctx e.core e.o.slot).a.status t = 0) ∧ (clr = false → r.extra u = u)

/-- The physical plane that PLANE names under ROLE (R214). -/
def namedPlane (o : MT) (i : Instr) (s : State) : Nat := ((found (headOf i) s).a.role + o.plane) % 2

/-- The tables that `mcbl` and `vcbl` read row 0 of Y for: the environment of that reading (R226). -/
def tableEnv (i : Instr) (s : State) : Env :=
  issueEnv (here i s) (issuing i false s) (capTiles i (found (headOf i) s).a 0)

/-- The environment in which `tshape` and `tstep` read the elements of TA at their issue (R200). -/
def elemEnv (o : VT) (i : Instr) (s : State) : Env :=
  issueEnv (here i s) (issuing i false s) (elemTiles (found (headOf i) s).a o)

/-- Where sr.isel[16] is set, INDEX of sr.isel becomes `n` (R181). -/
def stepsTo (n : Nat) (c : Ctx) : Ctx :=
  if c.isel.getLsbD 16 then { c with isel := .ofNat 64 (c.isel.toNat / 2 ^ 14 * 2 ^ 14 + n % 2 ^ 14) } else c

/-- The indexes below 0x4000 that no row of the table of items names (R181). -/
def noItem (n : Nat) : Bool :=
  [(0x0C8, 0x100), (0x120, 0x121), (0x15F, 0x160), (0x164, 0x168), (0x17A, 0x180), (0x190, 0x198), (0x1A0, 0x200), (0x280, 0x300), (0x341, 0x1000),
    (0x1400, 0x2000), (0x2400, 0x4000)].any (fun r => decide (r.1 ≤ n) && decide (n < r.2))

/-- The integer, predicate, control, capability and counter instructions: they write at most registers. -/
def registerOps (h : Head) (r : SR) (i : SI) (l : SL) (b : SB) (m : SM) : List Instr :=
  [.add h r, .addi h i, .sub h r, .mul h r, .muli h i, .mulh h r, .mulhz h r, .div h r, .divz h r, .rem h r, .remz h r, .and h r,
    .andi h i, .or h r, .ori h i, .xor h r, .xori h i, .shl h r, .shli h i, .shr h r, .shri h i, .sra h r, .srai h i, .rotl h r,
    .rotr h r, .clz h r, .ctz h r, .popc h r, .min h r, .max h r, .minz h r, .maxz h r, .sext h r, .zext h r, .mov h r, .movi h l,
    .movhi h l, .sel h r, .cmp h r, .cmpi h i, .pand h r, .por h r, .pxor h r, .pnot h r, .pmov h r, .br h b, .bp h b, .jmp h b,
    .call h b, .ret h b, .loop h b, .loopi h b, .nop h r, .lea h m, .caprs h r, .caprt h r, .capq h r, .capmv h r, .mfsr h i,
    .rdtime h r, .jread h r, .bq h r, .wq h r]

/-- Nothing that the context waits for lets it go when one of its operations ends (R48, R54). -/
def stays (c : Ctx) : Bool := c.st != .ending && c.st != .ended && c.wait != .ctxout

/-- Nothing stands in the way of the context's trap entry: no region is open or in its window, and nothing that it
started is outstanding. -/
def clear (c : Ctx) : Bool :=
  !c.fixOpen && !c.win && c.accs.isEmpty && c.a.claims.isEmpty && c.res.isEmpty && c.a.pend.isEmpty

/-- A host request reaches the device, and the virtual function of partition `p` serves it (R314, R325, R328). -/
def reachesPf (s : State) : Bool := s.linkUp && s.power == .on
def reachesVf (s : State) (p : Nat) : Bool := reachesPf s && decide (p < 8) && (s.part p).pset.getLsbD 0

/-- An entry with this event code goes to the package queue first of all that is sent, where the queue is enabled,
has room and has lost nothing (R354 to R356). -/
def PostsF (s t : State) (code : Nat) : Prop :=
  evRoom s s.evq = true → s.evq.dropped = 0 →
    t.evq.written = s.evq.written + 1 ∧
    ∃ a b r, t.out = s.out ++ .pcieWrite .pf a b :: r ∧ b.length = 32 ∧ (b.getD 0 0).toNat = code

/-- The same for the queue of a partition. -/
def PostsE (s t : State) (p code : Nat) : Prop :=
  evRoom s (s.part p).evq = true → (s.part p).evq.dropped = 0 →
    (t.part p).evq.written = (s.part p).evq.written + 1 ∧
    ∃ a b r, t.out = s.out ++ .pcieWrite (.vf p) a b :: r ∧ b.length = 32 ∧ (b.getD 0 0).toNat = code

/-- An error of a store enters a die's log (R353): it is merged into the first valid entry of its STORE, ADDR and CORR;
else it takes the first free entry; else, if uncorrected, the place of the corrected entry with the oldest TFIRST; else it
is dropped with ERRLOG_FULL raised. Every other entry stays. -/
def LogsError (s t : State) (die code store addr : Nat) (corr : Bool) (part core : Option Nat) : Prop :=
  let old (i : Nat) : Option LogEntry := (s.die die).log.get i none
  let new (i : Nat) : Option LogEntry := (t.die die).log.get i none
  let same (e : LogEntry) : Prop := e.store = store ∧ e.addr = addr ∧ e.corr = corr
  let puts (i : Nat) (e : LogEntry) : Prop := new i = some e ∧ ∀ j, j ≠ i → new j = old j
  let fresh : LogEntry :=
    { code := code, corr := corr, store := store, part := part, core := core, addr := addr, count := 1, tfirst := s.now, tlast := s.now }
  (∀ i e, i < 256 → old i = some e → same e → (∀ j f, j < i → old j = some f → ¬same f) →
    puts i { e with count := min 255 (e.count + 1), tlast := s.now }) ∧
  ((∀ i e, i < 256 → old i = some e → ¬same e) →
    (∀ i, i < 256 → old i = none → (∀ j, j < i → old j ≠ none) → puts i fresh) ∧
    ((∀ i, i < 256 → old i ≠ none) →
      (∀ i e, i < 256 → corr = false → old i = some e → e.corr = true →
        (∀ j f, j < 256 → old j = some f → f.corr = true → e.tfirst < f.tfirst ∨ (e.tfirst = f.tfirst ∧ i ≤ j)) → puts i fresh) ∧
      (corr = true ∨ (∀ j f, j < 256 → old j = some f → f.corr = false) → (∀ j, new j = old j) ∧ (t.die die).logFull = true)))

/-- A corrected error is posted at most once in 1 ms on a die (R353): with room in its log, ERR_CORRECTED goes out or
nothing does. -/
def PostsCorrected (s t : State) (die : Nat) : Prop :=
  (∃ i, i < 256 ∧ (s.die die).log.get i none = none) →
    ((∀ since, (s.die die).corrAt = some since → since + 1000000 ≤ s.now) → PostsF s t 0x44 ∧ (t.die die).corrAt = some s.now) ∧
    (∀ since, (s.die die).corrAt = some since → s.now < since + 1000000 → t.out = s.out ∧ (t.die die).corrAt = some since)

/-- The state that a dispatcher pass starts from: its request is taken, and no hold of an earlier pass counts (R282). -/
def passStart (s : State) : State :=
  { s with passDue := false, islands := s.islands.foldl (fun (t : Tab Island) e => t.set e.1 { e.2 with held := 0 } {}) s.islands }

end Sys2Proof.Machine
end

