-- ==== Sys2Proof/WellFormed.lean ====
section
/-!
DEFINITION. Sys2Proof/WellFormed.lean: which terms of `Instr` stand for an instruction: every field
fits its bits, the head names a slot of the instruction's class, and the field uses and codes are
those of R127 to R136 (`rsvOk` and `opOk` of Sys2Proof/Decode.lean, where a repair can mend them).
-/
namespace Sys2Proof

/-- Every field of the head fits (R105). -/
def Head.inRange (h : Head) : Bool :=
  decide (h.pd < 8) && decide (h.atag < 32) && decide (h.w0 < 32) && decide (h.w1 < 32) &&
    decide (h.pneg < 2) && decide (h.pidx < 8)

/-- Every header attribute fits (R104). -/
def Attr.inRange (a : Attr) : Bool :=
  decide (a.present < 64) && decide (a.sticky < 64) && decide (a.rep < 256) && decide (a.fix < 2) &&
    decide (a.hw < 2) && decide (a.yld < 2)

/-- Every field of an operand format fits its bits (R128, R130, R133, R134). -/
def SR.inRange (o : SR) : Bool :=
  decide (o.a < 64) && decide (o.b < 64) && decide (o.c < 64) && decide (o.d < 64) &&
    decide (o.r < 2 ^ 21)
def SI.inRange (o : SI) : Bool := decide (o.a < 64) && decide (o.b < 64) && decide (o.imm < 2 ^ 33)
def SL.inRange (o : SL) : Bool := decide (o.a < 64) && decide (o.imm < 2 ^ 39)
def SM.inRange (o : SM) : Bool :=
  decide (o.a < 64) && decide (o.k < 16) && decide (o.x < 64) && decide (o.off < 2 ^ 14) &&
    decide (o.v < 64) && decide (o.w < 4) && decide (o.ext < 2) && decide (o.ty < 4) &&
    decide (o.hint < 4) && decide (o.r < 4)
def SB.inRange (o : SB) : Bool :=
  decide (o.p < 8) && decide (o.pn < 2) && decide (o.l < 4) && decide (o.cnt < 2 ^ 15) &&
    decide (o.tgt < 2 ^ 24)
def VT.inRange (o : VT) : Bool :=
  decide (o.td < 128) && decide (o.ta < 128) && decide (o.tb < 128) && decide (o.tc < 128) &&
    decide (o.mcls < 4) && decide (o.seg < 8) && decide (o.dist < 128) && decide (o.msel < 4) &&
    decide (o.flags < 8)
def MT.inRange (o : MT) : Bool :=
  decide (o.x < 128) && decide (o.y < 128) && decide (o.z < 128) && decide (o.w < 128) &&
    decide (o.zv < 2) && decide (o.wv < 2) && decide (o.acc < 2) && decide (o.plane < 2) &&
    decide (o.r < 2 ^ 13)
def CP.inRange (o : CP) : Bool :=
  decide (o.t < 128) && decide (o.k < 16) && decide (o.x < 64) && decide (o.y < 64) &&
    decide (o.off < 2 ^ 14) && decide (o.con < 2) && decide (o.pat < 2) && decide (o.r < 64)

/-- The head stands in a slot of class S, V, M or C (R105). -/
def Head.inS (h : Head) : Bool := h.inRange && decide (h.slot = .S)
def Head.inV (h : Head) : Bool := h.inRange && (decide (h.slot = .V0) || decide (h.slot = .V1))
def Head.inM (h : Head) : Bool := h.inRange && decide (h.slot = .M)
def Head.inC (h : Head) : Bool := h.inRange && (decide (h.slot = .C0) || decide (h.slot = .C1))

/-- Head and field ranges of each instruction; an event has none to check. -/
def inRange (i : Instr) : Bool :=
  match i with
  | .add h o | .sub h o | .mul h o | .mulh h o | .mulhz h o | .div h o | .divz h o | .rem h o
  | .remz h o | .and h o | .or h o | .xor h o | .shl h o | .shr h o | .sra h o | .rotl h o
  | .rotr h o | .clz h o | .ctz h o | .popc h o | .min h o | .max h o | .minz h o | .maxz h o
  | .sext h o | .zext h o | .mov h o | .sel h o | .cmp h o | .pand h o | .por h o | .pxor h o
  | .pnot h o | .pmov h o | .nop h o | .caprs h o | .caprt h o | .capq h o | .capmv h o | .eret h o
  | .ctxout h o | .endc h o | .rdtime h o | .rdcyc h o | .next h o | .enqt h o | .enqm h o
  | .deqm h o | .bq h o | .jread h o | .wq h o =>
    h.inS && o.inRange
  | .addi h o | .muli h o | .andi h o | .ori h o | .xori h o | .shli h o | .shri h o | .srai h o
  | .cmpi h o | .mfsr h o | .mtsr h o | .trap h o | .barInit h o | .barArrive h o | .barWait h o
  | .barAw h o | .barQuery h o | .cpjoin h o | .widen h o =>
    h.inS && o.inRange
  | .movi h o | .movhi h o =>
    h.inS && o.inRange
  | .br h o | .bp h o | .jmp h o | .call h o | .ret h o | .loop h o | .loopi h o =>
    h.inS && o.inRange
  | .lea h o | .ld h o | .st h o | .pf h o | .cclean h o | .cinval h o | .cflush h o | .amoAdd h o
  | .amoFadd h o | .amoMin h o | .amoMax h o | .amoMinz h o | .amoMaxz h o | .amoAnd h o
  | .amoOr h o | .amoXor h o | .amoSwap h o | .amoCas h o =>
    h.inS && o.inRange
  | .fmtA a arg | .fmtW a arg | .fmtO a arg | .fmtV a arg | .fmtS a arg | .rm a arg | .seed a arg
  | .cbsel a arg | .stepset a arg =>
    a.inRange && decide (arg < 2 ^ 18)
  | .tdef h o | .tshape h o | .tview h o | .tstate h o | .tstep h o | .tclr h o | .vmov h o
  | .vbcast h o | .vcvt h o | .vtrans h o | .vperm h o | .vgath h o | .vscat h o | .vpack h o
  | .vunpk h o | .vquant h o | .vdeq h o | .vstat h o =>
    h.inV && o.inRange
  | .vadd h cf o | .vsub h cf o | .vmul h cf o | .vmin h cf o | .vmax h cf o | .vabs h cf o
  | .vneg h cf o | .vclamp h cf o | .vsel h cf o | .vcmp h cf o | .viota h cf o | .vrsum h cf o
  | .vcsum h cf o | .vrmax h cf o | .vcmax h cf o | .vrmin h cf o | .vcmin h cf o | .vrarg h cf o
  | .vscan h cf o | .vcscan h cf o | .vtopk h cf o =>
    h.inV && o.inRange && CfClass.has .A cf
  | .vfma h cf o | .vfms h cf o | .vfnma h cf o | .vrcp h cf o | .vrsq h cf o | .vrcpf h cf o
  | .vrsqf h cf o | .vexp2 h cf o | .vlog2 h cf o | .vtanh h cf o | .vlgst h cf o | .vsqrt h cf o
  | .vscal h cf o =>
    h.inV && o.inRange && CfClass.has .F cf
  | .vand h cf o | .vor h cf o | .vxor h cf o | .vnot h cf o | .vshl h cf o | .vshr h cf o
  | .vsra h cf o =>
    h.inV && o.inRange && CfClass.has .I cf
  | .mloadw h o | .mloadwt h o | .mswap h o | .mma h o | .mzero h o | .mdrain h o | .mcbl h o
  | .moutl h o | .mscl h o | .mstat h o | .vcbl h o =>
    h.inM && o.inRange
  | .cpLd h o | .cpSt h o | .cpSs h o | .cpMm h o | .cpGath h o | .cpScat h o | .cpBc h o
  | .cpAcc h o | .cpFill h o | .cpPf h o | .cpCancel h o | .cpRes h o | .cpPat h o =>
    h.inC && o.inRange
  | _ => true

/-- A well-formed instruction. -/
def wellFormed (i : Instr) : Bool := inRange i && rsvOk i && opOk i

end Sys2Proof
end

