-- ==== Sys2Proof/Certificates/Slice0/Obligations.lean ====
section
/-!
DEFINITION. Sys2Proof/Certificates/Slice0/Obligations.lean: the statements about the model. `free`, `passes`,
`found`, `issued` and the rest of the vocabulary stand in Sys2Proof/Safety.lean. Results of a slot instruction are
stated for its lone issue; `ResultsLand` says when they reach their registers.
-/
open Sys2Proof Sys2Proof.Machine

/-! ## Integer, predicate and control instructions (R109, R156 to R163) -/

/-- R157: sums, differences and products, computed in the integers and stored modulo 2^64. -/
def Obligations.IntegerArithmetic : Prop :=
  ∀ (h : Head) (s : State), free h s = true → tagRoom h s = true →
    let x := (found h s).getS
    (∀ o, exec (.add h o) s = .next (writesS (.add h o) s 1 o.a (.ofInt 64 ((x o.b).toInt + (x o.c).toInt)))) ∧
    (∀ o, exec (.addi h o) s = .next (writesS (.addi h o) s 1 o.a (.ofInt 64 ((x o.b).toInt + (BitVec.ofNat 33 o.imm).toInt)))) ∧
    (∀ o, exec (.sub h o) s = .next (writesS (.sub h o) s 1 o.a (.ofInt 64 ((x o.b).toInt - (x o.c).toInt)))) ∧
    (∀ o, exec (.mul h o) s = .next (writesS (.mul h o) s 3 o.a (.ofInt 64 ((x o.b).toInt * (x o.c).toInt)))) ∧
    (∀ o, exec (.muli h o) s = .next (writesS (.muli h o) s 3 o.a (.ofInt 64 ((x o.b).toInt * (BitVec.ofNat 33 o.imm).toInt)))) ∧
    (∀ o, exec (.mulh h o) s = .next (writesS (.mulh h o) s 3 o.a (.ofInt 64 ((x o.b).toInt * (x o.c).toInt / 2 ^ 64)))) ∧
    (∀ o, exec (.mulhz h o) s = .next (writesS (.mulhz h o) s 3 o.a (.ofNat 64 ((x o.b).toNat * (x o.c).toNat / 2 ^ 64))))

/-- R158: quotients and remainders, with the three cases of its table. -/
def Obligations.Division : Prop :=
  ∀ (h : Head) (s : State) (o : SR), free h s = true → tagRoom h s = true →
    let a := (found h s).getS o.b
    let b := (found h s).getS o.c
    (b = 0 →
      exec (.div h o) s = .next (writesS (.div h o) s 7 o.a (.ofInt 64 (-1))) ∧
      exec (.rem h o) s = .next (writesS (.rem h o) s 7 o.a a) ∧
      exec (.divz h o) s = .next (writesS (.divz h o) s 7 o.a (.ofNat 64 (2 ^ 64 - 1))) ∧
      exec (.remz h o) s = .next (writesS (.remz h o) s 7 o.a a)) ∧
    (a.toInt = -2 ^ 63 → b.toInt = -1 →
      exec (.div h o) s = .next (writesS (.div h o) s 7 o.a (.ofInt 64 (-2 ^ 63))) ∧
      exec (.rem h o) s = .next (writesS (.rem h o) s 7 o.a 0)) ∧
    (b ≠ 0 →
      (¬(a.toInt = -2 ^ 63 ∧ b.toInt = -1) →
        exec (.div h o) s = .next (writesS (.div h o) s 7 o.a (.ofInt 64 (a.toInt.tdiv b.toInt))) ∧
        exec (.rem h o) s = .next (writesS (.rem h o) s 7 o.a (.ofInt 64 (a.toInt - a.toInt.tdiv b.toInt * b.toInt)))) ∧
      exec (.divz h o) s = .next (writesS (.divz h o) s 7 o.a (.ofNat 64 (a.toNat / b.toNat))) ∧
      exec (.remz h o) s = .next (writesS (.remz h o) s 7 o.a (.ofNat 64 (a.toNat % b.toNat))))

/-- R157, R159: bitwise operations bit by bit, shifts and rotates by arithmetic on the patterns. -/
def Obligations.BitwiseAndShifts : Prop :=
  ∀ (h : Head) (s : State), free h s = true → tagRoom h s = true →
    let x := (found h s).getS
    let imm (n : Nat) : Word := (BitVec.ofNat 33 n).signExtend 64
    let left (v : Word) (n : Nat) : Word := .ofNat 64 (v.toNat * 2 ^ n)
    let right (v : Word) (n : Nat) : Word := .ofNat 64 (v.toNat / 2 ^ n)
    let arith (v : Word) (n : Nat) : Word := .ofInt 64 (v.toInt / 2 ^ n)
    (∀ o, exec (.and h o) s = .next (writesS (.and h o) s 1 o.a (x o.b &&& x o.c))) ∧
    (∀ o, exec (.andi h o) s = .next (writesS (.andi h o) s 1 o.a (x o.b &&& imm o.imm))) ∧
    (∀ o, exec (.or h o) s = .next (writesS (.or h o) s 1 o.a (x o.b ||| x o.c))) ∧
    (∀ o, exec (.ori h o) s = .next (writesS (.ori h o) s 1 o.a (x o.b ||| imm o.imm))) ∧
    (∀ o, exec (.xor h o) s = .next (writesS (.xor h o) s 1 o.a (x o.b ^^^ x o.c))) ∧
    (∀ o, exec (.xori h o) s = .next (writesS (.xori h o) s 1 o.a (x o.b ^^^ imm o.imm))) ∧
    (∀ o, exec (.shl h o) s = .next (writesS (.shl h o) s 1 o.a (left (x o.b) ((x o.c).toNat % 64)))) ∧
    (∀ o, exec (.shr h o) s = .next (writesS (.shr h o) s 1 o.a (right (x o.b) ((x o.c).toNat % 64)))) ∧
    (∀ o, exec (.sra h o) s = .next (writesS (.sra h o) s 1 o.a (arith (x o.b) ((x o.c).toNat % 64)))) ∧
    (∀ o, o.imm < 64 → exec (.shli h o) s = .next (writesS (.shli h o) s 1 o.a (left (x o.b) o.imm))) ∧
    (∀ o, o.imm < 64 → exec (.shri h o) s = .next (writesS (.shri h o) s 1 o.a (right (x o.b) o.imm))) ∧
    (∀ o, o.imm < 64 → exec (.srai h o) s = .next (writesS (.srai h o) s 1 o.a (arith (x o.b) o.imm))) ∧
    (∀ o, let n := (x o.c).toNat % 64
      exec (.rotl h o) s = .next (writesS (.rotl h o) s 1 o.a (left (x o.b) n ||| right (x o.b) (64 - n)))) ∧
    (∀ o, let n := (x o.c).toNat % 64
      exec (.rotr h o) s = .next (writesS (.rotr h o) s 1 o.a (right (x o.b) n ||| left (x o.b) (64 - n))))

/-- R157, R159: counts, choices by order, extensions from a width and moves. -/
def Obligations.CountsAndMoves : Prop :=
  ∀ (h : Head) (s : State), free h s = true → tagRoom h s = true →
    let x := (found h s).getS
    (∀ o, exec (.clz h o) s = .next (writesS (.clz h o) s 1 o.a (.ofNat 64 ((List.range 64).takeWhile (fun i => !(x o.b).getLsbD (63 - i))).length))) ∧
    (∀ o, exec (.ctz h o) s = .next (writesS (.ctz h o) s 1 o.a (.ofNat 64 ((List.range 64).takeWhile (fun i => !(x o.b).getLsbD i)).length))) ∧
    (∀ o, exec (.popc h o) s = .next (writesS (.popc h o) s 1 o.a (.ofNat 64 ((List.range 64).countP (fun i => (x o.b).getLsbD i))))) ∧
    (∀ o, exec (.min h o) s = .next (writesS (.min h o) s 1 o.a (.ofInt 64 (min (x o.b).toInt (x o.c).toInt)))) ∧
    (∀ o, exec (.max h o) s = .next (writesS (.max h o) s 1 o.a (.ofInt 64 (max (x o.b).toInt (x o.c).toInt)))) ∧
    (∀ o, exec (.minz h o) s = .next (writesS (.minz h o) s 1 o.a (.ofNat 64 (min (x o.b).toNat (x o.c).toNat)))) ∧
    (∀ o, exec (.maxz h o) s = .next (writesS (.maxz h o) s 1 o.a (.ofNat 64 (max (x o.b).toNat (x o.c).toNat)))) ∧
    (∀ o, o.c < 3 → exec (.sext h o) s = .next (writesS (.sext h o) s 1 o.a (((x o.b).setWidth (8 * 2 ^ o.c)).signExtend 64))) ∧
    (∀ o, o.c < 3 → exec (.zext h o) s = .next (writesS (.zext h o) s 1 o.a (((x o.b).setWidth (8 * 2 ^ o.c)).setWidth 64))) ∧
    (∀ o, exec (.mov h o) s = .next (writesS (.mov h o) s 1 o.a (x o.b))) ∧
    (∀ o, exec (.movi h o) s = .next (writesS (.movi h o) s 1 o.a ((BitVec.ofNat 39 o.imm).signExtend 64))) ∧
    (∀ o, exec (.movhi h o) s = .next (writesS (.movhi h o) s 1 o.a (BitVec.ofNat 39 o.imm ++ (x o.a).setWidth 25))) ∧
    (∀ o, exec (.sel h o) s = .next (writesS (.sel h o) s 1 o.a (if (found h s).getP (o.d % 8) then x o.b else x o.c)))

/-- R160: comparisons by code 0 to 5 (eq, ne, lt, ge, ltu, geu, R128), and the logic of predicates. -/
def Obligations.PredicateResults : Prop :=
  ∀ (h : Head) (s : State), free h s = true → tagRoom h s = true →
    let x := (found h s).getS
    let p (n : Nat) : Bool := (found h s).getP (n % 8)
    let cond (n : Nat) (a b : Word) : Bool :=
      [decide (a = b), decide (a ≠ b), decide (a.toInt < b.toInt), decide (b.toInt ≤ a.toInt), decide (a.toNat < b.toNat), decide (b.toNat ≤ a.toNat)].getD n false
    (∀ o, o.a / 8 < 6 → exec (.cmp h o) s = .next (writesP (.cmp h o) s o.a (cond (o.a / 8) (x o.b) (x o.c)))) ∧
    (∀ o, o.a / 8 < 6 → exec (.cmpi h o) s = .next (writesP (.cmpi h o) s o.a (cond (o.a / 8) (x o.b) ((BitVec.ofNat 33 o.imm).signExtend 64)))) ∧
    (∀ o, exec (.pand h o) s = .next (writesP (.pand h o) s o.a (p o.b && p o.c))) ∧
    (∀ o, exec (.por h o) s = .next (writesP (.por h o) s o.a (p o.b || p o.c))) ∧
    (∀ o, exec (.pxor h o) s = .next (writesP (.pxor h o) s o.a (p o.b != p o.c))) ∧
    (∀ o, exec (.pnot h o) s = .next (writesP (.pnot h o) s o.a (!p o.b))) ∧
    (∀ o, exec (.pmov h o) s = .next (writesP (.pmov h o) s o.a (p o.b)))

/-- R161 to R163: where each transfer goes, and the link of `call`. A transfer that is taken names a word of the
code object; a `bp` that is not taken may name any. -/
def Obligations.ControlTransfers : Prop :=
  ∀ (h : Head) (s : State), free h s = true →
    let c := found h s
    let len := codeLen s c.part c.codeOid
    (∀ o, o.tgt < len → exec (.br h o) s = .next (issued (.br h o) false s id (some o.tgt) id)) ∧
    (∀ o, (c.getP o.p != (o.pn == 1)) = true → o.tgt < len → exec (.bp h o) s = .next (issued (.bp h o) false s id (some o.tgt) id)) ∧
    (∀ o, (c.getP o.p != (o.pn == 1)) = false → exec (.bp h o) s = .next (issued (.bp h o) false s id none id)) ∧
    (∀ o, (c.getS (o.cnt / 512)).toNat < len →
      exec (.jmp h o) s = .next (issued (.jmp h o) false s id (some ((c.getS (o.cnt / 512)).toNat % 2 ^ 24)) id)) ∧
    (∀ o, (c.getS (o.cnt / 512)).toNat < len →
      exec (.ret h o) s = .next (issued (.ret h o) false s id (some ((c.getS (o.cnt / 512)).toNat % 2 ^ 24)) id)) ∧
    (∀ o, o.tgt < len → tagRoom h s = true →
      exec (.call h o) s = .next (issued (.call h o) true s
        (fun t => t.updCtx s.cur.1 s.cur.2 (fun d => d.push (result (.call h o) s 1 false (c.dstS (o.cnt / 512)) (.ofNat 512 (pcOf s + 2))))) (some o.tgt) id)) ∧
    (∀ o, exec (.nop h o) s = .next (issued (.nop h o) false s id none id))

/-- R117, R118, R161, R162: opening a loop level. With a count it becomes active with this bundle's next word as its
start; with count zero it becomes inactive and issue goes on behind the bundle at the end word. An end word before the
start word or outside the code object traps as LOOP_RANGE with the level unchanged. -/
def Obligations.LoopOpenings : Prop :=
  ∀ (h : Head) (s : State) (o : SB), free h s = true →
    let c := found h s
    let len := codeLen s c.part c.codeOid
    let endw := codeWord s c.part c.codeOid o.tgt
    let level (n : Nat) (t : State) : State := t.updCtx s.cur.1 s.cur.2 (fun d =>
      d.setLv (d.lvNow.set o.l { active := n != 0, count := n, start := pcOf s + 2, stop := o.tgt, opened := c.iss + 1 } {}))
    (pcOf s + 2 ≤ o.tgt → o.tgt < len →
      ((c.getS (o.cnt / 512)).toNat % 2 ^ 32 ≠ 0 →
        exec (.loop h o) s = .next (issued (.loop h o) false s (level ((c.getS (o.cnt / 512)).toNat % 2 ^ 32)) none id)) ∧
      (o.cnt ≠ 0 → exec (.loopi h o) s = .next (issued (.loopi h o) false s (level o.cnt) none id)) ∧
      (bits endw 77 3 = 7 →
        ((c.getS (o.cnt / 512)).toNat % 2 ^ 32 = 0 →
          exec (.loop h o) s = .next (issued (.loop h o) false s (level 0) (some (o.tgt + 1 + attrWords (getAttr endw))) id)) ∧
        (o.cnt = 0 →
          exec (.loopi h o) s = .next (issued (.loopi h o) false s (level 0) (some (o.tgt + 1 + attrWords (getAttr endw))) id)))) ∧
    (o.tgt < pcOf s + 2 ∨ len ≤ o.tgt →
      ∀ i ∈ [Instr.loop h o, .loopi h o],
        let t := failBundle (judged h s) s.cur.1 s.cur.2 0x24 (.ofNat 64 o.tgt) h.slot.num 0 (pcOf s + 1)
        exec i s = .next t ∧ (hand t).lvNow = c.lvNow)

/-- R117: the end check at a word that ends exactly one active level: count above 1 falls by 1 and issue goes on at
the start word; otherwise the level ends and issue goes on behind the bundle. -/
def Obligations.LoopEnd : Prop :=
  ∀ (c : Ctx) (w n : Nat) (l : Level), n < 4 → c.lvNow.get n {} = l → l.active = true → l.stop = w →
    (∀ m, m < 4 → m ≠ n → (c.lvNow.get m {}).active = false ∨ (c.lvNow.get m {}).stop ≠ w) →
    (1 < l.count →
      (movedOn w none c).pcNow = l.start ∧ (movedOn w none c).lvNow.get n {} = { l with count := l.count - 1 }) ∧
    (l.count ≤ 1 →
      (movedOn w none c).pcNow = w + 2 ∧ (movedOn w none c).lvNow.get n {} = { l with count := 0, active := false }) ∧
    ∀ m, m ≠ n → (movedOn w none c).lvNow.get m {} = c.lvNow.get m {}

/-! ## Capability and memory instructions (R164 to R173) -/

/-- R164, R165: the results of the capability instructions within their bounds, and the null capability; a result that
would be wider traps as CAP_WIDEN with nothing issued, and set bits where a field must be zero are BAD_OPERAND. -/
def Obligations.CapabilityResults : Prop :=
  (∀ (h : Head) (s : State), free h s = true → tagRoom h s = true →
    let c := found h s
    (∀ o, capOid (c.getK o.k) ≠ 0 → capLower (c.getK o.k) ≤ (memOffset c o.x o.off).toNat → (memOffset c o.x o.off).toNat ≤ capUpper (c.getK o.k) →
      exec (.lea h o) s = .next (writesK (.lea h o) s o.a (setFld (c.getK o.k) 32 48 (memOffset c o.x o.off).toNat))) ∧
    (∀ o, capOid (c.getK (o.b % 16)) ≠ 0 → (c.getS o.c).toNat < 256 → (c.getS o.c).toNat &&& capRights (c.getK (o.b % 16)) = (c.getS o.c).toNat →
      exec (.caprs h o) s = .next (writesK (.caprs h o) s o.a (setFld (c.getK (o.b % 16)) 24 8 (c.getS o.c).toNat))) ∧
    (∀ o, capOid (c.getK (o.b % 16)) ≠ 0 → capLower (c.getK (o.b % 16)) ≤ (c.getS o.c).toNat → (c.getS o.c).toNat ≤ (c.getS o.d).toNat →
      (c.getS o.d).toNat ≤ capUpper (c.getK (o.b % 16)) →
      exec (.caprt h o) s = .next (writesK (.caprt h o) s o.a (setFld (setFld (c.getK (o.b % 16)) 32 48 (c.getS o.c).toNat) 80 48 (c.getS o.d).toNat))) ∧
    (∀ o, capOid (c.getK (o.b % 16)) ≠ 0 → o.c < 4 →
      exec (.capq h o) s = .next (writesS (.capq h o) s 1 o.a (.ofNat 64
        ([(c.getK (o.b % 16)).toNat % 2 ^ 32, capLower (c.getK (o.b % 16)), capUpper (c.getK (o.b % 16)), capUpper (c.getK (o.b % 16)) - capLower (c.getK (o.b % 16))].getD o.c 0)))) ∧
    (∀ o, capOid (c.getK (o.b % 16)) ≠ 0 → exec (.capmv h o) s = .next (writesK (.capmv h o) s o.a (c.getK (o.b % 16)))) ∧
    (∀ o, capOid (c.getK o.k) = 0 → exec (.lea h o) s = .next (writesK (.lea h o) s o.a 0)) ∧
    (∀ o, capOid (c.getK (o.b % 16)) = 0 →
      exec (.caprs h o) s = .next (writesK (.caprs h o) s o.a 0) ∧ exec (.caprt h o) s = .next (writesK (.caprt h o) s o.a 0) ∧
      exec (.capmv h o) s = .next (writesK (.capmv h o) s o.a 0) ∧ (o.c < 4 → exec (.capq h o) s = .next (writesS (.capq h o) s 1 o.a 0)))) ∧
  (∀ (h : Head) (s : State), free h s = true → tagRoom h s = true →
    let c := found h s
    let widens (i : Instr) : Prop := exec i s = .next (failBundle (judged h s) s.cur.1 s.cur.2 0x32 0 h.slot.num 0 (pcOf s + 1))
    (∀ o, capOid (c.getK o.k) ≠ 0 → ¬(capLower (c.getK o.k) ≤ (memOffset c o.x o.off).toNat ∧ (memOffset c o.x o.off).toNat ≤ capUpper (c.getK o.k)) →
      widens (.lea h o)) ∧
    (∀ o, capOid (c.getK (o.b % 16)) ≠ 0 → ¬((c.getS o.c).toNat < 256 ∧ (c.getS o.c).toNat &&& capRights (c.getK (o.b % 16)) = (c.getS o.c).toNat) →
      widens (.caprs h o)) ∧
    (∀ o, capOid (c.getK (o.b % 16)) ≠ 0 → ¬(capLower (c.getK (o.b % 16)) ≤ (c.getS o.c).toNat ∧ (c.getS o.c).toNat ≤ (c.getS o.d).toNat ∧
      (c.getS o.d).toNat ≤ capUpper (c.getK (o.b % 16))) → widens (.caprt h o))) ∧
  ∀ h : Head, h.inS = true →
    let bad (i : Instr) : Prop := rsvOk i = true → decodeSlot .S (encode i) = .error .badOperand
    (∀ o : SM, o.inRange = true → 16 ≤ o.a → bad (.lea h o)) ∧
    ∀ o : SR, o.inRange = true → (16 ≤ o.b → ∀ i ∈ [Instr.caprs h o, .caprt h o, .capq h o, .capmv h o], bad i) ∧
      (16 ≤ o.a → ∀ i ∈ [Instr.caprs h o, .caprt h o, .capmv h o], bad i) ∧ (4 ≤ o.c → bad (.capq h o))

/-- R112, R166 to R168: a load that passes its checks at issue and at the memory port leaves an answer on its way: the
bytes at its place, or those of a leased copy that it may read (R98), little-endian, extended by EXT, for s[A] no earlier
than the 12th own issue after it. A load from host memory or of a KIND 1 object sends its request and waits for the
completion (R382), or has PCIE_DMA_ERR as its answer over a link that is down. That the value is taken in the issuing step,
and from one byte store or a leased copy, is the model's (log entries 27 and 4). -/
def Obligations.Loads : Prop :=
  ∀ (h : Head) (o : SM) (s u : State) (pl : Place), free h s = true → tagRoom h s = true →
    let i := Instr.ld h o
    let c := found h s
    let x := memOffset c o.x o.off
    let k := c.getK o.k
    let n := 2 ^ o.w
    let v := (lookAt (issuing i true s) s.cur.1 s.cur.2 pl n o.ty).getD (u.getAt pl n)
    x.toNat % n = 0 → capCheck c k (capHas k rRD) x n = none → accessHold o false (here i s) (judged h s) = false →
    place (issuing i true s) s.cur.1 s.cur.2 (capOid k) x.toNat n = .ok pl →
    ((∀ a peer, pl ≠ .host a peer) → victimBad (issuing i true s) s.cur.1 pl = false →
      u = touchAt (issuing i true s) s.cur.1 s.cur.2 (capOid k) x.toNat pl n false o.ty o.hint → badAt u s.cur.1 pl n = none →
      ∃ t a, exec i s = .next t ∧ (hand t).accs = c.accs ++ [a] ∧ t.mem = u.mem ∧
        a.dst = c.dstS o.a ∧ a.fault = none ∧ a.minLat = 12 ∧ a.seq = c.iss ∧ a.tag = h.atag ∧ a.pcie = false ∧
        a.val = (if o.ext = 1 then (BitVec.ofNat (8 * n) v).signExtend 64 else BitVec.ofNat 64 v).setWidth 512) ∧
    (∀ addr peer, pl = .host addr peer → (∀ b ∈ c.accs, b.id ≠ (s.core s.cur.1).nextId) →
      (s.hostDown addr peer false = false →
        ∃ t a, exec i s = .next t ∧ (hand t).accs = c.accs ++ [a] ∧ t.mem = s.mem ∧ t.out = (s.askHost c.part addr peer n).out ∧
          a.dst = c.dstS o.a ∧ a.fault = none ∧ a.minLat = 12 ∧ a.seq = c.iss ∧ a.tag = h.atag ∧ a.pcie = true ∧ a.width = n ∧
          a.sgn = (o.ext == 1) ∧ a.asked = s.now) ∧
      (s.hostDown addr peer false = true →
        ∃ t a, exec i s = .next t ∧ (hand t).accs = c.accs ++ [a] ∧ t.mem = s.mem ∧ a.fault = some 0x48 ∧ a.off = x ∧ a.tag = h.atag ∧
          PostsE s t c.part 0x48))

/-- R168: a store that passes its checks writes the low W bytes of s[A] at its place, and every other byte of memory
and scratchpad stays as the access's turn in the global order left it. A store to host memory or to a KIND 1 object sends
those bytes, or has PCIE_DMA_ERR as its answer while the host link is down (R319, R382, R402). That it is performed in its
issuing step is the model's (log entry 27). -/
def Obligations.Stores : Prop :=
  ∀ (h : Head) (o : SM) (s u : State) (pl : Place), free h s = true → tagRoom h s = true →
    let i := Instr.st h o
    let c := found h s
    let x := memOffset c o.x o.off
    let k := c.getK o.k
    let n := 2 ^ o.w
    x.toNat % n = 0 → capCheck c k (capHas k rWR) x n = none → accessHold o true (here i s) (judged h s) = false →
    place (issuing i true s) s.cur.1 s.cur.2 (capOid k) x.toNat n = .ok pl →
    ((∀ a peer, pl ≠ .host a peer) → partAt (issuing i true s) s.cur.1 pl n = none →
      u = touchAt (issuing i true s) s.cur.1 s.cur.2 (capOid k) x.toNat pl n true o.ty o.hint →
      ∃ t a, exec i s = .next t ∧ (hand t).accs = c.accs ++ [a] ∧ a.dst = .nothing ∧ a.fault = none ∧ a.tag = h.atag ∧
        t.getAt pl n = (c.getS o.a).toNat % 2 ^ (8 * n) ∧ KeepsOtherBytes u t pl n) ∧
    (∀ addr peer, pl = .host addr peer →
      (s.hostDown addr peer true = false →
        ∃ t a, exec i s = .next t ∧ (hand t).accs = c.accs ++ [a] ∧ a.dst = .nothing ∧ a.fault = none ∧ a.tag = h.atag ∧ t.mem = s.mem ∧
          t.out = (s.writeHost c.part addr peer (toBytes n ((c.getS o.a).toNat % 2 ^ (8 * n)))).out) ∧
      (s.hostDown addr peer true = true →
        ∃ t a, exec i s = .next t ∧ (hand t).accs = c.accs ++ [a] ∧ a.fault = some 0x48 ∧ a.off = x ∧ a.tag = h.atag ∧ t.mem = s.mem ∧
          t.out = (dmaErr s s.cur.1 s.cur.2 x).out ∧ PostsE s t c.part 0x48))

/-- The turn of an access in the global order changes no byte unless partials of a commutative block are combined
there (R81, R84): derived. It rests on the model's one coherent byte store, in which fills, evictions and recalls move no
byte (log entry 4). -/
def Obligations.TurnsKeepBytes : Prop :=
  ∀ (s : State) (core slot oid o n ty hint : Nat) (wr : Bool) (pl : Place), (∀ c, (s.core c).part = []) →
    (touchAt s core slot oid o pl n wr ty hint).mem = s.mem ∧
    ∀ c, ((touchAt s core slot oid o pl n wr ty hint).core c).sram = (s.core c).sram

/-- R168, R170: a prefetch that no full victim buffer holds (R82) is done without a trap whatever its address, writes no
register and no byte; a range flush
that passes its checks leaves an answer that frees its tag, and writes no register. -/
def Obligations.PrefetchAndFlushes : Prop :=
  ∀ (h : Head) (o : SM) (s : State), free h s = true → tagRoom h s = true →
    let c := found h s
    (victimHold o false (here (.pf h o) s) (judged h s) = false → ∃ t, exec (.pf h o) s = .next t ∧ t.mem = s.mem ∧
      (hand t).res = c.res ++ [{ dst := .nothing, val := 0, due := c.iss + 1, seq := c.iss, tag := h.atag, fixed := false }]) ∧
    ((c.getS o.a = 0 ∨ capCheck c (c.getK o.k) (capHas (c.getK o.k) rRD || capHas (c.getK o.k) rWR) (memOffset c o.x o.off) (c.getS o.a).toNat = none) →
      (∀ b ∈ c.accs, b.id ≠ (s.core s.cur.1).nextId) → ∀ i ∈ [Instr.cclean h o, Instr.cinval h o, Instr.cflush h o],
        ∃ t a, exec i s = .next t ∧ t.mem = s.mem ∧ (hand t).accs = c.accs ++ [a] ∧
          a.dst = .nothing ∧ a.fault = none ∧ a.flush = true ∧ a.minLat = 8 ∧ a.tag = h.atag)

/-- R171, R172: an atomic is one read and write at its place, which leaves every other byte; s[A] receives the old value,
sign-extended for .w but for amo.minz, amo.maxz and amo.fadd. In host memory or a KIND 1 object its answer is AMO_PLACE. A
commutative update acts on its core's partial, and s[A] receives 0. That old value and write are taken in the issuing step
is the model's (log entry 27). -/
def Obligations.Atomics : Prop :=
  ∀ (h : Head) (o : SM) (s : State), free h s = true → tagRoom h s = true →
    let n := 2 ^ o.w
    let m := 2 ^ (8 * n)
    let signed (x : Nat) : Int := (BitVec.ofNat (8 * n) x).toInt
    AtomicDoes (.amoAdd h o) o s false (fun old v _ => (old + v) % m) ∧
    (o.w = 2 → AtomicDoes (.amoFadd h o) o s true (fun old v _ => (rnd32 ((val32 (.ofNat 32 old)).add (val32 (.ofNat 32 v)))).toNat)) ∧
    AtomicDoes (.amoMin h o) o s false (fun old v _ => if signed v < signed old then v else old) ∧
    AtomicDoes (.amoMax h o) o s false (fun old v _ => if signed old < signed v then v else old) ∧
    AtomicDoes (.amoMinz h o) o s true (fun old v _ => min old v) ∧
    AtomicDoes (.amoMaxz h o) o s true (fun old v _ => max old v) ∧
    AtomicDoes (.amoAnd h o) o s false (fun old v _ => old &&& v) ∧
    AtomicDoes (.amoOr h o) o s false (fun old v _ => old ||| v) ∧
    AtomicDoes (.amoXor h o) o s false (fun old v _ => old ^^^ v) ∧
    AtomicDoes (.amoSwap h o) o s false (fun _ v _ => v) ∧
    AtomicDoes (.amoCas h o) o s false (fun old v a => if old = a then v else old) ∧
    (let int (k : Nat) : Nat := if k = 4 then 2 else 3
     CommutativeDoes (.amoAdd h o) o s 0 int ∧ CommutativeDoes (.amoMin h o) o s 1 int ∧ CommutativeDoes (.amoMax h o) o s 2 int ∧
     (o.w = 2 → CommutativeDoes (.amoFadd h o) o s 0 (fun _ => 0)))

/-! ## System instructions (R174 to R187) -/

/-- R174 to R179, R181, R183: `mfsr` gives s[A] the register's value, with L = 1. sr.idat gives the item that sr.isel
names, of the user state or of a shadow set that holds it, and steps INDEX where sr.isel[16] is set; an index that names no
item traps as SR_ACCESS. -/
def Obligations.SystemReads : Prop :=
  ∀ (h : Head) (o : SI) (s : State), free h s = true → tagRoom h s = true →
    let c := found h s
    let n := c.isel.toNat % 2 ^ 14
    let item (v : Word) : Prop := exec (.mfsr h o) s = .next (issued (.mfsr h o) true s
      (fun t => t.updCtx s.cur.1 s.cur.2 (fun d => d.push (result (.mfsr h o) s 1 true (c.dstS o.a) (v.setWidth 512)))) none
      (fun t => t.updCtx s.cur.1 s.cur.2 (stepsTo (n + 1))))
    let gives (v : Word) : Prop := exec (.mfsr h o) s = .next (writesS (.mfsr h o) s 1 o.a v)
    (o.imm = 0x000 → gives (.ofNat 64 ((if c.sup then 1 else 0) + (if c.ypend then 2 else 0) + 256 * ((List.range 8).countP (fun n => (c.a.item n 0).getLsbD 63))))) ∧
    (o.imm = 0x006 → gives (ctxWord c s.cur.2)) ∧
    (c.sup = true →
      (o.imm = 0x001 → gives c.cause) ∧ (o.imm = 0x002 → gives c.epc) ∧ (o.imm = 0x003 → gives c.tval) ∧
      (o.imm = 0x004 → gives (.ofNat 64 c.vec)) ∧ (o.imm = 0x005 → gives c.tinst) ∧ (o.imm = 0x020 → gives c.isel) ∧
      (∀ n, n < 8 → o.imm = 0x010 + n → gives (c.a.item n 0)) ∧
      (o.imm = 0x018 → ∃ v, gives v ∧ v.getLsbD 0 = (c.fixCur % 2 == 1) ∧ v.getLsbD 1 = c.fixOpen ∧ v.getLsbD 8 = c.win ∧ v.toNat / 2 ^ 16 = c.nfog % 2 ^ 16) ∧
      (o.imm = 0x021 →
        ((s.core s.cur.1).ops = [] → ∀ m, m < 64 →
          (n = 2 * m → item (.ofNat 64 (c.a.desc m).toNat)) ∧
          (n = 2 * m + 1 → item (.ofNat 64 ((c.a.desc m).toNat / 2 ^ 64 % 2 ^ 56 + (c.a.desc m).toNat / 2 ^ 121 * 2 ^ 57)))) ∧
        (∀ m, m < 64 → n = 0x080 + m → item (c.a.status m)) ∧
        (∀ m, m < 8 → n = 0x0C0 + m → item (if m < c.nacc then c.a.status (64 + m) else 0)) ∧
        (∀ m, m < 16 → (n = 0x100 + 2 * m → item (.ofNat 64 (c.a.k.get m 0).toNat)) ∧
          (n = 0x100 + 2 * m + 1 → item (.ofNat 64 ((c.a.k.get m 0).toNat / 2 ^ 64)))) ∧
        (∀ m, 0 < m → m < 32 → m ≠ h.atag → n = 0x120 + m → item (.ofNat 64 (c.a.tg.get m 0))) ∧
        (∀ m, m < 4 → (n = 0x140 + 4 * m → item (.ofNat 64 ((c.a.lv.get m {}).count % 2 ^ 32 + (if (c.a.lv.get m {}).active then 2 ^ 32 else 0)))) ∧
          (n = 0x140 + 4 * m + 1 → item (.ofNat 64 (c.a.lv.get m {}).start)) ∧ (n = 0x140 + 4 * m + 2 → item (.ofNat 64 (c.a.lv.get m {}).stop))) ∧
        (n = 0x160 → item (.ofNat 64 c.a.reps)) ∧ (n = 0x161 → item c.a.stepC0) ∧ (n = 0x162 → item c.a.stepC1) ∧ (n = 0x163 → item (.ofNat 64 c.a.hnext)) ∧
        (n = 0x168 → item (.ofNat 64 c.a.fa.toNat)) ∧ (n = 0x169 → item (.ofNat 64 c.a.fw.toNat)) ∧ (n = 0x16A → item (.ofNat 64 c.a.fo.toNat)) ∧
        (n = 0x16B → item (.ofNat 64 c.a.fv.toNat)) ∧ (n = 0x16C → item (.ofNat 64 c.a.fs.toNat)) ∧ (n = 0x16D → item (.ofNat 64 c.a.rm.toNat)) ∧
        (n = 0x16E → item (.ofNat 64 (c.a.seed.toNat + c.a.draw.toNat * 2 ^ 32))) ∧ (n = 0x16F → item (.ofNat 64 c.a.cbsel.toNat)) ∧
        (∀ m, m < 8 → n = 0x198 + m → item (c.a.h.get m 0)) ∧
        (∀ m i, m < 8 → i < 16 → n = 0x200 + 16 * m + i → item (c.a.item m i)) ∧
        (n = 0x300 → item 0) ∧ (∀ m, 0 < m → m < 64 → n = 0x300 + m → item (c.a.s.get m 0)) ∧ (n = 0x340 → item (.ofNat 64 (c.a.p ||| 1).toNat)) ∧
        (∀ (m : Nat) (x : Shadow), 0 < m → m < 64 →
          (c.sh0 = some x → n = 0x1300 + m → item (x.arch.s.get m 0)) ∧ (c.sh1 = some x → n = 0x2300 + m → item (x.arch.s.get m 0))) ∧
        (noItem n = true → exec (.mfsr h o) s = .next (failBundle (judged h s) s.cur.1 s.cur.2 0x72 0x021 h.slot.num 0 (pcOf s + 1)))))

/-- R176 to R179, R181, R183: in supervisor mode `mtsr` writes the register for the bundle after this one, reserved fields
discarded, and nothing else. sr.idat writes the item that sr.isel names and steps INDEX where sr.isel[16] is set; an index
that names no item, or one of a shadow set, traps as SR_ACCESS. -/
def Obligations.SystemWrites : Prop :=
  ∀ (h : Head) (o : SI) (s : State), free h s = true →
    let c := found h s
    let v := c.getS o.a
    let sets (f : Ctx → Ctx) : Prop := exec (.mtsr h o) s = .next (issued (.mtsr h o) false s id none (fun t => t.updCtx s.cur.1 s.cur.2 f))
    let n := c.isel.toNat % 2 ^ 14
    let item (f : Arch → Arch) : Prop := sets (fun d => stepsTo (n + 1) { d with a := f d.a })
    let low (x : BitVec 128) (y : Nat) : BitVec 128 := .ofNat 128 (x.toNat / 2 ^ 64 * 2 ^ 64 + y)
    let high (x : BitVec 128) (y : Nat) : BitVec 128 := .ofNat 128 (x.toNat % 2 ^ 64 + y * 2 ^ 64)
    let x := v.toNat
    c.sup = true →
    (o.imm = 0x001 → sets (fun d => { d with cause := .ofNat 64 (v.toNat % 2 ^ 51) })) ∧
    (o.imm = 0x002 → sets (fun d => { d with epc := .ofNat 64 (v.toNat % 2 ^ 24) })) ∧
    (o.imm = 0x003 → sets (fun d => { d with tval := v })) ∧
    (o.imm = 0x005 → sets (fun d => { d with tinst := .ofNat 64 (v.toNat % 2 ^ 24) })) ∧
    (o.imm = 0x020 → sets (fun d => { d with isel := .ofNat 64 (v.toNat % 2 ^ 14 + v.toNat / 2 ^ 16 % 2 * 2 ^ 16) })) ∧
    (∀ m, m < 8 → o.imm = 0x010 + m → sets (fun d => { d with a := d.a.setItem m 0 (.ofNat 64 (x % 2 ^ 44 + x / 2 ^ 63 * 2 ^ 63)) })) ∧
    (o.imm = 0x021 →
      (∀ m, m < 64 → (n = 2 * m → item (fun a => a.setDesc m (low (a.desc m) (x % 2 ^ 62)))) ∧
        (n = 2 * m + 1 → item (fun a => a.setDesc m (high (a.desc m) (x % 2 ^ 56))))) ∧
      (∀ m, m < 64 → n = 0x080 + m → item (fun a => a.setStatus m (.ofNat 64 (x % 2 ^ 59)))) ∧
      (∀ m, m < 8 → n = 0x0C0 + m → item (fun a => if m < c.nacc then a.setStatus (64 + m) (.ofNat 64 (x % 2 ^ 59)) else a)) ∧
      (∀ m, m < 16 →
        (n = 0x100 + 2 * m → item (fun a => { a with k := a.k.set m (low (a.k.get m 0) (x / 2 ^ 32 * 2 ^ 32 + x % 2 ^ 29)) 0 })) ∧
        (n = 0x100 + 2 * m + 1 → item (fun a => { a with k := a.k.set m (high (a.k.get m 0) x) 0 }))) ∧
      (∀ m, 0 < m → m < 32 → n = 0x120 + m → item (fun a => { a with tg := a.tg.set m (x % 2 ^ 8) 0 })) ∧
      (n = 0x160 → item (fun a => { a with reps := x % 2 ^ 8 })) ∧ (n = 0x161 → item (fun a => { a with stepC0 := v })) ∧
      (n = 0x162 → item (fun a => { a with stepC1 := v })) ∧ (n = 0x163 → item (fun a => { a with hnext := x % 2 ^ 3 })) ∧
      (n = 0x168 → item (fun a => { a with fa := .ofNat 18 (x % 2 ^ 11) })) ∧ (n = 0x169 → item (fun a => { a with fw := .ofNat 18 (x % 2 ^ 11) })) ∧
      (n = 0x16A → item (fun a => { a with fo := .ofNat 18 (x % 2 ^ 11) })) ∧ (n = 0x16B → item (fun a => { a with fv := .ofNat 18 (x % 2 ^ 11) })) ∧
      (n = 0x16E → item (fun a => { a with seed := .ofNat 32 x, draw := .ofNat 32 (x / 2 ^ 32) })) ∧
      (∀ m, m < 8 → n = 0x198 + m → item (fun a => { a with h := a.h.set m v 0 })) ∧
      (∀ m, m < 8 → n = 0x200 + 16 * m → item (fun a => a.setItem m 0 (.ofNat 64 (x % 2 ^ 44 + x / 2 ^ 63 * 2 ^ 63)))) ∧
      (∀ m i, m < 8 → (1 ≤ i ∧ i ≤ 4 ∨ i = 13) → n = 0x200 + 16 * m + i → item (fun a => a.setItem m i v)) ∧
      (n = 0x300 → item id) ∧ (∀ m, 0 < m → m < 64 → n = 0x300 + m → item (fun a => { a with s := a.s.set m v 0 })) ∧
      (n = 0x340 → item (fun a => { a with p := .ofNat 8 x ||| 1 })) ∧
      (noItem n = true ∨ 0x1000 ≤ n →
        exec (.mtsr h o) s = .next (failBundle (judged h s) s.cur.1 s.cur.2 0x72 0x021 h.slot.num 0 (pcOf s + 1))))

/-- R174, R183, R249, R256: the modes. In user mode `mtsr`, `eret`, `ctxout` and `cp.res` raise MODE_FAULT, in supervisor
mode `end` and the instructions that act for a user task do: the bundle does not issue, and the trap (in supervisor mode,
the end of the team) is what `failBundle` makes of cause 0x71 at its slot. That sr.tval holds the OPCODE (R348), and for
`mtsr` the register's code, is the model's reading (log entry 76). -/
def Obligations.ModeFaults : Prop :=
  ∀ (h : Head) (s : State), free h s = true → tagRoom h s = true →
    let c := found h s
    let faults (i : Instr) (v : Nat) : Prop :=
      exec i s = .next (failBundle (judged h s) s.cur.1 s.cur.2 0x71 (.ofNat 64 v) (headOf i).slot.num 0 (pcOf s + 1))
    (c.sup = false → (∀ o, faults (.mtsr h o) (o.imm % 2 ^ 12)) ∧ (∀ o, faults (.eret h o) 0x103) ∧ (∀ o, faults (.ctxout h o) 0x104) ∧
      (∀ o, faults (.cpRes h o) 0x00B)) ∧
    (c.sup = true → (∀ o, faults (.endc h o) 0x105) ∧ (∀ o, faults (.barInit h o) 0x120) ∧ (∀ o, faults (.barArrive h o) 0x121) ∧
      (∀ o, faults (.barWait h o) 0x122) ∧ (∀ o, faults (.barAw h o) 0x123) ∧ (∀ o, faults (.barQuery h o) 0x124) ∧
      (∀ o, faults (.next h o) 0x125) ∧ (∀ o, faults (.enqt h o) 0x126) ∧ (∀ o, faults (.enqm h o) 0x127) ∧
      (∀ o, faults (.deqm h o) 0x128) ∧ (∀ o, faults (.widen h o) 0x12A))

/-- R166: a misaligned load, store or atomic traps at issue as MEM_MISALIGNED with sr.tval = o, before any other check. -/
def Obligations.Misaligned : Prop :=
  ∀ (h : Head) (o : SM) (s : State), free h s = true → tagRoom h s = true →
    (memOffset (found h s) o.x o.off).toNat % 2 ^ o.w ≠ 0 →
    ∀ i ∈ [Instr.ld h o, .st h o, .amoAdd h o, .amoFadd h o, .amoMin h o, .amoMax h o, .amoMinz h o, .amoMaxz h o, .amoAnd h o,
        .amoOr h o, .amoXor h o, .amoSwap h o, .amoCas h o],
      exec i s = .next (failBundle (judged h s) s.cur.1 s.cur.2 0x40 (memOffset (found h s) o.x o.off) h.slot.num 0 (pcOf s + 1))

/-- R185: `trap` issues, and leaves TRAP_INSN pending with IMM33[15:0] as its sr.tval, the pc already at the bundle
after its own. With nothing outstanding the trap is entered behind the window of the region that it closes (R50, R184):
sr.cause, sr.epc at the bundle after its own, sr.tval, supervisor mode at VEC. In supervisor mode `trap` does not vector
(R187): the context stops, SUP_FAULT is posted, and its team fails with cause 0x70 (R345, R357). SLOT 7 is R348's; that
sr.tinst names the bundle's header is the model's reading (log entry 47). -/
def Obligations.TrapInstruction : Prop :=
  ∀ (h : Head) (o : SI) (s : State), free h s = true →
    let c := found h s
    let core := s.cur.1
    let slot := s.cur.2
    let after : Word := .ofNat 64 (movedOn (pcOf s) none (atIssue (.trap h o) false s)).a.pc
    (c.sup = false → c.st = .ready →
      ∃ t f, exec (.trap h o) s = .next t ∧ f ∈ (hand t).faults ∧ f.code = 0x70 ∧ f.async = false ∧
        f.tval = .ofNat 64 (o.imm % 2 ^ 16) ∧ trapDue (hand t) = true ∧ .ofNat 64 (hand t).a.pc = after) ∧
    (c.sup = false → c.st = .ready → c.win = false → c.ypend = false → c.accs = [] → c.res = [] → c.a.claims = [] → c.a.pend = [] →
      c.gatedItems = [] → (s.core core).ops = [] → hasSup s c.part = true →
      ∃ t u v, exec (.trap h o) s = .next t ∧ exec (.droopWindowEnd core slot) t = .next u ∧ exec (.trapEntry core slot) u = .next v ∧
        (let d := v.ctx core slot
         d.sup = true ∧ d.st = .supervisor ∧ d.spc = (s.part c.part).supcfg.toNat / 2 ^ 24 % 2 ^ 24 ∧ d.faults = [] ∧
         d.cause.toNat % 2 ^ 11 = 0x70 + 7 * 2 ^ 8 ∧ d.epc = after ∧ d.tval = .ofNat 64 (o.imm % 2 ^ 16) ∧ d.tinst = .ofNat 64 (pcOf s) ∧
         d.a.s = c.a.s ∧ d.a.p = c.a.p ∧ d.a.k = c.a.k ∧ d.a.h = c.a.h ∧ d.a.t = c.a.t ∧ v.mem = s.mem)) ∧
    (c.sup = true →
      ∃ t, exec (.trap h o) s = .next t ∧ (hand t).wait = .stopped ∧ canIssue (hand t) = false ∧ (hand t).sup = true ∧ PostsE s t c.part 0x74 ∧
        ∀ tm, s.team c.team = some tm → tm.failed = none → (t.team c.team).map (·.failed) = some (some 0x70)) ∧
    (h.inS = true → o.inRange = true → 2 ^ 16 ≤ o.imm → decodeSlot .S (encode (.trap h o)) = .error .reservedSet)

/-- R186: `eret` whose checks pass returns to user mode at sr.epc in a new fixed region. Refused, it stays in
supervisor mode with ERET_STATE in sr.cause (R187). -/
def Obligations.TrapReturn : Prop :=
  ∀ (h : Head) (o : SR) (s : State), free h s = true → (found h s).sup = true →
    let i := Instr.eret h o
    let u := (issuing i false s).updCtx s.cur.1 s.cur.2 (movedOn (pcOf s) none)
    (eretRefused u s.cur.1 s.cur.2 = none →
      ∃ t, exec i s = .next t ∧ (hand t).sup = false ∧ (hand t).st = .ready ∧ (hand t).a.pc = (found h s).epc.toNat % 2 ^ 24 ∧
        (hand t).fixOpen = true) ∧
    (∀ x, eretRefused u s.cur.1 s.cur.2 = some x →
      ∃ t, exec i s = .next t ∧ (hand t).sup = true ∧ (hand t).cause = .ofNat 64 0x73 ∧ (hand t).tval = .ofNat 64 x)

/-- R48, R54: `end` leaves its context in Ending while an inbound thread runs, `ctxout` leaves its context waiting
while an outbound one does. -/
def Obligations.EndAndOut : Prop :=
  ∀ (h : Head) (o : SR) (s : State), free h s = true →
    let op (f : EOp → Bool) : Prop := ∃ e ∈ (s.core s.cur.1).ops, e.slot = s.cur.2 ∧ f e = true
    ((found h s).sup = false → (found h s).win = false → op (·.inb) →
      ∃ t, exec (.endc h o) s = .next t ∧ (hand t).st = .ending ∧ (hand t).a.pc = pcOf s ∧ (hand t).fixOpen = false) ∧
    ((found h s).sup = true → inboundOf s s.cur.1 s.cur.2 = 0 → op (fun e => !e.inb) →
      ∃ t, exec (.ctxout h o) s = .next t ∧ (hand t).wait = .ctxout)

/-! ## Time, energy and wear (R183, R269 to R271) -/

/-- R183, R269 to R271: device time, cycles that have grown, the budget word, the joule counter and the wear word, each
for s[A] with minimum latency 8. The budget word's BAL, GRANT, WARN and THROT are those of the last close, which keeps them
for it (`GovernorEvents`). -/
def Obligations.CounterReads : Prop :=
  ∀ (h : Head) (o : SR) (s : State), free h s = true → tagRoom h s = true →
    let c := found h s
    let isl := s.island (s.islandOf s.cur.1)
    exec (.rdtime h o) s = .next (answersS (.rdtime h o) s 8 o.a (.ofNat 64 s.now)) ∧
    (∃ t n, exec (.rdcyc h o) s = .next t ∧ (s.core s.cur.1).cyc < n ∧ (t.core s.cur.1).cyc = n ∧
      (hand t).res = c.res ++ [result (.rdcyc h o) s 8 false (c.dstS o.a) ((BitVec.ofNat 64 n).setWidth 512)]) ∧
    exec (.jread h o) s = .next (answersS (.jread h o) s 8 o.a (.ofNat 64 c.joule)) ∧
    exec (.bq h o) s = .next (answersS (.bq h o) s 8 o.a (.ofNat 64 (isl.told % 2 ^ 24 + s.islandOf s.cur.1 % 64 * 2 ^ 24 +
      s.intv % 2 ^ 32 * 2 ^ 32))) ∧
    exec (.wq h o) s = .next (answersS (.wq h o) s 8 o.a (.ofNat 64 (c.cwear % 2 ^ 40 + s.life (s.phys s.cur.1) * 2 ^ 40 +
      (s.wearOf (s.phys s.cur.1)).cstate % 4 * 2 ^ 48)))

/-! ## Barriers, tasks and messages (R257 to R268) -/

/-- R81, R257 to R261, R272, R273, R307: what the bar forms do when their checks pass. An arrival is gated in the open
region; `bar.wait` goes on, at the largest time of the arrivals of its token's phase, where that phase has completed, and
waits otherwise; `bar.aw` arrives and waits, or judges the token that a yield has saved for it; `bar.query` reads the
barrier; `bar.init` sets EXPECT and the scope, and completes phases where its core counts. That a `bar.init` away from its
root reaches the root at once is log entry 28, and that a root which another team has claimed takes and answers nothing is
log entry 124: both the model's. -/
def Obligations.Barriers : Prop :=
  ∀ (h : Head) (o : SI) (s : State), free h s = true →
    let c := found h s
    let core := s.cur.1
    let n := o.imm % 2 ^ 10
    let old := (s.core core).barrier n
    let mine : Barrier := { old with team := some (old.team.getD c.team) }
    let ended (tok : Nat) : Nat := ((s.core (if old.scope = 1 then old.root else core)).barrier n).ends.get tok 0
    (passes (.barArrive h o) s = true →
      ∃ t, exec (.barArrive h o) s = .next t ∧ (t.core core).barrier n = mine ∧
        (hand t).gatedItems = c.gatedItems ++ [.arrive n c.iss (c.dstS o.a) h.atag false]) ∧
    (passes (.barWait h o) s = true → waitOver old.phases ((c.getS o.b).toNat % 2 ^ 16) = true →
      ∃ t, exec (.barWait h o) s = .next t ∧ (t.core core).barrier n = mine ∧ (hand t).st = c.st ∧ (hand t).wait = .none ∧
        (hand t).time = max (atIssue (.barWait h o) false s).time (ended ((c.getS o.b).toNat % 2 ^ 16)) ∧ (hand t).win = true) ∧
    (passes (.barWait h o) s = true → waitOver old.phases ((c.getS o.b).toNat % 2 ^ 16) = false →
      ∃ t, exec (.barWait h o) s = .next t ∧ (t.core core).barrier n = mine ∧ (hand t).st = .waiting ∧
        (hand t).wait = .barrier n (some ((c.getS o.b).toNat % 2 ^ 16)) ∧ (hand t).win = true) ∧
    (passes (.barAw h o) s = true → (∀ t, c.a.aw ≠ some (pcOf s, n, t)) →
      ∃ t, exec (.barAw h o) s = .next t ∧ (t.core core).barrier n = mine ∧ (hand t).st = .waiting ∧
        (hand t).wait = .barrier n none ∧ (hand t).win = true ∧
        (hand t).gatedItems = c.gatedItems ++ [.arrive n c.iss .nothing 0 true]) ∧
    (∀ tok, passes (.barAw h o) s = true → c.a.aw = some (pcOf s, n, tok) →
      ∃ t, exec (.barAw h o) s = .next t ∧ (t.core core).barrier n = mine ∧ (hand t).gatedItems = c.gatedItems ∧ (hand t).a.aw = none ∧ (hand t).win = true ∧
        (∀ x, tok = some x → x < 2 ^ 16 → waitOver old.phases x = true →
          (hand t).st = c.st ∧ (hand t).wait = .none ∧ (hand t).time = max (atIssue (.barAw h o) false s).time (ended x)) ∧
        ((∀ x, tok = some x → waitOver old.phases x = false) → (hand t).st = .waiting ∧ (hand t).wait = .barrier n tok)) ∧
    (passes (.barQuery h o) s = true →
      let r := (s.core (if old.scope = 1 then old.root else core)).barrier n
      ∃ t, exec (.barQuery h o) s = .next t ∧ (t.core core).barrier n = mine ∧
        (hand t).res = c.res ++ [result (.barQuery h o) s 8 false (c.dstS o.a) ((BitVec.ofNat 64 (r.expect % 2 ^ 16 +
          r.arrived % 2 ^ 16 * 2 ^ 16 + old.phases % 2 ^ 16 * 2 ^ 32 + old.scope * 2 ^ 48 + old.tx0 * 2 ^ 49 + old.ty0 * 2 ^ 53 +
          old.c * 2 ^ 57 + old.e * 2 ^ 60 + 2 ^ 63)).setWidth 512)]) ∧
    (passes (.barInit h o) s = true →
      let v := (c.getS o.b).toNat
      let sub := bits o.imm 10 1
      let e := v % 2 ^ 16
      let root := if sub = 1 then c.coreAt (bits v 16 4) (bits v 20 4) else core
      let rect (k lo w : Nat) : Nat := if sub = 1 then bits k lo w else 0
      ∃ t, exec (.barInit h o) s = .next t ∧
        (let b := (t.core core).barrier n
         b.team = mine.team ∧ b.expect = e ∧ b.scope = sub ∧ b.root = root ∧
         b.tx0 = rect v 16 4 ∧ b.ty0 = rect v 20 4 ∧ b.c = rect v 24 3 ∧ b.e = rect v 27 3 ∧
         (root = core → b.arrived = (if e = 0 then old.arrived else old.arrived % e) ∧
           b.phases = (if e = 0 then old.phases else (old.phases + old.arrived / e) % 2 ^ 16)) ∧
         (root ≠ core → b.arrived = 0 ∧ b.phases = old.phases ∧
           (barBusy s root n c.team = true → t.answers = s.answers ∧ (t.core root).barrier n = (s.core root).barrier n) ∧
           (barBusy s root n c.team = false → t.answers = s.answers ++
             [{ core := core, n := n, phases := ((t.core root).barrier n).phases, root := root, team := c.team }] ∧
             (((s.core root).barrier n).expect = 0 → ((t.core root).barrier n).arrived = ((s.core root).barrier n).arrived + old.arrived)))))

/-- R262, R264 to R268: claims, tasks, messages, joins and variants, where their checks pass. -/
def Obligations.TasksAndMessages : Prop :=
  ∀ (h : Head) (o : SR) (s : State), free h s = true →
    let c := found h s
    (passes (.next h o) s = true →
      ∃ t l, exec (.next h o) s = .next t ∧ (hand t).a.hnext = (c.a.hnext + 1) % 8 ∧
        (hand t).a.claims = l ++ [{ left := 31, h := c.a.hnext, tag := h.atag, seq := c.iss, ord := s.claimNo }] ∧ l.length = (c.a.claims.filter (·.valid)).length) ∧
    (passes (.enqt h o) s = true →
      ∃ t caps, exec (.enqt h o) s = .next t ∧ (∀ i, i < 16 → caps.get i 0 = c.getK i) ∧
        (hand t).gatedItems = c.gatedItems ++ [.enqt (s.core s.cur.1).nextId c.iss 0 (c.dstS o.a) h.atag (pcOf s + 1) (c.getS o.c) (c.getK (o.b % 16)) caps (atIssue (.enqt h o) true s).time]) ∧
    (passes (.enqm h o) s = true →
      let v := (c.getS o.b).toNat
      ∃ t, exec (.enqm h o) s = .next t ∧
        (hand t).gatedItems = c.gatedItems ++ [.enqm c.iss (c.dstS o.a) h.atag (bits v 0 4 + bits v 4 4 * 2 ^ c.ea) (bits v 8 2) (bits v 10 1 == 1) (c.getS o.c)]) ∧
    (passes (.deqm h o) s = true → c.playMsgs = [] →
      let q := (c.getS o.c).toNat % 4
      (∀ m r, c.queue q = m :: r →
        ∃ t, exec (.deqm h o) s = .next t ∧ (hand t).queue q = r ∧ (hand t).time = max (atIssue (.deqm h o) true s).time m.time ∧
          (hand t).res = c.res ++ [{ dst := .h (o.a % 8), val := m.val.setWidth 512, due := c.iss + 8, seq := c.iss, tag := 0, fixed := false },
            result (.deqm h o) s 8 false (c.dstS o.b) (BitVec.ofNat 512 (m.src % 2 ^ 8 + q * 2 ^ 8 + 2 ^ 63))]) ∧
      (c.queue q = [] → bits (c.getS o.c).toNat 2 1 = 1 →
        exec (.deqm h o) s = .next (produced (.deqm h o) s 8 false (c.dstS o.b) 0)) ∧
      (c.queue q = [] → bits (c.getS o.c).toNat 2 1 = 0 →
        ∃ t, exec (.deqm h o) s = .next t ∧ (hand t).st = .waiting ∧ (hand t).wait = .queue q (o.a % 8) o.b h.atag)) ∧
    (∀ i : SI, passes (.cpjoin h i) s = true → exec (.cpjoin h i) s = .next (issued (.cpjoin h i) false s
      (fun t => t.updCtx s.cur.1 s.cur.2 (fun d => { d with time := max d.time d.copyTime })) none id)) ∧
    (∀ (i : SI) (tm : Team) (k : Task), passes (.widen h i) s = true → s.team c.team = some tm → s.task tm.task = some k →
      ∃ t, exec (.widen h i) s = .next t ∧ t.task tm.task = some { k with pref := if bits i.imm 2 1 = 1 then none else some (i.imm % 4) })

/-! ## Header control and tile management (R119, R135, R145, R200) -/

/-- R119, R135: the control op of a header adds its write behind the pending ones, which count this issue; the write
takes effect at the boundary where its count is 0, on the register that the op names. -/
def Obligations.HeaderControl : Prop :=
  (∀ (yld arg : Nat) (s : State), free noHead s = true →
    let c := found noHead s
    let adds (i : Instr) (reg : Nat) : Prop := ∃ t, exec i s = .next t ∧
      (hand t).a.pend = c.a.pend.map (fun p => if p.sup = c.sup then { p with left := p.left - 1 } else p) ++
        [{ reg := reg, arg := arg, left := 3, sup := c.sup }]
    adds (.fmtA (bare yld) arg) 0 ∧ adds (.fmtW (bare yld) arg) 1 ∧ adds (.fmtO (bare yld) arg) 2 ∧ adds (.fmtV (bare yld) arg) 3 ∧
    adds (.fmtS (bare yld) arg) 4 ∧ adds (.rm (bare yld) arg) 5 ∧ adds (.seed (bare yld) arg) 6 ∧ adds (.cbsel (bare yld) arg) 7 ∧
    adds (.stepset (bare yld) arg) (8 + arg % 2)) ∧
  (∀ (c : Ctx) (arg : Nat) (sup : Bool) (r : Nat), c.res = [] → c.a.claims = [] → c.a.pend = [{ reg := r, arg := arg, left := 0, sup := sup }] →
    let a := c.boundary.a
    let v := BitVec.ofNat 18 arg
    a.pend = [] ∧ (r = 0 → a.fa = v) ∧ (r = 1 → a.fw = v) ∧ (r = 2 → a.fo = v) ∧ (r = 3 → a.fv = v) ∧ (r = 4 → a.fs = v) ∧ (r = 5 → a.rm = v) ∧
    (r = 6 → a.draw = 0 ∧
      (bits arg 16 1 = 0 → a.seed = c.a.seed.extractLsb' 16 16 ++ BitVec.ofNat 16 arg) ∧
      (bits arg 16 1 = 1 → a.seed = BitVec.ofNat 16 arg ++ c.a.seed.extractLsb' 0 16)) ∧
    (r = 7 → a.cbsel = v) ∧
    (r = 8 → a.stepC0 = BitVec.ofInt 64 ((BitVec.ofNat 16 (bits arg 2 16)).toInt * (if bits arg 1 1 = 1 then 4096 else 32))) ∧
    (r = 9 → a.stepC1 = BitVec.ofInt 64 ((BitVec.ofNat 16 (bits arg 2 16)).toInt * (if bits arg 1 1 = 1 then 4096 else 32)))) ∧
  ∀ (f : Frame) (i : Instr) (reg arg rep : Nat) (c : Ctx), f.ctl = some i → ctlWrite i = some (reg, arg) → rep ≠ 0 → noteCtl f rep c = c

/-- R200: the tile management instructions, where their checks pass. Descriptors of other tiles stay. A `tdef` index at or
beyond the table's length is TILE_DESC; that sr.tval names no bit there is the model's (log entry 112). -/
def Obligations.TileManagement : Prop :=
  ∀ (h : Head) (o : VT) (s : State), free h s = true →
    let c := found h s
    let td := c.a.desc o.td
    let ta := c.a.desc o.ta
    let leaves (i : Instr) (p : Arch → Prop) : Prop := ∃ t, exec i s = .next t ∧ p (hand t).a ∧ ∀ u, u ≠ o.td → (hand t).a.desc u = c.a.desc u
    (∀ ob hd d, s.objOf c.part c.codeOid = some ob → ob.hdr = some hd → hd.tiles[o.ta]? = some d → passes (.tdef h o) s = true →
      leaves (.tdef h o) (fun a => a.tstate o.td = 0 ∧ a.status o.td = 0 ∧ dBase (a.desc o.td) = dBase d ∧ dView (a.desc o.td) = dView d ∧
        dRows (a.desc o.td) = dRows d ∧ dCols (a.desc o.td) = dCols d ∧ dVRows (a.desc o.td) = dVRows d ∧ dVCols (a.desc o.td) = dVCols d ∧
        dPitch (a.desc o.td) = dPitch d ∧ dFmt (a.desc o.td) = dFmt d ∧ dStep (a.desc o.td) = dStep d)) ∧
    (∀ ob hd, s.objOf c.part c.codeOid = some ob → ob.hdr = some hd → o.td < 64 → hd.tiles.length ≤ o.ta →
      exec (.tdef h o) s = .next (failBundle (judged h s) s.cur.1 s.cur.2 0x20 (.ofNat 64 o.td) h.slot.num 0 (pcOf s + 1))) ∧
    (passes (.tshape h o) s = true → bits o.flags 0 1 = 0 →
      leaves (.tshape h o) (fun a => dVRows (a.desc o.td) = min (dVRows ta) (dRows td) ∧ dVCols (a.desc o.td) = min (dVCols ta) (dCols td) ∧
        dBase (a.desc o.td) = dBase td ∧ dFmt (a.desc o.td) = dFmt td ∧ a.tstate o.td = c.a.tstate o.td)) ∧
    (passes (.tview h o) s = true →
      leaves (.tview h o) (fun a => dView (a.desc o.td) = (o.flags % 2 == 1) ∧ dBase (a.desc o.td) = dBase td ∧ dVRows (a.desc o.td) = dVRows td ∧
        dVCols (a.desc o.td) = dVCols td)) ∧
    (passes (.tstate h o) s = true →
      leaves (.tstate h o) (fun a => a.tstate o.td = o.flags % 4 ∧ dBase (a.desc o.td) = dBase td ∧ dVRows (a.desc o.td) = dVRows td ∧
        dVCols (a.desc o.td) = dVCols td)) ∧
    (passes (.tstep h o) s = true → bits o.flags 0 1 = 0 →
      leaves (.tstep h o) (fun a => dStep (a.desc o.td) = dStep ta ∧ dBase (a.desc o.td) = dBase td ∧ dVRows (a.desc o.td) = dVRows td ∧
        dVCols (a.desc o.td) = dVCols td)) ∧
    (∀ (v0 v1 : XVal) (i : Instr), bits o.flags 0 1 = 1 → i = .tshape h o ∨ i = .tstep h o → passes i s = true →
      (∀ j, (elemEnv o i s).elemBad o.ta 0 j = false) → ((elemEnv o i s).decode (fvRd (elemEnv o i s)) o.ta 0 0).1 = v0 →
      ((elemEnv o i s).decode (fvRd (elemEnv o i s)) o.ta 0 1).1 = v1 →
      (i = .tshape h o → leaves i (fun a => dVRows (a.desc o.td) = clampCount v0 (dRows td) ∧ dVCols (a.desc o.td) = clampCount v1 (dCols td))) ∧
      (i = .tstep h o → leaves i (fun a => dStep (a.desc o.td) = clampStep v0)))

/-! ## Engine operations (R191, R196, R200 to R255) -/

/-- R119, R191, R196, R200 to R211: a vector operation whose checks pass goes to its engine with the formats in force,
its destination filling; `vtopk` has two destinations, and `vquant` writes the scale tile of a block-scaled one. -/
def Obligations.VectorStarts : Prop :=
  ∀ (h : Head) (cf : Nat) (o : VT) (s : State), free h s = true →
    (∀ i ∈ vectorOps h cf o, passes i s = true → Starts i s false [o.td] []) ∧
    (passes (.vtopk h cf o) s = true → Starts (.vtopk h cf o) s false [o.td, o.tb] []) ∧
    (passes (.vquant h o) s = true → o.td < 63 → isBlock (dFmt ((found h s).a.desc o.td)) = true → Starts (.vquant h o) s false [o.td, o.td + 1] [])

/-- R191, R213 to R228: what the matrix instructions do at their issue where their checks pass. A load empties the plane
that PLANE names under ROLE and takes it for its slot; `mswap` exchanges the roles; `mcbl` and `vcbl` write a table. -/
def Obligations.MatrixStarts : Prop :=
  ∀ (h : Head) (o : MT) (s : State), free h s = true →
    let c := found h s
    (∀ i ∈ [Instr.mloadw h o, .mloadwt h o], passes i s = true → o.y < 64 → Starts i s true [] [] ∧
      ∃ t, exec i s = .next t ∧
        let p := (t.core s.cur.1).plane (namedPlane o i s)
        p.loaded = false ∧ p.loading = true ∧ p.owner = some s.cur.2 ∧ (p.kk, p.nn) = loadShape i (c.a.desc o.y) ∧ p.fmt = dFmt (c.a.desc o.y)) ∧
    (passes (.mma h o) s = true → Starts (.mma h o) s true [o.x] []) ∧
    (passes (.mzero h o) s = true → Starts (.mzero h o) s true [o.x] []) ∧
    (passes (.mdrain h o) s = true → Starts (.mdrain h o) s (o.acc == 1) (if o.acc = 1 then [o.x, o.y] else [o.x]) []) ∧
    (passes (.mscl h o) s = true → Starts (.mscl h o) s true [o.x] []) ∧
    (passes (.moutl h o) s = true → Starts (.moutl h o) s false [o.x] []) ∧
    (passes (.mstat h o) s = true → Starts (.mstat h o) s false [o.x] []) ∧
    (passes (.mswap h o) s = true → exec (.mswap h o) s =
      .next (issued (.mswap h o) false s (fun t => t.updCtx s.cur.1 s.cur.2 (fun d => { d with a := { d.a with role := 1 - c.a.role } })) none id)) ∧
    (passes (.mcbl h o) s = true → (∀ j, j < 16 → (tableEnv (.mcbl h o) s).elemBad o.y 0 j = false) →
      ∃ t, exec (.mcbl h o) s = .next t ∧ ∀ j, j < 16 →
        (if o.plane = 1 then (hand t).a.cbW else (hand t).a.cbA).get j 0 = BitVec.ofNat 16 (((tableEnv (.mcbl h o) s).code o.y 0 j).getD 0)) ∧
    (passes (.vcbl h o) s = true → (∀ j, j < 16 → (tableEnv (.vcbl h o) s).elemBad o.y 0 j = false) →
      ∃ t, exec (.vcbl h o) s = .next t ∧ ∀ j, j < 16 →
        let e := tableEnv (.vcbl h o) s
        (if fld c.a.cbsel 0 1 = 1 then (hand t).a.cbW else (hand t).a.cbA).get j 0 =
          if j < dVCols (e.desc o.y) ∧ 0 < dVRows (e.desc o.y) then BitVec.ofNat 16 (roundF bf16 rne false false (e.decode (fvRd e) o.y 0 j).1).code else 0)

/-- R191, R229, R232 to R247: a copy whose checks pass goes to its engine with its memory offset: an inbound copy's tile
is filling, an outbound copy's source draining, and outbound and memory copies are gated in an open region. -/
def Obligations.CopyStarts : Prop :=
  ∀ (h : Head) (o : CP) (s : State), free h s = true →
    let c := found h s
    let off : Word := c.a.s.get o.x 0 + (BitVec.ofNat 14 o.off).signExtend 64
    (∀ i ∈ [Instr.cpLd h o, .cpGath h o, .cpFill h o], passes i s = true → Starts i s false [o.t] []) ∧
    (∀ i ∈ [Instr.cpSt h o, .cpSs h o, .cpScat h o, .cpBc h o, .cpAcc h o], passes i s = true →
      Starts i s true [] (if o.t < 64 then [o.t] else [])) ∧
    (passes (.cpMm h o) s = true → Starts (.cpMm h o) s true [] []) ∧
    (passes (.cpPf h o) s = true → Starts (.cpPf h o) s false [] []) ∧
    (∀ i ∈ [Instr.cpLd h o, .cpGath h o, .cpFill h o, .cpSt h o, .cpSs h o, .cpScat h o, .cpBc h o, .cpAcc h o, .cpMm h o, .cpPf h o],
      passes i s = true → ∃ t e, exec i s = .next t ∧ (t.core s.cur.1).ops = (s.core s.cur.1).ops ++ [e] ∧ e.copy = true ∧
        e.cap.off = off ∧ e.cap.yval = c.a.s.get o.y 0)

/-- R237, R248, R249: pattern loads, cancels and resumes, where their checks pass. A cancelled copy that has not begun,
is held or gated is gone; one that runs is asked to stop; every other operation stays. A resumed outbound copy is no
longer held. -/
def Obligations.CopyControl : Prop :=
  ∀ (h : Head) (o : CP) (s : State), free h s = true →
    let c := found h s
    let core := s.cur.1
    let x := c.getS o.x
    let hit (e : EOp) : Prop := e.slot = s.cur.2 ∧ e.copy = true ∧ e.tag ≠ 0 ∧ x.getLsbD e.tag = true
    (passes (.cpPat h o) s = true →
      ∃ t a, exec (.cpPat h o) s = .next t ∧ (hand t).patLoad.get (o.t % 8) 0 = c.patLoad.get (o.t % 8) 0 + 1 ∧ (hand t).accs = c.accs ++ [a] ∧
        a.dst = .pat (o.t % 8) ∧ a.minLat = 12 ∧ a.tag = h.atag ∧ a.seq = c.iss) ∧
    (passes (.cpCancel h o) s = true → (∀ n, n < 8 → c.a.progValid n = false) →
      ∃ t, exec (.cpCancel h o) s = .next t ∧
        (∀ e ∈ (t.core core).ops, hit e → e.stopping = true ∧ e.gated = false ∧ e.held = false ∧ e.predOff = false) ∧
        (∀ e ∈ (s.core core).ops, (∀ y ∈ (s.core core).ops, hit y → y.id ≠ e.id) → e ∈ (t.core core).ops)) ∧
    (∀ y, passes (.cpRes h o) s = true → bits x.toNat 5 1 = 1 → heldCopy (here (.cpRes h o) s) (judged h s) x = some y →
      (∀ k ∈ copyCaps y.ins, capValid s c.part (c.a.k.get k 0) = true) →
      ∃ t, exec (.cpRes h o) s = .next t ∧
        (∀ e ∈ (t.core core).ops, e.id = y.id → e.held = false) ∧ ∀ e ∈ (s.core core).ops, e.id ≠ y.id → e ∈ (t.core core).ops)

/-! ## Issue and landing (R41 to R43, R105 to R117) -/

/-- R108, R42, R107: BUNDLE_ISSUE runs the bundle at the pc of the core's current context once its words are fetched, and a
step runs what stands first on the agenda. A fetch changes no byte of memory. Where the header and the word behind it are those of a well-formed slot instruction, or the header
is that of a well-formed control op, issuing the bundle is executing that instruction. That a step takes the agenda's
head is the model's own (log entry 2). -/
def Obligations.StepRunsDecoded : Prop :=
  (∀ (s : State) (i : Instr) (rest : List (Nat × Instr)), s.agenda = (0, i) :: rest → (s.running = false ∨ s.now ≤ (forced s).1) →
    step s = exec i { s with agenda := rest }) ∧
  ∀ (s : State) (core : Nat) (i : Instr), s.power = .on → rotates ((s.core core).slot (s.core core).cur) = false → wellFormed i = true →
    let c := (s.core core).slot (s.core core).cur
    let u := fetched s core
    let word (n : Nat) : Nat := codeWord u c.part c.codeOid (c.pcNow + n)
    u.mem = s.mem ∧ u.cur = (core, (s.core core).cur) ∧
    ((slotParts i).isSome = true → c.pcNow + 2 ≤ codeLen u c.part c.codeOid →
      word 0 = (soloAttr (headOf i).slot.num).put 0 0 → word 1 = encode i → exec (.bundleIssue core) s = exec i u) ∧
    ((ctlParts i).isSome = true → c.pcNow + 1 ≤ codeLen u c.part c.codeOid → word 0 = encode i → exec (.bundleIssue core) s = exec i u)

/-- R42, R107, R108: at a rotation point the core takes a context that can issue and that goes before every other that can;
a core without one does nothing. Every slot instruction issues by the one attempt that bundles issue by. A bundle whose
words fail a decoding check traps with that check's cause and nothing issued. -/
def Obligations.BundleIssue : Prop :=
  (∀ (i : Instr) (s : State), (slotParts i).isSome = true → exec i s = .next (issueOne i (slotSem i) s)) ∧
  (∀ (k : Core) (i : Nat), choose k = some i → i < 4 ∧ canIssue (k.slot i) = true ∧
    ∀ j, j < 4 → canIssue (k.slot j) = true → j ≠ i → before k j i = false) ∧
  (∀ (k : Core), choose k = none → ∀ j, j < 4 → canIssue (k.slot j) = false) ∧
  ∀ (s : State) (core : Nat), s.power = .on →
    let k := s.core core
    (rotates (k.slot k.cur) = false →
      exec (.bundleIssue core) s = .next (attempt (fetched s core) core k.cur (fetch slotSem core k.cur))) ∧
    (∀ i, rotates (k.slot k.cur) = true → choose k = some i → trapDue (k.slot i) = false → ∃ t, exec (.bundleIssue core) s = .next t ∧ t.cur = (core, i)) ∧
    (rotates (k.slot k.cur) = true → choose k = none → exec (.bundleIssue core) s = .next s) ∧
    (∀ e, rotates (k.slot k.cur) = false →
      let v := fetched s core
      let c := hand v
      let b := atBoundary c
      let u := setHand v b
      let word (n : Nat) : Nat := codeWord v b.part b.codeOid (b.pcNow + n)
      canIssue c = true → trapDue c = false → (c.sup && c.faults.any (·.sup)) = false → (b.sup = true ∨ (b.a.claimLate = false ∧ b.markDue = false)) →
      let traps (code tval sl waddr : Nat) : Prop := exec (.bundleIssue core) s = .next (failBundle u core k.cur code (.ofNat 64 tval) sl 0 waddr)
      (codeLen v b.part b.codeOid ≤ b.pcNow → traps 0x07 b.pcNow 7 b.pcNow) ∧
      (b.pcNow < codeLen v b.part b.codeOid → decodeHeader (word 0) = .error e → traps e.code b.pcNow 7 b.pcNow) ∧
      (∀ sl : Slot, b.pcNow + 2 ≤ codeLen v b.part b.codeOid → word 0 = (soloAttr sl.num).put 0 0 → decodeSlot sl (word 1) = .error e →
        traps e.code (b.pcNow + 1) sl.num (b.pcNow + 1)))

/-- R109, R110, R112: when a result reaches its register. At the boundary of its own issue a due result is written, unless
a producer of the same register that issued later has written it, and its tag instance is free; before that it waits,
unless a wait on its tag or a producer distance that covers it writes it: that such a wait does so before the latency has
passed is the model's reading (log entry 60). s0 and p0 discard. -/
def Obligations.ResultsLand : Prop :=
  ∀ (c : Ctx) (r : Pend), c.res = [r] → c.a.pend = [] → c.a.claims = [] →
    let lands (d : Ctx) : Prop := d.res = [] ∧
      (∀ n, n ≠ 0 → r.dst = .s n → d.a.s.get n 0 = if c.a.lastw.get n 0 ≤ r.seq then r.val.setWidth 64 else c.a.s.get n 0) ∧
      (∀ n, r.dst = .s n → ∀ m, m ≠ n → d.a.s.get m 0 = c.a.s.get m 0) ∧
      (∀ n, 0 < n → n < 8 → r.dst = .p n → c.a.lastw.get (64 + n) 0 ≤ r.seq → d.getP n = r.val.getLsbD 0) ∧
      (∀ n, r.dst = .k n → c.a.lastw.get (72 + n) 0 ≤ r.seq → d.a.k.get n 0 = r.val.setWidth 128) ∧
      (∀ n, r.dst = .h n → c.a.lastw.get (88 + n) 0 ≤ r.seq → d.a.h.get n 0 = r.val.setWidth 64) ∧
      (r.dst = .nothing ∨ r.dst = .s 0 ∨ r.dst = .p 0 → d.a.s = c.a.s ∧ d.a.p = c.a.p ∧ d.a.k = c.a.k ∧ d.a.h = c.a.h) ∧
      (r.tag ≠ 0 → d.tagCount r.tag = c.tagCount r.tag - 1)
    (r.due ≤ c.iss → lands c.boundary) ∧
    (c.iss < r.due → c.boundary.res = [r] ∧ c.boundary.a.s = c.a.s ∧ c.boundary.a.p = c.a.p) ∧
    (∀ h : Head, r.tag ∈ waited h → h.pd = 0 → lands (landed h c)) ∧
    (∀ h : Head, waited h = [] → h.pd ≠ 0 → r.fixed = true → r.seq + h.pd ≤ c.iss → lands (landed h c)) ∧
    (∀ n, c.dstS n = if n = 0 then .nothing else if c.sup ∧ n ≤ 7 then .bankS n else .s n)

/-- R108, R111, R113: a slot whose predicate is false and whose own holds allow it writes nothing, makes no access and
frees its tag when it would have completed; a bundle that waits on a tag with an instance outstanding is held, with its pc and issue count as they
were. -/
def Obligations.HoldsAndPredicates : Prop :=
  (∀ (h : Head) (s : State), h.pneg < 2 → free { h with pneg := 1 - h.pneg } s = true → tagRoom h s = true →
    (∀ o, exec (.add h o) s = .next (produced (.add h o) s 1 true .nothing 0)) ∧
    (∀ o, exec (.mul h o) s = .next (produced (.mul h o) s 3 true .nothing 0)) ∧
    (∀ o, exec (.cmp h o) s = .next (produced (.cmp h o) s 1 true .nothing 0)) ∧
    (∀ o, accessHold o false (here (.ld h o) s) (judged h s) = false → exec (.ld h o) s = .next (produced (.ld h o) s 12 false .nothing 0)) ∧
    (∀ o, exec (.rdtime h o) s = .next (produced (.rdtime h o) s 8 false .nothing 0)) ∧
    (∀ o, exec (.br h o) s = .next (issued (.br h o) false s id none id)) ∧
    (∀ o, exec (.mtsr h o) s = .next (issued (.mtsr h o) false s id none id))) ∧
  ∀ (i : Instr) (s : State), (slotParts i).isSome = true →
    let w := waited (headOf i)
    let b := atBoundary (hand s)
    canIssue (hand s) = true → trapDue (hand s) = false → ((hand s).sup && (hand s).faults.any (·.sup)) = false →
    (b.sup = true ∨ (b.a.claimLate = false ∧ b.markDue = false)) → (∃ t ∈ w, (landTags b w).tagCount t ≠ 0) →
    (∀ x ∈ b.a.claims, x.valid = true → x.tag ∉ w) →
    exec i s = .next (setHand s { landTags b w with held := b.held + 1 })

/-- The frame of R156 to R165 and R174: an integer, predicate, control, capability or counter instruction that passes
its checks leaves every byte of memory and scratchpad, every other context, and of its own context every register,
tile, status word, accumulator and special register as its bundle found them. Its result is on its way; pc, loop levels
and tags move on. -/
def Obligations.IssueFrame : Prop :=
  ∀ (h : Head) (r : SR) (i : SI) (l : SL) (b : SB) (m : SM) (s : State), free h s = true →
    ∀ x ∈ registerOps h r i l b m, passes x s = true →
      let c := found h s
      ∃ t, exec x s = .next t ∧
        (∀ a, Tab.get t.mem a 0 = Tab.get s.mem a 0) ∧ (∀ core a, Tab.get (t.core core).sram a 0 = Tab.get (s.core core).sram a 0) ∧
        (∀ core slot, (core, slot) ≠ s.cur → t.ctx core slot = s.ctx core slot) ∧
        (∀ core, (t.core core).ops = (s.core core).ops ∧ (t.core core).bar = (s.core core).bar) ∧
        t.objs = s.objs ∧ t.parts = s.parts ∧ t.islands = s.islands ∧ t.teams = s.teams ∧ t.tasks = s.tasks ∧ t.out = s.out ∧
        (let d := hand t
         d.a.s = c.a.s ∧ d.a.p = c.a.p ∧ d.a.k = c.a.k ∧ d.a.h = c.a.h ∧ d.a.t = c.a.t ∧ d.a.st = c.a.st ∧ d.acc = c.acc ∧
         d.a.role = c.a.role ∧ d.a.cbA = c.a.cbA ∧ d.a.cbW = c.a.cbW ∧ d.a.fa = c.a.fa ∧ d.a.fv = c.a.fv ∧ d.a.rm = c.a.rm ∧
         d.bankS = c.bankS ∧ d.bankK = c.bankK ∧ d.cause = c.cause ∧ d.epc = c.epc ∧ d.tval = c.tval ∧ d.tinst = c.tinst ∧ d.isel = c.isel ∧
         d.iss = c.iss + 1 ∧ d.accs = c.accs ∧ d.faults = c.faults ∧ (d.res = c.res ∨ ∃ p, d.res = c.res ++ [p]))

/-! ## Encoding (R102 to R136) -/

/-- R104 to R106, R127 to R136: every well-formed instruction's encoding decodes to it, and a word that decodes is the
encoding of what it decodes to, which is well-formed: no bit of a word is dropped and no two words mean the same. -/
def Obligations.DecodeEncode : Prop :=
  (∀ i, wellFormed i = true → ∀ h op body, slotParts i = some (h, op, body) → encode i < 2 ^ 80 ∧ decodeSlot h.slot (encode i) = .ok i) ∧
  (∀ i, wellFormed i = true → ∀ a op arg, ctlParts i = some (a, op, arg) → encode i < 2 ^ 80 ∧ decodeHeader (encode i) = .ok (a, some i)) ∧
  (∀ slot w i, w < 2 ^ 80 → decodeSlot slot w = .ok i → encode i = w ∧ wellFormed i = true ∧ (headOf i).slot = slot) ∧
  ∀ w a i, w < 2 ^ 80 → decodeHeader w = .ok (a, some i) → encode i = w ∧ wellFormed i = true

/-- Words that the spec prints (spec/05, 06, 08, 10, 11, 12, 16, 22) decode to the instructions printed beside them. -/
def Obligations.DecodeWords : Prop :=
  let plain (slot : Slot) (tag : Nat) : Head := { slot := slot, pd := 0, atag := tag, w0 := 0, w1 := 0, pneg := 0, pidx := 0 }
  decodeHeader 0xF8200700000000000000 = .ok ({ present := 48, sticky := 16, rep := 3, fix := 1, hw := 0, yld := 0 }, none) ∧
  decodeSlot .S 0x00080000028A00000001 = .ok (.addi (plain .S 0) { a := 5, b := 5, imm := 1 }) ∧
  decodeSlot .S 0x05002800039880200168 =
    .ok (.ld (plain .S 5) { a := 7, k := 3, x := 4, off := 64, v := 0, w := 2, ext := 1, ty := 2, hint := 2, r := 0 }) ∧
  decodeSlot .S 0x09284800000000000000 = .ok (.next (plain .S 9) { a := 0, b := 0, c := 0, d := 0, r := 0 }) ∧
  decodeSlot .S 0x0A0810000C0000000000 = .ok (.jread (plain .S 2) { a := 24, b := 0, c := 0, d := 0, r := 0 }) ∧
  decodeSlot .V0 0x24880000010181040000 =
    .ok (.vfma (plain .V0 0) 1 { td := 4, ta := 3, tb := 1, tc := 2, mcls := 0, seg := 0, dist := 0, msel := 0, flags := 0 }) ∧
  decodeSlot .M 0x60183000104200004000 = .ok (.mma (plain .M 6) { x := 65, y := 4, z := 0, w := 0, zv := 0, wv := 0, acc := 1, plane := 0, r := 0 }) ∧
  decodeSlot .C0 0x80002000020832404040 = .ok (.cpLd (plain .C0 4) { t := 8, k := 2, x := 3, y := 9, off := 64, con := 0, pat := 1, r := 0 }) ∧
  decodeHeader 0xEC000000040189000000 =
    .ok ({ present := 24, sticky := 0, rep := 0, fix := 0, hw := 0, yld := 0 }, some (.fmtA { present := 24, sticky := 0, rep := 0, fix := 0, hw := 0, yld := 0 } 0x189))

/-! ## The machine as a whole -/

/-- What reset leaves (R3, R17, R26, R257, R292, R302, R323, R326, R405): the powered, booted machine at time 0 with the
first close of an interval ahead, every slot Free, every barrier and register at rest, no object, task or team, identity
remaps, islands at 50 with their limit at 80. Memory with nothing listed is the model's (log entry 5); so are the time 0,
the first close at 10000 ns, and the empty scratchpad, L1 and rings (log entry 7). -/
def Obligations.ResetValues : Prop :=
  let s := State.reset
  s.now = 0 ∧ s.nextClose = 10000 ∧ s.power = .on ∧ s.mem = [] ∧ memoryForm s = true ∧ s.bp = 562 ∧ s.pkgcon = 0x6927101C20 ∧ s.out = [] ∧
    (∀ core slot, (s.ctx core slot).st = .free ∧ (s.ctx core slot).wait = .none ∧ (s.ctx core slot).sup = false) ∧
    (∀ core, (s.core core).ops = [] ∧ (s.core core).bar = [] ∧ (s.core core).sram = [] ∧ (s.core core).l1 = []) ∧
    (∀ oid, s.obj oid = none) ∧ (∀ n, s.task n = none ∧ s.team n = none) ∧
    (∀ core, core < 256 → s.phys core = 72 * dieOf core + 8 * (core / 16 % 8) + core % 8) ∧
    (∀ n, n < 48 → (s.island n).vset = 50 ∧ (s.island n).vmax = 80 ∧ (s.island n).mode = 0 ∧ (s.island n).bal = 0 ∧ (s.island n).stepTo = none) ∧
    (∀ p, (s.part p).pset = 0 ∧ (s.part p).partcon = 7200 ∧ (s.part p).supcfg = 0 ∧ (s.part p).objbusy = false ∧ (s.part p).qs = [])

/-- Every step keeps every byte store in its canonical form: the model's own invariant, on which equality of memories
rests (log entry 5). -/
def Obligations.StepKeepsMemoryForm : Prop :=
  ∀ s s' : State, memoryForm s = true → step s = .next s' → memoryForm s' = true

/-- R50, R175 to R177, R182, R184, R327: taking a trap. With nothing outstanding the entry writes sr.cause, sr.epc,
sr.tval and sr.tinst, loads the supervisor bank and goes on at VEC in supervisor mode, the user registers as they were;
a partition without supervisor code ends the team instead; a yield has cause 0x78 with slot 7; an open region closes
first. -/
def Obligations.TrapEntryVectors : Prop :=
  ∀ (s : State) (core slot : Nat),
    let c := s.ctx core slot
    let p := s.part c.part
    let enters (v : Word) (tval tinst : Word) : Prop :=
      ∃ t, exec (.trapEntry core slot) s = .next t ∧
        (let d := t.ctx core slot
         d.sup = true ∧ d.st = .supervisor ∧ d.wait = .none ∧ d.cause = v ∧ d.epc = .ofNat 64 c.a.pc ∧ d.tval = tval ∧ d.tinst = tinst ∧
         d.spc = p.supcfg.toNat / 2 ^ 24 % 2 ^ 24 ∧ d.bankK = p.savecap1 ++ p.savecap0 ∧ d.getS 1 = .ofNat 64 c.tidx ∧ d.faults = [] ∧
         d.a.s = c.a.s ∧ d.a.p = c.a.p ∧ d.a.k = c.a.k ∧ d.a.h = c.a.h ∧ d.a.t = c.a.t ∧ d.a.pc = c.a.pc)
    (c.st = .ready → c.sup = false → clear c = true → (s.core core).ops = [] →
      (∀ f, c.faults = [f] → (f.id < 2 ^ 64 ∨ c.ypend = false) →
        (hasSup s c.part = true →
          enters (.ofNat 64 (f.code % 128 + (if f.async then 2 ^ 7 else 0) + f.slot % 8 * 2 ^ 8 + userRep s c % 256 * 2 ^ 11 + f.k % 2 ^ 32 * 2 ^ 19))
            f.tval (.ofNat 64 f.tinst)) ∧
        (hasSup s c.part = false → ∃ t, exec (.trapEntry core slot) s = .next t ∧ (t.ctx core slot).wait = .stopped ∧
          ∀ tm, s.team c.team = some tm → tm.failed = none → (t.team c.team).map (·.failed) = some (some f.code))) ∧
      (c.faults = [] → c.ypend = true → hasSup s c.part = true →
        enters (.ofNat 64 (0x78 + 2 ^ 7 + 7 * 2 ^ 8 + userRep s c % 256 * 2 ^ 11)) 0 (.ofNat 64 c.a.pc))) ∧
    (trapDue c = true → c.fixOpen = true → c.win = false →
      ∃ t, exec (.trapEntry core slot) s = .next t ∧ (t.ctx core slot).fixOpen = false ∧ (t.ctx core slot).win = true ∧
        (t.ctx core slot).sup = false ∧ ∀ o ∈ (t.core core).ops, o.slot = slot → o.inb = true → o.held = true)

/-- R119, R145: a format write whose issues have passed takes effect in its register; the others wait on. -/
def Obligations.FormatWrites : Prop :=
  ∀ (s : State) (core slot : Nat),
    let c := s.ctx core slot
    ∃ t, exec (.formatWriteEffect core slot) s = .next t ∧
      (let d := t.ctx core slot
       d.a.pend = c.a.pend.filter (fun w => w.left != 0) ∧ d.a.s = c.a.s ∧ d.a.t = c.a.t ∧ t.mem = s.mem ∧
       (c.a.pend.filter (fun w => w.left == 0) = [] → d.a.fa = c.a.fa ∧ d.a.fw = c.a.fw ∧ d.a.fo = c.a.fo ∧ d.a.fv = c.a.fv ∧ d.a.rm = c.a.rm) ∧
       ∀ w, c.a.pend.filter (fun w => w.left == 0) = [w] →
         (w.reg = 0 → d.a.fa = .ofNat 18 w.arg ∧ d.a.fw = c.a.fw) ∧ (w.reg = 1 → d.a.fw = .ofNat 18 w.arg ∧ d.a.fa = c.a.fa) ∧
         (w.reg = 2 → d.a.fo = .ofNat 18 w.arg) ∧ (w.reg = 3 → d.a.fv = .ofNat 18 w.arg) ∧ (w.reg = 4 → d.a.fs = .ofNat 18 w.arg) ∧
         (w.reg = 5 → d.a.rm = .ofNat 18 w.arg) ∧ (w.reg = 7 → d.a.cbsel = .ofNat 18 w.arg) ∧
         (w.reg = 6 → d.a.draw = 0 ∧ d.a.seed =
           (if w.arg / 2 ^ 16 % 2 = 0 then c.a.seed.extractLsb' 16 16 ++ BitVec.ofNat 16 w.arg else BitVec.ofNat 16 w.arg ++ c.a.seed.extractLsb' 0 16)) ∧
         (w.reg = 8 → d.a.stepC0 = .ofInt 64 ((BitVec.ofNat 16 (w.arg / 4)).toInt * (if w.arg / 2 % 2 = 1 then 4096 else 32))) ∧
         (w.reg = 9 → d.a.stepC1 = .ofInt 64 ((BitVec.ofNat 16 (w.arg / 4)).toInt * (if w.arg / 2 % 2 = 1 then 4096 else 32))))

/-- R45, R46, R262, R263, R272: a claim takes the next GRAIN of its team's range entry, or after a rollback what it took
before; once served it lands in its hand-off register at its boundary, or at once in a wait on its tag, whatever its count
has left: the model's reading (log entry 60), as is the time that passes before such an event (log entry 3). -/
def Obligations.ClaimsAndLandings : Prop :=
  ∀ (s : State) (core slot : Nat) (x : Claim),
    let c := s.ctx core slot
    c.a.claims = [x] → x.valid = true →
    (x.served = true → c.sup = false → stays c = true →
      (c.st = .ready ∧ x.left = 0 ∨ c.st = .waiting ∧ c.wait = .claim x.tag) →
      ∃ t, exec (.nextLanding core slot) s = .next t ∧
        (let d := t.ctx core slot
         d.a.claims = [] ∧ d.st = .ready ∧ (x.tag ≠ 0 → d.tagCount x.tag = c.tagCount x.tag - 1) ∧ d.a.s = c.a.s ∧
         (c.a.lastw.get (88 + x.h) 0 ≤ x.seq → d.a.h.get x.h 0 = .ofNat 64 (x.lo % 2 ^ 32 + x.hi % 2 ^ 32 * 2 ^ 32)))) ∧
    (x.served = false → claimants s = [(core, slot)] →
      ∃ t, exec .rangeClaim s = .next t ∧
        (let takes (lo hi : Nat) : Prop := (t.ctx core slot).a.claims = [{ x with served := true, lo := lo, hi := hi }]
         (∀ lo hi r, c.playClaims = (lo, hi) :: r → takes lo hi ∧ t.team c.team = s.team c.team) ∧
         (c.playClaims = [] →
           (∀ tm k f e, s.team c.team = some tm → tm.rangeE = some (f, e) → s.task tm.task = some k →
             takes f (min (f + k.grain) e) ∧ (t.team c.team).map (·.rangeE) = some (some (min (f + k.grain) e, e))) ∧
           (∀ tm, s.team c.team = some tm → tm.rangeE = none → takes 0 0))))

/-- R251, R272, R308: a droop-check window that ends without fog frees the closed region's shadow set and releases its
gated operations and items in issue order: what was issued after an item that must wait stays gated. A context that is
Ending or waits in `ctxout` may go on with it, and is none of these. -/
def Obligations.WindowEnds : Prop :=
  ∀ (s : State) (core slot : Nat),
    let c := s.ctx core slot
    c.win = true → c.markDue = false → stays c = true →
    ∃ t, exec (.droopWindowEnd core slot) s = .next t ∧
      (let d := t.ctx core slot
       d.win = false ∧ d.fixOpen = c.fixOpen ∧ d.shadow c.closedSet = none ∧ d.a = c.a ∧
       (∀ o ∈ (t.core core).ops, o.slot = slot → o.seq < c.openSeq → (∀ g ∈ d.gatedItems, o.seq < g.seq) → o.gated = false) ∧
       (c.gatedItems = [] → t.arrs = s.arrs ∧ t.flights = s.flights ∧ t.enqs = s.enqs) ∧
       ∀ n seq dst tag aw, c.gatedItems = [.arrive n seq dst tag aw] → seq < c.openSeq →
         d.gatedItems = [] ∧
         t.arrs = s.arrs ++ [{ core := core, n := n, from' := core, slot := slot, team := c.team, time := c.time, for' := if aw then .await else .token dst seq tag }])

/-- R112, R168 to R170, R382: the answer to an access puts its result on its way, no earlier than its minimum latency,
or leaves its fault pending; a PCIe completion brings the data, a failed or missing one PCIE_DMA_ERR. -/
def Obligations.AccessAnswers : Prop :=
  ∀ (s : State) (core slot id : Nat) (a : Acc),
    let c := s.ctx core slot
    c.accOf id = some a → stays c = true →
    let leaves (i : Instr) (f : Option (Nat × Word)) (v : BitVec 512) : Prop :=
      ∃ t, exec i s = .next t ∧
        (let d := t.ctx core slot
         d.accs = c.accs.filter (fun b => b.id != id) ∧ d.a = c.a ∧ d.st = c.st ∧ t.mem = s.mem ∧
         match f with
         | none => d.faults = c.faults ∧ d.res = c.res ++ [{ dst := a.dst, val := v, due := a.seq + a.minLat, seq := a.seq, tag := a.tag, fixed := false }]
         | some (code, tval) => d.res = c.res ∧ d.faults = c.faults ++
             [{ code := code, async := true, sup := a.sup, tval := tval, tinst := a.waddr, slot := a.sl, k := a.k, seq := a.seq, id := id, tag := a.tag }])
    (a.pcie = false → a.flush = false → leaves (.scalarAccessResponse core slot id) (a.fault.map (fun k => (k, a.off))) a.val) ∧
    (a.flush = true → leaves (.cacheFlushComplete core slot id) (a.fault.map (fun k => (k, a.off))) a.val) ∧
    (a.pcie = true →
      (∀ data : Word, a.fault = none → a.width ∈ [1, 2, 4, 8] →
        leaves (.pcieCompletion core slot id true data) none
          (if a.sgn then (((BitVec.ofNat (8 * a.width) data.toNat).signExtend 64).setWidth 512) else (BitVec.ofNat (8 * a.width) data.toNat).setWidth 512)) ∧
      (∀ data, leaves (.pcieCompletion core slot id false data) (some (0x48, a.off)) 0) ∧
      (a.asked + 10000000 ≤ s.now → leaves (.pcieDmaTimeout core slot id) (some (0x48, a.off)) 0) ∧
      (s.now < a.asked + 10000000 → exec (.pcieDmaTimeout core slot id) s = .next s))

/-- R51, R81, R111, R112, R191, R196, R217: an engine operation with no piece of a row left commits its rows in order;
behind its last row it leaves the engine, its tag is on its way to be freed no earlier than the 8th own issue after it, and
the tiles it wrote become ready unless another operation writes them. A trap that is due stops it at a row, all that it has
reached written. -/
def Obligations.EngineCompletes : Prop :=
  ∀ (s : State) (core id : Nat) (o : EOp), s.opAt core id = some o →
    let c := s.ctx core o.slot
    let e : Env := { s := s, core := core, o := o }
    let freed (c : Ctx) : List Pend := if o.tag = 0 then c.res
      else c.res ++ [{ dst := .nothing, val := 0, due := o.seq + 8, seq := o.seq, tag := o.tag, fixed := false }]
    (o.copy = false → running s core o = true → engineReady s core o = true → o.left = [] → o.unread = [] → o.seen = [] →
      (∀ r, o.rows + 1 < o.nrows → (vecRow e o.rows = some r ∨ vecRow e o.rows = none ∧ matRow e o.rows = some r) → rowBad e r = none →
        exec (.engineOpComplete core id (o.rows + 1)) s =
          .next ((commitRow e r (touchRow e r true s)).updOp core id (fun p => { p with rows := p.rows + 1, seen := [] }))) ∧
      (o.nrows ≤ o.rows → stays c = true → o.predOff = false →
        ∃ t, exec (.engineOpComplete core id o.nrows) s = .next t ∧ t.opAt core id = none ∧ t.mem = s.mem ∧
          (t.ctx core o.slot).res = freed c ∧
          (∀ u ∈ o.written, u < 72 → writerLeft (s.core core).ops o.slot o.id u (2 ^ 64) = false → (t.ctx core o.slot).a.tstate u = 2))) ∧
    (o.stopping = true → o.predOff = false → stays c = true → o.cancelTag = [] → o.left = [] → o.unread = [] →
      ∃ t, exec (.engineOpStop core id) s = .next t ∧ t.opAt core id = none ∧ (t.ctx core o.slot).res = freed c ∧
        (o.outSource = none → ∀ u ∈ o.written, u < 72 → writerLeft (s.core core).ops o.slot o.id u (2 ^ 64) = false →
          (t.ctx core o.slot).a.tstate u = 0 ∨ 64 ≤ u) ∧
        (∀ u con, o.outSource = some (u, con) → o.srcDone = false → u < 64 → writerLeft (s.core core).ops o.slot o.id u (2 ^ 64) = false →
          (t.ctx core o.slot).a.tstate u = 2)) ∧
    (o.stopping = false → o.inb = true → trapDue c = true →
      exec (.engineOpStop core id) s = .next ((settleOp s core o).updOp core id (fun p => { p with held := true })))

/-- R83, R112, R234 to R236, R238, R241 to R246, R249, R250: a row of a copy that is not its last, moved whole, writes the
bytes of its source to its destination and changes no other byte; one of `cp.acc` acts on its core's partials. That a row
gathered without an index is bytes of zero, in a codebook format too, is the model's choice (log entry 123). A copy whose
rows are done leaves the engine, its tag is on its way to be freed no earlier than the 8th own issue after it, an inbound
tile is ready, and an arrival that its pattern block asks for sets out; an outbound copy whose last row is read gives back
its source, empty under CON; a copy that meets a failing row is held there with its trap pending, but one that `cp.res` has
resumed and that is inbound takes a progress word again. -/
def Obligations.CopiesComplete : Prop :=
  ∀ (s : State) (core id : Nat) (o : EOp), s.opAt core id = some o → o.copy = true → running s core o = true → o.predOff = false →
    o.left = [] → o.unread = [] → o.seen = [] →
    let c := s.ctx core o.slot
    let i := o.rows
    let tile (t : Nat) : BitVec 128 := if t < 64 then o.cap.descs.get t 0 else accDesc
    let side (t : Nat) : Except Nat Side := tileSide s core o.slot t (tile t) i
    let n (t : Nat) : Nat := rowBytes (tile t)
    let strided (x : CP) : Word := o.cap.off + (match o.cap.pat with
      | some b => .ofInt 64 (strideSum b i)
      | none => .ofInt 64 (i * (if x.y = 0 then (dPitch (tile x.t) : Int) else o.cap.yval.toInt)))
    let oid (k : Nat) : Nat := capOid (c.a.k.get k 0)
    let allowed (k r : Nat) (off : Word) (len : Nat) : Prop := capCheck c (c.a.k.get k 0) (capHas (c.a.k.get k 0) r) off len = none
    let moves := RowMoves (.copyComplete core id (i + 1)) s core o.slot
    let rowOf (t : Nat) : Prop := rowBits (tile t) ≠ 0
    (i + 1 < o.nrows → Calm s →
      (∀ h x m d, o.ins = .cpLd h x → rowOf x.t → allowed x.k rRD (strided x) (n x.t) →
        memSide s core o.slot (oid x.k) (strided x).toNat (n x.t) 8 = .ok m → side x.t = .ok d → moves m [d]) ∧
      (∀ h x m d, o.ins = .cpSt h x → rowOf x.t → allowed x.k rWR (strided x) (n x.t) →
        memSide s core o.slot (oid x.k) (strided x).toNat (n x.t) (lastBits (tile x.t)) = .ok m → side x.t = .ok d → moves d [m]) ∧
      (∀ h x d, o.ins = .cpFill h x → rowOf x.t → side x.t = .ok d →
        moves (.value ((List.range (n x.t)).map (fun j => o.cap.yval.extractLsb' (8 * (j % 8)) 8))) [d]) ∧
      (∀ h x d, o.ins = .cpGath h x ∨ o.ins = .cpScat h x → rowOf x.t → side x.t = .ok d →
        let u := tile (o.cap.yval.toNat % 64)
        let found (k : Option Nat) : Prop :=
          (dValid u i 0 = false ∧ k = none) ∨ (dValid u i 0 = true ∧ ∃ l, viewSegs s core o.slot u (dBase u + i * dPitch u) 4 = .ok l ∧ (Side.segs l 8).onDevice ∧
            k = indexOf (f32.val (ofBytes ((spots l).map (byteAt s)))) (2 ^ 24))
        (found none → (o.ins = .cpGath h x → moves (.value (List.replicate (n x.t) 0)) [d]) ∧ (o.ins = .cpScat h x → moves d [])) ∧
        ∀ k, found (some k) →
          let off : Word := .ofNat 64 (o.cap.off.toNat + k * dPitch (tile x.t))
          (∀ m, o.ins = .cpGath h x → allowed x.k rRD off (n x.t) → memSide s core o.slot (oid x.k) off.toNat (n x.t) 8 = .ok m → moves m [d]) ∧
          (∀ m, o.ins = .cpScat h x → allowed x.k rWR off (n x.t) →
            memSide s core o.slot (oid x.k) off.toNat (n x.t) (lastBits (tile x.t)) = .ok m → moves d [m])) ∧
      (∀ h x d, o.ins = .cpSs h x ∨ o.ins = .cpBc h x → rowOf x.t → side x.t = .ok d → oid x.k = oidRemote → capHas (c.a.k.get x.k 0) rWR = true →
        let pieces := ((pushTargets c o.ins o.cap.xval).filter (· != core)).map (pushPieces c (tile x.t) i)
        (∀ l ∈ pieces, ∀ g ∈ l, allowed x.k rWR (.ofNat 64 g.1) g.2) →
        ∀ ds : List (List Seg), ds.map (fun l => l.map (fun g => (g.n, g.o))) = pieces.map (fun l => l.map (fun g => (g.2, g.1))) →
          (∀ l ∈ ds, ∀ g ∈ l, g.oid = oidRemote ∧ spadPlace s core o.slot oidRemote g.o g.n = .ok g.pl) → moves d (ds.map (fun l => .segs l (lastBits (tile x.t))))) ∧
      (∀ h x b m d, o.ins = .cpMm h x → o.cap.pat = some b →
        let len := (b.extractLsb' 0 16).toNat + 1
        let a : Word := o.cap.soff + .ofInt 64 (strideSum b i)
        let z : Word := o.cap.off + .ofInt 64 (strideSum b i)
        allowed (x.t % 16) rRD a len → allowed x.k rWR z len → memSide s core o.slot (oid (x.t % 16)) a.toNat len 8 = .ok m →
        memSide s core o.slot (oid x.k) z.toNat len 8 = .ok d → moves m [d]) ∧
      (∀ h x, o.ins = .cpPf h x → (match o.cap.pat with
        | some b => x.pat = 1 ∧ allowed x.k rRD (o.cap.off + .ofInt 64 (strideSum b i)) ((b.extractLsb' 0 16).toNat + 1)
        | none => x.pat = 0 ∧ allowed x.k rRD o.cap.off o.cap.yval.toNat) →
        (∀ e, (copyRow core o i true (s, o.time)).2 ≠ .error e) → moves (.value []) [])) ∧
    (∀ h x ob l d, i + 1 < o.nrows → o.ins = .cpAcc h x → rowOf x.t → allowed x.k rCM (strided x) (n x.t) → isSpad (oid x.k) = false →
      s.entryBad (dieOf core) (oid x.k) = false → s.objOf c.part (oid x.k) = some ob → (strided x).toNat + n x.t ≤ ob.len → ob.cr = true →
      suits ob.cfmt (tile x.t) = true → (strided x).toNat % cfmtBytes ob.cfmt = 0 →
      memSide s core o.slot (oid x.k) (strided x).toNat (n x.t) 8 = .ok (.segs l 8) → side x.t = .ok d →
      (Side.segs l 8).onDevice → d.onDevice → (spots l).Nodup → (∀ k, (s.core k).bad = [] ∧ (s.core k).accBad = []) → (∀ e ∈ (s.core core).part, e.bad = false) →
      ((s.core core).part.map (fun e => (e.die, e.addr / 32))).eraseDups.length + l.length ≤ 64 → (∀ die, (s.die die).tracked.length + n x.t ≤ 4096) →
      ∃ t, exec (.copyComplete core id (i + 1)) s = .next t ∧ (∀ p, byteAt t p = byteAt s p) ∧
        ∀ a g b die pa j, l = a ++ g :: b → g.pl = .dev die pa → cfmtBytes ob.cfmt * j < g.n →
          let m := cfmtBytes ob.cfmt
          let from' := (a.map (·.n)).sum + m * j
          ∃ e ∈ (t.core core).part, e.die = die ∧ e.addr = pa + m * j ∧
            e.val = .ofNat 64 (combOp ob.cfmt ob.cop (match (s.core core).part.find? (fun y => y.die == die && y.addr == pa + m * j) with
              | some y => y.val.toNat
              | none => combId ob.cfmt ob.cop) (ofBytes ((List.range m).map (fun q => sideByte s core o.slot d (from' + q)))))) ∧
    (o.nrows ≤ o.rows → stays c = true →
      ∃ t, exec (.copyComplete core id o.nrows) s = .next t ∧ t.opAt core id = none ∧ t.mem = s.mem ∧
        (t.ctx core o.slot).res = (if o.tag = 0 then c.res
          else c.res ++ [{ dst := .nothing, val := 0, due := o.seq + 8, seq := o.seq, tag := o.tag, fixed := false }]) ∧
        (∀ u ∈ o.written, u < 64 → writerLeft (s.core core).ops o.slot o.id u (2 ^ 64) = false → (t.ctx core o.slot).a.tstate u = 2) ∧
        (∀ b, o.cap.pat = some b → b.getLsbD 16 = true → (∀ h x, o.ins ≠ .cpSs h x ∧ o.ins ≠ .cpBc h x) →
          ∃ a, t.arrs = s.arrs ++ [a] ∧ a.core = core ∧ a.n = (b.extractLsb' 17 10).toNat ∧ a.from' = core ∧ a.slot = o.slot ∧ a.team = c.team)) ∧
    (∀ u con, o.nrows ≤ o.rows → o.outSource = some (u, con) → o.srcDone = false → u < 64 →
      writerLeft (s.core core).ops o.slot o.id u (2 ^ 64) = false →
      ∃ t o', exec (.copyLastRowRead core id) s = .next t ∧ (t.ctx core o.slot).a.tstate u = (if con then 0 else 2) ∧
        t.opAt core id = some o' ∧ o'.srcDone = true ∧ t.mem = s.mem) ∧
    (∀ s' time f, o.rows < o.nrows → copyRow core o o.rows true (s, o.time) = ((s', time), .error f) → s'.opAt core id = some o →
      (∀ h x, o.ins ≠ .cpPf h x) → (∀ tm, s'.team (s'.ctx core o.slot).team = some tm → tm.failed = none) →
      stays (s'.ctx core o.slot) = true → (s'.ctx core o.slot).wait ≠ .stopped →
      let parks := (s'.ctx core o.slot).sup && o.inb && !o.sup && (List.range 8).any (fun n => !(s'.ctx core o.slot).a.progValid n)
      ∃ t g, exec (.copyRowFault core id) s = .next t ∧ g ∈ (t.ctx core o.slot).faults ∧
        (parks = false → ∃ o', t.opAt core id = some o' ∧ o'.held = true) ∧ (parks = true → t.opAt core id = none) ∧
        g.code = f.code ∧ g.async = true ∧ g.tinst = o.waddr ∧ g.slot = o.sl ∧ g.k = o.k ∧
        g.tval = .ofNat 64 (f.off.toNat % 2 ^ 48 + (if o.inb then 0 else o.entry % 32 * 2 ^ 48 + 2 ^ 53) + o.rows % 512 * 2 ^ 54))

/-- R138, R148, R197, R198, R201 to R211: the elements that one row of a vector operation writes, over f32 tiles in f32 and,
where the instruction is one of integers, over si8 tiles in si8, under the plain registers (RNE, no FLUSH, no SAT): sources
rounded to the compute format, the operation exact, its result rounded once and encoded. `vcvt` goes between f32, bf16 and
f16, and `vquant` into block-scaled i8. `vrcp`, `vrsq` and `vsqrt` are given by the interval that their rounding leaves for
the exact value; the functions of R204 at its special inputs, and where their values are exact. The sign of a sum that is
zero is the model's reading (log entry 44). -/
def Obligations.ElementRows : Prop :=
  ∀ (e : Env) (h : Head) (i : Nat) (o : VT), e.o.cap.fv = 0 → e.o.cap.rm = 0 →
    let code (n j : Nat) : Nat := (e.code ([o.ta, o.tb, o.tc].getD n 0) i (srcColumn o n j)).getD 0
    let row (ins : Instr) (fmt n : Nat) (v : Nat → Nat) : Prop :=
      e.o.ins = ins → (∀ t ∈ o.td :: [o.ta, o.tb, o.tc].take n, dFmt (e.desc t) = fmt) →
      ∃ r, vecRow e i = some r ∧ r.writes = (colsOf e o.td i).map (fun j => (o.td, i, j, v j))
    let near (x : XVal) : Nat := (roundF f32 rne false false x).code
    let c (n j : Nat) : XVal := f32.val (near (f32.val (code n j)))
    let result (x : XVal) : Nat := near (f32.val (near x))
    let float (ins : Instr) (n : Nat) (v : Nat → XVal) : Prop := row ins 0 n (fun j => result (v j))
    -- elements of any place of ta and tb, decoded, and rounded to the compute format
    let val (t k j : Nat) : XVal := f32.val ((e.code t k j).getD 0)
    let conv (k j : Nat) : XVal := f32.val (near (val o.ta k j))
    -- the row `k` of td, the columns `cols` of it, with what each receives
    let puts (ins : Instr) (tiles : List Nat) (k : Nat) (cols : List Nat) (v : Nat → Nat) : Prop :=
      e.o.ins = ins → (∀ t ∈ o.td :: tiles, dFmt (e.desc t) = 0) →
      ∃ r, vecRow e i = some r ∧ r.writes = cols.map (fun j => (o.td, k, j, v j))
    let fold (f : XVal → XVal → XVal) (none' : XVal) (l : List XVal) : XVal := match l with
      | [] => none'
      | v :: r => r.foldl f v
    -- each element that `ins` writes stands in a relation to its converted source
    let related (ins : Instr) (rel : XVal → Nat → Prop) : Prop :=
      e.o.ins = ins → (∀ t ∈ [o.td, o.ta], dFmt (e.desc t) = 0) →
      ∃ (r : RowOut) (w : Nat → Nat), vecRow e i = some r ∧ r.writes = (colsOf e o.td i).map (fun j => (o.td, i, j, w j)) ∧ ∀ j ∈ colsOf e o.td i, rel (c 0 j) (w j)
    let flag : Bool := o.flags % 2 == 1
    (∀ cf, cf ≤ 1 →
      float (.vadd h cf o) 2 (fun j => (c 0 j).add (c 1 j)) ∧ float (.vsub h cf o) 2 (fun j => (c 0 j).add (c 1 j).neg) ∧
      float (.vmul h cf o) 2 (fun j => (c 0 j).mul (c 1 j)) ∧ float (.vfma h cf o) 3 (fun j => ((c 0 j).mul (c 1 j)).add (c 2 j)) ∧
      float (.vfms h cf o) 3 (fun j => ((c 0 j).mul (c 1 j)).add (c 2 j).neg) ∧
      float (.vfnma h cf o) 3 (fun j => ((c 0 j).mul (c 1 j)).neg.add (c 2 j)) ∧
      float (.vmin h cf o) 2 (fun j => (c 0 j).min (c 1 j)) ∧ float (.vmax h cf o) 2 (fun j => (c 0 j).max (c 1 j)) ∧
      float (.vabs h cf o) 1 (fun j => (c 0 j).abs) ∧ float (.vneg h cf o) 1 (fun j => (c 0 j).neg) ∧
      float (.vclamp h cf o) 3 (fun j => ((c 0 j).max (c 1 j)).min (c 2 j)) ∧
      float (.vsel h cf o) 3 (fun j => if (f32.val (code 2 j)).isZero then c 1 j else c 0 j) ∧
      (o.flags % 8 < 6 → float (.vcmp h cf o) 2 (fun j =>
        let x := c 0 j
        let y := c 1 j
        let nan := x.isNan || y.isNan
        .ofNat (if [x.eq y, !x.eq y, x.lt y, !nan && !y.lt x, y.lt x, !nan && !x.lt y].getD (o.flags % 8) false then 1 else 0))) ∧
      float (.vscal h cf o) 2 (fun j =>
        let n : Int := match f32.val (code 1 j) with
          | .inf s => if s then -1024 else 1024
          | y => max (-1024) (min 1024 y.trunc)
        if (f32.val (code 1 j)).isNan then .nan else (c 0 j).mul (.dyadic false 1 n)) ∧
      float (.vrcpf h cf o) 2 (fun j =>
        let x := c 0 j
        let y := c 1 j
        if x.isNan || y.isNan then .nan else if y.isZero || y.isInf then y else y.add (y.mul ((XVal.ofNat 1).add (x.mul y).neg))) ∧
      float (.vrsqf h cf o) 2 (fun j =>
        let x := c 0 j
        let y := c 1 j
        if x.isNan || y.isNan then .nan else if y.isZero || y.isInf then y
        else y.add ((y.mul ((XVal.ofNat 1).add ((x.mul y).mul y).neg)).mul (.fin false 1 2))) ∧
      float (.viota h cf o) 0 (fun j => .ofNat ([j, i, i * dVCols (e.desc o.td) + j].getD (min 2 (o.flags % 4)) 0))) ∧
    row (.vand h 5 o) 9 2 (fun j => code 0 j &&& code 1 j) ∧ row (.vor h 5 o) 9 2 (fun j => code 0 j ||| code 1 j) ∧
    row (.vxor h 5 o) 9 2 (fun j => code 0 j ^^^ code 1 j) ∧ row (.vnot h 5 o) 9 1 (fun j => 255 - code 0 j) ∧
    (let signed (x : Nat) : Int := (BitVec.ofNat 8 x).toInt
     let shift (ins : Instr) (near far : Nat → Nat → Nat) : Prop := row ins 9 2 (fun j =>
       let n := signed (code 1 j)
       if 0 ≤ n ∧ n ≤ 7 then near (code 0 j) n.toNat else far (code 0 j) n.toNat)
     shift (.vshl h 5 o) (fun x n => x * 2 ^ n % 256) (fun _ _ => 0) ∧ shift (.vshr h 5 o) (fun x n => x / 2 ^ n) (fun _ _ => 0) ∧
     shift (.vsra h 5 o) (fun x n => ((signed x / 2 ^ n) % 256).toNat) (fun x _ => if signed x < 0 then 255 else 0)) ∧
    -- conversion and movement (R202, R207, R210)
    (∀ s ∈ [(0, f32), (2, bf16), (3, f16)], ∀ d ∈ [(0, f32), (2, bf16), (3, f16)],
      e.o.ins = .vcvt h o → dFmt (e.desc o.ta) = s.1 → dFmt (e.desc o.td) = d.1 →
      ∃ r, vecRow e i = some r ∧ r.writes = (colsOf e o.td i).map (fun j => (o.td, i, j, (roundF d.2 rne false false (s.2.val (code 0 j))).code))) ∧
    puts (.vdeq h o) [o.ta, o.tb] i (colsOf e o.td i) (fun j => near ((val o.ta i j).mul (val o.tb i (j / 2 ^ (o.flags % 8 + 4))))) ∧
    puts (.tclr h o) [] i (List.range (if flag then dCols (e.desc o.td) else dVCols (e.desc o.td))) (fun _ => 0) ∧
    (∀ k : Nat → Nat, e.o.ins = .vmov h o → (∀ j ∈ colsOf e o.td i, e.code o.ta i (srcColumn o 0 j) = some (k j)) →
      ∃ r, vecRow e i = some r ∧ r.writes = (colsOf e o.td i).map (fun j => (o.td, i, j, if baseFmt (dFmt (e.desc o.td)) = 1 then k j / 2 ^ 13 * 2 ^ 13 else k j))) ∧
    puts (.vbcast h o) [o.ta] i (colsOf e o.td i) (fun j =>
      near (if o.flags % 4 = 0 then val o.ta 0 0 else if o.flags % 4 = 1 then val o.ta 0 j else val o.ta i 0)) ∧
    puts (.vtrans h o) [o.ta] i (colsOf e o.td i) (fun j => near (val o.ta j i)) ∧
    puts (.vpack h o) [o.ta, o.tb] i (colsOf e o.td i) (fun j => near (val (if j % 2 = 0 then o.ta else o.tb) i (j / 2))) ∧
    puts (.vunpk h o) [o.ta] i (colsOf e o.td i) (fun j => near (val o.ta i (2 * j + o.flags % 2))) ∧
    (let index (x : XVal) (n : Nat) : Option Nat := x.int?.bind (fun k => if 0 ≤ k ∧ k < n then some k.toNat else none)
     puts (.vperm h o) [o.ta, o.tb] i (colsOf e o.td i) (fun j => ((index (val o.tb i j) (dCols (e.desc o.ta))).map (fun n => near (val o.ta i n))).getD 0) ∧
     puts (.vgath h o) [o.ta, o.tb] i (colsOf e o.td i) (fun j => ((index (val o.tb i 0) (dRows (e.desc o.ta))).map (fun n => near (val o.ta n j))).getD 0) ∧
     (∀ n, index (val o.tb i 0) (dVRows (e.desc o.td)) = some n → puts (.vscat h o) [o.ta, o.tb] n (colsOf e o.td n) (fun j => near (val o.ta i j))) ∧
     (index (val o.tb i 0) (dVRows (e.desc o.td)) = none → puts (.vscat h o) [o.ta, o.tb] i [] (fun _ => 0))) ∧
    -- special functions (R203, R204)
    (∀ cf, cf ≤ 1 →
      let twelve (x : ℚ) (neg : Bool) (close : ℚ → ℚ → Prop) (w : Nat) : Prop :=
        ∃ (m : Nat) (k : Int), close (2 ^ 11 * 2 ^ k) (2 ^ 12 * 2 ^ k) ∧ w = result (.dyadic neg m k) ∧
          (x * ((2 * m - 1) * 2 ^ k / 2) ≤ 1 ∧ 1 ≤ x * ((2 * m + 1) * 2 ^ k / 2) ∧
            (x * ((2 * m - 1) * 2 ^ k / 2) = 1 ∨ x * ((2 * m + 1) * 2 ^ k / 2) = 1 → m % 2 = 0))
      related (.vrcp h cf o) (fun x w =>
        (x = .nan → w = result .nan) ∧ (∀ s, x = .inf s → w = result (.fin s 0 1)) ∧ (x.isZero = true → w = result (.inf x.neg?)) ∧
        (∀ s n d, x = .fin s n d → n ≠ 0 → twelve (n / d) s (fun lo hi => lo * (n / d) ≤ 1 ∧ 1 < hi * (n / d)) w)) ∧
      related (.vrsq h cf o) (fun x w =>
        (x = .nan ∨ x = .inf true ∨ (x.neg? = true ∧ x.isZero = false) → w = result .nan) ∧ (x = .inf false → w = 0) ∧
        (x.isZero = true → w = result (.inf x.neg?)) ∧
        (∀ n d, x = .fin false n d → n ≠ 0 → ∃ (m : Nat) (k : Int), (2 ^ 11 * 2 ^ k) ^ 2 * (n / d : ℚ) ≤ 1 ∧ 1 < (2 ^ 12 * 2 ^ k) ^ 2 * (n / d : ℚ) ∧
          w = result (.dyadic false m k) ∧ ((2 * m - 1) * 2 ^ k / 2) ^ 2 * (n / d : ℚ) ≤ 1 ∧ 1 ≤ ((2 * m + 1) * 2 ^ k / 2) ^ 2 * (n / d : ℚ))) ∧
      related (.vsqrt h cf o) (fun x w =>
        (x = .nan ∨ x = .inf true ∨ (x.neg? = true ∧ x.isZero = false) → w = result .nan) ∧ (x = .inf false → w = result x) ∧ (x.isZero = true → w = result x) ∧
        (∀ n d, x = .fin false n d → n ≠ 0 → 0 < w ∧ w < 0x7F7FFFFF ∧
          ((f32.val (w - 1)).rat / 2 + (f32.val w).rat / 2) ^ 2 ≤ (n / d : ℚ) ∧ (n / d : ℚ) ≤ ((f32.val w).rat / 2 + (f32.val (w + 1)).rat / 2) ^ 2)) ∧
      related (.vexp2 h cf o) (fun x w =>
        (x = .nan → w = result .nan) ∧ (∀ s, x = .inf s → w = result (if s then .zero else .inf false)) ∧ (x.isZero = true → w = result (.ofNat 1)) ∧
        (∀ k : Int, x.int? = some k → -1100 ≤ k → k ≤ 1100 → w = result (.dyadic false 1 k))) ∧
      related (.vlog2 h cf o) (fun x w =>
        (x = .nan ∨ x = .inf true ∨ (x.neg? = true ∧ x.isZero = false) → w = result .nan) ∧ (x = .inf false → w = result x) ∧ (x.isZero = true → w = result (.inf true)) ∧
        (∀ (n d : Nat) (k : Int), x = .fin false n d → (n / d : ℚ) = 2 ^ k → w = result (.ofInt k))) ∧
      related (.vtanh h cf o) (fun x w =>
        (x = .nan → w = result .nan) ∧ (∀ s, x = .inf s → w = result (.fin s 1 1)) ∧ (x.isZero = true → w = result x)) ∧
      related (.vlgst h cf o) (fun x w =>
        (x = .nan → w = result .nan) ∧ (∀ s, x = .inf s → w = result (if s then .zero else .ofNat 1)) ∧ (x.isZero = true → w = result (.fin false 1 2)))) ∧
    -- reductions, scans and top-k (R205, R206, R208)
    (∀ cf, cf ≤ 1 →
      let line : List XVal := (List.range (dVCols (e.desc o.ta))).map (conv i)
      let column (j : Nat) : List XVal := (List.range (dVRows (e.desc o.ta))).map (fun k => conv k j)
      let add (x y : XVal) : XVal := x.add y
      let first := (colsOf e o.td i).filter (· == 0)
      puts (.vrsum h cf o) [o.ta] i first (fun _ => result (fold add .zero line)) ∧
      puts (.vrmax h cf o) [o.ta] i first (fun _ => result (fold XVal.max (.inf true) line)) ∧
      puts (.vrmin h cf o) [o.ta] i first (fun _ => result (fold XVal.min (.inf false) line)) ∧
      puts (.vcsum h cf o) [o.ta] 0 (colsOf e o.td 0) (fun j => result (fold add .zero (column j))) ∧
      puts (.vcmax h cf o) [o.ta] 0 (colsOf e o.td 0) (fun j => result (fold XVal.max (.inf true) (column j))) ∧
      puts (.vcmin h cf o) [o.ta] 0 (colsOf e o.td 0) (fun j => result (fold XVal.min (.inf false) (column j))) ∧
      puts (.vscan h cf o) [o.ta] i (colsOf e o.td i) (fun j =>
        result (fold add .zero ((List.range (if flag then j else j + 1)).map (conv i)))) ∧
      puts (.vcscan h cf o) [o.ta] i (colsOf e o.td i) (fun j =>
        result (fold add .zero ((List.range (if flag then i else i + 1)).map (fun k => conv k j)))) ∧
      (∃ k, puts (.vrarg h cf o) [o.ta] i first (fun _ => near (.ofNat k)) ∧
        (dVCols (e.desc o.ta) = 0 → k = 0) ∧
        (0 < dVCols (e.desc o.ta) → k < dVCols (e.desc o.ta) ∧
          ((∃ m, m < dVCols (e.desc o.ta) ∧ (conv i m).isNan = true) → (conv i k).isNan = true ∧ ∀ m, m < k → (conv i m).isNan = false) ∧
          ((∀ m, m < dVCols (e.desc o.ta) → (conv i m).isNan = false) → ∀ m, m < dVCols (e.desc o.ta) →
            let beats (a b : Nat) : Bool := if flag then (conv i a).below (conv i b) else (conv i b).below (conv i a)
            beats m k = false ∧ (m < k → beats k m = true)))) ∧
      (e.o.ins = .vtopk h cf o → (∀ t ∈ [o.td, o.ta, o.tb], dFmt (e.desc t) = 0) →
        ∃ (ord : List Nat) (r : RowOut), vecRow e i = some r ∧
          ord.Perm ((List.range (dVCols (e.desc o.ta))).filter (fun j => dValid (e.desc o.ta) i j)) ∧
          (let before (a b : Nat) : Bool := if (conv i a).isNan then !(conv i b).isNan else if (conv i b).isNan then false
             else if flag then (conv i a).below (conv i b) else (conv i b).below (conv i a)
           ord.Pairwise (fun a b => before b a = false ∧ (before a b = false → a < b))) ∧
          r.writes = (colsOf e o.td i).map (fun m => (o.td, i, m, (ord[m]?.map (fun j => result (conv i j))).getD 0)) ++
            (colsOf e o.tb i).map (fun m => (o.tb, i, m, near (.ofNat (ord[m]?.getD (dVCols (e.desc o.ta)))))))) ∧
    -- quantisation into block-scaled i8 and status words (R209, R211)
    (e.o.ins = .vquant h o → dFmt (e.desc o.ta) = 0 → dFmt (e.desc o.td) = 25 → o.td < 63 →
      let n := dVCols (e.desc o.td)
      let inBlock (b j : Nat) : Prop := 16 * b ≤ j ∧ j < 16 * b + 16 ∧ j < n
      let numbers (b : Nat) : Prop := ∀ j, inBlock b j → (val o.ta i j).isNan = false ∧ (val o.ta i j).isInf = false
      let share (j : Nat) : ℚ := (val o.ta i j).abs.rat / 127
      ∃ (r : RowOut) (sc el : Nat → Nat), vecRow e i = some r ∧
        r.writes = (List.range ((n + 15) / 16)).map (fun b => (o.td + 1, i, b, sc b)) ++ (colsOf e o.td i).map (fun j => (o.td, i, j, el j)) ∧
        (∀ b, b < (n + 15) / 16 →
          (¬numbers b → sc b = near .nan ∧ ∀ j, inBlock b j → j ∈ colsOf e o.td i → el j = 0) ∧
          (numbers b → (∀ j, inBlock b j → (val o.ta i j).isZero = true) → sc b = 0 ∧ ∀ j, inBlock b j → j ∈ colsOf e o.td i → el j = 0) ∧
          (numbers b → (∃ j, inBlock b j ∧ (val o.ta i j).isZero = false) →
            (flag = false → sc b < 0x7F800000 ∧ (∀ j, inBlock b j → share j ≤ (f32.val (sc b)).rat) ∧
              ∃ j, inBlock b j ∧ ∀ x, x < sc b → (f32.val x).rat < share j) ∧
            (flag = true → ∃ k : Int, -149 ≤ k ∧ k ≤ 127 ∧ sc b < 0x7F800000 ∧ (f32.val (sc b)).rat = 2 ^ k ∧ (∀ j, inBlock b j → share j ≤ 2 ^ k) ∧
              (k = -149 ∨ ∃ j, inBlock b j ∧ 2 ^ (k - 1) < share j)) ∧
            ∀ j, inBlock b j → j ∈ colsOf e o.td i → ∃ z : Int, el j = (z % 256).toNat ∧
              |(val o.ta i j).rat / (f32.val (sc b)).rat - z| ≤ 1 / 2 ∧ (|(val o.ta i j).rat / (f32.val (sc b)).rat - z| = 1 / 2 → z % 2 = 0)))) ∧
    (e.o.ins = .vstat h o → ∃ r, vecRow e i = some r ∧ StatusRow e o.td o.ta flag r)

/-- R154, R220, R222 to R225, R227, R228: rows of the matrix operations. Where A or the plane of an `mma` is f32 or f19 the
products join the accumulator one by one, each sum rounded to f32; else, without block scales, blocks of 32 are summed
exactly, rounded, and joined. `mzero`, `mscl` and `mdrain` into f32 write what their rules give, `moutl` both tables,
`mstat` a status word and the plane records as of its place among the M operations (R216), and a load its row of the
plane. That no block scale of the other operand enters the first loop is the model's (log entry 120), and so is the sign of
a zero sum (log entry 44). -/
def Obligations.MmaRow : Prop :=
  ∀ (e : Env) (h : Head) (o : MT) (i : Nat),
    let cap := e.o.cap
    let p := (e.s.core e.core).plane cap.plane
    let f32At (t k j : Nat) : XVal := f32.val ((e.code t k j).getD 0)
    (e.o.ins = .mma h o → cap.fa.toNat < 4 → dFmt (e.desc o.y) = cap.fa.toNat →
      let a (k : Nat) : XVal := (e.code o.y i k).elim .zero (fun x => (decodeElem cap.fa.toNat cap.fa [] x).v)
      let w (n k : Nat) : XVal := val32 (p.w.get (64 * k + n) 0)
      let c (n : Nat) : BitVec 32 := if o.acc = 1 then .ofNat 32 ((e.code o.x i n).getD 0) else 0
      let dot (n lo m : Nat) : XVal := (List.range m).foldl (fun z k => z.add ((a (lo + k)).mul (w n (lo + k)))) .zero
      let one := XVal.ofNat 1
      ((cap.fa.toNat ≤ 1 ∨ cap.pfmt ≤ 1) →
        ∃ r, matRow e i = some r ∧ r.writes = (List.range cap.pn).map (fun n =>
          (o.x, i, n, ((List.range cap.pk).foldl (fun z k => rnd32 ((val32 z).add ((a k).mul (w n k)))) (c n)).toNat))) ∧
      (2 ≤ cap.fa.toNat → 2 ≤ cap.pfmt → cap.pblk = 0 →
        ∃ r, matRow e i = some r ∧ r.writes = (List.range cap.pn).map (fun n =>
          (o.x, i, n, ((List.range ((cap.pk + 31) / 32)).foldl (fun z b =>
            rnd32 ((val32 z).add (val32 (rnd32 (((val32 (rnd32 (dot n (32 * b) (min 32 (cap.pk - 32 * b))))).mul one).mul one))))) (c n)).toNat)))) ∧
    (e.o.ins = .mzero h o → ∃ r, matRow e i = some r ∧
      r.writes = (List.range 128).flatMap (fun k => (List.range 64).map (fun j => (o.x, k, j, 0)))) ∧
    (e.o.ins = .mscl h o → ∃ r, matRow e i = some r ∧ r.writes = (List.range (min 64 (dVCols (e.desc o.y)))).map (fun j =>
      (o.x, i, j, (rnd32 ((f32At o.x i j).mul (f32At o.y 0 j))).toNat))) ∧
    (e.o.ins = .mdrain h o → dFmt (e.desc o.x) = 0 → cap.fo = 0 → cap.rm = 0 →
      let v (j : Nat) : XVal :=
        let s := if o.zv = 1 then (f32At o.y i j).mul (f32At o.z 0 j) else f32At o.y i j
        if o.wv = 1 then s.add (f32At o.w 0 j) else s
      ∃ r, matRow e i = some r ∧ r.writes = (colsOf e o.x i).map (fun j => (o.x, i, j, (rnd32 (v j)).toNat)) ++
        (if o.acc = 1 ∧ 0 < dVCols (e.desc o.x) then (List.range 64).map (fun j => (o.y, i, j, 0)) else [])) ∧
    (e.o.ins = .moutl h o → ∃ r, matRow e i = some r ∧ r.writes = ((colsOf e o.x i).filter (· < 16)).map (fun j =>
      (o.x, i, j, ((if i = 0 then cap.cbA else cap.cbW).get j 0).toNat))) ∧
    (e.o.ins = .mstat h o →
      (i = 0 → ∃ r, matRow e i = some r ∧ StatusRow e o.x o.y (o.acc == 1) r) ∧
      (i = 1 → cap.plane < 2 →
        let record (n : Nat) : List Nat :=
          let q : Plane := cap.recs.getD n {}
          if q.loaded = true ∧ q.owner = some e.o.slot then [1, n, q.kk, q.nn, q.fmt, q.blk, q.base, q.waddr] else List.replicate 8 0
        ∃ r, matRow e i = some r ∧ r.writes = ((List.range 16).filter (fun j => decide (j ∈ colsOf e o.x 1))).map (fun j =>
          (o.x, 1, j, (rnd32 (.ofNat ((record cap.plane ++ record (1 - cap.plane)).getD j 0))).toNat)))) ∧
    (∀ down : Bool, e.o.ins = (if down then .mloadw h o else .mloadwt h o) → cap.fw.toNat < 4 → dFmt (e.desc o.y) = cap.fw.toNat →
      (down = true → dVCols (e.desc o.y) ≤ 64) → (down = false → i < 64) →
      let key (j : Nat) : Nat := if down then 64 * i + j else 64 * j + i
      ∃ r, matRow e i = some r ∧ r.writes = [] ∧ ∀ t : State,
        let old := (t.core e.core).plane cap.plane
        let new := ((r.extra t).core e.core).plane cap.plane
        (∀ j, j < dVCols (e.desc o.y) →
          new.w.get (key j) 0 = rnd32 ((e.code o.y i j).elim .zero (fun x => (decodeElem cap.fw.toNat cap.fw [] x).v))) ∧
        ∀ n, (∀ j, j < dVCols (e.desc o.y) → n ≠ key j) → new.w.get n 0 = if i = 0 then 0 else old.w.get n 0)

/-! ## Droops, caches, errors (R77 to R95, R305, R311, R351 to R353, R385 to R393) -/

/-- R305, R311, R392, R393: a fog rolls a context back that is Ready, Waiting or Ending: its registers and tiles are those
of the struck region's mark, what it issued since is gone, NFOG rises and a region opens; it is Ready, but one that began
to wait before the mark waits on; bytes stay where no operation has a piece of a reached row left. A stretched clock is
marked on its island. That the issue count goes back to the mark's, and that results which landed since are on their way
again, is the model's reading (log entry 46). -/
def Obligations.Rollbacks : Prop :=
  (∀ (s : State) (core slot n : Nat) (h : Shadow),
    let c := s.ctx core slot
    (c.st = .ready ∨ c.st = .waiting ∨ c.st = .ending) → c.sup = false → (c.win = true ∧ n = c.closedSet ∨ c.win = false ∧ c.fixOpen = true ∧ n = c.fixCur) → c.shadow n = some h →
    let back (i : Instr) : Prop := ∃ t, exec i s = .next t ∧
      (let d := t.ctx core slot
       d.a = h.arch ∧ (c.st = .waiting → c.waitSeq < h.seq → d.st = .waiting ∧ d.wait = c.wait) ∧
       (c.st ≠ .waiting ∨ h.seq ≤ c.waitSeq → d.st = .ready ∧ d.wait = .none) ∧ d.fixOpen = true ∧ d.win = false ∧ d.iss = h.seq ∧ d.nfog = min 0xFFFF (c.nfog + 1) ∧
       d.res = h.late ++ c.res.filter (fun r => decide (r.seq < h.seq)) ∧ d.accs = c.accs.filter (fun a => decide (a.seq < h.seq)) ∧
       d.faults = c.faults.filter (fun f => decide (f.seq < h.seq)) ∧ (∀ o ∈ (t.core core).ops, o.slot = slot → o.seq < h.seq) ∧
       ((∀ o ∈ (s.core core).ops, o.left = [] ∧ o.unread = []) → t.mem = s.mem))
    (∀ island, (s.coresOf island).flatMap (fun k => (s.core k).resident.map (fun j => (k, j))) = [(core, slot)] → back (.suspectDroop island)) ∧
    ((∀ o ∈ (s.core core).ops, o.slot = slot → o.gated = true ∨ isGated o.ins = false) → back (.silentError core slot))) ∧
  ∀ (s : State) (island : Nat),
    let marks (i : Instr) (b : Bool) : Prop := ∃ t, exec i s = .next t ∧ (t.island island).droop = b ∧ (∀ j, j ≠ island → t.island j = s.island j) ∧ t.cores = s.cores
    marks (.droopStretch island) true ∧ marks (.droopRecovery island) false

/-- R79, R80, R82: the times of a request at its home, for every word of the home's block, and in L1; the recall of an
own block, from L1 or from the victim buffer, and the grant of a write-back. That bytes stay as they are is the model's one
byte store, and a home's block is its L2 block (log entry 4). -/
def Obligations.CoherenceEvents : Prop :=
  ∀ (s : State) (core slot die pa : Nat),
    let c := s.ctx core slot
    let k := s.core core
    let w := pa / 32
    let x := (s.die die).times w
    let own (b : Block) : Bool := b.ty == 0 && b.has die (pa / 512) (w % 16)
    (∀ (wr : Bool) (ty : Nat), (s.die die).tracked = [] →
      ∃ t, exec (.homeRequest core slot die pa wr ty) s = .next t ∧ t.mem = s.mem ∧
        (let now := (t.ctx core slot).time
         let blk := homeBlock ((l2Use s die (w / 16) (w % 16) (w % 16)).1.die die) w
         let e := homeTimes (s.die die) blk
         ((∀ b ∈ (s.die die).l2, b.frame ≠ w / 16) → blk = [w]) ∧
         ((ty = 3 ∨ k.l1size = 0) → x.2.2 = 0 →
           (wr = true → now = max c.time (e.2 + 1) ∧ ∀ v ∈ blk, (t.die die).times v = (now, now, ((s.die die).times v).2.2)) ∧
           (wr = false → now = max c.time e.1 ∧ ∀ v ∈ blk, (t.die die).times v = (e.1, max e.2 now, ((s.die die).times v).2.2))) ∧
         (∀ b, ty ≠ 3 → k.l1size ≠ 0 → k.l1.find? (fun b => b.has die (pa / 512) (pa / 32 % 16)) = some b →
           (b.ty = 0 → now = if wr then max c.time (b.lease + 1) else max c.time b.wts) ∧
           (b.ty ≠ 0 → ty ≠ 0 → wr = false → b.leased c.time c.party = true → now = max c.time b.wts)))) ∧
    (∃ t, exec (.ownRecall core die pa) s = .next t ∧ t.mem = s.mem ∧
      (t.core core).l1 = k.l1.filter (fun b => !own b) ∧ (t.core core).victim = k.victim.filter (fun b => !b.has die (pa / 512) (w % 16)) ∧
      (∀ b, k.l1.filter own = [b] → (t.die die).times w = (max x.1 b.wts, max x.2.1 b.lease, 0))) ∧
    ∃ t, exec (.writeBackGrant core) s = .next t ∧ (t.core core).victim = k.victim.drop 1 ∧ t.mem = s.mem ∧ (t.core core).l1 = k.l1 ∧
      ∀ b r, k.victim = b :: r → ∀ v ∈ b.dirtyWords, ((s.die b.die).times v).2.2 = core + 1 →
        k.l1.any (fun x => x.ty == 0 && x.has b.die b.frame (v % 16)) = false → ((t.die b.die).times v).2.2 = 0

/-- R351 to R353, R385, R386: an error that a store cannot correct. A word of LPDDR-6, a dirty word of L2 and a word of
scratchpad fail their check from then on, so that an access of a core which holds no dirty copy meets MEM_UNCORR or
SRAM_UNCORR; so does a dirty word of L1 for its own core; an accumulator element fails for every operation of its slot.
No byte changes. A clean L1 or L2 word whose home is good is refetched and logged as corrected. A corrected error, and
what the patrol scrub finds in LPDDR-6, is logged on its die by R353 and posted at most once in 1 ms; freeing a log entry.
Where failing words stand, when an error is logged, the ADDR of L1 and accumulator entries, and a scrub that logs an
uncorrectable word are the model's (log entry 109). -/
def Obligations.MemoryErrors : Prop :=
  ∀ (s : State) (addr : Nat),
    let w := addr / 32
    let inWord (pa n : Nat) : Prop := 0 < n ∧ pa / 32 = w
    let fails (t : State) (die : Nat) : Prop := w ∈ (t.die die).bad ∧
      ∀ core pa n, inWord pa n → dirtyHere t core die pa = false → badAt t core (.dev die pa) n = some 0x42
    (∀ die, die < 4 → ∃ t, exec (.memoryError .lpddr die addr) s = .next t ∧ t.mem = s.mem ∧ fails t die) ∧
    (∀ die, die < 4 → ∃ t, exec (.memoryError .l2 die addr) s = .next t ∧ t.mem = s.mem ∧
      (∀ b, (s.die die).l2.find? (·.has die (w / 16) (w % 16)) = some b →
        (b.dirty.testBit (w % 16) = true → fails t die ∧ w ∈ (t.die die).badL2) ∧
        (b.dirty.testBit (w % 16) = false → w ∉ (s.die die).bad → ∃ part core, LogsError s t die 0x44 1 (32 * w) true part core))) ∧
    (∀ core, ∃ t, exec (.memoryError .scratchpad core addr) s = .next t ∧ (t.core core).sram = (s.core core).sram ∧
      ∀ k pa n, inWord pa n → badAt t k (.sram core pa) n = some 0x43) ∧
    (∀ core, ∃ t, exec (.memoryError .accumulator core addr) s = .next t ∧
      ∀ slot tile i j, slot < 4 → tile < 32 → i < 128 → j < 64 → addr = slot * 2 ^ 20 + tile * 2 ^ 15 + 256 * i + 4 * j →
        ∀ e : Env, e.s = t → e.core = core → e.o.slot = slot → dValid (e.desc (64 + tile)) i j = true → e.elemBad (64 + tile) i j = true) ∧
    (∀ core die pa, addr = die * 2 ^ 40 + pa → pa < 2 ^ 40 → ∃ t, exec (.memoryError .l1 core addr) s = .next t ∧
      (dirtyHere s core die pa = true → t.mem = s.mem ∧ ∀ n, 0 < n → badAt t core (.dev die pa) n = some 0x43) ∧
      (dirtyIn (s.core core) die (pa / 32) = false → (∀ e ∈ (s.core core).part, e.die ≠ die ∨ e.addr / 32 ≠ pa / 32) →
        cleanIn (s.core core) die (pa / 32) = true → pa / 32 ∉ (s.die die).bad →
        t.mem = s.mem ∧ ∃ part, LogsError s t (dieOf core) 0x44 0 (l1Addr (s.core core) (pa / 32)) true part (some core))) ∧
    (∀ die store n, (store, n) ∈ [(Store.l2, 1), (.lpddr, 4)] →
      ∃ t part core, exec (.errCorrected store die addr) s = .next t ∧ t.mem = s.mem ∧
        LogsError s t die 0x44 n (w * 32) true part core ∧ PostsCorrected s t die) ∧
    (∀ core, ∃ t part by', exec (.errCorrected .scratchpad core addr) s = .next t ∧ t.mem = s.mem ∧
      LogsError s t (dieOf core) 0x44 2 (w * 32) true part by' ∧ PostsCorrected s t (dieOf core)) ∧
    (∀ core store n at', (store, n, at') ∈ [(Store.l1, 0, l1Addr (s.core core) (addr % 2 ^ 40 / 32)), (.accumulator, 3, w * 32)] →
      ∃ t part, exec (.errCorrected store core addr) s = .next t ∧ t.mem = s.mem ∧
        LogsError s t (dieOf core) 0x44 n at' true part (some core) ∧ PostsCorrected s t (dieOf core)) ∧
    (∀ die,
      (w ∈ (s.die die).bad → w ∉ (s.die die).badL2 → ∀ b, ∃ t, exec (.patrolScrub die addr b) s = .next t ∧ t.mem = s.mem ∧ LogsError s t die 0x42 4 (w * 32) false none none) ∧
      (w ∉ (s.die die).bad ∨ w ∈ (s.die die).badL2 → exec (.patrolScrub die addr false) s = .next s ∧
        ∃ t, exec (.patrolScrub die addr true) s = .next t ∧ t.mem = s.mem ∧ LogsError s t die 0x44 4 (w * 32) true none none ∧ PostsCorrected s t die)) ∧
    ∀ die n e, die < 4 → n < 256 → (s.die die).log.get n none = some e →
      let frees (t : State) : Prop := (t.die die).log.get n none = none ∧ (t.die die).logFull = false ∧
        ∀ m, m ≠ n → (t.die die).log.get m none = (s.die die).log.get m none
      (reachesPf s = true → ∃ t, exec (.errlogEntryFree .pf die n) s = .next t ∧ frees t) ∧
      (∀ p, reachesVf s p = true →
        (e.part = some p → ∃ t, exec (.errlogEntryFree (.vf p) die n) s = .next t ∧ frees t) ∧
        (e.part ≠ some p → exec (.errlogEntryFree (.vf p) die n) s = .next s))

/-! ## The outside (R95, R96, R274 to R276, R314 to R331, R352 to R357, R402 to R407) -/

/-- R95, R96, R316, R317, R321, R326, R328, R391: a host or peer write through BAR2 enters its die's ingress buffer, or
waits on its link without room; a read answers the bytes; an aligned read of 8 or 4 bytes of BAR0 answers the register or
its half; a disabled partition answers Unsupported Request to both; a write that is due is applied at the home; a buffer
that has withheld credit for 1 ms is reported. Room is that for a payload of 4096 bytes (log entry 24), and a write keeps
the device address that it had when it was received (log entry 116): both are the model's. -/
def Obligations.HostTraffic : Prop :=
  ∀ (s : State) (p off : Nat),
    (∀ (data : List Byte) (d pa : Nat), data ≠ [] → off % 4096 + data.length ≤ 4096 →
      let w : Ingress := { part := p, at' := s.now, addr := pa, off := off, data := data }
      let enters (i : Instr) (link : Nat) : Prop := ∃ t, exec i s = .next t ∧ t.mem = s.mem ∧
        (ingressRoom (s.die d) = true → (t.die d).ingress = (s.die d).ingress ++ [w] ∧ t.posted = []) ∧
        (ingressRoom (s.die d) = false → (t.die d).ingress = (s.die d).ingress ∧ t.posted = [(link, d, w)])
      (s.posted = [] → barPlace s p off data.length true = some (d, pa) →
        (reachesVf s p = true → inBar2 s p off data.length = true → enters (.hostWrite p off data) 0) ∧
        (∀ l, l < 8 → (s.linkOf l).up = true → s.running = true → p < 8 → (s.part p).pset.getLsbD 0 = true →
          enters (.peerLinkArrival l p off true data) (l + 1))) ∧
      (reachesVf s p = true → barPlace s p off data.length true = none →
        ∃ t, exec (.hostWrite p off data) s = .next t ∧ t.mem = s.mem ∧ t.dies = s.dies ∧ t.posted = s.posted)) ∧
    (∀ n d pa, 0 < n → off % 4096 + n ≤ 4096 → barPlace s p off n false = some (d, pa) → (s.die d).tracked = [] → (s.die d).bad = [] →
      (∀ c, (s.core c).l1Bad = []) →
      let answers (i : Instr) : Prop := ∃ t, exec i s = .next t ∧ t.out = s.out ++ [.readData (s.readDev d pa n)] ∧ t.mem = s.mem
      (reachesVf s p = true → inBar2 s p off n = true → (∀ x ∈ s.posted, x.1 ≠ 0) → answers (.hostRead (.bar2 p) off n)) ∧
      (∀ l data, l < 8 → (s.linkOf l).up = true → s.running = true → p < 8 → (s.part p).pset.getLsbD 0 = true → data.length = n →
        (∀ x ∈ s.posted, x.1 ≠ l + 1) → answers (.peerLinkArrival l p off false data))) ∧
    (reachesPf s = true → (∀ x ∈ s.posted, x.1 ≠ 0) →
      let sends (i : Instr) (o : Out) : Prop := exec i s = .next { s with out := s.out ++ [o] }
      (∀ fn n, (fn = .pf ∨ (fn = .vf p ∧ reachesVf s p = true)) → (n = 8 ∨ n = 4) → off % n = 0 →
        sends (.hostRead (.bar0 fn) off n) (if n = 8 then .regData true (readReg s fn off)
          else .regData false (.ofNat 64 ((readReg s fn off).toNat / 2 ^ (if off % 8 = 4 then 32 else 0) % 2 ^ 32)))) ∧
      ∀ n, (s.part p).pset.getLsbD 0 = false → sends (.hostRead (.bar2 p) off n) .unsupported ∧ sends (.hostRead (.bar0 (.vf p)) off n) .unsupported) ∧
    (∀ (die : Nat) (w : Ingress), (s.die die).ingress = [w] →
      let after := (s.part w.part).wincfg.toNat % 2 ^ 16
      (after ≠ 0 → w.at' + 1000 * after ≤ s.now → (s.die die).bad = [] → (s.die die).tracked = [] → s.posted = [] →
        (∀ c, (s.core c).l1Bad = []) → (∀ p q, ringOn ((s.part p).queueOf q).sqcfg = false) →
        ∃ t, exec (.ingressTimeout die) s = .next t ∧ (t.die die).ingress = [] ∧ t.readDev die w.addr w.data.length = w.data ∧
          (s.part w.part).ptime ≤ (t.part w.part).ptime) ∧
      (after = 0 ∨ s.now < w.at' + 1000 * after → exec (.ingressTimeout die) s = .next s)) ∧
    ∀ die since, (s.die die).withheld = some since → since + 1000000 ≤ s.now → (s.die die).ovfPosted = false →
      ∃ t, exec (.ingressOverflow die) s = .next t ∧ (t.die die).ovfPosted = true ∧ PostsF s t 0x47

/-- R292 to R296, R304, R306, R394: the close of an interval counts it, and each balance takes its grant and gives its
usage within its bounds, or stands still under a cap below the base charges; a voltage step is reached; test
strips go down setting by setting, start again at VMAX where the first one fails, and set the floor 5 above the failure
point; calibration is reported overdue; an island wakes; `bq` is told the balance and the grant of the close. Where strips
start and how long they take (log entry 72), no debit at the close that finds a cap infeasible (log entry 89), and the cap
of an overdue floor at VMAX (log entry 97) are the model's. -/
def Obligations.GovernorEvents : Prop :=
  ∀ (s : State) (i : Nat),
    let x := s.island i
    (s.power = .on → ∃ t, exec .governorIntervalClose s = .next t ∧ t.intv = s.intv + 1 ∧ t.nextClose = s.nextClose + 10000 ∧ t.now = s.now ∧ t.passDue = true ∧
      (i < 48 →
        (let y := t.island i
         y.commit = 0 ∧ y.grant ≤ 24 ∧ x.uAcc + x.base ≤ y.u ∧ y.told % 2 ^ 21 = (y.bal % 65536).toNat + y.grant * 2 ^ 16 ∧
         (t.infeas = false → y.bal = max (-32768) (min (32 * (x.grant : Int)) (x.bal + 8 * (x.grant : Int) - (y.u : Int)))) ∧
         (t.infeas = true → y.bal = x.bal ∧ y.grant = 0)))) ∧
    (∀ v, x.stepTo = some v →
      (x.stepEnd ≤ s.now → ∃ t, exec (.voltageStepReached i) s = .next t ∧ (t.island i).vset = v ∧ (t.island i).stepTo = none ∧
        (t.island i).stepEnd = x.stepEnd + 100 ∧ ∀ j, j ≠ i → t.island j = s.island j) ∧
      (s.now < x.stepEnd → exec (.voltageStepReached i) s = .next s)) ∧
    (∀ n, ∃ t, exec (.meterCorrection i n) s = .next t ∧ (t.island i).coeff = n ∧ (t.island i).bal = x.bal ∧ ∀ j, j ≠ i → t.island j = s.island j) ∧
    (x.overdue = false → x.calAt + 28800000000000 ≤ s.active →
      ∃ t, exec (.calibrationOverdue i) s = .next t ∧ (t.island i).overdue = true ∧ (t.island i).vfloor = min x.vmax (x.vfloor + 2) ∧ PostsF s t 0x6C) ∧
    (∀ fails,
      (x.strips = none → stripsMayRun s i = true → (∃ p ∈ stripCores s i, (s.wearOf p).cstate ≠ 3) →
        ∃ t g, exec (.testStrips i fails) s = .next t ∧ (t.island i).strips = some g ∧ g.cur = min x.vmax (x.vfloor + 10) ∧
          s.now + 100000 ≤ g.due ∧ (t.island i).retention = false ∧ (t.island i).vfloor = x.vfloor) ∧
      ∀ g, x.strips = some g →
        (s.now < g.due → exec (.testStrips i fails) s = .next s) ∧
        (g.due ≤ s.now →
          let bad := (stripCores s i).filter (fun p => fails.contains p && !g.gone.contains p)
          let goes (f : Island → Prop) : Prop := ∃ t, exec (.testStrips i fails) s = .next t ∧ f (t.island i)
          let down (y : Island) : Prop := ∃ h, y.strips = some h ∧ h.cur = g.cur - 1 ∧ s.now + 100000 ≤ h.due ∧ y.vfloor = x.vfloor
          let done (floor : Nat) (y : Island) : Prop := y.strips = none ∧ y.vfloor = floor ∧ y.calAt = s.active ∧ y.overdue = false
          (bad = [] → g.cur = 0 → goes (done 0)) ∧
          (bad = [] → g.cur ≠ 0 → (∃ p ∈ stripCores s i, p ∉ g.gone) → goes down) ∧
          (bad ≠ [] → g.atTop = true → g.cur + 5 ≤ x.vmax → goes (done (g.cur + 5))) ∧
          (bad ≠ [] → g.atTop = false → goes (fun y => ∃ h, y.strips = some h ∧ h.cur = x.vmax ∧ y.vfloor = x.vfloor)))) ∧
    (x.waking = true → ∃ t, exec (.islandWake i) s = .next t ∧ (t.island i).retention = false ∧ (t.island i).waking = false ∧ t.passDue = true)

/-- R274, R276, R315, R326 to R329, R357, R376: writes of a partition's registers by its virtual function. SQCFG with a
reserved field set or a ring on no object of the partition, PGRQCFG with a ring on none, and APER and SAVECAP with a value
that the partition may not name are discarded; CQHEAD and PGRQCFG drop reserved bits and take the rest, which is the
model's reading (log entry 103). -/
def Obligations.VfRegisters : Prop :=
  ∀ (s : State) (p : Nat) (v : Word), reachesVf s p = true →
    let x := s.part p
    let sets (i : Instr) (f : Part → Prop) : Prop := ∃ t, exec i s = .next t ∧ f (t.part p) ∧ t.mem = s.mem ∧ t.cores = s.cores
    (∀ q, q < 8 →
      (v.toNat / 2 ^ 6 % 4 = 0 → v.toNat / 2 ^ 32 = 0 → (v.getLsbD 0 = false ∨ ownDevice s p (v.toNat / 2 ^ 8 % 2 ^ 24) = true) →
        sets (.sqcfgWrite p q v) (fun y => (y.queueOf q).sqcfg = v ∧ (y.queueOf q).sqoff = false)) ∧
      (v.toNat / 2 ^ 6 % 4 ≠ 0 ∨ v.toNat / 2 ^ 32 ≠ 0 ∨ (v.getLsbD 0 = true ∧ ownDevice s p (v.toNat / 2 ^ 8 % 2 ^ 24) = false) →
        exec (.sqcfgWrite p q v) s = .next s) ∧
      sets (.cqheadWrite p q v) (fun y => (y.queueOf q).cqhead = v.toNat % 2 ^ 32 ∧ (y.queueOf q).written = (x.queueOf q).written)) ∧
    (ownDevice s p (v.toNat / 2 ^ 8 % 2 ^ 24) = true → sets (.pgrqcfgWrite p v) (fun y => y.pgrq = v &&& 0xFFFFFF3F#64)) ∧
    (v.getLsbD 0 = true → ownDevice s p (v.toNat / 2 ^ 8 % 2 ^ 24) = false → exec (.pgrqcfgWrite p v) s = .next s) ∧
    (∀ n, n < 64 → (v.getLsbD 0 = false ∨ aperOk s p v = true) → sets (.aperWrite p n v) (fun y => y.aper.get n 0 = v)) ∧
    sets (.savecapWrite p 0 v) (fun y => y.saveWait = some v ∧ y.savecap0 = x.savecap0 ∧ y.savecap1 = x.savecap1) ∧
    (∀ lo, x.saveWait = some lo →
      (literalOk s p (v ++ lo) = true → sets (.savecapWrite p 1 v) (fun y => y.savecap0 = lo ∧ y.savecap1 = v)) ∧
      (literalOk s p (v ++ lo) = false → sets (.savecapWrite p 1 v) (fun y => y.savecap0 = x.savecap0 ∧ y.savecap1 = x.savecap1))) ∧
    (∀ n k, s.byHandle p (v.toNat % 2 ^ 32) = some (n, k) → (k.st = .waiting ∨ k.st = .eligible) → k.nocq = false →
      ∃ t, exec (.taskkill p v) s = .next t ∧ (t.task n).map (fun k => (k.st, k.cause)) = some (.failed, 0x57)) ∧
    (v.toNat < 2 ^ 56 → (s.objOf p (v.toNat % 2 ^ 24) = none → sets (.objrdixWrite p v) (fun y => y.objrd = 0 ∧ y.objrdix = v)) ∧
      ∀ o, s.objOf p (v.toNat % 2 ^ 24) = some o → sets (.objrdixWrite p v) (fun y => y.objrd = .ofNat 256 (objEntry (v.toNat % 2 ^ 24) o))) ∧
    (0 < v.toNat → v.toNat < 2 ^ 16 → sets (.registerWrite (.vf p) 0x28 true v) (fun y => y.migcfg = v)) ∧
    sets (.registerWrite (.vf p) 0x500 true v) (fun y => y.charge = v) ∧
    sets (.registerWrite (.vf p) 0x504 false v) (fun y => y.charge = v.setWidth 32 ++ x.charge.setWidth 32) ∧
    (∀ n, n < 4 → sets (.registerWrite (.vf p) (0x1000 + 8 * n) true v) (fun y => y.objcmd.get n 0 = v)) ∧
    exec (.registerWrite (.vf p) 0x504 true v) s = .next s

/-- R297, R302, R328, R330, R404: writes of the physical function's registers, within their limits, and function level
resets, whose PARTSTAT is log entry 106's. -/
def Obligations.PfRegisters : Prop :=
  ∀ (s : State) (v : Word), reachesPf s = true →
    let n := v.toNat
    (let ok := n % 2 ^ 16 ≤ 7200 ∧ n / 2 ^ 16 % 2 ^ 16 ≤ 10000 ∧ 1004 * (n % 2 ^ 16) ≤ 1000 * (n / 2 ^ 16 % 2 ^ 16) ∧ 85 ≤ n / 2 ^ 32 % 2 ^ 8 ∧ n / 2 ^ 32 % 2 ^ 8 ≤ 115
     (ok → exec (.pkgconWrite v) s = .next { s with pkgcon := v &&& 0xFFFFFFFFFF#64 }) ∧ (¬ok → exec (.pkgconWrite v) s = .next s)) ∧
    (∀ p, p < 8 →
      (n / 2 ^ 30 ≠ 0 → exec (.psetWrite p v) s = .next s) ∧
      (n / 2 ^ 30 = 0 → v.getLsbD 0 = true → n / 2 % 2 ^ 16 + shareSum s p 1 16 ≤ 32768 → n / 2 ^ 17 % 2 ^ 13 + shareSum s p 17 13 ≤ 4096 →
        ∃ t, exec (.psetWrite p v) s = .next t ∧ (t.part p).pset = v ∧ t.passDue = true ∧ ∀ q, q ≠ p → t.part q = s.part q) ∧
      (n / 2 ^ 30 = 0 → v.getLsbD 0 = true → (32768 < n / 2 % 2 ^ 16 + shareSum s p 1 16 ∨ 4096 < n / 2 ^ 17 % 2 ^ 13 + shareSum s p 17 13) →
        exec (.psetWrite p v) s = .next s) ∧
      (∀ m, m < 8 → n < 2 ^ 15 → (∀ r, rectOf v = some r → rectOk s p m r = true) →
        ∃ t, exec (.prectWrite p m v) s = .next t ∧ (t.part p).prect.get m 0 = v ∧ t.passDue = true) ∧
      (∃ t, exec (.vfFlr p) s = .next t ∧
        (let y := t.part p
         y.supcfg = 0 ∧ y.rstcfg = 0 ∧ y.qs = [] ∧ y.aper = [] ∧ y.evq = {} ∧ y.pgrq = 0 ∧ y.objbusy = false ∧ y.partstat = 0 ∧ y.pset = (s.part p).pset ∧
         y.prect = (s.part p).prect))) ∧
    (∀ i, i < 48 → ∃ t, exec (.isldvWrite .pf i v) s = .next t ∧ (t.island i).vtgt = n / 2 ^ 21 % 2 ^ 7 ∧ (t.island i).mode = n / 2 ^ 34 % 2 ∧
      (t.island i).denied = ((s.island i).denied && !v.getLsbD 33) ∧ (t.island i).vset = (s.island i).vset) ∧
    ∃ t, exec .pfFlr s = .next t ∧ t.pkgcon = 0x6927101C20 ∧ t.refused = false ∧ t.evq = {} ∧
      (∀ p, p < 8 → (t.part p).pset = 0 ∧ (t.part p).pmem = 0 ∧ (t.part p).supcfg = 0 ∧ ∀ m, m < 8 → (t.part p).prect.get m 0 = 0) ∧
      (∀ i, i < 48 → (t.island i).vtgt = 50 ∧ (t.island i).mode = 0) ∧ ∀ l, l < 8 → (t.linkOf l).map = 0

/-- R86, R291, R329, R378, R384: object commands and what quiesce points apply: an object is installed; REMOVE, MAP and
UNMAP wait for the cores of those that hold it and are then carried out; a page is brought in; a notification schedules a
move, where no task has a placement hint; teams in the way are asked to yield at the limit. -/
def Obligations.ObjectsAndQuiescePoints : Prop :=
  (∀ (s : State) (p : Nat) (hdr : Option CodeHdr),
    let x := s.part p
    let ends (t : State) (r : Nat) : Prop := (t.part p).objbusy = false ∧ (t.part p).objres = r
    x.objbusy = true → (x.cmd 0).toNat % 16 = 1 →
    (installBad x = true → ∃ t, exec (.install p hdr) s = .next t ∧ ends t 1 ∧ t.objs = s.objs) ∧
    (installBad x = false → (s.obj (cmdOid x)).isSome = true → ∃ t, exec (.install p hdr) s = .next t ∧ ends t 2 ∧ t.objs = s.objs) ∧
    (∀ f, installBad x = false → s.obj (cmdOid x) = none → (x.cmd 1).getLsbD 13 = false → s.objs.length < 65536 →
      inShare s p (tableFrames (pageCount (installObj x p 0 hdr))) = true →
      findFrames s (installObj x p 0 hdr).home (tableFrames (pageCount (installObj x p 0 hdr))) = some f →
      ∃ t, exec (.install p hdr) s = .next t ∧ ends t 0 ∧ t.obj (cmdOid x) = some (installObj x p f hdr) ∧ t.mem = s.mem)) ∧
  (∀ (s : State) (p op : Nat) (i : Instr) (o : Obj), (op, i) ∈ [(2, Instr.removeObj), (3, .mapPage), (4, .unmapPage)] → commandsOf s op = [p] →
    let x := s.part p
    (x.cmd 0).toNat / 2 ^ 28 = 0 → (x.cmd 0).toNat % 16 = op → (x.cmd 2).toNat < 2 ^ 32 → (x.cmd 3).toNat < 2 ^ 32 →
    (s.objOf p (cmdOid x) = some o → (op = 2 ∨ (x.cmd 2).toNat < pageCount o) →
      ∃ t, exec i s = .next t ∧ t.quiesce = s.quiesce ++
        [{ cores := holderCores s (cmdOid x), since := s.now, work := .object p op (cmdOid x) (x.cmd 2).toNat (x.cmd 3).toNat }]) ∧
    (s.objOf p (cmdOid x) = none → ∃ t, exec i s = .next t ∧ (t.part p).objbusy = false ∧ (t.part p).objres = 2)) ∧
  (∀ (s : State) (q : Quiesce), s.quiesce = [q] → hasFallen s q = true →
    (∀ p oid page frame o, q.work = .object p 2 oid page frame → s.obj oid = some o →
      ∃ t, exec .quiescePoint s = .next t ∧ t.obj oid = none ∧ t.quiesce = [] ∧ (t.part p).objbusy = false ∧ (t.part p).objres = 0) ∧
    (∀ p oid page frame o, q.work = .object p 3 oid page frame → s.obj oid = some o →
      ∃ t, exec .quiescePoint s = .next t ∧ t.pageOf oid page = { state := 3, frame := frame } ∧ t.quiesce = []) ∧
    (∀ p oid page o, q.work = .bringIn p oid page → s.objOf p oid = some o → (o.pages.get page {}).state = 0 → inShare s p (pageFrames o.psz) = true →
      (findFrames s o.home (pageFrames o.psz)).isSome = true → (s.part p).pgrq = 0 →
      ∃ t, exec (.pageRequestSettle p true) s = .next t ∧ (t.pageOf oid page).state = 1 ∧ (t.pageOf oid page).die = o.home ∧ t.quiesce = [])) ∧
  (∀ (s : State) (d oid page die n : Nat), (∀ e ∈ s.tasks, ∀ k, e.2 = some k → k.home = none) → d < 4 → (∀ e, e < 4 → (s.die e).notif = if e = d then [(oid, page, die, n)] else []) →
    ∃ t, exec .notificationQueueRead s = .next t ∧ (t.die d).notif = [] ∧
      t.quiesce = s.quiesce ++ (if (s.pageOf oid page).q then [{ cores := holderCores s oid, since := s.now, work := .move oid page die }] else [])) ∧
  ∀ (s : State) (n : Nat), (∀ p ∈ s.teamCtxs n, (s.ctx p.1 p.2).st = .ready) →
    (∃ t, exec (.yieldRequest n) s = .next t ∧ ∀ p ∈ s.teamCtxs n, (t.ctx p.1 p.2).ypend = true) ∧
    ∀ q, s.quiesce = [q] → (holdersOf s q).filter (limitOver s q) = [n] →
      ∃ t, exec .quiesceLimitExpiry s = .next t ∧ ∀ p ∈ s.teamCtxs n, (t.ctx p.1 p.2).ypend = true

/-- R320, R322, R354, R356, R402, R404, R406: peer links and the host link go down and come up, a peer link retrains every
100 ms, and its replays are counted over 1 s; the management controller answers SPDM requests, refusing those that its
identity key would answer where that key failed. The model's: version 1.3, the error of a negotiation with nothing
supported and the emptied mailbox (log entry 11), the dropped event of a link that has gone down (log entry 101), and from
when 100 ms and 1 s count (log entry 110). -/
def Obligations.LinksAndAttestation : Prop :=
  (∀ (s : State) (l : Nat),
    let x := s.linkOf l
    (x.up = true → x.run + 1 < 16 → ∃ t, exec (.eplReplay l) s = .next t ∧ (t.linkOf l).up = true ∧ (t.linkOf l).cnt = x.cnt + 1 ∧ (t.linkOf l).run = x.run + 1) ∧
    (x.up = true → 16 ≤ x.run + 1 → ∃ t, exec (.eplReplay l) s = .next t ∧ (t.linkOf l).up = false ∧ (t.linkOf l).downs = min 65535 (x.downs + 1) ∧
      (x.downPosted = false → PostsF s t 0x7A)) ∧
    (x.up = false → x.map.getLsbD 0 = true → s.running = true →
      (x.tried = 0 ∨ x.tried + 100000000 ≤ s.now →
        (∃ t, exec (.eplRetrain l true) s = .next t ∧ (t.linkOf l).up = true ∧ (t.linkOf l).training = false) ∧
        ∃ t, exec (.eplRetrain l false) s = .next t ∧ (t.linkOf l).up = false ∧ (t.linkOf l).training = true) ∧
      (x.tried ≠ 0 → s.now < x.tried + 100000000 → ∀ ok, exec (.eplRetrain l ok) s = .next s)) ∧
    (x.winAt + 1000000000 ≤ s.now → ∃ t, exec (.eplReplayWindow l) s = .next t ∧ (t.linkOf l).replays = min x.cnt (2 ^ 32 - 1) ∧
      (t.linkOf l).cnt = 0 ∧ (t.linkOf l).winAt = s.now ∧ (1024 < x.cnt → PostsF s t 0x7B)) ∧
    (s.now < x.winAt + 1000000000 → exec (.eplReplayWindow l) s = .next s)) ∧
  (∀ s : State, (s.linkUp = true → ∃ t, exec .pcieLink s = .next t ∧ t.linkUp = false ∧ (ringOn s.evq.cfg = true → t.evq.dropped = s.evq.dropped + 1)) ∧
    (s.power = .on → ∃ t, exec .hostLinkUp s = .next t ∧ t.linkUp = true)) ∧
  ∀ s : State, s.power = .on →
    let replies (i : Instr) (n : Nat) (err : Bool) (v : Word → Prop) : Prop :=
      ∃ t w rest, exec i s = .next t ∧ t.out = s.out ++ .spdm n err w :: rest ∧ v w ∧ t.spdmSeen = s.spdmSeen + 1 ∧ t.spdmIn = [] ∧ t.mem = s.mem ∧
        rest = if n = 7 ∧ err = false then [.hashes s.nor.booted.fwHash s.nor.booted.cfgHash] else []
    replies .spdmGetVersion 1 false (fun w => w = 0x13) ∧ replies .spdmGetCapabilities 2 false (fun _ => True) ∧
    (∀ a b, replies (.spdmNegotiateAlgorithms a b) 3 (!(a && b)) (fun w => (a && b) = false → w = 0)) ∧
    ∀ i n, (i, n) ∈ [(Instr.spdmGetDigests, 4), (.spdmGetCertificate, 5), (.spdmChallenge, 6), (.spdmGetMeasurements, 7)] →
      replies i n (!s.nor.idOk) (fun w => s.nor.idOk = false → w = 0)

/-- R312, R322 to R325, R398, R404 to R407: power-on boots from the first slot that passes steps 1 and 2, with its remap
entries, or fails; power-off and Retain leave what they leave, the lifetime record is written, and a wake goes on at a close
of the interval grid with the boot's CODE. The model's: empty memory after power-on and power loss (log entry 5), time 0
(log entry 7), which record is taken, the boot code, and STAGE where both slots fail (log entry 98). -/
def Obligations.PowerStates : Prop :=
  ∀ s : State,
    let goes (i : Instr) (f : State → Prop) : Prop := ∃ t, exec i s = .next t ∧ f t
    let good : Prop := s.nor.slotA.passes = true ∨ s.nor.slotB.passes = true
    let recorded (t : State) : Prop := newestRec t.nor = some { seq := max s.nor.rec0.seq s.nor.rec1.seq + 1, valid := true, wear := s.wear }
    let hot := (∃ i, i < 48 ∧ s.tj + 10 ≤ (s.island i).temp) ∨ ∃ since, s.trip = some since ∧ since + 100000000 ≤ s.now
    (s.power = .off ∨ s.power = .failed →
      (good → goes .powerOn (fun t => t.power = .on ∧ t.now = 0 ∧ t.mem = [] ∧ t.cores = [] ∧ t.linkUp = true ∧
        t.remap = (if s.nor.slotA.passes then s.nor.slotA.remap else s.nor.slotB.remap) ∧
        t.bootstat.getLsbD 3 = !s.nor.slotA.passes ∧ t.bootstat.toNat % 8 = 5 ∧ (s.nor.idOk = true → (loadRecord s.nor).2 = false → t.bootstat.toNat / 2 ^ 6 = 0))) ∧
      (¬good → goes .powerOn (fun t => t.power = .failed ∧ t.linkUp = false ∧ t.out = s.out ++ [.sideband 0x7C] ∧
        t.bootstat.toNat % 8 = (if s.nor.slotB.ok1 then 1 else 0)))) ∧
    (s.power = .on →
      goes .powerLoss (fun t => t.power = .off ∧ t.mem = [] ∧ t.cores = [] ∧ t.nor.dirtyLoss = true ∧ t.out = s.out) ∧
      goes .orderlyPowerOff (fun t => t.power = .off ∧ t.cores = [] ∧ recorded t) ∧
      (s.recAt + 600000000000 ≤ s.now → goes .lifetimeRecordWrite (fun t => recorded t ∧ t.recAt = s.now ∧ t.cores = s.cores ∧ t.mem = s.mem)) ∧
      (anyResident s = true → goes .pwrctlRetain (fun t => t.power = .on ∧ t.refused = true ∧ t.cores = s.cores)) ∧
      (anyResident s = false → goes .pwrctlRetain (fun t => t.power = .retain ∧ t.cores = [])) ∧
      goes .perstAssert (fun t => t.power = .retain ∧ t.linkUp = false ∧ t.cores = [] ∧ t.tasks = []) ∧
      (hot → goes .thermalTripTimeout (fun t => t.power = .retain ∧ t.cores = [] ∧ t.tasks = [] ∧ t.teams = []))) ∧
    (s.power = .retain → ∀ i ∈ [Instr.pwrctlWake, .sidebandWake, .perstDeassert],
      (good → goes i (fun t => t.power = .on ∧ t.nextClose = (s.now / 10000 + 1) * 10000 ∧ t.passDue = true ∧ t.mem = s.mem ∧
        (s.bootstat.toNat / 2 ^ 6 % 2 ^ 7 ≠ 0x7C → t.bootstat.toNat / 2 ^ 6 = s.bootstat.toNat / 2 ^ 6 % 2 ^ 7))) ∧
      (¬good → goes i (fun t => t.power = .retain ∧ t.out = s.out ++ [.sideband 0x7C])))

/-! ## Tasks, teams, barriers and messages (R39 to R49, R257 to R281, R284 to R288) -/

/-- R40, R47, R49, R57, R276, R281, R285, R287: a pass whose one candidate is a task of one core and one variant places
it at the origin that comes first among those that qualify, admits it and loads its context. A loaded team starts: its
contexts are Ready, or at the restore entry in supervisor mode, or Ended as they were. A team that is done frees its slots;
its task ends with the iterations left unclaimed, and its completion entry waits for its ring, or with NOCQ its table entry
is free. An energy hold that has lasted 1 ms posts FALLBACK_PRESSURE once. A ring entry that is ready is written in its
place with its PHASE. -/
def Obligations.DispatcherEvents : Prop :=
  (∀ (s : State) (k : Task) (n oid x0 y0 base : Nat) (v : Variant) (c : Cand),
    let u := passStart s
    let w : Want := { id := n, task := k, v := v, oid := oid, back := none }
    let core := 16 * y0 + x0
    s.power = .on → s.teams = [] → candidates u = [c] → c.team = none → c.task = n → s.now < c.time + 2000000 → (∀ p, (s.part p).resv = none) →
    s.task n = some k → k.rng = false → k.a = 0 → k.b = 0 → k.pref = none → k.vars.length = 1 → taskVariant u k 0 = some (v, oid) →
    firstRect u w true (fun o => qualifies u w o.1 o.2) = some (x0, y0) → energyShort u w [core] = [] → baseOn u [core] v = some base →
    (u.island (u.islandOf core)).retention = false →
    ∃ t slot, exec .dispatcherPass s = .next t ∧ t.passDue = false ∧ (t.task n).map (·.st) = some .running ∧
      (t.team s.nextTeam).map (·.st) = some .loading ∧
      (let d := t.ctx core slot
       d.st = .loading ∧ d.team = s.nextTeam ∧ d.tidx = 0 ∧ d.x0 = x0 ∧ d.y0 = y0 ∧ d.part = k.part ∧ d.extbase = base ∧ d.extent = v.spad ∧ d.nacc = v.acc ∧
       d.oid = oid ∧ d.sup = false ∧ d.a.pc = v.entry ∧ d.a.k = k.caps ∧ (∀ i, i < k.args.length → d.a.s.get (i + 1) 0 = k.args.getD i 0) ∧
       d.a.fa = 2 ∧ d.a.rm = 0)) ∧
  (∀ (s : State) (w : Want) (f : Nat × Nat → Bool) (o : Nat × Nat), firstRect s w true f = some o →
    o ∈ origins w.task.a w.task.b ∧ f o = true ∧
    ∀ r ∈ origins w.task.a w.task.b, f r = true → keyLess (rectKey s w true r) (rectKey s w true o) = false) ∧
  (∀ (s : State) (n : Nat) (m : Team), s.teams = [(n, some m)] →
    (m.st = .loading →
      ∃ t, exec .teamLoaded s = .next t ∧ (t.team n).map (·.st) = some .running ∧
        ∀ p ∈ s.teamCtxs n,
          let d := t.ctx p.1 p.2
          match m.kept.find? (fun k => k.tidx == (s.ctx p.1 p.2).tidx) with
          | none => d.st = .ready
          | some k => if k.ended then d.st = .ended
            else d.st = .supervisor ∧ d.sup = true ∧ d.spc = (s.part d.part).rstcfg.toNat % 2 ^ 24) ∧
    (∀ k, teamDone s n m = true → s.task m.task = some k → (s.part k.part).pset.getLsbD 0 = true →
      ∃ t, exec .teamComplete s = .next t ∧ t.team n = none ∧ (∀ p ∈ s.teamCtxs n, (t.ctx p.1 p.2).st = .free) ∧
        (k.nocq = false → ∃ k', t.task m.task = some k' ∧ k'.st = (if k.cause = 0 then .complete else .failed) ∧
          k'.uncl = k.uncl + (match m.rangeE with
            | some (f, e) => e - f
            | none => 0) ∧
          ((t.part k.part).queueOf k.cq).waiting = ((s.part k.part).queueOf k.cq).waiting ++
            [(cqEntry (s.handle m.task) k.cause (k.cause != 0) false k.tag k'.joules k'.uncl, some m.task)]) ∧
        (k.nocq = true → (∀ p q, ringOn ((s.part p).queueOf q).sqcfg = false) → t.task m.task = none))) ∧
  (∀ s : State,
    (∃ t, exec .fallbackPressure s = .next t ∧ ∀ n k, s.task n = some k → k.st = .eligible → k.holdPosted = false →
      ∀ since, k.holdSince = some since → since + 1000000 ≤ s.now → (t.task n).map (·.holdPosted) = some true) ∧
    (∀ n k, s.tasks.filter (fun e => e.2.any (holdDue s)) = [(n, some k)] → s.task n = some k →
      ∃ t, exec .fallbackPressure s = .next t ∧ PostsE s t k.part 0x64 ∧ t.task n = some { k with holdPosted := true } ∧
        ∀ j, j ≠ n → t.task j = s.task j) ∧
    (s.tasks.filter (fun e => e.2.any (holdDue s)) = [] → exec .fallbackPressure s = .next s)) ∧
  ∀ (s : State) (p q : Nat) (e : BitVec 256) (i : Option Nat) (r : List (BitVec 256 × Option Nat)),
    let x := (s.part p).queueOf q
    let ln := x.cqcfg.toNat / 2 % 2 ^ 5
    x.waiting = (e, i) :: r →
    let writes (t : State) : Prop := ∃ rest, t.out = s.out ++ .pcieWrite (.vf p) (x.cqcfg.toNat / 2 ^ 12 * 4096 + 32 * (x.written % 2 ^ ln))
      (toBytes 32 (e.toNat + (1 - x.written / 2 ^ ln % 2) * 2 ^ 63)) :: rest
    (ringsReady s true = [(p, q)] → e.getLsbD 40 = true →
      ∃ t, exec .acceptanceEntryWrite s = .next t ∧ writes t ∧ ((t.part p).queueOf q).written = x.written + 1 ∧ ((t.part p).queueOf q).waiting = r) ∧
    (ringsReady s false = [(p, q)] → e.getLsbD 40 = false →
      ∃ t, exec .completionEntryWrite s = .next t ∧ writes t ∧ ((t.part p).queueOf q).written = x.written + 1 ∧
        (i = none → ((t.part p).queueOf q).waiting = r) ∧
        (∀ n, i = some n → (∀ p q, ringOn ((s.part p).queueOf q).sqcfg = false) → t.task n = none ∧ ((t.part p).queueOf q).waiting = r)) ∧
    (ringsReady s true = [] → exec .acceptanceEntryWrite s = .next s) ∧ (ringsReady s false = [] → exec .completionEntryWrite s = .next s)

/-- R257 to R261, R264 to R266: one arrival counts, with the token of its phase; the last completes the phase and ends the
waits on it; a release and an init answer bring a member the root's phases, and a barrier of another team or root is not
the release's; a message joins its queue or serves the `deqm` that waits; an `enqt` gets its handle or its refusal, ENQ_FULL
before TASK_DESC, which order is the model's (log entry 31). -/
def Obligations.BarrierAndMessageEvents : Prop :=
  (∀ (s : State) (a : Arrival) (dst : Dst) (seq tag : Nat), s.arrs = [a] → a.for' = .token dst seq tag →
    let b := (s.core a.core).barrier a.n
    let c := s.ctx a.from' a.slot
    b.scope = 0 → (b.team = none ∨ b.team = some a.team) → c.team = a.team → stays c = true →
    let counts (arrived phases : Nat) (f : State → Prop) : Prop := ∃ t, exec .barrierArrival s = .next t ∧ t.arrs = [] ∧
      (let y := (t.core a.core).barrier a.n
       y.arrived = arrived ∧ y.phases = phases ∧ y.expect = b.expect ∧ y.team = some a.team) ∧
      (t.ctx a.from' a.slot).res = c.res ++ [{ dst := dst, val := .ofNat 512 b.phases, due := seq + 8, seq := seq, tag := tag, fixed := false }] ∧ f t
    ((b.expect = 0 ∨ b.arrived + 1 < b.expect) → b.phases < 2 ^ 16 → counts (b.arrived + 1) b.phases (fun _ => True)) ∧
    (b.expect = b.arrived + 1 → counts 0 ((b.phases + 1) % 2 ^ 16) (fun t =>
      ∀ i tok, i < 4 → (s.ctx a.core i).st = .waiting → (s.ctx a.core i).wait = .barrier a.n (some tok) →
        1 ≤ ((b.phases + 1) % 2 ^ 16 + 2 ^ 16 - tok % 2 ^ 16) % 2 ^ 16 → ((b.phases + 1) % 2 ^ 16 + 2 ^ 16 - tok % 2 ^ 16) % 2 ^ 16 ≤ 32767 →
        (t.ctx a.core i).st = .ready))) ∧
  (∀ (s : State) (r : Release),
    let b := (s.core r.core).barrier r.n
    (s.rels = [r] → s.answers = [] → b.scope = 1 → b.team = some r.team → b.root = r.root → waitOver r.phases b.phases = true →
      ∃ t, exec .barrierReleaseMessage s = .next t ∧ t.rels = [] ∧ ((t.core r.core).barrier r.n).phases = r.phases) ∧
    (s.rels = [r] → s.answers = [] → b.team ≠ some r.team ∨ b.root ≠ r.root → exec .barrierReleaseMessage s = .next { s with rels := [] }) ∧
    (s.answers = [r] → ∃ t, exec .barrierInitAnswer s = .next t ∧ t.answers = [] ∧ ((t.core r.core).barrier r.n).phases = r.phases)) ∧
  (∀ (s : State) (f : Flight) (core slot : Nat), s.flights = [f] → f.ack = none → s.whereIs f.team f.tidx = some (core, slot) →
    stays (s.ctx f.from' f.fslot) = true →
    let c := s.ctx core slot
    (c.st = .ready → ∃ t, exec .messageDelivery s = .next t ∧ t.flights = [] ∧
      (let d := t.ctx core slot
       d.queue f.q = c.queue f.q ++ [f.m] ∧ d.reserved f.q = c.reserved f.q - 1 ∧ d.st = .ready)) ∧
    (∀ ha sb tag, c.st = .waiting → c.wait = .queue f.q ha sb tag → ∃ t, exec .messageDelivery s = .next t ∧ t.flights = [] ∧
      (let d := t.ctx core slot
       d.st = .ready ∧ d.wait = .none ∧ d.queue f.q = c.queue f.q ∧
       d.res = c.res ++ [{ dst := .h ha, val := f.m.val.setWidth 512, due := c.waitSeq + 8, seq := c.waitSeq, tag := 0, fixed := false },
         { dst := c.dstS sb, val := .ofNat 512 (f.m.src % 256 + f.q % 4 * 256 + 2 ^ 63), due := c.waitSeq + 8, seq := c.waitSeq, tag := tag, fixed := false }]))) ∧
  ∀ (s : State) (e : Enq) (desc : Except Nat Nat) (u : State), s.enqs = [e] →
    let c := s.ctx e.core e.slot
    e.pcie ≠ 1 → c.team = e.team → stays c = true → readDesc { s.draw with enqs := [] } e = (u, desc) →
    let gets (f : State → Word → Prop) : Prop := ∃ t v, exec .enqtResult s = .next t ∧ t.enqs = [] ∧ f t v ∧
      (t.ctx e.core e.slot).res = c.res ++ [{ dst := e.dst, val := v.setWidth 512, due := e.seq + 16, seq := e.seq, tag := e.tag, fixed := false }]
    (∀ d, desc = .ok d →
      (shareFull u c.part = true → gets (fun _ v => v = .ofNat 64 (0x55 * 2 ^ 32 + 2 ^ 63))) ∧
      (shareFull u c.part = false → descOk u c.part d (fun i => e.caps.get i 0) false = false → gets (fun _ v => v = .ofNat 64 (0x56 * 2 ^ 32 + 2 ^ 63))) ∧
      (shareFull u c.part = false → descOk u c.part d (fun i => e.caps.get i 0) false = true →
        gets (fun t v => ∃ n k, t.task n = some k ∧ k.part = c.part ∧ v = .ofNat 64 (n % 2 ^ 15 + k.gen % 2 ^ 17 * 2 ^ 15)))) ∧
    ∀ code, desc = .error code → (u.ctx e.core e.slot).wait ≠ .stopped → ∃ t f, exec .enqtResult s = .next t ∧ f ∈ (t.ctx e.core e.slot).faults ∧ f.code = code ∧ f.tinst = e.waddr ∧ f.tag = e.tag
end

