-- ==== Sys2Proof/Laws/State.lean ====
section
/-!
SUPPORT. Sys2Proof/Laws/State.lean: what each update of the state leaves alone, field by field.
-/
namespace Sys2Proof.Machine

/-! `State.setCore` changes `cores` alone. -/
@[simp] theorem State.setCore_now (s : State) (c : Nat) (v : Core) : (s.setCore c v).now = s.now := rfl
@[simp] theorem State.setCore_nextClose (s : State) (c : Nat) (v : Core) : (s.setCore c v).nextClose = s.nextClose := rfl
@[simp] theorem State.setCore_intv (s : State) (c : Nat) (v : Core) : (s.setCore c v).intv = s.intv := rfl
@[simp] theorem State.setCore_power (s : State) (c : Nat) (v : Core) : (s.setCore c v).power = s.power := rfl
@[simp] theorem State.setCore_dies (s : State) (c : Nat) (v : Core) : (s.setCore c v).dies = s.dies := rfl
@[simp] theorem State.setCore_mem (s : State) (c : Nat) (v : Core) : (s.setCore c v).mem = s.mem := rfl
@[simp] theorem State.setCore_l2Old (s : State) (c : Nat) (v : Core) : (s.setCore c v).l2Old = s.l2Old := rfl
@[simp] theorem State.setCore_l1Old (s : State) (c : Nat) (v : Core) : (s.setCore c v).l1Old = s.l1Old := rfl
@[simp] theorem State.setCore_objs (s : State) (c : Nat) (v : Core) : (s.setCore c v).objs = s.objs := rfl
@[simp] theorem State.setCore_flash (s : State) (c : Nat) (v : Core) : (s.setCore c v).flash = s.flash := rfl
@[simp] theorem State.setCore_remap (s : State) (c : Nat) (v : Core) : (s.setCore c v).remap = s.remap := rfl
@[simp] theorem State.setCore_wear (s : State) (c : Nat) (v : Core) : (s.setCore c v).wear = s.wear := rfl
@[simp] theorem State.setCore_islands (s : State) (c : Nat) (v : Core) : (s.setCore c v).islands = s.islands := rfl
@[simp] theorem State.setCore_parts (s : State) (c : Nat) (v : Core) : (s.setCore c v).parts = s.parts := rfl
@[simp] theorem State.setCore_tasks (s : State) (c : Nat) (v : Core) : (s.setCore c v).tasks = s.tasks := rfl
@[simp] theorem State.setCore_gens (s : State) (c : Nat) (v : Core) : (s.setCore c v).gens = s.gens := rfl
@[simp] theorem State.setCore_accepts (s : State) (c : Nat) (v : Core) : (s.setCore c v).accepts = s.accepts := rfl
@[simp] theorem State.setCore_teams (s : State) (c : Nat) (v : Core) : (s.setCore c v).teams = s.teams := rfl
@[simp] theorem State.setCore_nextTeam (s : State) (c : Nat) (v : Core) : (s.setCore c v).nextTeam = s.nextTeam := rfl
@[simp] theorem State.setCore_lastServed (s : State) (c : Nat) (v : Core) : (s.setCore c v).lastServed = s.lastServed := rfl
@[simp] theorem State.setCore_quiesce (s : State) (c : Nat) (v : Core) : (s.setCore c v).quiesce = s.quiesce := rfl
@[simp] theorem State.setCore_passDue (s : State) (c : Nat) (v : Core) : (s.setCore c v).passDue = s.passDue := rfl
@[simp] theorem State.setCore_posted (s : State) (c : Nat) (v : Core) : (s.setCore c v).posted = s.posted := rfl
@[simp] theorem State.setCore_arrs (s : State) (c : Nat) (v : Core) : (s.setCore c v).arrs = s.arrs := rfl
@[simp] theorem State.setCore_rels (s : State) (c : Nat) (v : Core) : (s.setCore c v).rels = s.rels := rfl
@[simp] theorem State.setCore_answers (s : State) (c : Nat) (v : Core) : (s.setCore c v).answers = s.answers := rfl
@[simp] theorem State.setCore_order (s : State) (c : Nat) (v : Core) : (s.setCore c v).order = s.order := rfl
@[simp] theorem State.setCore_flashBad (s : State) (c : Nat) (v : Core) : (s.setCore c v).flashBad = s.flashBad := rfl
@[simp] theorem State.setCore_claimNo (s : State) (c : Nat) (v : Core) : (s.setCore c v).claimNo = s.claimNo := rfl
@[simp] theorem State.setCore_spdmIn (s : State) (c : Nat) (v : Core) : (s.setCore c v).spdmIn = s.spdmIn := rfl
@[simp] theorem State.setCore_linkWait (s : State) (c : Nat) (v : Core) : (s.setCore c v).linkWait = s.linkWait := rfl
@[simp] theorem State.setCore_flights (s : State) (c : Nat) (v : Core) : (s.setCore c v).flights = s.flights := rfl
@[simp] theorem State.setCore_enqs (s : State) (c : Nat) (v : Core) : (s.setCore c v).enqs = s.enqs := rfl
@[simp] theorem State.setCore_pkgcon (s : State) (c : Nat) (v : Core) : (s.setCore c v).pkgcon = s.pkgcon := rfl
@[simp] theorem State.setCore_refused (s : State) (c : Nat) (v : Core) : (s.setCore c v).refused = s.refused := rfl
@[simp] theorem State.setCore_pwrstat (s : State) (c : Nat) (v : Core) : (s.setCore c v).pwrstat = s.pwrstat := rfl
@[simp] theorem State.setCore_bootstat (s : State) (c : Nat) (v : Core) : (s.setCore c v).bootstat = s.bootstat := rfl
@[simp] theorem State.setCore_evq (s : State) (c : Nat) (v : Core) : (s.setCore c v).evq = s.evq := rfl
@[simp] theorem State.setCore_bp (s : State) (c : Nat) (v : Core) : (s.setCore c v).bp = s.bp := rfl
@[simp] theorem State.setCore_bpSteps (s : State) (c : Nat) (v : Core) : (s.setCore c v).bpSteps = s.bpSteps := rfl
@[simp] theorem State.setCore_thlim (s : State) (c : Nat) (v : Core) : (s.setCore c v).thlim = s.thlim := rfl
@[simp] theorem State.setCore_peaklim (s : State) (c : Nat) (v : Core) : (s.setCore c v).peaklim = s.peaklim := rfl
@[simp] theorem State.setCore_trip (s : State) (c : Nat) (v : Core) : (s.setCore c v).trip = s.trip := rfl
@[simp] theorem State.setCore_tripDies (s : State) (c : Nat) (v : Core) : (s.setCore c v).tripDies = s.tripDies := rfl
@[simp] theorem State.setCore_infeas (s : State) (c : Nat) (v : Core) : (s.setCore c v).infeas = s.infeas := rfl
@[simp] theorem State.setCore_floorsAt (s : State) (c : Nat) (v : Core) : (s.setCore c v).floorsAt = s.floorsAt := rfl
@[simp] theorem State.setCore_bootEvents (s : State) (c : Nat) (v : Core) : (s.setCore c v).bootEvents = s.bootEvents := rfl
@[simp] theorem State.setCore_epl (s : State) (c : Nat) (v : Core) : (s.setCore c v).epl = s.epl := rfl
@[simp] theorem State.setCore_linkUp (s : State) (c : Nat) (v : Core) : (s.setCore c v).linkUp = s.linkUp := rfl
@[simp] theorem State.setCore_spdmSeen (s : State) (c : Nat) (v : Core) : (s.setCore c v).spdmSeen = s.spdmSeen := rfl
@[simp] theorem State.setCore_nor (s : State) (c : Nat) (v : Core) : (s.setCore c v).nor = s.nor := rfl
@[simp] theorem State.setCore_recAt (s : State) (c : Nat) (v : Core) : (s.setCore c v).recAt = s.recAt := rfl
@[simp] theorem State.setCore_active (s : State) (c : Nat) (v : Core) : (s.setCore c v).active = s.active := rfl
@[simp] theorem State.setCore_saved (s : State) (c : Nat) (v : Core) : (s.setCore c v).saved = s.saved := rfl
@[simp] theorem State.setCore_out (s : State) (c : Nat) (v : Core) : (s.setCore c v).out = s.out := rfl
@[simp] theorem State.setCore_agenda (s : State) (c : Nat) (v : Core) : (s.setCore c v).agenda = s.agenda := rfl
@[simp] theorem State.setCore_fresh (s : State) (c : Nat) (v : Core) : (s.setCore c v).fresh = s.fresh := rfl
@[simp] theorem State.setCore_cur (s : State) (c : Nat) (v : Core) : (s.setCore c v).cur = s.cur := rfl

/-! `State.updCore` changes `cores` alone. -/
@[simp] theorem State.updCore_now (s : State) (c : Nat) (f : Core → Core) : (s.updCore c f).now = s.now := rfl
@[simp] theorem State.updCore_nextClose (s : State) (c : Nat) (f : Core → Core) : (s.updCore c f).nextClose = s.nextClose := rfl
@[simp] theorem State.updCore_intv (s : State) (c : Nat) (f : Core → Core) : (s.updCore c f).intv = s.intv := rfl
@[simp] theorem State.updCore_power (s : State) (c : Nat) (f : Core → Core) : (s.updCore c f).power = s.power := rfl
@[simp] theorem State.updCore_dies (s : State) (c : Nat) (f : Core → Core) : (s.updCore c f).dies = s.dies := rfl
@[simp] theorem State.updCore_mem (s : State) (c : Nat) (f : Core → Core) : (s.updCore c f).mem = s.mem := rfl
@[simp] theorem State.updCore_l2Old (s : State) (c : Nat) (f : Core → Core) : (s.updCore c f).l2Old = s.l2Old := rfl
@[simp] theorem State.updCore_l1Old (s : State) (c : Nat) (f : Core → Core) : (s.updCore c f).l1Old = s.l1Old := rfl
@[simp] theorem State.updCore_objs (s : State) (c : Nat) (f : Core → Core) : (s.updCore c f).objs = s.objs := rfl
@[simp] theorem State.updCore_flash (s : State) (c : Nat) (f : Core → Core) : (s.updCore c f).flash = s.flash := rfl
@[simp] theorem State.updCore_remap (s : State) (c : Nat) (f : Core → Core) : (s.updCore c f).remap = s.remap := rfl
@[simp] theorem State.updCore_wear (s : State) (c : Nat) (f : Core → Core) : (s.updCore c f).wear = s.wear := rfl
@[simp] theorem State.updCore_islands (s : State) (c : Nat) (f : Core → Core) : (s.updCore c f).islands = s.islands := rfl
@[simp] theorem State.updCore_parts (s : State) (c : Nat) (f : Core → Core) : (s.updCore c f).parts = s.parts := rfl
@[simp] theorem State.updCore_tasks (s : State) (c : Nat) (f : Core → Core) : (s.updCore c f).tasks = s.tasks := rfl
@[simp] theorem State.updCore_gens (s : State) (c : Nat) (f : Core → Core) : (s.updCore c f).gens = s.gens := rfl
@[simp] theorem State.updCore_accepts (s : State) (c : Nat) (f : Core → Core) : (s.updCore c f).accepts = s.accepts := rfl
@[simp] theorem State.updCore_teams (s : State) (c : Nat) (f : Core → Core) : (s.updCore c f).teams = s.teams := rfl
@[simp] theorem State.updCore_nextTeam (s : State) (c : Nat) (f : Core → Core) : (s.updCore c f).nextTeam = s.nextTeam := rfl
@[simp] theorem State.updCore_lastServed (s : State) (c : Nat) (f : Core → Core) : (s.updCore c f).lastServed = s.lastServed := rfl
@[simp] theorem State.updCore_quiesce (s : State) (c : Nat) (f : Core → Core) : (s.updCore c f).quiesce = s.quiesce := rfl
@[simp] theorem State.updCore_passDue (s : State) (c : Nat) (f : Core → Core) : (s.updCore c f).passDue = s.passDue := rfl
@[simp] theorem State.updCore_posted (s : State) (c : Nat) (f : Core → Core) : (s.updCore c f).posted = s.posted := rfl
@[simp] theorem State.updCore_arrs (s : State) (c : Nat) (f : Core → Core) : (s.updCore c f).arrs = s.arrs := rfl
@[simp] theorem State.updCore_rels (s : State) (c : Nat) (f : Core → Core) : (s.updCore c f).rels = s.rels := rfl
@[simp] theorem State.updCore_answers (s : State) (c : Nat) (f : Core → Core) : (s.updCore c f).answers = s.answers := rfl
@[simp] theorem State.updCore_order (s : State) (c : Nat) (f : Core → Core) : (s.updCore c f).order = s.order := rfl
@[simp] theorem State.updCore_flashBad (s : State) (c : Nat) (f : Core → Core) : (s.updCore c f).flashBad = s.flashBad := rfl
@[simp] theorem State.updCore_claimNo (s : State) (c : Nat) (f : Core → Core) : (s.updCore c f).claimNo = s.claimNo := rfl
@[simp] theorem State.updCore_spdmIn (s : State) (c : Nat) (f : Core → Core) : (s.updCore c f).spdmIn = s.spdmIn := rfl
@[simp] theorem State.updCore_linkWait (s : State) (c : Nat) (f : Core → Core) : (s.updCore c f).linkWait = s.linkWait := rfl
@[simp] theorem State.updCore_flights (s : State) (c : Nat) (f : Core → Core) : (s.updCore c f).flights = s.flights := rfl
@[simp] theorem State.updCore_enqs (s : State) (c : Nat) (f : Core → Core) : (s.updCore c f).enqs = s.enqs := rfl
@[simp] theorem State.updCore_pkgcon (s : State) (c : Nat) (f : Core → Core) : (s.updCore c f).pkgcon = s.pkgcon := rfl
@[simp] theorem State.updCore_refused (s : State) (c : Nat) (f : Core → Core) : (s.updCore c f).refused = s.refused := rfl
@[simp] theorem State.updCore_pwrstat (s : State) (c : Nat) (f : Core → Core) : (s.updCore c f).pwrstat = s.pwrstat := rfl
@[simp] theorem State.updCore_bootstat (s : State) (c : Nat) (f : Core → Core) : (s.updCore c f).bootstat = s.bootstat := rfl
@[simp] theorem State.updCore_evq (s : State) (c : Nat) (f : Core → Core) : (s.updCore c f).evq = s.evq := rfl
@[simp] theorem State.updCore_bp (s : State) (c : Nat) (f : Core → Core) : (s.updCore c f).bp = s.bp := rfl
@[simp] theorem State.updCore_bpSteps (s : State) (c : Nat) (f : Core → Core) : (s.updCore c f).bpSteps = s.bpSteps := rfl
@[simp] theorem State.updCore_thlim (s : State) (c : Nat) (f : Core → Core) : (s.updCore c f).thlim = s.thlim := rfl
@[simp] theorem State.updCore_peaklim (s : State) (c : Nat) (f : Core → Core) : (s.updCore c f).peaklim = s.peaklim := rfl
@[simp] theorem State.updCore_trip (s : State) (c : Nat) (f : Core → Core) : (s.updCore c f).trip = s.trip := rfl
@[simp] theorem State.updCore_tripDies (s : State) (c : Nat) (f : Core → Core) : (s.updCore c f).tripDies = s.tripDies := rfl
@[simp] theorem State.updCore_infeas (s : State) (c : Nat) (f : Core → Core) : (s.updCore c f).infeas = s.infeas := rfl
@[simp] theorem State.updCore_floorsAt (s : State) (c : Nat) (f : Core → Core) : (s.updCore c f).floorsAt = s.floorsAt := rfl
@[simp] theorem State.updCore_bootEvents (s : State) (c : Nat) (f : Core → Core) : (s.updCore c f).bootEvents = s.bootEvents := rfl
@[simp] theorem State.updCore_epl (s : State) (c : Nat) (f : Core → Core) : (s.updCore c f).epl = s.epl := rfl
@[simp] theorem State.updCore_linkUp (s : State) (c : Nat) (f : Core → Core) : (s.updCore c f).linkUp = s.linkUp := rfl
@[simp] theorem State.updCore_spdmSeen (s : State) (c : Nat) (f : Core → Core) : (s.updCore c f).spdmSeen = s.spdmSeen := rfl
@[simp] theorem State.updCore_nor (s : State) (c : Nat) (f : Core → Core) : (s.updCore c f).nor = s.nor := rfl
@[simp] theorem State.updCore_recAt (s : State) (c : Nat) (f : Core → Core) : (s.updCore c f).recAt = s.recAt := rfl
@[simp] theorem State.updCore_active (s : State) (c : Nat) (f : Core → Core) : (s.updCore c f).active = s.active := rfl
@[simp] theorem State.updCore_saved (s : State) (c : Nat) (f : Core → Core) : (s.updCore c f).saved = s.saved := rfl
@[simp] theorem State.updCore_out (s : State) (c : Nat) (f : Core → Core) : (s.updCore c f).out = s.out := rfl
@[simp] theorem State.updCore_agenda (s : State) (c : Nat) (f : Core → Core) : (s.updCore c f).agenda = s.agenda := rfl
@[simp] theorem State.updCore_fresh (s : State) (c : Nat) (f : Core → Core) : (s.updCore c f).fresh = s.fresh := rfl
@[simp] theorem State.updCore_cur (s : State) (c : Nat) (f : Core → Core) : (s.updCore c f).cur = s.cur := rfl

/-! `State.setCtx` changes `cores` alone. -/
@[simp] theorem State.setCtx_now (s : State) (c i : Nat) (v : Ctx) : (s.setCtx c i v).now = s.now := rfl
@[simp] theorem State.setCtx_nextClose (s : State) (c i : Nat) (v : Ctx) : (s.setCtx c i v).nextClose = s.nextClose := rfl
@[simp] theorem State.setCtx_intv (s : State) (c i : Nat) (v : Ctx) : (s.setCtx c i v).intv = s.intv := rfl
@[simp] theorem State.setCtx_power (s : State) (c i : Nat) (v : Ctx) : (s.setCtx c i v).power = s.power := rfl
@[simp] theorem State.setCtx_dies (s : State) (c i : Nat) (v : Ctx) : (s.setCtx c i v).dies = s.dies := rfl
@[simp] theorem State.setCtx_mem (s : State) (c i : Nat) (v : Ctx) : (s.setCtx c i v).mem = s.mem := rfl
@[simp] theorem State.setCtx_l2Old (s : State) (c i : Nat) (v : Ctx) : (s.setCtx c i v).l2Old = s.l2Old := rfl
@[simp] theorem State.setCtx_l1Old (s : State) (c i : Nat) (v : Ctx) : (s.setCtx c i v).l1Old = s.l1Old := rfl
@[simp] theorem State.setCtx_objs (s : State) (c i : Nat) (v : Ctx) : (s.setCtx c i v).objs = s.objs := rfl
@[simp] theorem State.setCtx_flash (s : State) (c i : Nat) (v : Ctx) : (s.setCtx c i v).flash = s.flash := rfl
@[simp] theorem State.setCtx_remap (s : State) (c i : Nat) (v : Ctx) : (s.setCtx c i v).remap = s.remap := rfl
@[simp] theorem State.setCtx_wear (s : State) (c i : Nat) (v : Ctx) : (s.setCtx c i v).wear = s.wear := rfl
@[simp] theorem State.setCtx_islands (s : State) (c i : Nat) (v : Ctx) : (s.setCtx c i v).islands = s.islands := rfl
@[simp] theorem State.setCtx_parts (s : State) (c i : Nat) (v : Ctx) : (s.setCtx c i v).parts = s.parts := rfl
@[simp] theorem State.setCtx_tasks (s : State) (c i : Nat) (v : Ctx) : (s.setCtx c i v).tasks = s.tasks := rfl
@[simp] theorem State.setCtx_gens (s : State) (c i : Nat) (v : Ctx) : (s.setCtx c i v).gens = s.gens := rfl
@[simp] theorem State.setCtx_accepts (s : State) (c i : Nat) (v : Ctx) : (s.setCtx c i v).accepts = s.accepts := rfl
@[simp] theorem State.setCtx_teams (s : State) (c i : Nat) (v : Ctx) : (s.setCtx c i v).teams = s.teams := rfl
@[simp] theorem State.setCtx_nextTeam (s : State) (c i : Nat) (v : Ctx) : (s.setCtx c i v).nextTeam = s.nextTeam := rfl
@[simp] theorem State.setCtx_lastServed (s : State) (c i : Nat) (v : Ctx) : (s.setCtx c i v).lastServed = s.lastServed := rfl
@[simp] theorem State.setCtx_quiesce (s : State) (c i : Nat) (v : Ctx) : (s.setCtx c i v).quiesce = s.quiesce := rfl
@[simp] theorem State.setCtx_passDue (s : State) (c i : Nat) (v : Ctx) : (s.setCtx c i v).passDue = s.passDue := rfl
@[simp] theorem State.setCtx_posted (s : State) (c i : Nat) (v : Ctx) : (s.setCtx c i v).posted = s.posted := rfl
@[simp] theorem State.setCtx_arrs (s : State) (c i : Nat) (v : Ctx) : (s.setCtx c i v).arrs = s.arrs := rfl
@[simp] theorem State.setCtx_rels (s : State) (c i : Nat) (v : Ctx) : (s.setCtx c i v).rels = s.rels := rfl
@[simp] theorem State.setCtx_answers (s : State) (c i : Nat) (v : Ctx) : (s.setCtx c i v).answers = s.answers := rfl
@[simp] theorem State.setCtx_order (s : State) (c i : Nat) (v : Ctx) : (s.setCtx c i v).order = s.order := rfl
@[simp] theorem State.setCtx_flashBad (s : State) (c i : Nat) (v : Ctx) : (s.setCtx c i v).flashBad = s.flashBad := rfl
@[simp] theorem State.setCtx_claimNo (s : State) (c i : Nat) (v : Ctx) : (s.setCtx c i v).claimNo = s.claimNo := rfl
@[simp] theorem State.setCtx_spdmIn (s : State) (c i : Nat) (v : Ctx) : (s.setCtx c i v).spdmIn = s.spdmIn := rfl
@[simp] theorem State.setCtx_linkWait (s : State) (c i : Nat) (v : Ctx) : (s.setCtx c i v).linkWait = s.linkWait := rfl
@[simp] theorem State.setCtx_flights (s : State) (c i : Nat) (v : Ctx) : (s.setCtx c i v).flights = s.flights := rfl
@[simp] theorem State.setCtx_enqs (s : State) (c i : Nat) (v : Ctx) : (s.setCtx c i v).enqs = s.enqs := rfl
@[simp] theorem State.setCtx_pkgcon (s : State) (c i : Nat) (v : Ctx) : (s.setCtx c i v).pkgcon = s.pkgcon := rfl
@[simp] theorem State.setCtx_refused (s : State) (c i : Nat) (v : Ctx) : (s.setCtx c i v).refused = s.refused := rfl
@[simp] theorem State.setCtx_pwrstat (s : State) (c i : Nat) (v : Ctx) : (s.setCtx c i v).pwrstat = s.pwrstat := rfl
@[simp] theorem State.setCtx_bootstat (s : State) (c i : Nat) (v : Ctx) : (s.setCtx c i v).bootstat = s.bootstat := rfl
@[simp] theorem State.setCtx_evq (s : State) (c i : Nat) (v : Ctx) : (s.setCtx c i v).evq = s.evq := rfl
@[simp] theorem State.setCtx_bp (s : State) (c i : Nat) (v : Ctx) : (s.setCtx c i v).bp = s.bp := rfl
@[simp] theorem State.setCtx_bpSteps (s : State) (c i : Nat) (v : Ctx) : (s.setCtx c i v).bpSteps = s.bpSteps := rfl
@[simp] theorem State.setCtx_thlim (s : State) (c i : Nat) (v : Ctx) : (s.setCtx c i v).thlim = s.thlim := rfl
@[simp] theorem State.setCtx_peaklim (s : State) (c i : Nat) (v : Ctx) : (s.setCtx c i v).peaklim = s.peaklim := rfl
@[simp] theorem State.setCtx_trip (s : State) (c i : Nat) (v : Ctx) : (s.setCtx c i v).trip = s.trip := rfl
@[simp] theorem State.setCtx_tripDies (s : State) (c i : Nat) (v : Ctx) : (s.setCtx c i v).tripDies = s.tripDies := rfl
@[simp] theorem State.setCtx_infeas (s : State) (c i : Nat) (v : Ctx) : (s.setCtx c i v).infeas = s.infeas := rfl
@[simp] theorem State.setCtx_floorsAt (s : State) (c i : Nat) (v : Ctx) : (s.setCtx c i v).floorsAt = s.floorsAt := rfl
@[simp] theorem State.setCtx_bootEvents (s : State) (c i : Nat) (v : Ctx) : (s.setCtx c i v).bootEvents = s.bootEvents := rfl
@[simp] theorem State.setCtx_epl (s : State) (c i : Nat) (v : Ctx) : (s.setCtx c i v).epl = s.epl := rfl
@[simp] theorem State.setCtx_linkUp (s : State) (c i : Nat) (v : Ctx) : (s.setCtx c i v).linkUp = s.linkUp := rfl
@[simp] theorem State.setCtx_spdmSeen (s : State) (c i : Nat) (v : Ctx) : (s.setCtx c i v).spdmSeen = s.spdmSeen := rfl
@[simp] theorem State.setCtx_nor (s : State) (c i : Nat) (v : Ctx) : (s.setCtx c i v).nor = s.nor := rfl
@[simp] theorem State.setCtx_recAt (s : State) (c i : Nat) (v : Ctx) : (s.setCtx c i v).recAt = s.recAt := rfl
@[simp] theorem State.setCtx_active (s : State) (c i : Nat) (v : Ctx) : (s.setCtx c i v).active = s.active := rfl
@[simp] theorem State.setCtx_saved (s : State) (c i : Nat) (v : Ctx) : (s.setCtx c i v).saved = s.saved := rfl
@[simp] theorem State.setCtx_out (s : State) (c i : Nat) (v : Ctx) : (s.setCtx c i v).out = s.out := rfl
@[simp] theorem State.setCtx_agenda (s : State) (c i : Nat) (v : Ctx) : (s.setCtx c i v).agenda = s.agenda := rfl
@[simp] theorem State.setCtx_fresh (s : State) (c i : Nat) (v : Ctx) : (s.setCtx c i v).fresh = s.fresh := rfl
@[simp] theorem State.setCtx_cur (s : State) (c i : Nat) (v : Ctx) : (s.setCtx c i v).cur = s.cur := rfl

/-! `State.updCtx` changes `cores` alone. -/
@[simp] theorem State.updCtx_now (s : State) (c i : Nat) (f : Ctx → Ctx) : (s.updCtx c i f).now = s.now := rfl
@[simp] theorem State.updCtx_nextClose (s : State) (c i : Nat) (f : Ctx → Ctx) : (s.updCtx c i f).nextClose = s.nextClose := rfl
@[simp] theorem State.updCtx_intv (s : State) (c i : Nat) (f : Ctx → Ctx) : (s.updCtx c i f).intv = s.intv := rfl
@[simp] theorem State.updCtx_power (s : State) (c i : Nat) (f : Ctx → Ctx) : (s.updCtx c i f).power = s.power := rfl
@[simp] theorem State.updCtx_dies (s : State) (c i : Nat) (f : Ctx → Ctx) : (s.updCtx c i f).dies = s.dies := rfl
@[simp] theorem State.updCtx_mem (s : State) (c i : Nat) (f : Ctx → Ctx) : (s.updCtx c i f).mem = s.mem := rfl
@[simp] theorem State.updCtx_l2Old (s : State) (c i : Nat) (f : Ctx → Ctx) : (s.updCtx c i f).l2Old = s.l2Old := rfl
@[simp] theorem State.updCtx_l1Old (s : State) (c i : Nat) (f : Ctx → Ctx) : (s.updCtx c i f).l1Old = s.l1Old := rfl
@[simp] theorem State.updCtx_objs (s : State) (c i : Nat) (f : Ctx → Ctx) : (s.updCtx c i f).objs = s.objs := rfl
@[simp] theorem State.updCtx_flash (s : State) (c i : Nat) (f : Ctx → Ctx) : (s.updCtx c i f).flash = s.flash := rfl
@[simp] theorem State.updCtx_remap (s : State) (c i : Nat) (f : Ctx → Ctx) : (s.updCtx c i f).remap = s.remap := rfl
@[simp] theorem State.updCtx_wear (s : State) (c i : Nat) (f : Ctx → Ctx) : (s.updCtx c i f).wear = s.wear := rfl
@[simp] theorem State.updCtx_islands (s : State) (c i : Nat) (f : Ctx → Ctx) : (s.updCtx c i f).islands = s.islands := rfl
@[simp] theorem State.updCtx_parts (s : State) (c i : Nat) (f : Ctx → Ctx) : (s.updCtx c i f).parts = s.parts := rfl
@[simp] theorem State.updCtx_tasks (s : State) (c i : Nat) (f : Ctx → Ctx) : (s.updCtx c i f).tasks = s.tasks := rfl
@[simp] theorem State.updCtx_gens (s : State) (c i : Nat) (f : Ctx → Ctx) : (s.updCtx c i f).gens = s.gens := rfl
@[simp] theorem State.updCtx_accepts (s : State) (c i : Nat) (f : Ctx → Ctx) : (s.updCtx c i f).accepts = s.accepts := rfl
@[simp] theorem State.updCtx_teams (s : State) (c i : Nat) (f : Ctx → Ctx) : (s.updCtx c i f).teams = s.teams := rfl
@[simp] theorem State.updCtx_nextTeam (s : State) (c i : Nat) (f : Ctx → Ctx) : (s.updCtx c i f).nextTeam = s.nextTeam := rfl
@[simp] theorem State.updCtx_lastServed (s : State) (c i : Nat) (f : Ctx → Ctx) : (s.updCtx c i f).lastServed = s.lastServed := rfl
@[simp] theorem State.updCtx_quiesce (s : State) (c i : Nat) (f : Ctx → Ctx) : (s.updCtx c i f).quiesce = s.quiesce := rfl
@[simp] theorem State.updCtx_passDue (s : State) (c i : Nat) (f : Ctx → Ctx) : (s.updCtx c i f).passDue = s.passDue := rfl
@[simp] theorem State.updCtx_posted (s : State) (c i : Nat) (f : Ctx → Ctx) : (s.updCtx c i f).posted = s.posted := rfl
@[simp] theorem State.updCtx_arrs (s : State) (c i : Nat) (f : Ctx → Ctx) : (s.updCtx c i f).arrs = s.arrs := rfl
@[simp] theorem State.updCtx_rels (s : State) (c i : Nat) (f : Ctx → Ctx) : (s.updCtx c i f).rels = s.rels := rfl
@[simp] theorem State.updCtx_answers (s : State) (c i : Nat) (f : Ctx → Ctx) : (s.updCtx c i f).answers = s.answers := rfl
@[simp] theorem State.updCtx_order (s : State) (c i : Nat) (f : Ctx → Ctx) : (s.updCtx c i f).order = s.order := rfl
@[simp] theorem State.updCtx_flashBad (s : State) (c i : Nat) (f : Ctx → Ctx) : (s.updCtx c i f).flashBad = s.flashBad := rfl
@[simp] theorem State.updCtx_claimNo (s : State) (c i : Nat) (f : Ctx → Ctx) : (s.updCtx c i f).claimNo = s.claimNo := rfl
@[simp] theorem State.updCtx_spdmIn (s : State) (c i : Nat) (f : Ctx → Ctx) : (s.updCtx c i f).spdmIn = s.spdmIn := rfl
@[simp] theorem State.updCtx_linkWait (s : State) (c i : Nat) (f : Ctx → Ctx) : (s.updCtx c i f).linkWait = s.linkWait := rfl
@[simp] theorem State.updCtx_flights (s : State) (c i : Nat) (f : Ctx → Ctx) : (s.updCtx c i f).flights = s.flights := rfl
@[simp] theorem State.updCtx_enqs (s : State) (c i : Nat) (f : Ctx → Ctx) : (s.updCtx c i f).enqs = s.enqs := rfl
@[simp] theorem State.updCtx_pkgcon (s : State) (c i : Nat) (f : Ctx → Ctx) : (s.updCtx c i f).pkgcon = s.pkgcon := rfl
@[simp] theorem State.updCtx_refused (s : State) (c i : Nat) (f : Ctx → Ctx) : (s.updCtx c i f).refused = s.refused := rfl
@[simp] theorem State.updCtx_pwrstat (s : State) (c i : Nat) (f : Ctx → Ctx) : (s.updCtx c i f).pwrstat = s.pwrstat := rfl
@[simp] theorem State.updCtx_bootstat (s : State) (c i : Nat) (f : Ctx → Ctx) : (s.updCtx c i f).bootstat = s.bootstat := rfl
@[simp] theorem State.updCtx_evq (s : State) (c i : Nat) (f : Ctx → Ctx) : (s.updCtx c i f).evq = s.evq := rfl
@[simp] theorem State.updCtx_bp (s : State) (c i : Nat) (f : Ctx → Ctx) : (s.updCtx c i f).bp = s.bp := rfl
@[simp] theorem State.updCtx_bpSteps (s : State) (c i : Nat) (f : Ctx → Ctx) : (s.updCtx c i f).bpSteps = s.bpSteps := rfl
@[simp] theorem State.updCtx_thlim (s : State) (c i : Nat) (f : Ctx → Ctx) : (s.updCtx c i f).thlim = s.thlim := rfl
@[simp] theorem State.updCtx_peaklim (s : State) (c i : Nat) (f : Ctx → Ctx) : (s.updCtx c i f).peaklim = s.peaklim := rfl
@[simp] theorem State.updCtx_trip (s : State) (c i : Nat) (f : Ctx → Ctx) : (s.updCtx c i f).trip = s.trip := rfl
@[simp] theorem State.updCtx_tripDies (s : State) (c i : Nat) (f : Ctx → Ctx) : (s.updCtx c i f).tripDies = s.tripDies := rfl
@[simp] theorem State.updCtx_infeas (s : State) (c i : Nat) (f : Ctx → Ctx) : (s.updCtx c i f).infeas = s.infeas := rfl
@[simp] theorem State.updCtx_floorsAt (s : State) (c i : Nat) (f : Ctx → Ctx) : (s.updCtx c i f).floorsAt = s.floorsAt := rfl
@[simp] theorem State.updCtx_bootEvents (s : State) (c i : Nat) (f : Ctx → Ctx) : (s.updCtx c i f).bootEvents = s.bootEvents := rfl
@[simp] theorem State.updCtx_epl (s : State) (c i : Nat) (f : Ctx → Ctx) : (s.updCtx c i f).epl = s.epl := rfl
@[simp] theorem State.updCtx_linkUp (s : State) (c i : Nat) (f : Ctx → Ctx) : (s.updCtx c i f).linkUp = s.linkUp := rfl
@[simp] theorem State.updCtx_spdmSeen (s : State) (c i : Nat) (f : Ctx → Ctx) : (s.updCtx c i f).spdmSeen = s.spdmSeen := rfl
@[simp] theorem State.updCtx_nor (s : State) (c i : Nat) (f : Ctx → Ctx) : (s.updCtx c i f).nor = s.nor := rfl
@[simp] theorem State.updCtx_recAt (s : State) (c i : Nat) (f : Ctx → Ctx) : (s.updCtx c i f).recAt = s.recAt := rfl
@[simp] theorem State.updCtx_active (s : State) (c i : Nat) (f : Ctx → Ctx) : (s.updCtx c i f).active = s.active := rfl
@[simp] theorem State.updCtx_saved (s : State) (c i : Nat) (f : Ctx → Ctx) : (s.updCtx c i f).saved = s.saved := rfl
@[simp] theorem State.updCtx_out (s : State) (c i : Nat) (f : Ctx → Ctx) : (s.updCtx c i f).out = s.out := rfl
@[simp] theorem State.updCtx_agenda (s : State) (c i : Nat) (f : Ctx → Ctx) : (s.updCtx c i f).agenda = s.agenda := rfl
@[simp] theorem State.updCtx_fresh (s : State) (c i : Nat) (f : Ctx → Ctx) : (s.updCtx c i f).fresh = s.fresh := rfl
@[simp] theorem State.updCtx_cur (s : State) (c i : Nat) (f : Ctx → Ctx) : (s.updCtx c i f).cur = s.cur := rfl

/-! `State.updDie` changes `dies` alone. -/
@[simp] theorem State.updDie_now (s : State) (d : Nat) (f : Die → Die) : (s.updDie d f).now = s.now := rfl
@[simp] theorem State.updDie_nextClose (s : State) (d : Nat) (f : Die → Die) : (s.updDie d f).nextClose = s.nextClose := rfl
@[simp] theorem State.updDie_intv (s : State) (d : Nat) (f : Die → Die) : (s.updDie d f).intv = s.intv := rfl
@[simp] theorem State.updDie_power (s : State) (d : Nat) (f : Die → Die) : (s.updDie d f).power = s.power := rfl
@[simp] theorem State.updDie_cores (s : State) (d : Nat) (f : Die → Die) : (s.updDie d f).cores = s.cores := rfl
@[simp] theorem State.updDie_mem (s : State) (d : Nat) (f : Die → Die) : (s.updDie d f).mem = s.mem := rfl
@[simp] theorem State.updDie_l2Old (s : State) (d : Nat) (f : Die → Die) : (s.updDie d f).l2Old = s.l2Old := rfl
@[simp] theorem State.updDie_l1Old (s : State) (d : Nat) (f : Die → Die) : (s.updDie d f).l1Old = s.l1Old := rfl
@[simp] theorem State.updDie_objs (s : State) (d : Nat) (f : Die → Die) : (s.updDie d f).objs = s.objs := rfl
@[simp] theorem State.updDie_flash (s : State) (d : Nat) (f : Die → Die) : (s.updDie d f).flash = s.flash := rfl
@[simp] theorem State.updDie_remap (s : State) (d : Nat) (f : Die → Die) : (s.updDie d f).remap = s.remap := rfl
@[simp] theorem State.updDie_wear (s : State) (d : Nat) (f : Die → Die) : (s.updDie d f).wear = s.wear := rfl
@[simp] theorem State.updDie_islands (s : State) (d : Nat) (f : Die → Die) : (s.updDie d f).islands = s.islands := rfl
@[simp] theorem State.updDie_parts (s : State) (d : Nat) (f : Die → Die) : (s.updDie d f).parts = s.parts := rfl
@[simp] theorem State.updDie_tasks (s : State) (d : Nat) (f : Die → Die) : (s.updDie d f).tasks = s.tasks := rfl
@[simp] theorem State.updDie_gens (s : State) (d : Nat) (f : Die → Die) : (s.updDie d f).gens = s.gens := rfl
@[simp] theorem State.updDie_accepts (s : State) (d : Nat) (f : Die → Die) : (s.updDie d f).accepts = s.accepts := rfl
@[simp] theorem State.updDie_teams (s : State) (d : Nat) (f : Die → Die) : (s.updDie d f).teams = s.teams := rfl
@[simp] theorem State.updDie_nextTeam (s : State) (d : Nat) (f : Die → Die) : (s.updDie d f).nextTeam = s.nextTeam := rfl
@[simp] theorem State.updDie_lastServed (s : State) (d : Nat) (f : Die → Die) : (s.updDie d f).lastServed = s.lastServed := rfl
@[simp] theorem State.updDie_quiesce (s : State) (d : Nat) (f : Die → Die) : (s.updDie d f).quiesce = s.quiesce := rfl
@[simp] theorem State.updDie_passDue (s : State) (d : Nat) (f : Die → Die) : (s.updDie d f).passDue = s.passDue := rfl
@[simp] theorem State.updDie_posted (s : State) (d : Nat) (f : Die → Die) : (s.updDie d f).posted = s.posted := rfl
@[simp] theorem State.updDie_arrs (s : State) (d : Nat) (f : Die → Die) : (s.updDie d f).arrs = s.arrs := rfl
@[simp] theorem State.updDie_rels (s : State) (d : Nat) (f : Die → Die) : (s.updDie d f).rels = s.rels := rfl
@[simp] theorem State.updDie_answers (s : State) (d : Nat) (f : Die → Die) : (s.updDie d f).answers = s.answers := rfl
@[simp] theorem State.updDie_order (s : State) (d : Nat) (f : Die → Die) : (s.updDie d f).order = s.order := rfl
@[simp] theorem State.updDie_flashBad (s : State) (d : Nat) (f : Die → Die) : (s.updDie d f).flashBad = s.flashBad := rfl
@[simp] theorem State.updDie_claimNo (s : State) (d : Nat) (f : Die → Die) : (s.updDie d f).claimNo = s.claimNo := rfl
@[simp] theorem State.updDie_spdmIn (s : State) (d : Nat) (f : Die → Die) : (s.updDie d f).spdmIn = s.spdmIn := rfl
@[simp] theorem State.updDie_linkWait (s : State) (d : Nat) (f : Die → Die) : (s.updDie d f).linkWait = s.linkWait := rfl
@[simp] theorem State.updDie_flights (s : State) (d : Nat) (f : Die → Die) : (s.updDie d f).flights = s.flights := rfl
@[simp] theorem State.updDie_enqs (s : State) (d : Nat) (f : Die → Die) : (s.updDie d f).enqs = s.enqs := rfl
@[simp] theorem State.updDie_pkgcon (s : State) (d : Nat) (f : Die → Die) : (s.updDie d f).pkgcon = s.pkgcon := rfl
@[simp] theorem State.updDie_refused (s : State) (d : Nat) (f : Die → Die) : (s.updDie d f).refused = s.refused := rfl
@[simp] theorem State.updDie_pwrstat (s : State) (d : Nat) (f : Die → Die) : (s.updDie d f).pwrstat = s.pwrstat := rfl
@[simp] theorem State.updDie_bootstat (s : State) (d : Nat) (f : Die → Die) : (s.updDie d f).bootstat = s.bootstat := rfl
@[simp] theorem State.updDie_evq (s : State) (d : Nat) (f : Die → Die) : (s.updDie d f).evq = s.evq := rfl
@[simp] theorem State.updDie_bp (s : State) (d : Nat) (f : Die → Die) : (s.updDie d f).bp = s.bp := rfl
@[simp] theorem State.updDie_bpSteps (s : State) (d : Nat) (f : Die → Die) : (s.updDie d f).bpSteps = s.bpSteps := rfl
@[simp] theorem State.updDie_thlim (s : State) (d : Nat) (f : Die → Die) : (s.updDie d f).thlim = s.thlim := rfl
@[simp] theorem State.updDie_peaklim (s : State) (d : Nat) (f : Die → Die) : (s.updDie d f).peaklim = s.peaklim := rfl
@[simp] theorem State.updDie_trip (s : State) (d : Nat) (f : Die → Die) : (s.updDie d f).trip = s.trip := rfl
@[simp] theorem State.updDie_tripDies (s : State) (d : Nat) (f : Die → Die) : (s.updDie d f).tripDies = s.tripDies := rfl
@[simp] theorem State.updDie_infeas (s : State) (d : Nat) (f : Die → Die) : (s.updDie d f).infeas = s.infeas := rfl
@[simp] theorem State.updDie_floorsAt (s : State) (d : Nat) (f : Die → Die) : (s.updDie d f).floorsAt = s.floorsAt := rfl
@[simp] theorem State.updDie_bootEvents (s : State) (d : Nat) (f : Die → Die) : (s.updDie d f).bootEvents = s.bootEvents := rfl
@[simp] theorem State.updDie_epl (s : State) (d : Nat) (f : Die → Die) : (s.updDie d f).epl = s.epl := rfl
@[simp] theorem State.updDie_linkUp (s : State) (d : Nat) (f : Die → Die) : (s.updDie d f).linkUp = s.linkUp := rfl
@[simp] theorem State.updDie_spdmSeen (s : State) (d : Nat) (f : Die → Die) : (s.updDie d f).spdmSeen = s.spdmSeen := rfl
@[simp] theorem State.updDie_nor (s : State) (d : Nat) (f : Die → Die) : (s.updDie d f).nor = s.nor := rfl
@[simp] theorem State.updDie_recAt (s : State) (d : Nat) (f : Die → Die) : (s.updDie d f).recAt = s.recAt := rfl
@[simp] theorem State.updDie_active (s : State) (d : Nat) (f : Die → Die) : (s.updDie d f).active = s.active := rfl
@[simp] theorem State.updDie_saved (s : State) (d : Nat) (f : Die → Die) : (s.updDie d f).saved = s.saved := rfl
@[simp] theorem State.updDie_out (s : State) (d : Nat) (f : Die → Die) : (s.updDie d f).out = s.out := rfl
@[simp] theorem State.updDie_agenda (s : State) (d : Nat) (f : Die → Die) : (s.updDie d f).agenda = s.agenda := rfl
@[simp] theorem State.updDie_fresh (s : State) (d : Nat) (f : Die → Die) : (s.updDie d f).fresh = s.fresh := rfl
@[simp] theorem State.updDie_cur (s : State) (d : Nat) (f : Die → Die) : (s.updDie d f).cur = s.cur := rfl

/-! `State.updPart` changes `parts` alone. -/
@[simp] theorem State.updPart_now (s : State) (p : Nat) (f : Part → Part) : (s.updPart p f).now = s.now := rfl
@[simp] theorem State.updPart_nextClose (s : State) (p : Nat) (f : Part → Part) : (s.updPart p f).nextClose = s.nextClose := rfl
@[simp] theorem State.updPart_intv (s : State) (p : Nat) (f : Part → Part) : (s.updPart p f).intv = s.intv := rfl
@[simp] theorem State.updPart_power (s : State) (p : Nat) (f : Part → Part) : (s.updPart p f).power = s.power := rfl
@[simp] theorem State.updPart_cores (s : State) (p : Nat) (f : Part → Part) : (s.updPart p f).cores = s.cores := rfl
@[simp] theorem State.updPart_dies (s : State) (p : Nat) (f : Part → Part) : (s.updPart p f).dies = s.dies := rfl
@[simp] theorem State.updPart_mem (s : State) (p : Nat) (f : Part → Part) : (s.updPart p f).mem = s.mem := rfl
@[simp] theorem State.updPart_l2Old (s : State) (p : Nat) (f : Part → Part) : (s.updPart p f).l2Old = s.l2Old := rfl
@[simp] theorem State.updPart_l1Old (s : State) (p : Nat) (f : Part → Part) : (s.updPart p f).l1Old = s.l1Old := rfl
@[simp] theorem State.updPart_objs (s : State) (p : Nat) (f : Part → Part) : (s.updPart p f).objs = s.objs := rfl
@[simp] theorem State.updPart_flash (s : State) (p : Nat) (f : Part → Part) : (s.updPart p f).flash = s.flash := rfl
@[simp] theorem State.updPart_remap (s : State) (p : Nat) (f : Part → Part) : (s.updPart p f).remap = s.remap := rfl
@[simp] theorem State.updPart_wear (s : State) (p : Nat) (f : Part → Part) : (s.updPart p f).wear = s.wear := rfl
@[simp] theorem State.updPart_islands (s : State) (p : Nat) (f : Part → Part) : (s.updPart p f).islands = s.islands := rfl
@[simp] theorem State.updPart_tasks (s : State) (p : Nat) (f : Part → Part) : (s.updPart p f).tasks = s.tasks := rfl
@[simp] theorem State.updPart_gens (s : State) (p : Nat) (f : Part → Part) : (s.updPart p f).gens = s.gens := rfl
@[simp] theorem State.updPart_accepts (s : State) (p : Nat) (f : Part → Part) : (s.updPart p f).accepts = s.accepts := rfl
@[simp] theorem State.updPart_teams (s : State) (p : Nat) (f : Part → Part) : (s.updPart p f).teams = s.teams := rfl
@[simp] theorem State.updPart_nextTeam (s : State) (p : Nat) (f : Part → Part) : (s.updPart p f).nextTeam = s.nextTeam := rfl
@[simp] theorem State.updPart_lastServed (s : State) (p : Nat) (f : Part → Part) : (s.updPart p f).lastServed = s.lastServed := rfl
@[simp] theorem State.updPart_quiesce (s : State) (p : Nat) (f : Part → Part) : (s.updPart p f).quiesce = s.quiesce := rfl
@[simp] theorem State.updPart_passDue (s : State) (p : Nat) (f : Part → Part) : (s.updPart p f).passDue = s.passDue := rfl
@[simp] theorem State.updPart_posted (s : State) (p : Nat) (f : Part → Part) : (s.updPart p f).posted = s.posted := rfl
@[simp] theorem State.updPart_arrs (s : State) (p : Nat) (f : Part → Part) : (s.updPart p f).arrs = s.arrs := rfl
@[simp] theorem State.updPart_rels (s : State) (p : Nat) (f : Part → Part) : (s.updPart p f).rels = s.rels := rfl
@[simp] theorem State.updPart_answers (s : State) (p : Nat) (f : Part → Part) : (s.updPart p f).answers = s.answers := rfl
@[simp] theorem State.updPart_order (s : State) (p : Nat) (f : Part → Part) : (s.updPart p f).order = s.order := rfl
@[simp] theorem State.updPart_flashBad (s : State) (p : Nat) (f : Part → Part) : (s.updPart p f).flashBad = s.flashBad := rfl
@[simp] theorem State.updPart_claimNo (s : State) (p : Nat) (f : Part → Part) : (s.updPart p f).claimNo = s.claimNo := rfl
@[simp] theorem State.updPart_spdmIn (s : State) (p : Nat) (f : Part → Part) : (s.updPart p f).spdmIn = s.spdmIn := rfl
@[simp] theorem State.updPart_linkWait (s : State) (p : Nat) (f : Part → Part) : (s.updPart p f).linkWait = s.linkWait := rfl
@[simp] theorem State.updPart_flights (s : State) (p : Nat) (f : Part → Part) : (s.updPart p f).flights = s.flights := rfl
@[simp] theorem State.updPart_enqs (s : State) (p : Nat) (f : Part → Part) : (s.updPart p f).enqs = s.enqs := rfl
@[simp] theorem State.updPart_pkgcon (s : State) (p : Nat) (f : Part → Part) : (s.updPart p f).pkgcon = s.pkgcon := rfl
@[simp] theorem State.updPart_refused (s : State) (p : Nat) (f : Part → Part) : (s.updPart p f).refused = s.refused := rfl
@[simp] theorem State.updPart_pwrstat (s : State) (p : Nat) (f : Part → Part) : (s.updPart p f).pwrstat = s.pwrstat := rfl
@[simp] theorem State.updPart_bootstat (s : State) (p : Nat) (f : Part → Part) : (s.updPart p f).bootstat = s.bootstat := rfl
@[simp] theorem State.updPart_evq (s : State) (p : Nat) (f : Part → Part) : (s.updPart p f).evq = s.evq := rfl
@[simp] theorem State.updPart_bp (s : State) (p : Nat) (f : Part → Part) : (s.updPart p f).bp = s.bp := rfl
@[simp] theorem State.updPart_bpSteps (s : State) (p : Nat) (f : Part → Part) : (s.updPart p f).bpSteps = s.bpSteps := rfl
@[simp] theorem State.updPart_thlim (s : State) (p : Nat) (f : Part → Part) : (s.updPart p f).thlim = s.thlim := rfl
@[simp] theorem State.updPart_peaklim (s : State) (p : Nat) (f : Part → Part) : (s.updPart p f).peaklim = s.peaklim := rfl
@[simp] theorem State.updPart_trip (s : State) (p : Nat) (f : Part → Part) : (s.updPart p f).trip = s.trip := rfl
@[simp] theorem State.updPart_tripDies (s : State) (p : Nat) (f : Part → Part) : (s.updPart p f).tripDies = s.tripDies := rfl
@[simp] theorem State.updPart_infeas (s : State) (p : Nat) (f : Part → Part) : (s.updPart p f).infeas = s.infeas := rfl
@[simp] theorem State.updPart_floorsAt (s : State) (p : Nat) (f : Part → Part) : (s.updPart p f).floorsAt = s.floorsAt := rfl
@[simp] theorem State.updPart_bootEvents (s : State) (p : Nat) (f : Part → Part) : (s.updPart p f).bootEvents = s.bootEvents := rfl
@[simp] theorem State.updPart_epl (s : State) (p : Nat) (f : Part → Part) : (s.updPart p f).epl = s.epl := rfl
@[simp] theorem State.updPart_linkUp (s : State) (p : Nat) (f : Part → Part) : (s.updPart p f).linkUp = s.linkUp := rfl
@[simp] theorem State.updPart_spdmSeen (s : State) (p : Nat) (f : Part → Part) : (s.updPart p f).spdmSeen = s.spdmSeen := rfl
@[simp] theorem State.updPart_nor (s : State) (p : Nat) (f : Part → Part) : (s.updPart p f).nor = s.nor := rfl
@[simp] theorem State.updPart_recAt (s : State) (p : Nat) (f : Part → Part) : (s.updPart p f).recAt = s.recAt := rfl
@[simp] theorem State.updPart_active (s : State) (p : Nat) (f : Part → Part) : (s.updPart p f).active = s.active := rfl
@[simp] theorem State.updPart_saved (s : State) (p : Nat) (f : Part → Part) : (s.updPart p f).saved = s.saved := rfl
@[simp] theorem State.updPart_out (s : State) (p : Nat) (f : Part → Part) : (s.updPart p f).out = s.out := rfl
@[simp] theorem State.updPart_agenda (s : State) (p : Nat) (f : Part → Part) : (s.updPart p f).agenda = s.agenda := rfl
@[simp] theorem State.updPart_fresh (s : State) (p : Nat) (f : Part → Part) : (s.updPart p f).fresh = s.fresh := rfl
@[simp] theorem State.updPart_cur (s : State) (p : Nat) (f : Part → Part) : (s.updPart p f).cur = s.cur := rfl

/-! `State.updIsland` changes `islands` alone. -/
@[simp] theorem State.updIsland_now (s : State) (i : Nat) (f : Island → Island) : (s.updIsland i f).now = s.now := rfl
@[simp] theorem State.updIsland_nextClose (s : State) (i : Nat) (f : Island → Island) : (s.updIsland i f).nextClose = s.nextClose := rfl
@[simp] theorem State.updIsland_intv (s : State) (i : Nat) (f : Island → Island) : (s.updIsland i f).intv = s.intv := rfl
@[simp] theorem State.updIsland_power (s : State) (i : Nat) (f : Island → Island) : (s.updIsland i f).power = s.power := rfl
@[simp] theorem State.updIsland_cores (s : State) (i : Nat) (f : Island → Island) : (s.updIsland i f).cores = s.cores := rfl
@[simp] theorem State.updIsland_dies (s : State) (i : Nat) (f : Island → Island) : (s.updIsland i f).dies = s.dies := rfl
@[simp] theorem State.updIsland_mem (s : State) (i : Nat) (f : Island → Island) : (s.updIsland i f).mem = s.mem := rfl
@[simp] theorem State.updIsland_l2Old (s : State) (i : Nat) (f : Island → Island) : (s.updIsland i f).l2Old = s.l2Old := rfl
@[simp] theorem State.updIsland_l1Old (s : State) (i : Nat) (f : Island → Island) : (s.updIsland i f).l1Old = s.l1Old := rfl
@[simp] theorem State.updIsland_objs (s : State) (i : Nat) (f : Island → Island) : (s.updIsland i f).objs = s.objs := rfl
@[simp] theorem State.updIsland_flash (s : State) (i : Nat) (f : Island → Island) : (s.updIsland i f).flash = s.flash := rfl
@[simp] theorem State.updIsland_remap (s : State) (i : Nat) (f : Island → Island) : (s.updIsland i f).remap = s.remap := rfl
@[simp] theorem State.updIsland_wear (s : State) (i : Nat) (f : Island → Island) : (s.updIsland i f).wear = s.wear := rfl
@[simp] theorem State.updIsland_parts (s : State) (i : Nat) (f : Island → Island) : (s.updIsland i f).parts = s.parts := rfl
@[simp] theorem State.updIsland_tasks (s : State) (i : Nat) (f : Island → Island) : (s.updIsland i f).tasks = s.tasks := rfl
@[simp] theorem State.updIsland_gens (s : State) (i : Nat) (f : Island → Island) : (s.updIsland i f).gens = s.gens := rfl
@[simp] theorem State.updIsland_accepts (s : State) (i : Nat) (f : Island → Island) : (s.updIsland i f).accepts = s.accepts := rfl
@[simp] theorem State.updIsland_teams (s : State) (i : Nat) (f : Island → Island) : (s.updIsland i f).teams = s.teams := rfl
@[simp] theorem State.updIsland_nextTeam (s : State) (i : Nat) (f : Island → Island) : (s.updIsland i f).nextTeam = s.nextTeam := rfl
@[simp] theorem State.updIsland_lastServed (s : State) (i : Nat) (f : Island → Island) : (s.updIsland i f).lastServed = s.lastServed := rfl
@[simp] theorem State.updIsland_quiesce (s : State) (i : Nat) (f : Island → Island) : (s.updIsland i f).quiesce = s.quiesce := rfl
@[simp] theorem State.updIsland_passDue (s : State) (i : Nat) (f : Island → Island) : (s.updIsland i f).passDue = s.passDue := rfl
@[simp] theorem State.updIsland_posted (s : State) (i : Nat) (f : Island → Island) : (s.updIsland i f).posted = s.posted := rfl
@[simp] theorem State.updIsland_arrs (s : State) (i : Nat) (f : Island → Island) : (s.updIsland i f).arrs = s.arrs := rfl
@[simp] theorem State.updIsland_rels (s : State) (i : Nat) (f : Island → Island) : (s.updIsland i f).rels = s.rels := rfl
@[simp] theorem State.updIsland_answers (s : State) (i : Nat) (f : Island → Island) : (s.updIsland i f).answers = s.answers := rfl
@[simp] theorem State.updIsland_order (s : State) (i : Nat) (f : Island → Island) : (s.updIsland i f).order = s.order := rfl
@[simp] theorem State.updIsland_flashBad (s : State) (i : Nat) (f : Island → Island) : (s.updIsland i f).flashBad = s.flashBad := rfl
@[simp] theorem State.updIsland_claimNo (s : State) (i : Nat) (f : Island → Island) : (s.updIsland i f).claimNo = s.claimNo := rfl
@[simp] theorem State.updIsland_spdmIn (s : State) (i : Nat) (f : Island → Island) : (s.updIsland i f).spdmIn = s.spdmIn := rfl
@[simp] theorem State.updIsland_linkWait (s : State) (i : Nat) (f : Island → Island) : (s.updIsland i f).linkWait = s.linkWait := rfl
@[simp] theorem State.updIsland_flights (s : State) (i : Nat) (f : Island → Island) : (s.updIsland i f).flights = s.flights := rfl
@[simp] theorem State.updIsland_enqs (s : State) (i : Nat) (f : Island → Island) : (s.updIsland i f).enqs = s.enqs := rfl
@[simp] theorem State.updIsland_pkgcon (s : State) (i : Nat) (f : Island → Island) : (s.updIsland i f).pkgcon = s.pkgcon := rfl
@[simp] theorem State.updIsland_refused (s : State) (i : Nat) (f : Island → Island) : (s.updIsland i f).refused = s.refused := rfl
@[simp] theorem State.updIsland_pwrstat (s : State) (i : Nat) (f : Island → Island) : (s.updIsland i f).pwrstat = s.pwrstat := rfl
@[simp] theorem State.updIsland_bootstat (s : State) (i : Nat) (f : Island → Island) : (s.updIsland i f).bootstat = s.bootstat := rfl
@[simp] theorem State.updIsland_evq (s : State) (i : Nat) (f : Island → Island) : (s.updIsland i f).evq = s.evq := rfl
@[simp] theorem State.updIsland_bp (s : State) (i : Nat) (f : Island → Island) : (s.updIsland i f).bp = s.bp := rfl
@[simp] theorem State.updIsland_bpSteps (s : State) (i : Nat) (f : Island → Island) : (s.updIsland i f).bpSteps = s.bpSteps := rfl
@[simp] theorem State.updIsland_thlim (s : State) (i : Nat) (f : Island → Island) : (s.updIsland i f).thlim = s.thlim := rfl
@[simp] theorem State.updIsland_peaklim (s : State) (i : Nat) (f : Island → Island) : (s.updIsland i f).peaklim = s.peaklim := rfl
@[simp] theorem State.updIsland_trip (s : State) (i : Nat) (f : Island → Island) : (s.updIsland i f).trip = s.trip := rfl
@[simp] theorem State.updIsland_tripDies (s : State) (i : Nat) (f : Island → Island) : (s.updIsland i f).tripDies = s.tripDies := rfl
@[simp] theorem State.updIsland_infeas (s : State) (i : Nat) (f : Island → Island) : (s.updIsland i f).infeas = s.infeas := rfl
@[simp] theorem State.updIsland_floorsAt (s : State) (i : Nat) (f : Island → Island) : (s.updIsland i f).floorsAt = s.floorsAt := rfl
@[simp] theorem State.updIsland_bootEvents (s : State) (i : Nat) (f : Island → Island) : (s.updIsland i f).bootEvents = s.bootEvents := rfl
@[simp] theorem State.updIsland_epl (s : State) (i : Nat) (f : Island → Island) : (s.updIsland i f).epl = s.epl := rfl
@[simp] theorem State.updIsland_linkUp (s : State) (i : Nat) (f : Island → Island) : (s.updIsland i f).linkUp = s.linkUp := rfl
@[simp] theorem State.updIsland_spdmSeen (s : State) (i : Nat) (f : Island → Island) : (s.updIsland i f).spdmSeen = s.spdmSeen := rfl
@[simp] theorem State.updIsland_nor (s : State) (i : Nat) (f : Island → Island) : (s.updIsland i f).nor = s.nor := rfl
@[simp] theorem State.updIsland_recAt (s : State) (i : Nat) (f : Island → Island) : (s.updIsland i f).recAt = s.recAt := rfl
@[simp] theorem State.updIsland_active (s : State) (i : Nat) (f : Island → Island) : (s.updIsland i f).active = s.active := rfl
@[simp] theorem State.updIsland_saved (s : State) (i : Nat) (f : Island → Island) : (s.updIsland i f).saved = s.saved := rfl
@[simp] theorem State.updIsland_out (s : State) (i : Nat) (f : Island → Island) : (s.updIsland i f).out = s.out := rfl
@[simp] theorem State.updIsland_agenda (s : State) (i : Nat) (f : Island → Island) : (s.updIsland i f).agenda = s.agenda := rfl
@[simp] theorem State.updIsland_fresh (s : State) (i : Nat) (f : Island → Island) : (s.updIsland i f).fresh = s.fresh := rfl
@[simp] theorem State.updIsland_cur (s : State) (i : Nat) (f : Island → Island) : (s.updIsland i f).cur = s.cur := rfl

/-! `State.setTeam` changes `teams` alone. -/
@[simp] theorem State.setTeam_now (s : State) (t : Nat) (v : Option Team) : (s.setTeam t v).now = s.now := rfl
@[simp] theorem State.setTeam_nextClose (s : State) (t : Nat) (v : Option Team) : (s.setTeam t v).nextClose = s.nextClose := rfl
@[simp] theorem State.setTeam_intv (s : State) (t : Nat) (v : Option Team) : (s.setTeam t v).intv = s.intv := rfl
@[simp] theorem State.setTeam_power (s : State) (t : Nat) (v : Option Team) : (s.setTeam t v).power = s.power := rfl
@[simp] theorem State.setTeam_cores (s : State) (t : Nat) (v : Option Team) : (s.setTeam t v).cores = s.cores := rfl
@[simp] theorem State.setTeam_dies (s : State) (t : Nat) (v : Option Team) : (s.setTeam t v).dies = s.dies := rfl
@[simp] theorem State.setTeam_mem (s : State) (t : Nat) (v : Option Team) : (s.setTeam t v).mem = s.mem := rfl
@[simp] theorem State.setTeam_l2Old (s : State) (t : Nat) (v : Option Team) : (s.setTeam t v).l2Old = s.l2Old := rfl
@[simp] theorem State.setTeam_l1Old (s : State) (t : Nat) (v : Option Team) : (s.setTeam t v).l1Old = s.l1Old := rfl
@[simp] theorem State.setTeam_objs (s : State) (t : Nat) (v : Option Team) : (s.setTeam t v).objs = s.objs := rfl
@[simp] theorem State.setTeam_flash (s : State) (t : Nat) (v : Option Team) : (s.setTeam t v).flash = s.flash := rfl
@[simp] theorem State.setTeam_remap (s : State) (t : Nat) (v : Option Team) : (s.setTeam t v).remap = s.remap := rfl
@[simp] theorem State.setTeam_wear (s : State) (t : Nat) (v : Option Team) : (s.setTeam t v).wear = s.wear := rfl
@[simp] theorem State.setTeam_islands (s : State) (t : Nat) (v : Option Team) : (s.setTeam t v).islands = s.islands := rfl
@[simp] theorem State.setTeam_parts (s : State) (t : Nat) (v : Option Team) : (s.setTeam t v).parts = s.parts := rfl
@[simp] theorem State.setTeam_tasks (s : State) (t : Nat) (v : Option Team) : (s.setTeam t v).tasks = s.tasks := rfl
@[simp] theorem State.setTeam_gens (s : State) (t : Nat) (v : Option Team) : (s.setTeam t v).gens = s.gens := rfl
@[simp] theorem State.setTeam_accepts (s : State) (t : Nat) (v : Option Team) : (s.setTeam t v).accepts = s.accepts := rfl
@[simp] theorem State.setTeam_nextTeam (s : State) (t : Nat) (v : Option Team) : (s.setTeam t v).nextTeam = s.nextTeam := rfl
@[simp] theorem State.setTeam_lastServed (s : State) (t : Nat) (v : Option Team) : (s.setTeam t v).lastServed = s.lastServed := rfl
@[simp] theorem State.setTeam_quiesce (s : State) (t : Nat) (v : Option Team) : (s.setTeam t v).quiesce = s.quiesce := rfl
@[simp] theorem State.setTeam_passDue (s : State) (t : Nat) (v : Option Team) : (s.setTeam t v).passDue = s.passDue := rfl
@[simp] theorem State.setTeam_posted (s : State) (t : Nat) (v : Option Team) : (s.setTeam t v).posted = s.posted := rfl
@[simp] theorem State.setTeam_arrs (s : State) (t : Nat) (v : Option Team) : (s.setTeam t v).arrs = s.arrs := rfl
@[simp] theorem State.setTeam_rels (s : State) (t : Nat) (v : Option Team) : (s.setTeam t v).rels = s.rels := rfl
@[simp] theorem State.setTeam_answers (s : State) (t : Nat) (v : Option Team) : (s.setTeam t v).answers = s.answers := rfl
@[simp] theorem State.setTeam_order (s : State) (t : Nat) (v : Option Team) : (s.setTeam t v).order = s.order := rfl
@[simp] theorem State.setTeam_flashBad (s : State) (t : Nat) (v : Option Team) : (s.setTeam t v).flashBad = s.flashBad := rfl
@[simp] theorem State.setTeam_claimNo (s : State) (t : Nat) (v : Option Team) : (s.setTeam t v).claimNo = s.claimNo := rfl
@[simp] theorem State.setTeam_spdmIn (s : State) (t : Nat) (v : Option Team) : (s.setTeam t v).spdmIn = s.spdmIn := rfl
@[simp] theorem State.setTeam_linkWait (s : State) (t : Nat) (v : Option Team) : (s.setTeam t v).linkWait = s.linkWait := rfl
@[simp] theorem State.setTeam_flights (s : State) (t : Nat) (v : Option Team) : (s.setTeam t v).flights = s.flights := rfl
@[simp] theorem State.setTeam_enqs (s : State) (t : Nat) (v : Option Team) : (s.setTeam t v).enqs = s.enqs := rfl
@[simp] theorem State.setTeam_pkgcon (s : State) (t : Nat) (v : Option Team) : (s.setTeam t v).pkgcon = s.pkgcon := rfl
@[simp] theorem State.setTeam_refused (s : State) (t : Nat) (v : Option Team) : (s.setTeam t v).refused = s.refused := rfl
@[simp] theorem State.setTeam_pwrstat (s : State) (t : Nat) (v : Option Team) : (s.setTeam t v).pwrstat = s.pwrstat := rfl
@[simp] theorem State.setTeam_bootstat (s : State) (t : Nat) (v : Option Team) : (s.setTeam t v).bootstat = s.bootstat := rfl
@[simp] theorem State.setTeam_evq (s : State) (t : Nat) (v : Option Team) : (s.setTeam t v).evq = s.evq := rfl
@[simp] theorem State.setTeam_bp (s : State) (t : Nat) (v : Option Team) : (s.setTeam t v).bp = s.bp := rfl
@[simp] theorem State.setTeam_bpSteps (s : State) (t : Nat) (v : Option Team) : (s.setTeam t v).bpSteps = s.bpSteps := rfl
@[simp] theorem State.setTeam_thlim (s : State) (t : Nat) (v : Option Team) : (s.setTeam t v).thlim = s.thlim := rfl
@[simp] theorem State.setTeam_peaklim (s : State) (t : Nat) (v : Option Team) : (s.setTeam t v).peaklim = s.peaklim := rfl
@[simp] theorem State.setTeam_trip (s : State) (t : Nat) (v : Option Team) : (s.setTeam t v).trip = s.trip := rfl
@[simp] theorem State.setTeam_tripDies (s : State) (t : Nat) (v : Option Team) : (s.setTeam t v).tripDies = s.tripDies := rfl
@[simp] theorem State.setTeam_infeas (s : State) (t : Nat) (v : Option Team) : (s.setTeam t v).infeas = s.infeas := rfl
@[simp] theorem State.setTeam_floorsAt (s : State) (t : Nat) (v : Option Team) : (s.setTeam t v).floorsAt = s.floorsAt := rfl
@[simp] theorem State.setTeam_bootEvents (s : State) (t : Nat) (v : Option Team) : (s.setTeam t v).bootEvents = s.bootEvents := rfl
@[simp] theorem State.setTeam_epl (s : State) (t : Nat) (v : Option Team) : (s.setTeam t v).epl = s.epl := rfl
@[simp] theorem State.setTeam_linkUp (s : State) (t : Nat) (v : Option Team) : (s.setTeam t v).linkUp = s.linkUp := rfl
@[simp] theorem State.setTeam_spdmSeen (s : State) (t : Nat) (v : Option Team) : (s.setTeam t v).spdmSeen = s.spdmSeen := rfl
@[simp] theorem State.setTeam_nor (s : State) (t : Nat) (v : Option Team) : (s.setTeam t v).nor = s.nor := rfl
@[simp] theorem State.setTeam_recAt (s : State) (t : Nat) (v : Option Team) : (s.setTeam t v).recAt = s.recAt := rfl
@[simp] theorem State.setTeam_active (s : State) (t : Nat) (v : Option Team) : (s.setTeam t v).active = s.active := rfl
@[simp] theorem State.setTeam_saved (s : State) (t : Nat) (v : Option Team) : (s.setTeam t v).saved = s.saved := rfl
@[simp] theorem State.setTeam_out (s : State) (t : Nat) (v : Option Team) : (s.setTeam t v).out = s.out := rfl
@[simp] theorem State.setTeam_agenda (s : State) (t : Nat) (v : Option Team) : (s.setTeam t v).agenda = s.agenda := rfl
@[simp] theorem State.setTeam_fresh (s : State) (t : Nat) (v : Option Team) : (s.setTeam t v).fresh = s.fresh := rfl
@[simp] theorem State.setTeam_cur (s : State) (t : Nat) (v : Option Team) : (s.setTeam t v).cur = s.cur := rfl

/-! `State.updTeam` changes `teams` alone. -/
@[simp] theorem State.updTeam_now (s : State) (t : Nat) (f : Team → Team) : (s.updTeam t f).now = s.now := rfl
@[simp] theorem State.updTeam_nextClose (s : State) (t : Nat) (f : Team → Team) : (s.updTeam t f).nextClose = s.nextClose := rfl
@[simp] theorem State.updTeam_intv (s : State) (t : Nat) (f : Team → Team) : (s.updTeam t f).intv = s.intv := rfl
@[simp] theorem State.updTeam_power (s : State) (t : Nat) (f : Team → Team) : (s.updTeam t f).power = s.power := rfl
@[simp] theorem State.updTeam_cores (s : State) (t : Nat) (f : Team → Team) : (s.updTeam t f).cores = s.cores := rfl
@[simp] theorem State.updTeam_dies (s : State) (t : Nat) (f : Team → Team) : (s.updTeam t f).dies = s.dies := rfl
@[simp] theorem State.updTeam_mem (s : State) (t : Nat) (f : Team → Team) : (s.updTeam t f).mem = s.mem := rfl
@[simp] theorem State.updTeam_l2Old (s : State) (t : Nat) (f : Team → Team) : (s.updTeam t f).l2Old = s.l2Old := rfl
@[simp] theorem State.updTeam_l1Old (s : State) (t : Nat) (f : Team → Team) : (s.updTeam t f).l1Old = s.l1Old := rfl
@[simp] theorem State.updTeam_objs (s : State) (t : Nat) (f : Team → Team) : (s.updTeam t f).objs = s.objs := rfl
@[simp] theorem State.updTeam_flash (s : State) (t : Nat) (f : Team → Team) : (s.updTeam t f).flash = s.flash := rfl
@[simp] theorem State.updTeam_remap (s : State) (t : Nat) (f : Team → Team) : (s.updTeam t f).remap = s.remap := rfl
@[simp] theorem State.updTeam_wear (s : State) (t : Nat) (f : Team → Team) : (s.updTeam t f).wear = s.wear := rfl
@[simp] theorem State.updTeam_islands (s : State) (t : Nat) (f : Team → Team) : (s.updTeam t f).islands = s.islands := rfl
@[simp] theorem State.updTeam_parts (s : State) (t : Nat) (f : Team → Team) : (s.updTeam t f).parts = s.parts := rfl
@[simp] theorem State.updTeam_tasks (s : State) (t : Nat) (f : Team → Team) : (s.updTeam t f).tasks = s.tasks := rfl
@[simp] theorem State.updTeam_gens (s : State) (t : Nat) (f : Team → Team) : (s.updTeam t f).gens = s.gens := rfl
@[simp] theorem State.updTeam_accepts (s : State) (t : Nat) (f : Team → Team) : (s.updTeam t f).accepts = s.accepts := rfl
@[simp] theorem State.updTeam_nextTeam (s : State) (t : Nat) (f : Team → Team) : (s.updTeam t f).nextTeam = s.nextTeam := rfl
@[simp] theorem State.updTeam_lastServed (s : State) (t : Nat) (f : Team → Team) : (s.updTeam t f).lastServed = s.lastServed := rfl
@[simp] theorem State.updTeam_quiesce (s : State) (t : Nat) (f : Team → Team) : (s.updTeam t f).quiesce = s.quiesce := rfl
@[simp] theorem State.updTeam_passDue (s : State) (t : Nat) (f : Team → Team) : (s.updTeam t f).passDue = s.passDue := rfl
@[simp] theorem State.updTeam_posted (s : State) (t : Nat) (f : Team → Team) : (s.updTeam t f).posted = s.posted := rfl
@[simp] theorem State.updTeam_arrs (s : State) (t : Nat) (f : Team → Team) : (s.updTeam t f).arrs = s.arrs := rfl
@[simp] theorem State.updTeam_rels (s : State) (t : Nat) (f : Team → Team) : (s.updTeam t f).rels = s.rels := rfl
@[simp] theorem State.updTeam_answers (s : State) (t : Nat) (f : Team → Team) : (s.updTeam t f).answers = s.answers := rfl
@[simp] theorem State.updTeam_order (s : State) (t : Nat) (f : Team → Team) : (s.updTeam t f).order = s.order := rfl
@[simp] theorem State.updTeam_flashBad (s : State) (t : Nat) (f : Team → Team) : (s.updTeam t f).flashBad = s.flashBad := rfl
@[simp] theorem State.updTeam_claimNo (s : State) (t : Nat) (f : Team → Team) : (s.updTeam t f).claimNo = s.claimNo := rfl
@[simp] theorem State.updTeam_spdmIn (s : State) (t : Nat) (f : Team → Team) : (s.updTeam t f).spdmIn = s.spdmIn := rfl
@[simp] theorem State.updTeam_linkWait (s : State) (t : Nat) (f : Team → Team) : (s.updTeam t f).linkWait = s.linkWait := rfl
@[simp] theorem State.updTeam_flights (s : State) (t : Nat) (f : Team → Team) : (s.updTeam t f).flights = s.flights := rfl
@[simp] theorem State.updTeam_enqs (s : State) (t : Nat) (f : Team → Team) : (s.updTeam t f).enqs = s.enqs := rfl
@[simp] theorem State.updTeam_pkgcon (s : State) (t : Nat) (f : Team → Team) : (s.updTeam t f).pkgcon = s.pkgcon := rfl
@[simp] theorem State.updTeam_refused (s : State) (t : Nat) (f : Team → Team) : (s.updTeam t f).refused = s.refused := rfl
@[simp] theorem State.updTeam_pwrstat (s : State) (t : Nat) (f : Team → Team) : (s.updTeam t f).pwrstat = s.pwrstat := rfl
@[simp] theorem State.updTeam_bootstat (s : State) (t : Nat) (f : Team → Team) : (s.updTeam t f).bootstat = s.bootstat := rfl
@[simp] theorem State.updTeam_evq (s : State) (t : Nat) (f : Team → Team) : (s.updTeam t f).evq = s.evq := rfl
@[simp] theorem State.updTeam_bp (s : State) (t : Nat) (f : Team → Team) : (s.updTeam t f).bp = s.bp := rfl
@[simp] theorem State.updTeam_bpSteps (s : State) (t : Nat) (f : Team → Team) : (s.updTeam t f).bpSteps = s.bpSteps := rfl
@[simp] theorem State.updTeam_thlim (s : State) (t : Nat) (f : Team → Team) : (s.updTeam t f).thlim = s.thlim := rfl
@[simp] theorem State.updTeam_peaklim (s : State) (t : Nat) (f : Team → Team) : (s.updTeam t f).peaklim = s.peaklim := rfl
@[simp] theorem State.updTeam_trip (s : State) (t : Nat) (f : Team → Team) : (s.updTeam t f).trip = s.trip := rfl
@[simp] theorem State.updTeam_tripDies (s : State) (t : Nat) (f : Team → Team) : (s.updTeam t f).tripDies = s.tripDies := rfl
@[simp] theorem State.updTeam_infeas (s : State) (t : Nat) (f : Team → Team) : (s.updTeam t f).infeas = s.infeas := rfl
@[simp] theorem State.updTeam_floorsAt (s : State) (t : Nat) (f : Team → Team) : (s.updTeam t f).floorsAt = s.floorsAt := rfl
@[simp] theorem State.updTeam_bootEvents (s : State) (t : Nat) (f : Team → Team) : (s.updTeam t f).bootEvents = s.bootEvents := rfl
@[simp] theorem State.updTeam_epl (s : State) (t : Nat) (f : Team → Team) : (s.updTeam t f).epl = s.epl := rfl
@[simp] theorem State.updTeam_linkUp (s : State) (t : Nat) (f : Team → Team) : (s.updTeam t f).linkUp = s.linkUp := rfl
@[simp] theorem State.updTeam_spdmSeen (s : State) (t : Nat) (f : Team → Team) : (s.updTeam t f).spdmSeen = s.spdmSeen := rfl
@[simp] theorem State.updTeam_nor (s : State) (t : Nat) (f : Team → Team) : (s.updTeam t f).nor = s.nor := rfl
@[simp] theorem State.updTeam_recAt (s : State) (t : Nat) (f : Team → Team) : (s.updTeam t f).recAt = s.recAt := rfl
@[simp] theorem State.updTeam_active (s : State) (t : Nat) (f : Team → Team) : (s.updTeam t f).active = s.active := rfl
@[simp] theorem State.updTeam_saved (s : State) (t : Nat) (f : Team → Team) : (s.updTeam t f).saved = s.saved := rfl
@[simp] theorem State.updTeam_out (s : State) (t : Nat) (f : Team → Team) : (s.updTeam t f).out = s.out := rfl
@[simp] theorem State.updTeam_agenda (s : State) (t : Nat) (f : Team → Team) : (s.updTeam t f).agenda = s.agenda := rfl
@[simp] theorem State.updTeam_fresh (s : State) (t : Nat) (f : Team → Team) : (s.updTeam t f).fresh = s.fresh := rfl
@[simp] theorem State.updTeam_cur (s : State) (t : Nat) (f : Team → Team) : (s.updTeam t f).cur = s.cur := rfl

/-! `State.setTask` changes `tasks` alone. -/
@[simp] theorem State.setTask_now (s : State) (t : Nat) (v : Option Task) : (s.setTask t v).now = s.now := rfl
@[simp] theorem State.setTask_nextClose (s : State) (t : Nat) (v : Option Task) : (s.setTask t v).nextClose = s.nextClose := rfl
@[simp] theorem State.setTask_intv (s : State) (t : Nat) (v : Option Task) : (s.setTask t v).intv = s.intv := rfl
@[simp] theorem State.setTask_power (s : State) (t : Nat) (v : Option Task) : (s.setTask t v).power = s.power := rfl
@[simp] theorem State.setTask_cores (s : State) (t : Nat) (v : Option Task) : (s.setTask t v).cores = s.cores := rfl
@[simp] theorem State.setTask_dies (s : State) (t : Nat) (v : Option Task) : (s.setTask t v).dies = s.dies := rfl
@[simp] theorem State.setTask_mem (s : State) (t : Nat) (v : Option Task) : (s.setTask t v).mem = s.mem := rfl
@[simp] theorem State.setTask_l2Old (s : State) (t : Nat) (v : Option Task) : (s.setTask t v).l2Old = s.l2Old := rfl
@[simp] theorem State.setTask_l1Old (s : State) (t : Nat) (v : Option Task) : (s.setTask t v).l1Old = s.l1Old := rfl
@[simp] theorem State.setTask_objs (s : State) (t : Nat) (v : Option Task) : (s.setTask t v).objs = s.objs := rfl
@[simp] theorem State.setTask_flash (s : State) (t : Nat) (v : Option Task) : (s.setTask t v).flash = s.flash := rfl
@[simp] theorem State.setTask_remap (s : State) (t : Nat) (v : Option Task) : (s.setTask t v).remap = s.remap := rfl
@[simp] theorem State.setTask_wear (s : State) (t : Nat) (v : Option Task) : (s.setTask t v).wear = s.wear := rfl
@[simp] theorem State.setTask_islands (s : State) (t : Nat) (v : Option Task) : (s.setTask t v).islands = s.islands := rfl
@[simp] theorem State.setTask_parts (s : State) (t : Nat) (v : Option Task) : (s.setTask t v).parts = s.parts := rfl
@[simp] theorem State.setTask_gens (s : State) (t : Nat) (v : Option Task) : (s.setTask t v).gens = s.gens := rfl
@[simp] theorem State.setTask_accepts (s : State) (t : Nat) (v : Option Task) : (s.setTask t v).accepts = s.accepts := rfl
@[simp] theorem State.setTask_teams (s : State) (t : Nat) (v : Option Task) : (s.setTask t v).teams = s.teams := rfl
@[simp] theorem State.setTask_nextTeam (s : State) (t : Nat) (v : Option Task) : (s.setTask t v).nextTeam = s.nextTeam := rfl
@[simp] theorem State.setTask_lastServed (s : State) (t : Nat) (v : Option Task) : (s.setTask t v).lastServed = s.lastServed := rfl
@[simp] theorem State.setTask_quiesce (s : State) (t : Nat) (v : Option Task) : (s.setTask t v).quiesce = s.quiesce := rfl
@[simp] theorem State.setTask_passDue (s : State) (t : Nat) (v : Option Task) : (s.setTask t v).passDue = s.passDue := rfl
@[simp] theorem State.setTask_posted (s : State) (t : Nat) (v : Option Task) : (s.setTask t v).posted = s.posted := rfl
@[simp] theorem State.setTask_arrs (s : State) (t : Nat) (v : Option Task) : (s.setTask t v).arrs = s.arrs := rfl
@[simp] theorem State.setTask_rels (s : State) (t : Nat) (v : Option Task) : (s.setTask t v).rels = s.rels := rfl
@[simp] theorem State.setTask_answers (s : State) (t : Nat) (v : Option Task) : (s.setTask t v).answers = s.answers := rfl
@[simp] theorem State.setTask_order (s : State) (t : Nat) (v : Option Task) : (s.setTask t v).order = s.order := rfl
@[simp] theorem State.setTask_flashBad (s : State) (t : Nat) (v : Option Task) : (s.setTask t v).flashBad = s.flashBad := rfl
@[simp] theorem State.setTask_claimNo (s : State) (t : Nat) (v : Option Task) : (s.setTask t v).claimNo = s.claimNo := rfl
@[simp] theorem State.setTask_spdmIn (s : State) (t : Nat) (v : Option Task) : (s.setTask t v).spdmIn = s.spdmIn := rfl
@[simp] theorem State.setTask_linkWait (s : State) (t : Nat) (v : Option Task) : (s.setTask t v).linkWait = s.linkWait := rfl
@[simp] theorem State.setTask_flights (s : State) (t : Nat) (v : Option Task) : (s.setTask t v).flights = s.flights := rfl
@[simp] theorem State.setTask_enqs (s : State) (t : Nat) (v : Option Task) : (s.setTask t v).enqs = s.enqs := rfl
@[simp] theorem State.setTask_pkgcon (s : State) (t : Nat) (v : Option Task) : (s.setTask t v).pkgcon = s.pkgcon := rfl
@[simp] theorem State.setTask_refused (s : State) (t : Nat) (v : Option Task) : (s.setTask t v).refused = s.refused := rfl
@[simp] theorem State.setTask_pwrstat (s : State) (t : Nat) (v : Option Task) : (s.setTask t v).pwrstat = s.pwrstat := rfl
@[simp] theorem State.setTask_bootstat (s : State) (t : Nat) (v : Option Task) : (s.setTask t v).bootstat = s.bootstat := rfl
@[simp] theorem State.setTask_evq (s : State) (t : Nat) (v : Option Task) : (s.setTask t v).evq = s.evq := rfl
@[simp] theorem State.setTask_bp (s : State) (t : Nat) (v : Option Task) : (s.setTask t v).bp = s.bp := rfl
@[simp] theorem State.setTask_bpSteps (s : State) (t : Nat) (v : Option Task) : (s.setTask t v).bpSteps = s.bpSteps := rfl
@[simp] theorem State.setTask_thlim (s : State) (t : Nat) (v : Option Task) : (s.setTask t v).thlim = s.thlim := rfl
@[simp] theorem State.setTask_peaklim (s : State) (t : Nat) (v : Option Task) : (s.setTask t v).peaklim = s.peaklim := rfl
@[simp] theorem State.setTask_trip (s : State) (t : Nat) (v : Option Task) : (s.setTask t v).trip = s.trip := rfl
@[simp] theorem State.setTask_tripDies (s : State) (t : Nat) (v : Option Task) : (s.setTask t v).tripDies = s.tripDies := rfl
@[simp] theorem State.setTask_infeas (s : State) (t : Nat) (v : Option Task) : (s.setTask t v).infeas = s.infeas := rfl
@[simp] theorem State.setTask_floorsAt (s : State) (t : Nat) (v : Option Task) : (s.setTask t v).floorsAt = s.floorsAt := rfl
@[simp] theorem State.setTask_bootEvents (s : State) (t : Nat) (v : Option Task) : (s.setTask t v).bootEvents = s.bootEvents := rfl
@[simp] theorem State.setTask_epl (s : State) (t : Nat) (v : Option Task) : (s.setTask t v).epl = s.epl := rfl
@[simp] theorem State.setTask_linkUp (s : State) (t : Nat) (v : Option Task) : (s.setTask t v).linkUp = s.linkUp := rfl
@[simp] theorem State.setTask_spdmSeen (s : State) (t : Nat) (v : Option Task) : (s.setTask t v).spdmSeen = s.spdmSeen := rfl
@[simp] theorem State.setTask_nor (s : State) (t : Nat) (v : Option Task) : (s.setTask t v).nor = s.nor := rfl
@[simp] theorem State.setTask_recAt (s : State) (t : Nat) (v : Option Task) : (s.setTask t v).recAt = s.recAt := rfl
@[simp] theorem State.setTask_active (s : State) (t : Nat) (v : Option Task) : (s.setTask t v).active = s.active := rfl
@[simp] theorem State.setTask_saved (s : State) (t : Nat) (v : Option Task) : (s.setTask t v).saved = s.saved := rfl
@[simp] theorem State.setTask_out (s : State) (t : Nat) (v : Option Task) : (s.setTask t v).out = s.out := rfl
@[simp] theorem State.setTask_agenda (s : State) (t : Nat) (v : Option Task) : (s.setTask t v).agenda = s.agenda := rfl
@[simp] theorem State.setTask_fresh (s : State) (t : Nat) (v : Option Task) : (s.setTask t v).fresh = s.fresh := rfl
@[simp] theorem State.setTask_cur (s : State) (t : Nat) (v : Option Task) : (s.setTask t v).cur = s.cur := rfl

/-! `State.updTask` changes `tasks` alone. -/
@[simp] theorem State.updTask_now (s : State) (t : Nat) (f : Task → Task) : (s.updTask t f).now = s.now := rfl
@[simp] theorem State.updTask_nextClose (s : State) (t : Nat) (f : Task → Task) : (s.updTask t f).nextClose = s.nextClose := rfl
@[simp] theorem State.updTask_intv (s : State) (t : Nat) (f : Task → Task) : (s.updTask t f).intv = s.intv := rfl
@[simp] theorem State.updTask_power (s : State) (t : Nat) (f : Task → Task) : (s.updTask t f).power = s.power := rfl
@[simp] theorem State.updTask_cores (s : State) (t : Nat) (f : Task → Task) : (s.updTask t f).cores = s.cores := rfl
@[simp] theorem State.updTask_dies (s : State) (t : Nat) (f : Task → Task) : (s.updTask t f).dies = s.dies := rfl
@[simp] theorem State.updTask_mem (s : State) (t : Nat) (f : Task → Task) : (s.updTask t f).mem = s.mem := rfl
@[simp] theorem State.updTask_l2Old (s : State) (t : Nat) (f : Task → Task) : (s.updTask t f).l2Old = s.l2Old := rfl
@[simp] theorem State.updTask_l1Old (s : State) (t : Nat) (f : Task → Task) : (s.updTask t f).l1Old = s.l1Old := rfl
@[simp] theorem State.updTask_objs (s : State) (t : Nat) (f : Task → Task) : (s.updTask t f).objs = s.objs := rfl
@[simp] theorem State.updTask_flash (s : State) (t : Nat) (f : Task → Task) : (s.updTask t f).flash = s.flash := rfl
@[simp] theorem State.updTask_remap (s : State) (t : Nat) (f : Task → Task) : (s.updTask t f).remap = s.remap := rfl
@[simp] theorem State.updTask_wear (s : State) (t : Nat) (f : Task → Task) : (s.updTask t f).wear = s.wear := rfl
@[simp] theorem State.updTask_islands (s : State) (t : Nat) (f : Task → Task) : (s.updTask t f).islands = s.islands := rfl
@[simp] theorem State.updTask_parts (s : State) (t : Nat) (f : Task → Task) : (s.updTask t f).parts = s.parts := rfl
@[simp] theorem State.updTask_gens (s : State) (t : Nat) (f : Task → Task) : (s.updTask t f).gens = s.gens := rfl
@[simp] theorem State.updTask_accepts (s : State) (t : Nat) (f : Task → Task) : (s.updTask t f).accepts = s.accepts := rfl
@[simp] theorem State.updTask_teams (s : State) (t : Nat) (f : Task → Task) : (s.updTask t f).teams = s.teams := rfl
@[simp] theorem State.updTask_nextTeam (s : State) (t : Nat) (f : Task → Task) : (s.updTask t f).nextTeam = s.nextTeam := rfl
@[simp] theorem State.updTask_lastServed (s : State) (t : Nat) (f : Task → Task) : (s.updTask t f).lastServed = s.lastServed := rfl
@[simp] theorem State.updTask_quiesce (s : State) (t : Nat) (f : Task → Task) : (s.updTask t f).quiesce = s.quiesce := rfl
@[simp] theorem State.updTask_passDue (s : State) (t : Nat) (f : Task → Task) : (s.updTask t f).passDue = s.passDue := rfl
@[simp] theorem State.updTask_posted (s : State) (t : Nat) (f : Task → Task) : (s.updTask t f).posted = s.posted := rfl
@[simp] theorem State.updTask_arrs (s : State) (t : Nat) (f : Task → Task) : (s.updTask t f).arrs = s.arrs := rfl
@[simp] theorem State.updTask_rels (s : State) (t : Nat) (f : Task → Task) : (s.updTask t f).rels = s.rels := rfl
@[simp] theorem State.updTask_answers (s : State) (t : Nat) (f : Task → Task) : (s.updTask t f).answers = s.answers := rfl
@[simp] theorem State.updTask_order (s : State) (t : Nat) (f : Task → Task) : (s.updTask t f).order = s.order := rfl
@[simp] theorem State.updTask_flashBad (s : State) (t : Nat) (f : Task → Task) : (s.updTask t f).flashBad = s.flashBad := rfl
@[simp] theorem State.updTask_claimNo (s : State) (t : Nat) (f : Task → Task) : (s.updTask t f).claimNo = s.claimNo := rfl
@[simp] theorem State.updTask_spdmIn (s : State) (t : Nat) (f : Task → Task) : (s.updTask t f).spdmIn = s.spdmIn := rfl
@[simp] theorem State.updTask_linkWait (s : State) (t : Nat) (f : Task → Task) : (s.updTask t f).linkWait = s.linkWait := rfl
@[simp] theorem State.updTask_flights (s : State) (t : Nat) (f : Task → Task) : (s.updTask t f).flights = s.flights := rfl
@[simp] theorem State.updTask_enqs (s : State) (t : Nat) (f : Task → Task) : (s.updTask t f).enqs = s.enqs := rfl
@[simp] theorem State.updTask_pkgcon (s : State) (t : Nat) (f : Task → Task) : (s.updTask t f).pkgcon = s.pkgcon := rfl
@[simp] theorem State.updTask_refused (s : State) (t : Nat) (f : Task → Task) : (s.updTask t f).refused = s.refused := rfl
@[simp] theorem State.updTask_pwrstat (s : State) (t : Nat) (f : Task → Task) : (s.updTask t f).pwrstat = s.pwrstat := rfl
@[simp] theorem State.updTask_bootstat (s : State) (t : Nat) (f : Task → Task) : (s.updTask t f).bootstat = s.bootstat := rfl
@[simp] theorem State.updTask_evq (s : State) (t : Nat) (f : Task → Task) : (s.updTask t f).evq = s.evq := rfl
@[simp] theorem State.updTask_bp (s : State) (t : Nat) (f : Task → Task) : (s.updTask t f).bp = s.bp := rfl
@[simp] theorem State.updTask_bpSteps (s : State) (t : Nat) (f : Task → Task) : (s.updTask t f).bpSteps = s.bpSteps := rfl
@[simp] theorem State.updTask_thlim (s : State) (t : Nat) (f : Task → Task) : (s.updTask t f).thlim = s.thlim := rfl
@[simp] theorem State.updTask_peaklim (s : State) (t : Nat) (f : Task → Task) : (s.updTask t f).peaklim = s.peaklim := rfl
@[simp] theorem State.updTask_trip (s : State) (t : Nat) (f : Task → Task) : (s.updTask t f).trip = s.trip := rfl
@[simp] theorem State.updTask_tripDies (s : State) (t : Nat) (f : Task → Task) : (s.updTask t f).tripDies = s.tripDies := rfl
@[simp] theorem State.updTask_infeas (s : State) (t : Nat) (f : Task → Task) : (s.updTask t f).infeas = s.infeas := rfl
@[simp] theorem State.updTask_floorsAt (s : State) (t : Nat) (f : Task → Task) : (s.updTask t f).floorsAt = s.floorsAt := rfl
@[simp] theorem State.updTask_bootEvents (s : State) (t : Nat) (f : Task → Task) : (s.updTask t f).bootEvents = s.bootEvents := rfl
@[simp] theorem State.updTask_epl (s : State) (t : Nat) (f : Task → Task) : (s.updTask t f).epl = s.epl := rfl
@[simp] theorem State.updTask_linkUp (s : State) (t : Nat) (f : Task → Task) : (s.updTask t f).linkUp = s.linkUp := rfl
@[simp] theorem State.updTask_spdmSeen (s : State) (t : Nat) (f : Task → Task) : (s.updTask t f).spdmSeen = s.spdmSeen := rfl
@[simp] theorem State.updTask_nor (s : State) (t : Nat) (f : Task → Task) : (s.updTask t f).nor = s.nor := rfl
@[simp] theorem State.updTask_recAt (s : State) (t : Nat) (f : Task → Task) : (s.updTask t f).recAt = s.recAt := rfl
@[simp] theorem State.updTask_active (s : State) (t : Nat) (f : Task → Task) : (s.updTask t f).active = s.active := rfl
@[simp] theorem State.updTask_saved (s : State) (t : Nat) (f : Task → Task) : (s.updTask t f).saved = s.saved := rfl
@[simp] theorem State.updTask_out (s : State) (t : Nat) (f : Task → Task) : (s.updTask t f).out = s.out := rfl
@[simp] theorem State.updTask_agenda (s : State) (t : Nat) (f : Task → Task) : (s.updTask t f).agenda = s.agenda := rfl
@[simp] theorem State.updTask_fresh (s : State) (t : Nat) (f : Task → Task) : (s.updTask t f).fresh = s.fresh := rfl
@[simp] theorem State.updTask_cur (s : State) (t : Nat) (f : Task → Task) : (s.updTask t f).cur = s.cur := rfl

/-! `State.updLink` changes `epl` alone. -/
@[simp] theorem State.updLink_now (s : State) (l : Nat) (f : Epl → Epl) : (s.updLink l f).now = s.now := rfl
@[simp] theorem State.updLink_nextClose (s : State) (l : Nat) (f : Epl → Epl) : (s.updLink l f).nextClose = s.nextClose := rfl
@[simp] theorem State.updLink_intv (s : State) (l : Nat) (f : Epl → Epl) : (s.updLink l f).intv = s.intv := rfl
@[simp] theorem State.updLink_power (s : State) (l : Nat) (f : Epl → Epl) : (s.updLink l f).power = s.power := rfl
@[simp] theorem State.updLink_cores (s : State) (l : Nat) (f : Epl → Epl) : (s.updLink l f).cores = s.cores := rfl
@[simp] theorem State.updLink_dies (s : State) (l : Nat) (f : Epl → Epl) : (s.updLink l f).dies = s.dies := rfl
@[simp] theorem State.updLink_mem (s : State) (l : Nat) (f : Epl → Epl) : (s.updLink l f).mem = s.mem := rfl
@[simp] theorem State.updLink_l2Old (s : State) (l : Nat) (f : Epl → Epl) : (s.updLink l f).l2Old = s.l2Old := rfl
@[simp] theorem State.updLink_l1Old (s : State) (l : Nat) (f : Epl → Epl) : (s.updLink l f).l1Old = s.l1Old := rfl
@[simp] theorem State.updLink_objs (s : State) (l : Nat) (f : Epl → Epl) : (s.updLink l f).objs = s.objs := rfl
@[simp] theorem State.updLink_flash (s : State) (l : Nat) (f : Epl → Epl) : (s.updLink l f).flash = s.flash := rfl
@[simp] theorem State.updLink_remap (s : State) (l : Nat) (f : Epl → Epl) : (s.updLink l f).remap = s.remap := rfl
@[simp] theorem State.updLink_wear (s : State) (l : Nat) (f : Epl → Epl) : (s.updLink l f).wear = s.wear := rfl
@[simp] theorem State.updLink_islands (s : State) (l : Nat) (f : Epl → Epl) : (s.updLink l f).islands = s.islands := rfl
@[simp] theorem State.updLink_parts (s : State) (l : Nat) (f : Epl → Epl) : (s.updLink l f).parts = s.parts := rfl
@[simp] theorem State.updLink_tasks (s : State) (l : Nat) (f : Epl → Epl) : (s.updLink l f).tasks = s.tasks := rfl
@[simp] theorem State.updLink_gens (s : State) (l : Nat) (f : Epl → Epl) : (s.updLink l f).gens = s.gens := rfl
@[simp] theorem State.updLink_accepts (s : State) (l : Nat) (f : Epl → Epl) : (s.updLink l f).accepts = s.accepts := rfl
@[simp] theorem State.updLink_teams (s : State) (l : Nat) (f : Epl → Epl) : (s.updLink l f).teams = s.teams := rfl
@[simp] theorem State.updLink_nextTeam (s : State) (l : Nat) (f : Epl → Epl) : (s.updLink l f).nextTeam = s.nextTeam := rfl
@[simp] theorem State.updLink_lastServed (s : State) (l : Nat) (f : Epl → Epl) : (s.updLink l f).lastServed = s.lastServed := rfl
@[simp] theorem State.updLink_quiesce (s : State) (l : Nat) (f : Epl → Epl) : (s.updLink l f).quiesce = s.quiesce := rfl
@[simp] theorem State.updLink_passDue (s : State) (l : Nat) (f : Epl → Epl) : (s.updLink l f).passDue = s.passDue := rfl
@[simp] theorem State.updLink_posted (s : State) (l : Nat) (f : Epl → Epl) : (s.updLink l f).posted = s.posted := rfl
@[simp] theorem State.updLink_arrs (s : State) (l : Nat) (f : Epl → Epl) : (s.updLink l f).arrs = s.arrs := rfl
@[simp] theorem State.updLink_rels (s : State) (l : Nat) (f : Epl → Epl) : (s.updLink l f).rels = s.rels := rfl
@[simp] theorem State.updLink_answers (s : State) (l : Nat) (f : Epl → Epl) : (s.updLink l f).answers = s.answers := rfl
@[simp] theorem State.updLink_order (s : State) (l : Nat) (f : Epl → Epl) : (s.updLink l f).order = s.order := rfl
@[simp] theorem State.updLink_flashBad (s : State) (l : Nat) (f : Epl → Epl) : (s.updLink l f).flashBad = s.flashBad := rfl
@[simp] theorem State.updLink_claimNo (s : State) (l : Nat) (f : Epl → Epl) : (s.updLink l f).claimNo = s.claimNo := rfl
@[simp] theorem State.updLink_spdmIn (s : State) (l : Nat) (f : Epl → Epl) : (s.updLink l f).spdmIn = s.spdmIn := rfl
@[simp] theorem State.updLink_linkWait (s : State) (l : Nat) (f : Epl → Epl) : (s.updLink l f).linkWait = s.linkWait := rfl
@[simp] theorem State.updLink_flights (s : State) (l : Nat) (f : Epl → Epl) : (s.updLink l f).flights = s.flights := rfl
@[simp] theorem State.updLink_enqs (s : State) (l : Nat) (f : Epl → Epl) : (s.updLink l f).enqs = s.enqs := rfl
@[simp] theorem State.updLink_pkgcon (s : State) (l : Nat) (f : Epl → Epl) : (s.updLink l f).pkgcon = s.pkgcon := rfl
@[simp] theorem State.updLink_refused (s : State) (l : Nat) (f : Epl → Epl) : (s.updLink l f).refused = s.refused := rfl
@[simp] theorem State.updLink_pwrstat (s : State) (l : Nat) (f : Epl → Epl) : (s.updLink l f).pwrstat = s.pwrstat := rfl
@[simp] theorem State.updLink_bootstat (s : State) (l : Nat) (f : Epl → Epl) : (s.updLink l f).bootstat = s.bootstat := rfl
@[simp] theorem State.updLink_evq (s : State) (l : Nat) (f : Epl → Epl) : (s.updLink l f).evq = s.evq := rfl
@[simp] theorem State.updLink_bp (s : State) (l : Nat) (f : Epl → Epl) : (s.updLink l f).bp = s.bp := rfl
@[simp] theorem State.updLink_bpSteps (s : State) (l : Nat) (f : Epl → Epl) : (s.updLink l f).bpSteps = s.bpSteps := rfl
@[simp] theorem State.updLink_thlim (s : State) (l : Nat) (f : Epl → Epl) : (s.updLink l f).thlim = s.thlim := rfl
@[simp] theorem State.updLink_peaklim (s : State) (l : Nat) (f : Epl → Epl) : (s.updLink l f).peaklim = s.peaklim := rfl
@[simp] theorem State.updLink_trip (s : State) (l : Nat) (f : Epl → Epl) : (s.updLink l f).trip = s.trip := rfl
@[simp] theorem State.updLink_tripDies (s : State) (l : Nat) (f : Epl → Epl) : (s.updLink l f).tripDies = s.tripDies := rfl
@[simp] theorem State.updLink_infeas (s : State) (l : Nat) (f : Epl → Epl) : (s.updLink l f).infeas = s.infeas := rfl
@[simp] theorem State.updLink_floorsAt (s : State) (l : Nat) (f : Epl → Epl) : (s.updLink l f).floorsAt = s.floorsAt := rfl
@[simp] theorem State.updLink_bootEvents (s : State) (l : Nat) (f : Epl → Epl) : (s.updLink l f).bootEvents = s.bootEvents := rfl
@[simp] theorem State.updLink_linkUp (s : State) (l : Nat) (f : Epl → Epl) : (s.updLink l f).linkUp = s.linkUp := rfl
@[simp] theorem State.updLink_spdmSeen (s : State) (l : Nat) (f : Epl → Epl) : (s.updLink l f).spdmSeen = s.spdmSeen := rfl
@[simp] theorem State.updLink_nor (s : State) (l : Nat) (f : Epl → Epl) : (s.updLink l f).nor = s.nor := rfl
@[simp] theorem State.updLink_recAt (s : State) (l : Nat) (f : Epl → Epl) : (s.updLink l f).recAt = s.recAt := rfl
@[simp] theorem State.updLink_active (s : State) (l : Nat) (f : Epl → Epl) : (s.updLink l f).active = s.active := rfl
@[simp] theorem State.updLink_saved (s : State) (l : Nat) (f : Epl → Epl) : (s.updLink l f).saved = s.saved := rfl
@[simp] theorem State.updLink_out (s : State) (l : Nat) (f : Epl → Epl) : (s.updLink l f).out = s.out := rfl
@[simp] theorem State.updLink_agenda (s : State) (l : Nat) (f : Epl → Epl) : (s.updLink l f).agenda = s.agenda := rfl
@[simp] theorem State.updLink_fresh (s : State) (l : Nat) (f : Epl → Epl) : (s.updLink l f).fresh = s.fresh := rfl
@[simp] theorem State.updLink_cur (s : State) (l : Nat) (f : Epl → Epl) : (s.updLink l f).cur = s.cur := rfl

/-! `State.draw` changes `fresh` alone. -/
@[simp] theorem State.draw_now (s : State) : (s.draw).now = s.now := rfl
@[simp] theorem State.draw_nextClose (s : State) : (s.draw).nextClose = s.nextClose := rfl
@[simp] theorem State.draw_intv (s : State) : (s.draw).intv = s.intv := rfl
@[simp] theorem State.draw_power (s : State) : (s.draw).power = s.power := rfl
@[simp] theorem State.draw_cores (s : State) : (s.draw).cores = s.cores := rfl
@[simp] theorem State.draw_dies (s : State) : (s.draw).dies = s.dies := rfl
@[simp] theorem State.draw_mem (s : State) : (s.draw).mem = s.mem := rfl
@[simp] theorem State.draw_l2Old (s : State) : (s.draw).l2Old = s.l2Old := rfl
@[simp] theorem State.draw_l1Old (s : State) : (s.draw).l1Old = s.l1Old := rfl
@[simp] theorem State.draw_objs (s : State) : (s.draw).objs = s.objs := rfl
@[simp] theorem State.draw_flash (s : State) : (s.draw).flash = s.flash := rfl
@[simp] theorem State.draw_remap (s : State) : (s.draw).remap = s.remap := rfl
@[simp] theorem State.draw_wear (s : State) : (s.draw).wear = s.wear := rfl
@[simp] theorem State.draw_islands (s : State) : (s.draw).islands = s.islands := rfl
@[simp] theorem State.draw_parts (s : State) : (s.draw).parts = s.parts := rfl
@[simp] theorem State.draw_tasks (s : State) : (s.draw).tasks = s.tasks := rfl
@[simp] theorem State.draw_gens (s : State) : (s.draw).gens = s.gens := rfl
@[simp] theorem State.draw_accepts (s : State) : (s.draw).accepts = s.accepts := rfl
@[simp] theorem State.draw_teams (s : State) : (s.draw).teams = s.teams := rfl
@[simp] theorem State.draw_nextTeam (s : State) : (s.draw).nextTeam = s.nextTeam := rfl
@[simp] theorem State.draw_lastServed (s : State) : (s.draw).lastServed = s.lastServed := rfl
@[simp] theorem State.draw_quiesce (s : State) : (s.draw).quiesce = s.quiesce := rfl
@[simp] theorem State.draw_passDue (s : State) : (s.draw).passDue = s.passDue := rfl
@[simp] theorem State.draw_posted (s : State) : (s.draw).posted = s.posted := rfl
@[simp] theorem State.draw_arrs (s : State) : (s.draw).arrs = s.arrs := rfl
@[simp] theorem State.draw_rels (s : State) : (s.draw).rels = s.rels := rfl
@[simp] theorem State.draw_answers (s : State) : (s.draw).answers = s.answers := rfl
@[simp] theorem State.draw_order (s : State) : (s.draw).order = s.order := rfl
@[simp] theorem State.draw_flashBad (s : State) : (s.draw).flashBad = s.flashBad := rfl
@[simp] theorem State.draw_claimNo (s : State) : (s.draw).claimNo = s.claimNo := rfl
@[simp] theorem State.draw_spdmIn (s : State) : (s.draw).spdmIn = s.spdmIn := rfl
@[simp] theorem State.draw_linkWait (s : State) : (s.draw).linkWait = s.linkWait := rfl
@[simp] theorem State.draw_flights (s : State) : (s.draw).flights = s.flights := rfl
@[simp] theorem State.draw_enqs (s : State) : (s.draw).enqs = s.enqs := rfl
@[simp] theorem State.draw_pkgcon (s : State) : (s.draw).pkgcon = s.pkgcon := rfl
@[simp] theorem State.draw_refused (s : State) : (s.draw).refused = s.refused := rfl
@[simp] theorem State.draw_pwrstat (s : State) : (s.draw).pwrstat = s.pwrstat := rfl
@[simp] theorem State.draw_bootstat (s : State) : (s.draw).bootstat = s.bootstat := rfl
@[simp] theorem State.draw_evq (s : State) : (s.draw).evq = s.evq := rfl
@[simp] theorem State.draw_bp (s : State) : (s.draw).bp = s.bp := rfl
@[simp] theorem State.draw_bpSteps (s : State) : (s.draw).bpSteps = s.bpSteps := rfl
@[simp] theorem State.draw_thlim (s : State) : (s.draw).thlim = s.thlim := rfl
@[simp] theorem State.draw_peaklim (s : State) : (s.draw).peaklim = s.peaklim := rfl
@[simp] theorem State.draw_trip (s : State) : (s.draw).trip = s.trip := rfl
@[simp] theorem State.draw_tripDies (s : State) : (s.draw).tripDies = s.tripDies := rfl
@[simp] theorem State.draw_infeas (s : State) : (s.draw).infeas = s.infeas := rfl
@[simp] theorem State.draw_floorsAt (s : State) : (s.draw).floorsAt = s.floorsAt := rfl
@[simp] theorem State.draw_bootEvents (s : State) : (s.draw).bootEvents = s.bootEvents := rfl
@[simp] theorem State.draw_epl (s : State) : (s.draw).epl = s.epl := rfl
@[simp] theorem State.draw_linkUp (s : State) : (s.draw).linkUp = s.linkUp := rfl
@[simp] theorem State.draw_spdmSeen (s : State) : (s.draw).spdmSeen = s.spdmSeen := rfl
@[simp] theorem State.draw_nor (s : State) : (s.draw).nor = s.nor := rfl
@[simp] theorem State.draw_recAt (s : State) : (s.draw).recAt = s.recAt := rfl
@[simp] theorem State.draw_active (s : State) : (s.draw).active = s.active := rfl
@[simp] theorem State.draw_saved (s : State) : (s.draw).saved = s.saved := rfl
@[simp] theorem State.draw_out (s : State) : (s.draw).out = s.out := rfl
@[simp] theorem State.draw_agenda (s : State) : (s.draw).agenda = s.agenda := rfl
@[simp] theorem State.draw_cur (s : State) : (s.draw).cur = s.cur := rfl

/-! `State.send` changes `out` alone. -/
@[simp] theorem State.send_now (s : State) (o : Out) : (s.send o).now = s.now := rfl
@[simp] theorem State.send_nextClose (s : State) (o : Out) : (s.send o).nextClose = s.nextClose := rfl
@[simp] theorem State.send_intv (s : State) (o : Out) : (s.send o).intv = s.intv := rfl
@[simp] theorem State.send_power (s : State) (o : Out) : (s.send o).power = s.power := rfl
@[simp] theorem State.send_cores (s : State) (o : Out) : (s.send o).cores = s.cores := rfl
@[simp] theorem State.send_dies (s : State) (o : Out) : (s.send o).dies = s.dies := rfl
@[simp] theorem State.send_mem (s : State) (o : Out) : (s.send o).mem = s.mem := rfl
@[simp] theorem State.send_l2Old (s : State) (o : Out) : (s.send o).l2Old = s.l2Old := rfl
@[simp] theorem State.send_l1Old (s : State) (o : Out) : (s.send o).l1Old = s.l1Old := rfl
@[simp] theorem State.send_objs (s : State) (o : Out) : (s.send o).objs = s.objs := rfl
@[simp] theorem State.send_flash (s : State) (o : Out) : (s.send o).flash = s.flash := rfl
@[simp] theorem State.send_remap (s : State) (o : Out) : (s.send o).remap = s.remap := rfl
@[simp] theorem State.send_wear (s : State) (o : Out) : (s.send o).wear = s.wear := rfl
@[simp] theorem State.send_islands (s : State) (o : Out) : (s.send o).islands = s.islands := rfl
@[simp] theorem State.send_parts (s : State) (o : Out) : (s.send o).parts = s.parts := rfl
@[simp] theorem State.send_tasks (s : State) (o : Out) : (s.send o).tasks = s.tasks := rfl
@[simp] theorem State.send_gens (s : State) (o : Out) : (s.send o).gens = s.gens := rfl
@[simp] theorem State.send_accepts (s : State) (o : Out) : (s.send o).accepts = s.accepts := rfl
@[simp] theorem State.send_teams (s : State) (o : Out) : (s.send o).teams = s.teams := rfl
@[simp] theorem State.send_nextTeam (s : State) (o : Out) : (s.send o).nextTeam = s.nextTeam := rfl
@[simp] theorem State.send_lastServed (s : State) (o : Out) : (s.send o).lastServed = s.lastServed := rfl
@[simp] theorem State.send_quiesce (s : State) (o : Out) : (s.send o).quiesce = s.quiesce := rfl
@[simp] theorem State.send_passDue (s : State) (o : Out) : (s.send o).passDue = s.passDue := rfl
@[simp] theorem State.send_posted (s : State) (o : Out) : (s.send o).posted = s.posted := rfl
@[simp] theorem State.send_arrs (s : State) (o : Out) : (s.send o).arrs = s.arrs := rfl
@[simp] theorem State.send_rels (s : State) (o : Out) : (s.send o).rels = s.rels := rfl
@[simp] theorem State.send_answers (s : State) (o : Out) : (s.send o).answers = s.answers := rfl
@[simp] theorem State.send_order (s : State) (o : Out) : (s.send o).order = s.order := rfl
@[simp] theorem State.send_flashBad (s : State) (o : Out) : (s.send o).flashBad = s.flashBad := rfl
@[simp] theorem State.send_claimNo (s : State) (o : Out) : (s.send o).claimNo = s.claimNo := rfl
@[simp] theorem State.send_spdmIn (s : State) (o : Out) : (s.send o).spdmIn = s.spdmIn := rfl
@[simp] theorem State.send_linkWait (s : State) (o : Out) : (s.send o).linkWait = s.linkWait := rfl
@[simp] theorem State.send_flights (s : State) (o : Out) : (s.send o).flights = s.flights := rfl
@[simp] theorem State.send_enqs (s : State) (o : Out) : (s.send o).enqs = s.enqs := rfl
@[simp] theorem State.send_pkgcon (s : State) (o : Out) : (s.send o).pkgcon = s.pkgcon := rfl
@[simp] theorem State.send_refused (s : State) (o : Out) : (s.send o).refused = s.refused := rfl
@[simp] theorem State.send_pwrstat (s : State) (o : Out) : (s.send o).pwrstat = s.pwrstat := rfl
@[simp] theorem State.send_bootstat (s : State) (o : Out) : (s.send o).bootstat = s.bootstat := rfl
@[simp] theorem State.send_evq (s : State) (o : Out) : (s.send o).evq = s.evq := rfl
@[simp] theorem State.send_bp (s : State) (o : Out) : (s.send o).bp = s.bp := rfl
@[simp] theorem State.send_bpSteps (s : State) (o : Out) : (s.send o).bpSteps = s.bpSteps := rfl
@[simp] theorem State.send_thlim (s : State) (o : Out) : (s.send o).thlim = s.thlim := rfl
@[simp] theorem State.send_peaklim (s : State) (o : Out) : (s.send o).peaklim = s.peaklim := rfl
@[simp] theorem State.send_trip (s : State) (o : Out) : (s.send o).trip = s.trip := rfl
@[simp] theorem State.send_tripDies (s : State) (o : Out) : (s.send o).tripDies = s.tripDies := rfl
@[simp] theorem State.send_infeas (s : State) (o : Out) : (s.send o).infeas = s.infeas := rfl
@[simp] theorem State.send_floorsAt (s : State) (o : Out) : (s.send o).floorsAt = s.floorsAt := rfl
@[simp] theorem State.send_bootEvents (s : State) (o : Out) : (s.send o).bootEvents = s.bootEvents := rfl
@[simp] theorem State.send_epl (s : State) (o : Out) : (s.send o).epl = s.epl := rfl
@[simp] theorem State.send_linkUp (s : State) (o : Out) : (s.send o).linkUp = s.linkUp := rfl
@[simp] theorem State.send_spdmSeen (s : State) (o : Out) : (s.send o).spdmSeen = s.spdmSeen := rfl
@[simp] theorem State.send_nor (s : State) (o : Out) : (s.send o).nor = s.nor := rfl
@[simp] theorem State.send_recAt (s : State) (o : Out) : (s.send o).recAt = s.recAt := rfl
@[simp] theorem State.send_active (s : State) (o : Out) : (s.send o).active = s.active := rfl
@[simp] theorem State.send_saved (s : State) (o : Out) : (s.send o).saved = s.saved := rfl
@[simp] theorem State.send_agenda (s : State) (o : Out) : (s.send o).agenda = s.agenda := rfl
@[simp] theorem State.send_fresh (s : State) (o : Out) : (s.send o).fresh = s.fresh := rfl
@[simp] theorem State.send_cur (s : State) (o : Out) : (s.send o).cur = s.cur := rfl

end Sys2Proof.Machine
end

