-- ==== Sys2Proof/Laws/Tab.lean ====
section
/-!
SUPPORT. Sys2Proof/Laws/Tab.lean: the laws of sparse tables: read after write, and that a write keeps the
canonical form.
-/
namespace Sys2Proof

theorem Tab.get_erase_same {α : Type} (t : Tab α) (k : Nat) (d : α) : (t.erase k).get k d = d := by
  induction t with
  | nil => rfl
  | cons e r ih =>
    obtain ⟨k', v⟩ := e
    by_cases h : k' = k
    · simp [Tab.erase, h, ih]
    · simp [Tab.erase, Tab.get, h, ih]

theorem Tab.get_erase_other {α : Type} (t : Tab α) (k j : Nat) (d : α) (h : j ≠ k) :
    (t.erase k).get j d = t.get j d := by
  induction t with
  | nil => rfl
  | cons e r ih =>
    obtain ⟨k', v⟩ := e
    by_cases hk : k' = k
    · subst hk
      simp [Tab.erase, Tab.get, Ne.symm h, ih]
    · simp [Tab.erase, Tab.get, hk, ih]

theorem Tab.get_insert_same {α : Type} (t : Tab α) (k : Nat) (v d : α) (h : t.erase k = t) :
    (t.insert k v).get k d = v := by
  induction t with
  | nil => simp [Tab.insert, Tab.get]
  | cons e r ih =>
    obtain ⟨k', w⟩ := e
    have hk : k' ≠ k := by
      intro hk
      have hl : ∀ u : Tab α, (u.erase k).length ≤ u.length := by
        intro u
        induction u with
        | nil => simp [Tab.erase]
        | cons a b hb => simp only [Tab.erase]; split <;> simp only [List.length_cons] <;> omega
      have := hl r
      have h2 := congrArg List.length h
      simp only [Tab.erase, hk, if_true, List.length_cons] at h2
      omega
    have hr : Tab.erase r k = r := by simpa [Tab.erase, hk] using h
    by_cases hlt : k < k'
    · simp [Tab.insert, hlt, Tab.get]
    · simp [Tab.insert, hlt, Tab.get, hk, ih hr]

theorem Tab.get_insert_other {α : Type} (t : Tab α) (k j : Nat) (v d : α) (h : j ≠ k) :
    (t.insert k v).get j d = t.get j d := by
  induction t with
  | nil => simp [Tab.insert, Tab.get, Ne.symm h]
  | cons e r ih =>
    obtain ⟨k', w⟩ := e
    by_cases hlt : k < k'
    · simp [Tab.insert, hlt, Tab.get, Ne.symm h]
    · simp [Tab.insert, hlt, Tab.get, ih]

@[simp] theorem Tab.erase_erase {α : Type} (t : Tab α) (k : Nat) : (t.erase k).erase k = t.erase k := by
  induction t with
  | nil => rfl
  | cons e r ih =>
    obtain ⟨k', v⟩ := e
    by_cases h : k' = k <;> simp [Tab.erase, h, ih]

theorem Tab.erase_insert {α : Type} (t : Tab α) (k : Nat) (v : α) : (t.insert k v).erase k = t.erase k := by
  induction t with
  | nil => simp [Tab.insert, Tab.erase]
  | cons e r ih =>
    obtain ⟨k', w⟩ := e
    by_cases hlt : k < k'
    · simp [Tab.insert, hlt, Tab.erase]
    · by_cases hk : k' = k <;> simp [Tab.insert, hlt, Tab.erase, hk, ih]

/-- Read after write at the same key. -/
@[simp] theorem Tab.get_set_same {α : Type} [DecidableEq α] (t : Tab α) (k : Nat) (v d : α) :
    (t.set k v d).get k d = v := by
  unfold Tab.set
  split
  · next h => rw [Tab.get_erase_same, h]
  · exact Tab.get_insert_same _ _ _ _ (Tab.erase_erase t k)

/-- A write leaves every other key alone. -/
theorem Tab.get_set_other {α : Type} [DecidableEq α] (t : Tab α) (k j : Nat) (v d e : α) (h : j ≠ k) :
    (t.set k v d).get j e = t.get j e := by
  unfold Tab.set
  split
  · exact Tab.get_erase_other _ _ _ _ h
  · rw [Tab.get_insert_other _ _ _ _ _ h, Tab.get_erase_other _ _ _ _ h]

/-- The later of two writes at one key counts. -/
@[simp] theorem Tab.set_set {α : Type} [DecidableEq α] (t : Tab α) (k : Nat) (v w d : α) :
    (t.set k v d).set k w d = t.set k w d := by
  unfold Tab.set
  by_cases hv : v = d <;> by_cases hw : w = d <;> simp [hv, hw, Tab.erase_insert]

/-! ## The canonical form -/

theorem Tab.wf_cons {α : Type} [DecidableEq α] (d : α) (k : Nat) (v : α) (r : Tab α) :
    Tab.wf d ((k, v) :: r) = true ↔ v ≠ d ∧ Tab.wf d r = true ∧ ∀ e ∈ r.head?, k < e.1 := by
  cases r with
  | nil => simp [Tab.wf]
  | cons e r => obtain ⟨k', w⟩ := e; simp [Tab.wf]; tauto

theorem Tab.wf_tail {α : Type} [DecidableEq α] {d : α} {e : Nat × α} {r : Tab α}
    (h : Tab.wf d (e :: r) = true) : Tab.wf d r = true :=
  ((Tab.wf_cons d e.1 e.2 r).mp h).2.1

/-- In a canonical table every later key is larger. -/
theorem Tab.wf_lt {α : Type} [DecidableEq α] {d : α} {k : Nat} {v : α} {r : Tab α}
    (h : Tab.wf d ((k, v) :: r) = true) : ∀ e ∈ r, k < e.1 := by
  induction r generalizing k v with
  | nil => simp
  | cons f r ih =>
    obtain ⟨k', w⟩ := f
    have h1 := (Tab.wf_cons d k v _).mp h
    have hk : k < k' := h1.2.2 (k', w) (by simp)
    intro e he
    rcases List.mem_cons.mp he with rfl | he
    · exact hk
    · exact lt_trans hk (ih h1.2.1 e he)

theorem Tab.wf_cons' {α : Type} [DecidableEq α] (d : α) (k : Nat) (v : α) (r : Tab α) :
    Tab.wf d ((k, v) :: r) = true ↔ v ≠ d ∧ Tab.wf d r = true ∧ ∀ e ∈ r, k < e.1 := by
  constructor
  · intro h
    exact ⟨((Tab.wf_cons d k v r).mp h).1, Tab.wf_tail h, Tab.wf_lt h⟩
  · rintro ⟨h1, h2, h3⟩
    exact (Tab.wf_cons d k v r).mpr ⟨h1, h2, fun e he => h3 e (List.mem_of_mem_head? he)⟩

theorem Tab.mem_of_mem_erase {α : Type} {t : Tab α} {k : Nat} {e : Nat × α} (h : e ∈ t.erase k) : e ∈ t ∧ e.1 ≠ k := by
  induction t with
  | nil => simp [Tab.erase] at h
  | cons f r ih =>
    obtain ⟨k', v⟩ := f
    by_cases hk : k' = k
    · simp only [Tab.erase, hk, if_true] at h
      exact ⟨List.mem_cons_of_mem _ (ih h).1, (ih h).2⟩
    · simp only [Tab.erase, hk, if_false] at h
      rcases List.mem_cons.mp h with rfl | h
      · exact ⟨by simp, hk⟩
      · exact ⟨List.mem_cons_of_mem _ (ih h).1, (ih h).2⟩

theorem Tab.mem_insert {α : Type} {t : Tab α} {k : Nat} {v : α} {e : Nat × α} (h : e ∈ t.insert k v) :
    e = (k, v) ∨ e ∈ t := by
  induction t with
  | nil => simpa [Tab.insert] using h
  | cons f r ih =>
    obtain ⟨k', w⟩ := f
    by_cases hlt : k < k'
    · simpa [Tab.insert, hlt] using h
    · simp only [Tab.insert, hlt, if_false, List.mem_cons] at h
      rcases h with rfl | h
      · simp
      · rcases ih h with h | h
        · exact .inl h
        · exact .inr (List.mem_cons_of_mem _ h)

theorem Tab.wf_erase {α : Type} [DecidableEq α] {d : α} {t : Tab α} (k : Nat) (h : Tab.wf d t = true) :
    Tab.wf d (t.erase k) = true := by
  induction t with
  | nil => rfl
  | cons e r ih =>
    obtain ⟨k', v⟩ := e
    have h1 := (Tab.wf_cons' d k' v r).mp h
    by_cases hk : k' = k
    · simpa [Tab.erase, hk] using ih h1.2.1
    · simp only [Tab.erase, hk, if_false]
      exact (Tab.wf_cons' d k' v _).mpr ⟨h1.1, ih h1.2.1, fun e he => h1.2.2 e (Tab.mem_of_mem_erase he).1⟩

theorem Tab.wf_insert {α : Type} [DecidableEq α] {d : α} {t : Tab α} (k : Nat) (v : α) (h : Tab.wf d t = true)
    (hv : v ≠ d) (hk : ∀ e ∈ t, e.1 ≠ k) : Tab.wf d (t.insert k v) = true := by
  induction t with
  | nil => simp [Tab.insert, Tab.wf, hv]
  | cons e r ih =>
    obtain ⟨k', w⟩ := e
    have h1 := (Tab.wf_cons' d k' w r).mp h
    have hne : k' ≠ k := hk (k', w) (by simp)
    by_cases hlt : k < k'
    · simp only [Tab.insert, hlt, if_true]
      refine (Tab.wf_cons' d k v _).mpr ⟨hv, h, fun e he => ?_⟩
      rcases List.mem_cons.mp he with rfl | he
      · exact hlt
      · exact lt_trans hlt (h1.2.2 e he)
    · simp only [Tab.insert, hlt, if_false]
      refine (Tab.wf_cons' d k' w _).mpr ⟨h1.1, ih h1.2.1 (fun e he => hk e (List.mem_cons_of_mem _ he)), fun e he => ?_⟩
      rcases Tab.mem_insert he with rfl | he
      · show k' < k
        omega
      · exact h1.2.2 e he

/-- A write keeps the canonical form. -/
theorem Tab.wf_set {α : Type} [DecidableEq α] {d : α} {t : Tab α} (k : Nat) (v : α) (h : Tab.wf d t = true) :
    Tab.wf d (t.set k v d) = true := by
  unfold Tab.set
  split
  · exact Tab.wf_erase k h
  · next hv => exact Tab.wf_insert k v (Tab.wf_erase k h) hv (fun e he => (Tab.mem_of_mem_erase he).2)

end Sys2Proof
end

