-- ==== Sys2Proof/Laws/Base.lean ====
section
/-!
SUPPORT. Sys2Proof/Laws/Base.lean: reads after writes of cores and contexts.
-/
namespace Sys2Proof.Machine

@[simp] theorem State.core_setCore (s : State) (c : Nat) (v : Core) : (s.setCore c v).core c = v := by
  simp [State.core, State.setCore]

theorem State.core_setCore_other (s : State) (c d : Nat) (v : Core) (h : d ≠ c) : (s.setCore c v).core d = s.core d := by
  simp [State.core, State.setCore, Tab.get_set_other _ _ _ _ _ _ h]

@[simp] theorem State.core_updCore (s : State) (c : Nat) (f : Core → Core) : (s.updCore c f).core c = f (s.core c) := by
  simp [State.updCore]

theorem State.core_updCore_other (s : State) (c d : Nat) (f : Core → Core) (h : d ≠ c) :
    (s.updCore c f).core d = s.core d := State.core_setCore_other _ _ _ _ h

@[simp] theorem Core.slot_setSlot (k : Core) (i : Nat) (v : Ctx) : (k.setSlot i v).slot i = v := by
  simp [Core.slot, Core.setSlot]

theorem Core.slot_setSlot_other (k : Core) (i j : Nat) (v : Ctx) (h : j ≠ i) : (k.setSlot i v).slot j = k.slot j := by
  simp [Core.slot, Core.setSlot, Tab.get_set_other _ _ _ _ _ _ h]

@[simp] theorem State.ctx_setCtx (s : State) (c i : Nat) (v : Ctx) : (s.setCtx c i v).ctx c i = v := by
  simp [State.ctx, State.setCtx]

@[simp] theorem State.ctx_updCtx (s : State) (c i : Nat) (f : Ctx → Ctx) : (s.updCtx c i f).ctx c i = f (s.ctx c i) := by
  simp [State.updCtx]

theorem State.ctx_setCtx_slot (s : State) (c i j : Nat) (v : Ctx) (h : j ≠ i) : (s.setCtx c i v).ctx c j = s.ctx c j := by
  simp [State.ctx, State.setCtx, Core.slot_setSlot_other _ _ _ _ h]

theorem State.ctx_setCtx_core (s : State) (c d i j : Nat) (v : Ctx) (h : d ≠ c) : (s.setCtx c i v).ctx d j = s.ctx d j := by
  simp [State.ctx, State.setCtx, State.core_updCore_other _ _ _ _ h]

@[simp] theorem State.setCore_setCore (s : State) (c : Nat) (v w : Core) : (s.setCore c v).setCore c w = s.setCore c w := by
  simp [State.setCore]

@[simp] theorem Core.setSlot_setSlot (k : Core) (i : Nat) (v w : Ctx) : (k.setSlot i v).setSlot i w = k.setSlot i w := by
  simp [Core.setSlot]

@[simp] theorem State.updCore_updCore (s : State) (c : Nat) (f g : Core → Core) :
    (s.updCore c f).updCore c g = s.updCore c (fun k => g (f k)) := by
  simp [State.updCore]

@[simp] theorem State.setCtx_setCtx (s : State) (c i : Nat) (v w : Ctx) : (s.setCtx c i v).setCtx c i w = s.setCtx c i w := by
  simp [State.setCtx]

@[simp] theorem State.updCtx_updCtx (s : State) (c i : Nat) (f g : Ctx → Ctx) :
    (s.updCtx c i f).updCtx c i g = s.updCtx c i (fun x => g (f x)) := by
  simp [State.updCtx]

/-- An update of a context leaves the rest of its core alone. -/
theorem State.core_updCtx (s : State) (c i : Nat) (f : Ctx → Ctx) :
    (s.updCtx c i f).core c = (s.core c).setSlot i (f (s.ctx c i)) := by
  simp [State.updCtx, State.setCtx]

end Sys2Proof.Machine
end

