-- ==== Sys2Proof/Laws/Issue.lean ====
section
/-!
SUPPORT. Sys2Proof/Laws/Issue.lean: what the lone issue of one slot instruction does, said once: `issueOne` under
`free` is `issued`.
-/
namespace Sys2Proof.Machine

/-- The lone slot, with its meaning. -/
def lone (i : Instr) (m : SlotSem) (s : State) : List (At × SlotSem) := [(here i s, m)]

/-- The tags that a lone slot allocates. -/
theorem allocsOf_solo (i : Instr) (m : SlotSem) (core slot : Nat) (u : State) :
    allocsOf (soloFrame i m core slot u) = if m.lat != .now ∧ (headOf i).atag ≠ 0 then [(headOf i).atag] else [] := by
  by_cases h : m.lat = .now <;> by_cases h2 : (headOf i).atag = 0 <;> simp [allocsOf, soloFrame, h, h2]

/-- The tags that it names. -/
theorem tagsOf_solo (i : Instr) (m : SlotSem) (core slot : Nat) (u : State) :
    tagsOf (soloFrame i m core slot u) = if (headOf i).atag ≠ 0 then [(headOf i).atag] else [] := by
  by_cases h2 : (headOf i).atag = 0 <;> simp [tagsOf, soloFrame, h2]

theorem waitsOf_solo (i : Instr) (m : SlotSem) (core slot : Nat) (u : State) :
    waitsOf (soloFrame i m core slot u) = waited (headOf i) := by
  simp [waitsOf, soloFrame, waited]

theorem Slot.num_eq_zero (x : Slot) : x.num = 0 ↔ x = .S := by cases x <;> decide

@[simp] theorem Ctx.lvNow_setReps (c : Ctx) (n : Nat) : (c.setReps n).lvNow = c.lvNow := by
  unfold Ctx.lvNow Ctx.setReps; cases c.sup <;> simp

theorem startIssue_solo (i : Instr) (m : SlotSem) (core slot : Nat) (u : State) (tl : List Nat) (c : Ctx) :
    startIssue (soloFrame i m core slot u) 0 tl c = passed (headOf i) i (m.lat != .now) tl c := by
  unfold startIssue
  rw [allocsOf_solo, waitsOf_solo]
  by_cases h : m.lat = .now <;> by_cases h2 : (headOf i).atag = 0 <;> by_cases h3 : (headOf i).slot = .S <;>
    simp [passed, waited, noteCtl, remember, soloFrame, Slot.num_eq_zero, Ctx.allocTag, h, h2, h3]

theorem advance_solo (i : Instr) (m : SlotSem) (core slot : Nat) (u : State) (g : Option Nat) (c : Ctx) :
    advance c (soloFrame i m core slot u) 0 g = movedOn (u.ctx core slot).pcNow g c := by
  cases g <;> simp [advance, movedOn, soloFrame, soloAttr]

theorem endIssue_solo (i : Instr) (m : SlotSem) (core slot : Nat) (u s : State) :
    endIssue s core slot (soloFrame i m core slot u) 0 = counted core slot s := by
  simp [endIssue, counted, soloFrame, soloAttr]

/-- A bundle of one slot that passes its checks and holds issues as `issued` says. -/
theorem issueNow_solo (i : Instr) (m : SlotSem) (s u : State) (hm : m = slotSem i) (hu : (u.ctx s.cur.1 s.cur.2).pcNow = pcOf s) :
    issueNow (judged (headOf i) s) s.cur.1 s.cur.2 (soloFrame i m s.cur.1 s.cur.2 u) 0 (lone i m s) =
      issued i (m.lat != .now) s (m.eff (here i s)) (m.goes (here i s) (m.eff (here i s) (issuing i (m.lat != .now) s)))
        (m.fin (here i s)) := by
  have h1 : (judged (headOf i) s).updCtx s.cur.1 s.cur.2 (startIssue (soloFrame i m s.cur.1 s.cur.2 u) 0 (tilesNamed (lone i m s) (judged (headOf i) s))) =
      issuing i (m.lat != .now) s := by
    subst hm
    simp [State.updCtx, judged, setHand, startIssue_solo, issuing, atIssue, lone]
  have h2 : (here i s).on = true := rfl
  have h3 : (soloFrame i m s.cur.1 s.cur.2 u).attr.hw = 0 := rfl
  simp only [issueNow, h3, zero_ne_one, false_and, if_false, h1]
  simp [h2, lone, runSlots, advance_solo, endIssue_solo, hu, issued]

theorem repIndex_zero (n : Nat) : repIndex n 0 = 0 := by unfold repIndex; split <;> omega

theorem atSlots_solo (i : Instr) (m : SlotSem) (s u : State) (hu : (u.ctx s.cur.1 s.cur.2).pcNow = pcOf s)
    (hp : predOn (found (headOf i) s) i = true) :
    atSlots (judged (headOf i) s) s.cur.1 s.cur.2 0 (soloFrame i m s.cur.1 s.cur.2 u) = lone i m s := by
  simp [atSlots, judged, setHand, soloFrame, lone, here, hu, hp]

/-- What the lone issue of `i` with meaning `m` needs beside `free`, as `passes` says it of `slotSem i`. -/
structure Passes (i : Instr) (m : SlotSem) (s : State) : Prop where
  chk : m.chk (here i s) (judged (headOf i) s) = none
  post : m.post (here i s) (judged (headOf i) s) = none
  mark : m.mark (here i s) (judged (headOf i) s) = false
  other : otherHolds (judged (headOf i) s) s.cur.1 (lone i m s) = false
  holds : (interlock (judged (headOf i) s) s.cur.1 s.cur.2 (lone i m s)).1 = .go
  gates : ((found (headOf i) s).sup || !(m.gates (here i s) (judged (headOf i) s) || (m.lat == .engine && isGated i)) || decide (gatedOpen (judged (headOf i) s) s.cur.1 s.cur.2 + 1 ≤ 32)) = true

/-- `passes` is `Passes` of the instruction's own meaning. -/
theorem passes_iff (i : Instr) (s : State) : passes i s = true ↔ Passes i (slotSem i) s := by
  simp only [passes, Bool.and_eq_true, Bool.or_eq_true, Option.isNone_iff_eq_none, Bool.not_eq_true', beq_iff_eq]
  constructor
  · rintro ⟨⟨⟨⟨⟨h1, h2⟩, h3⟩, h4⟩, h5⟩, h6⟩
    exact ⟨h1, h2, h3, h4, h5, by simpa only [Bool.or_eq_true, Bool.not_eq_true'] using h6⟩
  · rintro ⟨h1, h2, h3, h4, h5, h6⟩
    exact ⟨⟨⟨⟨⟨h1, h2⟩, h3⟩, h4⟩, h5⟩, by simpa only [Bool.or_eq_true, Bool.not_eq_true'] using h6⟩

theorem crossAlias_nil (l : List (Nat × Bool)) : crossAlias [] l = none := by
  have h : l.find? (fun p => ([] : List (Nat × Bool)).any (fun q => q.1 == p.1 && (p.2 || q.2))) = none := by
    simp
  unfold crossAlias
  rw [h]

theorem issueChecked_solo (i : Instr) (m : SlotSem) (s u : State) (he : m = slotSem i) (hu : (u.ctx s.cur.1 s.cur.2).pcNow = pcOf s)
    (hp : predOn (found (headOf i) s) i = true) (h : Passes i m s) :
    issueChecked (judged (headOf i) s) s.cur.1 s.cur.2 (soloFrame i m s.cur.1 s.cur.2 u) 0 =
      issued i (m.lat != .now) s (m.eff (here i s)) (m.goes (here i s) (m.eff (here i s) (issuing i (m.lat != .now) s)))
        (m.fin (here i s)) := by
  have h2 : (here i s).on = true := rfl
  have h3 : (here i s).ins = i := rfl
  have hc : checkSlots (lone i m s) [] (judged (headOf i) s) = none := by
    simp [lone, checkSlots, h2, h.chk, h.post, crossAlias_nil, firstOf]
  unfold issueChecked
  simp only [atSlots_solo i m s u hu hp, hc]
  have hm : (lone i m s).any (fun x => x.2.mark x.1 (judged (headOf i) s)) = false := by
    simp [lone, h.mark]
  have ho : (lone i m s).any (fun x => x.2.counted && x.2.hold x.1 (judged (headOf i) s)) = false := by
    have := h.other
    simp only [otherHolds, Bool.or_eq_false_iff] at this
    simpa [lone] using fun _ => by simpa [lone] using this.1
  rcases hj : interlock (judged (headOf i) s) s.cur.1 s.cur.2 (lone i m s) with ⟨j, sl, k, w⟩
  have hgo : j = .go := by have := h.holds; rw [hj] at this; exact this
  subst hgo
  simp only [hm, Bool.false_eq_true, if_false, hj, ho, h.other]
  have hg : (((judged (headOf i) s).ctx s.cur.1 s.cur.2).sup || ((lone i m s).filter (fun x => x.1.on && (x.2.gates x.1 (judged (headOf i) s) || (x.2.lat == .engine && isGated x.1.ins)))).length == 0 ||
      decide (gatedOpen (judged (headOf i) s) s.cur.1 s.cur.2 + ((lone i m s).filter (fun x => x.1.on && (x.2.gates x.1 (judged (headOf i) s) || (x.2.lat == .engine && isGated x.1.ins)))).length ≤ 32)) = true := by
    have hc : (judged (headOf i) s).ctx s.cur.1 s.cur.2 = found (headOf i) s := by simp [judged, setHand]
    have := h.gates
    rw [hc]
    by_cases hx : (m.gates (here i s) (judged (headOf i) s) || (m.lat == .engine && isGated i)) = true
    · simp only [hx, Bool.not_true, Bool.or_false] at this
      simpa [lone, h2, h3, hx] using this
    · simp [lone, h2, h3, hx]
  unfold issueGated
  simp only [hg, if_true]
  exact issueNow_solo i m s u he hu

theorem issueOne_free (i : Instr) (m : SlotSem) (s : State) (he : m = slotSem i) (hf : free (headOf i) s = true) (h : Passes i m s) :
    issueOne i m s = issued i (m.lat != .now) s (m.eff (here i s))
      (m.goes (here i s) (m.eff (here i s) (issuing i (m.lat != .now) s))) (m.fin (here i s)) := by
  simp only [free, Bool.and_eq_true] at hf
  obtain ⟨⟨⟨⟨⟨⟨f1, f2⟩, f3⟩, f4⟩, f5⟩, f6⟩, f7⟩ := hf
  have f2' : trapDue (s.ctx s.cur.1 s.cur.2) = false := by simpa [hand] using f2
  have f1' : canIssue (s.ctx s.cur.1 s.cur.2) = true := f1
  have f3' : ((s.ctx s.cur.1 s.cur.2).sup && (s.ctx s.cur.1 s.cur.2).faults.any (·.sup)) = false := by
    rw [Bool.not_eq_true'] at f3; exact f3
  set b := atBoundary (hand s) with hb
  have hs1 : (s.updCtx s.cur.1 s.cur.2 (fun c => if c.boundary.sup || c.boundary.fixOpen then c.boundary else c.boundary.openRegion)) = setHand s b := rfl
  have hctx : (setHand s b).ctx s.cur.1 s.cur.2 = b := by simp [setHand]
  have hlate : (!b.sup && b.a.claimLate) = false := by
    cases hx : b.sup <;> simp [hx] at f4 ⊢; exact f4.1
  have hmark : (b.markDue && !b.sup) = false := by
    cases hx : b.sup <;> simp [hx] at f4 ⊢; exact f4.2
  unfold issueOne attempt
  simp only [f1', f2', f3', Bool.true_eq_false, Bool.false_eq_true, if_false, hs1, hctx, hlate, hmark]
  unfold issueFrame
  simp only [repIndex_zero, show (soloFrame i m s.cur.1 s.cur.2 (setHand s b)).attr.rep = 0 from rfl,
    show (soloFrame i m s.cur.1 s.cur.2 (setHand s b)).attr.fix = 0 from rfl, zero_ne_one, false_and, if_false,
    waitsOf_solo]
  have hu : ((setHand s b).ctx s.cur.1 s.cur.2).pcNow = pcOf s := by rw [hctx]; rfl
  have ht : ((setHand s b).updCtx s.cur.1 s.cur.2 (fun c => landTags c (waited (headOf i)))) = setHand s (landTags b (waited (headOf i))) := by
    simp [State.updCtx, setHand]
  have hfind : (waited (headOf i)).find? (fun t => (landTags b (waited (headOf i))).tagCount t != 0) = none := by
    rw [List.find?_eq_none]
    intro t htm
    have := List.all_eq_true.mp f5 t htm
    simpa using this
  have hctx2 : (setHand s (landTags b (waited (headOf i)))).ctx s.cur.1 s.cur.2 = landTags b (waited (headOf i)) := by simp [setHand]
  simp only [ht, hctx2, hfind]
  have hpd : ((setHand s (landTags b (waited (headOf i)))).updCtx s.cur.1 s.cur.2 (fun c => landPd c (soloFrame i m s.cur.1 s.cur.2 (setHand s b)))) = judged (headOf i) s := by
    have : landPd (landTags b (waited (headOf i))) (soloFrame i m s.cur.1 s.cur.2 (setHand s b)) = found (headOf i) s := by
      show _ = landed (headOf i) b
      by_cases hz : (headOf i).pd = 0 <;> simp [landPd, soloFrame, landed, hz]
    rw [State.updCtx, hctx2, this]; exact State.setCtx_setCtx ..
  have hj : (judged (headOf i) s).ctx s.cur.1 s.cur.2 = found (headOf i) s := by simp [judged, setHand]
  simp only [hpd, hj, tagsOf_solo]
  have hp : predOn (found (headOf i) s) i = true := by simpa [predOn] using f6
  have hroom : (if (headOf i).atag ≠ 0 then [(headOf i).atag] else []).any
      (fun t => decide (255 < (found (headOf i) s).tagCount t + ((if (headOf i).atag ≠ 0 then [(headOf i).atag] else []).filter (· == t)).length)) = false := by
    simp only [tagRoom, Bool.or_eq_true, beq_iff_eq, decide_eq_true_eq] at f7
    by_cases hz : (headOf i).atag = 0
    · simp [hz]
    · have := f7.resolve_left hz
      simp [hz]; omega
  simp only [hroom, Bool.false_eq_true, if_false]
  exact issueChecked_solo i m s _ he hu hp h

/-- The lone issue of any slot instruction that is free and passes. -/
theorem issueOne_passes (i : Instr) (s : State) (hf : free (headOf i) s = true) (h : passes i s = true) :
    issueOne i (slotSem i) s = issued i ((slotSem i).lat != .now) s ((slotSem i).eff (here i s))
      ((slotSem i).goes (here i s) ((slotSem i).eff (here i s) (issuing i ((slotSem i).lat != .now) s)))
      ((slotSem i).fin (here i s)) := issueOne_free i _ s rfl hf ((passes_iff i s).mp h)

end Sys2Proof.Machine
end

