-- ==== Sys2Proof/Laws/Memory.lean ====
section
/-!
SUPPORT. Sys2Proof/Laws/Memory.lean: the laws of byte stores: a byte read after a write, and that every operation
on a byte store keeps its canonical form, on which equality of memories rests.
-/
namespace Sys2Proof

theorem Tab.wf_filter {α : Type} [DecidableEq α] {d : α} {t : Tab α} (p : Nat × α → Bool) (h : Tab.wf d t = true) :
    Tab.wf d (t.filter p) = true := by
  induction t with
  | nil => rfl
  | cons e r ih =>
    obtain ⟨k, v⟩ := e
    have h1 := (Tab.wf_cons' d k v r).mp h
    by_cases hp : p (k, v) = true
    · rw [List.filter_cons_of_pos hp]
      exact (Tab.wf_cons' d k v _).mpr ⟨h1.1, ih h1.2.1, fun e he => h1.2.2 e (List.mem_of_mem_filter he)⟩
    · rw [List.filter_cons_of_neg hp]
      exact ih h1.2.1

/-- The same where the value written depends on the table so far. -/
theorem Tab.wf_foldl_set' {α β : Type} [DecidableEq α] {d : α} (k : β → Nat) (v : β → Tab α → α) (l : List β) {t : Tab α}
    (h : Tab.wf d t = true) : Tab.wf d (l.foldl (fun t e => Tab.set t (k e) (v e t) d) t) = true := by
  induction l generalizing t with
  | nil => exact h
  | cons e r ih => exact ih (Tab.wf_set _ _ h)

theorem Tab.wf_foldl_set {α β : Type} [DecidableEq α] {d : α} (k : β → Nat) (v : β → α) (l : List β) {t : Tab α}
    (h : Tab.wf d t = true) : Tab.wf d (l.foldl (fun t x => Tab.set t (k x) (v x) d) t) = true := by
  induction l generalizing t with
  | nil => exact h
  | cons x r ih => exact ih (Tab.wf_set _ _ h)

/-- What a table lists after a write it listed before, but for the entry written. -/
theorem Tab.mem_set {α : Type} [DecidableEq α] {t : Tab α} {k : Nat} {v d : α} {e : Nat × α} (h : e ∈ t.set k v d) :
    e = (k, v) ∨ e ∈ t := by
  unfold Tab.set at h
  split at h
  · exact .inr (Tab.mem_of_mem_erase h).1
  · rcases Tab.mem_insert h with h | h
    · exact .inl h
    · exact .inr (Tab.mem_of_mem_erase h).1

/-- A table whose entries all have a property keeps it under a write of a value that has it. -/
theorem Tab.all_set {α : Type} [DecidableEq α] {t : Tab α} (p : α → Bool) {k : Nat} {v d : α} (h : t.all (fun e => p e.2) = true)
    (hv : p v = true) : (t.set k v d).all (fun e => p e.2) = true := by
  rw [List.all_eq_true] at h ⊢
  intro e he
  rcases Tab.mem_set he with rfl | he
  · exact hv
  · exact h e he

/-- Then so does the value that any key reads as, where the default has the property. -/
theorem Tab.all_get {α : Type} {t : Tab α} (p : α → Bool) {k : Nat} {d : α} (h : t.all (fun e => p e.2) = true)
    (hd : p d = true) : p (t.get k d) = true := by
  induction t with
  | nil => exact hd
  | cons e r ih =>
    obtain ⟨k', v⟩ := e
    simp only [List.all_cons, Bool.and_eq_true] at h
    unfold Tab.get
    split
    · exact h.1
    · exact ih h.2

end Sys2Proof

namespace Sys2Proof.Machine

/-! ## Bytes -/

/-- A write leaves every byte outside it. -/
theorem get_writeBytes_outside (m : List Host.Cell) (a : Nat) (b : List Byte) (x : Nat) (h : x < a ∨ a + b.length ≤ x) :
    Tab.get (writeBytes m a b) x 0 = Tab.get m x 0 := by
  induction b generalizing m a with
  | nil => rfl
  | cons v r ih =>
    simp only [List.length_cons] at h
    rw [writeBytes, ih _ _ (by omega), Tab.get_set_other _ _ _ _ _ _ (by omega)]

/-- A byte written reads back. -/
theorem get_writeBytes_inside (m : List Host.Cell) (a : Nat) (b : List Byte) (i : Nat) (h : i < b.length) :
    Tab.get (writeBytes m a b) (a + i) 0 = b[i] := by
  induction b generalizing m a i with
  | nil => simp at h
  | cons v r ih =>
    cases i with
    | zero =>
      rw [writeBytes, get_writeBytes_outside _ _ _ _ (by omega)]
      simp
    | succ j =>
      have := ih (Tab.set m a v 0) (a + 1) j (by simpa using h)
      rw [writeBytes, show a + (j + 1) = a + 1 + j by omega, this]
      simp

@[simp] theorem length_readBytes (m : List Host.Cell) (a n : Nat) : (readBytes m a n).length = n := by
  simp [readBytes, span]

/-- A read of what was written gives it. -/
theorem readBytes_writeBytes (m : List Host.Cell) (a : Nat) (b : List Byte) : readBytes (writeBytes m a b) a b.length = b := by
  apply List.ext_getElem (by simp)
  intro i h1 h2
  simp only [readBytes, span, List.map_map, List.getElem_map, List.getElem_range, Function.comp_apply]
  exact get_writeBytes_inside m a b i h2

/-- A read beside what was written gives what it gave. -/
theorem readBytes_writeBytes_outside (m : List Host.Cell) (a c n : Nat) (b : List Byte) (h : c + n ≤ a ∨ a + b.length ≤ c) :
    readBytes (writeBytes m a b) c n = readBytes m c n := by
  unfold readBytes span
  rw [List.map_map, List.map_map]
  apply List.map_congr_left
  intro i hi
  have : i < n := List.mem_range.mp hi
  exact get_writeBytes_outside _ _ _ (c + i) (by omega)

/-! ## The canonical form -/

theorem Memory.wf_writeBytes {m : List Host.Cell} (a : Nat) (b : List Byte) (h : Memory.wf m = true) :
    Memory.wf (writeBytes m a b) = true := by
  induction b generalizing m a with
  | nil => exact h
  | cons v r ih => exact ih _ (Tab.wf_set _ _ h)

theorem Memory.wf_filter {m : List Host.Cell} (p : Host.Cell → Bool) (h : Memory.wf m = true) : Memory.wf (m.filter p) = true :=
  Tab.wf_filter p h

theorem memoryForm_iff (s : State) :
    memoryForm s = true ↔ Memory.wf s.mem = true ∧ s.cores.all (fun e => Memory.wf e.2.sram) = true := by
  simp only [memoryForm, Bool.and_eq_true]

/-- What lists memory and cores as before keeps the form. -/
theorem memoryForm_congr {s t : State} (hm : t.mem = s.mem) (hc : t.cores = s.cores) (h : memoryForm s = true) :
    memoryForm t = true := by
  simpa only [memoryForm, hm, hc] using h

theorem memoryForm_core {s : State} (c : Nat) (h : memoryForm s = true) : Memory.wf (s.core c).sram = true :=
  Tab.all_get (fun k : Core => Memory.wf k.sram) ((memoryForm_iff s).mp h).2 rfl

theorem memoryForm_setCore {s : State} (c : Nat) (v : Core) (h : memoryForm s = true) (hv : Memory.wf v.sram = true) :
    memoryForm (s.setCore c v) = true :=
  (memoryForm_iff _).mpr ⟨((memoryForm_iff s).mp h).1, Tab.all_set (fun k : Core => Memory.wf k.sram) ((memoryForm_iff s).mp h).2 hv⟩

/-- An update of a core that keeps its scratchpad. -/
theorem memoryForm_updCore {s : State} (c : Nat) (f : Core → Core) (h : memoryForm s = true)
    (hf : (f (s.core c)).sram = (s.core c).sram) : memoryForm (s.updCore c f) = true :=
  memoryForm_setCore c _ h (by rw [hf]; exact memoryForm_core c h)

theorem memoryForm_setCtx {s : State} (c i : Nat) (v : Ctx) (h : memoryForm s = true) : memoryForm (s.setCtx c i v) = true :=
  memoryForm_updCore c _ h rfl

theorem memoryForm_updCtx {s : State} (c i : Nat) (f : Ctx → Ctx) (h : memoryForm s = true) :
    memoryForm (s.updCtx c i f) = true :=
  memoryForm_setCtx c i _ h

theorem memoryForm_setMem {s : State} (m : List Host.Cell) (h : memoryForm s = true) (hm : Memory.wf m = true) :
    memoryForm { s with mem := m } = true :=
  (memoryForm_iff _).mpr ⟨hm, ((memoryForm_iff s).mp h).2⟩

theorem memoryForm_updDie {s : State} (d : Nat) (f : Die → Die) (h : memoryForm s = true) : memoryForm (s.updDie d f) = true :=
  memoryForm_congr rfl rfl h

/-! ## The operations that write bytes -/

theorem memoryForm_writeDev {s : State} (d pa : Nat) (b : List Byte) (h : memoryForm s = true) :
    memoryForm (s.writeDev d pa b) = true := by
  have hm : memoryForm { s with mem := writeBytes s.mem (devKey d pa) b } = true :=
    memoryForm_setMem _ h (Memory.wf_writeBytes _ _ ((memoryForm_iff s).mp h).1)
  unfold State.writeDev
  dsimp only
  split
  · exact hm
  · exact memoryForm_updDie _ _ hm

theorem memoryForm_writeSram {s : State} (c a : Nat) (b : List Byte) (h : memoryForm s = true) :
    memoryForm (s.writeSram c a b) = true :=
  memoryForm_setCore c _ h (Memory.wf_writeBytes _ _ (memoryForm_core c h))

theorem memoryForm_wipeDev {s : State} (die pa n : Nat) (h : memoryForm s = true) : memoryForm (wipeDev s die pa n) = true :=
  memoryForm_updDie _ _ (memoryForm_setMem _ h (Memory.wf_filter _ ((memoryForm_iff s).mp h).1))

theorem memoryForm_takePages {s : State} (core base n part : Nat) (h : memoryForm s = true) :
    memoryForm (takePages s core base n part) = true := by
  have hd : memoryForm s.draw = true := memoryForm_congr rfl rfl h
  exact memoryForm_setCore core _ hd (Tab.wf_foldl_set' (fun e : Nat × Nat => e.1)
    (fun (e : Nat × Nat) t => if e.2 = part + 1 then Config.oldByte s.fresh e.1 (Tab.get t e.1 0) else 0) _ (memoryForm_core core hd))

/-- Writing words one after another keeps the form of a byte store. -/
theorem Memory.wf_foldl_writeBytes (l : List (Nat × List Byte)) {m : List Host.Cell} (h : Memory.wf m = true) :
    Memory.wf (l.foldl (fun m e => writeBytes m (32 * e.1) e.2) m) = true := by
  induction l generalizing m with
  | nil => exact h
  | cons e r ih => exact ih (Memory.wf_writeBytes _ _ h)

theorem memoryForm_lastReached {s : State} (h : memoryForm s = true) : memoryForm (lastReached s) = true :=
  (memoryForm_iff _).mpr ⟨Memory.wf_foldl_writeBytes _ ((memoryForm_iff s).mp h).1, ((memoryForm_iff s).mp h).2⟩

theorem memoryForm_takeFrames {s : State} (die f n : Nat) (h : memoryForm s = true) : memoryForm (takeFrames s die f n) = true :=
  memoryForm_congr rfl rfl h

theorem memoryForm_freeFrames {s : State} (die f n : Nat) (h : memoryForm s = true) : memoryForm (freeFrames s die f n) = true :=
  memoryForm_congr rfl rfl h

theorem memoryForm_setPage {s : State} (oid n : Nat) (e : Page) (h : memoryForm s = true) : memoryForm (s.setPage oid n e) = true := by
  unfold State.setPage
  split
  · exact memoryForm_congr rfl rfl h
  · exact h

theorem memoryForm_foldl {α : Type} (f : State → α → State) (hf : ∀ s x, memoryForm s = true → memoryForm (f s x) = true)
    (l : List α) {s : State} (h : memoryForm s = true) : memoryForm (l.foldl f s) = true := by
  induction l generalizing s with
  | nil => exact h
  | cons x r ih => exact ih (hf s x h)

/-- The form holds at reset, which lists nothing. -/
theorem memoryForm_reset : memoryForm State.reset = true := rfl

theorem memoryForm_placeWord {s : State} (w : Nat) (h : memoryForm s = true) : memoryForm (placeWord s w) = true := by
  have hm := memoryForm_setMem _ h (Memory.wf_writeBytes (devKey 0 0) (wordBytes (bundleOf w)) ((memoryForm_iff s).mp h).1)
  exact memoryForm_setCtx _ _ _ (memoryForm_congr rfl rfl hm)

end Sys2Proof.Machine
end

