-- ==== Sys2Proof/Laws/MemoryForm.lean ====
section
/-!
SUPPORT. Sys2Proof/Laws/MemoryForm.lean: events, cache operations and page moves keep the canonical form of byte
stores.
-/
namespace Sys2Proof.Machine

/-! ## Events and log entries: they write no byte -/

theorem evWrite_mem (s : State) (fn : Fn) (q : EvQ) (e : Nat) :
    (evWrite s fn q e).1.mem = s.mem ∧ (evWrite s fn q e).1.cores = s.cores ∧ (evWrite s fn q e).1.cur = s.cur := by
  unfold evWrite
  dsimp only
  split <;> exact ⟨rfl, rfl, rfl⟩

theorem evPost_mem (s : State) (fn : Fn) (q : EvQ) (e : Nat) :
    (evPost s fn q e).1.mem = s.mem ∧ (evPost s fn q e).1.cores = s.cores ∧ (evPost s fn q e).1.cur = s.cur := by
  unfold evPost
  split
  · exact ⟨rfl, rfl, rfl⟩
  split
  · exact ⟨rfl, rfl, rfl⟩
  split
  · exact evWrite_mem s fn q e
  have h := evWrite_mem s fn { q with dropped := 0 } (evEntry 0x77 0x3F 0x1FF 0 s.now 0 q.dropped)
  dsimp only
  split
  · exact h
  · have k := evWrite_mem (evWrite s fn { q with dropped := 0 } (evEntry 0x77 0x3F 0x1FF 0 s.now 0 q.dropped)).1 fn
      (evWrite s fn { q with dropped := 0 } (evEntry 0x77 0x3F 0x1FF 0 s.now 0 q.dropped)).2 e
    exact ⟨k.1.trans h.1, k.2.1.trans h.2.1, k.2.2.trans h.2.2⟩

theorem postE_mem (s : State) (p code island core die handle arg : Nat) :
    (s.postE p code island core die handle arg).mem = s.mem ∧ (s.postE p code island core die handle arg).cores = s.cores ∧
      (s.postE p code island core die handle arg).cur = s.cur :=
  evPost_mem s (.vf p) (s.part p).evq (evEntry code island core die s.now handle arg)

theorem postF_mem (s : State) (code island core die handle arg : Nat) :
    (s.postF code island core die handle arg).mem = s.mem ∧ (s.postF code island core die handle arg).cores = s.cores ∧
      (s.postF code island core die handle arg).cur = s.cur :=
  evPost_mem s .pf s.evq (evEntry code island core die s.now handle arg)

theorem logErr_mem (s : State) (die code : Nat) (corr : Bool) (store : Nat) (part core : Option Nat) (addr : Nat) :
    (s.logErr die code corr store part core addr).mem = s.mem ∧ (s.logErr die code corr store part core addr).cores = s.cores ∧
      (s.logErr die code corr store part core addr).cur = s.cur := by
  unfold State.logErr
  dsimp only
  repeat' split
  all_goals first
    | exact ⟨rfl, rfl, rfl⟩
    | exact postF_mem _ _ _ _ _ _ _

theorem memoryForm_postE {s : State} (p code island core die handle arg : Nat) (h : memoryForm s = true) :
    memoryForm (s.postE p code island core die handle arg) = true :=
  memoryForm_congr (postE_mem s p code island core die handle arg).1 (postE_mem s p code island core die handle arg).2.1 h

theorem memoryForm_postF {s : State} (code island core die handle arg : Nat) (h : memoryForm s = true) :
    memoryForm (s.postF code island core die handle arg) = true :=
  memoryForm_congr (postF_mem s code island core die handle arg).1 (postF_mem s code island core die handle arg).2.1 h

theorem memoryForm_logErr {s : State} (die code : Nat) (corr : Bool) (store : Nat) (part core : Option Nat) (addr : Nat)
    (h : memoryForm s = true) : memoryForm (s.logErr die code corr store part core addr) = true :=
  memoryForm_congr (logErr_mem s die code corr store part core addr).1 (logErr_mem s die code corr store part core addr).2.1 h

/-! ## Caches: they hold no byte of memory, so what moves words among them leaves every byte -/

/-- Every byte of memory and scratchpad stays, and so does the form of their stores. -/
structure Still (s t : State) : Prop where
  form : memoryForm s = true → memoryForm t = true
  mem : t.mem = s.mem
  sram : ∀ c, (t.core c).sram = (s.core c).sram
  cur : t.cur = s.cur

theorem Still.refl (s : State) : Still s s := ⟨id, rfl, fun _ => rfl, rfl⟩

theorem Still.trans {s t u : State} (h : Still s t) (k : Still t u) : Still s u :=
  ⟨fun x => k.form (h.form x), k.mem.trans h.mem, fun c => (k.sram c).trans (h.sram c), k.cur.trans h.cur⟩

theorem Still.congr {s t : State} (hm : t.mem = s.mem) (hc : t.cores = s.cores) (hu : t.cur = s.cur) : Still s t :=
  ⟨memoryForm_congr hm hc, hm, fun c => by simp only [State.core, hc], hu⟩

theorem Still.updDie (s : State) (d : Nat) (f : Die → Die) : Still s (s.updDie d f) := Still.congr rfl rfl rfl

theorem Still.updIsland (s : State) (i : Nat) (f : Island → Island) : Still s (s.updIsland i f) := Still.congr rfl rfl rfl

theorem Still.updCore (s : State) (c : Nat) (f : Core → Core) (hf : (f (s.core c)).sram = (s.core c).sram) :
    Still s (s.updCore c f) := by
  refine ⟨fun h => memoryForm_updCore c f h hf, rfl, fun d => ?_, rfl⟩
  by_cases hd : d = c
  · subst hd; rw [State.core_updCore, hf]
  · rw [State.core_updCore_other _ _ _ _ hd]

theorem Still.updCtx (s : State) (c i : Nat) (f : Ctx → Ctx) : Still s (s.updCtx c i f) := by
  unfold State.updCtx State.setCtx
  exact Still.updCore _ _ _ rfl

theorem Still.foldl {α : Type} (f : State → α → State) (hf : ∀ s x, Still s (f s x)) (l : List α) (s : State) :
    Still s (l.foldl f s) := by
  induction l generalizing s with
  | nil => exact Still.refl s
  | cons x r ih => exact (hf s x).trans (ih _)

theorem Still.setTimes (s : State) (die w : Nat) (v : Nat × Nat × Nat) : Still s (s.setTimes die w v) := Still.updDie _ _ _

theorem Still.postE (s : State) (p code island core die handle arg : Nat) : Still s (s.postE p code island core die handle arg) :=
  Still.congr (postE_mem ..).1 (postE_mem ..).2.1 (postE_mem ..).2.2

theorem Still.postF (s : State) (code island core die handle arg : Nat) : Still s (s.postF code island core die handle arg) :=
  Still.congr (postF_mem ..).1 (postF_mem ..).2.1 (postF_mem ..).2.2

theorem Still.logErr (s : State) (die code : Nat) (corr : Bool) (store : Nat) (part core : Option Nat) (addr : Nat) :
    Still s (s.logErr die code corr store part core addr) := Still.congr (logErr_mem ..).1 (logErr_mem ..).2.1 (logErr_mem ..).2.2

theorem Still.meterBytes (s : State) (core n : Nat) : Still s (meterBytes s core n) := Still.updIsland _ _ _

theorem Still.meterCtx (s : State) (core slot n : Nat) : Still s (meterCtx s core slot n) := Still.updCtx _ _ _ _

theorem Still.meterDram (s : State) (core slot n : Nat) : Still s (meterDram s core slot n) :=
  (Still.meterCtx s core slot n).trans (Still.meterBytes _ _ _)

theorem Still.meterFor (s : State) (core slot team n : Nat) : Still s (meterFor s core slot team n) := by
  refine Still.trans ?_ (Still.meterBytes _ _ _)
  split
  · exact Still.meterCtx _ _ _ _
  · exact Still.refl s

theorem Still.l2Clean (s : State) (die : Nat) (b : Block) : Still s (l2Clean s die b) := by
  unfold Machine.l2Clean
  dsimp only
  split
  · exact Still.refl s
  · split
    · exact Still.congr rfl rfl rfl
    · refine Still.trans ?_ (Still.meterFor _ _ _ _ _)
      exact Still.congr rfl rfl rfl

theorem Still.l2Put (s : State) (die : Nat) (b : Block) : Still s (l2Put s die b) :=
  (Still.updDie s _ _).trans (Still.foldl _ (fun s x => Still.l2Clean s die x) _ _)

theorem Still.l2Use (s : State) (die frame a b : Nat) : Still s (l2Use s die frame a b).1 := by
  unfold Machine.l2Use
  dsimp only
  split
  · exact Still.congr rfl rfl rfl
  · exact Still.l2Put _ _ _

theorem Still.noteL2 (s : State) (die w : Nat) : Still s (noteL2 s die w) := by
  unfold Machine.noteL2
  split
  · exact Still.congr rfl rfl rfl
  · exact Still.refl s

theorem Still.l2Dirty (s : State) (die w : Nat) (who : Option (Nat × Nat × Nat)) : Still s (l2Dirty s die w who) :=
  (Still.noteL2 _ _ _).trans (Still.l2Put _ _ _)

theorem Still.l2Host (s : State) (die pa n : Nat) (wr : Bool) : Still s (l2Host s die pa n wr) := by
  refine Still.foldl _ (fun s w => ?_) _ _
  dsimp only
  split
  · exact (Still.l2Use _ _ _ _ _).trans (Still.l2Dirty _ _ _ _)
  · exact Still.l2Use _ _ _ _ _

theorem Still.logHomeBad (s : State) (die pa n : Nat) : Still s (logHomeBad s die pa n) :=
  Still.foldl _ (fun s _ => Still.logErr s _ _ _ _ _ _ _) _ _

theorem Still.giveBack (s : State) (b : Block) (h : Nat) : Still s (giveBack s b h) := by
  unfold Machine.giveBack
  split
  · exact Still.foldl _ (fun s _ => Still.setTimes s _ _ _) _ _
  · exact Still.refl s

theorem Still.spoilWord (s : State) (die w : Nat) : Still s (spoilWord s die w) := Still.updDie _ _ _

theorem Still.spoilL2 (s : State) (die w : Nat) : Still s (spoilL2 s die w) := (Still.spoilWord s die w).trans (Still.updDie _ _ _)

theorem Still.settleOld (s : State) (core : Nat) (b : Block) (w : Nat) : Still s (settleOld s core b w) := by
  refine Still.congr ?_ ?_ ?_ <;> (unfold Machine.settleOld; dsimp only; split <;> rfl)

theorem Still.spoilHome (s : State) (core part die w : Nat) : Still s (spoilHome s core part die w) := by
  unfold Machine.spoilHome
  exact (Still.updCore s _ _ rfl).trans ((Still.spoilL2 _ _ _).trans ((Still.logErr _ _ _ _ _ _ _ _).trans (Still.postE _ _ _ _ _ _ _ _)))

theorem Still.writeHome (s : State) (core : Nat) (b : Block) : Still s (writeHome s core b) := by
  unfold Machine.writeHome
  dsimp only
  split
  · exact Still.refl s
  · have h := Still.foldl (fun s w => Machine.settleOld s core b w) (fun s w => Still.settleOld s core b w) b.dirtyWords s
    generalize List.foldl (fun s w => Machine.settleOld s core b w) s b.dirtyWords = t at h ⊢
    refine h.trans (Still.trans ?_ ((Still.foldl _ (fun s w => ?_) _ _).trans (Still.l2Put _ _ _)))
    · split
      · exact Still.refl t
      · exact Still.updDie _ _ _
    · split
      · exact Still.spoilHome _ _ _ _ _
      · exact Still.refl s

theorem Still.freeHolder (s : State) (core : Nat) (b : Block) : Still s (freeHolder s core b) := by
  refine Still.foldl _ (fun s w => ?_) _ _
  dsimp only
  split
  · exact Still.setTimes _ _ _ _
  · exact Still.refl s

theorem Still.grantOldest (s : State) (core : Nat) : Still s (grantOldest s core) := by
  unfold Machine.grantOldest
  split
  · exact Still.refl s
  · exact (Still.updCore s _ _ rfl).trans ((Still.freeHolder _ _ _).trans (Still.writeHome _ _ _))

theorem Still.drainVictim (s : State) (core : Nat) : Still s (drainVictim s core) :=
  Still.foldl _ (fun s _ => Still.grantOldest s core) _ _

theorem Still.noteFoot (s : State) (core : Nat) (b : Block) : Still s (noteFoot s core b) := by
  unfold Machine.noteFoot
  split
  · exact Still.refl s
  · exact Still.updCore _ _ _ rfl

theorem Still.toVictim (s : State) (core : Nat) (b : Block) : Still s (toVictim s core b) := by
  unfold Machine.toVictim
  refine Still.trans ?_ (Still.updCore _ _ _ rfl)
  split
  · exact Still.grantOldest _ _
  · exact Still.refl s

theorem Still.evict (s : State) (core : Nat) (b : Block) : Still s (evict s core b) := by
  unfold Machine.evict
  have h := (Still.giveBack s b (core + 1)).trans (Still.noteFoot _ core b)
  dsimp only
  split
  · exact h
  · exact h.trans (Still.toVictim _ _ _)

theorem Still.dropL1 (s : State) (core : Nat) (f : Block → Bool) : Still s (dropL1 s core f) :=
  (Still.updCore s _ _ rfl).trans (Still.foldl _ (fun s b => Still.evict s core b) _ _)

theorem Still.emptyL1 (s : State) (core : Nat) : Still s (emptyL1 s core) := (Still.dropL1 s core _).trans (Still.drainVictim _ core)

theorem Still.recallFrom (s : State) (c die w : Nat) : Still s (recallFrom s c die w) := by
  unfold Machine.recallFrom
  exact (Still.updCore s _ _ rfl).trans ((Still.foldl _ (fun s b => (Still.giveBack s b 0).trans ((Still.noteFoot _ c b).trans (Still.writeHome _ c b))) _ _).trans
    (Still.foldl _ (fun s b => (Still.freeHolder s c b).trans (Still.writeHome _ c b)) _ _))

theorem Still.recallWord (s : State) (die w : Nat) : Still s (recallWord s die w) := by
  unfold Machine.recallWord
  dsimp only
  split
  · exact Still.refl s
  · exact Still.recallFrom _ _ _ _

theorem Still.recallWords (s : State) (die : Nat) (ws : List Nat) : Still s (recallWords s die ws) :=
  Still.foldl _ (fun s w => Still.recallWord s die w) _ _

theorem Still.setBlock (s : State) (die : Nat) (b : List Nat) (wt le : Nat) : Still s (setBlock s die b wt le) :=
  Still.foldl _ (fun s w => Still.setTimes s die w _) _ _

theorem Still.homeReads (s : State) (die : Nat) (ws : List Nat) (t ext : Nat) : Still s (homeReads s die ws t ext).1 :=
  (Still.recallWords s die ws).trans (Still.foldl _ (fun s b => Still.setBlock s die b _ _) _ _)

theorem Still.homeWrites (s : State) (die : Nat) (ws : List Nat) (t : Nat) : Still s (homeWrites s die ws t).1 :=
  (Still.recallWords s die ws).trans (Still.foldl _ (fun s b => Still.setBlock s die b _ _) _ _)

theorem Still.flushL1 (s : State) (c : Nat) (f : Block → Bool) (drop : Bool) : Still s (flushL1 s c f drop) := by
  unfold Machine.flushL1
  split
  · split
    · exact Still.dropL1 _ _ _
    · exact (Still.updCore s _ _ rfl).trans (Still.foldl _ (fun s b => Still.toVictim s c b) _ _)
  · exact Still.refl s

theorem Still.flushVictim (s : State) (c : Nat) (f : Block → Bool) : Still s (flushVictim s c f) := by
  unfold Machine.flushVictim
  split
  · exact (Still.updCore s _ _ rfl).trans (Still.foldl _ (fun s b => (Still.freeHolder s c b).trans (Still.writeHome _ c b)) _ _)
  · exact Still.refl s

theorem Still.flushRange (s : State) (die pa n : Nat) (drop : Bool) : Still s (flushRange s die pa n drop) := by
  have h := Still.foldl (fun s c => Machine.flushVictim (Machine.flushL1 s c (Block.within die pa n) drop) c (Block.within die pa n))
    (fun s c => (Still.flushL1 s c _ drop).trans (Still.flushVictim _ c _)) (List.range 256) s
  unfold Machine.flushRange
  dsimp only
  generalize List.foldl _ s (List.range 256) = t at h ⊢
  exact h.trans ((Still.foldl _ (fun s b => Still.l2Clean s die b) _ t).trans (Still.updDie _ _ _))

theorem Still.freshTimes (s : State) (die pa n t : Nat) : Still s (freshTimes s die pa n t) := by
  unfold Machine.freshTimes
  dsimp only
  split
  · exact Still.updDie _ _ _
  · exact (Still.updDie s _ _).trans (Still.foldl _ (fun s w => Still.setTimes s die w (t, t, 0)) _ _)

theorem Still.countFill (s : State) (part oid page reqDie : Nat) : Still s (countFill s part oid page reqDie) := by
  unfold Machine.countFill
  split
  · exact Still.refl s
  dsimp only
  split
  · exact Still.refl s
  split
  · exact Still.congr rfl rfl rfl
  split
  · exact Still.congr rfl rfl rfl
  split
  · exact Still.congr rfl rfl rfl
  · exact ((Still.congr rfl rfl rfl : Still s (s.setObj oid _)).trans (Still.updDie _ _ _)).trans (Still.postF _ _ _ _ _ _ _)

theorem Still.l2Touch (s : State) (core slot oid page die frame a b : Nat) : Still s (l2Touch s core slot oid page die frame a b) := by
  unfold Machine.l2Touch
  dsimp only
  split
  · exact Still.l2Use _ _ _ _ _
  · exact (Still.l2Use _ _ _ _ _).trans ((Still.meterDram _ _ _ _).trans (Still.countFill _ _ _ _ _))

theorem Still.l2TouchFor (s : State) (core slot team oid page die frame a b : Nat) :
    Still s (l2TouchFor s core slot team oid page die frame a b) := by
  unfold Machine.l2TouchFor
  dsimp only
  split
  · exact Still.l2Use _ _ _ _ _
  · exact (Still.l2Use _ _ _ _ _).trans ((Still.meterFor _ _ _ _ _).trans (Still.countFill _ _ _ _ _))

/-! ## The fetch of code -/

theorem Still.uncorr (s : State) (die store addr part core arg : Nat) : Still s (s.uncorr die store addr part core arg) :=
  (Still.logErr _ _ _ _ _ _ _ _).trans (Still.postE _ _ _ _ _ _ _ _)

theorem Still.codeError (s : State) (core slot die w o : Nat) : Still s (codeError s core slot die w o) := by
  unfold Machine.codeError
  dsimp only
  split
  · exact Still.refl s
  · exact (Still.uncorr _ _ _ _ _ _ _).trans ((Still.updCore _ _ _ rfl).trans (Still.updCtx _ _ _ _))

theorem Still.fillCode (s : State) (core slot oid page die w o : Nat) : Still s (fillCode s core slot oid page die w o) := by
  unfold Machine.fillCode
  dsimp only
  split
  · exact Still.updCore _ _ _ rfl
  split
  · exact Still.codeError _ _ _ _ _ _
  · exact (Still.l2Touch _ _ _ _ _ _ _ _ _).trans (Still.updCore _ _ _ rfl)

theorem Still.fetchCode (s : State) (core slot : Nat) : Still s (fetchCode s core slot) := by
  unfold Machine.fetchCode
  dsimp only
  split
  · exact Still.refl s
  split
  · exact Still.refl s
  · refine Still.foldl _ (fun s j => ?_) _ _
    split
    · exact Still.fillCode _ _ _ _ _ _ _ _
    · exact Still.refl s

/-- A core takes up a bundle without a change of any byte of memory or scratchpad. -/
theorem fetched_mem (s : State) (core : Nat) : (fetched s core).mem = s.mem :=
  (Still.fetchCode _ core (s.core core).cur).mem

theorem fetched_cur (s : State) (core : Nat) : (fetched s core).cur = (core, (s.core core).cur) :=
  (Still.fetchCode _ core (s.core core).cur).cur

/-! ## Combination of partials: it writes bytes -/

theorem memoryForm_foldPartial {s : State} (core : Nat) (e : Partial) (h : memoryForm s = true) :
    memoryForm (foldPartial s core e) = true := by
  unfold foldPartial
  dsimp only
  exact memoryForm_writeDev _ _ _ ((Still.l2Dirty _ _ _ _).form ((Still.l2TouchFor _ _ _ _ _ _ _ _ _ _).form h))

theorem Still.foldBad (s : State) (core : Nat) (e : Partial) : Still s (foldBad s core e) := by
  unfold Machine.foldBad
  dsimp only
  exact (Still.l2Dirty _ _ _ _).trans ((Still.spoilL2 _ _ _).trans (Still.logErr _ _ _ _ _ _ _ _))

theorem memoryForm_combine {s : State} (die a n : Nat) (h : memoryForm s = true) : memoryForm (combine s die a n) = true := by
  unfold combine
  dsimp only
  refine memoryForm_updDie _ _ (memoryForm_foldl _ (fun s c hs => memoryForm_updCore _ _ hs rfl) _
    (memoryForm_foldl _ (fun s x hs => memoryForm_foldl _ (fun s e ht => (Still.foldBad _ _ _).form ht) _ hs) _
      (memoryForm_foldl _ (fun s x hs => memoryForm_foldl _ (fun s e ht => memoryForm_foldPartial _ _ ht) _ hs) _ ?_)))
  split
  · exact h
  · exact (Still.recallWords _ _ _).form h

theorem memoryForm_combineFor {s : State} (die pa n : Nat) (h : memoryForm s = true) : memoryForm (combineFor s die pa n) = true :=
  memoryForm_foldl _ (fun _ _ hs => memoryForm_combine _ _ _ hs) _ h

theorem memoryForm_dropPage {s : State} (die pa n t : Nat) (h : memoryForm s = true) : memoryForm (dropPage s die pa n t) = true := by
  unfold dropPage
  dsimp only
  refine (Still.freshTimes _ _ _ _ _).form ((Still.foldl _ (fun s c => ?_) _ _).form ((Still.flushRange _ _ _ _ _).form (memoryForm_combineFor die pa n h)))
  split
  · exact Still.updCore _ _ _ rfl
  · exact Still.refl s

theorem memoryForm_settlePage {s : State} (p die frame psz : Nat) (h : memoryForm s = true) :
    memoryForm (settlePage s p die frame psz) = true :=
  memoryForm_dropPage _ _ _ _ h

/-! ## Accesses and pages -/

theorem memoryForm_putAt {s : State} (pl : Place) (n v : Nat) (h : memoryForm s = true) : memoryForm (s.putAt pl n v) = true := by
  cases pl with
  | sram t a => exact memoryForm_writeSram _ _ _ h
  | dev d pa => exact memoryForm_writeDev _ _ _ h
  | host a _ => exact h

theorem memoryForm_movePage {s t : State} (oid n dst : Nat) (h : memoryForm s = true) (ht : movePage s oid n dst = some t) :
    memoryForm t = true := by
  unfold movePage at ht
  split at ht
  · cases ht
  next o ho =>
    dsimp only at ht
    split at ht
    · cases ht
    next f hf =>
      cases ht
      have h2 := memoryForm_wipeDev (o.pages.get n {}).die ((o.pages.get n {}).frame * 4096) (pageBytes o.psz)
        (memoryForm_wipeDev dst (f * 4096) (pageBytes o.psz) (memoryForm_takeFrames dst f (pageFrames o.psz)
          (memoryForm_settlePage o.part (o.pages.get n {}).die (o.pages.get n {}).frame o.psz h)))
      have h3 := fun l => memoryForm_setMem _ h2 (Tab.wf_foldl_set (d := (0 : Byte))
        (fun c : Host.Cell => c.1 - devKey (o.pages.get n {}).die ((o.pages.get n {}).frame * 4096) + devKey dst (f * 4096)) (fun c => c.2) l ((memoryForm_iff _).mp h2).1)
      exact memoryForm_setPage _ _ _ ((Still.freshTimes _ _ _ _ _).form (memoryForm_freeFrames _ _ _
        (memoryForm_foldl _ (fun _ _ hs => memoryForm_logErr _ _ _ _ _ _ _ hs) _ (memoryForm_updDie _ _ (h3 _)))))

theorem memoryForm_placePage {s t : State} (oid n : Nat) (data : List Byte) (bad : List Nat) (h : memoryForm s = true)
    (ht : placePage s oid n data bad = some t) : memoryForm t = true := by
  unfold placePage at ht
  split at ht
  · cases ht
  next o ho =>
    dsimp only at ht
    split at ht
    · cases ht
    next f hf =>
      cases ht
      refine memoryForm_setPage _ _ _ (memoryForm_updDie _ _ ?_)
      have h2 := memoryForm_dropPage o.home (f * 4096) (pageBytes o.psz) ((wipeDev (takeFrames s o.home f (pageFrames o.psz)) o.home (f * 4096) (pageBytes o.psz)).part o.part).ptime
        (memoryForm_wipeDev o.home (f * 4096) (pageBytes o.psz) (memoryForm_takeFrames o.home f (pageFrames o.psz) h))
      exact memoryForm_setMem _ h2 (Memory.wf_writeBytes _ _ ((memoryForm_iff _).mp h2).1)

theorem memoryForm_pageOut {s : State} (oid n : Nat) (h : memoryForm s = true) : memoryForm (pageOut s oid n) = true := by
  unfold pageOut
  split
  · exact h
  next o ho =>
    dsimp only
    exact memoryForm_congr rfl rfl (memoryForm_setPage _ _ _ (memoryForm_freeFrames _ _ _ (memoryForm_wipeDev _ _ _
      (memoryForm_foldl _ (fun _ _ hs => memoryForm_logErr _ _ _ _ _ _ _ hs) _ (memoryForm_congr rfl rfl (memoryForm_settlePage _ _ _ _ h))))))

end Sys2Proof.Machine
end

