-- ==== Sys2Proof/Laws/Passed.lean ====
section
/-!
SUPPORT. Sys2Proof/Laws/Passed.lean: what an own issue leaves of the context it finds.
-/
namespace Sys2Proof.Machine

theorem tickFmt_other (a : Arch) (sup : Bool) : a.tickFmt sup = { a with pend := (a.tickFmt sup).pend } := rfl

/-- The context after `passed` is the one before it, but for counts, pending writes, claims, tags and remembered
operations. -/
theorem passed_eq (h : Head) (i : Instr) (al : Bool) (tl : List Nat) (c : Ctx) :
    passed h i al tl c =
      { c with iss := c.iss + 1, burst := c.burst + 1, held := 0, issIval := c.issIval + 1, time := (passed h i al tl c).time,
               srem := (passed h i al tl c).srem,
               a := { c.a with pend := (passed h i al tl c).a.pend, claims := (passed h i al tl c).a.claims,
                               tg := (passed h i al tl c).a.tg, rem := (passed h i al tl c).a.rem } } := by
  unfold passed observe Ctx.tick Ctx.allocTag Ctx.setRem Arch.tickFmt Arch.tickClaims
  cases hs : c.sup <;> cases al <;> by_cases ht : h.atag = 0 <;> by_cases h3 : h.slot = .S <;> simp [ht, h3]

@[simp] theorem passed_st (h : Head) (i : Instr) (al : Bool) (tl : List Nat) (c : Ctx) : (passed h i al tl c).st = c.st := by rw [passed_eq]
@[simp] theorem passed_wait (h : Head) (i : Instr) (al : Bool) (tl : List Nat) (c : Ctx) : (passed h i al tl c).wait = c.wait := by rw [passed_eq]
@[simp] theorem passed_sup (h : Head) (i : Instr) (al : Bool) (tl : List Nat) (c : Ctx) : (passed h i al tl c).sup = c.sup := by rw [passed_eq]
@[simp] theorem passed_spc (h : Head) (i : Instr) (al : Bool) (tl : List Nat) (c : Ctx) : (passed h i al tl c).spc = c.spc := by rw [passed_eq]
@[simp] theorem passed_sreps (h : Head) (i : Instr) (al : Bool) (tl : List Nat) (c : Ctx) : (passed h i al tl c).sreps = c.sreps := by rw [passed_eq]
@[simp] theorem passed_slv (h : Head) (i : Instr) (al : Bool) (tl : List Nat) (c : Ctx) : (passed h i al tl c).slv = c.slv := by rw [passed_eq]
@[simp] theorem passed_bankK (h : Head) (i : Instr) (al : Bool) (tl : List Nat) (c : Ctx) : (passed h i al tl c).bankK = c.bankK := by rw [passed_eq]
@[simp] theorem passed_bankS (h : Head) (i : Instr) (al : Bool) (tl : List Nat) (c : Ctx) : (passed h i al tl c).bankS = c.bankS := by rw [passed_eq]
@[simp] theorem passed_supOid (h : Head) (i : Instr) (al : Bool) (tl : List Nat) (c : Ctx) : (passed h i al tl c).supOid = c.supOid := by rw [passed_eq]
@[simp] theorem passed_vec (h : Head) (i : Instr) (al : Bool) (tl : List Nat) (c : Ctx) : (passed h i al tl c).vec = c.vec := by rw [passed_eq]
@[simp] theorem passed_ypend (h : Head) (i : Instr) (al : Bool) (tl : List Nat) (c : Ctx) : (passed h i al tl c).ypend = c.ypend := by rw [passed_eq]
@[simp] theorem passed_cause (h : Head) (i : Instr) (al : Bool) (tl : List Nat) (c : Ctx) : (passed h i al tl c).cause = c.cause := by rw [passed_eq]
@[simp] theorem passed_epc (h : Head) (i : Instr) (al : Bool) (tl : List Nat) (c : Ctx) : (passed h i al tl c).epc = c.epc := by rw [passed_eq]
@[simp] theorem passed_tval (h : Head) (i : Instr) (al : Bool) (tl : List Nat) (c : Ctx) : (passed h i al tl c).tval = c.tval := by rw [passed_eq]
@[simp] theorem passed_tinst (h : Head) (i : Instr) (al : Bool) (tl : List Nat) (c : Ctx) : (passed h i al tl c).tinst = c.tinst := by rw [passed_eq]
@[simp] theorem passed_isel (h : Head) (i : Instr) (al : Bool) (tl : List Nat) (c : Ctx) : (passed h i al tl c).isel = c.isel := by rw [passed_eq]
@[simp] theorem passed_x0 (h : Head) (i : Instr) (al : Bool) (tl : List Nat) (c : Ctx) : (passed h i al tl c).x0 = c.x0 := by rw [passed_eq]
@[simp] theorem passed_y0 (h : Head) (i : Instr) (al : Bool) (tl : List Nat) (c : Ctx) : (passed h i al tl c).y0 = c.y0 := by rw [passed_eq]
@[simp] theorem passed_ea (h : Head) (i : Instr) (al : Bool) (tl : List Nat) (c : Ctx) : (passed h i al tl c).ea = c.ea := by rw [passed_eq]
@[simp] theorem passed_eb (h : Head) (i : Instr) (al : Bool) (tl : List Nat) (c : Ctx) : (passed h i al tl c).eb = c.eb := by rw [passed_eq]
@[simp] theorem passed_tidx (h : Head) (i : Instr) (al : Bool) (tl : List Nat) (c : Ctx) : (passed h i al tl c).tidx = c.tidx := by rw [passed_eq]
@[simp] theorem passed_part (h : Head) (i : Instr) (al : Bool) (tl : List Nat) (c : Ctx) : (passed h i al tl c).part = c.part := by rw [passed_eq]
@[simp] theorem passed_prio (h : Head) (i : Instr) (al : Bool) (tl : List Nat) (c : Ctx) : (passed h i al tl c).prio = c.prio := by rw [passed_eq]
@[simp] theorem passed_extbase (h : Head) (i : Instr) (al : Bool) (tl : List Nat) (c : Ctx) : (passed h i al tl c).extbase = c.extbase := by rw [passed_eq]
@[simp] theorem passed_extent (h : Head) (i : Instr) (al : Bool) (tl : List Nat) (c : Ctx) : (passed h i al tl c).extent = c.extent := by rw [passed_eq]
@[simp] theorem passed_nacc (h : Head) (i : Instr) (al : Bool) (tl : List Nat) (c : Ctx) : (passed h i al tl c).nacc = c.nacc := by rw [passed_eq]
@[simp] theorem passed_team (h : Head) (i : Instr) (al : Bool) (tl : List Nat) (c : Ctx) : (passed h i al tl c).team = c.team := by rw [passed_eq]
@[simp] theorem passed_oid (h : Head) (i : Instr) (al : Bool) (tl : List Nat) (c : Ctx) : (passed h i al tl c).oid = c.oid := by rw [passed_eq]
@[simp] theorem passed_last (h : Head) (i : Instr) (al : Bool) (tl : List Nat) (c : Ctx) : (passed h i al tl c).last = c.last := by rw [passed_eq]
@[simp] theorem passed_res (h : Head) (i : Instr) (al : Bool) (tl : List Nat) (c : Ctx) : (passed h i al tl c).res = c.res := by rw [passed_eq]
@[simp] theorem passed_accs (h : Head) (i : Instr) (al : Bool) (tl : List Nat) (c : Ctx) : (passed h i al tl c).accs = c.accs := by rw [passed_eq]
@[simp] theorem passed_faults (h : Head) (i : Instr) (al : Bool) (tl : List Nat) (c : Ctx) : (passed h i al tl c).faults = c.faults := by rw [passed_eq]
@[simp] theorem passed_acc (h : Head) (i : Instr) (al : Bool) (tl : List Nat) (c : Ctx) : (passed h i al tl c).acc = c.acc := by rw [passed_eq]
@[simp] theorem passed_pats (h : Head) (i : Instr) (al : Bool) (tl : List Nat) (c : Ctx) : (passed h i al tl c).pats = c.pats := by rw [passed_eq]
@[simp] theorem passed_patLoad (h : Head) (i : Instr) (al : Bool) (tl : List Nat) (c : Ctx) : (passed h i al tl c).patLoad = c.patLoad := by rw [passed_eq]
@[simp] theorem passed_q (h : Head) (i : Instr) (al : Bool) (tl : List Nat) (c : Ctx) : (passed h i al tl c).q = c.q := by rw [passed_eq]
@[simp] theorem passed_qres (h : Head) (i : Instr) (al : Bool) (tl : List Nat) (c : Ctx) : (passed h i al tl c).qres = c.qres := by rw [passed_eq]
@[simp] theorem passed_fixOpen (h : Head) (i : Instr) (al : Bool) (tl : List Nat) (c : Ctx) : (passed h i al tl c).fixOpen = c.fixOpen := by rw [passed_eq]
@[simp] theorem passed_fixCur (h : Head) (i : Instr) (al : Bool) (tl : List Nat) (c : Ctx) : (passed h i al tl c).fixCur = c.fixCur := by rw [passed_eq]
@[simp] theorem passed_sh0 (h : Head) (i : Instr) (al : Bool) (tl : List Nat) (c : Ctx) : (passed h i al tl c).sh0 = c.sh0 := by rw [passed_eq]
@[simp] theorem passed_sh1 (h : Head) (i : Instr) (al : Bool) (tl : List Nat) (c : Ctx) : (passed h i al tl c).sh1 = c.sh1 := by rw [passed_eq]
@[simp] theorem passed_win (h : Head) (i : Instr) (al : Bool) (tl : List Nat) (c : Ctx) : (passed h i al tl c).win = c.win := by rw [passed_eq]
@[simp] theorem passed_nfog (h : Head) (i : Instr) (al : Bool) (tl : List Nat) (c : Ctx) : (passed h i al tl c).nfog = c.nfog := by rw [passed_eq]
@[simp] theorem passed_gatedItems (h : Head) (i : Instr) (al : Bool) (tl : List Nat) (c : Ctx) : (passed h i al tl c).gatedItems = c.gatedItems := by rw [passed_eq]
@[simp] theorem passed_recClaims (h : Head) (i : Instr) (al : Bool) (tl : List Nat) (c : Ctx) : (passed h i al tl c).recClaims = c.recClaims := by rw [passed_eq]
@[simp] theorem passed_recMsgs (h : Head) (i : Instr) (al : Bool) (tl : List Nat) (c : Ctx) : (passed h i al tl c).recMsgs = c.recMsgs := by rw [passed_eq]
@[simp] theorem passed_playClaims (h : Head) (i : Instr) (al : Bool) (tl : List Nat) (c : Ctx) : (passed h i al tl c).playClaims = c.playClaims := by rw [passed_eq]
@[simp] theorem passed_playMsgs (h : Head) (i : Instr) (al : Bool) (tl : List Nat) (c : Ctx) : (passed h i al tl c).playMsgs = c.playMsgs := by rw [passed_eq]
@[simp] theorem passed_fogRun (h : Head) (i : Instr) (al : Bool) (tl : List Nat) (c : Ctx) : (passed h i al tl c).fogRun = c.fogRun := by rw [passed_eq]
@[simp] theorem passed_fogMark (h : Head) (i : Instr) (al : Bool) (tl : List Nat) (c : Ctx) : (passed h i al tl c).fogMark = c.fogMark := by rw [passed_eq]
@[simp] theorem passed_fogSilent (h : Head) (i : Instr) (al : Bool) (tl : List Nat) (c : Ctx) : (passed h i al tl c).fogSilent = c.fogSilent := by rw [passed_eq]
@[simp] theorem passed_joule (h : Head) (i : Instr) (al : Bool) (tl : List Nat) (c : Ctx) : (passed h i al tl c).joule = c.joule := by rw [passed_eq]
@[simp] theorem passed_jouleRem (h : Head) (i : Instr) (al : Bool) (tl : List Nat) (c : Ctx) : (passed h i al tl c).jouleRem = c.jouleRem := by rw [passed_eq]
@[simp] theorem passed_cwear (h : Head) (i : Instr) (al : Bool) (tl : List Nat) (c : Ctx) : (passed h i al tl c).cwear = c.cwear := by rw [passed_eq]
@[simp] theorem passed_waitPc (h : Head) (i : Instr) (al : Bool) (tl : List Nat) (c : Ctx) : (passed h i al tl c).waitPc = c.waitPc := by rw [passed_eq]
@[simp] theorem passed_waitReps (h : Head) (i : Instr) (al : Bool) (tl : List Nat) (c : Ctx) : (passed h i al tl c).waitReps = c.waitReps := by rw [passed_eq]
@[simp] theorem passed_waitLv (h : Head) (i : Instr) (al : Bool) (tl : List Nat) (c : Ctx) : (passed h i al tl c).waitLv = c.waitLv := by rw [passed_eq]
@[simp] theorem passed_waitSeq (h : Head) (i : Instr) (al : Bool) (tl : List Nat) (c : Ctx) : (passed h i al tl c).waitSeq = c.waitSeq := by rw [passed_eq]
@[simp] theorem passed_markDue (h : Head) (i : Instr) (al : Bool) (tl : List Nat) (c : Ctx) : (passed h i al tl c).markDue = c.markDue := by rw [passed_eq]
@[simp] theorem passed_a_s (h : Head) (i : Instr) (al : Bool) (tl : List Nat) (c : Ctx) : (passed h i al tl c).a.s = c.a.s := by rw [passed_eq]
@[simp] theorem passed_a_p (h : Head) (i : Instr) (al : Bool) (tl : List Nat) (c : Ctx) : (passed h i al tl c).a.p = c.a.p := by rw [passed_eq]
@[simp] theorem passed_a_k (h : Head) (i : Instr) (al : Bool) (tl : List Nat) (c : Ctx) : (passed h i al tl c).a.k = c.a.k := by rw [passed_eq]
@[simp] theorem passed_a_h (h : Head) (i : Instr) (al : Bool) (tl : List Nat) (c : Ctx) : (passed h i al tl c).a.h = c.a.h := by rw [passed_eq]
@[simp] theorem passed_a_hnext (h : Head) (i : Instr) (al : Bool) (tl : List Nat) (c : Ctx) : (passed h i al tl c).a.hnext = c.a.hnext := by rw [passed_eq]
@[simp] theorem passed_a_lv (h : Head) (i : Instr) (al : Bool) (tl : List Nat) (c : Ctx) : (passed h i al tl c).a.lv = c.a.lv := by rw [passed_eq]
@[simp] theorem passed_a_reps (h : Head) (i : Instr) (al : Bool) (tl : List Nat) (c : Ctx) : (passed h i al tl c).a.reps = c.a.reps := by rw [passed_eq]
@[simp] theorem passed_a_pc (h : Head) (i : Instr) (al : Bool) (tl : List Nat) (c : Ctx) : (passed h i al tl c).a.pc = c.a.pc := by rw [passed_eq]
@[simp] theorem passed_a_stepC0 (h : Head) (i : Instr) (al : Bool) (tl : List Nat) (c : Ctx) : (passed h i al tl c).a.stepC0 = c.a.stepC0 := by rw [passed_eq]
@[simp] theorem passed_a_stepC1 (h : Head) (i : Instr) (al : Bool) (tl : List Nat) (c : Ctx) : (passed h i al tl c).a.stepC1 = c.a.stepC1 := by rw [passed_eq]
@[simp] theorem passed_a_fa (h : Head) (i : Instr) (al : Bool) (tl : List Nat) (c : Ctx) : (passed h i al tl c).a.fa = c.a.fa := by rw [passed_eq]
@[simp] theorem passed_a_fw (h : Head) (i : Instr) (al : Bool) (tl : List Nat) (c : Ctx) : (passed h i al tl c).a.fw = c.a.fw := by rw [passed_eq]
@[simp] theorem passed_a_fo (h : Head) (i : Instr) (al : Bool) (tl : List Nat) (c : Ctx) : (passed h i al tl c).a.fo = c.a.fo := by rw [passed_eq]
@[simp] theorem passed_a_fv (h : Head) (i : Instr) (al : Bool) (tl : List Nat) (c : Ctx) : (passed h i al tl c).a.fv = c.a.fv := by rw [passed_eq]
@[simp] theorem passed_a_fs (h : Head) (i : Instr) (al : Bool) (tl : List Nat) (c : Ctx) : (passed h i al tl c).a.fs = c.a.fs := by rw [passed_eq]
@[simp] theorem passed_a_rm (h : Head) (i : Instr) (al : Bool) (tl : List Nat) (c : Ctx) : (passed h i al tl c).a.rm = c.a.rm := by rw [passed_eq]
@[simp] theorem passed_a_seed (h : Head) (i : Instr) (al : Bool) (tl : List Nat) (c : Ctx) : (passed h i al tl c).a.seed = c.a.seed := by rw [passed_eq]
@[simp] theorem passed_a_draw (h : Head) (i : Instr) (al : Bool) (tl : List Nat) (c : Ctx) : (passed h i al tl c).a.draw = c.a.draw := by rw [passed_eq]
@[simp] theorem passed_a_cbsel (h : Head) (i : Instr) (al : Bool) (tl : List Nat) (c : Ctx) : (passed h i al tl c).a.cbsel = c.a.cbsel := by rw [passed_eq]
@[simp] theorem passed_a_cbA (h : Head) (i : Instr) (al : Bool) (tl : List Nat) (c : Ctx) : (passed h i al tl c).a.cbA = c.a.cbA := by rw [passed_eq]
@[simp] theorem passed_a_cbW (h : Head) (i : Instr) (al : Bool) (tl : List Nat) (c : Ctx) : (passed h i al tl c).a.cbW = c.a.cbW := by rw [passed_eq]
@[simp] theorem passed_a_role (h : Head) (i : Instr) (al : Bool) (tl : List Nat) (c : Ctx) : (passed h i al tl c).a.role = c.a.role := by rw [passed_eq]
@[simp] theorem passed_a_t (h : Head) (i : Instr) (al : Bool) (tl : List Nat) (c : Ctx) : (passed h i al tl c).a.t = c.a.t := by rw [passed_eq]
@[simp] theorem passed_a_st (h : Head) (i : Instr) (al : Bool) (tl : List Nat) (c : Ctx) : (passed h i al tl c).a.st = c.a.st := by rw [passed_eq]
@[simp] theorem passed_a_accFilling (h : Head) (i : Instr) (al : Bool) (tl : List Nat) (c : Ctx) : (passed h i al tl c).a.accFilling = c.a.accFilling := by rw [passed_eq]
@[simp] theorem passed_a_prog (h : Head) (i : Instr) (al : Bool) (tl : List Nat) (c : Ctx) : (passed h i al tl c).a.prog = c.a.prog := by rw [passed_eq]
@[simp] theorem passed_a_lastw (h : Head) (i : Instr) (al : Bool) (tl : List Nat) (c : Ctx) : (passed h i al tl c).a.lastw = c.a.lastw := by rw [passed_eq]
@[simp] theorem passed_iss (h : Head) (i : Instr) (al : Bool) (tl : List Nat) (c : Ctx) : (passed h i al tl c).iss = c.iss + 1 := by rw [passed_eq]
@[simp] theorem passed_getS (h : Head) (i : Instr) (al : Bool) (tl : List Nat) (c : Ctx) (n : Nat) : (passed h i al tl c).getS n = c.getS n := by
  simp [Ctx.getS]
@[simp] theorem passed_getK (h : Head) (i : Instr) (al : Bool) (tl : List Nat) (c : Ctx) (n : Nat) : (passed h i al tl c).getK n = c.getK n := by
  simp [Ctx.getK]
@[simp] theorem passed_getP (h : Head) (i : Instr) (al : Bool) (tl : List Nat) (c : Ctx) (n : Nat) : (passed h i al tl c).getP n = c.getP n := by
  simp [Ctx.getP]
@[simp] theorem passed_getH (h : Head) (i : Instr) (al : Bool) (tl : List Nat) (c : Ctx) (n : Nat) : (passed h i al tl c).getH n = c.getH n := by
  simp [Ctx.getH]
@[simp] theorem passed_dstS (h : Head) (i : Instr) (al : Bool) (tl : List Nat) (c : Ctx) (n : Nat) : (passed h i al tl c).dstS n = c.dstS n := by
  simp [Ctx.dstS]
@[simp] theorem passed_dstK (h : Head) (i : Instr) (al : Bool) (tl : List Nat) (c : Ctx) (n : Nat) : (passed h i al tl c).dstK n = c.dstK n := by
  simp [Ctx.dstK]
@[simp] theorem passed_pcNow (h : Head) (i : Instr) (al : Bool) (tl : List Nat) (c : Ctx) : (passed h i al tl c).pcNow = c.pcNow := by
  simp [Ctx.pcNow]
@[simp] theorem passed_lvNow (h : Head) (i : Instr) (al : Bool) (tl : List Nat) (c : Ctx) : (passed h i al tl c).lvNow = c.lvNow := by
  simp [Ctx.lvNow]
@[simp] theorem passed_codeOid (h : Head) (i : Instr) (al : Bool) (tl : List Nat) (c : Ctx) : (passed h i al tl c).codeOid = c.codeOid := by
  simp [Ctx.codeOid]
@[simp] theorem passed_memOffset (h : Head) (i : Instr) (al : Bool) (tl : List Nat) (c : Ctx) (x off : Nat) :
    memOffset (passed h i al tl c) x off = memOffset c x off := by simp [memOffset]
@[simp] theorem passed_desc (h : Head) (i : Instr) (al : Bool) (tl : List Nat) (c : Ctx) (t : Nat) :
    (passed h i al tl c).a.desc t = c.a.desc t := by simp [Arch.desc]

end Sys2Proof.Machine
end

