-- ==== Sys2Proof/Laws/Producers.lean ====
section
/-!
SUPPORT. Sys2Proof/Laws/Producers.lean: what a lone producer leaves, for each shared form of producer.
-/
namespace Sys2Proof.Machine

@[simp] theorem ctx_issuing (i : Instr) (al : Bool) (s : State) :
    (issuing i al s).ctx s.cur.1 s.cur.2 = atIssue i al s := by
  simp [issuing, setHand]

@[simp] theorem ctx_judged (h : Head) (s : State) : (judged h s).ctx s.cur.1 s.cur.2 = found h s := by
  simp [judged, setHand]

theorem atIssue_dstS (i : Instr) (al : Bool) (s : State) (n : Nat) : (atIssue i al s).dstS n = (found (headOf i) s).dstS n :=
  passed_dstS ..

theorem atIssue_dstK (i : Instr) (al : Bool) (s : State) (n : Nat) : (atIssue i al s).dstK n = (found (headOf i) s).dstK n :=
  passed_dstK ..

theorem here_ctx (i : Instr) (s t : State) : (here i s).ctx t = t.ctx s.cur.1 s.cur.2 := rfl

/-- Only what the effect makes of the issuing state counts. -/
theorem issued_congr (i : Instr) (al : Bool) (s : State) (e f : State → State) (g : Option Nat) (fin : State → State)
    (h : e (issuing i al s) = f (issuing i al s)) : issued i al s e g fin = issued i al s f g fin := by
  unfold issued; rw [h]

/-- No tile, no engine: only the instruction's own hold is judged. -/
theorem interlock_plain (t : State) (core slot : Nat) (p : At) (m : SlotSem)
    (ht : m.tiles { p with on := true } t = []) (hl : m.lat ≠ .engine) : (interlock t core slot [(p, m)]).1 = .go := by
  have : (m.lat == Lat.engine) = false := by simpa using hl
  simp [interlock, judgeTiles, ht, judgeAll, this]

theorem otherHolds_plain (t : State) (core : Nat) (p : At) (m : SlotSem) (hh : m.hold p t = false) (hl : m.lat ≠ .engine) :
    otherHolds t core [(p, m)] = false := by
  have : (m.lat == Lat.engine) = false := by simpa using hl
  simp [otherHolds, hh, this]

/-- A meaning with no hold, mark, gate or tile passes once its checks do. -/
theorem passes_plain (i : Instr) (s : State) (m : SlotSem) (hm : slotSem i = m)
    (hc : m.chk (here i s) (judged (headOf i) s) = none) (hp : m.post (here i s) (judged (headOf i) s) = none)
    (hh : m.hold (here i s) (judged (headOf i) s) = false) (ht : ∀ u, m.tiles (here i s) u = [])
    (hk : m.mark (here i s) (judged (headOf i) s) = false) (hg : m.gates (here i s) (judged (headOf i) s) = false)
    (hl : m.lat ≠ .engine) : passes i s = true := by
  have hl' : (m.lat == Lat.engine) = false := by simpa using hl
  rw [passes_iff, hm]
  exact ⟨hc, hp, hk, otherHolds_plain _ _ _ _ hh hl, interlock_plain _ _ _ _ _ (ht _) hl, by simp [hg, hl']⟩

/-- A slot that goes nowhere and ends as it is: its issue is `issued` with its effect. -/
theorem issueOne_effect (i : Instr) (s : State) (m : SlotSem) (al : Bool) (hm : slotSem i = m) (hf : free (headOf i) s = true)
    (hp : passes i s = true) (hl : (m.lat != .now) = al) (hg : ∀ p t, m.goes p t = none) (hfin : m.fin (here i s) = id) :
    issueOne i m s = issued i al s (m.eff (here i s)) none id := by
  have h := issueOne_passes i s hf hp
  rw [hm, hl, hg, hfin] at h
  exact h

/-- A producer that writes `d` with the value `v` of the context it finds. -/
theorem produce_issuing (i : Instr) (s : State) (m : Lat) (l : Nat) (fixed : Bool) (d : Dst) (v : BitVec 512)
    (h : m = if fixed then .fixed l else .prod l) :
    produce (here i s) m d v (issuing i true s) =
      (issuing i true s).updCtx s.cur.1 s.cur.2 (fun c => c.push (result i s l fixed d v)) := by
  cases fixed <;> subst h <;> rfl

/-- A fixed-latency producer of s[a] (R109, R156). -/
theorem issueOne_intOp (i : Instr) (s : State) (l a : Nat) (v : Ctx → Word) (w : Word) (hm : slotSem i = intOp l a v)
    (hf : free (headOf i) s = true)
    (hv : v (atIssue i true s) = w) :
    issueOne i (intOp l a v) s = writesS i s l a w := by
  have hp : passes i s = true :=
    passes_plain i s _ hm rfl rfl rfl (fun _ => rfl) rfl rfl (by simp [intOp])
  rw [issueOne_effect i s _ true hm hf hp rfl (fun _ _ => rfl) rfl]
  unfold writesS produced
  refine issued_congr i true s _ _ none id ?_
  show produce (here i s) (.fixed l) _ _ (issuing i true s) = _
  rw [produce_issuing i s (.fixed l) l true _ _ rfl, here_ctx, ctx_issuing, hv, atIssue_dstS]

/-- A predicate instruction (R160). -/
theorem issueOne_predOp (i : Instr) (s : State) (a : Nat) (v : Ctx → Bool) (w : Bool) (hm : slotSem i = predOp a v)
    (hf : free (headOf i) s = true)
    (hv : v (atIssue i true s) = w) :
    issueOne i (predOp a v) s = writesP i s a w := by
  have hp : passes i s = true :=
    passes_plain i s _ hm rfl rfl rfl (fun _ => rfl) rfl rfl (by simp [predOp])
  rw [issueOne_effect i s _ true hm hf hp rfl (fun _ _ => rfl) rfl]
  unfold writesP produced
  refine issued_congr i true s _ _ none id ?_
  show produce (here i s) (.fixed 1) _ _ (issuing i true s) = _
  rw [produce_issuing i s (.fixed 1) 1 true _ _ rfl, here_ctx, ctx_issuing, hv]
  cases w <;> rfl

/-- A tagged producer of s[a] from the state at its issue (R112). -/
theorem issueOne_tagged (i : Instr) (s : State) (n a : Nat) (v : At → State → Word) (w : Word) (hm : slotSem i = tagged n a v)
    (hf : free (headOf i) s = true)
    (hv : v (here i s) (issuing i true s) = w) :
    issueOne i (tagged n a v) s = answersS i s n a w := by
  have hp : passes i s = true :=
    passes_plain i s _ hm rfl rfl rfl (fun _ => rfl) rfl rfl (by simp [tagged])
  rw [issueOne_effect i s _ true hm hf hp rfl (fun _ _ => rfl) rfl]
  unfold answersS produced
  refine issued_congr i true s _ _ none id ?_
  show produce (here i s) (.prod n) _ _ (issuing i true s) = _
  rw [produce_issuing i s (.prod n) n false _ _ rfl, hv, here_ctx, ctx_issuing, atIssue_dstS]

/-- A capability instruction whose source is null, or whose result lies within it (R164). -/
theorem issueOne_capOp (i : Instr) (s : State) (a : Nat) (src : Ctx → BitVec 128) (v : Ctx → Option (BitVec 128)) (w : BitVec 128)
    (hm : slotSem i = capOp a src v) (hf : free (headOf i) s = true)
    (hs : ∀ al, src (atIssue i al s) = src (found (headOf i) s))
    (hv : ∀ al, v (atIssue i al s) = v (found (headOf i) s))
    (hw : if capOid (src (found (headOf i) s)) = 0 then w = 0 else v (found (headOf i) s) = some w) :
    issueOne i (capOp a src v) s = writesK i s a w := by
  have hok : capOid (src (found (headOf i) s)) = 0 ∨ (v (found (headOf i) s)).isSome = true := by
    by_cases h0 : capOid (src (found (headOf i) s)) = 0
    · exact .inl h0
    · rw [if_neg h0] at hw; exact .inr (by rw [hw]; rfl)
  have hp : passes i s = true := by
    refine passes_plain i s _ hm ?_ rfl rfl (fun _ => rfl) rfl rfl (by simp [capOp])
    show (if _ then none else _) = none
    rw [here_ctx, ctx_judged, if_pos hok]
  rw [issueOne_effect i s _ true hm hf hp rfl (fun _ _ => rfl) rfl]
  unfold writesK produced
  refine issued_congr i true s _ _ none id ?_
  show produce (here i s) (.fixed 1) _ _ (issuing i true s) = _
  rw [produce_issuing i s (.fixed 1) 1 true _ _ rfl, here_ctx, ctx_issuing, atIssue_dstK, hs, hv]
  have : (if capOid (src (found (headOf i) s)) = 0 then 0 else (v (found (headOf i) s)).getD 0) = w := by
    by_cases h0 : capOid (src (found (headOf i) s)) = 0
    · rw [if_pos h0] at hw ⊢; exact hw.symm
    · rw [if_neg h0] at hw ⊢; rw [hw]; rfl
  rw [this]

end Sys2Proof.Machine
end

