-- ==== Sys2Proof/Tests/Slice0.lean ====
section
/-!
SUPPORT. Sys2Proof/Tests/Slice0.lean: tests of one step each, with expected results from the spec's printed words,
examples and tables or worked by hand from them; ill-formed terms that the checks refuse; and, for every obligation
with hypotheses, states and operands that meet them (`witness_<Obligation>`).
-/
namespace Sys2Proof.Tests
open Sys2Proof.Machine
set_option Elab.async false

/-! ## Helpers -/

def hd (slot : Slot) (tag : Nat) : Head := { slot := slot, pd := 0, atag := tag, w0 := 0, w1 := 0, pneg := 0, pidx := 0 }
def hS : Head := hd .S 0
def r3 (a b c : Nat) : SR := { a := a, b := b, c := c, d := 0, r := 0 }
def sm (a k x off v w ty : Nat) : SM := { a := a, k := k, x := x, off := off, v := v, w := w, ext := 0, ty := ty, hint := 0, r := 0 }
def vt (td ta tb tc : Nat) : VT := { td := td, ta := ta, tb := tb, tc := tc, mcls := 0, seg := 0, dist := 0, msel := 0, flags := 0 }
def mt (x y acc plane : Nat) : MT := { x := x, y := y, z := 0, w := 0, zv := 0, wv := 0, acc := acc, plane := plane, r := 0 }
def cp (t k x y : Nat) : CP := { t := t, k := k, x := x, y := y, off := 0, con := 0, pat := 0, r := 0 }
def noAttr (present : Nat) : Attr := { present := present, sticky := 0, rep := 0, fix := 0, hw := 0, yld := 0 }

/-- A Ready context on core 0, slot 0, at word 0 of a code object of two words, changed by `f`. -/
def bench (f : Ctx → Ctx) : State := (placeWord State.reset 0).updCtx 0 0 f

/-- Scalar registers set. -/
def regs (l : List (Nat × Word)) (c : Ctx) : Ctx := { c with a := { c.a with s := l.foldl (fun t x => t.set x.1 x.2 0) c.a.s } }

/-- What `p` says of the next state, if there is one. -/
def next (i : Instr) (s : State) (p : State → Bool) : Bool :=
  match exec i s with
  | .next t => p t
  | _ => false

/-- The same of the context, once every result of it has landed. -/
def then' (i : Instr) (s : State) (p : Ctx → Bool) : Bool := next i s (fun t => p ((t.ctx 0 0).landAll (fun _ => true)))

/-- s[n] after `i` from scalar registers `l`. -/
def gives (i : Instr) (l : List (Nat × Word)) (n : Nat) (v : Word) : Bool := then' i (bench (regs l)) (fun c => c.getS n == v)

/-- A capability to the context's own extent with every right, of `n` bytes. -/
def ownCap (n : Nat) : BitVec 128 := setFld (setFld (setFld 0 0 24 oidLocal) 24 8 0xFF) 80 48 n

/-- A context with an extent of 4 KiB and a capability to it in k1. -/
def spad (c : Ctx) : Ctx := { c with extent := 4096, a := { c.a with k := [(1, ownCap 4096)] } }

/-- A ready f32 tile of `r` rows and `n` columns (at most 8), fully valid, from scratchpad byte `b`, PITCH 32. -/
def tile (b r n : Nat) : BitVec 128 := setFld (mkDesc b 0 r n r n 32 0) 118 2 2

/-- The same extent with three 1 × 1 tiles t1 to t3 in it, and two accumulators. -/
def tiles (c : Ctx) : Ctx :=
  let c := spad c
  { c with nacc := 2, a := { c.a with t := [(1, tile 0 1 1), (2, tile 64 1 1), (3, tile 128 1 1)] } }

/-! ## Encoding -/

/-- The header of `again` (spec/05, R104). -/
theorem test_header_again : decodeHeader 0xF8200700000000000000 =
    .ok ({ present := 48, sticky := 16, rep := 3, fix := 1, hw := 0, yld := 0 }, none) := by decide

/-- `fmt.a` FMT 9, SUB 3 (spec/22). -/
theorem test_header_fmt : decodeHeader 0xEC000000040189000000 = .ok (noAttr 24, some (.fmtA (noAttr 24) 0x189)) := by decide

/-- `addi s5, s5, 1` (spec/06). -/
theorem test_word_addi : decodeSlot .S 0x00080000028A00000001 = .ok (.addi hS { a := 5, b := 5, imm := 1 }) := by decide

/-- `mul` waiting on q1 (spec/16). -/
theorem test_word_mul : decodeSlot .S 0x00180040059460000000 = .ok (.mul { hS with w0 := 1 } (r3 11 10 12)) := by decide

/-- `movi` of 0x1_0000_0001 to s12 and `loop` to word 18 (spec/16). -/
theorem test_word_movi : decodeSlot .S 0x01180000060100000001 = .ok (.movi hS { a := 12, imm := 0x100000001 }) ∧
    decodeSlot .S 0x03280000000200000012 = .ok (.loop hS { p := 0, pn := 0, l := 0, cnt := 512, tgt := 18 }) := by decide

/-- `ld` of spec/08 and `st.w.uc` of spec/22. -/
theorem test_word_ld : decodeSlot .S 0x05002800039880200168 =
      .ok (.ld (hd .S 5) { a := 7, k := 3, x := 4, off := 64, v := 0, w := 2, ext := 1, ty := 2, hint := 2, r := 0 }) ∧
    decodeSlot .S 0x05080000091800040130 = .ok (.st hS (sm 18 3 0 8 0 2 3)) := by decide

/-- `next >q9` and `bar.aw 7` (spec/12), `jread` and `bq` (spec/17), `end` (spec/16). -/
theorem test_word_sync : decodeSlot .S 0x09284800000000000000 = .ok (.next (hd .S 9) (r3 0 0 0)) ∧
    decodeSlot .S 0x09180000000000000007 = .ok (.barAw hS { a := 0, b := 0, imm := 7 }) ∧
    decodeSlot .S 0x0A0810000C0000000000 = .ok (.jread (hd .S 2) (r3 24 0 0)) ∧
    decodeSlot .S 0x0A0018000C8000000000 = .ok (.bq (hd .S 3) (r3 25 0 0)) ∧
    decodeSlot .S 0x08280000000000000000 = .ok (.endc hS (r3 0 0 0)) := by decide

/-- `tdef`, `vfma.f32` (spec/16), `vadd.f32` (spec/06), `vsub` with MOD (spec/16), `vquant` (spec/09). -/
theorem test_word_vector : decodeSlot .V1 0x40000000008080000000 = .ok (.tdef (hd .V1 0) (vt 2 1 0 0)) ∧
    decodeSlot .V0 0x24880000010181040000 = .ok (.vfma (hd .V0 0) 1 (vt 4 3 1 2)) ∧
    decodeSlot .V0 0x23081000010082000000 = .ok (.vadd (hd .V0 2) 1 (vt 4 1 2 0)) ∧
    decodeSlot .V0 0x3B801800018100000000 = .ok (.vquant (hd .V0 3) (vt 6 2 0 0)) := by decide

theorem test_word_vsub : decodeSlot .V0 0x2388000002010401B000 =
    .ok (.vsub (hd .V0 0) 1 { vt 8 2 4 0 with mcls := 3, seg := 3 }) := by decide

/-- `mma` (spec/10) and `mdrain` (spec/22). -/
theorem test_word_matrix : decodeSlot .M 0x60183000104200004000 = .ok (.mma (hd .M 6) (mt 65 4 1 0)) ∧
    decodeSlot .M 0x60280080012000000000 = .ok (.mdrain { hd .M 0 with w0 := 2 } (mt 4 64 0 0)) := by decide

/-- `cp.ld` with PAT (spec/11), `cp.st` and `cp.fill` (spec/16). -/
theorem test_word_copy : decodeSlot .C0 0x80002000020832404040 = .ok (.cpLd (hd .C0 4) { cp 8 2 3 9 with off := 64, pat := 1 }) ∧
    decodeSlot .C0 0x800800000108D0000000 = .ok (.cpSt (hd .C0 0) (cp 4 2 13 0)) ∧
    decodeSlot .C0 0x8041000000C002C00000 = .ok (.cpFill { hd .C0 0 with pd := 1 } (cp 3 0 0 11)) := by decide

/-- The V0 word with CF 7 of R358's example has no opcode. -/
theorem test_word_cf7 : decodeSlot .V0 0x23381000010082000000 = .error .badOpcode := by decide

/-- A word of class 001 in the S place (R107). -/
theorem test_word_class : decodeSlot .S 0x23081000010082000000 = .error .badSlotClass := by decide

/-- `trap` with IMM33[16] set (R185), and `sext` with C = 3 (R159). -/
theorem test_word_refused : decodeSlot .S (encode (.trap hS { a := 0, b := 0, imm := 0x10000 })) = .error .reservedSet ∧
    decodeSlot .S (encode (.sext hS (r3 1 2 3))) = .error .badOperand := by decide

/-- The three checks of well-formedness each refuse a term: a register code out of its field, a reserved field set, an
unassigned value code. -/
theorem test_ill_formed : wellFormed (.add hS (r3 64 0 0)) = false ∧ wellFormed (.add hS { r3 1 2 3 with r := 1 }) = false ∧
    wellFormed (.sext hS (r3 1 2 3)) = false ∧ wellFormed (.add (hd .V0 0) (r3 1 2 3)) = false ∧
    wellFormed (.vadd (hd .V0 0) 9 (vt 1 2 3 0)) = false ∧ wellFormed (.fmtA (noAttr 0) (2 ^ 18)) = false ∧
    wellFormed (.add hS (r3 1 2 3)) = true := by decide

/-! ## Integer, predicate and control instructions -/

theorem test_add_wraps : gives (.add hS (r3 5 2 3)) [(2, 0xFFFFFFFFFFFFFFFF), (3, 2)] 5 1 := by decide +kernel
theorem test_addi_negative : gives (.addi hS { a := 5, b := 2, imm := 0x1FFFFFFFF }) [(2, 5)] 5 4 := by decide +kernel
theorem test_sub_order : gives (.sub hS (r3 5 2 3)) [(2, 3), (3, 5)] 5 0xFFFFFFFFFFFFFFFE := by decide +kernel
theorem test_write_s0 : gives (.add hS (r3 0 2 2)) [(2, 7)] 0 0 := by decide +kernel
theorem test_mul_low : gives (.mul hS (r3 5 2 3)) [(2, 0x8000000000000001), (3, 2)] 5 2 := by decide +kernel
theorem test_mulh_signed : gives (.mulh hS (r3 5 2 3)) [(2, 0xFFFFFFFFFFFFFFFF), (3, 1)] 5 0xFFFFFFFFFFFFFFFF := by decide +kernel
theorem test_mulhz_unsigned : gives (.mulhz hS (r3 5 2 3)) [(2, 0xFFFFFFFFFFFFFFFF), (3, 2)] 5 1 := by decide +kernel
theorem test_div_truncates : gives (.div hS (r3 5 2 3)) [(2, 0xFFFFFFFFFFFFFFF9), (3, 2)] 5 0xFFFFFFFFFFFFFFFD := by decide +kernel
theorem test_div_overflow : gives (.div hS (r3 5 2 3)) [(2, 0x8000000000000000), (3, 0xFFFFFFFFFFFFFFFF)] 5 0x8000000000000000 := by decide +kernel
theorem test_rem_sign : gives (.rem hS (r3 5 2 3)) [(2, 0xFFFFFFFFFFFFFFF9), (3, 2)] 5 0xFFFFFFFFFFFFFFFF := by decide +kernel
theorem test_divz_zero : gives (.divz hS (r3 5 2 3)) [(2, 9)] 5 0xFFFFFFFFFFFFFFFF := by decide +kernel
theorem test_remz_zero : gives (.remz hS (r3 5 2 3)) [(2, 9)] 5 9 := by decide +kernel
theorem test_shl_masks : gives (.shl hS (r3 5 2 3)) [(2, 3), (3, 65)] 5 6 := by decide +kernel
theorem test_sra_sign : gives (.sra hS (r3 5 2 3)) [(2, 0xFFFFFFFFFFFFFFF8), (3, 1)] 5 0xFFFFFFFFFFFFFFFC := by decide +kernel
theorem test_rotr : gives (.rotr hS (r3 5 2 3)) [(2, 3), (3, 1)] 5 0x8000000000000001 := by decide +kernel
theorem test_clz_zero : gives (.clz hS (r3 5 2 0)) [] 5 64 := by decide +kernel
theorem test_ctz : gives (.ctz hS (r3 5 2 0)) [(2, 0x50)] 5 4 := by decide +kernel
theorem test_popc : gives (.popc hS (r3 5 2 0)) [(2, 0xF00000000000000F)] 5 8 := by decide +kernel
theorem test_min_signed : gives (.min hS (r3 5 2 3)) [(2, 1), (3, 0xFFFFFFFFFFFFFFFF)] 5 0xFFFFFFFFFFFFFFFF := by decide +kernel
theorem test_minz_unsigned : gives (.minz hS (r3 5 2 3)) [(2, 1), (3, 0xFFFFFFFFFFFFFFFF)] 5 1 := by decide +kernel
theorem test_sext_byte : gives (.sext hS (r3 5 2 0)) [(2, 0x180)] 5 0xFFFFFFFFFFFFFF80 := by decide +kernel
theorem test_zext_half : gives (.zext hS (r3 5 2 1)) [(2, 0x12345)] 5 0x2345 := by decide +kernel
/-- The first instruction of R159's example, with the sign extension of R157's table (log 42). -/
theorem test_movi_example : gives (.movi hS { a := 9, imm := 0x789ABCDEF0 }) [] 9 0xFFFFFFF89ABCDEF0 := by decide +kernel
theorem test_movhi_example : gives (.movhi hS { a := 9, imm := 0x91A2B3C4D }) [(9, 0xFFFFFF789ABCDEF0)] 9 0x123456789ABCDEF0 := by decide +kernel
theorem test_sel_false : gives (.sel hS { r3 5 2 3 with d := 1 }) [(2, 4), (3, 8)] 5 8 := by decide +kernel
theorem test_cmp_lt_signed : then' (.cmp hS (r3 (8 * 2 + 1) 2 3)) (bench (regs [(2, 0xFFFFFFFFFFFFFFFF), (3, 1)])) (fun c => c.getP 1) := by decide +kernel
theorem test_cmpi_ltu : then' (.cmpi hS { a := 8 * 4 + 1, b := 2, imm := 0x1FFFFFFFF }) (bench (regs [(2, 1)])) (fun c => c.getP 1) := by decide +kernel
theorem test_pnot_p0 : then' (.pnot hS (r3 1 0 0)) (bench id) (fun c => !c.getP 1) := by decide +kernel
theorem test_predicated_off : gives (.addi { hS with pneg := 1 } { a := 5, b := 2, imm := 1 }) [(5, 3)] 5 3 := by decide +kernel
theorem test_br_target : next (.br hS { p := 0, pn := 0, l := 0, cnt := 0, tgt := 1 }) (bench id) (fun t => (t.ctx 0 0).a.pc == 1) := by decide +kernel
theorem test_bp_not_taken : next (.bp hS { p := 1, pn := 0, l := 0, cnt := 0, tgt := 1 }) (bench id) (fun t => (t.ctx 0 0).a.pc == 2) := by decide +kernel
theorem test_call_link : then' (.call hS { p := 0, pn := 0, l := 0, cnt := 512 * 7, tgt := 0 }) (bench id) (fun c => c.getS 7 == 2 && c.a.pc == 0) := by decide +kernel
theorem test_br_outside : next (.br hS { p := 0, pn := 0, l := 0, cnt := 0, tgt := 2 }) (bench id) (fun t => (t.ctx 0 0).faults.any (fun f => f.code == 0x07)) := by decide +kernel
theorem test_loop_range : next (.loopi hS { p := 0, pn := 0, l := 0, cnt := 3, tgt := 1 }) (bench id) (fun t => (t.ctx 0 0).faults.any (fun f => f.code == 0x24 && f.tval == 1)) := by decide +kernel
theorem test_loop_end : (endCheck [(0, { active := true, count := 3, start := 4, stop := 8, opened := 1 })] 8 4).2 = some 4 := by decide

/-! ## Capabilities and memory -/

/-- A fault of this code is pending, or its trap has begun. -/
def faulted (code : Nat) (t : State) : Bool := (t.ctx 0 0).faults.any (fun f => f.code == code)

/-- Bytes of the scratchpad of core 0. -/
def sramIs (a : Nat) (b : List Byte) (t : State) : Bool := t.readSram 0 a b.length == b

theorem test_lea_lower : then' (.lea hS (sm 2 1 3 0 0 0 0)) (bench (fun c => regs [(3, 64)] (spad c)))
    (fun c => capLower (c.getK 2) == 64 && capUpper (c.getK 2) == 4096 && capOid (c.getK 2) == oidLocal) := by decide +kernel
theorem test_lea_widens : next (.lea hS (sm 2 1 3 0 0 0 0)) (bench (fun c => regs [(3, 4097)] (spad c))) (faulted 0x32) := by decide +kernel
theorem test_caprs : then' (.caprs hS (r3 2 1 3)) (bench (fun c => regs [(3, 1)] (spad c))) (fun c => capRights (c.getK 2) == 1) := by decide +kernel
theorem test_caprt_order : next (.caprt hS { r3 2 1 3 with d := 4 }) (bench (fun c => regs [(3, 9), (4, 8)] (spad c))) (faulted 0x32) := by decide +kernel
theorem test_capq_len : then' (.capq hS (r3 5 1 3)) (bench spad) (fun c => c.getS 5 == 4096) := by decide +kernel
theorem test_capmv : then' (.capmv hS (r3 2 1 0)) (bench spad) (fun c => c.getK 2 == ownCap 4096) := by decide +kernel

theorem test_st_bytes : next (.st hS (sm 4 1 3 4 0 2 0)) (bench (fun c => regs [(3, 8), (4, 0x1122334455667788)] (spad c)))
    (sramIs 11 [0, 0x88, 0x77, 0x66, 0x55, 0]) := by decide +kernel
theorem test_st_misaligned : next (.st hS (sm 4 1 3 2 0 2 0)) (bench (fun c => regs [(3, 8)] (spad c))) (faulted 0x40) := by decide +kernel
theorem test_ld_signed : next (.ld hS { sm 5 1 3 0 0 0 0 with ext := 1 }) ((bench (fun c => regs [(3, 16)] (spad c))).writeSram 0 16 [0x80])
    (fun t => (t.ctx 0 0).accs.any (fun a => a.val.setWidth 64 == (0xFFFFFFFFFFFFFF80 : Word) && a.minLat == 12)) := by decide +kernel
theorem test_ld_bounds : next (.ld hS (sm 5 1 3 0 0 3 0)) (bench (fun c => regs [(3, 4096)] (spad c))) (faulted 0x31) := by decide +kernel
theorem test_pf_dropped : next (.pf hS (sm 0 1 3 0 0 0 0)) (bench (fun c => regs [(3, 9999)] c)) (fun t => !faulted 0x30 t && (t.ctx 0 0).a.pc == 2) := by decide +kernel
theorem test_cclean_zero : next (.cclean hS (sm 2 0 0 0 0 0 0)) (bench id) (fun t => (t.ctx 0 0).faults == []) := by decide +kernel
/-- R171: amo.add.w wraps in 32 bits; its old value is sign-extended. -/
theorem test_amo_add : next (.amoAdd hS (sm 5 1 0 0 4 2 0)) ((bench (fun c => regs [(4, 2)] (spad c))).writeSram 0 0 [0xFF, 0xFF, 0xFF, 0xFF, 0x77])
    (fun t => sramIs 0 [1, 0, 0, 0, 0x77] t && (t.ctx 0 0).accs.any (fun a => a.val.setWidth 64 == (0xFFFFFFFFFFFFFFFF : Word))) := by decide +kernel
theorem test_amo_maxz : next (.amoMaxz hS (sm 5 1 0 0 4 2 0)) ((bench (fun c => regs [(4, 2)] (spad c))).writeSram 0 0 [0xFF, 0xFF, 0xFF, 0xFF])
    (fun t => sramIs 0 [0xFF, 0xFF, 0xFF, 0xFF] t && (t.ctx 0 0).accs.any (fun a => a.val.setWidth 64 == (0xFFFFFFFF : Word))) := by decide +kernel
theorem test_amo_cas_fails : next (.amoCas hS (sm 5 1 0 0 4 3 0)) ((bench (fun c => regs [(4, 2), (5, 9)] (spad c))).writeSram 0 0 [8])
    (sramIs 0 [8, 0]) := by decide +kernel
/-- 1.0 + 1.0 in f32. -/
theorem test_amo_fadd : next (.amoFadd hS (sm 5 1 0 0 4 2 0)) ((bench (fun c => regs [(4, 0x3F800000)] (spad c))).writeSram 0 0 [0, 0, 0x80, 0x3F])
    (sramIs 0 [0, 0, 0, 0x40]) := by decide +kernel

/-! ## System instructions, counters and synchronisation -/

/-- The context in supervisor mode. -/
def sup (c : Ctx) : Ctx := { c with sup := true, st := .supervisor, supOid := 1 }

theorem test_mfsr_ctx : then' (.mfsr hS { a := 5, b := 0, imm := 6 }) (bench (fun c => { c with x0 := 3 })) (fun c => c.getS 5 == 3) := by decide +kernel
theorem test_mfsr_mode : next (.mfsr hS { a := 5, b := 0, imm := 2 }) (bench id) (faulted 0x71) := by decide +kernel
theorem test_mtsr_epc : next (.mtsr hS { a := 9, b := 0, imm := 2 }) (bench (fun c => regs [(9, 0x1234567890)] (sup c))) (fun t => (t.ctx 0 0).epc == 0x567890) := by decide +kernel
theorem test_mtsr_user : next (.mtsr hS { a := 9, b := 0, imm := 2 }) (bench id) (faulted 0x71) := by decide +kernel
theorem test_trap_tval : next (.trap hS { a := 0, b := 0, imm := 0x2A }) (bench id) (fun t => (t.ctx 0 0).faults.any (fun f => f.code == 0x70 && f.tval == 0x2A)) := by decide +kernel
theorem test_eret_user : next (.eret hS (r3 0 0 0)) (bench (fun c => { sup c with epc := 1 })) (fun t => (t.ctx 0 0).a.pc == 1 && !(t.ctx 0 0).sup && (t.ctx 0 0).fixOpen) := by decide +kernel
theorem test_ctxout_user : next (.ctxout hS (r3 0 0 0)) (bench id) (faulted 0x71) := by decide +kernel
theorem test_end_state : next (.endc hS (r3 0 0 0)) (bench id) (fun t => (t.ctx 0 0).st == .ending || (t.ctx 0 0).st == .ended) := by decide +kernel
theorem test_rdtime : then' (.rdtime hS (r3 5 0 0)) { bench id with now := 77 } (fun c => c.getS 5 == 77) := by decide +kernel
theorem test_jread : then' (.jread hS (r3 5 0 0)) (bench (fun c => { c with joule := 99 })) (fun c => c.getS 5 == 99) := by decide +kernel
theorem test_bq_interval : then' (.bq hS (r3 5 0 0)) { bench id with intv := 3 } (fun c => (c.getS 5).toNat / 2 ^ 32 == 3) := by decide +kernel
theorem test_next_claim : next (.next (hd .S 9) (r3 0 0 0)) (bench id) (fun t => (t.ctx 0 0).a.claims.map (fun x => (x.left, x.h, x.tag)) == [(31, 0, 9)]) := by decide +kernel
theorem test_bar_arrive_gated : next (.barArrive hS { a := 5, b := 0, imm := 3 }) (bench id) (fun t => (t.ctx 0 0).gatedItems == [.arrive 3 0 (.s 5) 0 false]) := by decide +kernel
theorem test_bar_init_expect : next (.barInit hS { a := 0, b := 2, imm := 3 }) (bench (regs [(2, 4)])) (fun t => ((t.core 0).barrier 3).expect == 4) := by decide +kernel
theorem test_bar_init_scope : next (.barInit hS { a := 0, b := 2, imm := 3 }) (bench (regs [(2, 0x10004)])) (faulted 0x51) := by decide +kernel
theorem test_bar_query_claimed : then' (.barQuery hS { a := 5, b := 0, imm := 3 }) (bench id) (fun c => c.getS 5 == 0x8000000000000000) := by decide +kernel
theorem test_enqm_target : next (.enqm hS (r3 5 2 3)) (bench (regs [(2, 1)])) (faulted 0x53) := by decide +kernel
theorem test_deqm_takes : then' (.deqm hS (r3 2 5 3)) (bench (fun c => { c with q := [(0, [{ val := 42, src := 0, time := 0 }])] }))
    (fun c => c.a.h.get 2 0 == 42 && c.getS 5 == 0x8000000000000000 && c.queue 0 == []) := by decide +kernel
theorem test_cpjoin_idle : next (.cpjoin hS { a := 0, b := 0, imm := 1 }) (bench id) (fun t => (t.ctx 0 0).a.pc == 2) := by decide +kernel
theorem test_next_supervisor : next (.next hS (r3 0 0 0)) (bench sup) (fun t => (t.ctx 0 0).wait == .stopped) := by decide +kernel

/-! ## Formats, tiles and engines -/

theorem test_fmt_pending : next (.fmtA (noAttr 0) 0x189) (bench id) (fun t => (t.ctx 0 0).a.pend.map (fun w => (w.reg, w.arg, w.left)) == [(0, 0x189, 3)]) := by decide +kernel
theorem test_fmt_effect : next (.formatWriteEffect 0 0) (bench (fun c => { c with a := { c.a with pend := [{ reg := 0, arg := 0x189, left := 0, sup := false }] } }))
    (fun t => (t.ctx 0 0).a.fa == 0x189) := by decide +kernel
theorem test_tview : next (.tview (hd .V0 0) { vt 1 0 0 0 with flags := 1 }) (bench tiles) (fun t => dView ((t.ctx 0 0).a.desc 1)) := by decide +kernel
theorem test_tstate : next (.tstate (hd .V0 0) { vt 1 0 0 0 with flags := 0 }) (bench tiles) (fun t => (t.ctx 0 0).a.tstate 1 == 0) := by decide +kernel
theorem test_vadd_starts : next (.vadd (hd .V0 3) 1 (vt 3 1 2 0)) (bench tiles)
    (fun t => (t.core 0).ops.length == 1 && (t.ctx 0 0).a.tstate 3 == 1 && (t.ctx 0 0).tagCount 3 == 1) := by decide +kernel
theorem test_vadd_base : next (.vadd (hd .V0 0) 1 (vt 3 1 2 0)) (bench (fun c => let c := tiles c; { c with a := c.a.setDesc 2 (tile 68 1 1) }))
    (fun t => (t.ctx 0 0).faults.any (fun f => f.code == 0x20 && f.tval == 2 && f.slot == 1)) := by decide +kernel
theorem test_mswap : next (.mswap (hd .M 0) (mt 0 0 0 0)) (bench id) (fun t => (t.ctx 0 0).a.role == 1) := by decide +kernel
theorem test_mma_empty : next (.mma (hd .M 0) (mt 64 1 0 0)) (bench tiles) (fun t => (t.ctx 0 0).faults != []) := by decide +kernel
theorem test_mzero_starts : next (.mzero (hd .M 0) (mt 64 0 0 0)) (bench tiles) (fun t => (t.ctx 0 0).a.tstate 64 == 1 && (t.core 0).ops.any (fun o => o.gated)) := by decide +kernel
theorem test_cp_fill_starts : next (.cpFill (hd .C0 4) (cp 3 0 0 5)) (bench (fun c => regs [(5, 7)] (tiles c)))
    (fun t => (t.ctx 0 0).a.tstate 3 == 1 && (t.core 0).ops.any (fun o => o.copy && o.cap.yval == 7)) := by decide +kernel
theorem test_cp_cancel_handle : next (.cpCancel (hd .C0 0) (cp 0 0 5 0)) (bench (regs [(5, 1)])) (faulted 0x2A) := by decide +kernel

/-! ## Events -/

theorem test_psets : next (.psetWrite 1 3) State.reset (fun t => (t.part 1).pset == 3 && (t.part 0).pset == 0) := by decide +kernel
theorem test_pkgcon_limit : next (.pkgconWrite 0x6927101C21) State.reset (fun t => t.pkgcon == 0x6927101C20) := by decide +kernel
theorem test_pcie_link : next .pcieLink State.reset (fun t => !t.linkUp) := by decide +kernel
theorem test_retain_idle : next .pwrctlRetain State.reset (fun t => t.power == .retain) := by decide +kernel
theorem test_scratchpad_error : next (.memoryError .scratchpad 0 70) State.reset (fun t => (t.core 0).bad == [2]) := by decide +kernel
theorem test_window_end : next (.droopWindowEnd 0 0) (bench (fun c => { c with win := true })) (fun t => !(t.ctx 0 0).win) := by decide +kernel
theorem test_droop_stretch : next (.droopStretch 5) State.reset (fun t => (t.island 5).droop && !(t.island 4).droop) := by decide +kernel

/-! ## Running -/

/-- The word of `addi s5, s5, 1`, placed and run. -/
theorem test_step_addi : (match step (State.reset.withFetchWord 80 0x00080000028A00000001) with
    | .next t => ((t.ctx 0 0).landAll (fun _ => true)).getS 5 == 1 && (t.ctx 0 0).a.pc == 2
    | _ => false) = true := by decide +kernel

theorem test_table_word : decodeTableWord 80 0x00080000028A00000001 = some (.addi hS { a := 5, b := 5, imm := 1 }) := by decide +kernel

/-! ## Witnesses: states and operands that meet the hypotheses of the obligations -/

/-- Core 0, slot 0 Ready at word 0 of a code object of the words `ws`, changed by `f`. -/
def codeBench (ws : List Nat) (f : Ctx → Ctx) : State :=
  let b := wordBytes ws
  let s := bench f
  { s with mem := writeBytes [] (devKey 0 0) b }.setObj 1
    (some { part := 0, psz := 0, kind := 0, home := 0, cr := false, cfmt := 0, cop := 0, cblk := 0, len := b.length, ptbase := 4096, pages := [(0, { state := 1, die := 0, frame := 0 })], hdr := none })

def jump (cnt tgt : Nat) : SB := { p := 1, pn := 0, l := 0, cnt := cnt, tgt := tgt }

/-- A head that allocates q3, waits on q4 and reads under producer distance 2. -/
def hBusy : Head := { hS with atag := 3, w0 := 4, pd := 2 }

theorem witness_IntegerArithmetic : free hBusy (bench id) = true ∧ tagRoom hBusy (bench id) = true := by decide +kernel

theorem witness_Division :
    let s (a b : Word) := bench (regs [(2, a), (3, b)])
    (free hS (s 9 0) = true ∧ tagRoom hS (s 9 0) = true ∧ (found hS (s 9 0)).getS 3 = 0) ∧
    (let t := s 0x8000000000000000 0xFFFFFFFFFFFFFFFF
     free hS t = true ∧ tagRoom hS t = true ∧ ((found hS t).getS 2).toInt = -2 ^ 63 ∧ ((found hS t).getS 3).toInt = -1) ∧
    (let t := s 0x8000000000000000 1
     free hS t = true ∧ tagRoom hS t = true ∧ (found hS t).getS 3 ≠ 0 ∧ ¬(((found hS t).getS 2).toInt = -2 ^ 63 ∧ ((found hS t).getS 3).toInt = -1)) := by decide +kernel

/-- The greatest amounts, widths and condition codes of the premises. -/
theorem witness_BitwiseAndShifts : free hS (bench id) = true ∧ tagRoom hS (bench id) = true ∧ ({ a := 1, b := 2, imm := 63 } : SI).imm < 64 := by decide +kernel
theorem witness_CountsAndMoves : free hS (bench id) = true ∧ tagRoom hS (bench id) = true ∧ (r3 1 2 2).c < 3 := by decide +kernel
theorem witness_PredicateResults : free hS (bench id) = true ∧ tagRoom hS (bench id) = true ∧ (r3 47 2 3).a / 8 < 6 := by decide +kernel

theorem witness_ControlTransfers :
    let s := bench (regs [(5, 1)])
    let c := found hS s
    free hS s = true ∧ tagRoom hS s = true ∧ (jump 0 1).tgt < codeLen s c.part c.codeOid ∧ (c.getP 0 != false) = true ∧
      (c.getP (jump 0 1).p != ((jump 0 1).pn == 1)) = false ∧ (c.getS ((jump (5 * 512) 0).cnt / 512)).toNat < codeLen s c.part c.codeOid := by decide +kernel

theorem witness_LoopOpenings :
    let s := codeBench [0xF0000000000000000000, 0, 0xE0000000000000000000, 0xE0000000000000000000] (regs [(5, 2), (6, 0)])
    let c := found hS s
    let len := codeLen s c.part c.codeOid
    (free hS s = true ∧ pcOf s + 2 ≤ 2 ∧ 3 < len ∧ bits (codeWord s c.part c.codeOid 3) 77 3 = 7) ∧
      (c.getS (5 * 512 / 512)).toNat % 2 ^ 32 ≠ 0 ∧ (c.getS (6 * 512 / 512)).toNat % 2 ^ 32 = 0 ∧ (1 < pcOf s + 2 ∧ len ≤ 4) := by decide +kernel

theorem witness_LoopEnd :
    let c (n : Nat) : Ctx := { a := { lv := [(1, { active := true, count := n, start := 4, stop := 8, opened := 1 })] } }
    (∀ n, n < 4 → (c n).lvNow.get 1 {} = { active := true, count := n, start := 4, stop := 8, opened := 1 }) ∧
      (∀ n, n < 4 → ∀ m, m < 4 → m ≠ 1 → (((c n).lvNow.get m {}).active = false ∨ ((c n).lvNow.get m {}).stop ≠ 8)) ∧ 1 < 2 ∧ 1 ≤ 1 := by decide +kernel

theorem witness_CapabilityResults :
    let s := bench (fun c => regs [(3, 4096), (4, 0xFF), (6, 4097), (7, 0x100)] (spad c))
    let c := found hS s
    free hS s = true ∧ tagRoom hS s = true ∧ capOid (c.getK 1) ≠ 0 ∧ capOid (c.getK 2) = 0 ∧
      (capLower (c.getK 1) ≤ (memOffset c 3 0).toNat ∧ (memOffset c 3 0).toNat ≤ capUpper (c.getK 1)) ∧
      ((c.getS 4).toNat < 256 ∧ (c.getS 4).toNat &&& capRights (c.getK 1) = (c.getS 4).toNat) ∧
      (capLower (c.getK 1) ≤ (c.getS 4).toNat ∧ (c.getS 4).toNat ≤ (c.getS 3).toNat ∧ (c.getS 3).toNat ≤ capUpper (c.getK 1)) ∧
      ¬((memOffset c 6 0).toNat ≤ capUpper (c.getK 1)) ∧ ¬((c.getS 7).toNat < 256) ∧ ¬((c.getS 6).toNat ≤ capUpper (c.getK 1)) ∧
      hS.inS = true ∧ (sm 16 1 0 0 0 0 0).inRange = true ∧ rsvOk (.lea hS (sm 16 1 0 0 0 0 0)) = true ∧
      (r3 16 16 4).inRange = true ∧ rsvOk (.capq hS (r3 0 0 4)) = true ∧ rsvOk (.caprs hS (r3 0 16 0)) = true := by decide +kernel

/-- What Loads and Stores ask of a scratchpad access of a double word at its extent's last bytes. -/
theorem witness_Loads :
    let o := sm 5 1 3 0 0 3 0
    let s := bench (fun c => regs [(3, 4088)] (spad c))
    let c := found hS s
    let pl := Place.sram 0 4088
    free hS s = true ∧ tagRoom hS s = true ∧ (memOffset c o.x o.off).toNat % 2 ^ o.w = 0 ∧
      capCheck c (c.getK o.k) (capHas (c.getK o.k) rRD) (memOffset c o.x o.off) (2 ^ o.w) = none ∧ capOid (c.getK o.k) = oidLocal ∧
      place (issuing (.ld hS o) true s) 0 0 (capOid (c.getK o.k)) (memOffset c o.x o.off).toNat (2 ^ o.w) = .ok pl ∧
      badAt (touchAt (issuing (.ld hS o) true s) 0 0 (capOid (c.getK o.k)) (memOffset c o.x o.off).toNat pl (2 ^ o.w) false o.ty o.hint) 0 pl (2 ^ o.w) = none ∧ accessHold o false (here (.ld hS o) s) (judged hS s) = false := by decide +kernel

/-- A context with a capability in k2 to object 2 of its partition, whose page 0 stands on die 0. -/
def device (f : Ctx → Ctx) : State :=
  (bench (fun c => f { c with a := { c.a with k := [(2, setFld (setFld (setFld 0 0 24 2) 24 8 0xFF) 80 48 4096)] } })).setObj 2
    (some { part := 0, psz := 0, kind := 0, home := 0, cr := false, cfmt := 0, cop := 0, cblk := 0, len := 4096, ptbase := 8192, pages := [(0, { state := 1, die := 0, frame := 5 })], hdr := none })

theorem witness_Loads_device :
    let o := sm 5 2 3 0 0 3 3
    let s := device (regs [(3, 4088)])
    let c := found hS s
    let pl := Place.dev 0 24568
    free hS s = true ∧ tagRoom hS s = true ∧ (memOffset c o.x o.off).toNat % 2 ^ o.w = 0 ∧
      capCheck c (c.getK o.k) (capHas (c.getK o.k) rRD) (memOffset c o.x o.off) (2 ^ o.w) = none ∧ c.accs = [] ∧
      place (issuing (.ld hS o) true s) 0 0 (capOid (c.getK o.k)) (memOffset c o.x o.off).toNat (2 ^ o.w) = .ok pl ∧
      badAt (touchAt (issuing (.ld hS o) true s) 0 0 (capOid (c.getK o.k)) (memOffset c o.x o.off).toNat pl (2 ^ o.w) false o.ty o.hint) 0 pl (2 ^ o.w) = none ∧ accessHold o false (here (.ld hS o) s) (judged hS s) = false := by decide +kernel

/-- The context with a capability in k2, with every right, to object 3, whose page 0 is a page of the host. -/
def onHost (f : Ctx → Ctx) : State :=
  (bench (fun c => f { c with a := { c.a with k := [(2, setFld (setFld (setFld 0 0 24 3) 24 8 0xFF) 80 48 4096)] } })).setObj 3
    (some { part := 0, psz := 0, kind := 1, home := 0, cr := false, cfmt := 0, cop := 0, cblk := 0, len := 4096, ptbase := 8192, pages := [(0, { state := 3, frame := 5 })], hdr := none })

/-- Loads, stores and atomics of host memory, over a host link that is up and one that is down. -/
theorem witness_Loads_host :
    let o := sm 5 2 3 0 4 3 3
    let s := onHost (regs [(3, 4088)])
    let c := found hS s
    let k := c.getK o.k
    let x := memOffset c o.x o.off
    let pl := Place.host 24568 true
    (free hS s = true ∧ x.toNat % 2 ^ o.w = 0 ∧ capCheck c k (capHas k rRD) x (2 ^ o.w) = none ∧ capCheck c k (capHas k rWR) x (2 ^ o.w) = none ∧
      capCheck c k (capHas k rAT) x (2 ^ o.w) = none ∧ c.accs = [] ∧ s.objOf c.part (capOid k) ≠ none ∧ (∀ ob, s.objOf c.part (capOid k) = some ob → ob.cr = false)) ∧
    (accessHold o false (here (.ld hS o) s) (judged hS s) = false ∧ accessHold o true (here (.st hS o) s) (judged hS s) = false ∧
      accessHold o true (here (.amoAdd hS o) s) (judged hS s) = false) ∧
    (∀ i ∈ [Instr.ld hS o, .st hS o, .amoAdd hS o], place (issuing i true s) 0 0 (capOid k) x.toNat (2 ^ o.w) = .ok pl) ∧
    s.hostDown 24568 true false = false ∧ ({ s with linkUp := false } : State).hostDown 24568 true true = true := by
  refine ⟨⟨by decide +kernel, by decide +kernel, by decide +kernel, by decide +kernel, by decide +kernel, by decide +kernel, by decide +kernel, ?_⟩,
    by decide +kernel, by decide +kernel, by decide +kernel, by decide +kernel⟩
  have h : ∀ w : Option Obj, w.all (fun o => !o.cr) = true → ∀ ob, w = some ob → ob.cr = false := by
    intro w h ob hw
    subst hw
    simpa using h
  exact h _ (by decide +kernel)

theorem witness_Stores :
    let o := sm 5 2 3 0 0 3 3
    let s := device (regs [(3, 4088)])
    let c := found hS s
    let pl := Place.dev 0 24568
    free hS s = true ∧ tagRoom hS s = true ∧ (memOffset c o.x o.off).toNat % 2 ^ o.w = 0 ∧
      capCheck c (c.getK o.k) (capHas (c.getK o.k) rWR) (memOffset c o.x o.off) (2 ^ o.w) = none ∧ c.accs = [] ∧
      place (issuing (.st hS o) true s) 0 0 (capOid (c.getK o.k)) (memOffset c o.x o.off).toNat (2 ^ o.w) = .ok pl ∧
      partAt (issuing (.st hS o) true s) 0 pl (2 ^ o.w) = none ∧ accessHold o true (here (.st hS o) s) (judged hS s) = false := by decide +kernel

theorem witness_TurnsKeepBytes : ∀ c, (State.reset.core c).part = [] := fun _ => rfl

theorem witness_PrefetchAndFlushes :
    let s := device (regs [(5, 4096)])
    let c := found hS s
    free hS s = true ∧ tagRoom hS s = true ∧ c.getS 0 = 0 ∧
      capCheck c (c.getK 2) (capHas (c.getK 2) rRD || capHas (c.getK 2) rWR) (memOffset c 0 0) (c.getS 5).toNat = none := by decide +kernel

theorem witness_Atomics :
    let o := sm 5 1 3 0 4 2 0
    let s := bench (fun c => regs [(3, 4092)] (spad c))
    let c := found hS s
    let i := Instr.amoAdd hS o
    free hS s = true ∧ tagRoom hS s = true ∧ o.w = 2 ∧ (memOffset c o.x o.off).toNat % 2 ^ o.w = 0 ∧
      capCheck c (c.getK o.k) (capHas (c.getK o.k) rAT) (memOffset c o.x o.off) (2 ^ o.w) = none ∧ capOid (c.getK o.k) = oidLocal ∧
      isSpad (capOid (c.getK o.k)) = true ∧ place (issuing i true s) 0 0 (capOid (c.getK o.k)) 4092 (2 ^ o.w) = .ok (.sram 0 4092) ∧
      badAt (issuing i true s) 0 (.sram 0 4092) (2 ^ o.w) = none := by decide +kernel

theorem witness_Atomics_device :
    let o := sm 5 2 3 0 4 3 3
    let s := device (regs [(3, 8)])
    let c := found hS s
    let i := Instr.amoAdd hS o
    free hS s = true ∧ capCheck c (c.getK o.k) (capHas (c.getK o.k) rAT) (memOffset c o.x o.off) (2 ^ o.w) = none ∧ c.accs = [] ∧
      (s.objOf c.part (capOid (c.getK o.k))).map (·.cr) = some false ∧
      place (issuing i true s) 0 0 (capOid (c.getK o.k)) 8 (2 ^ o.w) = .ok (.dev 0 20488) ∧
      badAt (issuing i true s) 0 (.dev 0 20488) (2 ^ o.w) = none := by decide +kernel

/-- A commutative range of i32 sums, and an access to it through a capability with CM. -/
theorem witness_Atomics_commutative :
    let o := sm 5 2 3 0 4 2 3
    let b := device (regs [(3, 8)])
    let ob : Obj := { part := 0, psz := 0, kind := 0, home := 0, cr := true, cfmt := 2, cop := 0, cblk := 0, len := 4096, ptbase := 8192, pages := [(0, { state := 1, die := 0, frame := 5 })], hdr := none }
    let s := b.setObj 2 (some ob)
    let c := found hS s
    free hS s = true ∧ o.w = 2 ∧ capHas (c.getK o.k) rCM = true ∧ isSpad (capOid (c.getK o.k)) = false ∧ s.objOf c.part (capOid (c.getK o.k)) = some ob ∧
      capCheck c (c.getK o.k) (capHas (c.getK o.k) rAT) (memOffset c o.x o.off) (2 ^ o.w) = none ∧ s.entryBad 0 (capOid (c.getK o.k)) = false ∧
      place (issuing (.amoAdd hS o) true s) 0 0 (capOid (c.getK o.k)) (memOffset c o.x o.off).toNat (2 ^ o.w) = .ok (.dev 0 20488) ∧
      accessHold o true (here (.amoAdd hS o) s) (judged hS s) = false ∧ (s.core 0).part = [] ∧ (s.die 0).tracked = [] := by decide +kernel

theorem witness_SystemReads :
    let s := bench id
    let t := bench sup
    free hS s = true ∧ tagRoom hS s = true ∧ free hS t = true ∧ tagRoom hS t = true ∧ (found hS t).sup = true := by decide +kernel

/-- Every index of sr.isel that the statement names an item for, or none, can be selected; a shadow set can be held. -/
theorem witness_SystemReads_items :
    let s (n : Nat) := bench (fun c => { sup c.openRegion with isel := .ofNat 64 (n + 2 ^ 16) })
    (∀ n ∈ [0, 127, 0x0BF, 0x0C7, 0x11F, 0x13F, 0x14F, 0x163, 0x16F, 0x19F, 0x27F, 0x33F, 0x340, 0x133F, 0x233F, 0x341, 0x3FFF],
      (found hS (s n)).isel.toNat % 2 ^ 14 = n ∧ (found hS (s n)).isel.getLsbD 16 = true) ∧
    free hS (s 0) = true ∧ (found hS (s 0)).sup = true ∧ ((s 0).core 0).ops = [] ∧ (found hS (s 0)).sh1.isSome = true ∧
    noItem 0x341 = true ∧ noItem 0x3FFF = true ∧ noItem 0x340 = false ∧ noItem 0x1300 = false := by decide +kernel

theorem witness_SystemWrites : free hS (bench sup) = true ∧ (found hS (bench sup)).sup = true := by decide +kernel

theorem witness_ModeFaults : (free hS (bench id) = true ∧ tagRoom hS (bench id) = true ∧ (found hS (bench id)).sup = false) ∧
    (free hS (bench sup) = true ∧ tagRoom hS (bench sup) = true ∧ (found hS (bench sup)).sup = true) := by decide +kernel

theorem witness_Misaligned :
    let s := bench (regs [(3, 1)])
    free hS s = true ∧ tagRoom hS s = true ∧ (memOffset (found hS s) 3 0).toNat % 2 ^ 1 ≠ 0 := by decide +kernel

/-- A running team 0 of task 0, whose one variant stands in object 1. -/
def task0 : Task :=
  { gen := 0, part := 0, a := 0, b := 0, pin := false, rng := true, prio := 0, dep := 0, home := none, cq := 0, nocq := false, lo := 0, hi := 100, grain := 8, tag := 0, vars := [(1, 0)], args := [5], caps := [], succ := [], st := .running, eligAt := 0, accOrd := 0, pref := none, holdSince := none, holdPosted := false, enqTime := 0, joules := 0, uncl := 0, cause := 0 }
def team0 : Team :=
  { task := 0, st := .running, x0 := 0, y0 := 0, variant := 0, oid := 1, prio := 0, rangeE := some (96, 100), launched := 0, outAt := 0, kept := [], bars := [], ringTail := 0, failed := none, extbase := 0 }
def teamed (s : State) : State := { s with tasks := [(0, some task0)], teams := [(0, some team0)] }

/-- The partition's supervisor code is object 1, entered at word 1. -/
def supCode (s : State) : State := s.updPart 0 (fun x => { x with supcfg := .ofNat 64 (1 + 2 ^ 24) })

theorem witness_TrapInstruction :
    (let s := supCode (bench id)
     let c := found hS s
     free hS s = true ∧ c.sup = false ∧ c.st = .ready ∧ c.win = false ∧ c.ypend = false ∧ c.accs = [] ∧ c.res = [] ∧ c.a.claims = [] ∧ c.a.pend = [] ∧
       c.gatedItems = [] ∧ (s.core 0).ops = [] ∧ hasSup s c.part = true) ∧
    (let s := teamed ((bench sup).updPart 0 (fun x => { x with evq := { cfg := 9 } }))
     free hS s = true ∧ (found hS s).sup = true ∧ evRoom s (s.part (found hS s).part).evq = true ∧ (s.part (found hS s).part).evq.dropped = 0 ∧
       s.team (found hS s).team = some team0 ∧ team0.failed = none) ∧
    (hS.inS = true ∧ ({ a := 0, b := 0, imm := 2 ^ 16 } : SI).inRange = true ∧ 2 ^ 16 ≤ 2 ^ 16) := by decide +kernel

/-- A supervisor context whose tile t1 is draining without an operation is refused; one without is not. -/
theorem witness_TrapReturn :
    let i := Instr.eret hS (r3 0 0 0)
    let u (s : State) := (issuing i false s).updCtx 0 0 (movedOn (pcOf s) none)
    let s := bench sup
    let t := bench (fun c => let c := sup (tiles c); { c with a := c.a.setTstate 1 3 })
    (free hS s = true ∧ (found hS s).sup = true ∧ eretRefused (u s) 0 0 = none) ∧
    (free hS t = true ∧ (found hS t).sup = true ∧ (eretRefused (u t) 0 0).isSome = true) := by decide +kernel

/-- An operation of the context on core 0, slot 0, as it stands behind the issue of `i`. -/
def opOf (i : Instr) (inb : Bool) : EOp :=
  { id := 5, slot := 0, ins := i, word := encode i, waddr := 1, sl := (headOf i).slot.num, inb := inb, copy := false, tiles := [], counts := [], rep := 0, k := 0, seq := 0, sup := false, tag := 0, predOff := false, gated := false }

def withOps (l : List EOp) (s : State) : State := s.updCore 0 (fun k => { k with ops := l })

/-- An operation of slot 0 with property `f` is in flight on core 0. -/
def hasOp (s : State) (f : EOp → Bool) : Bool := (s.core 0).ops.any (fun e => e.slot == 0 && f e)

theorem witness_EndAndOut :
    let s := withOps [opOf (.vadd (hd .V0 0) 1 (vt 3 1 2 0)) true] (bench id)
    let t := withOps [opOf (.cpSt (hd .C0 0) (cp 3 1 0 0)) false] (bench sup)
    (free hS s = true ∧ (found hS s).sup = false ∧ (found hS s).win = false ∧ hasOp s (·.inb) = true) ∧
    (free hS t = true ∧ (found hS t).sup = true ∧ inboundOf t 0 0 = 0 ∧ hasOp t (fun e => !e.inb) = true) := by decide +kernel

theorem witness_CounterReads : free hS (bench id) = true ∧ tagRoom hS (bench id) = true := by decide +kernel

def si (a b imm : Nat) : SI := { a := a, b := b, imm := imm }

theorem witness_Barriers :
    let s := bench (regs [(2, 65535), (3, 0), (4, 0x1000004)])
    (free hS s = true ∧ passes (.barArrive hS (si 5 0 1023)) s = true ∧ passes (.barAw hS (si 0 0 3)) s = true ∧ passes (.barQuery hS (si 5 0 3)) s = true) ∧
    (passes (.barWait hS (si 0 2 3)) s = true ∧ waitOver ((s.core 0).barrier 3).phases (((found hS s).getS 2).toNat % 2 ^ 16) = true) ∧
    (passes (.barWait hS (si 0 3 3)) s = true ∧ waitOver ((s.core 0).barrier 3).phases (((found hS s).getS 3).toNat % 2 ^ 16) = false) ∧
    passes (.barInit hS (si 0 3 3)) s = true := by decide +kernel

/-- A member of a team of two cores that is not at the subteam's origin. -/
theorem witness_Barriers_root :
    let s := { (bench id).setCtx 1 0 { (bench (regs [(4, 0x1000004)])).ctx 0 0 with ea := 1, tidx := 1 } with cur := (1, 0) }
    free hS s = true ∧ passes (.barInit hS (si 0 4 (3 + 1024))) s = true ∧ (found hS s).coreAt (bits 0x1000004 16 4) (bits 0x1000004 20 4) ≠ 1 := by decide +kernel

/-- A `bar.aw` that a yield has taken back, with and without its token, and a root that another team has claimed. -/
theorem witness_Barriers_saved :
    let s (t : Option Nat) := bench (fun c => { c with a := { c.a with aw := some (c.a.pc, 3, t) } })
    (∀ t ∈ [none, some 0, some 65535], passes (.barAw hS (si 0 0 3)) (s t) = true ∧ (found hS (s t)).a.aw = some (pcOf (s t), 3, t)) ∧
    (waitOver ((s none).core 0 |>.barrier 3).phases 0 = false ∧ waitOver ((s none).core 0 |>.barrier 3).phases 65535 = true) ∧
    (let r := { (bench id).setCtx 1 0 { (bench (regs [(4, 0x1000004)])).ctx 0 0 with ea := 1, tidx := 1 } with cur := (1, 0) }
     let b := r.updCore 0 (fun k => { k with bar := [(3, { team := some 9 })] })
     passes (.barInit hS (si 0 4 (3 + 1024))) b = true ∧ barBusy b 0 3 (found hS b).team = true ∧ barBusy r 0 3 (found hS r).team = false) := by decide +kernel

theorem witness_TasksAndMessages :
    let s := teamed (device (fun c => regs [(3, 0), (4, 4), (6, 1)] c))
    let q := bench (fun c => { c with q := [(0, [{ val := 42, src := 0, time := 0 }])] })
    (free hS s = true ∧ passes (.next hS (r3 0 0 0)) s = true ∧ passes (.enqt hS (r3 5 2 3)) s = true ∧ passes (.enqm hS (r3 5 3 4)) s = true) ∧
    (passes (.deqm hS (r3 2 5 3)) q = true ∧ (found hS q).playMsgs = [] ∧ (found hS q).queue 0 = [{ val := 42, src := 0, time := 0 }]) ∧
    (passes (.deqm hS (r3 2 5 4)) s = true ∧ (found hS s).playMsgs = [] ∧ (found hS s).queue 0 = [] ∧ bits ((found hS s).getS 4).toNat 2 1 = 1) ∧
    (passes (.deqm hS (r3 2 5 3)) s = true ∧ bits ((found hS s).getS 3).toNat 2 1 = 0) ∧
    passes (.cpjoin hS (si 0 0 1)) s = true ∧ passes (.widen hS (si 0 0 0)) s = true ∧ passes (.widen hS (si 0 0 4)) s = true ∧
    s.team (found hS s).team = some team0 ∧ s.task team0.task = some task0 := by decide +kernel

theorem witness_HeaderControl : free noHead (bench id) = true ∧
    (let c : Ctx := { a := { pend := [{ reg := 6, arg := 0x10001, left := 0, sup := false }] } }
     c.res = [] ∧ c.a.claims = [] ∧ c.a.pend = [{ reg := 6, arg := 0x10001, left := 0, sup := false }]) ∧
    ctlWrite (.rm (noAttr 0) 4) = some (5, 4) ∧ 1 ≠ 0 := by decide +kernel

/-- The bench's code object with a header of one tile, and tiles of the context. -/
def headed (f : Ctx → Ctx) : State :=
  let s := bench (fun c => f (tiles c))
  match s.obj 1 with
  | some o => s.setObj 1 (some { o with hdr := some { variants := [], tiles := [tile 0 1 1] } })
  | none => s

theorem witness_TileManagement :
    let s := headed id
    (free (hd .V0 0) s = true ∧ (s.objOf 0 1).isSome = true ∧ passes (.tdef (hd .V0 0) (vt 63 0 0 0)) s = true) ∧
    passes (.tshape (hd .V0 0) (vt 1 2 0 0)) s = true ∧ passes (.tview (hd .V0 0) { vt 1 0 0 0 with flags := 1 }) s = true ∧
    passes (.tstate (hd .V0 0) { vt 1 0 0 0 with flags := 2 }) s = true ∧ passes (.tstep (hd .V0 0) (vt 1 2 0 0)) s = true ∧
    passes (.tshape (hd .V0 0) { vt 1 2 0 0 with flags := 1 }) s = true ∧ passes (.tstep (hd .V0 0) { vt 1 2 0 0 with flags := 1 }) s = true := by decide +kernel

theorem witness_TileManagement_table :
    let s := headed id
    let c := found (hd .V0 0) s
    free (hd .V0 0) s = true ∧ (s.objOf c.part c.codeOid).any (fun o => o.hdr.any (fun d => decide (d.tiles.length ≤ 64) && decide (d.tiles.length ≤ 127))) = true ∧
      63 < 64 := by decide +kernel

theorem witness_VectorStarts :
    let s := bench (fun c => let c := tiles c; { c with a := (c.a.setDesc 4 (setFld (mkDesc 256 0 1 32 1 32 32 10) 118 2 2)).setDesc 5 (tile 320 1 1) })
    free (hd .V0 1) s = true ∧ passes (.vadd (hd .V0 1) 1 (vt 3 1 2 0)) s = true ∧ passes (.vtopk (hd .V0 0) 1 (vt 3 1 2 0)) s = true := by decide +kernel

theorem witness_VectorStarts_scale :
    let s := bench (fun c => let c := tiles c; { c with a := (c.a.setDesc 4 (setFld (mkDesc 256 0 1 16 1 16 32 20) 118 2 2)).setDesc 5 (tile 320 1 1) })
    free (hd .V0 1) s = true ∧ passes (.vquant (hd .V0 1) (vt 4 1 0 0)) s = true ∧ (vt 4 1 0 0).td < 63 ∧
      isBlock (dFmt ((found (hd .V0 1) s).a.desc 4)) = true := by decide +kernel

/-- Formats of f32 for A and weights, and bf16 tiles t4 and t5 beside the f32 ones. -/
def mats : State :=
  bench (fun c => let c := tiles c
    { c with a := { (c.a.setDesc 4 (setFld (mkDesc 256 0 1 16 1 16 32 2) 118 2 2)).setDesc 5 (setFld (mkDesc 320 0 2 16 2 16 32 2) 118 2 2) with fa := 0, fw := 0, fo := 0 } })

theorem witness_MatrixStarts :
    let s := mats
    let t := s.updCore 0 (fun k => { k with pl0 := { k.pl0 with loaded := true, owner := some 0, kk := 1, nn := 1, fmt := 0 } })
    let h := hd .M 1
    (free h s = true ∧ passes (.mloadw h (mt 0 1 0 0)) s = true ∧ passes (.mloadwt h (mt 0 1 0 1)) s = true) ∧
    passes (.mma h (mt 64 1 0 0)) t = true ∧ passes (.mzero h (mt 65 0 0 0)) s = true ∧ passes (.mdrain h (mt 3 64 0 0)) s = true ∧
    passes (.mscl h (mt 64 1 0 0)) s = true ∧ passes (.moutl h (mt 5 0 0 0)) s = true ∧ passes (.mstat h (mt 3 1 0 0)) s = true ∧
    passes (.mswap h (mt 0 0 0 0)) s = true ∧ passes (.mcbl h (mt 0 4 0 0)) s = true ∧ passes (.vcbl h (mt 0 1 0 0)) s = true ∧
    (List.range 16).all (fun j => !(tableEnv (.mcbl h (mt 0 4 0 0)) s).elemBad 4 0 j && !(tableEnv (.vcbl h (mt 0 1 0 0)) s).elemBad 1 0 j) = true := by decide +kernel

/-- Tiles, a capability to device memory in k2 and pattern entry 0. -/
def copies (f : Ctx → Ctx) : State :=
  device (fun c => let d := tiles c; f { d with a := { d.a with k := c.a.k }, pats := [(0, some 0)] })

theorem witness_CopyStarts :
    let s := copies (regs [(5, 64)])
    let h := hd .C0 1
    free h s = true ∧ passes (.cpLd h (cp 3 2 0 5)) s = true ∧ passes (.cpGath h (cp 3 2 0 5)) (copies (regs [(5, 1)])) = true ∧
    passes (.cpFill h (cp 3 0 0 5)) s = true ∧ passes (.cpSt h (cp 1 2 0 5)) s = true ∧ passes (.cpSt h (cp 64 2 0 5)) s = true ∧
    passes (.cpScat h (cp 1 2 0 5)) (copies (regs [(5, 2)])) = true ∧ passes (.cpSs h (cp 1 0 0 0)) s = true ∧
    passes (.cpBc h (cp 1 0 0 0)) s = true ∧ passes (.cpAcc h (cp 1 2 0 5)) s = true ∧ passes (.cpMm h (cp 2 2 0 5)) s = true ∧
    passes (.cpPf h (cp 0 2 0 5)) s = true := by decide +kernel

theorem witness_CopyControl :
    let s := copies (regs [(5, 2)])
    let h := hd .C0 1
    free h s = true ∧ passes (.cpPat h (cp 7 2 0 0)) s = true ∧ passes (.cpCancel h (cp 0 0 5 0)) s = true ∧
      (List.range 8).all (fun n => !(found h s).a.progValid n) = true := by decide +kernel

/-- A held outbound copy at engine entry 1, which `cp.res` names by 32 + 1. -/
theorem witness_CopyControl_resume :
    let y : EOp := { opOf (.cpSt (hd .C0 0) (cp 1 2 0 0)) false with copy := true, held := true, entry := 1, nrows := 1 }
    let s := withOps [y] (copies (fun c => sup (regs [(8, 33)] c)))
    let i := Instr.cpRes (hd .C0 0) (cp 0 0 8 0)
    free (hd .C0 0) s = true ∧ passes i s = true ∧ bits ((found (hd .C0 0) s).getS 8).toNat 5 1 = 1 ∧
      heldCopy (here i s) (judged (hd .C0 0) s) ((found (hd .C0 0) s).getS 8) = some y ∧
      (∀ k ∈ copyCaps y.ins, capValid s 0 ((found (hd .C0 0) s).a.k.get k 0) = true) := by decide +kernel

/-- The bundle of `addi s5, s5, 1` at the pc of the core's current context, and the header of a control op. -/
theorem witness_StepRunsDecoded :
    let i := Instr.addi hS (si 5 5 1)
    let j := Instr.rm (noAttr 0) 4
    let s := { codeBench [(soloAttr 0).put 0 0, encode i] id with agenda := [(0, .bundleIssue 0)] }
    let t := codeBench [encode j] id
    let c := (s.core 0).slot (s.core 0).cur
    (s.agenda = (0, .bundleIssue 0) :: [] ∧ s.now ≤ (forced s).1 ∧ s.power = .on ∧ rotates c = false ∧ wellFormed i = true ∧
      (slotParts i).isSome = true ∧ c.pcNow + 2 ≤ codeLen (fetched s 0) c.part c.codeOid ∧
      codeWord (fetched s 0) c.part c.codeOid c.pcNow = (soloAttr (headOf i).slot.num).put 0 0 ∧ codeWord (fetched s 0) c.part c.codeOid (c.pcNow + 1) = encode i) ∧
    ((ctlParts j).isSome = true ∧ wellFormed j = true ∧ c.pcNow + 1 ≤ codeLen (fetched t 0) 0 1 ∧ codeWord (fetched t 0) 0 1 0 = encode j) := by decide +kernel

theorem witness_BundleIssue :
    let s := bench id
    let k := s.core 0
    let u := (bench (fun c => { c with st := .waiting })).setCtx 0 2 { (bench id).ctx 0 0 with st := .ready }
    let w := bench (fun c => { c with st := .free })
    (slotParts (.nop hS (r3 0 0 0))).isSome = true ∧ (s.power = .on ∧ rotates (k.slot k.cur) = false) ∧
    (rotates ((u.core 0).slot (u.core 0).cur) = true ∧ choose (u.core 0) = some 2 ∧ trapDue ((u.core 0).slot 2) = false) ∧
    (rotates ((w.core 0).slot (w.core 0).cur) = true ∧ choose (w.core 0) = none) := by decide +kernel

/-- Bundles that fail a check: behind the object's end, a word without the header mark, a slot word of no opcode. -/
theorem witness_BundleIssue_traps :
    let ok (s : State) : Bool := let c := s.ctx 0 0
      canIssue c && !trapDue c && !(c.sup && c.faults.any (·.sup)) && !(atBoundary c).a.claimLate && !(atBoundary c).markDue && !rotates c
    let x := codeBench [0] (fun c => { c with a := { c.a with pc := 1 } })
    let y := codeBench [0] id
    let z := codeBench [(soloAttr 5).put 0 0, 5 * 2 ^ 77 + 1023 * 2 ^ 67] id
    (ok x = true ∧ codeLen x 0 1 ≤ (atBoundary (x.ctx 0 0)).pcNow) ∧
    (ok y = true ∧ 0 < codeLen y 0 1 ∧ decodeHeader (codeWord y 0 1 0) = .error .badHeader) ∧
    (ok z = true ∧ 2 ≤ codeLen z 0 1 ∧ codeWord z 0 1 0 = (soloAttr Slot.C1.num).put 0 0 ∧ decodeSlot .C1 (codeWord z 0 1 1) = .error .badOpcode) := by decide +kernel

theorem witness_ResultsLand :
    let r (d : Dst) (fixed : Bool) : Pend := { dst := d, val := 7, due := 5, seq := 3, tag := 2, fixed := fixed }
    let c (n : Nat) (d : Dst) (fixed : Bool) : Ctx := { iss := n, res := [r d fixed] }
    (∀ d ∈ [Dst.s 63, .p 7, .k 15, .h 7, .nothing, .s 0, .p 0], (c 5 d true).res = [r d true] ∧ (c 5 d true).a.pend = [] ∧ (c 5 d true).a.claims = []) ∧
    (r (.s 1) true).due ≤ 5 ∧ 4 < (r (.s 1) true).due ∧ (r (.s 1) true).tag ∈ waited { hS with w0 := 2 } ∧ waited { hS with pd := 1 } = [] ∧
    (r (.s 1) true).seq + 1 ≤ 4 ∧ Tab.get ([] : Tab Nat) 1 0 ≤ 3 := by decide +kernel

theorem witness_HoldsAndPredicates :
    let h : Head := { hS with pneg := 1 }
    let s := bench (fun c => c.allocTag 4)
    (h.pneg < 2 ∧ free { h with pneg := 1 - h.pneg } (bench id) = true ∧ tagRoom h (bench id) = true) ∧
    (let i := Instr.add { hS with w0 := 4 } (r3 1 2 3)
     let b := atBoundary (hand s)
     (slotParts i).isSome = true ∧ canIssue (hand s) = true ∧ trapDue (hand s) = false ∧ ((hand s).sup && (hand s).faults.any (·.sup)) = false ∧
       b.a.claimLate = false ∧ b.markDue = false ∧ (landTags b (waited (headOf i))).tagCount 4 ≠ 0 ∧ b.a.claims = []) := by decide +kernel

theorem witness_IssueFrame :
    let s := bench (fun c => regs [(3, 1), (4, 0xFF)] (spad c))
    let l : SL := { a := 5, imm := 1 }
    free hS s = true ∧ (registerOps hS { r3 5 3 4 with d := 1 } (si 5 3 6) l (jump (3 * 512) 1) (sm 2 1 3 0 0 0 0)).any (fun i => passes i s) = true ∧
      passes (.add hS (r3 5 3 4)) s = true ∧ passes (.br hS (jump 0 1)) s = true ∧ passes (.lea hS (sm 2 1 3 0 0 0 0)) s = true := by decide +kernel

theorem witness_DecodeEncode :
    let i := Instr.cpSt (hd .C1 31) { cp 71 15 63 63 with off := 16383, con := 1, pat := 1 }
    let j := Instr.seed { present := 63, sticky := 31, rep := 255, fix := 1, hw := 1, yld := 1 } 131071
    (wellFormed i = true ∧ (slotParts i).isSome = true ∧ decodeSlot .C1 (encode i) = .ok i) ∧
    (wellFormed j = true ∧ (ctlParts j).isSome = true ∧ (decodeHeader (encode j)).toBool = true) := by decide +kernel

theorem witness_StepKeepsMemoryForm :
    let s := State.reset.withFetchWord 80 0x00080000028A00000001
    memoryForm s = true ∧ (match step s with | .next _ => true | _ => false) = true := by decide +kernel

/-- A pending fault of code 0x42 of the operation `id`. -/
def fault (id : Nat) : PendFault := { code := 0x42, async := true, sup := false, tval := 64, tinst := 1, slot := 0, k := 0, seq := 0, id := id, tag := 0 }

theorem witness_TrapEntryVectors :
    let s := bench (fun c => { c with faults := [fault 3] })
    let y := bench (fun c => { c with ypend := true })
    let o := bench (fun c => { c.openRegion with faults := [fault 3] })
    ((s.ctx 0 0).st = .ready ∧ (s.ctx 0 0).sup = false ∧ clear (s.ctx 0 0) = true ∧ (s.core 0).ops = [] ∧ (s.ctx 0 0).faults = [fault 3] ∧ (fault 3).id < 2 ^ 64 ∧
      hasSup s 0 = false ∧ hasSup (supCode s) 0 = true ∧ (teamed s).team 0 = some team0 ∧ team0.failed = none) ∧
    ((y.ctx 0 0).st = .ready ∧ clear (y.ctx 0 0) = true ∧ (y.ctx 0 0).faults = [] ∧ (y.ctx 0 0).ypend = true ∧ hasSup (supCode y) 0 = true) ∧
    (trapDue (o.ctx 0 0) = true ∧ (o.ctx 0 0).fixOpen = true ∧ (o.ctx 0 0).win = false) := by decide +kernel

theorem witness_FormatWrites :
    let w (r : Nat) : PendFmt := { reg := r, arg := 0x1FFFF, left := 0, sup := false }
    let c (r : Nat) : Ctx := { a := { pend := [w r, { w r with left := 2 }] } }
    (∀ r, r < 10 → (c r).a.pend.filter (fun w => w.left == 0) = [w r]) ∧ ({} : Ctx).a.pend.filter (fun w => w.left == 0) = [] := by decide +kernel

theorem witness_ClaimsAndLandings :
    let x : Claim := { served := true, lo := 3, hi := 5, left := 0, h := 7, tag := 9, seq := 4 }
    let landing (c : Ctx) : Bool := !c.sup && stays c && (c.st == .ready && x.left == 0 || c.st == .waiting && c.wait == .claim x.tag)
    let s := bench (fun c => { c with a := { c.a with claims := [x] } })
    let w := bench (fun c => { c with st := .waiting, wait := .claim 9, a := { c.a with claims := [x] } })
    let y : Claim := { x with served := false }
    let n (p : List (Nat × Nat)) := teamed (bench (fun c => { c with playClaims := p, a := { c.a with claims := [y] } }))
    ((s.ctx 0 0).a.claims = [x] ∧ x.valid = true ∧ landing (s.ctx 0 0) = true ∧ landing (w.ctx 0 0) = true ∧ (s.ctx 0 0).a.lastw.get (88 + x.h) 0 ≤ x.seq) ∧
    ((∀ p ∈ [[], [(1, 2)]], ((n p).ctx 0 0).a.claims = [y] ∧ claimants (n p) = [(0, 0)] ∧ ((n p).ctx 0 0).playClaims = p) ∧
      (n []).team 0 = some team0 ∧ team0.rangeE = some (96, 100) ∧ (n []).task team0.task = some task0) ∧
    ({ n [] with teams := [(0, some { team0 with rangeE := none })] } : State).team 0 = some { team0 with rangeE := none } := by decide +kernel

theorem witness_WindowEnds :
    let s := bench (fun c => { ({ c with iss := 1 } : Ctx).openRegion with win := true, gatedItems := [.arrive 3 0 (.s 5) 2 false] })
    (s.ctx 0 0).win = true ∧ (s.ctx 0 0).markDue = false ∧ stays (s.ctx 0 0) = true ∧ (s.ctx 0 0).gatedItems = [.arrive 3 0 (.s 5) 2 false] ∧ 0 < (s.ctx 0 0).openSeq := by decide +kernel

theorem witness_AccessAnswers :
    let a : Acc := { id := 7, dst := .s 5, val := 9, minLat := 12, seq := 0, tag := 1, waddr := 1, off := 0, leaves := false, pcie := false, width := 8, sgn := true, fault := none, sl := 0, k := 0, sup := false }
    let s (x : Acc) := bench (fun c => { c with accs := [x] })
    (∀ x ∈ [a, { a with fault := some 0x35 }, { a with flush := true }, { a with pcie := true }, { a with pcie := true, width := 1 }],
      ((s x).ctx 0 0).accOf 7 = some x ∧ stays ((s x).ctx 0 0) = true) ∧ a.pcie = false ∧ a.flush = false ∧ 8 ∈ [1, 2, 4, 8] := by decide +kernel

/-- What `exec i s` leaves, or `s`. -/
def after (i : Instr) (s : State) : State :=
  match exec i s with
  | .next t => t
  | _ => s

/-- A vector addition of two rows under way on core 0. -/
def adding : State :=
  after (.vadd (hd .V0 3) 1 (vt 3 1 2 0)) (bench (fun c => let c := tiles c; { c with a := { c.a with t := [(1, tile 0 2 1), (2, tile 64 2 1), (3, tile 128 2 1)] } }))

theorem witness_EngineCompletes : ∃ o, (adding.core 0).ops = [o] ∧ adding.opAt 0 o.id = some o ∧
    (o.copy = false ∧ running adding 0 o = true ∧ engineReady adding 0 o = true ∧ o.left = [] ∧ o.unread = [] ∧ o.seen = [] ∧ o.rows + 1 < o.nrows ∧
      (vecRow { s := adding, core := 0, o := o } o.rows).any (fun r => rowBad { s := adding, core := 0, o := o } r == none) = true) ∧
    (let p := { o with rows := o.nrows }
     let s := withOps [p] adding
     s.opAt 0 p.id = some p ∧ running s 0 p = true ∧ engineReady s 0 p = true ∧ p.nrows ≤ p.rows ∧ stays (s.ctx 0 0) = true ∧ p.predOff = false ∧ p.tag ≠ 0 ∧
       3 ∈ p.written ∧ writerLeft (s.core 0).ops 0 p.id 3 (2 ^ 64) = false) ∧
    (let p := { o with stopping := true }
     (withOps [p] adding).opAt 0 p.id = some p ∧ p.stopping = true ∧ p.cancelTag = [] ∧ p.left = [] ∧ p.unread = [] ∧ p.outSource = none) ∧
    (let s := adding.updCtx 0 0 (fun c => { c with faults := [fault 3] })
     o.stopping = false ∧ o.inb = true ∧ trapDue (s.ctx 0 0) = true ∧ s.opAt 0 o.id = some o) := by
  refine ⟨(adding.core 0).ops.headD (opOf (.nop hS (r3 0 0 0)) true), ?_⟩
  decide +kernel

/-- A row of `mma` under way, for the clause of matrix rows. -/
theorem witness_EngineCompletes_matrix :
    let m := mats.updCore 0 (fun k => { k with pl0 := { k.pl0 with loaded := true, owner := some 0, kk := 1, nn := 1, fmt := 0 } })
    let s := after (.mma (hd .M 1) (mt 64 1 0 0)) (m.updCtx 0 0 (fun c => { c with a := c.a.setDesc 1 (tile 0 2 1) }))
    ((s.core 0).ops.map (fun o => o.gated)) = [true] ∧
    (let s := withOps ((s.core 0).ops.map (fun o => { o with gated := false })) s
     (s.core 0).ops.any (fun o => running s 0 o && engineReady s 0 o && decide (o.rows + 1 < o.nrows) && (vecRow { s := s, core := 0, o := o } o.rows).isNone &&
       (matRow { s := s, core := 0, o := o } o.rows).any (fun r => rowBad { s := s, core := 0, o := o } r == none)) = true) := by decide +kernel

/-- Copies on core 0: a fill behind its last row, a store behind its last row read, and a load whose capability is null. -/
theorem witness_CopiesComplete :
    let s := after (.cpFill (hd .C0 4) (cp 3 0 0 5)) (copies id)
    let t := after (.cpSt (hd .C0 4) { cp 1 2 0 0 with con := 1 }) (copies id)
    let u := after (.cpLd (hd .C0 4) (cp 3 7 0 0)) (copies id)
    let o (s : State) : EOp := (s.core 0).ops.headD (opOf (.nop hS (r3 0 0 0)) true)
    (let p : EOp := { o s with rows := (o s).nrows, cap := { (o s).cap with pat := some (2 ^ 16 + 5 * 2 ^ 17) } }
     (withOps [p] s).opAt 0 p.id = some p ∧ p.copy = true ∧ running (withOps [p] s) 0 p = true ∧ p.predOff = false ∧ p.left = [] ∧ p.unread = [] ∧ p.seen = [] ∧ p.nrows ≤ p.rows ∧ stays (s.ctx 0 0) = true ∧ p.tag ≠ 0 ∧
       3 ∈ p.written ∧ writerLeft [p] 0 p.id 3 (2 ^ 64) = false ∧ p.cap.pat.any (fun b => b.getLsbD 16) = true) ∧
    (let p : EOp := { o t with rows := (o t).nrows, gated := false }
     (withOps [p] t).opAt 0 p.id = some p ∧ p.copy = true ∧ running (withOps [p] t) 0 p = true ∧ p.predOff = false ∧ p.left = [] ∧ p.unread = [] ∧ p.seen = [] ∧ p.outSource = some (1, true) ∧ p.srcDone = false ∧ writerLeft [p] 0 p.id 1 (2 ^ 64) = false) ∧
    (let p := o u
     u.opAt 0 p.id = some p ∧ p.copy = true ∧ running u 0 p = true ∧ p.predOff = false ∧ p.left = [] ∧ p.unread = [] ∧ p.seen = [] ∧ p.rows < p.nrows ∧ (copyRow 0 p p.rows true (u, p.time)).2.toBool = false ∧
       (copyRow 0 p p.rows true (u, p.time)).1.1.opAt 0 p.id = some p ∧ (copyRow 0 p p.rows true (u, p.time)).1.1.team 0 = none) := by decide +kernel

/-- A copy of two rows with none moved yet, as `i` starts it on core 0, slot 0 of `s`, and the state in which it stands. -/
def twoRows (i : Instr) (s : State) : EOp :=
  { (((after i s).core 0).ops.headD (opOf i true)) with nrows := 2, rows := 0, gated := false }
def copying (i : Instr) (s : State) : State := withOps [twoRows i s] (after i s)

def isOk (x : Except Nat Side) : Bool := match x with
  | .ok _ => true
  | .error _ => false

/-- Rows of copies to and from device memory and of a fill, and rows by an index tile whose index is 0 or missing. -/
theorem witness_CopiesComplete_rows :
    let h := hd .C0 4
    let row (i : Instr) (t r : Nat) (y : Word) : Bool :=
      let s := copying i (copies (regs [(5, y)]))
      let o := twoRows i (copies (regs [(5, y)]))
      let c := s.ctx 0 0
      let d := o.cap.descs.get t 0
      s.opAt 0 o.id == some o && o.copy && running s 0 o && !o.predOff && o.left.isEmpty && o.unread.isEmpty && o.seen.isEmpty && decide (o.rows + 1 < o.nrows) &&
        rowBits d != 0 && (capCheck c (c.a.k.get 2 0) (capHas (c.a.k.get 2 0) r) o.cap.off (rowBytes d) == none) &&
        isOk (memSide s 0 0 (capOid (c.a.k.get 2 0)) o.cap.off.toNat (rowBytes d) 8) && isOk (tileSide s 0 0 t d 0)
    let index (s : State) (u : BitVec 128) : Option Nat := match viewSegs s 0 0 u (dBase u) 4 with
      | .ok l => indexOf (f32.val (ofBytes ((spots l).map (byteAt s)))) (2 ^ 24)
      | .error _ => none
    row (.cpLd h (cp 3 2 0 0)) 3 rRD 0 = true ∧ row (.cpSt h (cp 1 2 0 0)) 1 rWR 0 = true ∧ row (.cpFill h (cp 3 2 0 5)) 3 rWR 7 = true ∧
    row (.cpGath h (cp 3 2 0 5)) 3 rRD 1 = true ∧ row (.cpScat h (cp 1 2 0 5)) 1 rWR 2 = true ∧
    (let g := twoRows (.cpGath h (cp 3 2 0 5)) (copies (regs [(5, 1)]))
     let u := g.cap.descs.get (g.cap.yval.toNat % 64) 0
     dValid u 0 0 = true ∧ index (copies (regs [(5, 1)])) u = some 0) ∧
    (let g := twoRows (.cpGath h (cp 3 2 0 5)) (copies (regs [(5, 1)]))
     dValid (g.cap.descs.get 9 0) 0 0 = false) := by decide +kernel

/-- Two cores of one team, the context of core 0 with a capability to the remote window in k7. -/
def pushing : State :=
  let s := copies (regs [(3, 1)])
  let f (c : Ctx) (i : Nat) : Ctx :=
    { c with ea := 1, tidx := i, a := { c.a with k := (7, setFld (setFld (setFld 0 0 24 oidRemote) 24 8 0xFF) 80 48 (2 ^ 31)) :: c.a.k } }
  (s.updCtx 0 0 (fun c => f c 0)).setCtx 1 0 (f (s.ctx 0 0) 1)

/-- A row pushed to core 1, by `cp.ss` and by `cp.bc`. -/
theorem witness_CopiesComplete_push :
    ∀ i ∈ [Instr.cpSs (hd .C0 4) (cp 1 7 3 0), .cpBc (hd .C0 4) (cp 1 7 3 0)],
      let s := copying i pushing
      let o := twoRows i pushing
      let c := s.ctx 0 0
      let pieces := ((pushTargets c i o.cap.xval).filter (· != 0)).map (pushPieces c (o.cap.descs.get 1 0) 0)
      s.opAt 0 o.id = some o ∧ running s 0 o = true ∧ pieces = [[(8388608, 4)]] ∧ spadPlace s 0 0 oidRemote 8388608 4 = .ok (.sram 1 0) ∧
        capOid (c.a.k.get 7 0) = oidRemote ∧ capHas (c.a.k.get 7 0) rWR = true ∧
        capCheck c (c.a.k.get 7 0) true (.ofNat 64 8388608) 4 = none ∧ isOk (tileSide s 0 0 1 (o.cap.descs.get 1 0) 0) = true := by decide +kernel

/-- A patterned copy within device memory, a prefetch, and a row of `cp.acc` into a commutative range of f32 sums. -/
theorem witness_CopiesComplete_memory :
    let s := copies id
    let m := Instr.cpMm (hd .C0 4) { cp 2 2 0 5 with pat := 1 }
    let f := Instr.cpPf (hd .C0 4) (cp 0 2 0 5)
    let a := Instr.cpAcc (hd .C0 4) (cp 1 2 0 0)
    let ob : Obj := { part := 0, psz := 0, kind := 0, home := 0, cr := true, cfmt := 0, cop := 0, cblk := 0, len := 4096, ptbase := 8192, pages := [(0, { state := 1, die := 0, frame := 5 })], hdr := none }
    let z := copying a (s.setObj 2 (some ob))
    let c := s.ctx 0 0
    let all (off : Word) (n r : Nat) : Bool := capCheck c (c.a.k.get 2 0) (capHas (c.a.k.get 2 0) r) off n == none
    (strideSum 3 0 = 0 ∧ ((3 : BitVec 512).extractLsb' 0 16).toNat + 1 = 4 ∧ all 0 4 rRD = true ∧ all 0 4 rWR = true ∧
      isOk (memSide (copying m s) 0 0 2 0 4 8) = true) ∧
    ((twoRows f s).cap.pat = none ∧ (copyRow 0 (twoRows f s) 0 true (copying f s, 0)).2.toBool = true) ∧
    (let o := twoRows a (s.setObj 2 (some ob))
     let d := o.cap.descs.get 1 0
     let g := z.ctx 0 0
     z.opAt 0 o.id = some o ∧ rowBits d ≠ 0 ∧ capCheck g (g.a.k.get 2 0) (capHas (g.a.k.get 2 0) rCM) o.cap.off (rowBytes d) = none ∧ isSpad (capOid (g.a.k.get 2 0)) = false ∧
       z.entryBad 0 2 = false ∧ z.objOf g.part (capOid (g.a.k.get 2 0)) = some ob ∧ suits ob.cfmt d = true ∧ o.cap.off.toNat % cfmtBytes ob.cfmt = 0 ∧
       (match memSide z 0 0 2 o.cap.off.toNat (rowBytes d) 8 with
         | .ok (.segs l 8) => l.map (fun g => (g.pl, g.n)) == [(.dev 0 20480, 4)]
         | _ => false) = true ∧ (z.core 0).part = [] ∧ (z.die 0).tracked = [] ∧ cfmtBytes ob.cfmt * 0 < 4) := by decide +kernel

theorem witness_CopiesComplete_apart : (spots [{ pl := .dev 0 20480, n := 4, oid := 2, o := 0 }]).Nodup := by
  simp [spots, span, List.range_succ]

theorem witness_CopiesComplete_calm : Calm (copies id) := by
  refine ⟨fun d => ?_, fun c => ?_⟩
  · have h : (copies id).dies.all (fun e => e.2.bad == [] && e.2.tracked == []) = true := by decide +kernel
    have := Tab.all_get (fun x : Die => x.bad == [] && x.tracked == []) (k := d) (d := {}) h rfl
    simpa [State.die] using this
  · have h : (copies id).cores.all (fun e => e.2.bad == [] && e.2.l1Bad == [] && e.2.accBad == [] && e.2.part == []) = true := by decide +kernel
    have := Tab.all_get (fun x : Core => x.bad == [] && x.l1Bad == [] && x.accBad == [] && x.part == []) (k := c) (d := {}) h rfl
    simpa [State.core, and_assoc] using this

theorem witness_ElementRows :
    let e (i : Instr) (fmt : Nat) : Env :=
      { s := bench tiles, core := 0, o := { opOf i true with cap := { descs := [(1, setFld (tile 0 1 1) 89 5 fmt), (2, setFld (tile 64 1 1) 89 5 fmt), (3, setFld (tile 128 1 1) 89 5 fmt)] } } }
    let f := e (.vfma (hd .V0 0) 1 (vt 3 1 2 1)) 0
    let b := e (.vand (hd .V0 0) 5 (vt 3 1 2 0)) 9
    (f.o.cap.fv = 0 ∧ f.o.cap.rm = 0 ∧ f.o.ins = .vfma (hd .V0 0) 1 (vt 3 1 2 1) ∧ (∀ t ∈ [3, 1, 2, 1], dFmt (f.desc t) = 0)) ∧
    (b.o.cap.fv = 0 ∧ b.o.ins = .vand (hd .V0 0) 5 (vt 3 1 2 0) ∧ ∀ t ∈ [3, 1, 2], dFmt (b.desc t) = 9) := by decide +kernel

/-- What else the element clauses ask: formats of the conversions, of the quantised tile, and an index of `vscat`. -/
theorem witness_ElementRows_forms :
    let e (i : Instr) (l : List (Nat × Nat)) : Env :=
      { s := bench tiles, core := 0, o := { opOf i true with cap := { descs := l.map (fun x => (x.1, setFld (tile (64 * x.1) 1 1) 89 5 x.2)) } } }
    (∀ f ∈ [0, 2, 3], dFmt ((e (.vcvt (hd .V0 0) (vt 3 1 0 0)) [(3, f), (1, f)]).desc 3) = f) ∧
    (let q := e (.vquant (hd .V0 0) (vt 3 1 0 0)) [(3, 25), (1, 0)]
     dFmt (q.desc 3) = 25 ∧ dFmt (q.desc 1) = 0 ∧ (vt 3 1 0 0).td < 63) ∧
    (let g := e (.vscat (hd .V0 0) (vt 3 1 2 0)) [(3, 0), (1, 0), (2, 0)]
     (∀ t ∈ [3, 1, 2], dFmt (g.desc t) = 0) ∧ (g.code 2 0 0) = some 0 ∧ (XVal.int? (f32.val 0)) = some 0 ∧ dVRows (g.desc 3) = 1) ∧
    (0 : Nat) ≤ 1 ∧ ({ vt 3 1 2 0 with flags := 5 } : VT).flags % 8 < 6 := by decide +kernel

theorem witness_MmaRow :
    let e (fmt : Nat) : Env :=
      { s := bench tiles, core := 0, o := { opOf (.mma (hd .M 0) (mt 64 1 1 0)) true with cap := { fa := .ofNat 18 fmt, descs := [(1, setFld (tile 0 1 1) 89 5 fmt)], pk := 33, pn := 2, pfmt := fmt } } }
    ∀ fmt ∈ [0, 1, 2, 3], (e fmt).o.ins = .mma (hd .M 0) (mt 64 1 1 0) ∧ (e fmt).o.cap.fa.toNat < 4 ∧ dFmt ((e fmt).desc 1) = (e fmt).o.cap.fa.toNat ∧
      ((e fmt).o.cap.fa.toNat ≤ 1 ∨ 2 ≤ (e fmt).o.cap.pfmt ∧ (e fmt).o.cap.pblk = 0) := by decide +kernel

theorem witness_MmaRow_forms :
    let e (i : Instr) : Env :=
      { s := bench tiles, core := 0, o := { opOf i true with cap := { descs := [(3, tile 0 2 1), (1, tile 64 2 1)], plane := 1 } } }
    let d := e (.mdrain (hd .M 0) (mt 3 64 1 0))
    let w := e (.mloadw (hd .M 0) (mt 0 1 0 1))
    (dFmt (d.desc 3) = 0 ∧ d.o.cap.fo = 0 ∧ d.o.cap.rm = 0 ∧ 0 < dVCols (d.desc 3)) ∧
    (w.o.cap.fw.toNat < 4 ∧ dFmt (w.desc 1) = w.o.cap.fw.toNat ∧ dVCols (w.desc 1) ≤ 64) ∧ (e (.mstat (hd .M 0) (mt 3 1 0 0))).o.cap.plane < 2 ∧
    (e (.mzero (hd .M 0) (mt 64 0 0 0))).o.ins = .mzero (hd .M 0) (mt 64 0 0 0) := by decide +kernel

theorem witness_Rollbacks :
    let s := bench (fun c => { c.openRegion with markDue := false })
    let w := bench (fun c => { (c.openRegion).closeRegion with markDue := false })
    let c := s.ctx 0 0
    (c.st = .ready ∧ c.sup = false ∧ c.win = false ∧ c.fixOpen = true ∧ (c.shadow c.fixCur).isSome = true) ∧
    ((w.ctx 0 0).win = true ∧ ((w.ctx 0 0).shadow (w.ctx 0 0).closedSet).isSome = true) ∧
    ((s.coresOf 0).flatMap (fun k => (s.core k).resident.map (fun j => (k, j))) = [(0, 0)]) ∧ (s.core 0).ops = [] ∧
    (let x (n : Nat) := bench (fun c => { ({ c with iss := 1 } : Ctx).openRegion with st := .waiting, waitSeq := n })
     let e := bench (fun c => { c.openRegion with st := .ending })
     (∀ n ∈ [0, 1], ((x n).ctx 0 0).st = .waiting ∧ ((x n).ctx 0 0).waitSeq = n ∧ (((x n).ctx 0 0).shadow ((x n).ctx 0 0).fixCur).map (·.seq) = some 1) ∧
       (e.ctx 0 0).st = .ending ∧ ((e.ctx 0 0).shadow (e.ctx 0 0).fixCur).isSome = true) := by decide +kernel

theorem witness_CoherenceEvents :
    let b : Block := { die := 0, frame := 0, a := 0, b := 3, ty := 0, dirty := 1, wts := 4, lease := 9, part := 0 }
    let s := bench id
    let t (b : Block) := s.updCore 0 (fun k => { k with l1size := 4, l1 := [b] })
    ((s.die 0).tracked = [] ∧ (s.core 0).l1size = 0 ∧ ((s.die 0).times 0).2.2 = 0) ∧
    (∀ y ∈ [b, { b with ty := 2 }], ((t y).core 0).l1size ≠ 0 ∧ ((t y).core 0).l1.find? (fun b => b.has 0 (64 / 512) (64 / 32 % 16)) = some y) ∧ ({ b with ty := 2 } : Block).leased ((t b).ctx 0 0).time ((t b).ctx 0 0).party = true ∧
    ((t b).core 0).l1.filter (fun b => b.ty == 0 && b.has 0 (64 / 512) (64 / 32 % 16)) = [b] ∧ ((s.die 0).l2.all (fun b => b.frame != 0)) = true ∧
    (let v := (s.updCore 0 (fun k => { k with victim := [b] })).setTimes 0 0 (4, 9, 1)
     (v.core 0).victim = b :: [] ∧ 0 ∈ b.dirtyWords ∧ ((v.die 0).times 0).2.2 = 0 + 1 ∧ (v.core 0).l1 = []) := by decide +kernel

theorem witness_MemoryErrors :
    let s := State.reset.updDie 3 (fun d => { d with bad := [2] })
    let e : LogEntry := { code := 0x44, corr := true, store := 4, part := some 1, core := none, addr := 64, count := 1, tfirst := 0, tlast := 0 }
    let b (dirty : Nat) : Block := { die := 3, frame := 1, a := 0, b := 3, ty := 0, dirty := dirty, wts := 0, lease := 0 }
    let home (dirty : Nat) := State.reset.updDie 3 (fun d => { d with l2 := [b dirty] })
    let l1 (dirty : Nat) := State.reset.updCore 255 (fun k => { k with l1size := 1, l1 := [b dirty] })
    let acc : Env := { s := bench (fun c => { tiles c with a := { (tiles c).a with t := [(65, tile 0 2 3)] } }), core := 0, o := opOf (.nop hS (r3 0 0 0)) true }
    let t := (State.reset.updDie 3 (fun d => { d with log := [(255, some e)] })).updPart 1 (fun x => { x with pset := 1 })
    ((s.die 3).log = [] ∧ (s.die 3).corrAt = none ∧ 95 / 32 ∈ (s.die 3).bad ∧ 96 / 32 ∉ (s.die 3).bad ∧ dieOf 255 = 3) ∧
    (((home 2).die 3).l2.find? (·.has 3 (17 / 16) (17 % 16)) = some (b 2) ∧ (b 2).dirty.testBit (17 % 16) = true ∧ ((home 0).die 3).l2.find? (·.has 3 (17 / 16) (17 % 16)) = some (b 0) ∧
      (b 0).dirty.testBit (17 % 16) = false ∧ 17 ∉ ((home 0).die 3).bad) ∧
    (dirtyHere (l1 2) 255 3 (32 * 17) = true ∧ dirtyIn ((l1 0).core 255) 3 17 = false ∧ ((l1 0).core 255).part = [] ∧ cleanIn ((l1 0).core 255) 3 17 = true ∧
      dirtyHere State.reset 0 3 (32 * 17) = false) ∧
    (2 ∉ (s.die 3).badL2 ∧ 2 ∈ ((s.updDie 3 (fun d => { d with badL2 := [2] })).die 3).badL2) ∧
    (dValid (acc.desc (64 + 1)) 1 2 = true ∧ acc.o.slot = 0) ∧
    ((t.die 3).log.get 255 none = some e ∧ reachesPf t = true ∧ reachesVf t 1 = true ∧ e.part = some 1 ∧
      reachesVf (t.updPart 2 (fun x => { x with pset := 1 })) 2 = true ∧ e.part ≠ some 2) := by decide +kernel

/-- An event reaches the package queue first: the queue is enabled and empty. -/
def eventful (s : State) : State := { s with evq := { cfg := 9 } }

theorem witness_events : evRoom (eventful State.reset) (eventful State.reset).evq = true ∧ (eventful State.reset).evq.dropped = 0 := by decide +kernel

/-- Partition 0 is enabled, with apertures on object 2 at BAR2 offset 0. -/
def hosted : State := (device id).updPart 0 (fun x => { x with pset := 1 + 2 * 5, pmem := 64, aper := [(0, 3 + 4 * 2 + 12 * 2 ^ 26)] })

theorem witness_HostTraffic :
    let s := { hosted with epl := [(7, { up := true })] }
    let w : Ingress := { part := 0, at' := 0, addr := 64, off := 0, data := [1, 2, 3] }
    let full := s.updDie 0 (fun d => { d with ingress := List.replicate 1 { w with data := [] } })
    let t := { (State.reset.updDie 0 (fun d => { d with ingress := [w], withheld := some 5 })) with now := 1000005 }
    (s.posted = [] ∧ ([1, 2] : List Byte) ≠ [] ∧ 4094 % 4096 + 2 ≤ 4096 ∧ barPlace s 0 4094 2 true = some (0, 5 * 4096 + 4094) ∧ reachesVf s 0 = true ∧
      (s.linkOf 7).up = true ∧ s.running = true ∧ (s.part 0).pset.getLsbD 0 = true ∧ ingressRoom (s.die 0) = true ∧ ingressRoom (full.die 0) = true) ∧
    barPlace s 0 4096 2 true = none ∧ barPlace s 0 4094 2 false = some (0, 5 * 4096 + 4094) ∧ (s.die 0).tracked = [] ∧ (s.die 0).bad = [] ∧
    (inBar2 s 0 4094 2 = true ∧ inBar2 s 0 4096 2 = true) ∧ (reachesPf s = true ∧ (s.part 1).pset.getLsbD 0 = false) ∧
    ((t.die 0).ingress = [w] ∧ (t.part 0).wincfg.toNat % 2 ^ 16 ≠ 0 ∧ w.at' + 1000 * ((t.part 0).wincfg.toNat % 2 ^ 16) ≤ t.now ∧ t.posted = []) ∧
    ({ t with now := 99999 } : State).now < w.at' + 1000 * ((t.part 0).wincfg.toNat % 2 ^ 16) ∧
    ((t.die 0).withheld = some 5 ∧ 5 + 1000000 ≤ t.now ∧ (t.die 0).ovfPosted = false) := by decide +kernel

/-- A buffer without room, and partitions without submission queues. -/
theorem witness_HostTraffic_full :
    ingressRoom { ingress := [{ part := 0, at' := 0, addr := 0, off := 0, data := List.replicate Config.ingressBytes 0 }] } = false ∧
      ∀ p q, ringOn ((State.reset.part p).queueOf q).sqcfg = false := by
  refine ⟨?_, fun _ _ => ?_⟩
  · unfold ingressRoom
    simp only [List.map_cons, List.map_nil, List.foldl_cons, List.foldl_nil, List.length_replicate]
    decide +kernel
  · show ringOn 0 = false
    decide

theorem witness_HostTraffic_caches : ∀ c, (hosted.core c).l1Bad = [] := by
  intro c
  have h : hosted.cores.all (fun e => e.2.l1Bad == []) = true := by decide +kernel
  have := Tab.all_get (fun x : Core => x.l1Bad == []) (k := c) (d := {}) h rfl
  exact eq_of_beq this

theorem witness_GovernorEvents :
    let s := State.reset.updIsland 47 (fun x => { x with stepTo := some 55, stepEnd := 50 })
    let t := { State.reset with now := 50000000, active := 28800000000000 }
    (s.power = .on ∧ (s.island 47).stepTo = some 55 ∧ s.now < (s.island 47).stepEnd ∧ ({ s with now := 50 } : State).now = (s.island 47).stepEnd) ∧
    ((t.island 47).overdue = false ∧ (t.island 47).calAt + 28800000000000 ≤ t.active) ∧
    (let g : Strips := { cur := 9, due := 100000, atTop := true, gone := [] }
     let run (g : Strips) := t.updIsland 0 (fun x => { x with strips := some g })
     let p := t.phys 0
     let bad (g : Strips) (fails : List Nat) := (stripCores (run g) 0).filter (fun p => fails.contains p && !g.gone.contains p)
     ((t.island 0).strips = none ∧ stripsMayRun t 0 = true ∧ p ∈ stripCores t 0 ∧ (t.wearOf p).cstate ≠ 3) ∧
     (∀ x ∈ [g, { g with cur := 0 }, { g with atTop := false }], ((run x).island 0).strips = some x ∧ x.due ≤ t.now ∧ bad x [] = [] ∧ bad x [p] ≠ []) ∧
     p ∉ g.gone ∧ g.cur + 5 ≤ (t.island 0).vmax ∧ ({ t with now := 0 } : State).now < g.due) ∧
    ((t.updIsland 3 (fun x => { x with waking := true })).island 3).waking = true := by decide +kernel

theorem witness_VfRegisters :
    let s := { hosted with tasks := [(5, some { task0 with st := .waiting })] }
    let sq : Word := .ofNat 64 (1 + 2 * 4 + 2 * 2 ^ 8)
    (reachesVf s 0 = true ∧ sq.toNat / 2 ^ 6 % 4 = 0 ∧ sq.toNat / 2 ^ 32 = 0 ∧ ownDevice s 0 (sq.toNat / 2 ^ 8 % 2 ^ 24) = true) ∧
    ((1#64).getLsbD 0 = true ∧ ownDevice s 0 ((1#64).toNat / 2 ^ 8 % 2 ^ 24) = false) ∧
    aperOk s 0 (.ofNat 64 (3 + 4 * 2 + 41 * 2 ^ 26)) = true ∧
    ((s.updPart 0 (fun x => { x with saveWait := some 2 })).part 0).saveWait = some 2 ∧ literalOk s 0 (setFld 2 80 48 4096) = true ∧ literalOk s 0 (setFld 2 80 48 4097) = false ∧
    s.byHandle 0 5 = some (5, { task0 with st := .waiting }) ∧ task0.nocq = false ∧
    ((3#64).toNat < 2 ^ 56 ∧ s.objOf 0 3 = none ∧ (s.objOf 0 2).isSome = true) := by decide +kernel

theorem witness_PfRegisters :
    let s := hosted
    let n := 7200 + 10000 * 2 ^ 16 + 115 * 2 ^ 32
    reachesPf s = true ∧ (n % 2 ^ 16 ≤ 7200 ∧ n / 2 ^ 16 % 2 ^ 16 ≤ 10000 ∧ 1004 * (n % 2 ^ 16) ≤ 1000 * (n / 2 ^ 16 % 2 ^ 16) ∧ n / 2 ^ 32 % 2 ^ 8 ≤ 115) ∧
      ((65527#64).toNat / 2 ^ 30 = 0 ∧ (65527#64).getLsbD 0 = true ∧ 65527 / 2 % 2 ^ 16 + shareSum s 1 1 16 ≤ 32768 ∧ 65527 / 2 ^ 17 % 2 ^ 13 + shareSum s 1 17 13 ≤ 4096 ∧
        32768 < 65529 / 2 % 2 ^ 16 + shareSum s 1 1 16) ∧
      rectOf (.ofNat 64 (1 + 8 * 2 + 3 * 2 ^ 9)) = some (8, 0, 3, 0) ∧ rectOk s 7 7 (8, 0, 3, 0) = true := by decide +kernel

/-- Where no frame of a die is in use, frames are found. -/
theorem findFrames_empty (s : State) (die n : Nat) (h : (s.die die).frames = []) (hn : n ≤ s.order.dieFrames) :
    (findFrames s die n).isSome = true := by
  unfold findFrames
  rw [List.find?_isSome]
  exact ⟨0, by simp, by simp [Die.isFree, h, hn]⟩

/-- Partition 0 with an object command in its mailbox. -/
def commanded (w0 w1 w2 w3 : Word) (s : State) : State :=
  s.updPart 0 (fun x => { x with objbusy := true, objrun := [(0, w0), (1, w1), (2, w2), (3, w3)], pmem := 64 })

theorem witness_ObjectsAndQuiescePoints :
    let s := commanded (.ofNat 64 (1 + 9 * 16)) 0 8192 0 (device id)
    let bad := commanded 1 0 8192 0 (device id)
    let dup := commanded (.ofNat 64 (1 + 2 * 16)) 0 8192 0 (device id)
    let rm (op : Nat) := commanded (.ofNat 64 (op + 2 * 16)) 0 0 5 (device id)
    let gone := commanded (.ofNat 64 (3 + 9 * 16)) 0 0 5 (device id)
    ((s.part 0).objbusy = true ∧ ((s.part 0).cmd 0).toNat % 16 = 1 ∧ installBad (s.part 0) = false ∧ installBad (bad.part 0) = true ∧
      (dup.obj (cmdOid (dup.part 0))).isSome = true ∧ s.obj (cmdOid (s.part 0)) = none ∧ ((s.part 0).cmd 1).getLsbD 13 = false ∧ s.objs.length < 65536 ∧
      inShare s 0 (tableFrames (pageCount (installObj (s.part 0) 0 0 none))) = true ∧ (s.die 0).frames = [] ∧
      tableFrames (pageCount (installObj (s.part 0) 0 0 none)) = 1 ∧ (installObj (s.part 0) 0 0 none).home = 0) ∧
    (∀ op ∈ [2, 3, 4], commandsOf (rm op) op = [0] ∧ (((rm op).part 0).cmd 0).toNat / 2 ^ 28 = 0 ∧ (((rm op).part 0).cmd 0).toNat % 16 = op ∧
      ((rm op).objOf 0 (cmdOid ((rm op).part 0))).any (fun o => decide ((((rm op).part 0).cmd 2).toNat < pageCount o)) = true) ∧
    (commandsOf gone 3 = [0] ∧ gone.objOf 0 (cmdOid (gone.part 0)) = none) := by decide +kernel

theorem witness_ObjectsAndQuiescePoints_frames :
    ∃ f, findFrames (commanded (.ofNat 64 (1 + 9 * 16)) 0 8192 0 (device id)) 0 1 = some f :=
  Option.isSome_iff_exists.mp (findFrames_empty _ 0 1 (by decide +kernel) (by decide +kernel))

theorem witness_ObjectsAndQuiescePoints_points :
    let q (w : QuiWork) : Quiesce := { cores := [], since := 0, work := w }
    let s (w : QuiWork) : State := { (device (fun c => { c with st := .free, a := {} })).updPart 0 (fun x => { x with pmem := 64 }) with quiesce := [q w] }
    let n := s (.move 2 0 1)
    (∀ w ∈ [QuiWork.object 0 2 2 0 0, .object 0 3 2 0 7, .bringIn 0 2 0], (s w).quiesce = [q w] ∧ hasFallen (s w) (q w) = true ∧ ((s w).obj 2).isSome = true) ∧
    (∀ o, (s (.bringIn 0 2 0)).objOf 0 2 = some o → (o.pages.get 1 {}).state = 0 ∧ inShare (s (.bringIn 0 2 0)) 0 (pageFrames o.psz) = true) ∧
    ((s (.bringIn 0 2 0)).part 0).pgrq = 0 ∧ ((s (.bringIn 0 2 0)).die 0).frames = [] ∧
    (∀ e, e < 4 → ((n.updDie 2 (fun d => { d with notif := [(2, 0, 1, 5)] })).die e).notif = if e = 2 then [(2, 0, 1, 5)] else []) := by
  refine ⟨by decide +kernel, ?_, by decide +kernel, by decide +kernel, by decide +kernel⟩
  intro o ho
  have h : ∀ w : Option Obj, w = some o → w.all (fun o => (o.pages.get 1 {}).state == 0 && inShare ({ (device (fun c => { c with st := .free, a := {} })).updPart 0 (fun x => { x with pmem := 64 }) with quiesce := [{ cores := [], since := 0, work := .bringIn 0 2 0 }] }) 0 (pageFrames o.psz)) = true →
      (o.pages.get 1 {}).state = 0 ∧ inShare ({ (device (fun c => { c with st := .free, a := {} })).updPart 0 (fun x => { x with pmem := 64 }) with quiesce := [{ cores := [], since := 0, work := .bringIn 0 2 0 }] }) 0 (pageFrames o.psz) = true := by
    intro w hw h
    subst hw
    simpa using h
  exact h _ ho (by decide +kernel)

/-- A running team of one context, in the way of a move past the limit. -/
theorem witness_ObjectsAndQuiescePoints_limit :
    let q : Quiesce := { cores := [0], since := 0, work := .column 0 0 }
    let s := { teamed (bench id) with quiesce := [q], now := 20000000 }
    s.teamCtxs 0 = [(0, 0)] ∧ (s.ctx 0 0).st = .ready ∧ s.quiesce = [q] ∧ (holdersOf s q).filter (limitOver s q) = [0] := by decide +kernel

theorem witness_LinksAndAttestation :
    let s (r : Nat) := { State.reset with epl := [(7, { up := true, run := r, cnt := 2000 })] }
    let t := { State.reset with epl := [(7, { map := 1 })] }
    (((s 14).linkOf 7).up = true ∧ ((s 14).linkOf 7).run + 1 < 16 ∧ 16 ≤ ((s 15).linkOf 7).run + 1 ∧ ((s 15).linkOf 7).downPosted = false ∧ 1024 < ((s 0).linkOf 7).cnt) ∧
    ((t.linkOf 7).up = false ∧ (t.linkOf 7).map.getLsbD 0 = true ∧ t.running = true ∧ (t.linkOf 7).tried = 0) ∧
    (let w (now : Nat) : State := { t with now := now, epl := [(7, { map := 1, tried := 5, winAt := 5 })] }
     ((w 100000005).linkOf 7).tried + 100000000 ≤ (w 100000005).now ∧ ((w 6).linkOf 7).tried ≠ 0 ∧ (w 6).now < ((w 6).linkOf 7).tried + 100000000 ∧
       ((w 1000000005).linkOf 7).winAt + 1000000000 ≤ (w 1000000005).now ∧ (w 6).now < ((w 6).linkOf 7).winAt + 1000000000) ∧
    (State.reset.linkUp = true ∧ State.reset.power = .on ∧ ringOn (eventful State.reset).evq.cfg = true ∧ State.reset.nor.idOk = true ∧
      ({ State.reset.nor with idOk := false } : Nor).idOk = false) := by decide +kernel

theorem witness_PowerStates :
    let s := State.reset
    let bad : Nor := { slotA := { ok2 := false }, slotB := { ok1 := false } }
    (({ s with power := .off } : State).power = .off ∧ s.nor.slotA.passes = true ∧ bad.slotA.passes = false ∧ bad.slotB.passes = false ∧
      ({ s.nor with slotA := { ok1 := false } } : Nor).slotB.passes = true ∧ s.nor.idOk = true ∧ (loadRecord s.nor).2 = false) ∧
    (s.bootstat.toNat / 2 ^ 6 % 2 ^ 7 ≠ 0x7C) ∧
    (s.power = .on ∧ ({ s with now := 600000000000 } : State).recAt + 600000000000 ≤ 600000000000 ∧ anyResident (bench id) = true ∧ anyResident s = false) ∧
    (s.tj + 10 ≤ ((s.updIsland 47 (fun x => { x with temp := 200 })).island 47).temp ∧ ({ s with trip := some 0 } : State).trip = some 0 ∧ 0 + 100000000 ≤ 100000000) ∧
    ({ s with power := .retain } : State).power = .retain := by decide +kernel

/-- A task that fits one core, its code object, and a partition of one core. -/
def dispatchable : State :=
  let v : Variant := { entry := 0, spad := 4096, l1 := 0, acc := 0, energy := 0, cview := false }
  let s := State.reset.setObj 1 (some { part := 0, psz := 0, kind := 0, home := 0, cr := false, cfmt := 0, cop := 0, cblk := 0, len := 4096, ptbase := 4096, pages := [(0, { state := 1 })], hdr := some { variants := [v], tiles := [] } })
  { s.updPart 0 (fun x => { x with pset := 3, prect := [(0, 1)] }) with tasks := [(0, some { task0 with rng := false, st := .eligible })] }

theorem witness_DispatcherEvents :
    let s := dispatchable
    let u := passStart s
    let k : Task := { task0 with rng := false, st := .eligible }
    let v : Variant := { entry := 0, spad := 4096, l1 := 0, acc := 0, energy := 0, cview := false }
    let w : Want := { id := 0, task := k, v := v, oid := 1, back := none }
    (s.power = .on ∧ s.teams = [] ∧ (candidates u).map (fun c => (c.team, c.task, decide (s.now < c.time + 2000000))) = [(none, 0, true)] ∧ s.task 0 = some k ∧
      k.vars.length = 1 ∧ taskVariant u k 0 = some (v, 1)) ∧
    firstRect u w true (fun o => qualifies u w o.1 o.2) = some (0, 0) ∧ energyShort u w [0] = [] ∧ baseOn u [0] v = some 0 ∧ (u.island (u.islandOf 0)).retention = false := by decide +kernel

theorem witness_DispatcherEvents_resv : ∀ p, (dispatchable.part p).resv = none := by
  intro p
  have h : (dispatchable.parts).all (fun e => e.2.resv == none) = true := by decide +kernel
  have := Tab.all_get (fun x : Part => x.resv == none) (k := p) (d := {}) h rfl
  exact eq_of_beq this

theorem witness_DispatcherEvents_teams :
    let ld := { teamed (bench (fun c => { c with st := .loading })) with teams := [(0, some { team0 with st := .loading })] }
    let dn := (teamed (bench (fun c => { c with st := .ended }))).updPart 0 (fun x => { x with pset := 1 })
    (ld.teams = [(0, some { team0 with st := .loading })] ∧ team0.kept = []) ∧
    (teamDone dn 0 team0 = true ∧ dn.task team0.task = some task0 ∧ task0.nocq = false ∧ (dn.part task0.part).pset.getLsbD 0 = true) ∧
    (let k : Task := { task0 with st := .eligible, holdSince := some 0 }
     let s : State := { State.reset with now := 1000000, tasks := [(0, some k)] }
     s.task 0 = some k ∧ k.holdPosted = false ∧ s.tasks.filter (fun e => e.2.any (holdDue s)) = [(0, some k)]) := by decide +kernel

theorem witness_DispatcherEvents_rings :
    let q (e : BitVec 256) (i : Option Nat) : Queue := { cqcfg := 9, waiting := [(e, i)] }
    let s (e : BitVec 256) (i : Option Nat) := State.reset.updPart 2 (fun x => { x with pset := 1, qs := [(3, q e i)] })
    (ringsReady (s (2 ^ 40) none) true = [(2, 3)] ∧ (((s (2 ^ 40) none).part 2).queueOf 3).waiting = [(2 ^ 40, none)] ∧ (2 ^ 40 : BitVec 256).getLsbD 40 = true) ∧
    (ringsReady (s 7 (some 5)) false = [(2, 3)] ∧ (((s 7 (some 5)).part 2).queueOf 3).waiting = [(7, some 5)] ∧ (7 : BitVec 256).getLsbD 40 = false) := by decide +kernel

theorem witness_BarrierAndMessageEvents :
    let a : Arrival := { core := 0, n := 5, from' := 0, slot := 0, team := 0, time := 0, for' := .token (.s 5) 0 1 }
    let s (b : Barrier) := { (bench id).updCore 0 (fun k => { k with bar := [(5, b)] }) with arrs := [a] }
    (∀ b ∈ [({} : Barrier), { expect := 2, arrived := 0 }, { expect := 1, arrived := 0, phases := 65535 }],
      (s b).arrs = [a] ∧ ((s b).core 0).barrier 5 = b ∧ b.scope = 0 ∧ b.team = none ∧ ((s b).ctx 0 0).team = a.team ∧ stays ((s b).ctx 0 0) = true ∧ b.phases < 2 ^ 16) ∧
    (let t := (s { expect := 1, phases := 65535 }).setCtx 0 3 { st := .waiting, wait := .barrier 5 (some 65535) }
     (t.ctx 0 3).st = .waiting ∧ (t.ctx 0 3).wait = .barrier 5 (some 65535) ∧ 1 ≤ ((65535 + 1) % 2 ^ 16 + 2 ^ 16 - 65535 % 2 ^ 16) % 2 ^ 16) ∧
    waitOver 1 0 = true ∧
    (let r : Release := { core := 0, n := 5, phases := 1, root := 2, team := 0 }
     let m (b : Barrier) : State := { s b with rels := [r] }
     let b : Barrier := { scope := 1, team := some 0, root := 2 }
     (m b).rels = [r] ∧ (m b).answers = [] ∧ ((m b).core 0).barrier 5 = b ∧ b.team = some r.team ∧ b.root = r.root ∧
       ((m { b with team := some 1 }).core 0).barrier 5 = { b with team := some 1 }) := by decide +kernel

theorem witness_BarrierAndMessageEvents_messages :
    let f : Flight := { team := 0, tidx := 0, q := 1, m := { val := 42, src := 0, time := 0 }, from' := 0, fslot := 0, ack := none }
    let s := { teamed (bench id) with flights := [f] }
    let w := { teamed (bench (fun c => { c with st := .waiting, wait := .queue 1 2 5 0 })) with flights := [f] }
    (∀ t ∈ [s, w], t.flights = [f] ∧ t.whereIs 0 0 = some (0, 0) ∧ stays (t.ctx 0 0) = true) ∧ (s.ctx 0 0).st = .ready ∧
      (w.ctx 0 0).st = .waiting ∧ (w.ctx 0 0).wait = .queue 1 2 5 0 := by decide +kernel

/-- A descriptor read from device memory: one variant, whose code capability is selector 0, on object 1. -/
theorem witness_BarrierAndMessageEvents_enqt :
    let e : Enq := { core := 0, slot := 0, team := 0, id := 3, seq := 0, k := 0, dst := .s 5, tag := 1, waddr := 1, off := 0, time := 0, cap := setFld (setFld (setFld 0 0 24 2) 24 8 0xFF) 80 48 4096, caps := [] }
    let s := { (device id) with enqs := [e] }
    let bad := { s with enqs := [{ e with cap := 0 }] }
    let p := s.updPart 0 (fun x => { x with pset := 3 })
    (s.enqs = [e] ∧ e.pcie ≠ 1 ∧ (s.ctx 0 0).team = 0 ∧ stays (s.ctx 0 0) = true ∧ ((readDesc { bad.draw with enqs := [] } { e with cap := 0 }).1.ctx 0 0).wait ≠ .stopped) ∧
    ((readDesc { s.draw with enqs := [] } e).2.toBool = true ∧ shareFull s 0 = true) ∧
    ((readDesc { p.draw with enqs := [] } e).2.toBool = true ∧ shareFull p 0 = false ∧ descOk p 0 0 (fun _ => 0) false = false) ∧
    (readDesc { bad.draw with enqs := [] } { e with cap := 0 }).2.toBool = false := by decide +kernel

/-- The same descriptor with a selector for its code capability is accepted: one rectangle of one core, a variant that
fits, and a share with room. -/
theorem witness_BarrierAndMessageEvents_enqt_accepted :
    let full (o : Nat) : BitVec 128 := setFld (setFld (setFld 0 0 24 o) 24 8 0xFF) 80 48 4096
    let e : Enq := { core := 0, slot := 0, team := 0, id := 3, seq := 0, k := 0, dst := .s 5, tag := 1, waddr := 1, off := 0, time := 0, cap := full 2, caps := [(0, full 1)] }
    let v : Variant := { entry := 0, spad := 4096, l1 := 0, acc := 0, energy := 0, cview := false }
    let b := (device id).updPart 0 (fun x => { x with pset := 3, prect := [(0, 1)] })
    let s := { b.setObj 1 ((b.obj 1).map (fun o => { o with hdr := some { variants := [v], tiles := [] } })) with
      mem := writeBytes b.mem (devKey 0 (5 * 4096 + 128)) [0xF0, 0x1F], enqs := [e] }
    s.enqs = [e] ∧ stays (s.ctx 0 0) = true ∧ shareFull s 0 = false ∧
      (match (readDesc { s.draw with enqs := [] } e).2 with
        | .ok d => descOk s 0 d (fun i => e.caps.get i 0) false
        | .error _ => false) = true := by decide +kernel

end Sys2Proof.Tests
end

/-! ## Contexts that are left alone: what engine threads, events and caches do not change of a context -/

namespace Sys2Proof.Machine

/-- The context in hand stays in hand, and every context keeps its value under `g`. -/
structure KeepsCtx {α : Type} (g : Ctx → α) (s t : State) : Prop where
  cur : t.cur = s.cur
  ctx : ∀ c i, g (t.ctx c i) = g (s.ctx c i)

section
variable {α : Type} {g : Ctx → α}

theorem KeepsCtx.refl (s : State) : KeepsCtx g s s := ⟨rfl, fun _ _ => rfl⟩

theorem KeepsCtx.trans {s t u : State} (h : KeepsCtx g s t) (k : KeepsCtx g t u) : KeepsCtx g s u :=
  ⟨k.cur.trans h.cur, fun c i => (k.ctx c i).trans (h.ctx c i)⟩

theorem KeepsCtx.congr {s t : State} (hc : t.cores = s.cores) (hu : t.cur = s.cur) : KeepsCtx g s t :=
  ⟨hu, fun c i => by simp only [State.ctx, State.core, hc]⟩

theorem KeepsCtx.updDie (s : State) (d : Nat) (f : Die → Die) : KeepsCtx g s (s.updDie d f) := .congr rfl rfl

theorem KeepsCtx.setTeam (s : State) (t : Nat) (v : Option Team) : KeepsCtx g s (s.setTeam t v) := .congr rfl rfl

theorem KeepsCtx.updTask (s : State) (t : Nat) (f : Task → Task) : KeepsCtx g s (s.updTask t f) := .congr rfl rfl

theorem KeepsCtx.updCore (s : State) (c : Nat) (f : Core → Core) (hf : ∀ k, (f k).ctx = k.ctx := by intros; rfl) :
    KeepsCtx g s (s.updCore c f) := by
  refine ⟨rfl, fun d i => ?_⟩
  by_cases hd : d = c
  · subst hd; simp only [State.ctx, State.core_updCore, Core.slot, hf]
  · simp only [State.ctx, State.core_updCore_other _ _ _ _ hd]

theorem KeepsCtx.setCtx (s : State) (c i : Nat) (v : Ctx) (hv : g v = g (s.ctx c i)) : KeepsCtx g s (s.setCtx c i v) := by
  refine ⟨rfl, fun d j => ?_⟩
  by_cases hd : d = c
  · subst hd
    by_cases hj : j = i
    · subst hj; rw [State.ctx_setCtx, hv]
    · rw [State.ctx_setCtx_slot _ _ _ _ _ hj]
  · rw [State.ctx_setCtx_core _ _ _ _ _ _ hd]

theorem KeepsCtx.updCtx (s : State) (c i : Nat) (f : Ctx → Ctx) (hf : ∀ x, g (f x) = g x := by intros; rfl) :
    KeepsCtx g s (s.updCtx c i f) := .setCtx _ _ _ _ (hf _)

/-- A fold over states that carry more than the machine. -/
theorem KeepsCtx.foldl_on {β σ : Type} (m : σ → State) (f : σ → β → σ) (hf : ∀ x b, KeepsCtx g (m x) (m (f x b))) (l : List β)
    (x : σ) : KeepsCtx g (m x) (m (l.foldl f x)) := by
  induction l generalizing x with
  | nil => exact .refl _
  | cons b r ih => exact (hf x b).trans (ih _)

theorem KeepsCtx.foldl {β : Type} (f : State → β → State) (hf : ∀ s b, KeepsCtx g s (f s b)) (l : List β) (s : State) :
    KeepsCtx g s (l.foldl f s) := .foldl_on id f hf l s

/-- One of two changes, or none, as a condition says. -/
theorem KeepsCtx.ite {p : Prop} [Decidable p] {s t u : State} (h : KeepsCtx g s t) (k : KeepsCtx g s u) :
    KeepsCtx g s (if p then t else u) := by
  split
  · exact h
  · exact k

theorem KeepsCtx.postE (s : State) (p code island core die handle arg : Nat) :
    KeepsCtx g s (s.postE p code island core die handle arg) := .congr (postE_mem ..).2.1 (postE_mem ..).2.2

theorem KeepsCtx.postF (s : State) (code island core die handle arg : Nat) :
    KeepsCtx g s (s.postF code island core die handle arg) := .congr (postF_mem ..).2.1 (postF_mem ..).2.2

theorem KeepsCtx.logErr (s : State) (die code : Nat) (corr : Bool) (store : Nat) (part core : Option Nat) (addr : Nat) :
    KeepsCtx g s (s.logErr die code corr store part core addr) := .congr (logErr_mem ..).2.1 (logErr_mem ..).2.2

theorem KeepsCtx.setTimes (s : State) (die w : Nat) (v : Nat × Nat × Nat) : KeepsCtx g s (s.setTimes die w v) := .updDie _ _ _

theorem KeepsCtx.setBlock (s : State) (die : Nat) (b : List Nat) (wt le : Nat) : KeepsCtx g s (setBlock s die b wt le) :=
  .foldl _ (fun s w => .setTimes s die w _) _ _

theorem KeepsCtx.giveBack (s : State) (b : Block) (h : Nat) : KeepsCtx g s (giveBack s b h) :=
  .ite (.foldl _ (fun s _ => .setTimes s _ _ _) _ _) (.refl s)

theorem KeepsCtx.freeHolder (s : State) (core : Nat) (b : Block) : KeepsCtx g s (freeHolder s core b) :=
  .foldl _ (fun s _ => .ite (.setTimes s _ _ _) (.refl s)) _ _

theorem KeepsCtx.noteL2 (s : State) (die w : Nat) : KeepsCtx g s (noteL2 s die w) := .ite (.congr rfl rfl) (.refl s)

theorem KeepsCtx.noteFoot (s : State) (core : Nat) (b : Block) : KeepsCtx g s (noteFoot s core b) :=
  .ite (.refl s) (.updCore _ _ _)

theorem KeepsCtx.spoilL2 (s : State) (die w : Nat) : KeepsCtx g s (spoilL2 s die w) := (KeepsCtx.updDie s _ _).trans (.updDie _ _ _)

theorem KeepsCtx.spoilHome (s : State) (core part die w : Nat) : KeepsCtx g s (spoilHome s core part die w) :=
  (KeepsCtx.updCore s _ _).trans ((KeepsCtx.spoilL2 _ _ _).trans ((KeepsCtx.logErr _ _ _ _ _ _ _ _).trans (.postE _ _ _ _ _ _ _ _)))

theorem KeepsCtx.settleOld (s : State) (core : Nat) (b : Block) (w : Nat) : KeepsCtx g s (settleOld s core b w) := by
  refine .congr ?_ (Still.settleOld s core b w).cur
  unfold Machine.settleOld
  dsimp only
  split <;> rfl

theorem KeepsCtx.writeDev (s : State) (d pa : Nat) (b : List Byte) : KeepsCtx g s (s.writeDev d pa b) :=
  .ite (.congr rfl rfl) (.congr rfl rfl)

theorem KeepsCtx.writeSram (s : State) (c a : Nat) (b : List Byte) : KeepsCtx g s (s.writeSram c a b) := by
  unfold State.writeSram
  exact .updCore _ _ _

theorem KeepsCtx.writeHost (s : State) (p addr : Nat) (peer : Bool) (b : List Byte) : KeepsCtx g s (s.writeHost p addr peer b) := by
  unfold State.writeHost
  split
  · exact .ite (.congr rfl rfl) (.refl s)
  · exact .congr rfl rfl

theorem KeepsCtx.askHost (s : State) (p addr : Nat) (peer : Bool) (n : Nat) : KeepsCtx g s (s.askHost p addr peer n) := by
  unfold State.askHost
  split <;> exact .congr rfl rfl

theorem KeepsCtx.spadTouch (s : State) (core a n t : Nat) (wr : Bool) : KeepsCtx g s (spadTouch s core a n t wr).1 := by
  unfold Machine.spadTouch
  dsimp only
  rw [apply_ite Prod.fst]
  refine .ite (.refl s) ?_
  dsimp only
  exact .updCore _ _ _

end

/-! ### Accesses charge DRAM traffic to a context, and change nothing else of it (R296) -/

/-- A context without its joule counter. -/
def Ctx.unmetered (c : Ctx) : Ctx := { c with joule := 0, jouleRem := 0 }

/-- Every context is as it was but for its joule counter. -/
abbrev OnlyMeters (s t : State) : Prop := KeepsCtx Ctx.unmetered s t

theorem OnlyMeters.meterCtx (s : State) (core slot n : Nat) : OnlyMeters s (meterCtx s core slot n) := .updCtx _ _ _ _

theorem OnlyMeters.meterDram (s : State) (core slot n : Nat) : OnlyMeters s (meterDram s core slot n) :=
  (OnlyMeters.meterCtx s core slot n).trans (.congr rfl rfl)

theorem OnlyMeters.meterFor (s : State) (core slot team n : Nat) : OnlyMeters s (meterFor s core slot team n) :=
  (KeepsCtx.ite (OnlyMeters.meterCtx s core slot n) (.refl s)).trans (.congr rfl rfl)

theorem OnlyMeters.l2Clean (s : State) (die : Nat) (b : Block) : OnlyMeters s (l2Clean s die b) := by
  unfold Machine.l2Clean
  dsimp only
  split
  · exact .refl s
  · split
    · exact .congr rfl rfl
    · refine KeepsCtx.trans ?_ (OnlyMeters.meterFor _ _ _ _ _)
      exact KeepsCtx.congr rfl rfl

theorem OnlyMeters.l2Put (s : State) (die : Nat) (b : Block) : OnlyMeters s (l2Put s die b) :=
  (KeepsCtx.updDie s _ _).trans (.foldl _ (fun s x => OnlyMeters.l2Clean s die x) _ _)

theorem OnlyMeters.l2Use (s : State) (die frame a b : Nat) : OnlyMeters s (l2Use s die frame a b).1 := by
  unfold Machine.l2Use
  dsimp only
  split
  · dsimp only
    exact .updDie _ _ _
  · exact OnlyMeters.l2Put _ _ _

theorem OnlyMeters.l2Dirty (s : State) (die w : Nat) (who : Option (Nat × Nat × Nat)) : OnlyMeters s (l2Dirty s die w who) :=
  (KeepsCtx.noteL2 _ _ _).trans (OnlyMeters.l2Put _ _ _)

theorem OnlyMeters.writeHome (s : State) (core : Nat) (b : Block) : OnlyMeters s (writeHome s core b) :=
  .ite (.refl s) ((KeepsCtx.foldl _ (fun s w => .settleOld s core b w) _ _).trans
    ((KeepsCtx.ite (.refl _) (.updDie _ _ _)).trans
      ((KeepsCtx.foldl _ (fun s w => .ite (.spoilHome s core b.part b.die w) (.refl s)) _ _).trans (OnlyMeters.l2Put _ _ _))))

theorem OnlyMeters.recallFrom (s : State) (c die w : Nat) : OnlyMeters s (recallFrom s c die w) :=
  (KeepsCtx.updCore s _ _).trans
    ((KeepsCtx.foldl _ (fun s b => (KeepsCtx.giveBack s b 0).trans ((KeepsCtx.noteFoot _ c b).trans (OnlyMeters.writeHome _ c b))) _ _).trans
      (.foldl _ (fun s b => (KeepsCtx.freeHolder s c b).trans (OnlyMeters.writeHome _ c b)) _ _))

theorem OnlyMeters.recallWords (s : State) (die : Nat) (ws : List Nat) : OnlyMeters s (recallWords s die ws) :=
  .foldl _ (fun s w => .ite (.refl s) (OnlyMeters.recallFrom s _ die w)) _ _

theorem OnlyMeters.homeReads (s : State) (die : Nat) (ws : List Nat) (t ext : Nat) : OnlyMeters s (homeReads s die ws t ext).1 :=
  (OnlyMeters.recallWords s die ws).trans (.foldl _ (fun s b => .setBlock s die b _ _) _ _)

theorem OnlyMeters.homeWrites (s : State) (die : Nat) (ws : List Nat) (t : Nat) : OnlyMeters s (homeWrites s die ws t).1 :=
  (OnlyMeters.recallWords s die ws).trans (.foldl _ (fun s b => .setBlock s die b _ _) _ _)

theorem KeepsCtx.countFill {α : Type} {g : Ctx → α} (s : State) (part oid page reqDie : Nat) :
    KeepsCtx g s (countFill s part oid page reqDie) := by
  unfold Machine.countFill
  split
  · exact .refl s
  dsimp only
  refine .ite (.refl s) (.ite (.congr rfl rfl) (.ite (.congr rfl rfl) (.ite (.congr rfl rfl) ?_)))
  exact ((KeepsCtx.congr rfl rfl : KeepsCtx g s (s.setObj oid _)).trans (.updDie _ _ _)).trans (.postF _ _ _ _ _ _ _)

theorem OnlyMeters.l2Touch (s : State) (core slot oid page die frame a b : Nat) :
    OnlyMeters s (l2Touch s core slot oid page die frame a b) := by
  unfold Machine.l2Touch
  dsimp only
  split
  · exact OnlyMeters.l2Use _ _ _ _ _
  · exact (OnlyMeters.l2Use _ _ _ _ _).trans ((OnlyMeters.meterDram _ _ _ _).trans (.countFill _ _ _ _ _))

theorem OnlyMeters.l2TouchFor (s : State) (core slot team oid page die frame a b : Nat) :
    OnlyMeters s (l2TouchFor s core slot team oid page die frame a b) := by
  unfold Machine.l2TouchFor
  dsimp only
  split
  · exact OnlyMeters.l2Use _ _ _ _ _
  · exact (OnlyMeters.l2Use _ _ _ _ _).trans ((OnlyMeters.meterFor _ _ _ _ _).trans (.countFill _ _ _ _ _))

theorem OnlyMeters.foldPartial (s : State) (core : Nat) (e : Partial) : OnlyMeters s (foldPartial s core e) := by
  unfold Machine.foldPartial
  dsimp only
  refine KeepsCtx.trans ?_ (.writeDev _ _ _ _)
  exact (OnlyMeters.l2TouchFor _ _ _ _ _ _ _ _ _ _).trans (OnlyMeters.l2Dirty _ _ _ _)

theorem OnlyMeters.foldBad (s : State) (core : Nat) (e : Partial) : OnlyMeters s (foldBad s core e) := by
  unfold Machine.foldBad
  exact (OnlyMeters.l2Dirty _ _ _ _).trans ((KeepsCtx.spoilL2 _ _ _).trans (.logErr _ _ _ _ _ _ _ _))

theorem OnlyMeters.combine (s : State) (die a n : Nat) : OnlyMeters s (combine s die a n) := by
  unfold Machine.combine
  dsimp only
  refine KeepsCtx.trans ?_ (.updDie _ _ _)
  refine KeepsCtx.trans ?_ (.foldl _ (fun s c => .updCore s c _) _ _)
  refine KeepsCtx.trans (KeepsCtx.trans ?_ (.foldl _ (fun s x => ?_) _ _)) (.foldl _ (fun s x => ?_) _ _)
  · exact .ite (.refl s) (OnlyMeters.recallWords _ _ _)
  · exact .foldl _ (fun s e => OnlyMeters.foldPartial s _ e) _ _
  · exact .foldl _ (fun s e => OnlyMeters.foldBad s _ e) _ _

theorem OnlyMeters.combineFor (s : State) (die pa n : Nat) : OnlyMeters s (combineFor s die pa n) :=
  .foldl _ (fun s _ => OnlyMeters.combine s die _ _) _ _

theorem OnlyMeters.track (s : State) (die a n part : Nat) : OnlyMeters s (track s die a n part) := by
  unfold Machine.track
  dsimp only
  refine KeepsCtx.trans (.ite (.refl s) ?_) (.updDie _ _ _)
  split
  · exact .refl s
  · exact (OnlyMeters.combine s _ _ _).trans (.ite (.refl _) ((KeepsCtx.updDie _ _ _).trans (.postE _ _ _ _ _ _ _ _)))

theorem OnlyMeters.partRoom (s : State) (core die w : Nat) : OnlyMeters s (partRoom s core die w) := by
  unfold Machine.partRoom
  dsimp only
  refine .ite (.refl s) ?_
  split
  · exact .foldl _ (fun s _ => OnlyMeters.combine s _ _ _) _ _
  · exact .refl s

theorem OnlyMeters.commUpdate (s : State) (core slot : Nat) (ob : Obj) (oid page die pa v t : Nat) :
    OnlyMeters s (commUpdate s core slot ob oid page die pa v t).1 := by
  unfold Machine.commUpdate
  dsimp only
  refine KeepsCtx.trans ?_ (.updCore _ _ _)
  refine KeepsCtx.trans ?_ (OnlyMeters.homeWrites _ _ _ _)
  exact ((OnlyMeters.track _ _ _ _ _).trans (OnlyMeters.partRoom _ _ _ _)).trans (.ite (.refl _) (OnlyMeters.track _ _ _ _ _))

theorem OnlyMeters.homeStore (s : State) (core slot oid page die w t : Nat) :
    OnlyMeters s (homeStore s core slot oid page die w t).1 := by
  unfold Machine.homeStore
  dsimp only
  refine KeepsCtx.trans ?_ (OnlyMeters.l2Dirty _ _ _ _)
  exact (OnlyMeters.l2Touch _ _ _ _ _ _ _ _ _).trans (OnlyMeters.homeWrites _ _ _ _)

/-! ### Pieces of engine threads -/

/-- A uc request acts at the home alone (R79, R80). -/
theorem request_uc (s : State) (core slot oid page die pa t : Nat) (wr : Bool) (hint : Nat) :
    request s core slot oid page die pa t wr 3 hint =
      if wr then homeStore s core slot oid page die (pa / 32) t
      else homeRead (l2Touch s core slot oid page die (pa / 512) (pa / 32 % 16) (pa / 32 % 16)) die (pa / 32) t 0 := by
  unfold request
  simp

theorem OnlyMeters.touchChunk (core slot : Nat) (pl : Place) (oid o n : Nat) (wr : Bool) (x : State × Nat) :
    OnlyMeters x.1 (touchChunk core slot pl oid o n wr x).1 := by
  cases pl with
  | sram t a => exact .spadTouch _ _ _ _ _ _
  | dev d pa =>
    refine (OnlyMeters.combineFor x.1 d pa n).trans ?_
    simp only [Machine.touchChunk, request_uc]
    split
    · exact OnlyMeters.homeStore _ _ _ _ _ _ _ _
    · exact (OnlyMeters.l2Touch _ _ _ _ _ _ _ _ _).trans (OnlyMeters.homeReads _ _ _ _ _)
  | host a peer => exact .refl _

theorem OnlyMeters.writeChunk (core slot : Nat) (c : Chunk) (x : State × Nat) : OnlyMeters x.1 (writeChunk core slot c x).1 := by
  refine (OnlyMeters.touchChunk core slot c.pl c.oid c.o c.data.length true x).trans ?_
  unfold Machine.writeChunk
  dsimp only
  split
  · exact .ite (.writeSram _ _ _ _) (.foldl _ (fun s _ => .writeSram s _ _ _) _ _)
  · exact .ite (.writeDev _ _ _ _) (.foldl _ (fun s _ => .writeDev s _ _ _) _ _)
  · split
    · exact .writeHost _ _ _ _ _
    · refine KeepsCtx.trans ?_ (.writeHost _ _ _ _ _)
      exact (KeepsCtx.askHost _ _ _ _ _).trans (.congr rfl rfl)

theorem OnlyMeters.updateChunk (core slot : Nat) (c : Chunk) (x : State × Nat) : OnlyMeters x.1 (updateChunk core slot c x).1 := by
  unfold Machine.updateChunk
  split
  · exact .foldl_on Prod.fst _ (fun x _ => OnlyMeters.commUpdate x.1 _ _ _ _ _ _ _ _ _) _ x
  · exact .refl _

theorem OnlyMeters.putChunk (core slot : Nat) (c : Chunk) (x : State × Nat) : OnlyMeters x.1 (putChunk core slot c x).1 := by
  unfold Machine.putChunk
  split
  · exact OnlyMeters.updateChunk core slot c x
  · exact OnlyMeters.writeChunk core slot c x

/-- Finishing the rows that an operation has reached leaves every context as it was but for the meter. -/
theorem OnlyMeters.writeLeft (s : State) (core : Nat) (o : EOp) : OnlyMeters s (writeLeft s core o).1 := by
  have hr : OnlyMeters s (readLeft core o (s, o.time)).1.1 := by
    unfold readLeft
    refine KeepsCtx.foldl_on (fun y => y.1.1) _ (fun y u => ?_) o.unread ((s, o.time), o.left)
    exact OnlyMeters.touchChunk core o.slot u.pl u.oid u.o u.n false y.1
  unfold Machine.writeLeft putChunks
  exact hr.trans (.foldl_on Prod.fst _ (fun x c => OnlyMeters.putChunk core o.slot c x) _ _)

/-! ## Loop levels when a context stops or a region closes -/

/-- Every context keeps the loop levels of its mode. -/
abbrev KeepsLevels (s t : State) : Prop := KeepsCtx Ctx.lvNow s t

theorem Ctx.lvNow_unmetered (c : Ctx) : c.unmetered.lvNow = c.lvNow := rfl

theorem OnlyMeters.keepsLevels {s t : State} (h : OnlyMeters s t) : KeepsLevels s t :=
  ⟨h.cur, fun c i => by rw [← Ctx.lvNow_unmetered, h.ctx, Ctx.lvNow_unmetered]⟩

theorem KeepsLevels.stopCtx (s : State) (core slot : Nat) : KeepsLevels s (stopCtx s core slot) := by
  unfold Machine.stopCtx
  dsimp only
  refine KeepsCtx.trans ?_ (.updCtx _ _ _ _)
  refine KeepsCtx.trans ?_ (.updCore _ _ _)
  exact .foldl _ (fun s o => (OnlyMeters.writeLeft s core o).keepsLevels) _ _

theorem KeepsLevels.failTeam (s : State) (t cause : Nat) : KeepsLevels s (failTeam s t cause) := by
  unfold Machine.failTeam
  split
  · exact .refl s
  split
  · exact .refl s
  dsimp only
  refine KeepsCtx.trans (KeepsCtx.trans ?_ (.setTeam _ _ _)) (.updTask _ _ _)
  refine .foldl _ (fun s p => ?_) _ _
  exact KeepsLevels.stopCtx s p.1 p.2

theorem KeepsLevels.supFault (s : State) (core slot code epc : Nat) (tval : Word) : KeepsLevels s (supFault s core slot code epc tval) := by
  unfold Machine.supFault
  dsimp only
  refine KeepsCtx.trans ?_ (KeepsLevels.failTeam _ _ _)
  exact (KeepsCtx.postE s _ _ _ _ _ _ _).trans (.updCtx _ _ _ _)

theorem Ctx.lvNow_closeRegion (c : Ctx) : c.closeRegion.lvNow = c.lvNow := by
  unfold Ctx.closeRegion
  split <;> rfl

/-- The entry of a trap in an open region goes no further than the region's close (R50 step 4). -/
theorem KeepsLevels.enterTrap_of_fixOpen (s : State) (core slot : Nat) (hf : (s.ctx core slot).fixOpen = true) :
    KeepsLevels s (enterTrap s core slot) := by
  unfold Machine.enterTrap
  dsimp only
  refine .ite (.refl s) ?_
  rw [if_pos hf]
  exact .ite (.refl s) ((KeepsCtx.updCore s _ _).trans (.updCtx _ _ _ _ Ctx.lvNow_closeRegion))

/-- A check at issue that fails, in supervisor mode or in an open region, changes no loop level (R184, R345). -/
theorem KeepsLevels.raise (s : State) (core slot : Nat) (f : PendFault)
    (h : (s.ctx core slot).sup = true ∨ (s.ctx core slot).fixOpen = true) : KeepsLevels s (raise s core slot f) := by
  unfold Machine.raise
  dsimp only
  split
  · exact KeepsLevels.supFault _ _ _ _ _ _
  next hs =>
    have hp : KeepsLevels s (s.updCtx core slot (fun c => { c with faults := c.faults ++ [f] })) := .updCtx _ _ _ _
    refine hp.trans (KeepsLevels.enterTrap_of_fixOpen _ _ _ ?_)
    rw [State.ctx_updCtx]
    exact h.resolve_left hs

end Sys2Proof.Machine

/-! ## What a lone slot finds, and its check -/

namespace Sys2Proof.Machine

theorem Ctx.freeTag_eq (c : Ctx) (q : Nat) : c.freeTag q = { c with a := (c.freeTag q).a } := by
  unfold Ctx.freeTag
  split <;> rfl

theorem Ctx.put_eq (c : Ctx) (d : Dst) (v : BitVec 512) (q : Nat) :
    c.put d v q = { c with a := (c.put d v q).a, bankS := (c.put d v q).bankS, bankK := (c.put d v q).bankK, patLoad := (c.put d v q).patLoad, pats := (c.put d v q).pats } := by
  cases d with
  | bankS n => simp only [Ctx.put]; split <;> rfl
  | bankK => simp only [Ctx.put]; split <;> rfl
  | pat n => simp only [Ctx.put]; split <;> rfl
  | s n => rfl
  | p n => rfl
  | k n => rfl
  | h n => rfl
  | nothing => rfl

/-- A result that lands changes registers, counts of tags and shadow sets alone (R111, R112). -/
theorem Ctx.land_eq (c : Ctx) (r : Pend) :
    c.land r = { c with a := (c.land r).a, bankS := (c.land r).bankS, bankK := (c.land r).bankK, patLoad := (c.land r).patLoad, pats := (c.land r).pats, sh0 := (c.land r).sh0, sh1 := (c.land r).sh1 } := by
  unfold Ctx.land
  rw [Ctx.freeTag_eq, Ctx.put_eq]

@[simp] theorem Ctx.land_sup (c : Ctx) (r : Pend) : (c.land r).sup = c.sup := by rw [Ctx.land_eq]

@[simp] theorem Ctx.land_fixOpen (c : Ctx) (r : Pend) : (c.land r).fixOpen = c.fixOpen := by rw [Ctx.land_eq]

/-- What every landing keeps, any number of them keep. -/
theorem Ctx.foldl_land {α : Type} (g : Ctx → α) (hg : ∀ c r, g (Ctx.land c r) = g c) (l : List Pend) (c : Ctx) :
    g (l.foldl Ctx.land c) = g c := by
  induction l generalizing c with
  | nil => rfl
  | cons r l ih => rw [List.foldl_cons, ih, hg]

@[simp] theorem Ctx.landAll_sup (c : Ctx) (f : Pend → Bool) : (c.landAll f).sup = c.sup :=
  Ctx.foldl_land Ctx.sup Ctx.land_sup _ _

@[simp] theorem Ctx.landAll_fixOpen (c : Ctx) (f : Pend → Bool) : (c.landAll f).fixOpen = c.fixOpen :=
  Ctx.foldl_land Ctx.fixOpen Ctx.land_fixOpen _ _

@[simp] theorem landTags_sup (c : Ctx) (l : List Nat) : (landTags c l).sup = c.sup := by
  unfold landTags
  split <;> simp

@[simp] theorem landTags_fixOpen (c : Ctx) (l : List Nat) : (landTags c l).fixOpen = c.fixOpen := by
  unfold landTags
  split <;> simp

@[simp] theorem landed_sup (h : Head) (c : Ctx) : (landed h c).sup = c.sup := by
  unfold landed
  split <;> simp

@[simp] theorem landed_fixOpen (h : Head) (c : Ctx) : (landed h c).fixOpen = c.fixOpen := by
  unfold landed
  split <;> simp

/-- At a boundary a context is in supervisor mode or in an open region (R307). -/
theorem atBoundary_sup_or_fixOpen (c : Ctx) : (atBoundary c).sup = true ∨ (atBoundary c).fixOpen = true := by
  unfold atBoundary
  split
  next hb => exact Bool.or_eq_true_iff.mp hb
  · exact .inr rfl

theorem found_sup_or_fixOpen (h : Head) (s : State) : (found h s).sup = true ∨ (found h s).fixOpen = true := by
  simpa [found] using atBoundary_sup_or_fixOpen (hand s)

/-- A fault of a lone slot at its check leaves the loop levels that it finds (R118, R184). -/
theorem lvNow_failBundle_judged (h : Head) (s : State) (code : Nat) (tval : Word) (sl k waddr : Nat) :
    (hand (failBundle (judged h s) s.cur.1 s.cur.2 code tval sl k waddr)).lvNow = (found h s).lvNow := by
  have hk : KeepsLevels (judged h s) (failBundle (judged h s) s.cur.1 s.cur.2 code tval sl k waddr) :=
    KeepsLevels.raise _ _ _ _ (by simpa using found_sup_or_fixOpen h s)
  have hcur : (failBundle (judged h s) s.cur.1 s.cur.2 code tval sl k waddr).cur = s.cur := hk.cur
  rw [hand, hcur, hk.ctx, ctx_judged]

/-! ## The attempt of a lone slot that nothing keeps from issuing -/

/-- What `free` says of a lone slot with head `h`, condition by condition. -/
structure Free (h : Head) (s : State) : Prop where
  can : canIssue (hand s) = true
  noTrap : trapDue (hand s) = false
  noSupFault : ((hand s).sup && (hand s).faults.any (·.sup)) = false
  claim : (!(atBoundary (hand s)).sup && (atBoundary (hand s)).a.claimLate) = false
  mark : ((atBoundary (hand s)).markDue && !(atBoundary (hand s)).sup) = false
  tags : ∀ t ∈ waited h, (landTags (atBoundary (hand s)) (waited h)).tagCount t = 0
  pred : ((found h s).getP h.pidx != (h.pneg == 1)) = true
  room : h.atag = 0 ∨ (found h s).tagCount h.atag < 255

theorem free_iff (h : Head) (s : State) : free h s = true ↔ Free h s := by
  have hb : ∀ x y z : Bool, (x || !y && !z) = true ↔ (!x && y) = false ∧ (z && !x) = false := by decide
  simp only [free, tagRoom, Bool.and_eq_true, Bool.or_eq_true, Bool.not_eq_true', List.all_eq_true, beq_iff_eq, decide_eq_true_eq]
  constructor
  · rintro ⟨⟨⟨⟨⟨⟨can, noTrap⟩, noSup⟩, late⟩, tags⟩, pred⟩, room⟩
    obtain ⟨claim, mark⟩ := (hb _ _ _).mp (by simpa using late)
    exact ⟨can, noTrap, noSup, claim, mark, tags, pred, room⟩
  · rintro ⟨can, noTrap, noSup, claim, mark, tags, pred, room⟩
    exact ⟨⟨⟨⟨⟨⟨can, noTrap⟩, noSup⟩, by simpa using (hb _ _ _).mpr ⟨claim, mark⟩⟩, tags⟩, pred⟩, room⟩

/-- The state in which a lone slot's tags are waited for: its context stands at its boundary. -/
def bounded (s : State) : State := setHand s (atBoundary (hand s))

theorem ctx_bounded (s : State) : (bounded s).ctx s.cur.1 s.cur.2 = atBoundary (hand s) := State.ctx_setCtx ..

/-- No trap, claim or mark goes before the bundle of a free slot. -/
theorem issueOne_eq_issueFrame (i : Instr) (m : SlotSem) (s : State) (h : Free (headOf i) s) :
    issueOne i m s = issueFrame (bounded s) s.cur.1 s.cur.2 (soloFrame i m s.cur.1 s.cur.2 (bounded s)) := by
  have hs : s.updCtx s.cur.1 s.cur.2 (fun c => if c.boundary.sup || c.boundary.fixOpen then c.boundary else c.boundary.openRegion) = bounded s := rfl
  have hh : s.ctx s.cur.1 s.cur.2 = hand s := rfl
  unfold issueOne attempt
  simp only [hh, h.can, h.noTrap, h.noSupFault, hs, ctx_bounded, h.claim, h.mark, Bool.true_eq_false, Bool.false_eq_true, if_false]

/-- What its waits and its producer distance make land is what a lone slot finds (R110, R111). -/
theorem landPd_soloFrame (i : Instr) (m : SlotSem) (core slot : Nat) (u : State) (c : Ctx) :
    landPd (landTags c (waited (headOf i))) (soloFrame i m core slot u) = landed (headOf i) c := by
  by_cases hz : (headOf i).pd = 0 <;> simp [landPd, soloFrame, landed, hz]

/-- The tags of a free slot are free and have room: its frame comes to its checks. -/
theorem issueFrame_solo (i : Instr) (m : SlotSem) (s : State) (h : Free (headOf i) s) :
    issueFrame (bounded s) s.cur.1 s.cur.2 (soloFrame i m s.cur.1 s.cur.2 (bounded s)) =
      issueChecked (judged (headOf i) s) s.cur.1 s.cur.2 (soloFrame i m s.cur.1 s.cur.2 (bounded s)) 0 := by
  set f := soloFrame i m s.cur.1 s.cur.2 (bounded s) with hfr
  have hrep : f.attr.rep = 0 := rfl
  have hfix : f.attr.fix = 0 := rfl
  have hland : (bounded s).updCtx s.cur.1 s.cur.2 (fun c => landTags c (waited (headOf i))) =
      setHand s (landTags (atBoundary (hand s)) (waited (headOf i))) := by
    simp [State.updCtx, bounded, setHand]
  have hctx : (setHand s (landTags (atBoundary (hand s)) (waited (headOf i)))).ctx s.cur.1 s.cur.2 =
      landTags (atBoundary (hand s)) (waited (headOf i)) := State.ctx_setCtx ..
  have hfind : (waited (headOf i)).find? (fun t => (landTags (atBoundary (hand s)) (waited (headOf i))).tagCount t != 0) = none :=
    List.find?_eq_none.mpr fun t ht => by simp [h.tags t ht]
  have hjudged : (setHand s (landTags (atBoundary (hand s)) (waited (headOf i)))).updCtx s.cur.1 s.cur.2 (fun c => landPd c f) =
      judged (headOf i) s := by
    rw [State.updCtx, hctx, hfr, landPd_soloFrame]
    exact State.setCtx_setCtx ..
  have hroom : (tagsOf f).any (fun t => decide (255 < (found (headOf i) s).tagCount t + ((tagsOf f).filter (· == t)).length)) = false := by
    rw [hfr, tagsOf_solo]
    by_cases hz : (headOf i).atag = 0
    · simp [hz]
    · have := h.room.resolve_left hz
      simp [hz]
      omega
  unfold issueFrame
  simp only [repIndex_zero, hrep, hfix, zero_ne_one, false_and, if_false, hfr ▸ waitsOf_solo i m _ _ _, hland, hctx, hfind, hjudged,
    ctx_judged, hroom, Bool.false_eq_true]

/-- A lone slot that fails its check of step 1 to 7 traps, and nothing of its bundle issues (R107, R359). -/
theorem issueOne_fails (i : Instr) (m : SlotSem) (s : State) (t : Trap) (hf : free (headOf i) s = true)
    (hc : m.chk (here i s) (judged (headOf i) s) = some t) :
    issueOne i m s = failBundle (judged (headOf i) s) s.cur.1 s.cur.2 t.code t.tval (headOf i).slot.num 0 (pcOf s + 1) := by
  have h := (free_iff _ _).mp hf
  have hu : ((bounded s).ctx s.cur.1 s.cur.2).pcNow = pcOf s := by rw [ctx_bounded, pcOf]
  have hs : checkSlots (lone i m s) [] (judged (headOf i) s) =
      some { trap := t, sl := (headOf i).slot.num, k := 0, waddr := pcOf s + 1 } := by
    have hon : (here i s).on = true := rfl
    simp only [lone, checkSlots, hon, hc, firstOf]
    rfl
  rw [issueOne_eq_issueFrame i m s h, issueFrame_solo i m s h]
  unfold issueChecked
  simp only [atSlots_solo i m s _ hu h.pred, hs]

end Sys2Proof.Machine

/-! ## Loop openings (R117, R118, R161, R162) -/

namespace Sys2Proof.Machine

theorem Ctx.setLv_eq (c : Ctx) (t : Tab Level) : c.setLv t = { c with slv := (c.setLv t).slv, a := { c.a with lv := (c.setLv t).a.lv } } := by
  unfold Ctx.setLv
  split <;> rfl

@[simp] theorem Ctx.setLv_part (c : Ctx) (t : Tab Level) : (c.setLv t).part = c.part := by rw [Ctx.setLv_eq]

@[simp] theorem Ctx.setLv_codeOid (c : Ctx) (t : Tab Level) : (c.setLv t).codeOid = c.codeOid := by
  rw [Ctx.setLv_eq, Ctx.codeOid, Ctx.codeOid]

@[simp] theorem Ctx.setLv_getS (c : Ctx) (t : Tab Level) (n : Nat) : (c.setLv t).getS n = c.getS n := by
  rw [Ctx.setLv_eq, Ctx.getS, Ctx.getS]

@[simp] theorem codeLen_setCtx (s : State) (core slot : Nat) (c : Ctx) (p oid : Nat) :
    codeLen (s.setCtx core slot c) p oid = codeLen s p oid := rfl

@[simp] theorem codeWord_setCtx (s : State) (core slot : Nat) (c : Ctx) (p oid w : Nat) :
    codeWord (s.setCtx core slot c) p oid w = codeWord s p oid w := rfl

/-- The word at the end word of a loop, as the context that a lone slot finds reads it. -/
def endWordOf (h : Head) (o : SB) (s : State) : Nat := codeWord s (found h s).part (found h s).codeOid o.tgt

/-- The context in hand with level L of an opening set to `n` further passes (R117). -/
def openLevel (h : Head) (o : SB) (s : State) (n : Nat) (t : State) : State :=
  t.updCtx s.cur.1 s.cur.2 (fun d =>
    d.setLv (d.lvNow.set o.l { active := n != 0, count := n, start := pcOf s + 2, stop := o.tgt, opened := (found h s).iss + 1 } {}))

section
variable {i : Instr} {o : SB} {count : Ctx → Nat} {s : State} {n : Nat}

theorem loopSem_chk (hn : count (found (headOf i) s) = n) :
    (loopSem o count).chk (here i s) (judged (headOf i) s) =
      if o.tgt < pcOf s + 2 ∨ codeLen s (found (headOf i) s).part (found (headOf i) s).codeOid ≤ o.tgt ∨
          (n = 0 ∧ bits (endWordOf (headOf i) o s) 77 3 ≠ 7) then
        some { code := 0x24, tval := BitVec.ofNat 64 o.tgt }
      else none := by
  subst hn
  simp only [loopSem, lenNow, endWord, here_ctx, ctx_judged]
  rfl

/-- The opening of a loop level in range issues with its level set, as a taken transfer where its count is zero (R117; log
entry 56). `hn`: the count depends on s[A] alone, so that it is the same before and after the opening. -/
theorem issueOne_loopSem (hm : slotSem i = loopSem o count) (hf : free (headOf i) s = true)
    (hn : ∀ c : Ctx, c.getS (sbReg o) = (found (headOf i) s).getS (sbReg o) → count c = n)
    (hlo : pcOf s + 2 ≤ o.tgt) (hhi : o.tgt < codeLen s (found (headOf i) s).part (found (headOf i) s).codeOid)
    (hend : n = 0 → bits (endWordOf (headOf i) o s) 77 3 = 7) :
    issueOne i (loopSem o count) s = issued i false s (openLevel (headOf i) o s n)
      (if n = 0 then some (o.tgt + 1 + attrWords (getAttr (endWordOf (headOf i) o s))) else none) id := by
  have hat : count (atIssue i false s) = n := hn _ (by simp [atIssue])
  have hchk : (loopSem o count).chk (here i s) (judged (headOf i) s) = none := by
    rw [loopSem_chk (hn _ rfl), if_neg]
    rintro (h | h | ⟨h, hw⟩)
    · omega
    · omega
    · exact hw (hend h)
  have hp : passes i s = true := passes_plain i s _ hm hchk rfl rfl (fun _ => rfl) rfl rfl (by simp [loopSem])
  have heff : (loopSem o count).eff (here i s) (issuing i false s) = openLevel (headOf i) o s n (issuing i false s) := by
    simp only [loopSem, openLevel, here, State.updCtx, ctx_issuing, hat]
  have hgoes : (loopSem o count).goes (here i s) (openLevel (headOf i) o s n (issuing i false s)) =
      if n = 0 then some (o.tgt + 1 + attrWords (getAttr (endWordOf (headOf i) o s))) else none := by
    simp only [loopSem, endWord, here_ctx, openLevel, State.ctx_updCtx, ctx_issuing]
    rw [hn _ (by simp [atIssue])]
    simp [atIssue, State.updCtx, issuing, setHand, endWordOf]
  have hi := issueOne_passes i s hf hp
  rw [hm] at hi
  have hlat : ((loopSem o count).lat != Lat.now) = false := rfl
  have hfin : (loopSem o count).fin (here i s) = id := rfl
  rw [hi, hlat, hfin, heff, hgoes]
  exact issued_congr i false s _ _ _ _ heff

/-- An end word before the start word or outside the code object (R118). -/
theorem issueOne_loopSem_range (hf : free (headOf i) s = true)
    (hr : o.tgt < pcOf s + 2 ∨ codeLen s (found (headOf i) s).part (found (headOf i) s).codeOid ≤ o.tgt) :
    issueOne i (loopSem o count) s =
      failBundle (judged (headOf i) s) s.cur.1 s.cur.2 0x24 (.ofNat 64 o.tgt) (headOf i).slot.num 0 (pcOf s + 1) := by
  have hchk : (loopSem o count).chk (here i s) (judged (headOf i) s) = some { code := 0x24, tval := .ofNat 64 o.tgt } := by
    rw [loopSem_chk rfl, if_pos (hr.imp_right .inl)]
  rw [issueOne_fails i (loopSem o count) s _ hf hchk]

end

/-- a[31:0] as a number. -/
theorem fld_low32 (v : Word) : fld v 0 32 = v.toNat % 2 ^ 32 := by simp [fld, bits]

theorem exec_loop (h : Head) (o : SB) (s : State) :
    exec (.loop h o) s = .next (issueOne (.loop h o) (loopSem o (fun c => fld (c.getS (sbReg o)) 0 32)) s) := rfl

theorem exec_loopi (h : Head) (o : SB) (s : State) :
    exec (.loopi h o) s = .next (issueOne (.loopi h o) (loopSem o (fun _ => o.cnt)) s) := rfl

/-- An opening of `loop` within its code object (R117, R161). -/
theorem exec_loop_opens (h : Head) (o : SB) (s : State) (hf : free h s = true) (hlo : pcOf s + 2 ≤ o.tgt)
    (hhi : o.tgt < codeLen s (found h s).part (found h s).codeOid) (n : Nat) (hn : ((found h s).getS (sbReg o)).toNat % 2 ^ 32 = n)
    (hend : n = 0 → bits (endWordOf h o s) 77 3 = 7) :
    exec (.loop h o) s = .next (issued (.loop h o) false s (openLevel h o s n)
      (if n = 0 then some (o.tgt + 1 + attrWords (getAttr (endWordOf h o s))) else none) id) := by
  rw [exec_loop]
  have hc (c : Ctx) (hs : c.getS (sbReg o) = (found h s).getS (sbReg o)) : fld (c.getS (sbReg o)) 0 32 = n := by
    rw [fld_low32, hs, hn]
  exact congrArg _ (issueOne_loopSem rfl hf hc hlo hhi hend)

/-- An opening of `loopi` within its code object (R117, R161). -/
theorem exec_loopi_opens (h : Head) (o : SB) (s : State) (hf : free h s = true) (hlo : pcOf s + 2 ≤ o.tgt)
    (hhi : o.tgt < codeLen s (found h s).part (found h s).codeOid) (hend : o.cnt = 0 → bits (endWordOf h o s) 77 3 = 7) :
    exec (.loopi h o) s = .next (issued (.loopi h o) false s (openLevel h o s o.cnt)
      (if o.cnt = 0 then some (o.tgt + 1 + attrWords (getAttr (endWordOf h o s))) else none) id) := by
  rw [exec_loopi]
  exact congrArg _ (issueOne_loopSem (i := .loopi h o) rfl hf (fun _ _ => rfl) hlo hhi hend)

/-- Settles O7: an opening within the code object issues with its level set, and one of count zero goes on behind the
bundle at its end word as a taken transfer, with no end check of its own bundle (R117; log entry 56). One out of range
fails its check, and a failing check keeps the loop levels that the slot finds (R118). -/
theorem loopOpenings : Obligations.LoopOpenings := by
  unfold Obligations.LoopOpenings
  intro h s o hf c len endw level
  refine ⟨fun hlo hhi => ⟨fun hn => ?_, fun hn => ?_, fun hw => ⟨fun hn => ?_, fun hn => ?_⟩⟩, fun hr i hi => ?_⟩
  · rw [exec_loop_opens h o s hf hlo hhi ((c.getS (o.cnt / 512)).toNat % 2 ^ 32) rfl (fun h0 => absurd h0 hn), if_neg hn]
    rfl
  · rw [exec_loopi_opens h o s hf hlo hhi (fun h0 => absurd h0 hn), if_neg hn]
    rfl
  · rw [exec_loop_opens h o s hf hlo hhi 0 hn (fun _ => hw), if_pos rfl]
    rfl
  · have hi := exec_loopi_opens h o s hf hlo hhi (fun _ => hw)
    rw [if_pos hn, hn] at hi
    exact hi
  · refine ⟨?_, lvNow_failBundle_judged h s _ _ _ _ _⟩
    obtain rfl | rfl : i = .loop h o ∨ i = .loopi h o := by simpa using hi
    · exact congrArg _ (issueOne_loopSem_range (i := .loop h o) hf hr)
    · exact congrArg _ (issueOne_loopSem_range (i := .loopi h o) hf hr)

end Sys2Proof.Machine

/-! ## Quotients and remainders (R158) -/

namespace Sys2Proof.Machine

@[simp] theorem atIssue_getS (i : Instr) (al : Bool) (s : State) (n : Nat) :
    (atIssue i al s).getS n = (found (headOf i) s).getS n := passed_getS ..

@[simp] theorem atIssue_getK (i : Instr) (al : Bool) (s : State) (n : Nat) :
    (atIssue i al s).getK n = (found (headOf i) s).getK n := passed_getK ..

@[simp] theorem atIssue_memOffset (i : Instr) (al : Bool) (s : State) (x off : Nat) :
    memOffset (atIssue i al s) x off = memOffset (found (headOf i) s) x off := passed_memOffset ..

/-- A fixed-latency function of two registers writes its value on what the slot finds in them (R109, R156). -/
theorem issueOne_intOp_regs (i : Instr) (s : State) (l : Nat) (o : SR) (f : Word → Word → Word)
    (hm : slotSem i = intOp l o.a (fun c => f (c.getS o.b) (c.getS o.c))) (hf : free (headOf i) s = true) :
    issueOne i (intOp l o.a (fun c => f (c.getS o.b) (c.getS o.c))) s =
      writesS i s l o.a (f ((found (headOf i) s).getS o.b) ((found (headOf i) s).getS o.c)) :=
  issueOne_intOp i s l o.a _ _ hm hf (by rw [atIssue_getS, atIssue_getS])

section
variable {h : Head} {s : State} (o : SR) (hf : free h s = true)
include hf

theorem exec_div : exec (.div h o) s =
    .next (writesS (.div h o) s 7 o.a (divS ((found h s).getS o.b) ((found h s).getS o.c))) :=
  congrArg _ (issueOne_intOp_regs (.div h o) s 7 o divS rfl hf)

theorem exec_rem : exec (.rem h o) s =
    .next (writesS (.rem h o) s 7 o.a (remS ((found h s).getS o.b) ((found h s).getS o.c))) :=
  congrArg _ (issueOne_intOp_regs (.rem h o) s 7 o remS rfl hf)

theorem exec_divz : exec (.divz h o) s =
    .next (writesS (.divz h o) s 7 o.a (divU ((found h s).getS o.b) ((found h s).getS o.c))) :=
  congrArg _ (issueOne_intOp_regs (.divz h o) s 7 o divU rfl hf)

theorem exec_remz : exec (.remz h o) s =
    .next (writesS (.remz h o) s 7 o.a (remU ((found h s).getS o.b) ((found h s).getS o.c))) :=
  congrArg _ (issueOne_intOp_regs (.remz h o) s 7 o remU rfl hf)

end

theorem divS_zero (a : Word) : divS a 0 = .ofInt 64 (-1) := if_pos rfl

theorem remS_zero (a : Word) : remS a 0 = a := if_pos rfl

theorem divU_zero (a : Word) : divU a 0 = .ofNat 64 (2 ^ 64 - 1) := if_pos rfl

theorem remU_zero (a : Word) : remU a 0 = a := if_pos rfl

section
variable {a b : Word} (hb : b ≠ 0)
include hb

theorem divS_of_ne : divS a b = .ofInt 64 (a.toInt.tdiv b.toInt) := if_neg hb

/-- The remainder that the model truncates is the table's a − q × b. -/
theorem remS_of_ne : remS a b = .ofInt 64 (a.toInt - a.toInt.tdiv b.toInt * b.toInt) := by
  rw [remS, if_neg hb, wrap64, Int.tmod_def, mul_comm]

theorem divU_of_ne : divU a b = .ofNat 64 (a.toNat / b.toNat) := if_neg hb

theorem remU_of_ne : remU a b = .ofNat 64 (a.toNat % b.toNat) := if_neg hb

end

/-- Settles O2: each of the four writes its value function on the operands found, and the cases of the table split that:
a zero divisor, the one signed quotient that wraps, and the rest (R158). -/
theorem division : Obligations.Division := by
  unfold Obligations.Division
  intro h s o hf _ a b
  rw [exec_div o hf, exec_rem o hf, exec_divz o hf, exec_remz o hf]
  refine ⟨fun hb => ?byZero, fun ha hb => ?wraps, fun hb => ⟨fun _ => ?signed, ?unsigned⟩⟩
  case byZero =>
    rw [show (found h s).getS o.c = 0 from hb, divS_zero, remS_zero, divU_zero, remU_zero]
    exact ⟨rfl, rfl, rfl, rfl⟩
  case wraps =>
    have hne : b ≠ 0 := fun h0 => by simp [h0] at hb
    rw [divS_of_ne hne, remS_of_ne hne, ha, hb]
    exact ⟨rfl, rfl⟩
  case signed =>
    rw [divS_of_ne hb, remS_of_ne hb]
    exact ⟨rfl, rfl⟩
  case unsigned =>
    rw [divU_of_ne hb, remU_of_ne hb]
    exact ⟨rfl, rfl⟩

end Sys2Proof.Machine

/-! ## Reading a slot word back (R105, R128, R129, R358) -/

namespace Sys2Proof

theorem Head.inS_iff (h : Head) : h.inS = true ↔ h.inRange = true ∧ h.slot = .S := by simp [Head.inS]

theorem SR.put_lt {o : SR} (ho : o.inRange = true) : o.put < 2 ^ 45 := by
  simp only [SR.inRange, Bool.and_eq_true, decide_eq_true_eq] at ho
  unfold SR.put
  omega

theorem SM.put_lt {o : SM} (ho : o.inRange = true) : o.put < 2 ^ 45 := by
  simp only [SM.inRange, Bool.and_eq_true, decide_eq_true_eq] at ho
  unfold SM.put
  omega

section
variable {h : Head} {op body : Nat}

theorem bits_put_class (hh : h.inRange = true) (hop : op < 1024) (hb : body < 2 ^ 45) :
    bits (h.put op body) 77 3 = h.slot.num := by
  have hn : h.slot.num < 6 := by cases h.slot <;> decide
  simp only [Head.inRange, Bool.and_eq_true, decide_eq_true_eq] at hh
  unfold bits Head.put
  omega

theorem bits_put_opcode (hh : h.inRange = true) (hop : op < 1024) (hb : body < 2 ^ 45) :
    bits (h.put op body) 67 10 = op := by
  simp only [Head.inRange, Bool.and_eq_true, decide_eq_true_eq] at hh
  unfold bits Head.put
  omega

theorem getHead_put (hh : h.inRange = true) (hb : body < 2 ^ 45) : getHead h.slot (h.put op body) = h := by
  obtain ⟨slot, pd, atag, w0, w1, pneg, pidx⟩ := h
  simp only [Head.inRange, Bool.and_eq_true, decide_eq_true_eq] at hh
  simp only [getHead, bits, Head.put, Head.mk.injEq, true_and]
  omega

theorem bits_eq_mod_div (w lo len : Nat) : bits w lo len = w % 2 ^ (lo + len) / 2 ^ lo := by
  rw [bits, pow_add, Nat.mod_mul_right_div_self]

/-- Below its head a slot word holds its operand field. -/
theorem bits_put_body (lo len : Nat) (hl : lo + len ≤ 45) : bits (h.put op body) lo len = bits body lo len := by
  have hput : h.put op body ≡ body [MOD 2 ^ 45] := by
    unfold Nat.ModEq Head.put
    omega
  rw [bits_eq_mod_div, bits_eq_mod_div, hput.of_dvd (pow_dvd_pow 2 hl)]

theorem getSR_put {o : SR} (ho : o.inRange = true) : getSR (h.put op o.put) = o := by
  obtain ⟨a, b, c, d, r⟩ := o
  simp only [SR.inRange, Bool.and_eq_true, decide_eq_true_eq] at ho
  simp only [getSR, bits_put_body, Nat.reduceAdd, Nat.reduceLeDiff]
  simp only [bits, SR.put, SR.mk.injEq]
  omega

theorem getSM_put {o : SM} (ho : o.inRange = true) : getSM (h.put op o.put) = o := by
  obtain ⟨a, k, x, off, v, w, ext, ty, hint, r⟩ := o
  simp only [SM.inRange, Bool.and_eq_true, decide_eq_true_eq] at ho
  simp only [getSM, bits_put_body, Nat.reduceAdd, Nat.reduceLeDiff]
  simp only [bits, SM.put, SM.mk.injEq]
  omega

end

/-- The word of an instruction whose row its slot's opcode space has passes steps 7 and 8 of R358: what is left of its
decoding is the checks of its bits and of its codes. -/
theorem decodeSlot_encode {i : Instr} {h : Head} {op body : Nat} {f : Head → Nat → Instr} (hi : slotParts i = some (h, op, body))
    (hrow : opcodeRow h.slot op = some f) (hop : op < 1024) (hh : h.inRange = true) (hb : body < 2 ^ 45)
    (hf : f h (h.put op body) = i) :
    decodeSlot h.slot (encode i) =
      if rsvOk i = false then .error .reservedSet else if opOk i = false then .error .badOperand else .ok i := by
  have henc : encode i = h.put op body := by rw [encode, hi]
  simp only [decodeSlot, henc, bits_put_class hh hop hb, bits_put_opcode hh hop hb, hrow, getHead_put hh hb, hf, ne_eq,
    not_true_eq_false, if_false]

/-- A word of slot S whose bits are in order but which holds an unassigned code (R358, steps 9 and 10). -/
theorem decodeSlot_encode_badOperand {i : Instr} {h : Head} {op body : Nat} {f : Head → Nat → Instr}
    (hi : slotParts i = some (h, op, body)) (hrow : opcodeRow .S op = some f) (hop : op < 1024) (hh : h.inS = true)
    (hb : body < 2 ^ 45) (hf : f h (h.put op body) = i) (hbad : opOk i = false) (hrsv : rsvOk i = true) :
    decodeSlot .S (encode i) = .error .badOperand := by
  obtain ⟨hr, hslot⟩ := (Head.inS_iff h).mp hh
  rw [← hslot] at hrow ⊢
  rw [decodeSlot_encode hi hrow hop hr hb hf, hrsv, hbad]
  rfl

end Sys2Proof

/-! ## Capability instructions (R164, R165) -/

namespace Sys2Proof.Machine

/-- What a capability instruction into k[A] leaves, where its source is `k` and `v` its result within it, if any (R164). -/
def capOutcome (i : Instr) (s : State) (a : Nat) (k : BitVec 128) (v : Option (BitVec 128)) : State :=
  if capOid k = 0 then writesK i s a 0
  else match v with
    | some w => writesK i s a w
    | none => failBundle (judged (headOf i) s) s.cur.1 s.cur.2 0x32 0 (headOf i).slot.num 0 (pcOf s + 1)

section
variable {i : Instr} {s : State} {a : Nat} {k w : BitVec 128} {v : Option (BitVec 128)}

theorem capOutcome_null (h0 : capOid k = 0) : capOutcome i s a k v = writesK i s a 0 := if_pos h0

theorem capOutcome_some (h0 : capOid k ≠ 0) : capOutcome i s a k (some w) = writesK i s a w := if_neg h0

theorem capOutcome_none (h0 : capOid k ≠ 0) :
    capOutcome i s a k none =
      failBundle (judged (headOf i) s) s.cur.1 s.cur.2 0x32 0 (headOf i).slot.num 0 (pcOf s + 1) := if_neg h0

/-- A result within its source is written (R67). -/
theorem capOutcome_within {p : Prop} [Decidable p] (h0 : capOid k ≠ 0) (hp : p) :
    capOutcome i s a k (if p then some w else none) = writesK i s a w := by rw [if_pos hp, capOutcome_some h0]

/-- A wider one is CAP_WIDEN (R67). -/
theorem capOutcome_widens {p : Prop} [Decidable p] (h0 : capOid k ≠ 0) (hp : ¬p) :
    capOutcome i s a k (if p then some w else none) =
      failBundle (judged (headOf i) s) s.cur.1 s.cur.2 0x32 0 (headOf i).slot.num 0 (pcOf s + 1) := by
  rw [if_neg hp, capOutcome_none h0]

end

/-- A capability instruction whose operands read the same before and after its issue (R164). -/
theorem issueOne_capOp_eq (i : Instr) (s : State) (a : Nat) (src : Ctx → BitVec 128) (v : Ctx → Option (BitVec 128))
    (hm : slotSem i = capOp a src v) (hf : free (headOf i) s = true)
    (hs : ∀ al, src (atIssue i al s) = src (found (headOf i) s)) (hv : ∀ al, v (atIssue i al s) = v (found (headOf i) s)) :
    issueOne i (capOp a src v) s = capOutcome i s a (src (found (headOf i) s)) (v (found (headOf i) s)) := by
  by_cases h0 : capOid (src (found (headOf i) s)) = 0
  · rw [capOutcome_null h0, issueOne_capOp i s a src v 0 hm hf hs hv (by rw [if_pos h0])]
  · cases hw : v (found (headOf i) s) with
    | some w => rw [capOutcome_some h0, issueOne_capOp i s a src v w hm hf hs hv (by rw [if_neg h0, hw])]
    | none =>
      have hc : (capOp a src v).chk (here i s) (judged (headOf i) s) = some { code := 0x32 } := by
        simp only [capOp, here_ctx, ctx_judged, h0, hw, Option.isSome_none, Bool.false_eq_true, or_self, if_false]
      rw [capOutcome_none h0, issueOne_fails i _ s _ hf hc]

section
variable {h : Head} {s : State} (hf : free h s = true)
include hf

theorem exec_lea (o : SM) : exec (.lea h o) s =
    let k := (found h s).getK o.k
    let x := (memOffset (found h s) o.x o.off).toNat
    .next (capOutcome (.lea h o) s o.a k (if capLower k ≤ x ∧ x ≤ capUpper k then some (setFld k 32 48 x) else none)) :=
  congrArg Host.Outcome.next (issueOne_capOp_eq (.lea h o) s o.a _ _ rfl hf (fun _ => atIssue_getK ..)
    (fun _ => by rw [atIssue_getK, atIssue_memOffset]))

theorem exec_caprs (o : SR) : exec (.caprs h o) s =
    let k := (found h s).getK (o.b % 16)
    let r := ((found h s).getS o.c).toNat
    .next (capOutcome (.caprs h o) s o.a k (if r < 256 ∧ r &&& capRights k = r then some (setFld k 24 8 r) else none)) :=
  congrArg Host.Outcome.next (issueOne_capOp_eq (.caprs h o) s o.a _ _ rfl hf (fun _ => atIssue_getK ..)
    (fun _ => by rw [atIssue_getK, atIssue_getS]))

theorem exec_caprt (o : SR) : exec (.caprt h o) s =
    let k := (found h s).getK (o.b % 16)
    let lo := ((found h s).getS o.c).toNat
    let hi := ((found h s).getS o.d).toNat
    .next (capOutcome (.caprt h o) s o.a k
      (if capLower k ≤ lo ∧ lo ≤ hi ∧ hi ≤ capUpper k then some (setFld (setFld k 32 48 lo) 80 48 hi) else none)) :=
  congrArg Host.Outcome.next (issueOne_capOp_eq (.caprt h o) s o.a _ _ rfl hf (fun _ => atIssue_getK ..)
    (fun _ => by rw [atIssue_getK, atIssue_getS, atIssue_getS]))

theorem exec_capmv (o : SR) : exec (.capmv h o) s =
    let k := (found h s).getK (o.b % 16)
    .next (capOutcome (.capmv h o) s o.a k (some k)) :=
  congrArg Host.Outcome.next (issueOne_capOp_eq (.capmv h o) s o.a _ _ rfl hf (fun _ => atIssue_getK ..)
    (fun _ => by rw [atIssue_getK]))

end

/-! ### Reading a capability (R165) -/

theorem fld_lt {w : Nat} (v : BitVec w) (lo len : Nat) : fld v lo len < 2 ^ len := Nat.mod_lt _ (Nat.two_pow_pos len)

theorem capRead_null {k : BitVec 128} (h0 : capOid k = 0) (sel : Nat) : capRead k sel = 0 := if_pos h0

/-- The field that each code below 4 selects. -/
theorem capRead_of_lt {k : BitVec 128} (h0 : capOid k ≠ 0) {sel : Nat} (hsel : sel < 4) :
    capRead k sel = [k.toNat % 2 ^ 32, capLower k, capUpper k, capUpper k - capLower k].getD sel 0 := by
  unfold capRead
  rw [if_neg h0]
  match sel, hsel with
  | 0, _ => simp [fld, bits]
  | 1, _ => rfl
  | 2, _ => rfl
  | 3, _ => rfl

theorem capRead_lt (k : BitVec 128) (sel : Nat) : capRead k sel < 2 ^ 64 := by
  have hlow := fld_lt k 0 32
  have hlower : capLower k < 2 ^ 48 := fld_lt k 32 48
  have hupper : capUpper k < 2 ^ 48 := fld_lt k 80 48
  unfold capRead
  split
  · omega
  · split <;> omega

/-- No field is wider than a register, so capq is a scalar producer. -/
theorem semCapq_eq_intOp (o : SR) :
    semCapq o = intOp 1 o.a (fun c => .ofNat 64 (capRead (c.getK (o.b % 16)) o.c)) := by
  have hw (k : BitVec 128) : (BitVec.ofNat 64 (capRead k o.c)).setWidth 512 = .ofNat 512 (capRead k o.c) := by
    rw [← BitVec.ofNat_toNat, BitVec.toNat_ofNat, Nat.mod_eq_of_lt (capRead_lt k o.c)]
  simp only [semCapq, intOp, hw]

theorem exec_capq {h : Head} {s : State} (hf : free h s = true) (o : SR) :
    exec (.capq h o) s = .next (writesS (.capq h o) s 1 o.a (.ofNat 64 (capRead ((found h s).getK (o.b % 16)) o.c))) := by
  have hx : exec (.capq h o) s = .next (issueOne (.capq h o) (semCapq o) s) := rfl
  rw [hx, semCapq_eq_intOp, issueOne_intOp (.capq h o) s 1 o.a _ _ (semCapq_eq_intOp o) hf (by rw [atIssue_getK])]
  rfl

/-! ### Codes that are no register or selector -/

/-- An SR word of slot S whose bits are in order but which holds an unassigned code (R358, steps 9 and 10). -/
theorem decodeSlot_encode_SR_badOperand {mk : Head → SR → Instr} {h : Head} {o : SR} {op : Nat}
    (hi : slotParts (mk h o) = some (h, op, o.put)) (hrow : opcodeRow .S op = some (fun h w => mk h (getSR w)))
    (hop : op < 1024) (hh : h.inS = true) (ho : o.inRange = true) (hbad : opOk (mk h o) = false) (hrsv : rsvOk (mk h o) = true) :
    decodeSlot .S (encode (mk h o)) = .error .badOperand :=
  decodeSlot_encode_badOperand hi hrow hop hh (SR.put_lt ho) (congrArg (mk h) (getSR_put ho)) hbad hrsv

theorem decodeSlot_encode_lea_badOperand {h : Head} {o : SM} (hh : h.inS = true) (ho : o.inRange = true) (ha : 16 ≤ o.a)
    (hrsv : rsvOk (.lea h o) = true) : decodeSlot .S (encode (.lea h o)) = .error .badOperand :=
  decodeSlot_encode_badOperand (op := 0x080) (f := fun h w => .lea h (getSM w)) rfl rfl (by decide) hh (SM.put_lt ho)
    (congrArg (Instr.lea h) (getSM_put ho)) (decide_eq_false (by omega)) hrsv

theorem opOk_capq {h : Head} {o : SR} (hx : 16 ≤ o.b ∨ 4 ≤ o.c) : opOk (.capq h o) = false := by
  show (decide (o.b < 16) && decide (o.c < 4)) = false
  simp only [Bool.and_eq_false_iff, decide_eq_false_iff_not]
  omega

section
variable {h : Head} {o : SR} (hh : h.inS = true) (ho : o.inRange = true)
include hh ho

theorem decodeSlot_encode_capq_badOperand (hx : 16 ≤ o.b ∨ 4 ≤ o.c) (hrsv : rsvOk (.capq h o) = true) :
    decodeSlot .S (encode (.capq h o)) = .error .badOperand :=
  decodeSlot_encode_SR_badOperand (mk := .capq) (op := 0x083) rfl rfl (by decide) hh ho (opOk_capq hx) hrsv

/-- The three SR forms that write k[A]. -/
theorem decodeSlot_encode_capWrite_badOperand (hx : 16 ≤ o.a ∨ 16 ≤ o.b) {i : Instr}
    (hi : i ∈ [Instr.caprs h o, .caprt h o, .capmv h o]) (hrsv : rsvOk i = true) :
    decodeSlot .S (encode i) = .error .badOperand := by
  have hbad : (decide (o.a < 16) && decide (o.b < 16)) = false := by
    simp only [Bool.and_eq_false_iff, decide_eq_false_iff_not]
    omega
  obtain rfl | rfl | rfl : i = .caprs h o ∨ i = .caprt h o ∨ i = .capmv h o := by simpa using hi
  · exact decodeSlot_encode_SR_badOperand (mk := .caprs) (op := 0x081) rfl rfl (by decide) hh ho hbad hrsv
  · exact decodeSlot_encode_SR_badOperand (mk := .caprt) (op := 0x082) rfl rfl (by decide) hh ho hbad hrsv
  · exact decodeSlot_encode_SR_badOperand (mk := .capmv) (op := 0x084) rfl rfl (by decide) hh ho hbad hrsv

end

/-- Settles O9: `capOutcome` says of each capability writer when it writes the null capability, its result or nothing;
capq writes what `capRead` selects; and an operand with a set bit above its code fails the last check of the decoder, which
its word otherwise passes (R164, R165, R358). -/
theorem capabilityResults : Obligations.CapabilityResults := by
  unfold Obligations.CapabilityResults
  refine ⟨?results, ?widening, ?operands⟩
  case results =>
    intro h s hf _ c
    refine ⟨fun o h0 hlo hhi => ?lea, fun o h0 hr hsub => ?caprs, fun o h0 hlo hle hhi => ?caprt, fun o h0 hsel => ?capq,
      fun o h0 => ?capmv, fun o h0 => ?nullLea, fun o h0 => ⟨?nullCaprs, ?nullCaprt, ?nullCapmv, fun _ => ?nullCapq⟩⟩
    case lea => exact (exec_lea hf o).trans (congrArg _ (capOutcome_within h0 ⟨hlo, hhi⟩))
    case caprs => exact (exec_caprs hf o).trans (congrArg _ (capOutcome_within h0 ⟨hr, hsub⟩))
    case caprt => exact (exec_caprt hf o).trans (congrArg _ (capOutcome_within h0 ⟨hlo, hle, hhi⟩))
    case capq => rw [exec_capq hf o, capRead_of_lt h0 hsel]
    case capmv => exact (exec_capmv hf o).trans (congrArg _ (capOutcome_some h0))
    case nullLea => exact (exec_lea hf o).trans (congrArg _ (capOutcome_null h0))
    case nullCaprs => exact (exec_caprs hf o).trans (congrArg _ (capOutcome_null h0))
    case nullCaprt => exact (exec_caprt hf o).trans (congrArg _ (capOutcome_null h0))
    case nullCapmv => exact (exec_capmv hf o).trans (congrArg _ (capOutcome_null h0))
    case nullCapq =>
      rw [exec_capq hf o, capRead_null h0]
      rfl
  case widening =>
    intro h s hf _ c widens
    refine ⟨fun o h0 hw => ?lea, fun o h0 hw => ?caprs, fun o h0 hw => ?caprt⟩
    case lea => exact (exec_lea hf o).trans (congrArg _ (capOutcome_widens h0 hw))
    case caprs => exact (exec_caprs hf o).trans (congrArg _ (capOutcome_widens h0 hw))
    case caprt => exact (exec_caprt hf o).trans (congrArg _ (capOutcome_widens h0 hw))
  case operands =>
    intro h hh bad
    refine ⟨fun o ho ha => decodeSlot_encode_lea_badOperand hh ho ha,
      fun o ho => ⟨fun hb i hi => ?source, fun ha i hi => ?dest, fun hc => ?selector⟩⟩
    case source =>
      obtain rfl | hwr : i = .capq h o ∨ i ∈ [Instr.caprs h o, .caprt h o, .capmv h o] := by
        simp only [List.mem_cons, List.not_mem_nil, or_false] at hi ⊢
        tauto
      · exact decodeSlot_encode_capq_badOperand hh ho (.inl hb)
      · exact decodeSlot_encode_capWrite_badOperand hh ho (.inr hb) hwr
    case dest => exact decodeSlot_encode_capWrite_badOperand hh ho (.inl ha) hi
    case selector => exact decodeSlot_encode_capq_badOperand hh ho (.inr hc)

end Sys2Proof.Machine

/-! ## Fields of a vector -/

namespace Sys2Proof.Machine

/-- The bits above a field, the field and the bits below it. -/
theorem toNat_eq_fields {w : Nat} (v : BitVec w) (lo len : Nat) :
    v.toNat = v.toNat / 2 ^ lo / 2 ^ len * 2 ^ len * 2 ^ lo + fld v lo len * 2 ^ lo + v.toNat % 2 ^ lo := by
  have hlo := Nat.div_add_mod' v.toNat (2 ^ lo)
  have hlen := Nat.div_add_mod' (v.toNat / 2 ^ lo) (2 ^ len)
  rw [← Nat.add_mul, fld, bits, hlen, hlo]

/-- A field that was put reads back. -/
theorem fld_setFld_same {w : Nat} (v : BitVec w) (lo len x : Nat) (h : lo + len ≤ w) :
    fld (setFld v lo len x) lo len = x % 2 ^ len := by
  have hv := toNat_eq_fields v lo len
  set top := v.toNat / 2 ^ lo / 2 ^ len
  have hset : v.toNat - fld v lo len * 2 ^ lo + x % 2 ^ len * 2 ^ lo = v.toNat % 2 ^ lo + 2 ^ lo * (x % 2 ^ len + 2 ^ len * top) := by
    rw [Nat.mul_add, Nat.mul_comm (2 ^ lo) (2 ^ len * top), Nat.mul_comm (2 ^ len) top, Nat.mul_comm (2 ^ lo)]
    omega
  have hcut (n : Nat) : n % 2 ^ w / 2 ^ lo % 2 ^ len = n / 2 ^ lo % 2 ^ len := by
    obtain ⟨r, rfl⟩ := Nat.exists_eq_add_of_le h
    rw [Nat.pow_add, Nat.pow_add, Nat.mul_assoc, Nat.mod_mul_right_div_self, Nat.mod_mul_right_mod]
  rw [fld, bits, setFld, BitVec.toNat_ofNat, hcut, hset, Nat.add_mul_div_left _ _ (Nat.two_pow_pos lo),
    Nat.div_eq_of_lt (Nat.mod_lt _ (Nat.two_pow_pos lo)), Nat.zero_add, Nat.add_mul_mod_self_left, Nat.mod_mod]

/-- Putting back what a field holds changes nothing. -/
theorem setFld_fld {w : Nat} (v : BitVec w) (lo len : Nat) : setFld v lo len (fld v lo len) = v := by
  have hle : fld v lo len * 2 ^ lo ≤ v.toNat := by
    have := toNat_eq_fields v lo len
    omega
  rw [setFld, Nat.mod_eq_of_lt (fld_lt v lo len), Nat.sub_add_cancel hle, BitVec.ofNat_toNat, BitVec.setWidth_eq]

/-- What one step of a fold brings about, and every step keeps, holds in the end. -/
theorem foldl_reaches {α β : Type} (P : β → Prop) {f : β → α → β} {l : List α} {u : α} (hu : u ∈ l) (hmake : ∀ b, P (f b u))
    (hkeep : ∀ b, ∀ n ∈ l, P b → P (f b n)) (b : β) : P (l.foldl f b) := by
  obtain ⟨l₁, l₂, rfl⟩ := List.append_of_mem hu
  rw [List.foldl_append, List.foldl_cons]
  exact List.foldlRecOn l₂ f (hmake _) (fun b hb n hn => hkeep b n (by simp [hn]) hb)

/-! ## Tile states and captured descriptors (R188, R191, R217) -/

/-- A tile or an accumulator that becomes filling is filling. -/
theorem tstate_setTstate_filling (a : Arch) (t : Nat) : (a.setTstate t 1).tstate t = 1 := by
  unfold Arch.setTstate Arch.tstate
  split
  next ht => simp [Arch.setDesc, Arch.desc, dState, ht, fld_setFld_same]
  · simp

/-- It leaves every other one as it is. -/
theorem tstate_setTstate_other (a : Arch) (t u v : Nat) (h : u ≠ t) : (a.setTstate t v).tstate u = a.tstate u := by
  unfold Arch.setTstate Arch.tstate
  by_cases ht : t < 64
  · rw [if_pos ht]
    simp [Arch.setDesc, Arch.desc, Tab.get_set_other _ _ _ _ _ _ h]
  · rw [if_neg ht]
    by_cases hu : u < 64
    · simp [Arch.desc, hu]
    · simp [hu, Tab.get_set_other _ (t - 64) (u - 64) _ _ _ (by omega)]

/-- Every tile of a list that becomes filling is filling. -/
theorem tstate_foldl_filling (l : List Nat) (a : Arch) (u : Nat) (h : u ∈ l) :
    (l.foldl (fun a t => a.setTstate t 1) a).tstate u = 1 := by
  refine foldl_reaches (fun a : Arch => a.tstate u = 1) h (fun a => tstate_setTstate_filling a u) (fun a t _ ha => ?_) a
  by_cases ht : u = t
  · exact ht ▸ tstate_setTstate_filling a u
  · exact (tstate_setTstate_other a t u 1 ht).trans ha

/-- At re-issue index 0 no BASE is stepped (R114). -/
theorem dStepped_zero (d : BitVec 128) : dStepped d 0 = d := by
  rw [dStepped, show (dBaseAt d 0).toNat = fld d 0 25 by simp [dBaseAt, dBase], setFld_fld]

/-- A tile among those captured is captured with its BASE stepped. -/
theorem get_captureDescs (a : Arch) (k : Nat) (l : List Nat) (u : Nat) (hu : u < 64) (h : u ∈ l) :
    (captureDescs a k l).get u 0 = dStepped (a.desc u) k := by
  refine foldl_reaches (fun t : Tab (BitVec 128) => t.get u 0 = dStepped (a.desc u) k) h (fun t => ?named) (fun t n _ ht => ?kept) []
  case named => rw [if_pos hu, Tab.get_set_same]
  case kept =>
    by_cases hn : u = n
    · rw [← hn, if_pos hu, Tab.get_set_same]
    · split
      · rw [Tab.get_set_other _ _ _ _ _ _ hn, ht]
      · exact ht

end Sys2Proof.Machine

/-! ## What a lone issue keeps of what its slot does -/

namespace Sys2Proof.Machine

/-- An architectural state without where issue goes on and without the token of a yield. -/
def Arch.placeless (a : Arch) : Arch := { a with pc := 0, reps := 0, lv := [], aw := none }

theorem tstate_placeless (a : Arch) (u : Nat) : a.placeless.tstate u = a.tstate u := rfl

theorem cbA_placeless (a : Arch) : a.placeless.cbA = a.cbA := rfl

theorem cbW_placeless (a : Arch) : a.placeless.cbW = a.cbW := rfl

theorem placeless_setPc (c : Ctx) (n : Nat) : (c.setPc n).a.placeless = c.a.placeless := by
  unfold Ctx.setPc
  split <;> rfl

theorem placeless_setReps (c : Ctx) (n : Nat) : (c.setReps n).a.placeless = c.a.placeless := by
  unfold Ctx.setReps
  split <;> rfl

theorem placeless_setLv (c : Ctx) (t : Tab Level) : (c.setLv t).a.placeless = c.a.placeless := by
  unfold Ctx.setLv
  split <;> rfl

theorem placeless_movedOn (hdr : Nat) (g : Option Nat) (c : Ctx) : (movedOn hdr g c).a.placeless = c.a.placeless := by
  cases g with
  | none => exact (placeless_setPc _ _).trans ((placeless_setLv _ _).trans (placeless_setReps _ _))
  | some t => exact (placeless_setPc _ _).trans (placeless_setReps _ _)

theorem arch_openRegion (c : Ctx) : c.openRegion.a = c.a := by
  unfold Ctx.openRegion Ctx.setShadow
  dsimp only
  split <;> rfl

theorem arch_closeRegion (c : Ctx) : c.closeRegion.a = c.a := by
  unfold Ctx.closeRegion
  split <;> rfl

theorem arch_settleMark (c : Ctx) : (settleMark c).a = c.a := by
  unfold settleMark
  split
  · exact (arch_openRegion _).trans (arch_closeRegion _)
  · rfl

theorem ctx_updCore (s : State) (c i : Nat) (f : Core → Core) (hf : (f (s.core c)).ctx = (s.core c).ctx) :
    (s.updCore c f).ctx c i = s.ctx c i := by
  simp only [State.ctx, State.core_updCore, Core.slot, hf]

theorem cur_counted (core slot : Nat) (s : State) : (counted core slot s).cur = s.cur := rfl

theorem placeless_counted (s : State) (core slot : Nat) :
    ((counted core slot s).ctx core slot).a.placeless = (s.ctx core slot).a.placeless := by
  rw [counted, State.ctx_updCtx, arch_settleMark]
  have hc := ctx_updCore s core slot (fun k => { k with issues := k.issues + 1, cur := slot }) rfl
  rw [hc]
  dsimp only
  split <;> rfl

section
variable {i : Instr} {al : Bool} {s : State} {eff : State → State} {g : Option Nat}

/-- The architectural state that the effect of a lone slot leaves stays to the end of its issue, but for where issue goes
on and the token of a yield. -/
theorem placeless_issued (h : (eff (issuing i al s)).cur = s.cur) :
    (hand (issued i al s eff g id)).a.placeless = ((eff (issuing i al s)).ctx s.cur.1 s.cur.2).a.placeless := by
  have hcur : (issued i al s eff g id).cur = s.cur := (cur_counted _ _ _).trans h
  rw [hand, hcur, issued, placeless_counted, id_eq, State.ctx_updCtx, placeless_movedOn]

theorem tstate_issued (h : (eff (issuing i al s)).cur = s.cur) (u : Nat) :
    (hand (issued i al s eff g id)).a.tstate u = ((eff (issuing i al s)).ctx s.cur.1 s.cur.2).a.tstate u := by
  rw [← tstate_placeless, placeless_issued h, tstate_placeless]

theorem cbA_issued (h : (eff (issuing i al s)).cur = s.cur) :
    (hand (issued i al s eff g id)).a.cbA = ((eff (issuing i al s)).ctx s.cur.1 s.cur.2).a.cbA := by
  rw [← cbA_placeless, placeless_issued h, cbA_placeless]

theorem cbW_issued (h : (eff (issuing i al s)).cur = s.cur) :
    (hand (issued i al s eff g id)).a.cbW = ((eff (issuing i al s)).ctx s.cur.1 s.cur.2).a.cbW := by
  rw [← cbW_placeless, placeless_issued h, cbW_placeless]

/-- So do the operations of its core. -/
theorem ops_issued : ((issued i al s eff g id).core s.cur.1).ops = ((eff (issuing i al s)).core s.cur.1).ops := by
  simp [issued, counted, State.core_updCtx, Core.setSlot]

/-- And its planes. -/
theorem plane_issued (n : Nat) : ((issued i al s eff g id).core s.cur.1).plane n = ((eff (issuing i al s)).core s.cur.1).plane n := by
  simp [issued, counted, State.core_updCtx, Core.setSlot, Core.plane]

end

end Sys2Proof.Machine

/-! ## Engine operations at their issue (R119, R191, R217, R220) -/

namespace Sys2Proof.Machine

@[simp] theorem Core.plane_setPlane (k : Core) (n : Nat) (p : Plane) : (k.setPlane n p).plane n = p := by
  unfold Core.setPlane Core.plane
  split <;> rfl

@[simp] theorem Core.ops_setPlane (k : Core) (n : Nat) (p : Plane) : (k.setPlane n p).ops = k.ops := by
  unfold Core.setPlane
  split <;> rfl

/-- An operation as the engine of a core takes it: with its number, its engine entry, its time and the plane before it. -/
def EOp.taken (s : State) (core : Nat) (o : EOp) : EOp :=
  { o with
    id := (s.core core).nextId
    entry := if o.copy then ((List.range 32).find? (fun e => !(((s.core core).ops.filter (·.copy)).map (·.entry)).contains e)).getD 0 else 0
    asked := s.now
    before := if isLoad o.ins && !o.predOff then some ((s.core core).plane o.cap.plane) else o.before }

/-- The core that takes it, its contexts as they were. -/
def Core.takes (s : State) (core : Nat) (o : EOp) : Core :=
  let k := s.core core
  let k := if isLoad o.ins && !o.predOff then k.setPlane o.cap.plane (startLoad (k.plane o.cap.plane) (o.taken s core)) else k
  { k with ops := k.ops ++ [o.taken s core], nextId := k.nextId + 1 }

/-- The tiles that an operation takes, in the context that issues it. -/
def EOp.takesTiles (o : EOp) (c : Ctx) : Ctx :=
  let a := o.written.foldl (fun a t => a.setTstate t 1) c.a
  { c with a := match o.outSource with
      | some (t, _) => a.setTstate t 3
      | none => a }

/-- What a launch does: the core takes the operation and, where it is not predicated off, its tiles. -/
theorem launch_eq (s : State) (core : Nat) (o : EOp) (hp : o.predOff = false) :
    launch s core o = (s.setCore core (Core.takes s core o)).updCtx core o.slot o.takesTiles := by
  simp only [launch, Core.takes, EOp.taken, hp]
  cases isLoad o.ins <;> rfl

theorem ops_takes (s : State) (core : Nat) (o : EOp) : (Core.takes s core o).ops = (s.core core).ops ++ [o.taken s core] := by
  unfold Core.takes
  dsimp only
  split
  · rw [Core.ops_setPlane]
  · rfl

theorem plane_takes (s : State) (core : Nat) (o : EOp) (hl : isLoad o.ins = true) (hp : o.predOff = false) :
    (Core.takes s core o).plane o.cap.plane = startLoad ((s.core core).plane o.cap.plane) (o.taken s core) := by
  unfold Core.takes
  simp only [hl, hp, Bool.not_false, Bool.and_true, if_true]
  exact Core.plane_setPlane _ _ _

/-- The tiles that an operation writes are filling from its launch on, if it is no outbound copy (R191). -/
theorem tstate_takesTiles (o : EOp) (c : Ctx) (u : Nat) (ho : o.outSource = none) (hu : u ∈ o.written) :
    (o.takesTiles c).a.tstate u = 1 := by
  simp only [EOp.takesTiles, ho]
  exact tstate_foldl_filling _ _ _ hu

/-- What the start of an operation by a slot that is on leaves: the engine holds it, and its tiles and its plane are
taken. DRAW, which advances behind it, is none of these (R149). -/
structure Started (p : At) (s t : State) : Prop where
  cur : t.cur = s.cur
  ops : (t.core p.core).ops = (s.core p.core).ops ++ [(opOf s p).taken s p.core]
  plane : isLoad p.ins = true → (t.core p.core).plane (capture s p).plane =
    startLoad ((s.core p.core).plane (capture s p).plane) ((opOf s p).taken s p.core)
  tiles : (opOf s p).outSource = none → ∀ u ∈ (opOf s p).written, (t.ctx p.core p.slot).a.tstate u = 1

theorem Started.updCtx {p : At} {s t : State} (h : Started p s t) (f : Ctx → Ctx) (hf : ∀ c u, (f c).a.tstate u = c.a.tstate u) :
    Started p s (t.updCtx p.core p.slot f) where
  cur := h.cur
  ops := by rw [State.core_updCtx]; exact h.ops
  plane hl := by rw [State.core_updCtx]; exact h.plane hl
  tiles ho u hu := by rw [State.ctx_updCtx, hf]; exact h.tiles ho u hu

theorem started_launch (p : At) (s : State) (hp : p.on = true) : Started p s (launch s p.core (opOf s p)) := by
  have hoff : (opOf s p).predOff = false := by simp [opOf, hp]
  rw [launch_eq s p.core _ hoff]
  constructor
  case cur => rfl
  case ops =>
    rw [State.core_updCtx, State.core_setCore]
    exact ops_takes s p.core _
  case plane =>
    intro hl
    rw [State.core_updCtx, State.core_setCore]
    exact plane_takes s p.core (opOf s p) hl hoff
  case tiles =>
    intro ho u hu
    have hctx := State.ctx_updCtx (s.setCore p.core (Core.takes s p.core (opOf s p))) p.core p.slot (opOf s p).takesTiles
    exact (congrArg (fun c : Ctx => c.a.tstate u) hctx).trans (tstate_takesTiles _ _ u ho hu)

theorem started_startOp (p : At) (s : State) (hp : p.on = true) : Started p s (startOp p s) := by
  unfold startOp
  dsimp only
  split
  · exact started_launch p s hp
  · exact (started_launch p s hp).updCtx _ (fun _ _ => rfl)

/-! ### What a lone slot's operation captures (R119) -/

@[simp] theorem ops_issuing (i : Instr) (al : Bool) (s : State) : ((issuing i al s).core s.cur.1).ops = (s.core s.cur.1).ops := by
  simp [issuing, setHand, State.setCtx, Core.setSlot]

/-- The issue of a slot changes no format register, table, seed or DRAW before the slot acts. -/
theorem capFmt_atIssue (i : Instr) (al : Bool) (s : State) : capFmt (atIssue i al s).a = capFmt (found (headOf i) s).a := by
  simp [capFmt, atIssue]

theorem captureDescs_atIssue (i : Instr) (al : Bool) (s : State) (k : Nat) (l : List Nat) :
    captureDescs (atIssue i al s).a k l = captureDescs (found (headOf i) s).a k l := by
  simp [captureDescs, atIssue]

theorem capTiles_atIssue (i : Instr) (al : Bool) (s : State) (y : Word) :
    capTiles i (atIssue i al s).a y = capTiles i (found (headOf i) s).a y := by
  rw [atIssue, passed_eq]
  rfl

/-- What a lone slot's operation captures of formats, descriptors and planes, if it is no copy (R119, R213). -/
theorem capture_lone (i : Instr) (s : State) (hc : copyOf i = none) :
    let a := (found (headOf i) s).a
    let k := (issuing i true s).core s.cur.1
    let r := k.plane (planeOf i a.role)
    capture (issuing i true s) (here i s) =
      { capFmt a with
        descs := captureDescs a 0 (capTiles i a 0), plane := planeOf i a.role, recs := planeRecs i k,
        pk := r.kk, pn := r.nn, pfmt := r.fmt, pblk := r.blk } := by
  have hins : (here i s).ins = i := rfl
  have hcore : (here i s).core = s.cur.1 := rfl
  have hk : (here i s).k = 0 := rfl
  have hrole : (atIssue i true s).a.role = (found (headOf i) s).a.role := passed_a_role ..
  simp only [capture, hins, hcore, hk, hc, opYval, here_ctx, ctx_issuing, capFmt_atIssue, captureDescs_atIssue, capTiles_atIssue, hrole]

/-- The operation that a lone slot starts, before the engine numbers it. -/
def opOfLone (i : Instr) (s : State) : EOp := opOf (issuing i true s) (here i s)

theorem gated_opOfLone (i : Instr) (s : State) :
    (opOfLone i s).gated = (isGated i && (found (headOf i) s).fixOpen && !(found (headOf i) s).sup) := by
  have h : (opOfLone i s).gated = (((here i s).ctx (issuing i true s)).fixOpen && !((here i s).ctx (issuing i true s)).sup && isGated i) := rfl
  rw [h, here_ctx, ctx_issuing, atIssue, passed_fixOpen, passed_sup, Bool.and_comm, Bool.and_assoc]

/-! ### Slots that start an engine operation -/

/-- The meaning of a slot whose issue does nothing but start an engine operation that is no copy. -/
structure StartsEngine (i : Instr) : Prop where
  exec (s : State) : exec i s = .next (issueOne i (slotSem i) s)
  lat : (slotSem i).lat = .engine
  eff : (slotSem i).eff = startOp
  goes (p : At) (t : State) : (slotSem i).goes p t = none
  fin (p : At) : (slotSem i).fin p = id
  noCopy : cForm i = none

section
variable {i : Instr} {s : State} (hi : StartsEngine i) (hf : free (headOf i) s = true) (hp : passes i s = true)
include hi

theorem StartsEngine.copyOf_eq : copyOf i = none := by rw [copyOf, hi.noCopy]; rfl

theorem StartsEngine.outSource_eq : (opOfLone i s).outSource = none := by
  rw [EOp.outSource, show (opOfLone i s).ins = i from rfl, hi.noCopy]

theorem StartsEngine.mem_written {u : Nat} (hu : ∀ a, (u, true) ∈ opTiles i a 0) : u ∈ (opOfLone i s).written := by
  have ht : (opOfLone i s).tiles = opTiles i ((here i s).ctx (issuing i true s)).a (opYval ((here i s).ctx (issuing i true s)).a i) := rfl
  have hy (a : Arch) : opYval a i = 0 := by rw [opYval, hi.copyOf_eq]
  rw [EOp.written, ht, hy]
  exact List.mem_map.mpr ⟨(u, true), List.mem_filter.mpr ⟨hu _, rfl⟩, rfl⟩

include hf hp

/-- Its issue. -/
theorem StartsEngine.exec_eq : Machine.exec i s = .next (issued i true s (startOp (here i s)) none id) := by
  rw [hi.exec, issueOne_effect i s (slotSem i) true rfl hf hp (by rw [hi.lat]; rfl) hi.goes (hi.fin _), hi.eff]

/-- It starts its operation with the formats in force, the tiles that it writes filling (R119, R191). -/
theorem StartsEngine.starts {fills : List Nat} (hu : ∀ u ∈ fills, ∀ a, (u, true) ∈ opTiles i a 0) : Starts i s (isGated i) fills [] := by
  have hst := started_startOp (here i s) (issuing i true s) rfl
  refine ⟨_, (opOfLone i s).taken (issuing i true s) s.cur.1, hi.exec_eq hf hp, ?ops,
    ⟨rfl, rfl, rfl, rfl, rfl, rfl, rfl, rfl, gated_opOfLone i s⟩, ?formats, fun u hm => ?fills, fun u hm => absurd hm List.not_mem_nil⟩
  case ops =>
    have ho : ((startOp (here i s) (issuing i true s)).core s.cur.1).ops =
      ((issuing i true s).core s.cur.1).ops ++ [(opOfLone i s).taken (issuing i true s) s.cur.1] := hst.ops
    rw [ops_issued, ho, ops_issuing]
  case formats =>
    have hcap : ((opOfLone i s).taken (issuing i true s) s.cur.1).cap = capture (issuing i true s) (here i s) := rfl
    rw [hcap, capture_lone i s hi.copyOf_eq]
    exact ⟨rfl, rfl, rfl, rfl, rfl, rfl, rfl, rfl, rfl, rfl, rfl⟩
  case fills =>
    rw [tstate_issued hst.cur]
    exact hst.tiles hi.outSource_eq u (hi.mem_written (hu u hm))

/-- A load takes the plane that it names under ROLE, empty and with the shape and format of its tile (R213, R220). -/
theorem StartsEngine.loads (hl : isLoad i = true) (ht : loadTile i < 64) (hm : loadTile i ∈ capTiles i (found (headOf i) s).a 0) :
    let d := (found (headOf i) s).a.desc (loadTile i)
    ∃ t, Machine.exec i s = .next t ∧
      let p := (t.core s.cur.1).plane (planeOf i (found (headOf i) s).a.role)
      p.loaded = false ∧ p.loading = true ∧ p.owner = some s.cur.2 ∧ (p.kk, p.nn) = loadShape i d ∧ p.fmt = dFmt d := by
  have hst := started_startOp (here i s) (issuing i true s) rfl
  have hcap := capture_lone i s hi.copyOf_eq
  have hplane : (capture (issuing i true s) (here i s)).plane = planeOf i (found (headOf i) s).a.role := by rw [hcap]
  have hdesc : (capture (issuing i true s) (here i s)).descs.get (loadTile i) 0 = (found (headOf i) s).a.desc (loadTile i) := by
    rw [hcap]
    exact (get_captureDescs _ _ _ _ ht hm).trans (dStepped_zero _)
  have htaken : ((startOp (here i s) (issuing i true s)).core s.cur.1).plane (capture (issuing i true s) (here i s)).plane =
      startLoad (((issuing i true s).core s.cur.1).plane (capture (issuing i true s) (here i s)).plane)
        ((opOfLone i s).taken (issuing i true s) s.cur.1) := hst.plane hl
  refine ⟨_, hi.exec_eq hf hp, ?_⟩
  rw [plane_issued, ← hplane, htaken, ← hdesc]
  exact ⟨rfl, rfl, rfl, rfl, rfl⟩

end

end Sys2Proof.Machine

/-! ## What the matrix instructions do at their issue (R213 to R228) -/

namespace Sys2Proof.Machine

/-- The matrix instructions that start an engine operation. -/
def matrixOps (h : Head) (o : MT) : List Instr :=
  [.mloadw h o, .mloadwt h o, .mma h o, .mzero h o, .mdrain h o, .mscl h o, .moutl h o, .mstat h o]

theorem startsEngine_matrix {h : Head} {o : MT} {i : Instr} (hi : i ∈ matrixOps h o) : StartsEngine i := by
  simp only [matrixOps, List.mem_cons, List.not_mem_nil, or_false] at hi
  obtain rfl | rfl | rfl | rfl | rfl | rfl | rfl | rfl := hi <;>
    exact ⟨fun _ => rfl, rfl, rfl, fun _ _ => rfl, fun _ => rfl, rfl⟩

/-- The destinations of an M form are tiles that it writes. -/
theorem mem_opTiles_dests {i : Instr} {g : Nat} {o : MT} {f : Form} (hv : vForm i = none) (hm : mForm i = some (g, o, f))
    {u : Nat} (hu : u ∈ f.dests) (a : Arch) (y : Word) : (u, true) ∈ opTiles i a y := by
  simp only [opTiles, hv, hm, List.mem_append, List.mem_map]
  exact .inl (.inl (.inl (.inl ⟨u, hu, rfl⟩)))

/-- The operands of an M form are tiles whose descriptors it captures. -/
theorem mem_capTiles_fields {i : Instr} {g : Nat} {o : MT} {f : Form} (hv : vForm i = none) (hm : mForm i = some (g, o, f))
    {u : Nat} (hu : u ∈ f.fields) (a : Arch) (y : Word) : u ∈ capTiles i a y := by
  simp only [capTiles, hv, hm, List.mem_append]
  exact .inr hu

/-- A matrix operation fills the destinations of its form. -/
theorem matrixOp_starts {h : Head} {o : MT} {s : State} (i : Instr) (hi : i ∈ matrixOps h o) (hf : free (headOf i) s = true)
    (hp : passes i s = true) {g : Nat} {f : Form} (hv : vForm i = none) (hm : mForm i = some (g, o, f)) :
    Starts i s (isGated i) f.dests [] :=
  (startsEngine_matrix hi).starts hf hp (fun _ hu a => mem_opTiles_dests hv hm hu a 0)

/-- A load starts its operation and takes its plane (R220). -/
theorem load_starts {h : Head} {o : MT} {s : State} {i : Instr} (hi : i ∈ [Instr.mloadw h o, .mloadwt h o]) (hf : free h s = true)
    (hp : passes i s = true) (hy : o.y < 64) :
    Starts i s true [] [] ∧ ∃ t, exec i s = .next t ∧
      let p := (t.core s.cur.1).plane (namedPlane o i s)
      p.loaded = false ∧ p.loading = true ∧ p.owner = some s.cur.2 ∧ (p.kk, p.nn) = loadShape i ((found h s).a.desc o.y) ∧
        p.fmt = dFmt ((found h s).a.desc o.y) := by
  have hmem : i ∈ matrixOps h o := by
    simp only [matrixOps, List.mem_cons, List.not_mem_nil] at hi ⊢
    tauto
  have hsource : o.y ∈ [o.y] := List.mem_singleton_self _
  obtain rfl | rfl : i = .mloadw h o ∨ i = .mloadwt h o := by simpa using hi
  · exact ⟨matrixOp_starts _ hmem hf hp rfl rfl,
      (startsEngine_matrix hmem).loads hf hp rfl hy (mem_capTiles_fields rfl rfl hsource _ _)⟩
  · exact ⟨matrixOp_starts _ hmem hf hp rfl rfl,
      (startsEngine_matrix hmem).loads hf hp rfl hy (mem_capTiles_fields rfl rfl hsource _ _)⟩

theorem updCtx_congr {s : State} {c i : Nat} {f g : Ctx → Ctx} (h : f (s.ctx c i) = g (s.ctx c i)) : s.updCtx c i f = s.updCtx c i g := by
  rw [State.updCtx, State.updCtx, h]

theorem eff_semMswap (o : MT) (p : At) (s : State) :
    (semMswap o).eff p s = s.updCtx p.core p.slot (fun d => { d with a := { d.a with role := 1 - d.a.role } }) := rfl

/-- A slot that exchanges the roles and does nothing else (R221). -/
theorem issueOne_mswap {i : Instr} {o : MT} {s : State} (hm : slotSem i = semMswap o) (hf : free (headOf i) s = true)
    (hp : passes i s = true) :
    issueOne i (semMswap o) s = issued i false s
      (fun t => t.updCtx s.cur.1 s.cur.2 (fun d => { d with a := { d.a with role := 1 - (found (headOf i) s).a.role } })) none id := by
  have hrole : (atIssue i false s).a.role = (found (headOf i) s).a.role := passed_a_role ..
  rw [issueOne_effect i s (semMswap o) false hm hf hp rfl (fun _ _ => rfl) rfl]
  refine issued_congr _ _ _ _ _ _ _ ((eff_semMswap o _ _).trans ?_)
  apply updCtx_congr
  rw [← hrole, ← ctx_issuing]
  rfl

theorem exec_mswap {h : Head} {o : MT} {s : State} (hf : free h s = true) (hp : passes (.mswap h o) s = true) :
    exec (.mswap h o) s = .next (issued (.mswap h o) false s
      (fun t => t.updCtx s.cur.1 s.cur.2 (fun d => { d with a := { d.a with role := 1 - (found h s).a.role } })) none id) :=
  congrArg Host.Outcome.next (issueOne_mswap (i := .mswap h o) rfl hf hp)

/-! ### Tables written at an issue (R226) -/

/-- A table lists the entries that it is made of. -/
theorem get_tableOf {l : List (BitVec 16)} {j : Nat} {v : BitVec 16} (h : l[j]? = some v) : (tableOf l).get j 0 = v := by
  unfold tableOf
  refine foldl_reaches (fun t : Tab (BitVec 16) => t.get j 0 = v) (u := (v, j)) (List.mem_zipIdx_iff_getElem?.mpr h)
    (fun t => Tab.get_set_same t j v 0) (fun t n hn ht => ?_) []
  have hn := List.mem_zipIdx_iff_getElem?.mp hn
  by_cases hj : n.2 = j
  · have hv : n.1 = v := by
      rw [hj, h] at hn
      exact (Option.some.inj hn).symm
    rw [hj, hv]
    exact Tab.get_set_same t j v 0
  · rw [Tab.get_set_other _ _ _ _ _ _ (Ne.symm hj)]
    exact ht

theorem get_tableOf_map (f : Nat → BitVec 16) {j : Nat} (hj : j < 16) : (tableOf ((List.range 16).map f)).get j 0 = f j := by
  have h : ((List.range 16).map f)[j]? = some (f j) := by
    rw [List.getElem?_map, List.getElem?_range hj]
    rfl
  exact get_tableOf h
theorem cbsel_setStatus (a : Arch) (t : Nat) (w : Word) : (a.setStatus t w).cbsel = a.cbsel := rfl

theorem cbsel_applyCnt (seq : Nat) (p : Ctx × Seen) (c : Cnt) : (applyCnt seq p c).1.a.cbsel = p.1.a.cbsel := by
  unfold applyCnt Ctx.apply
  dsimp only
  split
  · rfl
  · split
    · exact cbsel_setStatus _ _ _
    · rfl

/-- Counts go into status words: cbsel stays (R151). -/
theorem cbsel_applyCnts (c : Ctx) (seq : Nat) (l : List Cnt) : (applyCnts c seq l).a.cbsel = c.a.cbsel :=
  List.foldlRecOn (motive := fun p : Ctx × Seen => p.1.a.cbsel = c.a.cbsel) l (applyCnt seq) rfl
    (fun p hp x _ => (cbsel_applyCnt seq p x).trans hp)

/-- Elements that take their place in the global order leave every context as it was. -/
theorem KeepsCtx.touch {α : Type} {g : Ctx → α} (e : Env) (wr : Bool) (l : List (Nat × Nat × Nat)) (x : State × Nat) :
    KeepsCtx g x.1 (e.touch wr l x).1 := by
  refine .foldl_on Prod.fst _ (fun x y => ?_) l x
  split
  · exact .refl _
  split
  · split
    · exact .refl _
    · exact .spadTouch _ _ _ _ _ _
  · exact .refl _

/-- Elements that all pass their check are read. -/
theorem readAtIssue_good (p : At) (s : State) (e : Env) (l : List (Nat × Nat × Nat)) (eff : State → State)
    (h : ∀ x ∈ l, e.elemBad x.1 x.2.1 x.2.2 = false) :
    readAtIssue p s e l eff = eff ((e.touch false l (s, (p.ctx s).time)).1.updCtx p.core p.slot
      (fun c => { c with time := max c.time (e.touch false l (s, (p.ctx s).time)).2 })) := by
  have hn : l.find? (fun x => e.elemBad x.1 x.2.1 x.2.2) = none := List.find?_eq_none.mpr (fun x hx => by simp [h x hx])
  rw [readAtIssue, hn]

/-- The table that a write names holds its entries. -/
theorem table_writeTable (p : At) (toW : Arch → Bool) (l : Env → List (BitVec 16)) (s : State) (e : Env) :
    (if toW (p.ctx s).a then (p.ctx (writeTable p toW l s e)).a.cbW else (p.ctx (writeTable p toW l s e)).a.cbA) = tableOf (l e) := by
  simp only [writeTable, At.ctx, State.ctx_updCtx]
  cases toW (s.ctx p.core p.slot).a <;> rfl

/-- The environment in which a table instruction reads its source at its issue. -/
def tableReads (p : At) (s : State) : Env := issueEnv p s (capTiles p.ins (p.ctx s).a 0)

theorem tableReads_issuing (i : Instr) (s : State) : tableReads (here i s) (issuing i false s) = tableEnv i s := by
  rw [tableReads, here_ctx, ctx_issuing, show (here i s).ins = i from rfl, capTiles_atIssue]
  rfl

section
variable {o : MT} {fmts : At → State → List (Option Trap)} {toW : Arch → Bool} {l : Env → List (BitVec 16)} {cnts : Env → List Cnt}

theorem eff_tableSem (p : At) (s : State) : (tableSem o fmts toW l cnts).eff p s =
    readAtIssue p s (tableReads p s) ((List.range 16).map (fun j => (o.y, 0, j))) (fun t =>
      writeTable p toW l (t.updCtx p.core p.slot (fun c => applyCnts c p.seq (cnts (tableReads p s)))) (tableReads p s)) := rfl

/-- Once its elements are read, a table instruction writes them to the table that cbsel and its own fields name. -/
theorem tableSem_eff (w : BitVec 18 → Bool) (hw : ∀ a, toW a = w a.cbsel) (p : At) (s : State)
    (hgood : ∀ j, j < 16 → (tableReads p s).elemBad o.y 0 j = false) :
    ((tableSem o fmts toW l cnts).eff p s).cur = s.cur ∧
      (if w (p.ctx s).a.cbsel then (p.ctx ((tableSem o fmts toW l cnts).eff p s)).a.cbW
        else (p.ctx ((tableSem o fmts toW l cnts).eff p s)).a.cbA) = tableOf (l (tableReads p s)) := by
  have hread : ∀ x ∈ (List.range 16).map (fun j => (o.y, 0, j)), (tableReads p s).elemBad x.1 x.2.1 x.2.2 = false := by
    intro x hx
    obtain ⟨j, hj, rfl⟩ := List.mem_map.mp hx
    exact hgood j (List.mem_range.mp hj)
  rw [eff_tableSem, readAtIssue_good _ _ _ _ _ hread]
  generalize hx : (tableReads p s).touch false ((List.range 16).map (fun j => (o.y, 0, j))) (s, (p.ctx s).time) = x
  have hk : KeepsCtx id s x.1 := by
    rw [← hx]
    exact KeepsCtx.touch _ _ _ (s, (p.ctx s).time)
  refine ⟨?cur, ?table⟩
  case cur => rw [writeTable, State.updCtx_cur, State.updCtx_cur, State.updCtx_cur, hk.cur]
  case table =>
    have hc : x.1.ctx p.core p.slot = p.ctx s := hk.ctx p.core p.slot
    set u := (x.1.updCtx p.core p.slot (fun c => { c with time := max c.time x.2 })).updCtx p.core p.slot
      (fun c => applyCnts c p.seq (cnts (tableReads p s)))
    have hsel : toW (p.ctx u).a = w (p.ctx s).a.cbsel := by
      rw [hw, At.ctx, State.ctx_updCtx, cbsel_applyCnts, State.ctx_updCtx, hc]
    rw [← hsel]
    exact table_writeTable p toW l u (tableReads p s)

/-- A table instruction whose source passes its checks leaves the table that it names with the entries that it reads. -/
theorem tableSem_writes {i : Instr} {s : State} (w : BitVec 18 → Bool) (hw : ∀ a, toW a = w a.cbsel)
    (hx : exec i s = .next (issueOne i (tableSem o fmts toW l cnts) s)) (hm : slotSem i = tableSem o fmts toW l cnts)
    (hf : free (headOf i) s = true) (hp : passes i s = true) (hgood : ∀ j, j < 16 → (tableEnv i s).elemBad o.y 0 j = false) :
    ∃ t, exec i s = .next t ∧
      (if w (found (headOf i) s).a.cbsel then (hand t).a.cbW else (hand t).a.cbA) = tableOf (l (tableEnv i s)) := by
  have hsel : (atIssue i false s).a.cbsel = (found (headOf i) s).a.cbsel := passed_a_cbsel ..
  obtain ⟨hcur, htab⟩ := tableSem_eff (o := o) (fmts := fmts) (l := l) (cnts := cnts) w hw (here i s) (issuing i false s)
    (by rwa [tableReads_issuing])
  rw [tableReads_issuing, here_ctx, here_ctx, ctx_issuing, hsel] at htab
  refine ⟨_, hx.trans (congrArg _ (issueOne_effect i s _ false hm hf hp rfl (fun _ _ => rfl) rfl)), ?_⟩
  rw [cbW_issued hcur, cbA_issued hcur]
  exact htab

end

/-- `mcbl` writes the codes that it reads, to the table that PLANE names (R226). -/
theorem exec_mcbl {h : Head} {o : MT} {s : State} (hf : free h s = true) (hp : passes (.mcbl h o) s = true)
    (hgood : ∀ j, j < 16 → (tableEnv (.mcbl h o) s).elemBad o.y 0 j = false) :
    ∃ t, exec (.mcbl h o) s = .next t ∧ ∀ j, j < 16 →
      (if o.plane = 1 then (hand t).a.cbW else (hand t).a.cbA).get j 0 =
        BitVec.ofNat 16 (((tableEnv (.mcbl h o) s).code o.y 0 j).getD 0) := by
  obtain ⟨t, ht, htab⟩ := tableSem_writes (i := .mcbl h o) (o := o) (fun _ => o.plane == 1) (fun _ => rfl) rfl rfl hf hp hgood
  refine ⟨t, ht, fun j hj => ?_⟩
  simp only [beq_iff_eq] at htab
  rw [htab, get_tableOf_map _ hj]

/-- `vcbl` writes the values that it reads, rounded to bf16 and 0 outside the valid region, to the table that cbsel names
(R226). -/
theorem exec_vcbl {h : Head} {o : MT} {s : State} (hf : free h s = true) (hp : passes (.vcbl h o) s = true)
    (hgood : ∀ j, j < 16 → (tableEnv (.vcbl h o) s).elemBad o.y 0 j = false) :
    ∃ t, exec (.vcbl h o) s = .next t ∧ ∀ j, j < 16 →
      let e := tableEnv (.vcbl h o) s
      (if fld (found h s).a.cbsel 0 1 = 1 then (hand t).a.cbW else (hand t).a.cbA).get j 0 =
        if j < dVCols (e.desc o.y) ∧ 0 < dVRows (e.desc o.y) then
          BitVec.ofNat 16 (roundF bf16 rne false false (e.decode (fvRd e) o.y 0 j).1).code else 0 := by
  obtain ⟨t, ht, htab⟩ := tableSem_writes (i := .vcbl h o) (o := o) (fun v => fld v 0 1 == 1) (fun _ => rfl) rfl rfl hf hp hgood
  refine ⟨t, ht, fun j hj => ?_⟩
  have hvalid : dValid ((tableEnv (.vcbl h o) s).desc o.y) 0 j = true ↔
      j < dVCols ((tableEnv (.vcbl h o) s).desc o.y) ∧ 0 < dVRows ((tableEnv (.vcbl h o) s).desc o.y) := by
    simp [dValid, and_comm]
  simp only [beq_iff_eq] at htab
  have hhead : found (headOf (.vcbl h o)) s = found h s := rfl
  rw [hhead] at htab
  rw [htab, get_tableOf_map _ hj]
  simp only [hvalid]

/-- Settles O28: the engine instructions are one kind of slot, which starts an operation with the destinations of its form
filling (R191) and, for a load, takes a plane (R220); `mswap` exchanges the roles and the table instructions write a table
at the issue itself (R221, R226). -/
theorem matrixStarts : Obligations.MatrixStarts := by
  unfold Obligations.MatrixStarts
  intro h o s hf c
  have hmem : ∀ i ∈ [Instr.mma h o, .mzero h o, .mdrain h o, .mscl h o, .moutl h o, .mstat h o], i ∈ matrixOps h o := by
    intro i hi
    simp only [matrixOps, List.mem_cons, List.not_mem_nil] at hi ⊢
    tauto
  refine ⟨fun i hi hp hy => load_starts hi hf hp hy, fun hp => ?mma, fun hp => ?mzero, fun hp => ?mdrain, fun hp => ?mscl,
    fun hp => ?moutl, fun hp => ?mstat, fun hp => exec_mswap hf hp, fun hp hgood => exec_mcbl hf hp hgood,
    fun hp hgood => exec_vcbl hf hp hgood⟩
  case mma => exact matrixOp_starts (.mma h o) (hmem _ (by simp)) hf hp rfl rfl
  case mzero => exact matrixOp_starts (.mzero h o) (hmem _ (by simp)) hf hp rfl rfl
  case mdrain =>
    have hdests : (if o.acc = 1 then [o.x, o.y] else [o.x]) = o.x :: (if o.acc = 1 then [o.y] else []) := by split <;> rfl
    rw [hdests]
    exact matrixOp_starts (.mdrain h o) (hmem _ (by simp)) hf hp rfl rfl
  case mscl => exact matrixOp_starts (.mscl h o) (hmem _ (by simp)) hf hp rfl rfl
  case moutl => exact matrixOp_starts (.moutl h o) (hmem _ (by simp)) hf hp rfl rfl
  case mstat => exact matrixOp_starts (.mstat h o) (hmem _ (by simp)) hf hp rfl rfl

end Sys2Proof.Machine

/-! ## Reading words back in every slot and in headers (R104 to R106, R127 to R136) -/

namespace Sys2Proof

/-! ### The operand formats, read back and written out -/

theorem SI.put_lt {o : SI} (ho : o.inRange = true) : o.put < 2 ^ 45 := by
  simp only [SI.inRange, Bool.and_eq_true, decide_eq_true_eq] at ho
  unfold SI.put
  omega

theorem SL.put_lt {o : SL} (ho : o.inRange = true) : o.put < 2 ^ 45 := by
  simp only [SL.inRange, Bool.and_eq_true, decide_eq_true_eq] at ho
  unfold SL.put
  omega

theorem SB.put_lt {o : SB} (ho : o.inRange = true) : o.put < 2 ^ 45 := by
  simp only [SB.inRange, Bool.and_eq_true, decide_eq_true_eq] at ho
  unfold SB.put
  omega

theorem VT.put_lt {o : VT} (ho : o.inRange = true) : o.put < 2 ^ 45 := by
  simp only [VT.inRange, Bool.and_eq_true, decide_eq_true_eq] at ho
  unfold VT.put
  omega

theorem MT.put_lt {o : MT} (ho : o.inRange = true) : o.put < 2 ^ 45 := by
  simp only [MT.inRange, Bool.and_eq_true, decide_eq_true_eq] at ho
  unfold MT.put
  omega

theorem CP.put_lt {o : CP} (ho : o.inRange = true) : o.put < 2 ^ 45 := by
  simp only [CP.inRange, Bool.and_eq_true, decide_eq_true_eq] at ho
  unfold CP.put
  omega

section
variable {h : Head} {op : Nat}

theorem getSI_put {o : SI} (ho : o.inRange = true) : getSI (h.put op o.put) = o := by
  obtain ⟨a, b, imm⟩ := o
  simp only [SI.inRange, Bool.and_eq_true, decide_eq_true_eq] at ho
  simp only [getSI, bits_put_body, Nat.reduceAdd, Nat.reduceLeDiff]
  simp only [bits, SI.put, SI.mk.injEq]
  omega

theorem getSL_put {o : SL} (ho : o.inRange = true) : getSL (h.put op o.put) = o := by
  obtain ⟨a, imm⟩ := o
  simp only [SL.inRange, Bool.and_eq_true, decide_eq_true_eq] at ho
  simp only [getSL, bits_put_body, Nat.reduceAdd, Nat.reduceLeDiff]
  simp only [bits, SL.put, SL.mk.injEq]
  omega

theorem getSB_put {o : SB} (ho : o.inRange = true) : getSB (h.put op o.put) = o := by
  obtain ⟨p, pn, l, cnt, tgt⟩ := o
  simp only [SB.inRange, Bool.and_eq_true, decide_eq_true_eq] at ho
  simp only [getSB, bits_put_body, Nat.reduceAdd, Nat.reduceLeDiff]
  simp only [bits, SB.put, SB.mk.injEq]
  omega

theorem getVT_put {o : VT} (ho : o.inRange = true) : getVT (h.put op o.put) = o := by
  obtain ⟨td, ta, tb, tc, mcls, seg, dist, msel, flags⟩ := o
  simp only [VT.inRange, Bool.and_eq_true, decide_eq_true_eq] at ho
  simp only [getVT, bits_put_body, Nat.reduceAdd, Nat.reduceLeDiff]
  simp only [bits, VT.put, VT.mk.injEq]
  omega

theorem getMT_put {o : MT} (ho : o.inRange = true) : getMT (h.put op o.put) = o := by
  obtain ⟨x, y, z, w, zv, wv, acc, plane, r⟩ := o
  simp only [MT.inRange, Bool.and_eq_true, decide_eq_true_eq] at ho
  simp only [getMT, bits_put_body, Nat.reduceAdd, Nat.reduceLeDiff]
  simp only [bits, MT.put, MT.mk.injEq]
  omega

theorem getCP_put {o : CP} (ho : o.inRange = true) : getCP (h.put op o.put) = o := by
  obtain ⟨t, k, x, y, off, con, pat, r⟩ := o
  simp only [CP.inRange, Bool.and_eq_true, decide_eq_true_eq] at ho
  simp only [getCP, bits_put_body, Nat.reduceAdd, Nat.reduceLeDiff]
  simp only [bits, CP.put, CP.mk.injEq]
  omega

end

/-- A field of `len` bits fits them. -/
theorem bits_lt (w lo len : Nat) : bits w lo len < 2 ^ len := Nat.mod_lt _ (Nat.two_pow_pos len)

/-- Two fields that meet are one. -/
theorem bits_join (w lo m n : Nat) : bits w (lo + m) n * 2 ^ (lo + m) + bits w lo m * 2 ^ lo = bits w lo (m + n) * 2 ^ lo := by
  unfold bits
  rw [pow_add, pow_add, ← Nat.div_div_eq_div_mul, Nat.mod_mul, Nat.add_mul]
  ring

@[simp] theorem getSR_inRange (w : Nat) : (getSR w).inRange = true := by
  simp only [SR.inRange, Bool.and_eq_true, decide_eq_true_eq]
  simp only [getSR, bits]
  omega

@[simp] theorem getSI_inRange (w : Nat) : (getSI w).inRange = true := by
  simp only [SI.inRange, Bool.and_eq_true, decide_eq_true_eq]
  simp only [getSI, bits]
  omega

@[simp] theorem getSL_inRange (w : Nat) : (getSL w).inRange = true := by
  simp only [SL.inRange, Bool.and_eq_true, decide_eq_true_eq]
  simp only [getSL, bits]
  omega

@[simp] theorem getSM_inRange (w : Nat) : (getSM w).inRange = true := by
  simp only [SM.inRange, Bool.and_eq_true, decide_eq_true_eq]
  simp only [getSM, bits]
  omega

@[simp] theorem getSB_inRange (w : Nat) : (getSB w).inRange = true := by
  simp only [SB.inRange, Bool.and_eq_true, decide_eq_true_eq]
  simp only [getSB, bits]
  omega

@[simp] theorem getVT_inRange (w : Nat) : (getVT w).inRange = true := by
  simp only [VT.inRange, Bool.and_eq_true, decide_eq_true_eq]
  simp only [getVT, bits]
  omega

@[simp] theorem getMT_inRange (w : Nat) : (getMT w).inRange = true := by
  simp only [MT.inRange, Bool.and_eq_true, decide_eq_true_eq]
  simp only [getMT, bits]
  omega

@[simp] theorem getCP_inRange (w : Nat) : (getCP w).inRange = true := by
  simp only [CP.inRange, Bool.and_eq_true, decide_eq_true_eq]
  simp only [getCP, bits]
  omega

@[simp] theorem put_getSR (w : Nat) : (getSR w).put = bits w 0 45 := by
  have h0 := bits_join w 0 21 24
  simp only [Nat.zero_add, Nat.reduceAdd, Nat.pow_zero, Nat.mul_one] at h0
  simp only [SR.put, getSR]
  rw [bits_join w 33 6 6, bits_join w 27 6 12, bits_join w 21 6 18, h0]

@[simp] theorem put_getSI (w : Nat) : (getSI w).put = bits w 0 45 := by
  have h0 := bits_join w 0 33 12
  simp only [Nat.zero_add, Nat.reduceAdd, Nat.pow_zero, Nat.mul_one] at h0
  simp only [SI.put, getSI]
  rw [bits_join w 33 6 6, h0]

@[simp] theorem put_getSL (w : Nat) : (getSL w).put = bits w 0 45 := by
  have h0 := bits_join w 0 39 6
  simp only [Nat.zero_add, Nat.reduceAdd, Nat.pow_zero, Nat.mul_one] at h0
  simp only [SL.put, getSL]
  rw [h0]

@[simp] theorem put_getSM (w : Nat) : (getSM w).put = bits w 0 45 := by
  have h0 := bits_join w 0 2 43
  simp only [Nat.zero_add, Nat.reduceAdd, Nat.pow_zero, Nat.mul_one] at h0
  simp only [SM.put, getSM]
  rw [bits_join w 35 4 6, bits_join w 29 6 10, bits_join w 15 14 16, bits_join w 9 6 30, bits_join w 7 2 36, bits_join w 6 1 38, bits_join w 4 2 39, bits_join w 2 2 41, h0]

@[simp] theorem put_getSB (w : Nat) : (getSB w).put = bits w 0 45 := by
  have h0 := bits_join w 0 24 21
  simp only [Nat.zero_add, Nat.reduceAdd, Nat.pow_zero, Nat.mul_one] at h0
  simp only [SB.put, getSB]
  rw [bits_join w 41 1 3, bits_join w 39 2 4, bits_join w 24 15 6, h0]

@[simp] theorem put_getVT (w : Nat) : (getVT w).put = bits w 0 45 := by
  have h0 := bits_join w 0 3 42
  simp only [Nat.zero_add, Nat.reduceAdd, Nat.pow_zero, Nat.mul_one] at h0
  simp only [VT.put, getVT]
  rw [bits_join w 31 7 7, bits_join w 24 7 14, bits_join w 17 7 21, bits_join w 15 2 28, bits_join w 12 3 30, bits_join w 5 7 33, bits_join w 3 2 40, h0]

@[simp] theorem put_getMT (w : Nat) : (getMT w).put = bits w 0 45 := by
  have h0 := bits_join w 0 13 32
  simp only [Nat.zero_add, Nat.reduceAdd, Nat.pow_zero, Nat.mul_one] at h0
  simp only [MT.put, getMT]
  rw [bits_join w 31 7 7, bits_join w 24 7 14, bits_join w 17 7 21, bits_join w 16 1 28, bits_join w 15 1 29, bits_join w 14 1 30, bits_join w 13 1 31, h0]

@[simp] theorem put_getCP (w : Nat) : (getCP w).put = bits w 0 45 := by
  have h0 := bits_join w 0 6 39
  simp only [Nat.zero_add, Nat.reduceAdd, Nat.pow_zero, Nat.mul_one] at h0
  simp only [CP.put, getCP]
  rw [bits_join w 34 4 7, bits_join w 28 6 11, bits_join w 22 6 17, bits_join w 8 14 23, bits_join w 7 1 37, bits_join w 6 1 38, h0]

end Sys2Proof

namespace Sys2Proof

/-! ### Heads and words -/

theorem getHead_inRange (slot : Slot) (w : Nat) : (getHead slot w).inRange = true := by
  simp only [Head.inRange, Bool.and_eq_true, decide_eq_true_eq]
  simp only [getHead, bits]
  omega

theorem Slot.num_lt (x : Slot) : x.num < 6 := by cases x <;> decide

theorem Head.put_lt {h : Head} {op body : Nat} (hh : h.inRange = true) (hop : op < 1024) (hb : body < 2 ^ 45) :
    h.put op body < 2 ^ 80 := by
  have hn := h.slot.num_lt
  simp only [Head.inRange, Bool.and_eq_true, decide_eq_true_eq] at hh
  unfold Head.put
  omega

/-- A word of a slot is put together again from its CLASS, OPCODE, head and operand field (R105). -/
theorem put_getHead {slot : Slot} {w : Nat} (hw : w < 2 ^ 80) (hc : bits w 77 3 = slot.num) :
    (getHead slot w).put (bits w 67 10) (bits w 0 45) = w := by
  have hword : bits w 0 80 = w := by rw [bits, Nat.pow_zero, Nat.div_one, Nat.mod_eq_of_lt hw]
  have h0 := bits_join w 0 45 35
  simp only [Nat.zero_add, Nat.reduceAdd, Nat.pow_zero, Nat.mul_one] at h0
  simp only [Head.put, getHead]
  rw [← hc, bits_join w 67 10 3, bits_join w 64 3 13, bits_join w 59 5 16, bits_join w 54 5 21, bits_join w 49 5 26,
    bits_join w 48 1 31, bits_join w 45 3 32, h0, hword]

/-! ### The opcode tables and the encoder name the same rows -/

/-- What one row of an opcode table is to the encoder, for heads of its class: the instruction that it makes of a word has
that word's head and operand field, fits its fields, and encodes to the row's opcode. -/
def RowReads (cls : Head → Bool) (op : Nat) (f : Head → Nat → Instr) : Prop :=
  ∀ h w, cls h = true → slotParts (f h w) = some (h, op, bits w 0 45) ∧ inRange (f h w) = true

theorem RowReads.of_format {cls : Head → Bool} {op : Nat} {f : Head → Nat → Instr} {body : Nat → Nat} {ok : Nat → Bool}
    (hp : ∀ h w, slotParts (f h w) = some (h, op, body w)) (hr : ∀ h w, inRange (f h w) = (cls h && ok w))
    (hb : ∀ w, body w = bits w 0 45) (ho : ∀ w, ok w = true) : RowReads cls op f := by
  intro h w hh
  rw [hp, hr, hb, ho, hh]
  exact ⟨rfl, rfl⟩

/-- The same of a row of the V operations, for each of its compute formats (R132). -/
def VRowReads (n : Nat) (k : CfClass) (f : Head → Nat → Nat → Instr) : Prop :=
  ∀ cf, k.has cf = true → RowReads Head.inV (n * 16 + cf) (fun h w => f h cf w)

/-- An operation without a compute format. -/
theorem VRowReads.of_none {n : Nat} {f : Head → VT → Instr} (hp : ∀ h o, slotParts (f h o) = some (h, n * 16, o.put))
    (hr : ∀ h o, inRange (f h o) = (h.inV && o.inRange)) : VRowReads n .N (fun h _ w => f h (getVT w)) := by
  intro cf hcf
  obtain rfl : cf = 0 := by simpa [CfClass.has] using hcf
  exact .of_format (fun h w => hp h (getVT w)) (fun h w => hr h (getVT w)) put_getVT getVT_inRange

/-- An operation with one. -/
theorem VRowReads.of_cf {n : Nat} {k : CfClass} {f : Head → Nat → VT → Instr}
    (hp : ∀ h cf o, slotParts (f h cf o) = some (h, n * 16 + cf, o.put))
    (hr : ∀ h cf o, inRange (f h cf o) = (h.inV && o.inRange && k.has cf)) : VRowReads n k (fun h cf w => f h cf (getVT w)) := by
  intro cf hcf h w hh
  rw [hp, hr, put_getVT, getVT_inRange, hcf, hh]
  exact ⟨rfl, rfl⟩

theorem rowReads_sInt : ∀ e ∈ sInt, RowReads Head.inS e.1 e.2 := by
  simp only [sInt, List.forall_mem_cons, List.not_mem_nil, false_implies, implies_true, and_true]
  and_intros
  all_goals exact .of_format (fun _ _ => rfl) (fun _ _ => rfl) (by simp) (by simp)

theorem rowReads_sPred : ∀ e ∈ sPred, RowReads Head.inS e.1 e.2 := by
  simp only [sPred, List.forall_mem_cons, List.not_mem_nil, false_implies, implies_true, and_true]
  and_intros
  all_goals exact .of_format (fun _ _ => rfl) (fun _ _ => rfl) (by simp) (by simp)

theorem rowReads_sMem : ∀ e ∈ sMem, RowReads Head.inS e.1 e.2 := by
  simp only [sMem, List.forall_mem_cons, List.not_mem_nil, false_implies, implies_true, and_true]
  and_intros
  all_goals exact .of_format (fun _ _ => rfl) (fun _ _ => rfl) (by simp) (by simp)

theorem rowReads_sSys : ∀ e ∈ sSys, RowReads Head.inS e.1 e.2 := by
  simp only [sSys, List.forall_mem_cons, List.not_mem_nil, false_implies, implies_true, and_true]
  and_intros
  all_goals exact .of_format (fun _ _ => rfl) (fun _ _ => rfl) (by simp) (by simp)

theorem rowReads_sTable : ∀ e ∈ sTable, RowReads Head.inS e.1 e.2 := by
  simp only [sTable, List.forall_mem_append]
  exact ⟨⟨⟨rowReads_sInt, rowReads_sPred⟩, rowReads_sMem⟩, rowReads_sSys⟩

theorem rowReads_mTable : ∀ e ∈ mTable, RowReads Head.inM e.1 e.2 := by
  simp only [mTable, List.forall_mem_cons, List.not_mem_nil, false_implies, implies_true, and_true]
  and_intros
  all_goals exact .of_format (fun _ _ => rfl) (fun _ _ => rfl) (by simp) (by simp)

theorem rowReads_cTable : ∀ e ∈ cTable, RowReads Head.inC e.1 e.2 := by
  simp only [cTable, List.forall_mem_cons, List.not_mem_nil, false_implies, implies_true, and_true]
  and_intros
  all_goals exact .of_format (fun _ _ => rfl) (fun _ _ => rfl) (by simp) (by simp)

theorem vRowReads_vLow : ∀ e ∈ vLow, VRowReads e.1 e.2.1 e.2.2 := by
  simp only [vLow, List.forall_mem_cons, List.not_mem_nil, false_implies, implies_true, and_true]
  and_intros
  any_goals exact .of_none (fun _ _ => rfl) (fun _ _ => rfl)
  all_goals exact .of_cf (fun _ _ _ => rfl) (fun _ _ _ => rfl)

theorem vRowReads_vHigh : ∀ e ∈ vHigh, VRowReads e.1 e.2.1 e.2.2 := by
  simp only [vHigh, List.forall_mem_cons, List.not_mem_nil, false_implies, implies_true, and_true]
  and_intros
  any_goals exact .of_none (fun _ _ => rfl) (fun _ _ => rfl)
  all_goals exact .of_cf (fun _ _ _ => rfl) (fun _ _ _ => rfl)

theorem vRowReads_vTable : ∀ e ∈ vTable, VRowReads e.1 e.2.1 e.2.2 := by
  simp only [vTable, List.forall_mem_append]
  exact ⟨vRowReads_vLow, vRowReads_vHigh⟩

/-- A picked row is one of its table. -/
theorem mem_of_pickRow {t : List (Nat × (Head → Nat → Instr))} {op : Nat} {f : Head → Nat → Instr} (h : pickRow t op = some f) :
    (op, f) ∈ t := by
  induction t with
  | nil => cases h
  | cons e r ih =>
    obtain ⟨c, g⟩ := e
    unfold pickRow at h
    split at h
    next hc =>
      cases h
      rw [hc]
      exact List.mem_cons_self ..
    next => exact List.mem_cons_of_mem _ (ih h)

theorem mem_of_pickV {t : List (Nat × CfClass × (Head → Nat → Nat → Instr))} {n cf : Nat} {f : Head → Nat → Instr}
    (h : pickV t n cf = some f) : ∃ k g, (n, k, g) ∈ t ∧ k.has cf = true ∧ f = fun h w => g h cf w := by
  induction t with
  | nil => cases h
  | cons e r ih =>
    obtain ⟨c, k, g⟩ := e
    unfold pickV at h
    split at h
    next hc =>
      split at h
      next hk =>
        cases h
        exact ⟨k, g, hc ▸ List.mem_cons_self .., hk, rfl⟩
      next => cases h
    next =>
      obtain ⟨k, g, hm, hk, hf⟩ := ih h
      exact ⟨k, g, List.mem_cons_of_mem _ hm, hk, hf⟩

/-- The heads of the class of a slot (R105). -/
def Slot.holds (slot : Slot) (h : Head) : Bool := h.inRange && decide (h.slot = slot)

theorem RowReads.mono {p q : Head → Bool} {op : Nat} {f : Head → Nat → Instr} (h : RowReads p op f)
    (hq : ∀ x, q x = true → p x = true) : RowReads q op f := fun x w hx => h x w (hq x hx)

/-- The opcode space of each slot (R126). -/
theorem rowReads_opcodeRow {slot : Slot} {op : Nat} {f : Head → Nat → Instr} (h : opcodeRow slot op = some f) :
    RowReads slot.holds op f := by
  have hv (slot : Slot) (hs : slot = .V0 ∨ slot = .V1) (h : pickV vTable (op / 16) (op % 16) = some f) : RowReads slot.holds op f := by
    obtain ⟨k, g, hm, hk, rfl⟩ := mem_of_pickV h
    have hr := vRowReads_vTable _ hm (op % 16) hk
    rw [Nat.div_add_mod'] at hr
    refine hr.mono fun x hx => ?_
    simp only [Slot.holds, Bool.and_eq_true, decide_eq_true_eq] at hx
    rcases hs with rfl | rfl <;> simp [Head.inV, hx]
  cases slot with
  | S => exact (rowReads_sTable _ (mem_of_pickRow h)).mono fun _ hx => hx
  | V0 => exact hv .V0 (.inl rfl) h
  | V1 => exact hv .V1 (.inr rfl) h
  | M => exact (rowReads_mTable _ (mem_of_pickRow h)).mono fun _ hx => hx
  | C0 =>
    refine (rowReads_cTable _ (mem_of_pickRow h)).mono fun x hx => ?_
    simp only [Slot.holds, Bool.and_eq_true, decide_eq_true_eq] at hx
    simp [Head.inC, hx]
  | C1 =>
    refine (rowReads_cTable _ (mem_of_pickRow h)).mono fun x hx => ?_
    simp only [Slot.holds, Bool.and_eq_true, decide_eq_true_eq] at hx
    simp [Head.inC, hx]

/-- A slot word that decodes is the encoding of what it decodes to, which is well-formed (R358 steps 7 to 10). -/
theorem encode_of_decodeSlot {slot : Slot} {w : Nat} {i : Instr} (hw : w < 2 ^ 80) (hd : decodeSlot slot w = .ok i) :
    encode i = w ∧ wellFormed i = true ∧ slotParts i = some (getHead slot w, bits w 67 10, bits w 0 45) := by
  unfold decodeSlot at hd
  split at hd
  · cases hd
  next hc =>
  split at hd
  · cases hd
  next f hf =>
  dsimp only at hd
  split at hd
  · cases hd
  next hrsv =>
  split at hd
  · cases hd
  next hop =>
  cases hd
  have hh : slot.holds (getHead slot w) = true := by
    rw [Slot.holds, getHead_inRange]
    exact decide_eq_true rfl
  obtain ⟨hp, hr⟩ := rowReads_opcodeRow hf (getHead slot w) w hh
  refine ⟨?_, ?_, hp⟩
  · rw [encode, hp]
    exact put_getHead hw (not_not.mp hc)
  · rw [wellFormed, hr, Bool.not_eq_false _ |>.mp hrsv, Bool.not_eq_false _ |>.mp hop]
    rfl

end Sys2Proof

namespace Sys2Proof

/-! ### Every encoding reads back -/

/-- What the decoder makes of the word of a slot instruction before it judges its bits and codes. -/
structure SlotReads (i : Instr) (h : Head) (op body : Nat) : Prop where
  row : ∃ f, opcodeRow h.slot op = some f ∧ f h (h.put op body) = i
  head : h.inRange = true
  op_lt : op < 1024
  body_lt : body < 2 ^ 45

/-- An operand format: what is read of a word, the field that it is put into, and which operands fit. -/
structure Format (α : Type) where
  get : Nat → α
  put : α → Nat
  ok : α → Bool
  put_lt : ∀ {o}, ok o = true → put o < 2 ^ 45
  get_put : ∀ {h : Head} {op : Nat} {o : α}, ok o = true → get (h.put op (put o)) = o

def Format.sr : Format SR := ⟨getSR, SR.put, SR.inRange, SR.put_lt, getSR_put⟩
def Format.si : Format SI := ⟨getSI, SI.put, SI.inRange, SI.put_lt, getSI_put⟩
def Format.sl : Format SL := ⟨getSL, SL.put, SL.inRange, SL.put_lt, getSL_put⟩
def Format.sm : Format SM := ⟨getSM, SM.put, SM.inRange, SM.put_lt, getSM_put⟩
def Format.sb : Format SB := ⟨getSB, SB.put, SB.inRange, SB.put_lt, getSB_put⟩
def Format.mt : Format MT := ⟨getMT, MT.put, MT.inRange, MT.put_lt, getMT_put⟩
def Format.cp : Format CP := ⟨getCP, CP.put, CP.inRange, CP.put_lt, getCP_put⟩

section
variable {α : Type} (F : Format α) {mk : Head → α → Instr} {h : Head} {o : α} {op : Nat}

theorem Format.reads (hh : h.inRange = true) (ho : F.ok o = true) (hop : op < 1024)
    (hrow : opcodeRow h.slot op = some (fun h w => mk h (F.get w))) : SlotReads (mk h o) h op (F.put o) :=
  ⟨⟨_, hrow, congrArg (mk h) (F.get_put ho)⟩, hh, hop, F.put_lt ho⟩

theorem Format.reads_S (hr : (h.inS && F.ok o) = true) (hop : op < 1024)
    (hrow : opcodeRow .S op = some (fun h w => mk h (F.get w))) : SlotReads (mk h o) h op (F.put o) := by
  simp only [Head.inS, Bool.and_eq_true, decide_eq_true_eq] at hr
  obtain ⟨⟨hh, hs⟩, ho⟩ := hr
  exact F.reads hh ho hop (hs ▸ hrow)

theorem Format.reads_M (hr : (h.inM && F.ok o) = true) (hop : op < 1024)
    (hrow : opcodeRow .M op = some (fun h w => mk h (F.get w))) : SlotReads (mk h o) h op (F.put o) := by
  simp only [Head.inM, Bool.and_eq_true, decide_eq_true_eq] at hr
  obtain ⟨⟨hh, hs⟩, ho⟩ := hr
  exact F.reads hh ho hop (hs ▸ hrow)

theorem Format.reads_C (hr : (h.inC && F.ok o) = true) (hop : op < 1024)
    (hrow : pickRow cTable op = some (fun h w => mk h (F.get w))) : SlotReads (mk h o) h op (F.put o) := by
  simp only [Head.inC, Bool.and_eq_true, Bool.or_eq_true, decide_eq_true_eq] at hr
  obtain ⟨⟨hh, hs⟩, ho⟩ := hr
  refine F.reads hh ho hop ?_
  rcases hs with hs | hs <;> rw [hs] <;> exact hrow

end

section
variable {h : Head} {o : VT} {n cf : Nat}

theorem slotReads_V {i : Instr} {f : Head → Nat → Nat → Instr} (hh : h.inV = true) (ho : o.inRange = true) (hn : n < 64) (hcf : cf < 16)
    (hrow : pickV vTable n cf = some (fun h w => f h cf w)) (hf : f h cf (h.put (n * 16 + cf) o.put) = i) :
    SlotReads i h (n * 16 + cf) o.put := by
  simp only [Head.inV, Bool.and_eq_true, Bool.or_eq_true, decide_eq_true_eq] at hh
  obtain ⟨hh, hs⟩ := hh
  have hrow' : pickV vTable ((n * 16 + cf) / 16) ((n * 16 + cf) % 16) = some (fun h w => f h cf w) := by
    rw [show (n * 16 + cf) / 16 = n by omega, show (n * 16 + cf) % 16 = cf by omega, hrow]
  refine ⟨⟨fun h w => f h cf w, ?_, hf⟩, hh, by omega, VT.put_lt ho⟩
  rcases hs with hs | hs <;> rw [hs] <;> exact hrow'

theorem slotReads_V_none {mk : Head → VT → Instr} (hr : (h.inV && o.inRange) = true) (hn : n < 64)
    (hrow : pickV vTable n 0 = some (fun h w => mk h (getVT w))) : SlotReads (mk h o) h (n * 16) o.put := by
  obtain ⟨hh, ho⟩ := Bool.and_eq_true_iff.mp hr
  exact slotReads_V (cf := 0) (f := fun h _ w => mk h (getVT w)) hh ho hn (by omega) hrow (congrArg (mk h) (getVT_put ho))

theorem CfClass.lt_of_has {k : CfClass} {cf : Nat} (h : k.has cf = true) : cf < 16 := by
  cases k <;> simp [CfClass.has] at h <;> omega

theorem slotReads_V_cf {k : CfClass} {mk : Head → Nat → VT → Instr} (hr : (h.inV && o.inRange && k.has cf) = true) (hn : n < 64)
    (hrow : k.has cf = true → pickV vTable n cf = some (fun h w => mk h cf (getVT w))) : SlotReads (mk h cf o) h (n * 16 + cf) o.put := by
  obtain ⟨hr, hk⟩ := Bool.and_eq_true_iff.mp hr
  obtain ⟨hh, ho⟩ := Bool.and_eq_true_iff.mp hr
  exact slotReads_V (f := fun h cf w => mk h cf (getVT w)) hh ho hn (CfClass.lt_of_has hk) (hrow hk) (congrArg (mk h cf) (getVT_put ho))

end

/-- Every slot instruction whose fields fit is read back, by the format of its operands. -/
theorem slotReads_of_inRange {i : Instr} {h : Head} {op body : Nat} (hr : inRange i = true) (hp : slotParts i = some (h, op, body)) :
    SlotReads i h op body := by
  cases i with
  | add _ _ | sub _ _ | mul _ _ | mulh _ _ | mulhz _ _ | div _ _ | divz _ _ | rem _ _ | remz _ _ | and _ _ | or _ _ | xor _ _
  | shl _ _ | shr _ _ | sra _ _ | rotl _ _ | rotr _ _ | clz _ _ | ctz _ _ | popc _ _ | min _ _ | max _ _ | minz _ _ | maxz _ _
  | sext _ _ | zext _ _ | mov _ _ | sel _ _ | cmp _ _ | pand _ _ | por _ _ | pxor _ _ | pnot _ _ | pmov _ _ | nop _ _ | caprs _ _
  | caprt _ _ | capq _ _ | capmv _ _ | eret _ _ | ctxout _ _ | endc _ _ | rdtime _ _ | rdcyc _ _ | next _ _ | enqt _ _ | enqm _ _
  | deqm _ _ | bq _ _ | jread _ _ | wq _ _ =>
    cases hp
    exact Format.sr.reads_S hr (by decide) rfl
  | addi _ _ | muli _ _ | andi _ _ | ori _ _ | xori _ _ | shli _ _ | shri _ _ | srai _ _ | cmpi _ _ | mfsr _ _ | mtsr _ _ | trap _ _
  | barInit _ _ | barArrive _ _ | barWait _ _ | barAw _ _ | barQuery _ _ | cpjoin _ _ | widen _ _ =>
    cases hp
    exact Format.si.reads_S hr (by decide) rfl
  | movi _ _ | movhi _ _ =>
    cases hp
    exact Format.sl.reads_S hr (by decide) rfl
  | br _ _ | bp _ _ | jmp _ _ | call _ _ | ret _ _ | loop _ _ | loopi _ _ =>
    cases hp
    exact Format.sb.reads_S hr (by decide) rfl
  | lea _ _ | ld _ _ | st _ _ | pf _ _ | cclean _ _ | cinval _ _ | cflush _ _ | amoAdd _ _ | amoFadd _ _ | amoMin _ _ | amoMax _ _
  | amoMinz _ _ | amoMaxz _ _ | amoAnd _ _ | amoOr _ _ | amoXor _ _ | amoSwap _ _ | amoCas _ _ =>
    cases hp
    exact Format.sm.reads_S hr (by decide) rfl
  | tdef _ _ | tshape _ _ | tview _ _ | tstate _ _ | tstep _ _ | tclr _ _ | vmov _ _ | vbcast _ _ | vcvt _ _ | vtrans _ _ | vperm _ _
  | vgath _ _ | vscat _ _ | vpack _ _ | vunpk _ _ | vquant _ _ | vdeq _ _ | vstat _ _ =>
    cases hp
    exact slotReads_V_none hr (by decide) rfl
  | vadd _ _ _ | vsub _ _ _ | vmul _ _ _ | vmin _ _ _ | vmax _ _ _ | vabs _ _ _ | vneg _ _ _ | vclamp _ _ _ | vsel _ _ _ | vcmp _ _ _
  | viota _ _ _ | vrsum _ _ _ | vcsum _ _ _ | vrmax _ _ _ | vcmax _ _ _ | vrmin _ _ _ | vcmin _ _ _ | vrarg _ _ _ | vscan _ _ _
  | vcscan _ _ _ | vtopk _ _ _ | vfma _ _ _ | vfms _ _ _ | vfnma _ _ _ | vrcp _ _ _ | vrsq _ _ _ | vrcpf _ _ _ | vrsqf _ _ _
  | vexp2 _ _ _ | vlog2 _ _ _ | vtanh _ _ _ | vlgst _ _ _ | vsqrt _ _ _ | vscal _ _ _ | vand _ _ _ | vor _ _ _ | vxor _ _ _
  | vnot _ _ _ | vshl _ _ _ | vshr _ _ _ | vsra _ _ _ =>
    cases hp
    exact slotReads_V_cf hr (by decide) fun hk => if_pos hk
  | mloadw _ _ | mloadwt _ _ | mswap _ _ | mma _ _ | mzero _ _ | mdrain _ _ | mcbl _ _ | moutl _ _ | mscl _ _ | mstat _ _ | vcbl _ _ =>
    cases hp
    exact Format.mt.reads_M hr (by decide) rfl
  | cpLd _ _ | cpSt _ _ | cpSs _ _ | cpMm _ _ | cpGath _ _ | cpScat _ _ | cpBc _ _ | cpAcc _ _ | cpFill _ _ | cpPf _ _ | cpCancel _ _
  | cpRes _ _ | cpPat _ _ =>
    cases hp
    exact Format.cp.reads_C hr (by decide) rfl
  | _ => cases hp

/-- Steps 7 to 10 of R358 undo the encoding of a well-formed slot instruction. -/
theorem decodeSlot_encode_of_wellFormed {i : Instr} {h : Head} {op body : Nat} (hw : wellFormed i = true)
    (hp : slotParts i = some (h, op, body)) : encode i < 2 ^ 80 ∧ decodeSlot h.slot (encode i) = .ok i := by
  simp only [wellFormed, Bool.and_eq_true] at hw
  obtain ⟨⟨hr, hrsv⟩, hok⟩ := hw
  obtain ⟨⟨f, hrow, hf⟩, hh, hop, hb⟩ := slotReads_of_inRange hr hp
  refine ⟨?_, ?_⟩
  · rw [encode, hp]
    exact Head.put_lt hh hop hb
  · rw [decodeSlot_encode hp hrow hop hh hb hf, hrsv, hok]
    rfl

/-! ### Headers (R104, R135) -/

theorem getAttr_inRange (w : Nat) : (getAttr w).inRange = true := by
  simp only [Attr.inRange, Bool.and_eq_true, decide_eq_true_eq]
  simp only [getAttr, bits]
  omega

section
variable {a : Attr} {op arg : Nat} (ha : a.inRange = true) (hop : op < 64) (harg : arg < 2 ^ 18)
include ha hop harg

theorem Attr.put_lt : a.put op arg < 2 ^ 80 := by
  simp only [Attr.inRange, Bool.and_eq_true, decide_eq_true_eq] at ha
  unfold Attr.put
  omega

theorem getAttr_put : getAttr (a.put op arg) = a := by
  obtain ⟨present, sticky, rep, fix, hw, yld⟩ := a
  simp only [Attr.inRange, Bool.and_eq_true, decide_eq_true_eq] at ha
  simp only [getAttr, bits, Attr.put, Attr.mk.injEq]
  omega

theorem bits_attr_put : bits (a.put op arg) 77 3 = 7 ∧ bits (a.put op arg) 48 6 = 0 ∧ bits (a.put op arg) 42 6 = op ∧
    bits (a.put op arg) 24 18 = arg ∧ bits (a.put op arg) 0 24 = 0 := by
  simp only [Attr.inRange, Bool.and_eq_true, decide_eq_true_eq] at ha
  simp only [bits, Attr.put]
  omega

end

/-- A header is put together again from its attributes, CTLOP and CTLARG, where its reserved bits are clear (R104). -/
theorem put_getAttr {w : Nat} (hw : w < 2 ^ 80) (hc : bits w 77 3 = 7) (hmid : bits w 48 6 = 0) (hlow : bits w 0 24 = 0) :
    (getAttr w).put (bits w 42 6) (bits w 24 18) = w := by
  have hword : bits w 0 80 = w := by rw [bits, Nat.pow_zero, Nat.div_one, Nat.mod_eq_of_lt hw]
  have h0 := bits_join w 0 24 56
  have h48 := bits_join w 48 6 26
  simp only [Nat.zero_add, Nat.reduceAdd, Nat.pow_zero, Nat.mul_one] at h0 h48
  rw [hlow, hword, Nat.add_zero] at h0
  rw [hmid, Nat.zero_mul, Nat.add_zero] at h48
  simp only [Attr.put, getAttr]
  rw [← hc, bits_join w 71 6 3, bits_join w 65 6 9, bits_join w 57 8 15, bits_join w 56 1 23, bits_join w 55 1 24,
    bits_join w 54 1 25, h48, bits_join w 42 6 32, bits_join w 24 18 38, h0]

/-- What one row of the control table is to the encoder. -/
structure CtlReads (op : Nat) (f : Attr → Nat → Instr) : Prop where
  pos : 0 < op
  lt : op < 64
  parts : ∀ a arg, slotParts (f a arg) = none ∧ ctlParts (f a arg) = some (a, op, arg) ∧
    inRange (f a arg) = (a.inRange && decide (arg < 2 ^ 18))

theorem ctlReads_ctlTable : ∀ e ∈ ctlTable, CtlReads e.1 e.2 := by
  simp only [ctlTable, List.forall_mem_cons, List.not_mem_nil, false_implies, implies_true, and_true]
  refine ⟨?_, ?_, ?_, ?_, ?_, ?_, ?_, ?_, ?_⟩
  all_goals exact CtlReads.mk (by decide) (by decide) (fun _ _ => ⟨rfl, rfl, rfl⟩)

theorem mem_of_pickCtl {t : List (Nat × (Attr → Nat → Instr))} {op : Nat} {f : Attr → Nat → Instr} (h : pickCtl t op = some f) :
    (op, f) ∈ t := by
  induction t with
  | nil => cases h
  | cons e r ih =>
    obtain ⟨c, g⟩ := e
    unfold pickCtl at h
    split at h
    next hc =>
      cases h
      rw [hc]
      exact List.mem_cons_self ..
    next => exact List.mem_cons_of_mem _ (ih h)

/-- A header with a control op that decodes is the encoding of that op, which is well-formed (R358 steps 1 to 4). -/
theorem encode_of_decodeHeader {w : Nat} {a : Attr} {i : Instr} (hw : w < 2 ^ 80) (hd : decodeHeader w = .ok (a, some i)) :
    encode i = w ∧ wellFormed i = true := by
  unfold decodeHeader at hd
  split at hd
  · cases hd
  next hc =>
  dsimp only at hd
  split at hd
  · split at hd <;> cases hd
  next =>
  split at hd
  · cases hd
  next f hf =>
  split at hd
  · cases hd
  next hrsv =>
  split at hd
  · cases hd
  next hop =>
  cases hd
  simp only [not_or, not_not, Bool.not_eq_false] at hrsv hop
  obtain ⟨hmid, hlow, hrsv⟩ := hrsv
  obtain ⟨-, -, hf⟩ := ctlReads_ctlTable _ (mem_of_pickCtl hf)
  obtain ⟨hs, hp, hr⟩ := hf (getAttr w) (bits w 24 18)
  refine ⟨?_, ?_⟩
  · rw [encode, hs, hp]
    exact put_getAttr hw (not_not.mp hc) hmid hlow
  · rw [wellFormed, hr, getAttr_inRange, decide_eq_true (bits_lt w 24 18), hrsv, hop]
    rfl

/-- The row of the control table that a control op is of. -/
theorem ctlParts_row {i : Instr} {a : Attr} {op arg : Nat} (hp : ctlParts i = some (a, op, arg)) :
    ∃ f, pickCtl ctlTable op = some f ∧ f a arg = i := by
  cases i with
  | fmtA _ _ | fmtW _ _ | fmtO _ _ | fmtV _ _ | fmtS _ _ | rm _ _ | seed _ _ | cbsel _ _ | stepset _ _ =>
    cases hp
    exact ⟨_, rfl, rfl⟩
  | _ => cases hp

/-- Steps 1 to 4 of R358 undo the encoding of a well-formed control op. -/
theorem decodeHeader_encode_of_wellFormed {i : Instr} {a : Attr} {op arg : Nat} (hw : wellFormed i = true)
    (hp : ctlParts i = some (a, op, arg)) : encode i < 2 ^ 80 ∧ decodeHeader (encode i) = .ok (a, some i) := by
  simp only [wellFormed, Bool.and_eq_true] at hw
  obtain ⟨⟨hr, hrsv⟩, hok⟩ := hw
  obtain ⟨f, hrow, rfl⟩ := ctlParts_row hp
  obtain ⟨hpos, hlt, hf⟩ := ctlReads_ctlTable _ (mem_of_pickCtl hrow)
  obtain ⟨hs, -, hrange⟩ := hf a arg
  rw [hrange] at hr
  obtain ⟨ha, harg⟩ := Bool.and_eq_true_iff.mp hr
  have harg := of_decide_eq_true harg
  obtain ⟨hclass, hmid, hop, hbarg, hlow⟩ := bits_attr_put ha hlt harg
  have henc : encode (f a arg) = a.put op arg := by rw [encode, hs, hp]
  rw [henc]
  refine ⟨Attr.put_lt ha hlt harg, ?_⟩
  simp only [decodeHeader, hclass, hop, hbarg, hmid, hlow, hrow, getAttr_put ha hlt harg, hrsv, hok, hpos.ne', ne_eq, not_true_eq_false,
    Bool.true_eq_false, or_self, if_false]

end Sys2Proof

namespace Sys2Proof.Machine

theorem headOf_of_slotParts {i : Instr} {h : Head} {op body : Nat} (hp : slotParts i = some (h, op, body)) : headOf i = h := by
  rw [headOf, hp]

/-- Settles O36: forwards, every operand format reads back what it puts, and each opcode has its row; backwards, every row of
the tables makes an instruction of the head, operand field and opcode of the word, so that the word is put together again. -/
theorem decodeEncode : Obligations.DecodeEncode := by
  unfold Obligations.DecodeEncode
  refine ⟨fun i hw h op body hp => decodeSlot_encode_of_wellFormed hw hp, fun i hw a op arg hp => decodeHeader_encode_of_wellFormed hw hp,
    fun slot w i hlt hd => ?slot, fun w a i hlt hd => encode_of_decodeHeader hlt hd⟩
  case slot =>
    obtain ⟨henc, hwf, hp⟩ := encode_of_decodeSlot hlt hd
    exact ⟨henc, hwf, by rw [headOf_of_slotParts hp]; rfl⟩

end Sys2Proof.Machine

/-! ## Values of the integer and predicate instructions (R109, R156 to R160) -/

namespace Sys2Proof.Machine

theorem sNat_eq_toInt (x n : Nat) : sNat x n = (BitVec.ofNat n x).toInt := by
  rw [sNat, BitVec.toInt_eq_toNat_cond, BitVec.toNat_ofNat]

theorem sext64_eq_ofInt (x n : Nat) : sext64 x n = .ofInt 64 (BitVec.ofNat n x).toInt := by rw [sext64, wrap64, sNat_eq_toInt]

theorem sext64_eq_signExtend (x n : Nat) : sext64 x n = (BitVec.ofNat n x).signExtend 64 := sext64_eq_ofInt x n

theorem sext64_toNat (v : Word) (n : Nat) : sext64 v.toNat n = (v.setWidth n).signExtend 64 := by
  rw [sext64_eq_signExtend, BitVec.ofNat_toNat]

/-! ### Sums, differences and products -/

theorem add_eq_ofInt (a b : Word) : a + b = .ofInt 64 (a.toInt + b.toInt) := by
  rw [BitVec.ofInt_add, BitVec.ofInt_toInt, BitVec.ofInt_toInt]

theorem sub_eq_ofInt (a b : Word) : a - b = .ofInt 64 (a.toInt - b.toInt) := by
  rw [Int.sub_eq_add_neg, BitVec.ofInt_add, BitVec.ofInt_neg, BitVec.ofInt_toInt, BitVec.ofInt_toInt, BitVec.sub_eq_add_neg]

theorem mul_eq_ofInt (a b : Word) : a * b = .ofInt 64 (a.toInt * b.toInt) := by
  rw [BitVec.ofInt_mul, BitVec.ofInt_toInt, BitVec.ofInt_toInt]

theorem add_immI (a : Word) (o : SI) : a + immI o = .ofInt 64 (a.toInt + (BitVec.ofNat 33 o.imm).toInt) := by
  rw [BitVec.ofInt_add, BitVec.ofInt_toInt, immI, sext64_eq_ofInt]

theorem mul_immI (a : Word) (o : SI) : a * immI o = .ofInt 64 (a.toInt * (BitVec.ofNat 33 o.imm).toInt) := by
  rw [BitVec.ofInt_mul, BitVec.ofInt_toInt, immI, sext64_eq_ofInt]

theorem mulHigh_toNat (a b : Word) : mulHigh a.toNat b.toNat = .ofNat 64 (a.toNat * b.toNat / 2 ^ 64) := by
  have h : ((a.toNat : Int) * b.toNat / 2 ^ 64) = ((a.toNat * b.toNat / 2 ^ 64 : Nat) : Int) := by norm_cast
  rw [mulHigh, h]
  exact BitVec.ofInt_natCast 64 _

/-! ### Shifts and rotates -/

theorem shiftLeft_eq_ofNat (v : Word) (n : Nat) : v <<< n = .ofNat 64 (v.toNat * 2 ^ n) := by
  rw [← Nat.shiftLeft_eq]
  rfl

theorem ushiftRight_eq_ofNat (v : Word) (n : Nat) : v >>> n = .ofNat 64 (v.toNat / 2 ^ n) := by
  apply BitVec.eq_of_toNat_eq
  rw [BitVec.toNat_ushiftRight, Nat.shiftRight_eq_div_pow, BitVec.toNat_ofNat,
    Nat.mod_eq_of_lt (lt_of_le_of_lt (Nat.div_le_self _ _) v.isLt)]

theorem sshiftRight_eq_ofInt (v : Word) (n : Nat) : v.sshiftRight n = .ofInt 64 (v.toInt / 2 ^ n) := by
  rw [BitVec.sshiftRight, Int.shiftRight_eq_div_pow]
  norm_cast

theorem rotateLeft_eq_ofNat (v : Word) (n : Nat) (hn : n < 64) :
    v.rotateLeft n = (.ofNat 64 (v.toNat * 2 ^ n) ||| .ofNat 64 (v.toNat / 2 ^ (64 - n)) : Word) := by
  rw [BitVec.rotateLeft_def, Nat.mod_eq_of_lt hn, shiftLeft_eq_ofNat, ushiftRight_eq_ofNat]

theorem rotateRight_eq_ofNat (v : Word) (n : Nat) (hn : n < 64) :
    v.rotateRight n = (.ofNat 64 (v.toNat / 2 ^ n) ||| .ofNat 64 (v.toNat * 2 ^ (64 - n)) : Word) := by
  rw [BitVec.rotateRight_def, Nat.mod_eq_of_lt hn, shiftLeft_eq_ofNat, ushiftRight_eq_ofNat]

theorem amount_lt (b : Word) : amount b < 64 := Nat.mod_lt _ (by decide)

/-! ### Counts -/

/-- The run at the front of a range is as long as its first index that is out of it. -/
theorem length_takeWhile_range {p : Nat → Bool} {n k : Nat} (hk : k ≤ n) (hp : ∀ i, i < k → p i = true) (hend : k = n ∨ p k = false) :
    ((List.range n).takeWhile p).length = k := by
  obtain ⟨m, rfl⟩ := Nat.exists_eq_add_of_le hk
  rw [List.range_add, List.takeWhile_append_of_pos (fun i hi => hp i (List.mem_range.mp hi)), List.length_append, List.length_range]
  cases m with
  | zero => rfl
  | succ m =>
    have hf : p k = false := hend.resolve_left (by omega)
    simp [List.range_succ_eq_map, hf]

theorem leadZeros_eq (a : Word) :
    leadZeros a = .ofNat 64 ((List.range 64).takeWhile (fun i => !a.getLsbD (63 - i))).length := by
  rw [leadZeros]
  congr 1
  split
  next h0 => exact (length_takeWhile_range le_rfl (fun i _ => by simp [h0]) (.inl rfl)).symm
  next h0 =>
    have hne : a.toNat ≠ 0 := fun h => h0 (BitVec.eq_of_toNat_eq h)
    have hlog : a.toNat.log2 < 64 := (Nat.log2_lt hne).mpr a.isLt
    refine (length_takeWhile_range (by omega) (fun i hi => ?_) (.inr ?_)).symm
    · rw [BitVec.getLsbD, Nat.testBit_lt_two_pow, Bool.not_false]
      exact lt_of_lt_of_le Nat.lt_log2_self (Nat.pow_le_pow_right (by decide) (by omega))
    · rw [show 63 - (63 - a.toNat.log2) = a.toNat.log2 by omega, BitVec.getLsbD, Nat.testBit_log2 hne, Bool.not_true]

theorem trailZeros_eq (a : Word) : trailZeros a = .ofNat 64 ((List.range 64).takeWhile (fun i => !a.getLsbD i)).length := by
  rw [trailZeros]
  congr 1
  cases hf : (List.range 64).find? (fun i => a.getLsbD i) with
  | none =>
    rw [List.find?_range_eq_none] at hf
    exact (length_takeWhile_range le_rfl hf (.inl rfl)).symm
  | some k =>
    obtain ⟨hk, hmem, hlow⟩ := List.find?_range_eq_some.mp hf
    have hlt := List.mem_range.mp hmem
    exact (length_takeWhile_range hlt.le hlow (.inr (by rw [hk, Bool.not_true]))).symm

theorem setBits_eq (a : Word) : setBits a = .ofNat 64 ((List.range 64).countP (fun i => a.getLsbD i)) := by
  rw [setBits, List.countP_eq_length_filter]

/-! ### Choices, extensions and moves -/

theorem min_eq_ofInt (a b : Word) : (if b.toInt < a.toInt then b else a) = .ofInt 64 (min a.toInt b.toInt) := by
  split
  · rw [min_eq_right (by omega), BitVec.ofInt_toInt]
  · rw [min_eq_left (by omega), BitVec.ofInt_toInt]

theorem max_eq_ofInt (a b : Word) : (if a.toInt < b.toInt then b else a) = .ofInt 64 (max a.toInt b.toInt) := by
  split
  · rw [max_eq_right (by omega), BitVec.ofInt_toInt]
  · rw [max_eq_left (by omega), BitVec.ofInt_toInt]

theorem minz_eq_ofNat (a b : Word) : (if b.toNat < a.toNat then b else a) = .ofNat 64 (min a.toNat b.toNat) := by
  split
  · rw [min_eq_right (by omega), BitVec.ofNat_toNat, BitVec.setWidth_eq]
  · rw [min_eq_left (by omega), BitVec.ofNat_toNat, BitVec.setWidth_eq]

theorem maxz_eq_ofNat (a b : Word) : (if a.toNat < b.toNat then b else a) = .ofNat 64 (max a.toNat b.toNat) := by
  split
  · rw [max_eq_right (by omega), BitVec.ofNat_toNat, BitVec.setWidth_eq]
  · rw [max_eq_left (by omega), BitVec.ofNat_toNat, BitVec.setWidth_eq]

theorem zext_eq_setWidth (v : Word) (n : Nat) : BitVec.ofNat 64 (v.toNat % 2 ^ n) = (v.setWidth n).setWidth 64 := by
  apply BitVec.eq_of_toNat_eq
  simp

theorem movhi_eq_append (imm : Nat) (d : Word) :
    BitVec.ofNat 64 (imm % 2 ^ 39 * 2 ^ 25 + d.toNat % 2 ^ 25) = BitVec.ofNat 39 imm ++ d.setWidth 25 := by
  apply BitVec.eq_of_toNat_eq
  have hlow : d.toNat % 2 ^ 25 < 2 ^ 25 := Nat.mod_lt _ (by decide)
  rw [BitVec.toNat_append, BitVec.toNat_setWidth, BitVec.toNat_ofNat, BitVec.toNat_ofNat, ← Nat.shiftLeft_add_eq_or_of_lt hlow,
    Nat.shiftLeft_eq]
  omega

/-- The conditions of a comparison, in the order of their codes (R128). -/
theorem compare_eq_getD {n : Nat} (hn : n < 6) (a b : Word) :
    compare n a b = [decide (a = b), decide (a ≠ b), decide (a.toInt < b.toInt), decide (b.toInt ≤ a.toInt), decide (a.toNat < b.toNat),
      decide (b.toNat ≤ a.toNat)].getD n false := by
  match n, hn with
  | 0, _ => exact beq_eq_decide a b
  | 1, _ => simp [compare, bne, beq_eq_decide]
  | 2, _ => rfl
  | 3, _ => rfl
  | 4, _ => rfl
  | 5, _ => rfl

/-! ### Issues of functions of registers -/

@[simp] theorem atIssue_getP (i : Instr) (al : Bool) (s : State) (n : Nat) : (atIssue i al s).getP n = (found (headOf i) s).getP n :=
  passed_getP ..

section
variable {i : Instr} {s : State} {l a : Nat}

/-- An integer instruction writes its value function on the registers and predicates that its slot finds (R109, R156). -/
theorem exec_intOp (f : (Nat → Word) → (Nat → Bool) → Word)
    (hx : exec i s = .next (issueOne i (intOp l a (fun c => f c.getS c.getP)) s)) (hm : slotSem i = intOp l a (fun c => f c.getS c.getP))
    (hf : free (headOf i) s = true) {v : Word} (hv : f (found (headOf i) s).getS (found (headOf i) s).getP = v) :
    exec i s = .next (writesS i s l a v) := by
  have hS : (atIssue i true s).getS = (found (headOf i) s).getS := funext (atIssue_getS i true s)
  have hP : (atIssue i true s).getP = (found (headOf i) s).getP := funext (atIssue_getP i true s)
  rw [hx, issueOne_intOp i s l a _ v hm hf (by rw [hS, hP, hv])]

/-- The same of a predicate instruction (R160). -/
theorem exec_predOp (f : (Nat → Word) → (Nat → Bool) → Bool)
    (hx : exec i s = .next (issueOne i (predOp a (fun c => f c.getS c.getP)) s)) (hm : slotSem i = predOp a (fun c => f c.getS c.getP))
    (hf : free (headOf i) s = true) {v : Bool} (hv : f (found (headOf i) s).getS (found (headOf i) s).getP = v) :
    exec i s = .next (writesP i s a v) := by
  have hS : (atIssue i true s).getS = (found (headOf i) s).getS := funext (atIssue_getS i true s)
  have hP : (atIssue i true s).getP = (found (headOf i) s).getP := funext (atIssue_getP i true s)
  rw [hx, issueOne_predOp i s a _ v hm hf (by rw [hS, hP, hv])]

end

/-- Settles O1: each of the seven writes its value function on the operands found, and wrapped words are the integers'
results modulo 2^64 (R157). -/
theorem integerArithmetic : Obligations.IntegerArithmetic := by
  unfold Obligations.IntegerArithmetic
  intro h s hf _ x
  refine ⟨fun o => ?add, fun o => ?addi, fun o => ?sub, fun o => ?mul, fun o => ?muli, fun o => ?mulh, fun o => ?mulhz⟩
  case add => exact exec_intOp (i := .add h o) (fun x _ => x o.b + x o.c) rfl rfl hf (add_eq_ofInt _ _)
  case addi => exact exec_intOp (i := .addi h o) (fun x _ => x o.b + immI o) rfl rfl hf (add_immI _ _)
  case sub => exact exec_intOp (i := .sub h o) (fun x _ => x o.b - x o.c) rfl rfl hf (sub_eq_ofInt _ _)
  case mul => exact exec_intOp (i := .mul h o) (fun x _ => x o.b * x o.c) rfl rfl hf (mul_eq_ofInt _ _)
  case muli => exact exec_intOp (i := .muli h o) (fun x _ => x o.b * immI o) rfl rfl hf (mul_immI _ _)
  case mulh => exact exec_intOp (i := .mulh h o) (fun x _ => mulHigh (x o.b).toInt (x o.c).toInt) rfl rfl hf rfl
  case mulhz => exact exec_intOp (i := .mulhz h o) (fun x _ => mulHigh (x o.b).toNat (x o.c).toNat) rfl rfl hf (mulHigh_toNat _ _)

/-- Settles O3: the bitwise operations are the model's own; shifts and rotates are multiplications and divisions of the
patterns by a power of two (R157, R159). -/
theorem bitwiseAndShifts : Obligations.BitwiseAndShifts := by
  unfold Obligations.BitwiseAndShifts
  intro h s hf _ x imm left right arith
  have himm (o : SI) : immI o = imm o.imm := sext64_eq_signExtend _ _
  refine ⟨fun o => ?and, fun o => ?andi, fun o => ?or, fun o => ?ori, fun o => ?xor, fun o => ?xori, fun o => ?shl, fun o => ?shr,
    fun o => ?sra, fun o hn => ?shli, fun o hn => ?shri, fun o hn => ?srai, fun o => ?rotl, fun o => ?rotr⟩
  case and => exact exec_intOp (i := .and h o) (fun x _ => x o.b &&& x o.c) rfl rfl hf rfl
  case andi => exact exec_intOp (i := .andi h o) (fun x _ => x o.b &&& immI o) rfl rfl hf (congrArg (x o.b &&& ·) (himm o))
  case or => exact exec_intOp (i := .or h o) (fun x _ => x o.b ||| x o.c) rfl rfl hf rfl
  case ori => exact exec_intOp (i := .ori h o) (fun x _ => x o.b ||| immI o) rfl rfl hf (congrArg (x o.b ||| ·) (himm o))
  case xor => exact exec_intOp (i := .xor h o) (fun x _ => x o.b ^^^ x o.c) rfl rfl hf rfl
  case xori => exact exec_intOp (i := .xori h o) (fun x _ => x o.b ^^^ immI o) rfl rfl hf (congrArg (x o.b ^^^ ·) (himm o))
  case shl => exact exec_intOp (i := .shl h o) (fun x _ => x o.b <<< amount (x o.c)) rfl rfl hf (shiftLeft_eq_ofNat _ _)
  case shr => exact exec_intOp (i := .shr h o) (fun x _ => x o.b >>> amount (x o.c)) rfl rfl hf (ushiftRight_eq_ofNat _ _)
  case sra => exact exec_intOp (i := .sra h o) (fun x _ => (x o.b).sshiftRight (amount (x o.c))) rfl rfl hf (sshiftRight_eq_ofInt _ _)
  case shli =>
    refine exec_intOp (i := .shli h o) (fun x _ => x o.b <<< (o.imm % 64)) rfl rfl hf ?_
    rw [Nat.mod_eq_of_lt hn]
    exact shiftLeft_eq_ofNat _ _
  case shri =>
    refine exec_intOp (i := .shri h o) (fun x _ => x o.b >>> (o.imm % 64)) rfl rfl hf ?_
    rw [Nat.mod_eq_of_lt hn]
    exact ushiftRight_eq_ofNat _ _
  case srai =>
    refine exec_intOp (i := .srai h o) (fun x _ => (x o.b).sshiftRight (o.imm % 64)) rfl rfl hf ?_
    rw [Nat.mod_eq_of_lt hn]
    exact sshiftRight_eq_ofInt _ _
  case rotl => exact exec_intOp (i := .rotl h o) (fun x _ => (x o.b).rotateLeft (amount (x o.c))) rfl rfl hf (rotateLeft_eq_ofNat _ _ (amount_lt _))
  case rotr => exact exec_intOp (i := .rotr h o) (fun x _ => (x o.b).rotateRight (amount (x o.c))) rfl rfl hf (rotateRight_eq_ofNat _ _ (amount_lt _))

/-- Settles O4: runs of clear bits are counted by the highest and the lowest set bit, choices follow the order of the values,
and extensions cut to a width first (R157, R159). -/
theorem countsAndMoves : Obligations.CountsAndMoves := by
  unfold Obligations.CountsAndMoves
  intro h s hf _ x
  refine ⟨fun o => ?clz, fun o => ?ctz, fun o => ?popc, fun o => ?min, fun o => ?max, fun o => ?minz, fun o => ?maxz, fun o hc => ?sext,
    fun o hc => ?zext, fun o => ?mov, fun o => ?movi, fun o => ?movhi, fun o => ?sel⟩
  case clz => exact exec_intOp (i := .clz h o) (fun x _ => leadZeros (x o.b)) rfl rfl hf (leadZeros_eq _)
  case ctz => exact exec_intOp (i := .ctz h o) (fun x _ => trailZeros (x o.b)) rfl rfl hf (trailZeros_eq _)
  case popc => exact exec_intOp (i := .popc h o) (fun x _ => setBits (x o.b)) rfl rfl hf (setBits_eq _)
  case min => exact exec_intOp (i := .min h o) (fun x _ => if (x o.c).toInt < (x o.b).toInt then x o.c else x o.b) rfl rfl hf (min_eq_ofInt _ _)
  case max => exact exec_intOp (i := .max h o) (fun x _ => if (x o.b).toInt < (x o.c).toInt then x o.c else x o.b) rfl rfl hf (max_eq_ofInt _ _)
  case minz => exact exec_intOp (i := .minz h o) (fun x _ => if (x o.c).toNat < (x o.b).toNat then x o.c else x o.b) rfl rfl hf (minz_eq_ofNat _ _)
  case maxz => exact exec_intOp (i := .maxz h o) (fun x _ => if (x o.b).toNat < (x o.c).toNat then x o.c else x o.b) rfl rfl hf (maxz_eq_ofNat _ _)
  case sext =>
    refine exec_intOp (i := .sext h o) (fun x _ => sext64 (x o.b).toNat (8 * widthBytes (o.c % 4))) rfl rfl hf ?_
    rw [Nat.mod_eq_of_lt (show o.c < 4 by omega)]
    exact sext64_toNat _ _
  case zext =>
    refine exec_intOp (i := .zext h o) (fun x _ => BitVec.ofNat 64 ((x o.b).toNat % 2 ^ (8 * widthBytes (o.c % 4)))) rfl rfl hf ?_
    rw [Nat.mod_eq_of_lt (show o.c < 4 by omega)]
    exact zext_eq_setWidth _ _
  case mov => exact exec_intOp (i := .mov h o) (fun x _ => x o.b) rfl rfl hf rfl
  case movi => exact exec_intOp (i := .movi h o) (fun _ _ => sext64 o.imm 39) rfl rfl hf (sext64_eq_signExtend _ _)
  case movhi =>
    exact exec_intOp (i := .movhi h o) (fun x _ => BitVec.ofNat 64 (o.imm % 2 ^ 39 * 2 ^ 25 + (x o.a).toNat % 2 ^ 25)) rfl rfl hf (movhi_eq_append _ _)
  case sel => exact exec_intOp (i := .sel h o) (fun x p => if p (o.d % 8) then x o.b else x o.c) rfl rfl hf rfl

/-- Settles O5: a comparison writes the condition of its code, and the rest write the model's own logic (R128, R160). -/
theorem predicateResults : Obligations.PredicateResults := by
  unfold Obligations.PredicateResults
  intro h s hf _ x p cond
  refine ⟨fun o hn => ?cmp, fun o hn => ?cmpi, fun o => ?pand, fun o => ?por, fun o => ?pxor, fun o => ?pnot, fun o => ?pmov⟩
  case cmp => exact exec_predOp (i := .cmp h o) (fun x _ => compare (o.a / 8) (x o.b) (x o.c)) rfl rfl hf (compare_eq_getD hn _ _)
  case cmpi =>
    refine exec_predOp (i := .cmpi h o) (fun x _ => compare (o.a / 8) (x o.b) (immI o)) rfl rfl hf ?_
    rw [immI, sext64_eq_signExtend]
    exact compare_eq_getD hn _ _
  case pand => exact exec_predOp (i := .pand h o) (fun _ p => p (o.b % 8) && p (o.c % 8)) rfl rfl hf rfl
  case por => exact exec_predOp (i := .por h o) (fun _ p => p (o.b % 8) || p (o.c % 8)) rfl rfl hf rfl
  case pxor => exact exec_predOp (i := .pxor h o) (fun _ p => p (o.b % 8) != p (o.c % 8)) rfl rfl hf rfl
  case pnot => exact exec_predOp (i := .pnot h o) (fun _ p => !p (o.b % 8)) rfl rfl hf rfl
  case pmov => exact exec_predOp (i := .pmov h o) (fun _ p => p (o.b % 8)) rfl rfl hf rfl

end Sys2Proof.Machine

/-! ## Control transfers and the end of a loop level (R117, R161 to R163) -/

namespace Sys2Proof.Machine

theorem Head.solo_codeLen (h : Head) (s : State) (p oid : Nat) : codeLen (judged h s) p oid = codeLen s p oid := rfl

theorem targetErr_judged {i : Instr} {s : State} {t : Word}
    (ht : t.toNat < codeLen s (found (headOf i) s).part (found (headOf i) s).codeOid) :
    targetErr (here i s) (judged (headOf i) s) t = none := by
  simp only [targetErr, lenNow, here_ctx, ctx_judged, Head.solo_codeLen, if_pos ht]

theorem toNat_ofNat_lt {t n : Nat} (ht : t < n) : (BitVec.ofNat 64 t).toNat < n := by
  rw [BitVec.toNat_ofNat]
  exact lt_of_le_of_lt (Nat.mod_le _ _) ht

section
variable {i : Instr} {s : State} {m : SlotSem}

/-- A lone slot without hold, tile, mark, gate and end of its own issues once its checks pass, and goes on where its meaning says. -/
theorem issueOne_goes (hm : slotSem i = m) (hf : free (headOf i) s = true) (hc : m.chk (here i s) (judged (headOf i) s) = none)
    (hpost : m.post (here i s) (judged (headOf i) s) = none) (hh : m.hold (here i s) (judged (headOf i) s) = false)
    (ht : ∀ u, m.tiles (here i s) u = []) (hk : m.mark (here i s) (judged (headOf i) s) = false)
    (hg : m.gates (here i s) (judged (headOf i) s) = false) (hl : m.lat ≠ .engine) (hfin : m.fin (here i s) = id) :
    issueOne i m s = issued i (m.lat != .now) s (m.eff (here i s))
      (m.goes (here i s) (m.eff (here i s) (issuing i (m.lat != .now) s))) id := by
  have h := issueOne_passes i s hf (passes_plain i s m hm hc hpost hh ht hk hg hl)
  rw [hm, hfin] at h
  exact h

/-- A transfer to TGT whose condition is that of predicates goes there or behind its bundle (R161). -/
theorem issueOne_branchSem {o : SB} {cond : Ctx → Bool} (hm : slotSem i = branchSem o cond) (hf : free (headOf i) s = true)
    (hcond : cond (atIssue i false s) = cond (found (headOf i) s))
    (ht : cond (found (headOf i) s) = true → o.tgt < codeLen s (found (headOf i) s).part (found (headOf i) s).codeOid) :
    issueOne i (branchSem o cond) s = issued i false s id (if cond (found (headOf i) s) then some o.tgt else none) id := by
  have hc : (branchSem o cond).chk (here i s) (judged (headOf i) s) = none := by
    simp only [branchSem, here_ctx, ctx_judged]
    split
    next h => exact targetErr_judged (toNat_ofNat_lt (ht h))
    next => rfl
  have hgoes : (branchSem o cond).goes (here i s) (issuing i false s) = if cond (found (headOf i) s) then some o.tgt else none := by
    simp only [branchSem, here_ctx, ctx_issuing, hcond]
  rw [issueOne_goes hm hf hc rfl rfl (fun _ => rfl) rfl rfl (by simp [branchSem]) rfl, ← hgoes]
  rfl

/-- A transfer to a register goes to its low 24 bits (R161, R162). -/
theorem issueOne_jumpSem {o : SB} (hm : slotSem i = jumpSem o) (hf : free (headOf i) s = true)
    (ht : ((found (headOf i) s).getS (o.cnt / 512)).toNat < codeLen s (found (headOf i) s).part (found (headOf i) s).codeOid) :
    issueOne i (jumpSem o) s = issued i false s id (some (((found (headOf i) s).getS (o.cnt / 512)).toNat % 2 ^ 24)) id := by
  have hc : (jumpSem o).chk (here i s) (judged (headOf i) s) = none := by
    simp only [jumpSem, here_ctx, ctx_judged, sbReg]
    exact targetErr_judged ht
  have hgoes : (jumpSem o).goes (here i s) (issuing i false s) = some (((found (headOf i) s).getS (o.cnt / 512)).toNat % 2 ^ 24) := by
    simp only [jumpSem, here_ctx, ctx_issuing, atIssue_getS, sbReg, fld, bits, pow_zero, Nat.div_one]
  rw [issueOne_goes hm hf hc rfl rfl (fun _ => rfl) rfl rfl (by simp [jumpSem]) rfl, ← hgoes]
  rfl

end

/-- The link of `call` is the next bundle's word (R163). -/
theorem eff_semCall (h : Head) (o : SB) (s : State) : (semCall o).eff (here (.call h o) s) (issuing (.call h o) true s) =
    (issuing (.call h o) true s).updCtx s.cur.1 s.cur.2
      (fun d => d.push (result (.call h o) s 1 false ((found h s).dstS (o.cnt / 512)) (.ofNat 512 (pcOf s + 2)))) := by
  rw [← produce_issuing (.call h o) s (.prod 1) 1 false _ _ rfl, show (found h s).dstS (o.cnt / 512) = _ from
    (atIssue_dstS (.call h o) true s _).symm, ← ctx_issuing (.call h o) true s]
  rfl

theorem issueOne_semCall {h : Head} {o : SB} {s : State} (hf : free h s = true)
    (ht : o.tgt < codeLen s (found h s).part (found h s).codeOid) :
    issueOne (.call h o) (semCall o) s = issued (.call h o) true s (fun t => t.updCtx s.cur.1 s.cur.2 (fun d =>
      d.push (result (.call h o) s 1 false ((found h s).dstS (o.cnt / 512)) (.ofNat 512 (pcOf s + 2))))) (some o.tgt) id := by
  have hc : (semCall o).chk (here (.call h o) s) (judged h s) = none := targetErr_judged (i := .call h o) (toNat_ofNat_lt ht)
  rw [issueOne_goes (i := .call h o) (m := semCall o) rfl hf hc rfl rfl (fun _ => rfl) rfl rfl (by simp [semCall]) rfl]
  exact issued_congr _ _ _ _ _ _ _ (eff_semCall h o s)

/-- Settles O6: the branches and `bp` by the one law of a transfer to TGT, `jmp` and `ret` by that of a transfer to a
register, and `call` by its link (R161 to R163). -/
theorem controlTransfers : Obligations.ControlTransfers := by
  unfold Obligations.ControlTransfers
  intro h s hf c len
  refine ⟨fun o ht => ?br, fun o hp ht => ?taken, fun o hp => ?notTaken, fun o ht => ?jmp, fun o ht => ?ret, fun o ht _ => ?call, fun o => ?nop⟩
  case br => exact congrArg _ (issueOne_branchSem (i := .br h o) (cond := fun _ => true) rfl hf rfl (fun _ => ht))
  case taken =>
    have hx := issueOne_branchSem (i := .bp h o) (cond := fun c => c.getP o.p != (o.pn == 1)) rfl hf
      (by rw [atIssue_getP]) (fun _ => ht)
    exact congrArg _ (hx.trans (congrArg (issued (.bp h o) false s id · id) (if_pos hp)))
  case notTaken =>
    have hx := issueOne_branchSem (i := .bp h o) (cond := fun c => c.getP o.p != (o.pn == 1)) rfl hf
      (by rw [atIssue_getP]) (fun ht => absurd ht (Bool.eq_false_iff.mp hp))
    exact congrArg _ (hx.trans (congrArg (issued (.bp h o) false s id · id) (if_neg (Bool.eq_false_iff.mp hp))))
  case jmp => exact congrArg _ (issueOne_jumpSem (i := .jmp h o) rfl hf ht)
  case ret => exact congrArg _ (issueOne_jumpSem (i := .ret h o) rfl hf ht)
  case call => exact congrArg _ (issueOne_semCall hf ht)
  case nop =>
    exact congrArg _ (issueOne_goes (i := .nop h o) (m := semNop o) rfl hf rfl rfl rfl (fun _ => rfl) rfl rfl (by simp [semNop]) rfl)

/-! ### The end check -/

@[simp] theorem Ctx.pcNow_setPc (c : Ctx) (n : Nat) : (c.setPc n).pcNow = n := by
  unfold Ctx.setPc Ctx.pcNow
  cases c.sup <;> rfl

@[simp] theorem Ctx.lvNow_setPc (c : Ctx) (n : Nat) : (c.setPc n).lvNow = c.lvNow := by
  unfold Ctx.setPc Ctx.lvNow
  cases c.sup <;> rfl

@[simp] theorem Ctx.lvNow_setLv (c : Ctx) (t : Tab Level) : (c.setLv t).lvNow = t := by
  unfold Ctx.setLv Ctx.lvNow
  cases c.sup <;> rfl

theorem pcNow_movedOn (w : Nat) (c : Ctx) : (movedOn w none c).pcNow = (endCheck c.lvNow w 4).2.getD (w + 2) := by simp [movedOn]

theorem lvNow_movedOn (w : Nat) (c : Ctx) : (movedOn w none c).lvNow = (endCheck c.lvNow w 4).1 := by simp [movedOn]

/-- Level `n` of `t` is active and ends at word `w`. -/
def endsAt (t : Tab Level) (w n : Nat) : Bool := (t.get n {}).active && (t.get n {}).stop == w

theorem lastLevel_eq_some {t : Tab Level} {w n : Nat} (hn : n < 4) (h : endsAt t w n = true)
    (ho : ∀ m, m < 4 → m ≠ n → endsAt t w m = false) : lastLevel t w = some n := by
  have hl : [0, 1, 2, 3].filter (fun i => endsAt t w i) = [n] := by
    match n, hn with
    | 0, _ => simp [h, ho 1, ho 2, ho 3]
    | 1, _ => simp [h, ho 0, ho 2, ho 3]
    | 2, _ => simp [h, ho 0, ho 1, ho 3]
    | 3, _ => simp [h, ho 0, ho 1, ho 2]
  show ([0, 1, 2, 3].filter (fun i => endsAt t w i)).foldl _ none = some n
  rw [hl]
  rfl

theorem lastLevel_eq_none {t : Tab Level} {w : Nat} (ho : ∀ m, m < 4 → endsAt t w m = false) : lastLevel t w = none := by
  show ([0, 1, 2, 3].filter (fun i => endsAt t w i)).foldl _ none = none
  simp [ho 0, ho 1, ho 2, ho 3]

section
variable {t : Tab Level} {w n k : Nat}

/-- The last level that ends at a word goes round again while its count is above 1 (R117). -/
theorem endCheck_repeats (h : lastLevel t w = some n) (hc : 1 < (t.get n {}).count) :
    endCheck t w (k + 1) = (t.set n { t.get n {} with count := (t.get n {}).count - 1 } {}, some (t.get n {}).start) := by
  rw [endCheck, h]
  exact if_pos hc

/-- It ends otherwise, and the check goes on with the others. -/
theorem endCheck_ends (h : lastLevel t w = some n) (hc : (t.get n {}).count ≤ 1) :
    endCheck t w (k + 1) = endCheck (t.set n { t.get n {} with count := 0, active := false } {}) w k := by
  rw [endCheck, h]
  exact if_neg (Nat.not_lt.mpr hc)

theorem endCheck_none (h : lastLevel t w = none) : endCheck t w (k + 1) = (t, none) := by
  rw [endCheck, h]

theorem endsAt_set_other {m : Nat} {v : Level} (h : m ≠ n) : endsAt (t.set n v {}) w m = endsAt t w m := by
  rw [endsAt, endsAt, Tab.get_set_other _ _ _ _ _ _ h]

theorem endsAt_set_inactive {v : Level} (hv : v.active = false) : endsAt (t.set n v {}) w n = false := by
  rw [endsAt, Tab.get_set_same, hv, Bool.false_and]

end

/-- Settles O8: the one level that ends at the word is the one that the end check finds; a second check of an ended level
finds none (R117). -/
theorem loopEnd : Obligations.LoopEnd := by
  unfold Obligations.LoopEnd
  intro c w n l hn hl hact hstop hother
  subst hl
  have hat : endsAt c.lvNow w n = true := by simp [endsAt, hact, hstop]
  have hno (m : Nat) (hm : m < 4) (hne : m ≠ n) : endsAt c.lvNow w m = false := by
    rcases hother m hm hne with h | h <;> simp [endsAt, h]
  have hlast := lastLevel_eq_some hn hat hno
  rw [pcNow_movedOn, lvNow_movedOn]
  rcases Nat.lt_or_ge 1 (c.lvNow.get n {}).count with hc | hc
  · rw [endCheck_repeats hlast hc]
    refine ⟨fun _ => ⟨rfl, Tab.get_set_same ..⟩, fun h => absurd hc (Nat.not_lt.mpr h), fun m hm => Tab.get_set_other _ _ _ _ _ _ hm⟩
  · have hnone : lastLevel (c.lvNow.set n { c.lvNow.get n {} with count := 0, active := false } {}) w = none := by
      refine lastLevel_eq_none fun m hm => ?_
      by_cases hne : m = n
      · subst hne
        exact endsAt_set_inactive rfl
      · rw [endsAt_set_other hne, hno m hm hne]
    rw [endCheck_ends hlast hc, endCheck_none hnone]
    exact ⟨fun h => absurd h (Nat.not_lt.mpr hc), fun _ => ⟨rfl, Tab.get_set_same ..⟩, fun m hm => Tab.get_set_other _ _ _ _ _ _ hm⟩

end Sys2Proof.Machine

/-! ## Words of the spec and the state at reset -/

namespace Sys2Proof.Machine

/-- Settles O37: each word's fields are numerals, which the decoder reads. -/
theorem decodeWords : Obligations.DecodeWords := by
  unfold Obligations.DecodeWords
  refine ⟨rfl, rfl, rfl, rfl, rfl, rfl, rfl, rfl, rfl⟩

/-- With no remap entry written, the physical row of a logical core is its own (R17). -/
theorem physRow_reset (core : Nat) : State.reset.physRow core = core / 16 % 8 := by
  have hr (n : Nat) (hn : n < 8) : (State.reset.remapOf (dieOf core) (core % 8)).lrow.getD n 15 = n := by
    interval_cases n <;> rfl
  exact hr _ (Nat.mod_lt _ (by decide))

theorem island_reset : ∀ n, n < 48 → (State.reset.island n).vset = 50 ∧ (State.reset.island n).vmax = 80 ∧
    (State.reset.island n).mode = 0 ∧ (State.reset.island n).bal = 0 ∧ (State.reset.island n).stepTo = none := by
  decide

/-- Settles O38: all tables are empty at reset but for the islands, so that each entry reads as the value at rest (R3). -/
theorem resetValues : Obligations.ResetValues := by
  unfold Obligations.ResetValues
  refine ⟨rfl, rfl, rfl, rfl, rfl, rfl, rfl, rfl, fun _ _ => ⟨rfl, rfl, rfl⟩, fun _ => ⟨rfl, rfl, rfl, rfl⟩, fun _ => rfl,
    fun _ => ⟨rfl, rfl⟩, fun core _ => ?phys, island_reset, fun _ => ⟨rfl, rfl, rfl, rfl, rfl⟩⟩
  case phys => rw [State.phys, physRow_reset]

end Sys2Proof.Machine

/-! ## Instructions of the other mode, misaligned accesses, and reads of the counters (R166, R183, R269 to R271) -/

namespace Sys2Proof.Machine

/-- A lone slot whose check fails with `t` faults (R107, R359). -/
theorem exec_fails {i : Instr} {m : SlotSem} {s : State} (t : Trap) (hx : exec i s = .next (issueOne i m s)) (hf : free (headOf i) s = true)
    (hc : m.chk (here i s) (judged (headOf i) s) = some t) :
    exec i s = .next (failBundle (judged (headOf i) s) s.cur.1 s.cur.2 t.code t.tval (headOf i).slot.num 0 (pcOf s + 1)) := by
  rw [hx, issueOne_fails i m s t hf hc]

/-- MODE_FAULT of an instruction whose OPCODE or register code is `v` (R183, R348). -/
def modeFault (v : Nat) : Trap := { code := 0x71, tval := .ofNat 64 v }

section
variable {i : Instr} {m : SlotSem} {s : State} {op : Nat}

/-- An instruction of supervisor mode in user mode (R183). -/
theorem exec_onlySup (hx : exec i s = .next (issueOne i m s)) (hm : m.chk = fun p s => onlySup op (p.ctx s)) (hf : free (headOf i) s = true)
    (hs : (found (headOf i) s).sup = false) :
    exec i s = .next (failBundle (judged (headOf i) s) s.cur.1 s.cur.2 0x71 (.ofNat 64 op) (headOf i).slot.num 0 (pcOf s + 1)) := by
  refine exec_fails (modeFault op) hx hf ?_
  rw [hm]
  show onlySup op ((here i s).ctx (judged (headOf i) s)) = _
  rw [here_ctx, ctx_judged, onlySup, hs]
  rfl

/-- An instruction that acts for a user task in supervisor mode (R183). -/
theorem exec_onlyUser (hx : exec i s = .next (issueOne i m s)) (hm : ∀ p s, (p.ctx s).sup = true → m.chk p s = onlyUser op (p.ctx s))
    (hf : free (headOf i) s = true) (hs : (found (headOf i) s).sup = true) :
    exec i s = .next (failBundle (judged (headOf i) s) s.cur.1 s.cur.2 0x71 (.ofNat 64 op) (headOf i).slot.num 0 (pcOf s + 1)) := by
  have hsup : ((here i s).ctx (judged (headOf i) s)).sup = true := by rw [here_ctx, ctx_judged, hs]
  refine exec_fails (modeFault op) hx hf ?_
  rw [hm _ _ hsup, onlyUser, if_pos hsup]
  rfl

end

/-- The mode goes before the further checks of `enqt` (R359). -/
theorem semEnqt_chk (o : SR) (p : At) (s : State) (hs : (p.ctx s).sup = true) : (semEnqt o).chk p s = onlyUser 0x126 (p.ctx s) := by
  show firstOf [onlyUser 0x126 (p.ctx s), enqtErr o (p.ctx s)] = _
  rw [onlyUser, if_pos hs]
  rfl

theorem mtsrErr_user {h : Head} {o : SI} {s : State} (hs : (found h s).sup = false) :
    mtsrErr o (judged h s) s.cur.1 s.cur.2 = some (modeFault (o.imm % 2 ^ 12)) := by
  have hcode : srCode o = o.imm % 2 ^ 12 := by rw [srCode, bits, pow_zero, Nat.div_one]
  simp only [mtsrErr, ctx_judged, hs, if_true, hcode]
  rfl

/-- Settles O17: the mode is each instruction's first check (R359). -/
theorem modeFaults : Obligations.ModeFaults := by
  unfold Obligations.ModeFaults
  intro h s hf _ c faults
  refine ⟨fun hs => ⟨fun o => ?mtsr, fun o => ?eret, fun o => ?ctxout, fun o => ?cpRes⟩,
    fun hs => ⟨fun o => ?endc, fun o => ?barInit, fun o => ?barArrive, fun o => ?barWait, fun o => ?barAw, fun o => ?barQuery,
      fun o => ?next, fun o => ?enqt, fun o => ?enqm, fun o => ?deqm, fun o => ?widen⟩⟩
  case mtsr => exact exec_fails (i := .mtsr h o) (m := semMtsr o) (modeFault (o.imm % 2 ^ 12)) rfl hf (mtsrErr_user hs)
  case eret => exact exec_onlySup (i := .eret h o) (m := semEret o) (op := 0x103) rfl rfl hf hs
  case ctxout => exact exec_onlySup (i := .ctxout h o) (m := semCtxout o) (op := 0x104) rfl rfl hf hs
  case cpRes => exact exec_onlySup (i := .cpRes h o) (m := semCpRes o) (op := 0x00B) rfl rfl hf hs
  case endc => exact exec_onlyUser (i := .endc h o) (m := semEndc o) (op := 0x105) rfl (fun _ _ _ => rfl) hf hs
  case barInit => exact exec_onlyUser (i := .barInit h o) (m := semBarInit o) (op := 0x120) rfl (fun _ _ _ => rfl) hf hs
  case barArrive => exact exec_onlyUser (i := .barArrive h o) (m := semBarArrive o) (op := 0x121) rfl (fun _ _ _ => rfl) hf hs
  case barWait => exact exec_onlyUser (i := .barWait h o) (m := semBarWait o) (op := 0x122) rfl (fun _ _ _ => rfl) hf hs
  case barAw => exact exec_onlyUser (i := .barAw h o) (m := semBarAw o) (op := 0x123) rfl (fun _ _ _ => rfl) hf hs
  case barQuery => exact exec_onlyUser (i := .barQuery h o) (m := semBarQuery o) (op := 0x124) rfl (fun _ _ _ => rfl) hf hs
  case next => exact exec_onlyUser (i := .next h o) (m := semNext o) (op := 0x125) rfl (fun _ _ _ => rfl) hf hs
  case enqt => exact exec_onlyUser (i := .enqt h o) (m := semEnqt o) (op := 0x126) rfl (semEnqt_chk o) hf hs
  case enqm => exact exec_onlyUser (i := .enqm h o) (m := semEnqm o) (op := 0x127) rfl (fun _ _ _ => rfl) hf hs
  case deqm => exact exec_onlyUser (i := .deqm h o) (m := semDeqm o) (op := 0x128) rfl (fun _ _ _ => rfl) hf hs
  case widen => exact exec_onlyUser (i := .widen h o) (m := semWiden o) (op := 0x12A) rfl (fun _ _ _ => rfl) hf hs

/-! ### Misaligned accesses -/

theorem accessErr_misaligned {h : Head} {o : SM} {s : State} {i : Instr} (hi : headOf i = h) (r : Nat)
    (hx : (memOffset (found h s) o.x o.off).toNat % 2 ^ o.w ≠ 0) :
    accessErr o r (widthBytes o.w) ((here i s).ctx (judged (headOf i) s)) = some { code := 0x40, tval := memOffset (found h s) o.x o.off } := by
  subst hi
  rw [here_ctx, ctx_judged]
  exact if_pos hx

/-- Settles O18: alignment is the first check of a load, of a store and of every atomic (R166). -/
theorem misaligned : Obligations.Misaligned := by
  unfold Obligations.Misaligned
  intro h o s hf _ hx i hi
  have hl : ∃ m : SlotSem, exec i s = .next (issueOne i m s) ∧ headOf i = h ∧
      ∃ r, m.chk = fun p s => accessErr o r (widthBytes o.w) (p.ctx s) := by
    simp only [List.mem_cons, List.not_mem_nil, or_false] at hi
    rcases hi with rfl | rfl | rfl | rfl | rfl | rfl | rfl | rfl | rfl | rfl | rfl | rfl | rfl <;> exact ⟨_, rfl, rfl, _, rfl⟩
  obtain ⟨m, hm, hh, r, hc⟩ := hl
  subst hh
  exact exec_fails (m := m) { code := 0x40, tval := memOffset (found (headOf i) s) o.x o.off } hm hf (by rw [hc]; exact accessErr_misaligned rfl r hx)

/-! ### Counters -/

/-- A lone tagged producer of s[a] (R112). -/
theorem exec_tagged {i : Instr} {s : State} {n a : Nat} (v : At → State → Word) (hx : exec i s = .next (issueOne i (tagged n a v) s))
    (hm : slotSem i = tagged n a v) (hf : free (headOf i) s = true) {w : Word} (hv : v (here i s) (issuing i true s) = w) :
    exec i s = .next (answersS i s n a w) := by
  rw [hx, issueOne_tagged i s n a v w hm hf hv]

theorem core_passCycles (s : State) (core : Nat) : (passCycles s core).core core =
    { s.core core with cyc := (s.core core).cyc + 1 + Config.cycles core s.fresh } :=
  State.core_updCore s core (fun k => { k with cyc := k.cyc + 1 + Config.cycles core s.fresh })

end Sys2Proof.Machine

/-! ## What a lone issue leaves of its context -/

namespace Sys2Proof.Machine

/-- A context without its place (pc, repetitions, loop levels), the bookkeeping of its turn and the state of its regions:
all that the end of a bundle may change (R115, R117, R307). -/
def Ctx.settled (c : Ctx) : Ctx :=
  { c with a := c.a.placeless, spc := 0, sreps := 0, slv := [], last := 0, fixOpen := false, fixCur := 0, sh0 := none, sh1 := none, win := false,
           markDue := false }

theorem Ctx.settled_setPc (c : Ctx) (n : Nat) : (c.setPc n).settled = c.settled := by
  unfold Ctx.setPc
  split <;> rfl

theorem Ctx.settled_setReps (c : Ctx) (n : Nat) : (c.setReps n).settled = c.settled := by
  unfold Ctx.setReps
  split <;> rfl

theorem Ctx.settled_setLv (c : Ctx) (t : Tab Level) : (c.setLv t).settled = c.settled := by
  unfold Ctx.setLv
  split <;> rfl

theorem settled_movedOn (hdr : Nat) (g : Option Nat) (c : Ctx) : (movedOn hdr g c).settled = c.settled := by
  cases g with
  | none => exact (Ctx.settled_setPc _ _).trans ((Ctx.settled_setLv _ _).trans (Ctx.settled_setReps _ _))
  | some t => exact (Ctx.settled_setPc _ _).trans (Ctx.settled_setReps _ _)

theorem Ctx.settled_openRegion (c : Ctx) : c.openRegion.settled = c.settled := by
  unfold Ctx.openRegion Ctx.setShadow
  dsimp only
  split <;> rfl

theorem Ctx.settled_closeRegion (c : Ctx) : c.closeRegion.settled = c.settled := by
  unfold Ctx.closeRegion
  split <;> rfl

theorem settled_settleMark (c : Ctx) : (settleMark c).settled = c.settled := by
  unfold settleMark
  split
  · exact (Ctx.settled_openRegion _).trans (Ctx.settled_closeRegion c)
  · rfl

/-- The context at the end of its bundle: the core has counted the bundle, and a token that a yield had saved is gone (R42,
R273). -/
def Ctx.ended (n : Nat) (c : Ctx) : Ctx := { c with last := n, a := if c.sup then c.a else { c.a with aw := none } }

theorem Ctx.settled_ended (n : Nat) (c : Ctx) : (c.ended n).settled = c.settled := by
  unfold Ctx.ended
  cases h : c.sup <;> simp [Ctx.settled, Arch.placeless, h]

theorem ctx_counted (s : State) (core slot : Nat) :
    (counted core slot s).ctx core slot = settleMark ((s.ctx core slot).ended ((s.core core).issues + 1)) := by
  have hc := ctx_updCore s core slot (fun k => { k with issues := k.issues + 1, cur := slot }) rfl
  rw [counted, State.ctx_updCtx, hc]
  rfl

theorem mem_counted (s : State) (core slot : Nat) : (counted core slot s).mem = s.mem := rfl

section
variable {i : Instr} {al : Bool} {s : State} {eff fin : State → State} {g : Option Nat}

/-- The state before the end of a lone bundle: its slot has taken effect and issue goes on. -/
def ending (i : Instr) (al : Bool) (s : State) (eff : State → State) (g : Option Nat) : State :=
  (eff (issuing i al s)).updCtx s.cur.1 s.cur.2 (movedOn (pcOf s) g)

theorem issued_eq : issued i al s eff g fin = counted s.cur.1 s.cur.2 (fin (ending i al s eff g)) := rfl

theorem ctx_ending : (ending i al s eff g).ctx s.cur.1 s.cur.2 = movedOn (pcOf s) g ((eff (issuing i al s)).ctx s.cur.1 s.cur.2) :=
  State.ctx_updCtx ..

theorem hand_issued (h : (fin (ending i al s eff g)).cur = s.cur) : hand (issued i al s eff g fin) =
    settleMark (((fin (ending i al s eff g)).ctx s.cur.1 s.cur.2).ended (((fin (ending i al s eff g)).core s.cur.1).issues + 1)) := by
  have hcur : (issued i al s eff g fin).cur = s.cur := (cur_counted _ _ _).trans h
  rw [hand, hcur, issued_eq, ctx_counted]

/-- All but its place and regions is as the end of its slot leaves it. -/
theorem settled_hand_issued (h : (fin (ending i al s eff g)).cur = s.cur) :
    (hand (issued i al s eff g fin)).settled = ((fin (ending i al s eff g)).ctx s.cur.1 s.cur.2).settled := by
  rw [hand_issued h, settled_settleMark, Ctx.settled_ended]

/-- And as its effect leaves it, where the slot has no end of its own. -/
theorem settled_issued (h : (eff (issuing i al s)).cur = s.cur) :
    (hand (issued i al s eff g id)).settled = ((eff (issuing i al s)).ctx s.cur.1 s.cur.2).settled := by
  have hcur : (id (ending i al s eff g)).cur = s.cur := h
  rw [settled_hand_issued hcur, id, ctx_ending, settled_movedOn]

theorem mem_issued : (issued i al s eff g id).mem = (eff (issuing i al s)).mem := rfl

/-- What does not depend on place, turn and regions is as the effect leaves it. -/
theorem proj_issued {α : Type} (f : Ctx → α) (hf : ∀ c, f c.settled = f c) (h : (eff (issuing i al s)).cur = s.cur) :
    f (hand (issued i al s eff g id)) = f ((eff (issuing i al s)).ctx s.cur.1 s.cur.2) := by
  rw [← hf, settled_issued h, hf]

theorem res_issued (h : (eff (issuing i al s)).cur = s.cur) :
    (hand (issued i al s eff g id)).res = ((eff (issuing i al s)).ctx s.cur.1 s.cur.2).res := proj_issued Ctx.res (fun _ => rfl) h

theorem accs_issued (h : (eff (issuing i al s)).cur = s.cur) :
    (hand (issued i al s eff g id)).accs = ((eff (issuing i al s)).ctx s.cur.1 s.cur.2).accs := proj_issued Ctx.accs (fun _ => rfl) h

theorem time_issued (h : (eff (issuing i al s)).cur = s.cur) :
    (hand (issued i al s eff g id)).time = ((eff (issuing i al s)).ctx s.cur.1 s.cur.2).time := proj_issued Ctx.time (fun _ => rfl) h

/-- A core without its contexts and the count of its bundles. -/
def Core.unturned (k : Core) : Core := { k with ctx := [], issues := 0, cur := 0 }

/-- The core of a lone issue is its effect's, but for its contexts and the count of its bundles. -/
theorem unturned_issued (core : Nat) : ((issued i al s eff g id).core core).unturned = ((eff (issuing i al s)).core core).unturned := by
  by_cases h : core = s.cur.1
  · subst h
    simp [issued, counted, State.core_updCtx, Core.setSlot, Core.unturned]
  · simp only [issued, counted, id, State.updCtx, State.setCtx, State.updCore]
    repeat rw [State.core_setCore_other _ _ _ _ h]

/-- So what does not depend on those is as the effect leaves it. -/
theorem coreProj_issued {α : Type} (f : Core → α) (hf : ∀ k, f k.unturned = f k) (core : Nat) :
    f ((issued i al s eff g id).core core) = f ((eff (issuing i al s)).core core) := by
  rw [← hf, unturned_issued, hf]

end

@[simp] theorem cur_issuing (i : Instr) (al : Bool) (s : State) : (issuing i al s).cur = s.cur := rfl
@[simp] theorem mem_issuing (i : Instr) (al : Bool) (s : State) : (issuing i al s).mem = s.mem := rfl
@[simp] theorem res_atIssue (i : Instr) (al : Bool) (s : State) : (atIssue i al s).res = (found (headOf i) s).res := passed_res ..
@[simp] theorem accs_atIssue (i : Instr) (al : Bool) (s : State) : (atIssue i al s).accs = (found (headOf i) s).accs := passed_accs ..

/-! ### Meanings without holds -/

/-- A meaning that holds nothing back, names no tile and ends as every bundle does. -/
structure SlotSem.Plain (m : SlotSem) : Prop where
  post : ∀ p s, m.post p s = none := by intros; rfl
  hold : ∀ p s, m.hold p s = false := by intros; rfl
  tiles : ∀ p s, m.tiles p s = [] := by intros; rfl
  mark : ∀ p s, m.mark p s = false := by intros; rfl
  gates : ∀ p s, m.gates p s = false := by intros; rfl
  lat : m.lat ≠ .engine := by nofun
  fin : ∀ p, m.fin p = id := by intros; rfl

section
variable {i : Instr} {m : SlotSem} {s : State}

/-- Where it goes nowhere, it issues with its effect once its check passes. -/
theorem SlotSem.Plain.issueOne (hp : m.Plain) (hm : slotSem i = m) (hf : free (headOf i) s = true)
    (hc : m.chk (here i s) (judged (headOf i) s) = none) {al : Bool} (hl : (m.lat != .now) = al) (hg : ∀ p t, m.goes p t = none) :
    Machine.issueOne i m s = issued i al s (m.eff (here i s)) none id := by
  rw [issueOne_goes hm hf hc (hp.post _ _) (hp.hold _ _) (hp.tiles _) (hp.mark _ _) (hp.gates _ _) hp.lat (hp.fin _), hl, hg]

end

/-! ### Reads of the counters -/

theorem joule_atIssue (i : Instr) (al : Bool) (s : State) : (atIssue i al s).joule = (found (headOf i) s).joule := passed_joule ..
theorem cwear_atIssue (i : Instr) (al : Bool) (s : State) : (atIssue i al s).cwear = (found (headOf i) s).cwear := passed_cwear ..

/-- The effect of `rdcyc` (R183; log entry 10). -/
theorem eff_semRdcyc (h : Head) (o : SR) (s : State) : (semRdcyc o).eff (here (.rdcyc h o) s) (issuing (.rdcyc h o) true s) =
    (passCycles (issuing (.rdcyc h o) true s) s.cur.1).updCtx s.cur.1 s.cur.2 (fun c => c.push (result (.rdcyc h o) s 8 false ((found h s).dstS o.a)
      ((BitVec.ofNat 64 ((passCycles (issuing (.rdcyc h o) true s) s.cur.1).core s.cur.1).cyc).setWidth 512))) := by
  have hd : ((passCycles (issuing (.rdcyc h o) true s) s.cur.1).ctx s.cur.1 s.cur.2).dstS o.a = (found h s).dstS o.a := by
    rw [State.ctx, core_passCycles]
    show ((issuing (.rdcyc h o) true s).ctx s.cur.1 s.cur.2).dstS o.a = _
    rw [ctx_issuing, atIssue_dstS]
    rfl
  rw [← hd]
  rfl

theorem cyc_updCtx (s : State) (c i : Nat) (f : Ctx → Ctx) : ((s.updCtx c i f).core c).cyc = (s.core c).cyc := by
  rw [State.core_updCtx]
  rfl

theorem cur_passCycles (s : State) (core : Nat) : (passCycles s core).cur = s.cur := rfl

theorem res_passCycles (s : State) (core slot : Nat) : ((passCycles s core).ctx core slot).res = (s.ctx core slot).res := by
  rw [State.ctx, core_passCycles]
  rfl

theorem cyc_issuing (i : Instr) (al : Bool) (s : State) : ((issuing i al s).core s.cur.1).cyc = (s.core s.cur.1).cyc := by
  simp [issuing, setHand, State.setCtx, Core.setSlot]

/-- Settles O22: the five readings are functions of the state at the issue; `rdcyc` lets cycles pass first. -/
theorem counterReads : Obligations.CounterReads := by
  unfold Obligations.CounterReads
  intro h o s hf _ c isl
  refine ⟨?rdtime, ?rdcyc, ?jread, ?bq, ?wq⟩
  case rdtime => exact exec_tagged (i := .rdtime h o) (fun _ s => nw s.now) rfl rfl hf rfl
  case jread =>
    refine exec_tagged (i := .jread h o) (fun p s => nw (p.ctx s).joule) rfl rfl hf ?_
    rw [here_ctx, ctx_issuing, joule_atIssue]
    rfl
  case bq => exact exec_tagged (i := .bq h o) (fun p s => budgetWord s (s.islandOf p.core)) rfl rfl hf rfl
  case wq =>
    refine exec_tagged (i := .wq h o) (fun p s => wearWord s p.core (p.ctx s)) rfl rfl hf ?_
    rw [here_ctx, ctx_issuing, wearWord, cwear_atIssue]
    rfl
  case rdcyc =>
    have hm : (semRdcyc o).Plain := {}
    have hi := hm.issueOne (i := .rdcyc h o) (s := s) rfl hf rfl (al := true) rfl (fun _ _ => rfl)
    have hcur : ((semRdcyc o).eff (here (.rdcyc h o) s) (issuing (.rdcyc h o) true s)).cur = s.cur := by
      rw [eff_semRdcyc, State.updCtx_cur, cur_passCycles, cur_issuing]
    refine ⟨_, _, congrArg Host.Outcome.next hi, ?_, rfl, ?_⟩
    · rw [coreProj_issued Core.cyc (fun _ => rfl), eff_semRdcyc, cyc_updCtx, core_passCycles, cyc_issuing]
      exact Nat.lt_of_lt_of_le (Nat.lt_succ_self _) (Nat.le_add_right _ _)
    · rw [res_issued hcur, coreProj_issued Core.cyc (fun _ => rfl), eff_semRdcyc, cyc_updCtx, State.ctx_updCtx]
      show (Ctx.res _) ++ _ = _
      rw [res_passCycles, ctx_issuing, res_atIssue]
      rfl

end Sys2Proof.Machine

/-! ## When results land (R109 to R112) -/

namespace Sys2Proof.Machine

/-! ### A result reaches its register -/

section
variable (a : Arch) (d : Dst) (v : BitVec 512) (seq : Nat)

/-- A write of a register touches the registers and the record of their last writers alone. -/
theorem Arch.putSeq_eq : a.putSeq d v seq = { a with s := (a.putSeq d v seq).s, p := (a.putSeq d v seq).p, k := (a.putSeq d v seq).k,
                                                     h := (a.putSeq d v seq).h, lastw := (a.putSeq d v seq).lastw } := by
  unfold Arch.putSeq Arch.put
  cases d with
  | s n => dsimp only; repeat' split
           all_goals rfl
  | p n => dsimp only; repeat' split
           all_goals rfl
  | k n => dsimp only; split <;> rfl
  | h n => dsimp only; split <;> rfl
  | bankS n => dsimp only; split <;> rfl
  | bankK => dsimp only; split <;> rfl
  | pat n => dsimp only; split <;> rfl
  | nothing => dsimp only; split <;> rfl

theorem Arch.putSeq_of_le (hs : a.lastw.get d.key 0 ≤ seq) : a.putSeq d v seq = { a.put d v with lastw := a.lastw.set d.key seq 0 } := if_pos hs

/-- The register that a scalar result names, unless a producer that issued later has written it (R112). -/
theorem Arch.s_putSeq (n : Nat) : (a.putSeq d v seq).s.get n 0 =
    if d = .s n ∧ n ≠ 0 ∧ a.lastw.get n 0 ≤ seq then v.setWidth 64 else a.s.get n 0 := by
  unfold Arch.putSeq Arch.put
  cases d with
  | s m => by_cases hm : m = n <;> grind [Dst.key, Tab.get_set_same, Tab.get_set_other]
  | _ => grind

theorem Arch.p_putSeq (n : Nat) (h0 : 0 < n) (h8 : n < 8) (hs : a.lastw.get (64 + n) 0 ≤ seq) :
    (a.putSeq (.p n) v seq).p.getLsbD n = v.getLsbD 0 := by
  rw [Arch.putSeq_of_le a (.p n) v seq hs]
  simp only [Arch.put, if_neg (Nat.pos_iff_ne_zero.mp h0)]
  cases hv : v.getLsbD 0 <;> simp [h8]

theorem Arch.k_putSeq (n : Nat) (hs : a.lastw.get (72 + n) 0 ≤ seq) : (a.putSeq (.k n) v seq).k.get n 0 = v.setWidth 128 := by
  rw [Arch.putSeq_of_le a (.k n) v seq hs]
  exact Tab.get_set_same ..

theorem Arch.h_putSeq (n : Nat) (hs : a.lastw.get (88 + n) 0 ≤ seq) : (a.putSeq (.h n) v seq).h.get n 0 = v.setWidth 64 := by
  rw [Arch.putSeq_of_le a (.h n) v seq hs]
  exact Tab.get_set_same ..

/-- s0 and p0 discard (R156). -/
theorem Arch.putSeq_discards (hd : d = .nothing ∨ d = .s 0 ∨ d = .p 0) : (a.putSeq d v seq).s = a.s ∧ (a.putSeq d v seq).p = a.p ∧
    (a.putSeq d v seq).k = a.k ∧ (a.putSeq d v seq).h = a.h := by
  unfold Arch.putSeq
  rcases hd with rfl | rfl | rfl <;> split <;> exact ⟨rfl, rfl, rfl, rfl⟩

end

/-- The user registers of a context are written as an architectural state writes them; the other destinations leave them. -/
theorem Ctx.put_regs (c : Ctx) (d : Dst) (v : BitVec 512) (seq : Nat) : (c.put d v seq).a.s = (c.a.putSeq d v seq).s ∧
    (c.put d v seq).a.p = (c.a.putSeq d v seq).p ∧ (c.put d v seq).a.k = (c.a.putSeq d v seq).k ∧
    (c.put d v seq).a.h = (c.a.putSeq d v seq).h ∧ (c.put d v seq).a.tg = c.a.tg := by
  have hp (d : Dst) : (c.a.putSeq d v seq).tg = c.a.tg := by rw [Arch.putSeq_eq]
  cases d with
  | s n => exact ⟨rfl, rfl, rfl, rfl, hp _⟩
  | p n => exact ⟨rfl, rfl, rfl, rfl, hp _⟩
  | k n => exact ⟨rfl, rfl, rfl, rfl, hp _⟩
  | h n => exact ⟨rfl, rfl, rfl, rfl, hp _⟩
  | bankS n => simp only [Ctx.put, Arch.putSeq]; split <;> exact ⟨rfl, rfl, rfl, rfl, rfl⟩
  | bankK => simp only [Ctx.put, Arch.putSeq]; split <;> exact ⟨rfl, rfl, rfl, rfl, rfl⟩
  | pat n => simp only [Ctx.put, Arch.putSeq]; split <;> exact ⟨rfl, rfl, rfl, rfl, rfl⟩
  | nothing =>
    obtain ⟨hs, hpp, hk, hh⟩ := Arch.putSeq_discards c.a .nothing v seq (.inl rfl)
    exact ⟨hs.symm, hpp.symm, hk.symm, hh.symm, rfl⟩

/-- A landing writes its register, and one use of its tag is free (R111, R112). -/
theorem Ctx.land_regs (c : Ctx) (r : Pend) : (c.land r).a.s = (c.a.putSeq r.dst r.val r.seq).s ∧
    (c.land r).a.p = (c.a.putSeq r.dst r.val r.seq).p ∧ (c.land r).a.k = (c.a.putSeq r.dst r.val r.seq).k ∧
    (c.land r).a.h = (c.a.putSeq r.dst r.val r.seq).h ∧ (r.tag ≠ 0 → (c.land r).tagCount r.tag = c.tagCount r.tag - 1) := by
  obtain ⟨hs, hp, hk, hh, ht⟩ := Ctx.put_regs c r.dst r.val r.seq
  have hl : (c.land r).a = ((c.put r.dst r.val r.seq).freeTag r.tag).a := rfl
  by_cases h0 : r.tag = 0
  · rw [hl, Ctx.freeTag, if_pos h0]
    exact ⟨hs, hp, hk, hh, fun h => absurd h0 h⟩
  · rw [Ctx.tagCount, hl, Ctx.freeTag, if_neg h0]
    refine ⟨hs, hp, hk, hh, fun _ => ?_⟩
    rw [Tab.get_set_same, Ctx.tagCount, ht, Ctx.tagCount]

/-! ### What landing leaves alone -/

/-- An architectural state without its registers, tag counts, format registers and claims: what landings at a boundary change
(R111, R112, R119, R262). -/
def Arch.still (a : Arch) : Arch :=
  { a with s := [], p := 0, k := [], h := [], tg := [], lastw := [], stepC0 := 0, stepC1 := 0, fa := 0, fw := 0, fo := 0, fv := 0, fs := 0, rm := 0,
           seed := 0, draw := 0, cbsel := 0, pend := [], claims := [] }

/-- A context without what lands at a boundary, and without the state of its regions, which may open there (R307). -/
def Ctx.still (c : Ctx) : Ctx :=
  { c with a := c.a.still, bankS := [], bankK := 0, patLoad := [], pats := [], sh0 := none, sh1 := none, res := [], fixOpen := false, fixCur := 0,
           markDue := false }

theorem Arch.still_putSeq (a : Arch) (d : Dst) (v : BitVec 512) (seq : Nat) : (a.putSeq d v seq).still = a.still := by
  rw [Arch.putSeq_eq]
  rfl

theorem Ctx.still_put (c : Ctx) (d : Dst) (v : BitVec 512) (seq : Nat) : (c.put d v seq).still = c.still := by
  have hp (d : Dst) : ({ c with a := c.a.putSeq d v seq } : Ctx).still = c.still :=
    congrArg (fun a => ({ c.still with a := a } : Ctx)) (Arch.still_putSeq c.a d v seq)
  cases d with
  | s n => exact hp _
  | p n => exact hp _
  | k n => exact hp _
  | h n => exact hp _
  | bankS n => simp only [Ctx.put]; split <;> rfl
  | bankK => simp only [Ctx.put]; split <;> rfl
  | pat n => simp only [Ctx.put]; split <;> rfl
  | nothing => rfl

theorem Ctx.still_freeTag (c : Ctx) (q : Nat) : (c.freeTag q).still = c.still := by
  unfold Ctx.freeTag
  split <;> rfl

theorem Ctx.still_land (c : Ctx) (r : Pend) : (c.land r).still = c.still :=
  (Ctx.still_freeTag _ _).trans (Ctx.still_put c r.dst r.val r.seq)

theorem Ctx.still_landAll (c : Ctx) (f : Pend → Bool) : (c.landAll f).still = c.still :=
  Ctx.foldl_land Ctx.still Ctx.still_land _ _

theorem Arch.still_writeFmt (a : Arch) (r x : Nat) : (a.writeFmt r x).still = a.still := by
  unfold Arch.writeFmt
  dsimp only
  split <;> rfl

theorem Arch.still_landFmt (a : Arch) : a.landFmt.still = a.still := by
  have h (l : List PendFmt) (a : Arch) : (l.foldl (fun a p => a.writeFmt p.reg p.arg) a).still = a.still := by
    induction l generalizing a with
    | nil => rfl
    | cons p l ih => rw [List.foldl_cons, ih, Arch.still_writeFmt]
  exact h (a.pend.filter (fun p => p.left == 0)) a

theorem Arch.still_landClaim (a : Arch) (c : Claim) : (a.landClaim c).still = a.still := by
  refine Eq.trans ?_ (Arch.still_putSeq a (.h c.h) (BitVec.ofNat 512 (c.lo % 2 ^ 32 + c.hi % 2 ^ 32 * 2 ^ 32)) c.seq)
  unfold Arch.landClaim
  dsimp only
  split <;> rfl

theorem Arch.still_landClaims (a : Arch) : a.landClaims.still = a.still := by
  have h (l : List Claim) (a : Arch) : (l.foldl Arch.landClaim a).still = a.still := by
    induction l generalizing a with
    | nil => rfl
    | cons p l ih => rw [List.foldl_cons, ih, Arch.still_landClaim]
  exact h (a.claims.filter Claim.due) a

theorem Ctx.still_boundary (c : Ctx) : c.boundary.still = c.still := by
  rw [← Ctx.still_landAll c (fun r => decide (r.due ≤ c.iss)), Ctx.boundary]
  have hb (d : Ctx) (a : Arch) (ha : a.still = d.a.still) : ({ d with a := a } : Ctx).still = d.still :=
    congrArg (fun a => ({ d.still with a := a } : Ctx)) ha
  refine hb _ _ ?_
  split
  · exact Arch.still_landFmt _
  · exact (Arch.still_landClaims _).trans (Arch.still_landFmt _)

theorem Ctx.still_openRegion (c : Ctx) : c.openRegion.still = c.still := by
  unfold Ctx.openRegion Ctx.setShadow
  dsimp only
  split <;> rfl

theorem still_atBoundary (c : Ctx) : (atBoundary c).still = c.still := by
  unfold atBoundary
  split
  · exact Ctx.still_boundary c
  · exact (Ctx.still_openRegion _).trans (Ctx.still_boundary c)

theorem still_landTags (c : Ctx) (l : List Nat) : (landTags c l).still = c.still := by
  unfold landTags
  split
  · rfl
  · exact Ctx.still_landAll _ _

theorem still_landed (h : Head) (c : Ctx) : (landed h c).still = c.still := by
  unfold landed
  split
  · exact still_landTags _ _
  · exact (Ctx.still_landAll _ _).trans (still_landTags _ _)

theorem still_found (h : Head) (s : State) : (found h s).still = (hand s).still := (still_landed h _).trans (still_atBoundary _)

/-- What no landing changes is the same in two contexts that are one but for landings. -/
theorem proj_still {α : Type} (f : Ctx → α) (hf : ∀ c, f c.still = f c) {c d : Ctx} (h : c.still = d.still) : f c = f d := by
  rw [← hf, h, hf]

/-- What no landing changes, the context in hand and the one that a slot finds have in common. -/
theorem proj_found {α : Type} (f : Ctx → α) (hf : ∀ c, f c.still = f c) (h : Head) (s : State) : f (found h s) = f (hand s) :=
  proj_still f hf (still_found h s)

/-! ### One pending result -/

/-- The result `r`, the only one of `c`, lands in `d` (R109, R112). -/
def Lands (c : Ctx) (r : Pend) (d : Ctx) : Prop :=
  d.res = [] ∧ d.a.s = (c.a.putSeq r.dst r.val r.seq).s ∧ d.a.p = (c.a.putSeq r.dst r.val r.seq).p ∧
    d.a.k = (c.a.putSeq r.dst r.val r.seq).k ∧ d.a.h = (c.a.putSeq r.dst r.val r.seq).h ∧
    (r.tag ≠ 0 → d.tagCount r.tag = c.tagCount r.tag - 1)

theorem Ctx.res_land (c : Ctx) (r : Pend) : (c.land r).res = c.res := by rw [Ctx.land_eq]

theorem lands_landAll {c : Ctx} {r : Pend} (hr : c.res = [r]) {f : Pend → Bool} (hf : f r = true) : Lands c r (c.landAll f) := by
  have hl : c.landAll f = ({ c with res := [] } : Ctx).land r := by simp [Ctx.landAll, hr, hf]
  rw [hl]
  exact ⟨Ctx.res_land _ _, Ctx.land_regs { c with res := [] } r⟩

theorem landAll_none {c : Ctx} {r : Pend} (hr : c.res = [r]) {f : Pend → Bool} (hf : f r = false) : c.landAll f = c := by
  obtain ⟨⟩ := c
  cases hr
  simp [Ctx.landAll, hf]

theorem Ctx.waiting_put (c : Ctx) (d : Dst) (v : BitVec 512) (seq : Nat) :
    (c.put d v seq).a.pend = c.a.pend ∧ (c.put d v seq).a.claims = c.a.claims := by
  have hp (d : Dst) : (c.a.putSeq d v seq).pend = c.a.pend ∧ (c.a.putSeq d v seq).claims = c.a.claims := by
    rw [Arch.putSeq_eq]
    exact ⟨rfl, rfl⟩
  cases d with
  | s n => exact hp _
  | p n => exact hp _
  | k n => exact hp _
  | h n => exact hp _
  | bankS n => simp only [Ctx.put]; split <;> exact ⟨rfl, rfl⟩
  | bankK => simp only [Ctx.put]; split <;> exact ⟨rfl, rfl⟩
  | pat n => simp only [Ctx.put]; split <;> exact ⟨rfl, rfl⟩
  | nothing => exact ⟨rfl, rfl⟩

/-- Results that land leave the format writes and claims that wait. -/
theorem waiting_landAll (c : Ctx) (f : Pend → Bool) : (c.landAll f).a.pend = c.a.pend ∧ (c.landAll f).a.claims = c.a.claims := by
  refine Prod.ext_iff.mp (Ctx.foldl_land (fun c => (c.a.pend, c.a.claims)) (fun c r => ?_) _ _)
  obtain ⟨hp, hc⟩ := Ctx.waiting_put c r.dst r.val r.seq
  rw [← hp, ← hc]
  simp only [Ctx.land, Ctx.freeTag]
  split <;> rfl

/-- Without a pending format write or claim, results alone land at a boundary. -/
theorem boundary_eq_landAll {c : Ctx} (hp : c.a.pend = []) (hc : c.a.claims = []) :
    ∃ a, c.boundary = { c.landAll (fun r => decide (r.due ≤ c.iss)) with a := a } ∧
      a.s = (c.landAll (fun r => decide (r.due ≤ c.iss))).a.s ∧ a.p = (c.landAll (fun r => decide (r.due ≤ c.iss))).a.p ∧
      a.k = (c.landAll (fun r => decide (r.due ≤ c.iss))).a.k ∧ a.h = (c.landAll (fun r => decide (r.due ≤ c.iss))).a.h ∧
      a.tg = (c.landAll (fun r => decide (r.due ≤ c.iss))).a.tg := by
  have hk := waiting_landAll c (fun r => decide (r.due ≤ c.iss))
  refine ⟨_, rfl, ?_⟩
  generalize c.landAll (fun r => decide (r.due ≤ c.iss)) = d at hk
  rw [hp, hc] at hk
  obtain ⟨h1, h2⟩ := hk
  split <;> simp [Arch.landFmt, Arch.landClaims, h1, h2]

theorem lands_boundary {c : Ctx} {r : Pend} (hr : c.res = [r]) (hp : c.a.pend = []) (hc : c.a.claims = []) (hd : r.due ≤ c.iss) :
    Lands c r c.boundary := by
  obtain ⟨a, hb, hs, hpp, hk, hh, ht⟩ := boundary_eq_landAll hp hc
  obtain ⟨l1, l2, l3, l4, l5, l6⟩ := lands_landAll hr (f := fun r => decide (r.due ≤ c.iss)) (decide_eq_true hd)
  rw [hb]
  exact ⟨l1, hs.trans l2, hpp.trans l3, hk.trans l4, hh.trans l5, fun h => by rw [Ctx.tagCount, ht]; exact l6 h⟩

/-- Settles O33: a result lands at the boundary of its issue, or where a wait on its tag or a distance covers it, by the one
law of a landing (R110 to R112). -/
theorem resultsLand : Obligations.ResultsLand := by
  unfold Obligations.ResultsLand
  intro c r hr hp hc lands
  have hl {d : Ctx} (h : Lands c r d) : lands d := by
    obtain ⟨hres, hs, hpp, hk, hh, ht⟩ := h
    refine ⟨hres, fun n hn hd => ?_, fun n hd m hm => ?_, fun n h0 h8 hd hw => ?_, fun n hd hw => ?_, fun n hd hw => ?_, fun hd => ?_, ht⟩
    · rw [hs, Arch.s_putSeq, hd]
      by_cases hw : c.a.lastw.get n 0 ≤ r.seq <;> simp [hn, hw]
    · rw [hs, Arch.s_putSeq, if_neg]
      rintro ⟨hx, -, -⟩
      exact hm (Dst.s.inj (hd.symm.trans hx)).symm
    · rw [Ctx.getP, hpp, hd, Arch.p_putSeq _ _ _ n h0 h8 hw, beq_eq_false_iff_ne.mpr (Nat.pos_iff_ne_zero.mp h0), Bool.false_or]
    · rw [hk, hd, Arch.k_putSeq _ _ _ n hw]
    · rw [hh, hd, Arch.h_putSeq _ _ _ n hw]
    · rw [hs, hpp, hk, hh]
      exact Arch.putSeq_discards _ _ _ _ hd
  refine ⟨fun hd => hl (lands_boundary hr hp hc hd), fun hd => ?waits, fun h hw h0 => hl ?tag, fun h hw h0 hfix hseq => hl ?distance, fun n => ?_⟩
  case waits =>
    obtain ⟨a, hb, hs, hpp, -⟩ := boundary_eq_landAll hp hc
    rw [landAll_none hr (f := fun r => decide (r.due ≤ c.iss)) (decide_eq_false (by omega))] at hb hs hpp
    rw [hb]
    exact ⟨hr, hs, hpp⟩
  case tag =>
    have hne : waited h ≠ [] := List.ne_nil_of_mem hw
    rw [landed, if_pos h0, landTags, if_neg hne]
    exact lands_landAll hr (List.contains_iff_mem.mpr hw)
  case distance =>
    rw [landed, if_neg h0, hw, landTags, if_pos rfl]
    exact lands_landAll hr (by rw [hfix, Bool.true_and]; exact decide_eq_true hseq)
  · simp [Ctx.dstS]

end Sys2Proof.Machine

/-! ## Attempts to issue (R42, R107, R108, R113) -/

namespace Sys2Proof.Machine

/-! ### An attempt whose context is at its turn -/

/-- Nothing goes before the bundle of the context in hand: it can issue, no trap, claim or restart mark is due (R41, R262,
R307, R346). -/
structure AtTurn (s : State) : Prop where
  can : canIssue (hand s) = true
  noTrap : trapDue (hand s) = false
  noSupFault : ((hand s).sup && (hand s).faults.any (·.sup)) = false
  claim : (!(atBoundary (hand s)).sup && (atBoundary (hand s)).a.claimLate) = false
  mark : ((atBoundary (hand s)).markDue && !(atBoundary (hand s)).sup) = false

theorem Free.atTurn {h : Head} {s : State} (hf : Free h s) : AtTurn s := ⟨hf.can, hf.noTrap, hf.noSupFault, hf.claim, hf.mark⟩

theorem atTurn_of {s : State} (hc : canIssue (hand s) = true) (ht : trapDue (hand s) = false)
    (hs : ((hand s).sup && (hand s).faults.any (·.sup)) = false)
    (hb : (atBoundary (hand s)).sup = true ∨ (atBoundary (hand s)).a.claimLate = false ∧ (atBoundary (hand s)).markDue = false) : AtTurn s := by
  refine ⟨hc, ht, hs, ?_, ?_⟩
  · rcases hb with h | ⟨h, -⟩ <;> simp [h]
  · rcases hb with h | ⟨-, h⟩ <;> simp [h]

section
variable {s : State} {get : State → Except BErr Frame}

theorem attempt_eq (h : AtTurn s) : attempt s s.cur.1 s.cur.2 get =
    match get (bounded s) with
    | .error e => failBundle (bounded s) s.cur.1 s.cur.2 e.code (.ofNat 64 e.tval) e.slot e.k (if e.slot = 7 then pcOf s else e.tval)
    | .ok f => issueFrame (bounded s) s.cur.1 s.cur.2 f := by
  have hs : s.updCtx s.cur.1 s.cur.2 (fun c => if c.boundary.sup || c.boundary.fixOpen then c.boundary else c.boundary.openRegion) = bounded s := rfl
  have hh : s.ctx s.cur.1 s.cur.2 = hand s := rfl
  unfold attempt
  simp only [hh, h.can, h.noTrap, h.noSupFault, hs, ctx_bounded, h.claim, h.mark, Bool.true_eq_false, Bool.false_eq_true, if_false]
  rfl

theorem attempt_ok (h : AtTurn s) {f : Frame} (hg : get (bounded s) = .ok f) :
    attempt s s.cur.1 s.cur.2 get = issueFrame (bounded s) s.cur.1 s.cur.2 f := by rw [attempt_eq h, hg]

theorem attempt_error (h : AtTurn s) {e : BErr} (hg : get (bounded s) = .error e) :
    attempt s s.cur.1 s.cur.2 get =
      failBundle (bounded s) s.cur.1 s.cur.2 e.code (.ofNat 64 e.tval) e.slot e.k (if e.slot = 7 then pcOf s else e.tval) := by
  rw [attempt_eq h, hg]

end

/-! ### Tags and distances of a frame -/

section
variable {s : State} {f : Frame}

/-- A bundle without FIX whose tags are free and have room comes to its checks, in what its waits and distances have made
land (R110, R111). -/
theorem issueFrame_eq (hfix : f.attr.fix = 0) (hrep : f.attr.rep = 0) (ht : ∀ t ∈ waitsOf f, (landTags (atBoundary (hand s)) (waitsOf f)).tagCount t = 0)
    (hroom : ∀ t ∈ tagsOf f, (landPd (landTags (atBoundary (hand s)) (waitsOf f)) f).tagCount t + ((tagsOf f).filter (· == t)).length ≤ 255) :
    issueFrame (bounded s) s.cur.1 s.cur.2 f =
      issueChecked (setHand s (landPd (landTags (atBoundary (hand s)) (waitsOf f)) f)) s.cur.1 s.cur.2 f 0 := by
  have hland : (bounded s).updCtx s.cur.1 s.cur.2 (fun c => landTags c (waitsOf f)) = setHand s (landTags (atBoundary (hand s)) (waitsOf f)) := by
    simp [State.updCtx, bounded, setHand]
  have hctx (c : Ctx) : (setHand s c).ctx s.cur.1 s.cur.2 = c := State.ctx_setCtx ..
  have hpd : (setHand s (landTags (atBoundary (hand s)) (waitsOf f))).updCtx s.cur.1 s.cur.2 (fun c => landPd c f) =
      setHand s (landPd (landTags (atBoundary (hand s)) (waitsOf f)) f) := by
    simp [State.updCtx, setHand]
  have hfind : (waitsOf f).find? (fun t => (landTags (atBoundary (hand s)) (waitsOf f)).tagCount t != 0) = none :=
    List.find?_eq_none.mpr fun t htm => by simp [ht t htm]
  have hany : (tagsOf f).any (fun t => decide (255 < (landPd (landTags (atBoundary (hand s)) (waitsOf f)) f).tagCount t +
      ((tagsOf f).filter (· == t)).length)) = false :=
    List.any_eq_false.mpr fun t htm => by simpa using hroom t htm
  unfold issueFrame
  simp only [hrep, repIndex_zero, hfix, zero_ne_one, false_and, if_false, hland, hctx, hfind, hpd, hany, Bool.false_eq_true]

/-- A bundle that waits on a tag with one use outstanding, and on no claim, is held (R108, R111). -/
theorem issueFrame_held (hfix : f.attr.fix = 0) (ht : ∃ t ∈ waitsOf f, (landTags (atBoundary (hand s)) (waitsOf f)).tagCount t ≠ 0)
    (hc : ∀ x ∈ (atBoundary (hand s)).a.claims, x.valid = true → x.tag ∉ waitsOf f) :
    issueFrame (bounded s) s.cur.1 s.cur.2 f = setHand s { landTags (atBoundary (hand s)) (waitsOf f) with held := (atBoundary (hand s)).held + 1 } := by
  have hland : (bounded s).updCtx s.cur.1 s.cur.2 (fun c => landTags c (waitsOf f)) = setHand s (landTags (atBoundary (hand s)) (waitsOf f)) := by
    simp [State.updCtx, bounded, setHand]
  have hctx (c : Ctx) : (setHand s c).ctx s.cur.1 s.cur.2 = c := State.ctx_setCtx ..
  obtain ⟨t, htm, htc⟩ := ht
  obtain ⟨u, hu⟩ : ∃ u, (waitsOf f).find? (fun t => (landTags (atBoundary (hand s)) (waitsOf f)).tagCount t != 0) = some u :=
    Option.isSome_iff_exists.mp (List.find?_isSome.mpr ⟨t, htm, by simpa using htc⟩)
  have hclaims : (landTags (atBoundary (hand s)) (waitsOf f)).a.claims = (atBoundary (hand s)).a.claims := by
    unfold landTags
    split
    · rfl
    · exact (waiting_landAll _ _).2
  have hany : (waitsOf f).any (fun t => (landTags (atBoundary (hand s)) (waitsOf f)).a.claims.any (fun x => x.valid && x.tag == t)) = false := by
    rw [hclaims]
    refine List.any_eq_false.mpr fun t htm => Bool.not_eq_true _ ▸ List.any_eq_false.mpr fun x hx => ?_
    rw [Bool.and_eq_true, beq_iff_eq]
    rintro ⟨hv, rfl⟩
    exact hc x hx hv htm
  have hheld : (landTags (atBoundary (hand s)) (waitsOf f)).held = (atBoundary (hand s)).held :=
    proj_still Ctx.held (fun _ => rfl) (still_landTags _ _)
  unfold issueFrame
  simp only [hfix, zero_ne_one, false_and, if_false, hland, hctx, hu, hany, Bool.and_false, Bool.false_eq_true]
  rw [holdCounted, State.updCtx, hctx, hheld]
  exact State.setCtx_setCtx ..

end

end Sys2Proof.Machine

/-! ## Slots that are off, and bundles that are held (R108, R111, R113) -/

namespace Sys2Proof.Machine

/-- Every slot instruction issues by the one attempt of a lone slot (R108). -/
theorem exec_slot (i : Instr) (s : State) (h : (slotParts i).isSome = true) : exec i s = .next (issueOne i (slotSem i) s) := by
  cases i <;> cases h <;> rfl

/-! ### Slots whose predicate is false -/

/-- Where a lone slot stands whose predicate is false. -/
def hereOff (i : Instr) (s : State) : At := { here i s with on := false }

section
variable {i : Instr} {m : SlotSem} {s : State}

theorem atSlots_off (hp : predOn (found (headOf i) s) i = false) :
    atSlots (judged (headOf i) s) s.cur.1 s.cur.2 0 (soloFrame i m s.cur.1 s.cur.2 (bounded s)) = [(hereOff i s, m)] := by
  have hpc : ((bounded s).ctx s.cur.1 s.cur.2).pcNow = pcOf s := by rw [ctx_bounded, pcOf]
  simp only [atSlots, soloFrame, List.map_cons, List.map_nil, ctx_judged, hp, hpc]
  rfl

/-- The issue of a lone slot that is off: its context counts it, and its tag frees when it would have completed (R113). -/
theorem issueNow_off (hm : m = slotSem i) :
    issueNow (judged (headOf i) s) s.cur.1 s.cur.2 (soloFrame i m s.cur.1 s.cur.2 (bounded s)) 0 [(hereOff i s, m)] =
      issued i (m.lat != .now) s (offEffect (hereOff i s) m) none id := by
  have hpc : ((bounded s).ctx s.cur.1 s.cur.2).pcNow = pcOf s := by rw [ctx_bounded, pcOf]
  have hstart : (judged (headOf i) s).updCtx s.cur.1 s.cur.2
      (startIssue (soloFrame i m s.cur.1 s.cur.2 (bounded s)) 0 (tilesNamed [(hereOff i s, m)] (judged (headOf i) s))) = issuing i (m.lat != .now) s := by
    rw [State.updCtx, ctx_judged, startIssue_solo, issuing, atIssue, ← hm]
    exact State.setCtx_setCtx ..
  have hon : (hereOff i s).on = false := rfl
  have hhw : (soloFrame i m s.cur.1 s.cur.2 (bounded s)).attr.hw = 0 := rfl
  simp only [issueNow, hhw, zero_ne_one, false_and, if_false, hstart]
  simp [hon, runSlots, advance_solo, endIssue_solo, hpc, issued]

/-- A slot whose predicate is false and whose own holds let it go issues without effect (R108, R113). -/
theorem issueOne_off (hm : m = slotSem i) (hf : free { headOf i with pneg := 1 - (headOf i).pneg } s = true) (hn : (headOf i).pneg < 2)
    (hh : m.hold (hereOff i s) (judged (headOf i) s) = false) (ht : ∀ p u, m.tiles p u = []) (hk : ∀ p u, m.mark p u = false) (hl : m.lat ≠ .engine) :
    issueOne i m s = issued i (m.lat != .now) s (offEffect (hereOff i s) m) none id := by
  have h := (free_iff _ _).mp hf
  have hoff : predOn (found (headOf i) s) i = false := by
    have hp : ((found (headOf i) s).getP (headOf i).pidx != ((1 - (headOf i).pneg) == 1)) = true := h.pred
    unfold predOn
    rcases Nat.lt_succ_iff_lt_or_eq.mp hn with h0 | h1
    · rw [Nat.lt_one_iff.mp h0] at hp ⊢
      simpa using hp
    · rw [h1] at hp ⊢
      simpa using hp
  have hfound : landPd (landTags (atBoundary (hand s)) (waited (headOf i))) (soloFrame i m s.cur.1 s.cur.2 (bounded s)) = found (headOf i) s :=
    landPd_soloFrame i m _ _ _ _
  have hframe : issueFrame (bounded s) s.cur.1 s.cur.2 (soloFrame i m s.cur.1 s.cur.2 (bounded s)) =
      issueChecked (judged (headOf i) s) s.cur.1 s.cur.2 (soloFrame i m s.cur.1 s.cur.2 (bounded s)) 0 := by
    have hw := waitsOf_solo i m s.cur.1 s.cur.2 (bounded s)
    rw [issueFrame_eq rfl rfl (by rw [hw]; exact h.tags) ?room, hw, hfound]
    · rfl
    case room =>
      rw [hw, hfound, tagsOf_solo]
      intro t htm
      by_cases h0 : (headOf i).atag = 0
      · simp [h0] at htm
      · have hroom : (found (headOf i) s).tagCount (headOf i).atag < 255 := h.room.resolve_left h0
        simp only [ne_eq, h0, not_false_eq_true, if_true, List.mem_singleton] at htm ⊢
        subst htm
        simp
        omega
  have hlat : (m.lat == Lat.engine) = false := beq_eq_false_iff_ne.mpr hl
  have hon : (hereOff i s).on = false := rfl
  have hgo : interlock (judged (headOf i) s) s.cur.1 s.cur.2 [(hereOff i s, m)] = (.go, 0, 0, 0) := by
    simp [interlock, judgeTiles, ht, judgeAll, hlat]
  rw [issueOne, attempt_ok h.atTurn rfl, hframe]
  simp only [issueChecked, atSlots_off hoff]
  simp [checkSlots, hon, hk, hgo, hh, otherHolds, hlat, issueGated, issueNow_off hm]

end

/-- What a slot that is off leaves of its producer: a result for no register (R113). -/
theorem offEffect_produces (i : Instr) (m : SlotSem) (s : State) (l : Nat) (fixed : Bool) (hl : m.lat = if fixed then .fixed l else .prod l) :
    issued i true s (offEffect (hereOff i s) m) none id = produced i s l fixed .nothing 0 := by
  refine issued_congr i true s _ _ none id ?_
  cases fixed <;> simp only [offEffect, hl] <;> rfl

section
variable {i : Instr} {m : SlotSem} {s : State}

/-- A plain producer that is off. -/
theorem exec_off (l : Nat) (fixed : Bool) (hx : exec i s = .next (issueOne i m s)) (hm : m = slotSem i)
    (hf : free { headOf i with pneg := 1 - (headOf i).pneg } s = true) (hn : (headOf i).pneg < 2) (hl : m.lat = if fixed then .fixed l else .prod l)
    (hh : m.hold (hereOff i s) (judged (headOf i) s) = false) (ht : ∀ p u, m.tiles p u = []) (hk : ∀ p u, m.mark p u = false) :
    exec i s = .next (produced i s l fixed .nothing 0) := by
  have hne : m.lat ≠ .engine := by rw [hl]; cases fixed <;> simp
  have hnow : (m.lat != .now) = true := by rw [hl]; cases fixed <;> rfl
  rw [hx, issueOne_off hm hf hn hh ht hk hne, hnow, offEffect_produces i m s l fixed hl]

/-- A slot without a result that is off. -/
theorem exec_off_now (hx : exec i s = .next (issueOne i m s)) (hm : m = slotSem i)
    (hf : free { headOf i with pneg := 1 - (headOf i).pneg } s = true) (hn : (headOf i).pneg < 2) (hl : m.lat = .now)
    (hh : m.hold (hereOff i s) (judged (headOf i) s) = false) (ht : ∀ p u, m.tiles p u = []) (hk : ∀ p u, m.mark p u = false) :
    exec i s = .next (issued i false s id none id) := by
  have hne : m.lat ≠ .engine := by rw [hl]; simp
  have hnow : (m.lat != .now) = false := by rw [hl]; rfl
  have hid : offEffect (hereOff i s) m = id := by
    funext t
    rw [offEffect, hl]
    rfl
  rw [hx, issueOne_off hm hf hn hh ht hk hne, hnow, hid]

end

/-- Settles O34: a slot that is off passes no check and takes no effect but for its tag (R113); a wait on a tag with
one use outstanding holds the bundle before anything else of it (R108, R111). -/
theorem holdsAndPredicates : Obligations.HoldsAndPredicates := by
  unfold Obligations.HoldsAndPredicates
  refine ⟨fun h s hn hf _ => ⟨fun o => ?add, fun o => ?mul, fun o => ?cmp, fun o hh => ?ld, fun o => ?rdtime, fun o => ?br, fun o => ?mtsr⟩,
    fun i s hi => ?held⟩
  case add => exact exec_off (i := .add h o) (m := semAdd o) 1 true rfl rfl hf hn rfl rfl (fun _ _ => rfl) (fun _ _ => rfl)
  case mul => exact exec_off (i := .mul h o) (m := semMul o) 3 true rfl rfl hf hn rfl rfl (fun _ _ => rfl) (fun _ _ => rfl)
  case cmp => exact exec_off (i := .cmp h o) (m := semCmp o) 1 true rfl rfl hf hn rfl rfl (fun _ _ => rfl) (fun _ _ => rfl)
  case ld => exact exec_off (i := .ld h o) (m := semLd o) 12 false rfl rfl hf hn rfl hh (fun _ _ => rfl) (fun _ _ => rfl)
  case rdtime => exact exec_off (i := .rdtime h o) (m := semRdtime o) 8 false rfl rfl hf hn rfl rfl (fun _ _ => rfl) (fun _ _ => rfl)
  case br => exact exec_off_now (i := .br h o) (m := semBr o) rfl rfl hf hn rfl rfl (fun _ _ => rfl) (fun _ _ => rfl)
  case mtsr => exact exec_off_now (i := .mtsr h o) (m := semMtsr o) rfl rfl hf hn rfl rfl (fun _ _ => rfl) (fun _ _ => rfl)
  case held =>
    intro w b hc ht hs hb htags hclaims
    have hw := waitsOf_solo i (slotSem i) s.cur.1 s.cur.2 (bounded s)
    rw [exec_slot i s hi, issueOne, attempt_ok (atTurn_of hc ht hs hb) rfl,
      issueFrame_held rfl (by rw [hw]; exact htags) (by rw [hw]; exact hclaims), hw]

end Sys2Proof.Machine

/-! ## Format writes and header control ops (R119, R135, R145) -/

namespace Sys2Proof.Machine

/-! ### A write takes effect -/

theorem setFld_low16 (v : BitVec 32) (x : Nat) : setFld v 0 16 x = v.extractLsb' 16 16 ++ BitVec.ofNat 16 x := by
  refine BitVec.eq_of_toNat_eq ?_
  have hv := v.isLt
  simp only [setFld, fld, bits, BitVec.toNat_ofNat, BitVec.toNat_append, BitVec.extractLsb'_toNat, Nat.shiftRight_eq_div_pow]
  rw [← Nat.shiftLeft_add_eq_or_of_lt (Nat.mod_lt x (by decide)), Nat.shiftLeft_eq]
  omega

theorem setFld_high16 (v : BitVec 32) (x : Nat) : setFld v 16 16 x = BitVec.ofNat 16 x ++ v.extractLsb' 0 16 := by
  refine BitVec.eq_of_toNat_eq ?_
  have hv := v.isLt
  simp only [setFld, fld, bits, BitVec.toNat_ofNat, BitVec.toNat_append, BitVec.extractLsb'_toNat, Nat.shiftRight_eq_div_pow]
  rw [← Nat.shiftLeft_add_eq_or_of_lt (Nat.mod_lt _ (by decide)), Nat.shiftLeft_eq]
  omega

theorem stepBytes_eq (arg : Nat) :
    stepBytes arg = BitVec.ofInt 64 ((BitVec.ofNat 16 (bits arg 2 16)).toInt * (if bits arg 1 1 = 1 then 4096 else 32)) := by
  rw [stepBytes, wrap64, sNat_eq_toInt]

/-- The seed after a write of one of its halves (R145). -/
theorem seed_writeFmt (a : Arch) (arg : Nat) : (a.writeFmt 6 arg).seed =
    if bits arg 16 1 = 0 then a.seed.extractLsb' 16 16 ++ BitVec.ofNat 16 arg else BitVec.ofNat 16 arg ++ a.seed.extractLsb' 0 16 := by
  rw [← setFld_low16, ← setFld_high16]
  rfl

/-- With one write due, landing is that write (R119). -/
theorem Arch.landFmt_one {a : Arch} {w : PendFmt} (h : a.pend.filter (fun p => p.left == 0) = [w]) :
    a.landFmt = { a.writeFmt w.reg w.arg with pend := a.pend.filter (fun p => p.left != 0) } := by
  rw [Arch.landFmt, h]
  rfl

theorem Arch.landFmt_none {a : Arch} (h : a.pend.filter (fun p => p.left == 0) = []) :
    a.landFmt = { a with pend := a.pend.filter (fun p => p.left != 0) } := by
  rw [Arch.landFmt, h]
  rfl

/-- Format writes touch neither registers nor tiles. -/
theorem Arch.landFmt_st (a : Arch) : a.landFmt.s = a.s ∧ a.landFmt.t = a.t := by
  have h (l : List PendFmt) (b : Arch) :
      (l.foldl (fun a p => a.writeFmt p.reg p.arg) b).s = b.s ∧ (l.foldl (fun a p => a.writeFmt p.reg p.arg) b).t = b.t := by
    induction l generalizing b with
    | nil => exact ⟨rfl, rfl⟩
    | cons w l ih =>
      obtain ⟨hs, ht⟩ := ih (b.writeFmt w.reg w.arg)
      have hw : (b.writeFmt w.reg w.arg).s = b.s ∧ (b.writeFmt w.reg w.arg).t = b.t := by
        unfold Arch.writeFmt
        dsimp only
        split <;> exact ⟨rfl, rfl⟩
      exact ⟨hs.trans hw.1, ht.trans hw.2⟩
  exact h _ a

/-- Settles O41: the event lands the due writes, and a lone due write is `Arch.writeFmt`. -/
theorem formatWrites : Obligations.FormatWrites := by
  unfold Obligations.FormatWrites
  intro s core slot
  refine ⟨_, rfl, ?_⟩
  have hctx : (s.updCtx core slot (fun c => { c with a := c.a.landFmt })).ctx core slot =
      { s.ctx core slot with a := (s.ctx core slot).a.landFmt } := State.ctx_updCtx ..
  rw [hctx]
  obtain ⟨hs, ht⟩ := (s.ctx core slot).a.landFmt_st
  refine ⟨rfl, hs, ht, rfl, fun h => ?_, fun w h => ?_⟩
  · rw [Arch.landFmt_none h]
    exact ⟨rfl, rfl, rfl, rfl, rfl⟩
  · rw [Arch.landFmt_one h]
    have hstep : stepBytes w.arg = .ofInt 64 ((BitVec.ofNat 16 (w.arg / 4)).toInt * (if w.arg / 2 % 2 = 1 then 4096 else 32)) := by
      have hmod : BitVec.ofNat 16 (bits w.arg 2 16) = BitVec.ofNat 16 (w.arg / 4) := BitVec.eq_of_toNat_eq (by simp [bits])
      rw [stepBytes_eq, hmod]
      rfl
    refine ⟨?_, ?_, ?_, ?_, ?_, ?_, ?_, ?_, ?_, ?_⟩ <;> intro hr <;> rw [hr]
    · exact ⟨rfl, rfl⟩
    · exact ⟨rfl, rfl⟩
    iterate 5 rfl
    · exact ⟨rfl, seed_writeFmt ..⟩
    · exact hstep
    · exact hstep

/-! ### A control op issues -/

/-- The bundle of a control op without slots, at the word `hdr`. -/
def ctlFrame (i : Instr) (yld hdr : Nat) : Frame := { attr := bare yld, ctl := some i, hdr := hdr, nxt := hdr + 1, pieces := [] }

theorem fetchSlots_bare (sem : Instr → SlotSem) (core slot : Nat) (s : State) (i : Instr) (yld : Nat) :
    fetchSlots sem core slot s (bare yld) (some i) = .ok (ctlFrame i yld (s.ctx core slot).pcNow) := by
  have hbit (j : Nat) : maskBit 0 j = false := by simp [maskBit, bits]
  have hw : attrWords (bare yld) = 0 := by simp [attrWords, bare, hbit]
  simp only [fetchSlots, hw]
  simp [bare, hbit, readSlots, ctlFrame]

/-- Where a bundle goes on is no matter of what is settled in its context. -/
theorem settled_advance (c : Ctx) (f : Frame) (rep : Nat) (g : Option Nat) : (advance c f rep g).settled = c.settled := by
  unfold advance
  split
  · exact Ctx.settled_setReps ..
  · split
    · exact (Ctx.settled_setPc ..).trans (Ctx.settled_setReps ..)
    · exact (Ctx.settled_setPc ..).trans ((Ctx.settled_setLv ..).trans (Ctx.settled_setReps ..))

section
variable {i : Instr} {yld : Nat} {s : State}

/-- The context that a control op without slots finds: nothing is waited for, and no distance is covered. -/
theorem found_noHead (s : State) : found noHead s = atBoundary (hand s) := rfl

/-- A control op issues without checks. -/
theorem issueFrame_ctl (hdr : Nat) : issueFrame (bounded s) s.cur.1 s.cur.2 (ctlFrame i yld hdr) =
    issueNow (bounded s) s.cur.1 s.cur.2 (ctlFrame i yld hdr) 0 [] := by
  have hland : landPd (landTags (atBoundary (hand s)) []) (ctlFrame i yld hdr) = atBoundary (hand s) := rfl
  rw [issueFrame_eq rfl rfl (fun _ ht => absurd ht List.not_mem_nil) (fun _ ht => absurd ht List.not_mem_nil)]
  show issueChecked (setHand s (landPd (landTags (atBoundary (hand s)) []) (ctlFrame i yld hdr))) s.cur.1 s.cur.2 _ 0 = _
  rw [hland]
  show issueGated (bounded s) s.cur.1 s.cur.2 (ctlFrame i yld hdr) 0 [] = _
  unfold issueGated
  simp

end

/-- What is settled in a context holds its pending format writes. -/
theorem pend_settled {c d : Ctx} (h : c.settled = d.settled) : c.a.pend = d.a.pend := by
  have hp := congrArg (fun c : Ctx => c.a.pend) h
  exact hp

theorem pend_endIssue (s : State) (core slot : Nat) (f : Frame) (rep : Nat) :
    ((endIssue s core slot f rep).ctx core slot).a.pend = (s.ctx core slot).a.pend := by
  have hc := ctx_updCore s core slot (fun k => { k with issues := k.issues + 1, cur := slot }) rfl
  rw [endIssue, State.ctx_updCtx, hc, pend_settled (settled_settleMark _)]
  dsimp only
  split <;> rfl

section
variable {i : Instr} {yld : Nat} {s : State}

/-- The writes that are pending behind a control op: those of the start of its issue. -/
theorem pend_issueNow_ctl (hdr : Nat) : (hand (issueNow (bounded s) s.cur.1 s.cur.2 (ctlFrame i yld hdr) 0 [])).a.pend =
    (startIssue (ctlFrame i yld hdr) 0 [] (atBoundary (hand s))).a.pend := by
  have hhw : (ctlFrame i yld hdr).attr.hw = 0 := rfl
  have hend (u : State) (g : Option Nat) (h : u.cur = s.cur) :
      (hand (endIssue (u.updCtx s.cur.1 s.cur.2 (fun c => advance c (ctlFrame i yld hdr) 0 g)) s.cur.1 s.cur.2 (ctlFrame i yld hdr) 0)).a.pend =
        (u.ctx s.cur.1 s.cur.2).a.pend := by
    have hc : (endIssue (u.updCtx s.cur.1 s.cur.2 (fun c => advance c (ctlFrame i yld hdr) 0 g)) s.cur.1 s.cur.2 (ctlFrame i yld hdr) 0).cur = s.cur := h
    rw [hand, hc, pend_endIssue, State.ctx_updCtx, pend_settled (settled_advance ..)]
  simp only [issueNow, hhw, zero_ne_one, false_and, if_false, runSlots, List.foldl_nil]
  rw [hend]
  · rw [State.ctx_updCtx, ctx_bounded]
    rfl
  · rfl

/-- A control op counts its issue for the writes pending in its mode, and puts its own behind them (R119, R120). -/
theorem pend_startIssue_ctl {reg arg : Nat} (hi : ctlWrite i = some (reg, arg)) (hdr : Nat) (c : Ctx) :
    (startIssue (ctlFrame i yld hdr) 0 [] c).a.pend =
      c.a.pend.map (fun p => if p.sup = c.sup then { p with left := p.left - 1 } else p) ++ [{ reg := reg, arg := arg, left := 3, sup := c.sup }] := by
  have hn (c : Ctx) : (noteCtl (ctlFrame i yld hdr) 0 c) = { c with a := { c.a with pend := c.a.pend ++ [{ reg := reg, arg := arg, left := 3, sup := c.sup }] } } := by
    have hb : (ctlFrame i yld hdr).ctl.bind ctlWrite = some (reg, arg) := hi
    simp only [noteCtl, hb, if_true]
  have ht : (observe (waitsOf (ctlFrame i yld hdr)) [] c).tick.a.pend = c.a.pend.map (fun p => if p.sup = c.sup then { p with left := p.left - 1 } else p) ∧
      (observe (waitsOf (ctlFrame i yld hdr)) [] c).tick.sup = c.sup := by
    unfold Ctx.tick
    refine ⟨?_, rfl⟩
    cases hc : c.sup <;> simp [Arch.tickFmt, Arch.tickClaims, observe, hc]
  show (noteCtl (ctlFrame i yld hdr) 0 (observe (waitsOf (ctlFrame i yld hdr)) [] c).tick).a.pend = _
  rw [hn, ht.1, ht.2]

theorem issueCtl_adds {reg arg : Nat} (hf : free noHead s = true) (hi : ctlWrite i = some (reg, arg)) :
    (hand (issueCtl slotSem i (bare yld) s)).a.pend =
      (found noHead s).a.pend.map (fun p => if p.sup = (found noHead s).sup then { p with left := p.left - 1 } else p) ++
        [{ reg := reg, arg := arg, left := 3, sup := (found noHead s).sup }] := by
  rw [issueCtl, attempt_ok ((free_iff _ _).mp hf).atTurn (fetchSlots_bare ..), issueFrame_ctl, pend_issueNow_ctl, pend_startIssue_ctl hi, found_noHead]

end

/-! ### The boundary at which a write lands -/

theorem landAll_nil {c : Ctx} (f : Pend → Bool) (h : c.res = []) : c.landAll f = c := by
  cases c
  cases h
  rfl

theorem claims_writeFmt (a : Arch) (reg arg : Nat) : (a.writeFmt reg arg).claims = a.claims := by
  unfold Arch.writeFmt
  dsimp only
  split <;> rfl

/-- With nothing else to land, a boundary lands the one due format write (R119). -/
theorem boundary_writeFmt {c : Ctx} {r arg : Nat} {sup : Bool} (hr : c.res = []) (hc : c.a.claims = [])
    (hp : c.a.pend = [{ reg := r, arg := arg, left := 0, sup := sup }]) : c.boundary.a = { c.a.writeFmt r arg with pend := [] } := by
  have hl : c.a.landFmt = { c.a.writeFmt r arg with pend := [] } := by
    have hd : c.a.pend.filter (fun p => p.left == 0) = [{ reg := r, arg := arg, left := 0, sup := sup }] := by rw [hp]; rfl
    have hn : c.a.pend.filter (fun p => p.left != 0) = [] := by rw [hp]; rfl
    rw [Arch.landFmt_one hd, hn]
  have hk (a : Arch) (h : a.claims = []) : a.landClaims = a := by
    cases a
    cases h
    rfl
  unfold Ctx.boundary
  rw [landAll_nil _ hr]
  dsimp only
  rw [hl]
  split
  · rfl
  · exact hk _ ((claims_writeFmt ..).trans hc)

/-- Settles O25: the op puts its write behind the pending ones, and a boundary lands it once its count is 0. -/
theorem headerControl : Obligations.HeaderControl := by
  unfold Obligations.HeaderControl
  refine ⟨?issue, ?lands, ?repeats⟩
  case issue =>
    intro yld arg s hf
    refine ⟨?_, ?_, ?_, ?_, ?_, ?_, ?_, ?_, ?_⟩ <;> exact ⟨_, rfl, issueCtl_adds hf rfl⟩
  case lands =>
    intro c arg sup r hr hc hp
    dsimp only
    rw [boundary_writeFmt hr hc hp]
    refine ⟨rfl, ?_, ?_, ?_, ?_, ?_, ?_, ?_, ?_, ?_, ?_⟩ <;> rintro rfl
    iterate 6 rfl
    · refine ⟨rfl, fun h => ?_, fun h => ?_⟩
      · exact (seed_writeFmt ..).trans (if_pos h)
      · exact (seed_writeFmt ..).trans (if_neg (by omega))
    · rfl
    · exact stepBytes_eq arg
    · exact stepBytes_eq arg
  case repeats =>
    intro f i reg arg rep c hf hi hrep
    have hb : f.ctl.bind ctlWrite = some (reg, arg) := by rw [hf]; exact hi
    simp only [noteCtl, hb, if_neg hrep]

end Sys2Proof.Machine

/-! ## Accesses take their turn: words move among caches, and no byte changes (R73 to R81) -/

namespace Sys2Proof.Machine

theorem Still.ite {s t u : State} {p : Prop} [Decidable p] (ht : Still s t) (hu : Still s u) : Still s (if p then t else u) := by
  split
  · exact ht
  · exact hu

theorem Still.noteL1 (s : State) (die w : Nat) : Still s (noteL1 s die w) := by
  unfold Machine.noteL1
  split
  · exact Still.congr rfl rfl rfl
  · exact Still.refl s

theorem Still.l1Room (s : State) (core set sets : Nat) : Still s (l1Room s core set sets) := by
  unfold Machine.l1Room
  exact (Still.updCore s _ _ rfl).trans (Still.foldl _ (fun s b => Still.evict s core b) _ _)

theorem Still.l1Fill (s : State) (core : Nat) (b : Block) : Still s (l1Fill s core b) := by
  unfold Machine.l1Fill
  dsimp only
  refine Still.trans ?_ (Still.l1Room _ _ _ _)
  have hu (f : Core → Core) (hf : ∀ k, (f k).sram = k.sram) : Still s (s.updCore core f) := Still.updCore s core f (hf _)
  refine Still.ite (Still.trans (hu _ fun _ => ?_) (Still.foldl _ (fun s w => Still.setTimes s _ _ _) _ _)) (hu _ fun _ => ?_) <;> rfl

theorem Still.l1Hit (s : State) (core : Nat) (b b' : Block) : Still s (l1Hit s core b b') := Still.updCore s core _ rfl

theorem Still.touchRuns (s : State) (core slot oid page die frame : Nat) (is : List Nat) :
    Still s (touchRuns s core slot oid page die frame is) :=
  Still.foldl _ (fun s _ => Still.l2Touch s _ _ _ _ _ _ _ _) _ _

theorem Still.homeRead (s : State) (die w t ext : Nat) : Still s (homeRead s die w t ext).1 := Still.homeReads s die [w] t ext

theorem Still.homeWrite (s : State) (die w t : Nat) : Still s (homeWrite s die w t).1 := Still.homeWrites s die [w] t

theorem Still.homeStore (s : State) (core slot oid page die w t : Nat) : Still s (homeStore s core slot oid page die w t).1 := by
  unfold Machine.homeStore
  dsimp only
  exact (Still.l2Touch s core slot oid page die _ _ _).trans ((Still.homeWrite _ die w t).trans (Still.l2Dirty _ die w _))

theorem Still.l1Miss (s : State) (core slot oid page die frame i t : Nat) (wr : Bool) (ty hint : Nat) :
    Still s (l1Miss s core slot oid page die frame i t wr ty hint).1 := by
  have hu (f : Block → Bool) (is : List Nat) : Still s (Machine.touchRuns (Machine.dropL1 s core f) core slot oid page die frame is) :=
    (Still.dropL1 s core f).trans (Still.touchRuns _ core slot oid page die frame is)
  have hhome (u : State) (ws vs : List Nat) : Still u (if wr = false then Machine.homeReads u die ws t 16 else if ty = 0 then Machine.homeWrites u die ws t
      else ((Machine.homeReads (Machine.homeStore u core slot oid page die (16 * frame + i) t).1 die vs
        (Machine.homeStore u core slot oid page die (16 * frame + i) t).2 16).1, (Machine.homeStore u core slot oid page die (16 * frame + i) t).2)).1 := by
    split
    · exact Still.homeReads u die _ t 16
    split
    · exact Still.homeWrites u die _ t
    · exact (Still.homeStore u core slot oid page die _ t).trans (Still.homeReads _ die _ _ 16)
  unfold Machine.l1Miss
  dsimp only
  refine Still.trans ?_ (Still.l1Fill _ core _)
  split
  · exact ((hu _ _).trans (hhome _ _ _)).trans (Still.noteL1 _ _ _)
  · exact (hu _ _).trans (hhome _ _ _)

theorem Still.renew (s : State) (core slot oid page : Nat) (b : Block) (i t : Nat) : Still s (renew s core slot oid page b i t).1 := by
  unfold Machine.renew
  dsimp only
  refine (Still.homeReads s b.die b.words t 16).trans (Still.trans ?_ (Still.l1Hit _ core b _))
  split
  · exact Still.refl _
  · exact Still.l2Touch _ _ _ _ _ _ _ _ _

theorem Still.request (s : State) (core slot oid page die pa t : Nat) (wr : Bool) (ty hint : Nat) :
    Still s (request s core slot oid page die pa t wr ty hint).1 := by
  have hmiss (ty : Nat) : Still s (Machine.l1Miss s core slot oid page die (pa / 512) (pa / 32 % 16) t wr ty hint).1 := Still.l1Miss ..
  unfold Machine.request
  dsimp only
  generalize (if (s.core core).l1size = 0 then 3 else ty) = ty
  split
  · split
    · exact Still.homeStore ..
    · exact (Still.l2Touch s core slot oid page die _ _ _).trans (Still.homeRead _ _ _ _ _)
  split
  next b _ =>
    split
    · split
      · exact (Still.noteL1 s die _).trans (Still.l1Hit ..)
      · exact Still.l1Hit ..
    split
    · exact hmiss _
    split
    · exact (Still.homeStore s core slot oid page die _ _).trans (Still.l1Hit ..)
    split
    · exact Still.l1Hit ..
    · exact Still.renew ..
  next => exact hmiss _

theorem Still.writeThrough (s : State) (core die pa t : Nat) : Still s (writeThrough s core die pa t) := by
  unfold Machine.writeThrough
  dsimp only
  split
  · exact Still.updCore s core _ rfl
  · exact Still.refl s

theorem Still.spadTouch (s : State) (core a n t : Nat) (wr : Bool) : Still s (spadTouch s core a n t wr).1 := by
  unfold Machine.spadTouch
  dsimp only
  generalize List.foldl _ t _ = t'
  split
  · exact Still.refl s
  · dsimp only
    refine Still.updCore s core _ ?_
    rfl

/-! ### Combination where there is nothing to combine (R84) -/

/-- No core holds a partial. -/
def NoPartials (s : State) : Prop := ∀ c, (s.core c).part = []

/-- Then a combination writes no byte: it only forgets the block that the home tracked. -/
theorem combine_noPartials {s : State} (h : NoPartials s) (die a n : Nat) : combine s die a n =
    s.updDie die (fun d => { d with tracked := d.tracked.filter (fun t => !(t.1 == a && t.2.1 == n)) }) := by
  have hcores : (List.range 256).filter (fun c => (s.core c).part.any
      (fun e => e.die == die && decide (a ≤ e.addr) && decide (e.addr < a + n))) = [] :=
    List.filter_eq_nil_iff.mpr fun c _ => by rw [h c]; exact Bool.false_ne_true
  unfold combine
  dsimp only
  rw [hcores]
  rfl

theorem Still.combineFor_noPartials {s : State} (h : NoPartials s) (die pa n : Nat) : Still s (combineFor s die pa n) := by
  have hf (l : List (Nat × Nat × Nat)) : ∀ s, NoPartials s → Still s (l.foldl (fun s t => combine s die t.1 t.2.1) s) := by
    induction l with
    | nil => exact fun s _ => Still.refl s
    | cons x l ih =>
      intro s h
      rw [List.foldl_cons, combine_noPartials h]
      exact (Still.updDie s die _).trans (ih _ h)
  exact hf _ s h

/-- Settles O12: with no partials a combination writes no byte, and every other turn only moves words among caches. -/
theorem turnsKeepBytes : Obligations.TurnsKeepBytes := by
  unfold Obligations.TurnsKeepBytes
  intro s core slot oid o n ty hint wr pl h
  have hs : Still s (touchAt s core slot oid o pl n wr ty hint) := by
    cases pl with
    | dev d pa =>
      unfold touchAt devTouch
      dsimp only
      exact (Still.combineFor_noPartials h d pa n).trans ((Still.request _ core slot oid _ d pa _ wr ty hint).trans (Still.updCtx _ core slot _))
    | sram t a =>
      unfold touchAt
      dsimp only
      exact (Still.spadTouch s t a n _ wr).trans (Still.updCtx _ core slot _)
    | host a peer => exact Still.refl s
  exact ⟨hs.mem, hs.sram⟩

end Sys2Proof.Machine

/-! ## The item window (R181) -/

namespace Sys2Proof.Machine

/-! ### Halves of a 128-bit register -/

theorem halfOf_zero (v : BitVec 128) : halfOf v 0 = .ofNat 64 v.toNat :=
  BitVec.eq_of_toNat_eq (by simp [halfOf, nw, fld, bits])

theorem halfOf_one (v : BitVec 128) : halfOf v 1 = .ofNat 64 (v.toNat / 2 ^ 64) :=
  BitVec.eq_of_toNat_eq (by simp [halfOf, nw, fld, bits])

theorem putHalf_zero (v : BitVec 128) (w : Word) : putHalf v 0 w = .ofNat 128 (v.toNat / 2 ^ 64 * 2 ^ 64 + w.toNat) := by
  refine BitVec.eq_of_toNat_eq ?_
  have := v.isLt
  have := w.isLt
  simp only [putHalf, setFld, fld, bits, BitVec.toNat_ofNat]
  omega

theorem putHalf_one (v : BitVec 128) (w : Word) : putHalf v 1 w = .ofNat 128 (v.toNat % 2 ^ 64 + w.toNat * 2 ^ 64) := by
  refine BitVec.eq_of_toNat_eq ?_
  have := v.isLt
  have := w.isLt
  simp only [putHalf, setFld, fld, bits, BitVec.toNat_ofNat]
  omega

/-! ### What each item reads -/

section
variable (a : Arch) (ops : List EOp) (slot nacc m : Nat)

theorem busyNow_nil (t : Nat) : busyNow [] slot t = false := rfl

theorem itemOf_descLow (hm : m < 64) : itemOf a [] slot nacc (2 * m) = some (.ofNat 64 (a.desc m).toNat) := by
  have h1 : 2 * m / 2 = m := by omega
  have h2 : 2 * m % 2 = 0 := by omega
  have hv : BitVec.ofNat 64 (setFld (a.desc m) 120 1 0).toNat = .ofNat 64 (a.desc m).toNat := by
    refine BitVec.eq_of_toNat_eq ?_
    have := (a.desc m).isLt
    simp only [setFld, fld, bits, BitVec.toNat_ofNat]
    omega
  simp (disch := omega) only [itemOf, if_pos, h1, h2, busyNow_nil, halfOf_zero]
  rw [← hv]
  rfl

theorem itemOf_descHigh (hm : m < 64) : itemOf a [] slot nacc (2 * m + 1) =
    some (.ofNat 64 ((a.desc m).toNat / 2 ^ 64 % 2 ^ 56 + (a.desc m).toNat / 2 ^ 121 * 2 ^ 57)) := by
  have h1 : (2 * m + 1) / 2 = m := by omega
  have h2 : (2 * m + 1) % 2 = 1 := by omega
  have hv : BitVec.ofNat 64 ((setFld (a.desc m) 120 1 0).toNat / 2 ^ 64) =
      .ofNat 64 ((a.desc m).toNat / 2 ^ 64 % 2 ^ 56 + (a.desc m).toNat / 2 ^ 121 * 2 ^ 57) := by
    refine BitVec.eq_of_toNat_eq ?_
    have := (a.desc m).isLt
    simp only [setFld, fld, bits, BitVec.toNat_ofNat]
    omega
  simp (disch := omega) only [itemOf, if_pos, h1, h2, busyNow_nil, halfOf_one]
  rw [← hv]
  rfl

theorem itemOf_status (hm : m < 64) : itemOf a ops slot nacc (0x080 + m) = some (a.status m) := by
  simp (disch := omega) only [itemOf, if_neg, if_pos, Nat.add_sub_cancel_left]

theorem itemOf_accStatus (hm : m < 8) : itemOf a ops slot nacc (0x0C0 + m) = some (if m < nacc then a.status (64 + m) else 0) := by
  have h1 : 0x0C0 + m - 0x080 = 64 + m := by omega
  have h2 : (0xC0 ≤ 0x0C0 + m ∧ nacc ≤ 0x0C0 + m - 0xC0) = ¬m < nacc := by
    rw [eq_iff_iff]
    omega
  simp (disch := omega) only [itemOf, if_neg, if_pos, h1, h2, ite_not]

theorem itemOf_capLow (hm : m < 16) : itemOf a ops slot nacc (0x100 + 2 * m) = some (.ofNat 64 (a.k.get m 0).toNat) := by
  have h1 : (0x100 + 2 * m - 0x100) / 2 = m := by omega
  have h2 : (0x100 + 2 * m) % 2 = 0 := by omega
  simp (disch := omega) only [itemOf, if_neg, if_pos, h1, h2, halfOf_zero]

theorem itemOf_capHigh (hm : m < 16) : itemOf a ops slot nacc (0x100 + 2 * m + 1) = some (.ofNat 64 ((a.k.get m 0).toNat / 2 ^ 64)) := by
  have h1 : (0x100 + 2 * m + 1 - 0x100) / 2 = m := by omega
  have h2 : (0x100 + 2 * m + 1) % 2 = 1 := by omega
  simp (disch := omega) only [itemOf, if_neg, if_pos, h1, h2, halfOf_one]

theorem itemOf_tag (h0 : 0 < m) (hm : m < 32) : itemOf a ops slot nacc (0x120 + m) = some (.ofNat 64 (a.tg.get m 0)) := by
  simp (disch := omega) only [itemOf, if_neg, if_pos, Nat.add_sub_cancel_left]
  rfl

theorem itemOf_level (j : Nat) (hm : m < 4) (hj : j < 4) :
    itemOf a ops slot nacc (0x140 + 4 * m + j) = some (levelItem (a.lv.get m {}) j) := by
  have h1 : (0x140 + 4 * m + j - 0x140) / 4 = m := by omega
  have h2 : (0x140 + 4 * m + j) % 4 = j := by omega
  simp (disch := omega) only [itemOf, if_neg, if_pos, h1, h2]

theorem itemOf_handoff (hm : m < 8) : itemOf a ops slot nacc (0x198 + m) = some (a.h.get m 0) := by
  simp (disch := omega) only [itemOf, if_neg, if_pos, Nat.add_sub_cancel_left]

theorem itemOf_progress (j : Nat) (hm : m < 8) (hj : j < 16) : itemOf a ops slot nacc (0x200 + 16 * m + j) = some (a.item m j) := by
  have h1 : (0x200 + 16 * m + j - 0x200) / 16 = m := by omega
  have h2 : (0x200 + 16 * m + j) % 16 = j := by omega
  simp (disch := omega) only [itemOf, if_neg, if_pos, h1, h2]

theorem itemOf_scalar (h0 : 0 < m) (hm : m < 64) : itemOf a ops slot nacc (0x300 + m) = some (a.s.get m 0) := by
  simp (disch := omega) only [itemOf, if_neg, if_pos, Nat.add_sub_cancel_left]

theorem noItem_iff (n : Nat) : noItem n = true ↔ 0x0C8 ≤ n ∧ n < 0x100 ∨ n = 0x120 ∨ n = 0x15F ∨ 0x164 ≤ n ∧ n < 0x168 ∨ 0x17A ≤ n ∧ n < 0x180 ∨
    0x190 ≤ n ∧ n < 0x198 ∨ 0x1A0 ≤ n ∧ n < 0x200 ∨ 0x280 ≤ n ∧ n < 0x300 ∨ 0x341 ≤ n ∧ n < 0x1000 ∨ 0x1400 ≤ n ∧ n < 0x2000 ∨
    0x2400 ≤ n ∧ n < 0x4000 := by
  simp only [noItem, List.any_cons, List.any_nil, Bool.or_eq_true, Bool.and_eq_true, decide_eq_true_eq, Bool.false_eq_true, or_false]
  omega

/-- The indexes below 0x1000 without an item are those of the table (R181). -/
theorem itemOf_eq_none (n : Nat) (hn : n < 0x1000) : itemOf a ops slot nacc n = none ↔ noItem n = true := by
  rw [noItem_iff]
  have hs (p : Prop) [Decidable p] (x : Word) (t : Option Word) : (if p then some x else t) = none ↔ ¬p ∧ t = none := by
    split <;> simp [*]
  have ht (p : Prop) [Decidable p] (t : Option Word) : (if p then none else t) = none ↔ p ∨ t = none := by
    split <;> simp [*]
  simp only [itemOf, hs, ht, and_true]
  omega

end

/-! ### What each item writes -/

section
variable (a : Arch) (nacc now m : Nat) (v : Word)

theorem setItemOf_descLow (hm : m < 64) :
    setItemOf a nacc now (2 * m) v = a.setDesc m (.ofNat 128 ((a.desc m).toNat / 2 ^ 64 * 2 ^ 64 + v.toNat % 2 ^ 62)) := by
  have h1 : 2 * m / 2 = m := by omega
  have h2 : 2 * m % 2 = 0 := by omega
  have hv : (v &&& 0x3FFFFFFFFFFFFFFF).toNat = v.toNat % 2 ^ 62 := by
    rw [BitVec.toNat_and]
    exact Nat.and_two_pow_sub_one_eq_mod v.toNat 62
  simp (disch := omega) only [setItemOf, itemMask, if_pos, if_true, h1, h2, putHalf_zero, hv]

theorem setItemOf_descHigh (hm : m < 64) :
    setItemOf a nacc now (2 * m + 1) v = a.setDesc m (.ofNat 128 ((a.desc m).toNat % 2 ^ 64 + v.toNat % 2 ^ 56 * 2 ^ 64)) := by
  have h1 : (2 * m + 1) / 2 = m := by omega
  have h2 : (2 * m + 1) % 2 = 1 := by omega
  have hv : (v &&& 0x00FFFFFFFFFFFFFF).toNat = v.toNat % 2 ^ 56 := by
    rw [BitVec.toNat_and]
    exact Nat.and_two_pow_sub_one_eq_mod v.toNat 56
  simp (disch := omega) only [setItemOf, itemMask, if_pos, if_neg, h1, h2, putHalf_one, hv]

theorem setItemOf_status (hm : m < 64) : setItemOf a nacc now (0x080 + m) v = a.setStatus m (.ofNat 64 (v.toNat % 2 ^ 59)) := by
  simp (disch := omega) only [setItemOf, itemMask, if_neg, if_pos, Nat.add_sub_cancel_left]
  rfl

theorem setItemOf_accStatus (hm : m < 8) : setItemOf a nacc now (0x0C0 + m) v =
    if m < nacc then a.setStatus (64 + m) (.ofNat 64 (v.toNat % 2 ^ 59)) else a := by
  have h1 : 0x0C0 + m - 0x080 = 64 + m := by omega
  have h2 : (0xC0 ≤ 0x0C0 + m ∧ nacc ≤ 0x0C0 + m - 0xC0) = ¬m < nacc := by
    rw [eq_iff_iff]
    omega
  simp (disch := omega) only [setItemOf, itemMask, if_neg, if_pos, h1, h2, ite_not]
  rfl

theorem setItemOf_capLow (hm : m < 16) : setItemOf a nacc now (0x100 + 2 * m) v =
    { a with k := a.k.set m (.ofNat 128 ((a.k.get m 0).toNat / 2 ^ 64 * 2 ^ 64 + (v.toNat / 2 ^ 32 * 2 ^ 32 + v.toNat % 2 ^ 29))) 0 } := by
  have h1 : (0x100 + 2 * m - 0x100) / 2 = m := by omega
  have h2 : (0x100 + 2 * m) % 2 = 0 := by omega
  have hv : (setFld v 29 3 0).toNat = v.toNat / 2 ^ 32 * 2 ^ 32 + v.toNat % 2 ^ 29 := by
    have := v.isLt
    simp only [setFld, fld, bits, BitVec.toNat_ofNat]
    omega
  simp (disch := omega) only [setItemOf, itemMask, if_neg, if_pos, if_true, h1, h2, putHalf_zero, hv]

theorem setItemOf_capHigh (hm : m < 16) : setItemOf a nacc now (0x100 + 2 * m + 1) v =
    { a with k := a.k.set m (.ofNat 128 ((a.k.get m 0).toNat % 2 ^ 64 + v.toNat * 2 ^ 64)) 0 } := by
  have h1 : (0x100 + 2 * m + 1 - 0x100) / 2 = m := by omega
  have h2 : (0x100 + 2 * m + 1) % 2 = 1 := by omega
  simp (disch := omega) only [setItemOf, itemMask, if_neg, if_pos, h1, h2, putHalf_one]

theorem setItemOf_tag (hm : m < 32) : setItemOf a nacc now (0x120 + m) v = { a with tg := a.tg.set m (v.toNat % 2 ^ 8) 0 } := by
  simp (disch := omega) only [setItemOf, itemMask, if_neg, if_pos, Nat.add_sub_cancel_left]
  rfl

theorem setItemOf_handoff (hm : m < 8) : setItemOf a nacc now (0x198 + m) v = { a with h := a.h.set m v 0 } := by
  simp (disch := omega) only [setItemOf, itemMask, if_neg, if_pos, Nat.add_sub_cancel_left]

theorem setItemOf_progFirst (hm : m < 8) :
    setItemOf a nacc now (0x200 + 16 * m) v = a.setItem m 0 (.ofNat 64 (v.toNat % 2 ^ 44 + v.toNat / 2 ^ 63 * 2 ^ 63)) := by
  have h1 : (0x200 + 16 * m - 0x200) / 16 = m := by omega
  have h2 : (0x200 + 16 * m) % 16 = 0 := by omega
  have hv : fld v 63 1 = v.toNat / 2 ^ 63 := by
    have := v.isLt
    simp only [fld, bits]
    omega
  simp (disch := omega) only [setItemOf, itemMask, if_neg, if_pos, h1, h2, hv, nw]

theorem setItemOf_progress (j : Nat) (hm : m < 8) (hj : 1 ≤ j ∧ j ≤ 4 ∨ j = 13) : setItemOf a nacc now (0x200 + 16 * m + j) v = a.setItem m j v := by
  have h1 : (0x200 + 16 * m + j - 0x200) / 16 = m := by omega
  have h2 : (0x200 + 16 * m + j) % 16 = j := by omega
  simp (disch := omega) only [setItemOf, itemMask, if_neg, if_pos, h1, h2]

theorem setItemOf_scalar (h0 : 0 < m) (hm : m < 64) : setItemOf a nacc now (0x300 + m) v = { a with s := a.s.set m v 0 } := by
  simp (disch := omega) only [setItemOf, itemMask, if_neg, if_pos, Nat.add_sub_cancel_left]

theorem setItemOf_reps : setItemOf a nacc now 0x160 v = { a with reps := v.toNat % 2 ^ 8 } := by simp [setItemOf, itemMask]

theorem setItemOf_stepC0 : setItemOf a nacc now 0x161 v = { a with stepC0 := v } := by simp [setItemOf, itemMask]

theorem setItemOf_stepC1 : setItemOf a nacc now 0x162 v = { a with stepC1 := v } := by simp [setItemOf, itemMask]

theorem setItemOf_hnext : setItemOf a nacc now 0x163 v = { a with hnext := v.toNat % 2 ^ 3 } := by simp [setItemOf, itemMask]

/-- The format registers' items keep the low 11 bits of what is written (R135). -/
theorem setItemOf_format (hm : m < 4) : setItemOf a nacc now (0x168 + m) v = setFmtItem a m (.ofNat 64 (v.toNat % 2 ^ 11)) := by
  have hb : fmtBits m = 11 := by interval_cases m <;> rfl
  simp (disch := omega) only [setItemOf, itemMask, if_neg, if_pos, Nat.add_sub_cancel_left, hb]
  rfl

theorem setItemOf_seed : setItemOf a nacc now 0x16E v = { a with seed := .ofNat 32 v.toNat, draw := .ofNat 32 (v.toNat / 2 ^ 32) } := by
  simp [setItemOf, itemMask, setFmtItem]

theorem setItemOf_zero : setItemOf a nacc now 0x300 v = a := by simp [setItemOf]

theorem setItemOf_predicates : setItemOf a nacc now 0x340 v = { a with p := .ofNat 8 v.toNat ||| 1 } := by simp [setItemOf, itemMask]

end

end Sys2Proof.Machine

/-! ## Reads and writes of system registers (R174 to R181) -/

namespace Sys2Proof.Machine

/-! ### Steps of the index -/

theorem stepIndex_eq (c : Ctx) : c.stepIndex = stepsTo (c.isel.toNat % 2 ^ 14 + 1) c := by
  have hbit : (fld c.isel 16 1 = 1) = (c.isel.getLsbD 16 = true) := by
    rw [eq_iff_iff, fld, bits, BitVec.getLsbD, Nat.testBit_eq_decide_div_mod_eq, decide_eq_true_eq, pow_one]
  have hset : setFld c.isel 0 14 (c.itemIndex + 1) = .ofNat 64 (c.isel.toNat / 2 ^ 14 * 2 ^ 14 + (c.isel.toNat % 2 ^ 14 + 1) % 2 ^ 14) := by
    refine BitVec.eq_of_toNat_eq ?_
    have := c.isel.isLt
    simp only [Ctx.itemIndex, setFld, fld, bits, BitVec.toNat_ofNat]
    omega
  simp only [Ctx.stepIndex, stepsTo, hbit, hset]

theorem itemIndex_eq (c : Ctx) : c.itemIndex = c.isel.toNat % 2 ^ 14 := by simp [Ctx.itemIndex, fld, bits]

/-- An update of the context in hand counts only what it makes of that context. -/
theorem State.updCtx_congr {s : State} {core slot : Nat} {f g : Ctx → Ctx} (h : f (s.ctx core slot) = g (s.ctx core slot)) :
    s.updCtx core slot f = s.updCtx core slot g := by
  unfold State.updCtx
  rw [h]

section
variable {i : Instr} {al : Bool} {s : State} {eff fin fin' : State → State} {g : Option Nat}

/-- Only what the end makes of the state that it finds counts. -/
theorem issued_congr_fin (h : fin (ending i al s eff g) = fin' (ending i al s eff g)) : issued i al s eff g fin = issued i al s eff g fin' := by
  rw [issued_eq, h]
  rfl

theorem here_core (i : Instr) (s : State) : (here i s).core = s.cur.1 := rfl

theorem here_slot (i : Instr) (s : State) : (here i s).slot = s.cur.2 := rfl

/-- What is settled in a context when the end of a slot finds it is as the effect leaves it. -/
theorem proj_ending {α : Type} (f : Ctx → α) (hf : ∀ c, f c.settled = f c) :
    f ((ending i al s eff g).ctx s.cur.1 s.cur.2) = f ((eff (issuing i al s)).ctx s.cur.1 s.cur.2) := by
  rw [ctx_ending, ← hf, settled_movedOn, hf]

end

/-! ### Items of the context in hand -/

section
variable {s u : State} {n : Nat}

theorem readItem_user {core slot : Nat} (hn : n < 0x1000) :
    readItem u core slot n = itemOf (u.ctx core slot).a (u.core core).ops slot (u.ctx core slot).nacc n := if_pos hn

/-- The copies of s[m] in the shadow sets that hold one (R181; log entry 121). -/
theorem readItem_shadow {core slot m : Nat} {x : Shadow} (h0 : 0 < m) (hm : m < 64) :
    ((u.ctx core slot).sh0 = some x → readItem u core slot (0x1300 + m) = some (x.arch.s.get m 0)) ∧
    ((u.ctx core slot).sh1 = some x → readItem u core slot (0x2300 + m) = some (x.arch.s.get m 0)) := by
  have h1 : 0x1300 + m - 0x1000 = 0x300 + m := by omega
  have h2 : 0x2300 + m - 0x2000 = 0x300 + m := by rw [Nat.add_comm 0x2300, Nat.add_sub_assoc (by decide), Nat.add_comm]
  constructor <;> intro hx <;> unfold readItem <;> dsimp only
  · simp (disch := omega) only [if_neg, if_pos, hx, h1]
    exact itemOf_scalar _ _ _ _ _ h0 hm
  · simp (disch := omega) only [if_neg, if_pos, hx, h2]
    exact itemOf_scalar _ _ _ _ _ h0 hm

theorem ops_setHand (s : State) (c : Ctx) : ((setHand s c).core s.cur.1).ops = (s.core s.cur.1).ops := by
  simp [setHand, State.setCtx, Core.setSlot]

theorem readItem_judged (h : Head) (hn : n < 0x1000) :
    readItem (judged h s) s.cur.1 s.cur.2 n = itemOf (found h s).a (s.core s.cur.1).ops s.cur.2 (found h s).nacc n := by
  rw [readItem_user hn, ctx_judged, judged, ops_setHand]

/-- An index without a row in the table names no item, in the shadow sets' part either. -/
theorem readItem_noItem (h : Head) (hn : noItem n = true) : readItem (judged h s) s.cur.1 s.cur.2 n = none := by
  by_cases hlt : n < 0x1000
  · rw [readItem_judged h hlt]
    exact (itemOf_eq_none _ _ _ _ n hlt).mpr hn
  · have hr : 0x1400 ≤ n ∧ n < 0x2000 ∨ 0x2400 ≤ n := by
      rw [noItem_iff] at hn
      omega
    unfold readItem
    dsimp only
    rcases hr with hr | hr <;> simp (disch := omega) only [if_neg, if_pos]

theorem readItem_issuing (i : Instr) (al : Bool) (hn : n < 0x1000) :
    readItem (issuing i al s) s.cur.1 s.cur.2 n = itemOf (atIssue i al s).a (s.core s.cur.1).ops s.cur.2 (found (headOf i) s).nacc n := by
  have hnacc : (atIssue i al s).nacc = (found (headOf i) s).nacc := passed_nacc ..
  rw [readItem_user hn, ctx_issuing, hnacc, issuing, ops_setHand]

end

/-! ### Reads -/

section
variable {h : Head} {o : SI} {s : State}

/-- `mfsr` whose check passes gives its register's value, and steps the index where it reads an item (R174, R181). -/
theorem exec_mfsr (hf : free h s = true) (hc : mfsrErr o (judged h s) s.cur.1 s.cur.2 = none) {v : Word}
    (hv : srValue (issuing (.mfsr h o) true s) s.cur.1 s.cur.2 (srCode o) = v) :
    exec (.mfsr h o) s = .next (issued (.mfsr h o) true s
      (fun t => t.updCtx s.cur.1 s.cur.2 (fun d => d.push (result (.mfsr h o) s 1 true ((found h s).dstS o.a) (v.setWidth 512)))) none
      ((semMfsr o).fin (here (.mfsr h o) s))) := by
  have hp := passes_plain (.mfsr h o) s (semMfsr o) rfl hc rfl rfl (fun _ => rfl) rfl rfl nofun
  have hi := issueOne_passes (.mfsr h o) s hf hp
  refine congrArg Host.Outcome.next (hi.trans (issued_congr _ _ _ _ _ _ _ ?_))
  show produce (here (.mfsr h o) s) (.fixed 1) _ _ (issuing (.mfsr h o) true s) = _
  rw [produce_issuing (.mfsr h o) s (.fixed 1) 1 true _ _ rfl, here_ctx, ctx_issuing, atIssue_dstS]
  exact State.updCtx_congr (by rw [← hv]; rfl)

theorem fin_semMfsr (p : At) (t : State) :
    (semMfsr o).fin p t = if srCode o = 0x021 then t.updCtx p.core p.slot Ctx.stepIndex else t := rfl

theorem exec_mfsr_gives (hf : free h s = true) (hc : mfsrErr o (judged h s) s.cur.1 s.cur.2 = none) (hk : srCode o ≠ 0x021) {v : Word}
    (hv : srValue (issuing (.mfsr h o) true s) s.cur.1 s.cur.2 (srCode o) = v) :
    exec (.mfsr h o) s = .next (writesS (.mfsr h o) s 1 o.a v) := by
  rw [exec_mfsr hf hc hv, writesS, produced]
  refine congrArg Host.Outcome.next (issued_congr_fin ?_)
  rw [fin_semMfsr, if_neg hk]
  rfl

theorem exec_mfsr_item (hf : free h s = true) (hc : mfsrErr o (judged h s) s.cur.1 s.cur.2 = none) (hk : srCode o = 0x021) {v : Word}
    (hv : readItem (issuing (.mfsr h o) true s) s.cur.1 s.cur.2 ((found h s).isel.toNat % 2 ^ 14) = some v) :
    exec (.mfsr h o) s = .next (issued (.mfsr h o) true s
      (fun t => t.updCtx s.cur.1 s.cur.2 (fun d => d.push (result (.mfsr h o) s 1 true ((found h s).dstS o.a) (v.setWidth 512)))) none
      (fun t => t.updCtx s.cur.1 s.cur.2 (stepsTo ((found h s).isel.toNat % 2 ^ 14 + 1)))) := by
  have hisel : (atIssue (.mfsr h o) true s).isel = (found h s).isel := passed_isel ..
  have hval : srValue (issuing (.mfsr h o) true s) s.cur.1 s.cur.2 (srCode o) = v := by
    rw [hk, srValue, ctx_issuing, itemIndex_eq, hisel]
    show (readItem _ _ _ _).getD 0 = v
    rw [hv]
    rfl
  rw [exec_mfsr hf hc hval]
  refine congrArg Host.Outcome.next (issued_congr_fin ?_)
  rw [fin_semMfsr, if_pos hk, here_core, here_slot]
  refine State.updCtx_congr ?_
  have hi := proj_ending (i := .mfsr h o) (al := true) (s := s) (g := none) (eff := fun t => t.updCtx s.cur.1 s.cur.2 (fun d => d.push
    (result (.mfsr h o) s 1 true ((found h s).dstS o.a) (v.setWidth 512)))) Ctx.isel (fun _ => rfl)
  rw [State.ctx_updCtx, ctx_issuing] at hi
  rw [stepIndex_eq, hi.trans hisel]

/-- An index that names an item of the user state reads it (R181). -/
theorem exec_mfsr_user (hf : free h s = true) (hs : (found h s).sup = true) (hi : o.imm = 0x021) {k : Nat} {v : Word}
    (hk : (found h s).isel.toNat % 2 ^ 14 = k) (hlt : k < 0x1000)
    (hv : itemOf (atIssue (.mfsr h o) true s).a (s.core s.cur.1).ops s.cur.2 (found h s).nacc k = some v) :
    exec (.mfsr h o) s = .next (issued (.mfsr h o) true s
      (fun t => t.updCtx s.cur.1 s.cur.2 (fun d => d.push (result (.mfsr h o) s 1 true ((found h s).dstS o.a) (v.setWidth 512)))) none
      (fun t => t.updCtx s.cur.1 s.cur.2 (stepsTo ((found h s).isel.toNat % 2 ^ 14 + 1)))) := by
  have hcode : srCode o = 0x021 := by rw [srCode, hi]; rfl
  have hsome : (readItem (judged h s) s.cur.1 s.cur.2 k).isNone = false := by
    rw [readItem_judged h hlt, Option.isNone_eq_false_iff, ← Option.ne_none_iff_isSome, ne_eq, itemOf_eq_none _ _ _ _ _ hlt,
      ← itemOf_eq_none (atIssue (.mfsr h o) true s).a (s.core s.cur.1).ops s.cur.2 (found h s).nacc _ hlt, hv]
    exact Option.some_ne_none v
  refine exec_mfsr_item hf ?_ hcode ?_
  · have hbits : bits o.imm 12 21 = 0 := by rw [hi]; rfl
    simp only [mfsrErr, ctx_judged, hcode, hbits, itemIndex_eq, hk, hsome, hs]
    rfl
  · rw [hk, readItem_issuing _ _ hlt]
    exact hv

/-- The check of an access of sr.idat fails for an index that names no item (R181). -/
theorem mfsrErr_item (hs : (found h s).sup = true) (hi : o.imm = 0x021) {k : Nat} (hk : (found h s).isel.toNat % 2 ^ 14 = k) :
    mfsrErr o (judged h s) s.cur.1 s.cur.2 = if (readItem (judged h s) s.cur.1 s.cur.2 k).isNone then some { code := 0x72, tval := 0x021 } else none := by
  have hcode : srCode o = 0x021 := by rw [srCode, hi]; rfl
  have hbits : bits o.imm 12 21 = 0 := by rw [hi]; rfl
  simp only [mfsrErr, ctx_judged, hcode, hbits, itemIndex_eq, hk, hs, true_and]
  rfl

/-- A register that mode and code let `mfsr` read, and that is not sr.idat (R174). -/
theorem mfsrErr_register (hb : bits o.imm 12 21 = 0) (hk : srCode o ≠ 0x021)
    (hkind : srKind (srCode o) = .userRo ∨ (found h s).sup = true ∧ (srKind (srCode o) = .supRo ∨ srKind (srCode o) = .supRw)) :
    mfsrErr o (judged h s) s.cur.1 s.cur.2 = none := by
  have hidx : ¬(srCode o = 0x021 ∧ (readItem (judged h s) s.cur.1 s.cur.2 (found h s).itemIndex).isNone = true) := fun h => hk h.1
  unfold mfsrErr
  dsimp only
  rw [if_neg (not_not.mpr hb), ctx_judged, if_neg hidx]
  obtain hu | ⟨hs, hr | hr⟩ := hkind
  · rw [hu]
  · rw [hr, hs]
    rfl
  · rw [hr, hs]
    rfl

/-- `mfsr` of a register other than sr.idat gives what the context finds in it (R174 to R180). -/
theorem exec_mfsr_code (hf : free h s = true) {k : Nat} (hi : o.imm = k) (hb : k < 0x021)
    (hkind : srKind k = .userRo ∨ (found h s).sup = true ∧ (srKind k = .supRo ∨ srKind k = .supRw)) {v : Word}
    (hv : srValue (issuing (.mfsr h o) true s) s.cur.1 s.cur.2 k = v) : exec (.mfsr h o) s = .next (writesS (.mfsr h o) s 1 o.a v) := by
  have hcode : srCode o = k := by
    rw [srCode, hi, bits]
    omega
  have hbits : bits o.imm 12 21 = 0 := by
    rw [hi, bits]
    omega
  exact exec_mfsr_gives hf (mfsrErr_register hbits (by omega) (by rw [hcode]; exact hkind)) (by omega) (by rw [hcode]; exact hv)

end

/-! ### What the registers hold -/

section
variable (h : Head) (o : SI) (s : State)

/-- What an issue leaves of user state, each item's registers among it. -/
theorem a_atIssue (i : Instr) (al : Bool) : (atIssue i al s).a =
    { (found (headOf i) s).a with pend := (atIssue i al s).a.pend, claims := (atIssue i al s).a.claims, tg := (atIssue i al s).a.tg,
                                  rem := (atIssue i al s).a.rem } :=
  congrArg Ctx.a (passed_eq ..)

theorem length_validWords (a : Arch) : (validWords a).length = (List.range 8).countP (fun n => (a.item n 0).getLsbD 63) := by
  rw [validWords, ← List.countP_eq_length_filter]
  congr 1
  funext n
  have := (a.item n 0).isLt
  rw [Arch.progValid, fld, bits, BitVec.getLsbD, Nat.testBit_eq_decide_div_mod_eq, pow_one]
  rfl

theorem status_atIssue (i : Instr) (al : Bool) : statusWord (atIssue i al s) = .ofNat 64 ((if (found (headOf i) s).sup then 1 else 0) +
    (if (found (headOf i) s).ypend then 2 else 0) + 256 * ((List.range 8).countP (fun n => ((found (headOf i) s).a.item n 0).getLsbD 63))) := by
  have hsup : (atIssue i al s).sup = (found (headOf i) s).sup := passed_sup ..
  have hy : (atIssue i al s).ypend = (found (headOf i) s).ypend := passed_ypend ..
  have hw : validWords (atIssue i al s).a = validWords (found (headOf i) s).a := by
    rw [a_atIssue]
    rfl
  rw [statusWord, hsup, hy, hw, length_validWords, nw, Nat.mul_comm 256]
  congr 2
  cases (found (headOf i) s).ypend <;> rfl

theorem ctxWord_atIssue (i : Instr) (al : Bool) (slot : Nat) : ctxWord (atIssue i al s) slot = ctxWord (found (headOf i) s) slot := by
  simp [ctxWord, atIssue]

/-- The fields of sr.fix (R180). -/
theorem fixWord_fields {c : Ctx} {core slot : Nat} (hc : s.ctx core slot = c) :
    (fixWord s core slot).getLsbD 0 = (c.fixCur % 2 == 1) ∧ (fixWord s core slot).getLsbD 1 = c.fixOpen ∧
      (fixWord s core slot).getLsbD 8 = c.win ∧ (fixWord s core slot).toNat / 2 ^ 16 = c.nfog % 2 ^ 16 := by
  have hg : gatedClosed s core slot < 64 := by
    exact Nat.lt_succ_of_le (Nat.min_le_left ..)
  obtain ⟨x, hx, hv⟩ : ∃ x, x = c.fixCur % 2 + oneIf c.fixOpen * 2 + gatedClosed s core slot * 2 ^ 2 + oneIf c.win * 2 ^ 8 + c.nfog % 2 ^ 16 * 2 ^ 16 ∧
      fixWord s core slot = nw x := ⟨_, rfl, by rw [fixWord, hc]⟩
  have ho : oneIf c.fixOpen < 2 := by cases c.fixOpen <;> decide
  have hw : oneIf c.win < 2 := by cases c.win <;> decide
  have hnat : (fixWord s core slot).toNat = x := by
    rw [hv, nw, BitVec.toNat_ofNat]
    omega
  have hbit (j : Nat) : (fixWord s core slot).getLsbD j = decide (x / 2 ^ j % 2 = 1) := by
    rw [BitVec.getLsbD, hnat, Nat.testBit_eq_decide_div_mod_eq]
  have hone (b : Bool) (n : Nat) (hb : n = oneIf b) : decide (n = 1) = b := by
    subst hb
    cases b <;> rfl
  refine ⟨?_, ?_, ?_, ?_⟩
  · rw [hbit, beq_eq_decide, decide_eq_decide]
    omega
  · rw [hbit]
    exact hone _ _ (by omega)
  · rw [hbit]
    exact hone _ _ (by omega)
  · rw [hnat]
    omega

theorem srKind_progress {n : Nat} (hn : n < 8) : srKind (0x010 + n) = .supRw := by
  interval_cases n <;> rfl

theorem srValue_progress {n : Nat} (hn : n < 8) (core slot : Nat) : srValue s core slot (0x010 + n) = (s.ctx core slot).a.item n 0 := by
  interval_cases n <;> rfl

/-- An issue leaves the counts of the tags that it does not name. -/
theorem tg_atIssue (i : Instr) (al : Bool) {m : Nat} (hm : m ≠ (headOf i).atag) :
    (atIssue i al s).a.tg.get m 0 = (found (headOf i) s).a.tg.get m 0 := by
  unfold atIssue passed
  generalize [(headOf i).w0, (headOf i).w1].filter (· != 0) = l
  generalize tilesNamed [(here i s, slotSem i)] (judged (headOf i) s) = tl
  have ht : (observe l tl (found (headOf i) s)).tick.a.tg = (found (headOf i) s).a.tg := by
    unfold Ctx.tick
    dsimp only
    split <;> rfl
  have ha (c : Ctx) : (c.allocTag (headOf i).atag).a.tg.get m 0 = c.a.tg.get m 0 := by
    unfold Ctx.allocTag
    split
    · rfl
    · dsimp only
      exact Tab.get_set_other _ _ _ _ _ _ hm
  have hr (c : Ctx) (r : Tab Remembered) : (c.setRem r).a.tg = c.a.tg := by
    unfold Ctx.setRem
    split <;> rfl
  cases al <;> by_cases h3 : (headOf i).slot = .S <;> simp only [h3, if_true, if_false, Bool.false_eq_true, hr, ha, ht]

theorem levelItem_first (l : Level) : levelItem l 0 = .ofNat 64 (l.count % 2 ^ 32 + (if l.active then 2 ^ 32 else 0)) := by
  unfold levelItem oneIf nw
  cases l.active <;> rfl

end

/-- Settles O15: a register's value, or that of the item that the index names, as the issue finds them. -/
theorem systemReads : Obligations.SystemReads := by
  unfold Obligations.SystemReads
  intro h o s hf _ c n item gives
  have hval (k : Nat) (v : Ctx → Word) (hv : ∀ u : State, srValue u s.cur.1 s.cur.2 k = v (u.ctx s.cur.1 s.cur.2)) :
      srValue (issuing (.mfsr h o) true s) s.cur.1 s.cur.2 k = v (atIssue (.mfsr h o) true s) := by rw [hv, ctx_issuing]
  have ha := a_atIssue s (.mfsr h o) true
  refine ⟨fun hi => ?_, fun hi => ?_, fun hs => ⟨fun hi => ?_, fun hi => ?_, fun hi => ?_, fun hi => ?_, fun hi => ?_, fun hi => ?_, fun m hm hi => ?_, fun hi => ?_, fun hi => ?_⟩⟩
  · exact exec_mfsr_code hf hi (by decide) (.inl rfl) ((hval _ statusWord fun _ => rfl).trans (status_atIssue s _ true))
  · exact exec_mfsr_code hf hi (by decide) (.inl rfl) ((hval _ (ctxWord · s.cur.2) fun _ => rfl).trans (ctxWord_atIssue s _ true _))
  · exact exec_mfsr_code hf hi (by decide) (.inr ⟨hs, .inr rfl⟩) ((hval _ Ctx.cause fun _ => rfl).trans (passed_cause ..))
  · exact exec_mfsr_code hf hi (by decide) (.inr ⟨hs, .inr rfl⟩) ((hval _ Ctx.epc fun _ => rfl).trans (passed_epc ..))
  · exact exec_mfsr_code hf hi (by decide) (.inr ⟨hs, .inr rfl⟩) ((hval _ Ctx.tval fun _ => rfl).trans (passed_tval ..))
  · exact exec_mfsr_code hf hi (by decide) (.inr ⟨hs, .inl rfl⟩) ((hval _ (nw ·.vec) fun _ => rfl).trans (congrArg nw (passed_vec ..)))
  · exact exec_mfsr_code hf hi (by decide) (.inr ⟨hs, .inr rfl⟩) ((hval _ Ctx.tinst fun _ => rfl).trans (passed_tinst ..))
  · exact exec_mfsr_code hf hi (by decide) (.inr ⟨hs, .inr rfl⟩) ((hval _ Ctx.isel fun _ => rfl).trans (passed_isel ..))
  · refine exec_mfsr_code hf hi (by omega) (.inr ⟨hs, .inr (srKind_progress hm)⟩) ((hval _ (·.a.item m 0) fun _ => srValue_progress _ hm _ _).trans ?_)
    rw [ha]
    rfl
  · have hfix := fixWord_fields (issuing (.mfsr h o) true s) (ctx_issuing (.mfsr h o) true s)
    rw [show (atIssue (.mfsr h o) true s).fixCur = c.fixCur from passed_fixCur .., show (atIssue (.mfsr h o) true s).fixOpen = c.fixOpen from passed_fixOpen ..,
      show (atIssue (.mfsr h o) true s).win = c.win from passed_win .., show (atIssue (.mfsr h o) true s).nfog = c.nfog from passed_nfog ..] at hfix
    exact ⟨fixWord (issuing (.mfsr h o) true s) s.cur.1 s.cur.2, exec_mfsr_code hf hi (by decide) (.inr ⟨hs, .inl rfl⟩) rfl, hfix⟩
  · have huser {k : Nat} {v : Word} (hk : n = k) (hlt : k < 0x1000)
        (hv : itemOf (atIssue (.mfsr h o) true s).a (s.core s.cur.1).ops s.cur.2 c.nacc k = some v) : item v :=
      exec_mfsr_user hf hs hi hk hlt hv
    rw [ha] at huser
    have hcode : srCode o = 0x021 := by rw [srCode, hi]; rfl
    refine ⟨fun hops m hm => ⟨fun hk => huser hk (by omega) ?_, fun hk => huser hk (by omega) ?_⟩, fun m hm hk => huser hk (by omega) ?_,
      fun m hm hk => huser hk (by omega) ?_, fun m hm => ⟨fun hk => huser hk (by omega) ?_, fun hk => huser hk (by omega) ?_⟩,
      fun m h0 hm ht hk => huser hk (by omega) ?_,
      fun m hm => ⟨fun hk => huser hk (by omega) ?_, fun hk => huser hk (by omega) ?_, fun hk => huser hk (by omega) ?_⟩,
      fun hk => huser hk (by omega) rfl, fun hk => huser hk (by omega) rfl, fun hk => huser hk (by omega) rfl, fun hk => huser hk (by omega) rfl,
      fun hk => huser hk (by omega) rfl, fun hk => huser hk (by omega) rfl, fun hk => huser hk (by omega) rfl, fun hk => huser hk (by omega) rfl,
      fun hk => huser hk (by omega) rfl, fun hk => huser hk (by omega) rfl, fun hk => huser hk (by omega) rfl, fun hk => huser hk (by omega) rfl,
      fun m hm hk => huser hk (by omega) ?_, fun m j hm hj hk => huser hk (by omega) ?_, fun hk => huser hk (by omega) rfl,
      fun m h0 hm hk => huser hk (by omega) ?_, fun hk => huser hk (by omega) rfl, fun m x h0 hm => ⟨fun hx hk => ?_, fun hx hk => ?_⟩, fun hno => ?_⟩
    · rw [hops]
      exact itemOf_descLow _ _ _ _ hm
    · rw [hops]
      exact itemOf_descHigh _ _ _ _ hm
    · exact itemOf_status _ _ _ _ _ hm
    · exact itemOf_accStatus _ _ _ _ _ hm
    · exact itemOf_capLow _ _ _ _ _ hm
    · exact itemOf_capHigh _ _ _ _ _ hm
    · rw [itemOf_tag _ _ _ _ _ h0 hm]
      exact congrArg (fun x => some (BitVec.ofNat 64 x)) (tg_atIssue s (.mfsr h o) true ht)
    · exact (itemOf_level _ _ _ _ _ 0 hm (by decide)).trans (congrArg some (levelItem_first _))
    · exact itemOf_level _ _ _ _ _ 1 hm (by decide)
    · exact itemOf_level _ _ _ _ _ 2 hm (by decide)
    · exact itemOf_handoff _ _ _ _ _ hm
    · exact itemOf_progress _ _ _ _ _ j hm hj
    · exact itemOf_scalar _ _ _ _ _ h0 hm
    · have hj := (readItem_shadow (u := judged h s) (core := s.cur.1) (slot := s.cur.2) h0 hm).1 (by rw [ctx_judged]; exact hx)
      have hr := (readItem_shadow (u := issuing (.mfsr h o) true s) (core := s.cur.1) (slot := s.cur.2) h0 hm).1
        (by rw [ctx_issuing]; exact (passed_sh0 ..).trans hx)
      exact exec_mfsr_item hf (by rw [mfsrErr_item hs hi hk, hj]; rfl) hcode (by rw [show c.isel.toNat % 2 ^ 14 = _ from hk]; exact hr)
    · have hj := (readItem_shadow (u := judged h s) (core := s.cur.1) (slot := s.cur.2) h0 hm).2 (by rw [ctx_judged]; exact hx)
      have hr := (readItem_shadow (u := issuing (.mfsr h o) true s) (core := s.cur.1) (slot := s.cur.2) h0 hm).2
        (by rw [ctx_issuing]; exact (passed_sh1 ..).trans hx)
      exact exec_mfsr_item hf (by rw [mfsrErr_item hs hi hk, hj]; rfl) hcode (by rw [show c.isel.toNat % 2 ^ 14 = _ from hk]; exact hr)
    · refine exec_fails (i := .mfsr h o) (m := semMfsr o) { code := 0x72, tval := 0x021 } rfl hf ?_
      show mfsrErr o (judged h s) s.cur.1 s.cur.2 = _
      rw [mfsrErr_item hs hi rfl, readItem_noItem h hno]
      rfl

end Sys2Proof.Machine

/-! ## Writes of system registers (R176 to R183) -/

namespace Sys2Proof.Machine

section
variable {h : Head} {o : SI} {s : State}

theorem fin_semMtsr (p : At) (t : State) : (semMtsr o).fin p t = srWrite t p.core p.slot (srCode o) ((p.ctx t).getS o.a) := rfl

/-- `mtsr` whose check passes writes its register at the end of its bundle (R183). -/
theorem exec_mtsr (hf : free h s = true) (hc : mtsrErr o (judged h s) s.cur.1 s.cur.2 = none) {f : Ctx → Ctx}
    (hw : ∀ u : State, (u.ctx s.cur.1 s.cur.2).isel = (found h s).isel → (u.ctx s.cur.1 s.cur.2).nacc = (found h s).nacc →
      srWrite u s.cur.1 s.cur.2 (srCode o) ((found h s).getS o.a) = u.updCtx s.cur.1 s.cur.2 f) :
    exec (.mtsr h o) s = .next (issued (.mtsr h o) false s id none (fun t => t.updCtx s.cur.1 s.cur.2 f)) := by
  have hp := passes_plain (.mtsr h o) s (semMtsr o) rfl hc rfl rfl (fun _ => rfl) rfl rfl nofun
  have hi := issueOne_passes (.mtsr h o) s hf hp
  refine congrArg Host.Outcome.next (hi.trans (issued_congr_fin ?_))
  have hctx {α : Type} (g : Ctx → α) (hg : ∀ c, g c.settled = g c) :
      g ((ending (.mtsr h o) false s id none).ctx s.cur.1 s.cur.2) = g (atIssue (.mtsr h o) false s) := by
    rw [proj_ending g hg, id, ctx_issuing]
  have hv : ((ending (.mtsr h o) false s id none).ctx s.cur.1 s.cur.2).getS o.a = (found h s).getS o.a :=
    (hctx (·.getS o.a) (fun _ => rfl)).trans (atIssue_getS ..)
  show (semMtsr o).fin (here (.mtsr h o) s) (ending (.mtsr h o) false s id none) = _
  rw [fin_semMtsr, here_ctx, here_core, here_slot, hv]
  exact hw _ ((hctx Ctx.isel fun _ => rfl).trans (passed_isel ..)) ((hctx Ctx.nacc fun _ => rfl).trans (passed_nacc ..))

/-- The check of `mtsr` in supervisor mode for a register that it may write (R174, R181). -/
theorem mtsrErr_sup (hs : (found h s).sup = true) {k : Nat} (hi : o.imm = k) (hb : k < 2 ^ 12) (hk : srKind k = .supRw)
    (hidx : k = 0x021 → ¬(0x1000 ≤ (found h s).isel.toNat % 2 ^ 14 ∨ (readItem (judged h s) s.cur.1 s.cur.2 ((found h s).isel.toNat % 2 ^ 14)).isNone)) :
    mtsrErr o (judged h s) s.cur.1 s.cur.2 = none := by
  have hcode : srCode o = k := by
    rw [srCode, hi, bits]
    omega
  have hbits : bits o.imm 12 21 = 0 := by
    rw [hi, bits]
    omega
  unfold mtsrErr
  dsimp only
  rw [ctx_judged, hs, if_neg nofun, if_neg (not_not.mpr hbits), hcode, hk, itemIndex_eq]
  exact if_neg fun h => hidx h.1 h.2

/-- An index that names no item, or one of a shadow set, fails the check of a write of sr.idat (R181). -/
theorem mtsrErr_noItem (hs : (found h s).sup = true) (hi : o.imm = 0x021)
    (hn : noItem ((found h s).isel.toNat % 2 ^ 14) = true ∨ 0x1000 ≤ (found h s).isel.toNat % 2 ^ 14) :
    mtsrErr o (judged h s) s.cur.1 s.cur.2 = some { code := 0x72, tval := 0x021 } := by
  have hcode : srCode o = 0x021 := by rw [srCode, hi]; rfl
  have hbits : bits o.imm 12 21 = 0 := by rw [hi]; rfl
  have hbad : 0x1000 ≤ (found h s).isel.toNat % 2 ^ 14 ∨ (readItem (judged h s) s.cur.1 s.cur.2 ((found h s).isel.toNat % 2 ^ 14)).isNone = true := by
    rcases hn with hn | hn
    · right
      rw [readItem_noItem h hn]
      rfl
    · exact .inl hn
  unfold mtsrErr
  dsimp only
  rw [ctx_judged, hs, if_neg nofun, if_neg (not_not.mpr hbits), hcode, itemIndex_eq]
  exact if_pos ⟨rfl, hbad⟩

/-- A write of a register other than sr.idat (R176 to R180). -/
theorem exec_mtsr_code (hf : free h s = true) (hs : (found h s).sup = true) {k : Nat} (hi : o.imm = k) (hb : k < 0x021) (hk : srKind k = .supRw)
    {f : Ctx → Ctx} (hw : ∀ u : State, srWrite u s.cur.1 s.cur.2 k ((found h s).getS o.a) = u.updCtx s.cur.1 s.cur.2 f) :
    exec (.mtsr h o) s = .next (issued (.mtsr h o) false s id none (fun t => t.updCtx s.cur.1 s.cur.2 f)) := by
  have hcode : srCode o = k := by
    rw [srCode, hi, bits]
    omega
  exact exec_mtsr hf (mtsrErr_sup hs hi (by omega) hk (fun h => by omega)) (fun u _ _ => by rw [hcode, hw])

/-- A write of the item that the index names, which then steps (R181). -/
theorem exec_mtsr_item (hf : free h s = true) (hs : (found h s).sup = true) (hi : o.imm = 0x021) {k : Nat}
    (hk : (found h s).isel.toNat % 2 ^ 14 = k) (hlt : k < 0x1000) (hno : noItem k = false) {f : Arch → Arch}
    (hw : ∀ (a : Arch) (now : Nat), setItemOf a (found h s).nacc now k ((found h s).getS o.a) = f a) :
    exec (.mtsr h o) s = .next (issued (.mtsr h o) false s id none
      (fun t => t.updCtx s.cur.1 s.cur.2 (fun d => stepsTo ((found h s).isel.toNat % 2 ^ 14 + 1) { d with a := f d.a }))) := by
  have hcode : srCode o = 0x021 := by rw [srCode, hi]; rfl
  refine exec_mtsr hf (mtsrErr_sup hs hi (by decide) rfl fun _ => ?_) fun u hsel hnacc => ?_
  · rw [hk, readItem_judged h hlt, Option.isNone_iff_eq_none, itemOf_eq_none _ _ _ _ _ hlt, hno]
    rintro (h | h)
    · omega
    · cases h
  · rw [hcode]
    refine State.updCtx_congr ?_
    show Ctx.stepIndex _ = _
    rw [stepIndex_eq, itemIndex_eq, hsel, hnacc, hk, hw]

/-- A number given to a progress word through its own register (R176). -/
theorem srWrite_progress {m : Nat} (hm : m < 8) (u : State) (core slot : Nat) (v : Word) : srWrite u core slot (0x010 + m) v =
    u.updCtx core slot (fun d => { d with a := d.a.setItem m 0 (.ofNat 64 (v.toNat % 2 ^ 44 + v.toNat / 2 ^ 63 * 2 ^ 63)) }) := by
  have hset (d : Ctx) := setItemOf_progFirst d.a d.nacc 0 m v hm
  refine State.updCtx_congr ?_
  rw [← hset]
  interval_cases m <;> rfl

end

/-- Settles O16: each register or item takes its value at the end of the bundle, its reserved fields discarded. -/
theorem systemWrites : Obligations.SystemWrites := by
  unfold Obligations.SystemWrites
  intro h o s hf c v sets n item low high x hs
  refine ⟨fun hi => ?_, fun hi => ?_, fun hi => ?_, fun hi => ?_, fun hi => ?_, fun m hm hi => ?_, fun hi => ?_⟩
  · exact exec_mtsr_code hf hs hi (by decide) rfl fun _ => rfl
  · exact exec_mtsr_code hf hs hi (by decide) rfl fun _ => rfl
  · exact exec_mtsr_code hf hs hi (by decide) rfl fun _ => rfl
  · exact exec_mtsr_code hf hs hi (by decide) rfl fun _ => rfl
  · refine exec_mtsr_code hf hs hi (by decide) rfl fun _ => ?_
    rfl
  · exact exec_mtsr_code hf hs hi (by omega) (srKind_progress hm) fun u => srWrite_progress hm ..
  · have hitem {k : Nat} {f : Arch → Arch} (hk : n = k) (hlt : k < 0x341) (hrow : k < 0x0C8 ∨ 0x100 ≤ k ∧ k < 0x120 ∨ 0x120 < k ∧ k < 0x15F ∨
        0x160 ≤ k ∧ k < 0x164 ∨ 0x168 ≤ k ∧ k < 0x17A ∨ 0x198 ≤ k ∧ k < 0x1A0 ∨ 0x200 ≤ k ∧ k < 0x280 ∨ 0x300 ≤ k)
        (hw : ∀ (a : Arch) (now : Nat), setItemOf a c.nacc now k v = f a) : item f := by
      refine exec_mtsr_item hf hs hi hk (by omega) ?_ hw
      rw [← Bool.not_eq_true, noItem_iff]
      omega
    have hfmt : BitVec.ofNat 18 (BitVec.ofNat 64 (v.toNat % 2 ^ 11)).toNat = BitVec.ofNat 18 (x % 2 ^ 11) := by
      refine congrArg _ ?_
      rw [BitVec.toNat_ofNat]
      omega
    have hnot : noItem n = true ∨ 0x1000 ≤ n → exec (.mtsr h o) s =
        .next (failBundle (judged h s) s.cur.1 s.cur.2 0x72 0x021 h.slot.num 0 (pcOf s + 1)) := by
      intro hno
      exact exec_fails (i := .mtsr h o) (m := semMtsr o) { code := 0x72, tval := 0x021 } rfl hf (mtsrErr_noItem hs hi hno)
    clear_value item
    exact ⟨fun m hm => ⟨fun hk => hitem hk (by omega) (by omega) fun _ _ => setItemOf_descLow _ _ _ _ _ hm,
        fun hk => hitem hk (by omega) (by omega) fun _ _ => setItemOf_descHigh _ _ _ _ _ hm⟩,
      fun m hm hk => hitem hk (by omega) (by omega) fun _ _ => setItemOf_status _ _ _ _ _ hm,
      fun m hm hk => hitem hk (by omega) (by omega) fun _ _ => setItemOf_accStatus _ _ _ _ _ hm,
      fun m hm => ⟨fun hk => hitem hk (by omega) (by omega) fun _ _ => setItemOf_capLow _ _ _ _ _ hm,
        fun hk => hitem hk (by omega) (by omega) fun _ _ => setItemOf_capHigh _ _ _ _ _ hm⟩,
      fun m h0 hm hk => hitem hk (by omega) (by omega) fun _ _ => setItemOf_tag _ _ _ _ _ hm,
      fun hk => hitem hk (by omega) (by omega) fun _ _ => setItemOf_reps .., fun hk => hitem hk (by omega) (by omega) fun _ _ => setItemOf_stepC0 ..,
      fun hk => hitem hk (by omega) (by omega) fun _ _ => setItemOf_stepC1 .., fun hk => hitem hk (by omega) (by omega) fun _ _ => setItemOf_hnext ..,
      fun hk => hitem hk (by omega) (by omega) fun a now => (setItemOf_format a _ now 0 v (by decide)).trans (congrArg (fun r => { a with fa := r }) hfmt),
      fun hk => hitem hk (by omega) (by omega) fun a now => (setItemOf_format a _ now 1 v (by decide)).trans (congrArg (fun r => { a with fw := r }) hfmt),
      fun hk => hitem hk (by omega) (by omega) fun a now => (setItemOf_format a _ now 2 v (by decide)).trans (congrArg (fun r => { a with fo := r }) hfmt),
      fun hk => hitem hk (by omega) (by omega) fun a now => (setItemOf_format a _ now 3 v (by decide)).trans (congrArg (fun r => { a with fv := r }) hfmt),
      fun hk => hitem hk (by omega) (by omega) fun _ _ => setItemOf_seed ..,
      fun m hm hk => hitem hk (by omega) (by omega) fun _ _ => setItemOf_handoff _ _ _ _ _ hm,
      fun m hm hk => hitem hk (by omega) (by omega) fun _ _ => setItemOf_progFirst _ _ _ _ _ hm,
      fun m j hm hj hk => hitem hk (by omega) (by omega) fun _ _ => setItemOf_progress _ _ _ _ _ j hm hj,
      fun hk => hitem hk (by omega) (by omega) fun _ _ => setItemOf_zero ..,
      fun m h0 hm hk => hitem hk (by omega) (by omega) fun _ _ => setItemOf_scalar _ _ _ _ _ h0 hm,
      fun hk => hitem hk (by omega) (by omega) fun _ _ => setItemOf_predicates .., hnot⟩

end Sys2Proof.Machine

/-! ## Slots that start an engine operation, vector operations and copies (R119, R191, R229, R233) -/

namespace Sys2Proof.Machine

/-- The meaning of a slot whose issue does nothing but start an engine operation, copies among them. -/
structure StartsThread (i : Instr) : Prop where
  exec (s : State) : exec i s = .next (issueOne i (slotSem i) s)
  lat : (slotSem i).lat = .engine
  eff : (slotSem i).eff = startOp
  goes (p : At) (t : State) : (slotSem i).goes p t = none
  fin (p : At) : (slotSem i).fin p = id

/-! ### What a launch does to the source of an outbound copy -/

/-- A tile whose state is set has that state. -/
theorem tstate_setTstate_same (a : Arch) (t v : Nat) (ht : t < 64) (hv : v < 4) : (a.setTstate t v).tstate t = v := by
  unfold Arch.setTstate Arch.tstate
  simp [Arch.setDesc, Arch.desc, dState, ht, fld_setFld_same, Nat.mod_eq_of_lt hv]

/-- The source of an outbound copy is draining from its launch on (R191). -/
theorem tstate_takesTiles_source (o : EOp) (c : Ctx) (u : Nat) (con : Bool) (ho : o.outSource = some (u, con)) (hu : u < 64) :
    (o.takesTiles c).a.tstate u = 3 := by
  simp only [EOp.takesTiles, ho]
  exact tstate_setTstate_same _ _ _ hu (by decide)

theorem drains_startOp (p : At) (s : State) (hp : p.on = true) {u : Nat} {con : Bool} (ho : (opOf s p).outSource = some (u, con))
    (hu : u < 64) : ((startOp p s).ctx p.core p.slot).a.tstate u = 3 := by
  have hlaunch : ((launch s p.core (opOf s p)).ctx p.core p.slot).a.tstate u = 3 := by
    rw [launch_eq s p.core _ (by simp [opOf, hp])]
    have hctx := State.ctx_updCtx (s.setCore p.core (Core.takes s p.core (opOf s p))) p.core p.slot (opOf s p).takesTiles
    exact (congrArg (fun c : Ctx => c.a.tstate u) hctx).trans (tstate_takesTiles_source _ _ u con ho hu)
  unfold startOp
  dsimp only
  split
  · exact hlaunch
  · rw [State.ctx_updCtx]
    exact hlaunch

/-! ### What it captures -/

/-- Every operation captures the format state of its context (R119, R145, R149). -/
theorem capture_formats (s : State) (p : At) :
    let a := (p.ctx s).a
    let e := capture s p
    e.fa = a.fa ∧ e.fw = a.fw ∧ e.fo = a.fo ∧ e.fv = a.fv ∧ e.fs = a.fs ∧ e.rm = a.rm ∧ e.seed = a.seed ∧ e.draw = a.draw ∧
      e.cbsel = a.cbsel ∧ e.cbA = a.cbA ∧ e.cbW = a.cbW := by
  unfold capture
  dsimp only
  split <;> exact ⟨rfl, rfl, rfl, rfl, rfl, rfl, rfl, rfl, rfl, rfl, rfl⟩

/-- A copy captures its memory offset and s[Y] (R233). -/
theorem capture_copy (s : State) (p : At) {o : CP} (ho : copyOf p.ins = some o) :
    (capture s p).off = copyOff (p.ctx s).a o p.sl p.k ∧ (capture s p).yval = (p.ctx s).a.s.get o.y 0 := by
  unfold capture opYval
  simp only [ho, and_self]

/-- The first issue of a copy takes no step (R233). -/
theorem copyOff_zero (a : Arch) (o : CP) (sl : Nat) :
    copyOff a o sl 0 = a.s.get o.x 0 + (BitVec.ofNat 14 o.off).signExtend 64 := by
  rw [copyOff, sext64_eq_signExtend]
  simp

theorem desc_atIssue (i : Instr) (al : Bool) (s : State) (u : Nat) : (atIssue i al s).a.desc u = (found (headOf i) s).a.desc u := by
  simp [atIssue, Arch.desc]

/-- The operation that a lone slot starts is the last that its engine holds (R91, R119). -/
theorem ops_started (i : Instr) (s : State) :
    ((issued i true s (startOp (here i s)) none id).core s.cur.1).ops =
      (s.core s.cur.1).ops ++ [(opOfLone i s).taken (issuing i true s) s.cur.1] := by
  have hst := started_startOp (here i s) (issuing i true s) rfl
  have ho : ((startOp (here i s) (issuing i true s)).core s.cur.1).ops =
    ((issuing i true s).core s.cur.1).ops ++ [(opOfLone i s).taken (issuing i true s) s.cur.1] := hst.ops
  rw [ops_issued, ho, ops_issuing]

section
variable {i : Instr} {s : State} (hi : StartsThread i) (hf : free (headOf i) s = true) (hp : passes i s = true)
include hi hf hp

theorem StartsThread.exec_eq : Machine.exec i s = .next (issued i true s (startOp (here i s)) none id) := by
  rw [hi.exec, issueOne_effect i s (slotSem i) true rfl hf hp (by rw [hi.lat]; rfl) hi.goes (hi.fin _), hi.eff]

/-- It starts its operation with the formats in force; what it writes is filling and its source draining (R119, R191). -/
theorem StartsThread.starts {fills drains : List Nat}
    (hfill : ∀ u ∈ fills, (opOfLone i s).outSource = none ∧ u ∈ (opOfLone i s).written)
    (hdrain : ∀ u ∈ drains, u < 64 ∧ ∃ con, (opOfLone i s).outSource = some (u, con)) :
    Starts i s (isGated i) fills drains := by
  have hst := started_startOp (here i s) (issuing i true s) rfl
  refine ⟨_, (opOfLone i s).taken (issuing i true s) s.cur.1, hi.exec_eq hf hp, ops_started i s,
    ⟨rfl, rfl, rfl, rfl, rfl, rfl, rfl, rfl, gated_opOfLone i s⟩, ?formats, fun u hm => ?fills, fun u hm => ?drains⟩
  case formats =>
    have hcap : ((opOfLone i s).taken (issuing i true s) s.cur.1).cap = capture (issuing i true s) (here i s) := rfl
    have ha : capFmt (((here i s).ctx (issuing i true s)).a) = capFmt (found (headOf i) s).a := by
      rw [here_ctx, ctx_issuing, capFmt_atIssue]
    simp only [capFmt, Cap.mk.injEq] at ha
    rw [hcap]
    simpa [ha] using capture_formats (issuing i true s) (here i s)
  case fills =>
    obtain ⟨hsource, hwritten⟩ := hfill u hm
    rw [tstate_issued hst.cur]
    exact hst.tiles hsource u hwritten
  case drains =>
    obtain ⟨hlt, con, hsource⟩ := hdrain u hm
    rw [tstate_issued hst.cur]
    exact drains_startOp (here i s) (issuing i true s) rfl hsource hlt

/-- A copy goes to its engine with its memory offset and s[Y] (R233). -/
theorem StartsThread.captures {o : CP} (ho : copyOf i = some o) :
    ∃ t e, Machine.exec i s = .next t ∧ (t.core s.cur.1).ops = (s.core s.cur.1).ops ++ [e] ∧ e.copy = true ∧
      e.cap.off = (found (headOf i) s).a.s.get o.x 0 + (BitVec.ofNat 14 o.off).signExtend 64 ∧
      e.cap.yval = (found (headOf i) s).a.s.get o.y 0 := by
  refine ⟨_, (opOfLone i s).taken (issuing i true s) s.cur.1, hi.exec_eq hf hp, ops_started i s, ?copy, ?captured⟩
  case copy =>
    show (copyOf i).isSome = true
    simp [ho]
  case captured =>
    have hcap := capture_copy (issuing i true s) (here i s) (o := o) ho
    have ha : ((here i s).ctx (issuing i true s)).a.s = (found (headOf i) s).a.s := by
      rw [here_ctx, ctx_issuing, atIssue, passed_eq]
    rw [ha] at hcap
    exact ⟨hcap.1.trans ((copyOff_zero _ o _).trans (by rw [ha])), hcap.2⟩

end

/-! ### Vector operations (R196, R200 to R211) -/

/-- What the vector operations have in common: they start an engine operation, write the tile TD and are never gated. -/
structure VectorOp (h : Head) (o : VT) (i : Instr) : Prop where
  head : headOf i = h
  starts : StartsThread i
  form : ∃ cl cf f, vForm i = some (cl, cf, o, f) ∧ o.td ∈ f.dests
  noCopy : cForm i = none
  ungated : isGated i = false

theorem vectorOp_of_mem (h : Head) (cf : Nat) (o : VT) : ∀ i ∈ .vtopk h cf o :: vectorOps h cf o, VectorOp h o i := by
  have htd (l : List Nat) : o.td ∈ o.td :: l := List.mem_cons_self
  simp only [vectorOps, List.forall_mem_cons, List.not_mem_nil, false_imp_iff, implies_true, and_true]
  refine ⟨?_, ?_, ?_, ?_, ?_, ?_, ?_, ?_, ?_, ?_, ?_, ?_, ?_, ?_, ?_, ?_, ?_, ?_, ?_, ?_, ?_, ?_, ?_, ?_, ?_, ?_, ?_, ?_, ?_, ?_, ?_, ?_, ?_, ?_, ?_, ?_, ?_, ?_, ?_, ?_, ?_, ?_, ?_, ?_, ?_, ?_, ?_, ?_, ?_, ?_, ?_, ?_, ?_, ?_⟩ <;>
    exact ⟨rfl, ⟨fun _ => rfl, rfl, rfl, fun _ _ => rfl, fun _ => rfl⟩, ⟨_, _, _, rfl, htd _⟩, rfl, rfl⟩

theorem opYval_of_noCopy {i : Instr} (hc : cForm i = none) (a : Arch) : opYval a i = 0 := by
  rw [opYval, copyOf, hc]
  rfl

theorem outSource_of_noCopy {i : Instr} (hc : cForm i = none) (s : State) : (opOfLone i s).outSource = none := by
  rw [EOp.outSource, show (opOfLone i s).ins = i from rfl, hc]

/-- The tiles of a lone operation are those of its instruction at its issue. -/
theorem mem_written {i : Instr} {s : State} {u : Nat}
    (h : (u, true) ∈ opTiles i (atIssue i true s).a (opYval (atIssue i true s).a i)) : u ∈ (opOfLone i s).written := by
  have ht : (opOfLone i s).tiles = opTiles i (atIssue i true s).a (opYval (atIssue i true s).a i) := by
    rw [← ctx_issuing]
    rfl
  rw [EOp.written, ht]
  exact List.mem_map.mpr ⟨(u, true), List.mem_filter.mpr ⟨h, rfl⟩, rfl⟩

/-- The destinations of a V form are tiles that it writes. -/
theorem mem_opTiles_vDests {i : Instr} {cl : CfClass} {cf : Nat} {o : VT} {f : Form} (hv : vForm i = some (cl, cf, o, f))
    {u : Nat} (hu : u ∈ f.dests) (a : Arch) (y : Word) : (u, true) ∈ opTiles i a y := by
  simp only [opTiles, hv, List.mem_append, List.mem_map]
  exact .inl (.inl (.inl (.inl ⟨u, hu, rfl⟩)))

/-- `vquant` writes the scale tile of a block-scaled destination (R209). -/
theorem mem_opTiles_quantScale {h : Head} {o : VT} {a : Arch} (ht : o.td < 63) (hb : isBlock (dFmt (a.desc o.td)) = true) (y : Word) :
    (o.td + 1, true) ∈ opTiles (.vquant h o) a y := by
  have hscale : o.td + 1 ∈ scaleTiles a [o.td] := by simp [scaleTiles, ht, hb]
  simp only [opTiles, vForm, List.mem_append, List.mem_map]
  exact .inl (.inl (.inr ⟨_, hscale, rfl⟩))

section
variable {h : Head} {o : VT} {i : Instr} {s : State} (hi : VectorOp h o i) (hf : free h s = true) (hp : passes i s = true)
include hi hf hp

/-- A vector operation fills tiles that it writes, and drains none. -/
theorem VectorOp.fills {fills : List Nat} (hu : ∀ u ∈ fills, (u, true) ∈ opTiles i (atIssue i true s).a 0) : Starts i s false fills [] := by
  rw [← hi.ungated]
  refine hi.starts.starts (hi.head ▸ hf) hp (fun u hm => ⟨outSource_of_noCopy hi.noCopy s, mem_written ?_⟩)
    (fun u hm => absurd hm List.not_mem_nil)
  rw [opYval_of_noCopy hi.noCopy]
  exact hu u hm

theorem VectorOp.fills_td : Starts i s false [o.td] [] := by
  obtain ⟨cl, cf, f, hv, htd⟩ := hi.form
  refine hi.fills hf hp (fun u hu => ?_)
  rw [List.mem_singleton.mp hu]
  exact mem_opTiles_vDests hv htd _ _

end

/-- Settles O27: the vector operations share `VectorOp`; `vtopk` has both destinations in its form, and the scale tile of
`vquant` is one that it writes (R200 to R211). -/
theorem vectorStarts : Obligations.VectorStarts := by
  unfold Obligations.VectorStarts
  intro h cf o s hf
  have hop := vectorOp_of_mem h cf o
  refine ⟨fun i hi hp => (hop i (.tail _ hi)).fills_td hf hp, fun hp => ?topk, fun hp ht hb => ?quant⟩
  case topk =>
    exact (hop _ (.head _)).fills hf hp (fun u hu => mem_opTiles_vDests (i := .vtopk h cf o) rfl hu _ _)
  case quant =>
    have hq : VectorOp h o (.vquant h o) := hop _ (List.mem_cons_of_mem _ (by simp [vectorOps]))
    have htd : (o.td, true) ∈ opTiles (.vquant h o) (atIssue (.vquant h o) true s).a 0 :=
      mem_opTiles_vDests rfl List.mem_cons_self _ _
    have hscale : (o.td + 1, true) ∈ opTiles (.vquant h o) (atIssue (.vquant h o) true s).a 0 := by
      refine mem_opTiles_quantScale ht ?_ _
      rw [desc_atIssue]
      exact hb
    exact hq.fills hf hp (List.forall_mem_cons.mpr ⟨htd, List.forall_mem_singleton.mpr hscale⟩)

/-! ### Copies (R232 to R247) -/

/-- What the copies have in common: they start an engine operation with their operands. -/
structure CopyOp (h : Head) (o : CP) (i : Instr) : Prop where
  head : headOf i = h
  starts : StartsThread i
  operands : copyOf i = some o

/-- The copies (R232). -/
def copyOps (h : Head) (o : CP) : List Instr :=
  [.cpLd h o, .cpGath h o, .cpFill h o, .cpSt h o, .cpSs h o, .cpScat h o, .cpBc h o, .cpAcc h o, .cpMm h o, .cpPf h o]

theorem copyOp_of_mem (h : Head) (o : CP) : ∀ i ∈ copyOps h o, CopyOp h o i := by
  simp only [copyOps, List.forall_mem_cons, List.not_mem_nil, false_imp_iff, implies_true, and_true]
  refine ⟨?_, ?_, ?_, ?_, ?_, ?_, ?_, ?_, ?_, ?_⟩ <;> exact ⟨rfl, ⟨fun _ => rfl, rfl, rfl, fun _ _ => rfl, fun _ => rfl⟩, rfl⟩

/-- The tile of an inbound copy is one that it writes, and it has no source (R192, R232). -/
theorem inbound_fills {i : Instr} {s : State} {idx : Bool} {o : CP} (hv : vForm i = none) (hm : mForm i = none)
    (hc : cForm i = some (.inbound, idx, o)) : ∀ u ∈ [o.t], (opOfLone i s).outSource = none ∧ u ∈ (opOfLone i s).written := by
  intro u hu
  rw [List.mem_singleton.mp hu]
  constructor
  · rw [EOp.outSource, show (opOfLone i s).ins = i from rfl, hc]
  · refine mem_written ?_
    simp only [opTiles, hv, hm, hc, List.mem_append, List.mem_singleton, true_or]

/-- The tile of an outbound copy is its source (R232). -/
theorem outbound_drains {i : Instr} {s : State} {idx : Bool} {o : CP} (hc : cForm i = some (.outbound, idx, o)) :
    ∀ u ∈ (if o.t < 64 then [o.t] else []), u < 64 ∧ ∃ con, (opOfLone i s).outSource = some (u, con) := by
  have hsource : (opOfLone i s).outSource = some (o.t, o.con == 1) := by
    rw [EOp.outSource, show (opOfLone i s).ins = i from rfl, hc]
  intro u hu
  split at hu
  next ht =>
    rw [List.mem_singleton.mp hu]
    exact ⟨ht, _, hsource⟩
  next => exact absurd hu List.not_mem_nil

section
variable {h : Head} {o : CP} {i : Instr} {s : State} (hi : CopyOp h o i) (hf : free h s = true) (hp : passes i s = true)
include hi hf hp

theorem CopyOp.inbound {idx : Bool} (hv : vForm i = none) (hm : mForm i = none) (hc : cForm i = some (.inbound, idx, o)) :
    Starts i s (isGated i) [o.t] [] :=
  hi.starts.starts (hi.head ▸ hf) hp (inbound_fills hv hm hc) (fun _ hu => absurd hu List.not_mem_nil)

theorem CopyOp.outbound {idx : Bool} (hc : cForm i = some (.outbound, idx, o)) :
    Starts i s (isGated i) [] (if o.t < 64 then [o.t] else []) :=
  hi.starts.starts (hi.head ▸ hf) hp (fun _ hu => absurd hu List.not_mem_nil) (outbound_drains hc)

theorem CopyOp.tileless : Starts i s (isGated i) [] [] :=
  hi.starts.starts (hi.head ▸ hf) hp (fun _ hu => absurd hu List.not_mem_nil) (fun _ hu => absurd hu List.not_mem_nil)

end

/-- Settles O29: each copy goes to its engine by `CopyOp`; what it fills or drains is the tile of its form (R232, R233). -/
theorem copyStarts : Obligations.CopyStarts := by
  unfold Obligations.CopyStarts
  intro h o s hf
  have hop := copyOp_of_mem h o
  refine ⟨?inbound, ?outbound, fun hp => ?mem, fun hp => ?prefetch, fun i hi hp => ?captured⟩
  case captured =>
    have hc := hop i hi
    have hcap := hc.starts.captures (hc.head ▸ hf) hp hc.operands
    rw [hc.head] at hcap
    exact hcap
  all_goals
    simp only [copyOps, List.forall_mem_cons, List.not_mem_nil, false_imp_iff, implies_true, and_true] at hop ⊢
    obtain ⟨hld, hgath, hfill, hst, hss, hscat, hbc, hacc, hmm, hpf⟩ := hop
  case inbound => exact ⟨fun hp => hld.inbound hf hp rfl rfl rfl, fun hp => hgath.inbound hf hp rfl rfl rfl, fun hp => hfill.inbound hf hp rfl rfl rfl⟩
  case outbound =>
    exact ⟨fun hp => hst.outbound hf hp rfl, fun hp => hss.outbound hf hp rfl, fun hp => hscat.outbound hf hp rfl,
      fun hp => hbc.outbound hf hp rfl, fun hp => hacc.outbound hf hp rfl⟩
  case mem => exact hmm.tileless hf hp
  case prefetch => exact hpf.tileless hf hp

end Sys2Proof.Machine

/-! ## States that stay in form: every byte store canonical, and the context in hand the same (log entry 5)

`Formed s t` says that `t` has been reached from `s` by operations that keep both. Each operation of the model
has one lemma, which adds it behind such a state: `h.postE`, `h.updCtx`. -/

namespace Sys2Proof.Machine
set_option Elab.async false

/-- `t` is in form if `s` is, and the same context is in hand. -/
structure Formed (s t : State) : Prop where
  form : memoryForm s = true → memoryForm t = true
  cur : t.cur = s.cur

namespace Formed

theorem refl (s : State) : Formed s s := ⟨id, rfl⟩

theorem trans {s t u : State} (h : Formed s t) (k : Formed t u) : Formed s u := ⟨k.form ∘ h.form, k.cur.trans h.cur⟩

theorem still {s t u : State} (h : Formed s t) (k : Still t u) : Formed s u := h.trans ⟨k.form, k.cur⟩

/-- A change of other fields than memory, cores and the context in hand. -/
theorem same {s t u : State} (h : Formed s t) (hm : u.mem = t.mem := by exact rfl)
    (hc : u.cores = t.cores := by exact rfl) (hu : u.cur = t.cur := by exact rfl) : Formed s u :=
  h.still (Still.congr hm hc hu)

theorem ite {s a b : State} {p : Prop} [Decidable p] (ha : Formed s a) (hb : Formed s b) : Formed s (if p then a else b) := by
  split
  · exact ha
  · exact hb

/-- The state of a pair that has been taken apart. -/
theorem of_fst {β : Type} {s u : State} {x : State × β} {b : β} (h : Formed s x.1) (hx : x = (u, b)) : Formed s u := by
  subst hx
  exact h

theorem foldl {α : Type} {s t : State} {f : State → α → State} {l : List α} (h : Formed s t)
    (hf : ∀ u x, Formed s u → Formed s (f u x)) : Formed s (l.foldl f t) :=
  List.foldlRecOn l f h (fun u hu x _ => hf u x hu)

/-- A fold that carries a value beside the state. -/
theorem foldlFst {α β : Type} {s : State} {x : State × β} {f : State × β → α → State × β} {l : List α} (h : Formed s x.1)
    (hf : ∀ y a, Formed s y.1 → Formed s (f y a).1) : Formed s (l.foldl f x).1 :=
  List.foldlRecOn (motive := fun y : State × β => Formed s y.1) l f h (fun y hy a _ => hf y a hy)

section
variable {s t : State} (h : Formed s t)
include h

/-! ### Fields of the state -/

theorem updCore {c : Nat} {f : Core → Core} (hf : ∀ k, (f k).sram = k.sram := by exact fun _ => rfl) : Formed s (t.updCore c f) :=
  h.still (.updCore t c f (hf _))

theorem updCtx {c i : Nat} {f : Ctx → Ctx} : Formed s (t.updCtx c i f) := h.still (.updCtx t c i f)

theorem setCtx {c i : Nat} {v : Ctx} : Formed s (t.setCtx c i v) := h.trans ⟨memoryForm_setCtx c i v, rfl⟩

theorem updDie {d : Nat} {f : Die → Die} : Formed s (t.updDie d f) := h.same

theorem updIsland {i : Nat} {f : Island → Island} : Formed s (t.updIsland i f) := h.same

theorem writeDev {d pa : Nat} {b : List Byte} : Formed s (t.writeDev d pa b) :=
  h.trans ⟨memoryForm_writeDev d pa b, by unfold State.writeDev; dsimp only; split <;> rfl⟩

theorem writeSram {c a : Nat} {b : List Byte} : Formed s (t.writeSram c a b) := h.trans ⟨memoryForm_writeSram c a b, rfl⟩

theorem postE {p code island core die handle arg : Nat} : Formed s (t.postE p code island core die handle arg) :=
  h.still (.postE ..)

theorem postF {code island core die handle arg : Nat} : Formed s (t.postF code island core die handle arg) :=
  h.still (.postF ..)

theorem logErr {die code : Nat} {corr : Bool} {store : Nat} {part core : Option Nat} {addr : Nat} :
    Formed s (t.logErr die code corr store part core addr) := h.still (.logErr ..)

/-! ### Coherence and combination -/

theorem foldPartial {core : Nat} {e : Partial} : Formed s (foldPartial t core e) :=
  h.trans ⟨memoryForm_foldPartial core e, by
    unfold Machine.foldPartial
    exact (((refl _).still ((Still.l2TouchFor ..).trans (.l2Dirty ..))).writeDev).cur⟩

theorem combine {die a n : Nat} : Formed s (combine t die a n) := by
  unfold Machine.combine
  dsimp only
  refine updDie (foldl (foldl (foldl ?_ ?_) ?_) ?_)
  · split
    · exact h
    · exact h.still (.recallWords ..)
  · exact fun u x hu => hu.foldl (fun v e hv => hv.foldPartial)
  · exact fun u x hu => hu.foldl (fun v e hv => hv.still (.foldBad ..))
  · exact fun u c hu => hu.updCore

theorem combineFor {die pa n : Nat} : Formed s (combineFor t die pa n) := h.foldl (fun _ _ hu => hu.combine)

theorem postPressure {die slice part : Nat} : Formed s (postPressure t die slice part) := .ite h h.updDie.postE

theorem track {die a n part : Nat} : Formed s (track t die a n part) := by
  unfold Machine.track
  refine updDie (.ite h ?_)
  split
  · exact h
  · exact h.combine.postPressure

theorem partRoom {core die w : Nat} : Formed s (partRoom t core die w) := by
  unfold Machine.partRoom
  refine .ite h ?_
  split
  · exact h.foldl (fun _ _ hu => hu.combine)
  · exact h

theorem homeWrites {die : Nat} {ws : List Nat} {tm : Nat} : Formed s (homeWrites t die ws tm).1 := h.still (.homeWrites ..)

theorem commUpdate {core slot : Nat} {ob : Obj} {oid page die pa v tm : Nat} :
    Formed s (commUpdate t core slot ob oid page die pa v tm).1 := by
  unfold Machine.commUpdate
  dsimp only
  exact updCore (homeWrites (.ite h.track.partRoom h.track.partRoom.track))

end
end Formed
end Sys2Proof.Machine

/-! ## Pieces of rows, barriers, messages, regions and engine operations stay in form -/

namespace Sys2Proof.Machine
set_option Elab.async false

@[simp] theorem Core.sram_setPlane (k : Core) (n : Nat) (p : Plane) : (k.setPlane n p).sram = k.sram := by
  unfold Core.setPlane
  split <;> rfl

theorem sram_updRecord (k : Core) (id : Nat) (f : Plane → Plane) : (k.updRecord id f).sram = k.sram := rfl

/-- A fold over a core whose steps leave its scratchpad. -/
theorem sram_foldl {α : Type} {f : Core → α → Core} (hf : ∀ k x, (f k x).sram = k.sram) (l : List α) (k : Core) :
    (l.foldl f k).sram = k.sram :=
  List.foldlRecOn (motive := fun j : Core => j.sram = k.sram) l f rfl (fun j hj x _ => (hf j x).trans hj)

theorem sram_undoLoad (k : Core) (o : EOp) : (undoLoad k o).sram = k.sram := by
  unfold undoLoad
  split
  · rfl
  · exact sram_updRecord ..

theorem sram_stopLoads (l : List EOp) (k : Core) : (stopLoads l k).sram = k.sram := by
  unfold stopLoads
  apply sram_foldl
  intro k o
  rfl

theorem sram_takes (s : State) (core : Nat) (o : EOp) : (Core.takes s core o).sram = (s.core core).sram := by
  unfold Core.takes
  dsimp only
  split
  · rw [Core.sram_setPlane]
  · rfl

/-- An operation that is predicated off takes no tile. -/
theorem launch_off (s : State) (core : Nat) (o : EOp) (hp : o.predOff = true) :
    launch s core o = s.setCore core (Core.takes s core o) := by
  simp only [launch, Core.takes, EOp.taken, hp]
  cases isLoad o.ins <;> rfl

/-- A way to relaunch progress words clears the word named and launches at most one operation. -/
def ClearsAndLaunches (f : State → Nat → Nat → Nat → Nat → State) : Prop :=
  ∀ s core slot n seq,
    let t := s.setCtx core slot { s.ctx core slot with a := (s.ctx core slot).a.progClear n }
    f s core slot n seq = t ∨ ∃ o, f s core slot n seq = launch t core o

/-- So does `relaunch`. What a word names stands for a variable here: a comparison of terms must not decode it. -/
theorem clearsAndLaunches_relaunch : ClearsAndLaunches relaunch := by
  delta relaunch
  obtain ⟨named, hnamed⟩ : ∃ g, g = progOp := ⟨_, rfl⟩
  rw [← hnamed]
  intro s core slot n seq
  dsimp only
  split
  · exact .inl rfl
  · exact .inr ⟨_, rfl⟩

namespace Formed
section
variable {s t : State} (h : Formed s t)
include h

theorem setCore {c : Nat} {v : Core} (hv : v.sram = (t.core c).sram := by exact rfl) : Formed s (t.setCore c v) :=
  h.trans ⟨fun hm => memoryForm_setCore c v hm (hv ▸ memoryForm_core c hm), rfl⟩

theorem updTeam {n : Nat} {f : Team → Team} : Formed s (t.updTeam n f) := h.same

theorem setTeam {n : Nat} {v : Option Team} : Formed s (t.setTeam n v) := h.same

theorem updTask {n : Nat} {f : Task → Task} : Formed s (t.updTask n f) := h.same

theorem setTask {n : Nat} {v : Option Task} : Formed s (t.setTask n v) := h.same

theorem updPart {n : Nat} {f : Part → Part} : Formed s (t.updPart n f) := h.same

theorem updLink {n : Nat} {f : Epl → Epl} : Formed s (t.updLink n f) := h.same

theorem setObj {n : Nat} {v : Option Obj} : Formed s (t.setObj n v) := by
  cases v <;> exact h.same

theorem draw : Formed s t.draw := h.same

theorem send {o : Out} : Formed s (t.send o) := h.same

/-! ### Accesses to pieces -/

theorem request {core slot oid page die pa : Nat} {tm : Nat} {wr : Bool} {ty n : Nat} :
    Formed s (request t core slot oid page die pa tm wr ty n).1 := h.still (.request ..)

theorem spadTouch {c a n tm : Nat} {wr : Bool} : Formed s (spadTouch t c a n tm wr).1 := h.still (.spadTouch ..)

theorem writeHost {p addr : Nat} {peer : Bool} {b : List Byte} : Formed s (t.writeHost p addr peer b) := by
  unfold State.writeHost
  split
  · exact .ite h.same h
  · exact h.same

theorem askHost {p addr : Nat} {peer : Bool} {n : Nat} : Formed s (t.askHost p addr peer n) := by
  unfold State.askHost
  split <;> exact h.same

theorem updOp {core id : Nat} {f : EOp → EOp} : Formed s (t.updOp core id f) := h.updCore

end

section
variable {s : State} {x : State × Nat} (h : Formed s x.1)
include h

theorem touchChunk {core slot : Nat} {pl : Place} {oid o n : Nat} {wr : Bool} : Formed s (touchChunk core slot pl oid o n wr x).1 := by
  cases pl with
  | dev d pa => exact h.combineFor.request
  | sram t a => exact h.spadTouch
  | host a peer => exact h

theorem writeChunk {core slot : Nat} {g : Chunk} : Formed s (writeChunk core slot g x).1 := by
  unfold Machine.writeChunk
  have ht := h.touchChunk (core := core) (slot := slot) (pl := g.pl) (oid := g.oid) (o := g.o) (n := g.data.length) (wr := true)
  dsimp only
  split
  · exact .ite ht.writeSram (ht.foldl fun _ _ hu => hu.writeSram)
  · exact .ite ht.writeDev (ht.foldl fun _ _ hu => hu.writeDev)
  · split
    · exact ht.writeHost
    · exact (ht.askHost.same).writeHost

theorem updateChunk {core slot : Nat} {g : Chunk} : Formed s (updateChunk core slot g x).1 := by
  unfold Machine.updateChunk
  split
  · exact h.foldlFst (fun y a hy => hy.commUpdate)
  · exact h

theorem putChunk {core slot : Nat} {g : Chunk} : Formed s (putChunk core slot g x).1 := by
  unfold Machine.putChunk
  split
  · exact h.updateChunk
  · exact h.writeChunk

theorem putChunks {core slot : Nat} {l : List Chunk} : Formed s (putChunks core slot l x).1 := h.foldlFst (fun _ _ hy => hy.putChunk)

theorem readPiece {core slot : Nat} {u : Unread} : Formed s (readPiece core slot u x).1.1 := h.touchChunk

theorem readLeft {core : Nat} {o : EOp} : Formed s (readLeft core o x).1.1 :=
  List.foldlRecOn (motive := fun y : (State × Nat) × List Chunk => Formed s y.1.1) _ _ h (fun _ hy _ _ => hy.readPiece)

end

section
variable {s t : State} (h : Formed s t)
include h

theorem writeLeft {core : Nat} {o : EOp} : Formed s (writeLeft t core o).1 := (readLeft (x := (t, o.time)) h).putChunks

theorem settleReads {core : Nat} {o : EOp} : Formed s (settleReads t core o) := .ite h (readLeft (x := (t, o.time)) h).updOp

theorem settleOp {core : Nat} {o : EOp} : Formed s (settleOp t core o) := .ite h h.writeLeft.updOp

theorem performOne {core n : Nat} {o : EOp} : Formed s (performOne t core n o) := by
  unfold Machine.performOne
  dsimp only
  split
  · exact (readPiece (x := (t, o.time)) h).updOp
  · split
    · exact h
    · exact (putChunk (x := (t, o.time)) h).updOp

/-! ### Barriers and messages -/

theorem updBar {core n : Nat} {f : Barrier → Barrier} : Formed s (t.updBar core n f) := h.updCore

theorem releaseWaits {core n : Nat} : Formed s (releaseWaits t core n) := by
  refine h.foldl (fun u i hu => ?_)
  dsimp only
  split
  · exact .ite hu.setCtx hu
  · exact hu

theorem completePhases {core n : Nat} : Formed s (completePhases t core n) := .ite h.updBar (releaseWaits h.updBar.same)

theorem takePhases {r : Release} : Formed s (takePhases t r) := h.updBar.releaseWaits

theorem mirror {r : Release} : Formed s (mirror t r) := .ite h.same (.ite h.takePhases h)

theorem settleBars {n : Nat} : Formed s (settleBars t n) :=
  foldl (same (foldl (h.same (u := { t with rels := t.rels.filter (fun r => !(r.team == n)) })) (fun _ _ hu => hu.mirror)))
    (fun _ _ hu => hu.takePhases)

theorem claimBar {core n team : Nat} : Formed s (claimBar t core n team) := h.updBar

theorem addFault {core slot : Nat} {f : PendFault} : Formed s (t.addFault core slot f) := h.updCtx

theorem giveToken {a : Arrival} {n : Nat} : Formed s (giveToken t a n) := by
  refine .ite h ?_
  split
  · exact h
  · exact h.updCtx
  · dsimp only
    split
    · exact .ite h.setCtx h.setCtx
    · exact h.setCtx

theorem arrive {a : Arrival} : Formed s (arrive t a) := by
  unfold Machine.arrive
  split
  · split
    · exact .ite h h.addFault
    · exact h
  · exact .ite h.claimBar.same (giveToken (completePhases h.claimBar.updBar))

theorem updKept {team tidx : Nat} {f : Kept → Kept} : Formed s (t.updKept team tidx f) := h.updTeam

theorem sendMsg {f : Flight} : Formed s (sendMsg t f) := by
  refine same (t := match t.whereIs f.team f.tidx with
    | some p => t.updCtx p.1 p.2 (fun c => { c with qres := c.qres.set f.q (c.reserved f.q + 1) 0 })
    | none => t.updKept f.team f.tidx (fun k => { k with qres := k.qres.set f.q (k.reserved f.q + 1) 0 })) ?_
  split
  · exact h.updCtx
  · exact h.updKept

theorem enterQueue {f : Flight} : Formed s (enterQueue t f) := by
  unfold Machine.enterQueue
  dsimp only
  have hput : Formed s (match t.whereIs f.team f.tidx with
      | some p => t.updCtx p.1 p.2 (fun c => putMsg c f.q f.m)
      | none => t.updKept f.team f.tidx (fun k =>
        { k with q := if k.ended then k.q else k.q.set f.q (k.queue f.q ++ [f.m]) [], qres := k.qres.set f.q (k.reserved f.q - 1) 0 })) := by
    split
    · exact h.updCtx
    · exact h.updKept
  split
  · exact .ite hput hput.updCtx
  · exact hput

/-! ### Yields and failure -/

theorem yieldCtx {core slot : Nat} : Formed s (yieldCtx t core slot) := by
  refine .ite h ?_
  split
  · exact h.setCtx
  · exact h.setCtx
  · exact h.setCtx
  · exact h

theorem yieldTeam {n : Nat} : Formed s (yieldTeam t n) := h.foldl (fun _ _ hu => hu.yieldCtx)

theorem stopCtx {core slot : Nat} : Formed s (stopCtx t core slot) := by
  unfold Machine.stopCtx
  exact updCtx (updCore (h.foldl (fun _ _ hu => hu.writeLeft)))

theorem failTeam {n cause : Nat} : Formed s (failTeam t n cause) := by
  unfold Machine.failTeam
  split
  · exact h
  · split
    · exact h
    · exact updTask (setTeam (h.foldl (fun _ _ hu => hu.stopCtx)))

theorem supFault {core slot code epc : Nat} {tval : Word} : Formed s (supFault t core slot code epc tval) := h.postE.updCtx.failTeam

/-! ### Gated items, windows and rollbacks -/

theorem askDesc {e : Enq} : Formed s (askDesc t e) := .ite h.same (same (h.foldl (fun _ _ hu => hu.askHost)))

theorem releaseItem {core slot : Nat} {g : Gated} {u : State} (hu : releaseItem t core slot g = some u) : Formed s u := by
  unfold Machine.releaseItem at hu
  cases g with
  | arrive n seq dst tag aw =>
    cases hu
    exact h.same
  | enqt id seq k dst tag waddr off cap caps time =>
    cases hu
    exact h.askDesc
  | enqm seq dst tag tidx q ack payload =>
    dsimp only at hu
    split at hu
    · cases hu
      exact .ite h.sendMsg h.sendMsg.updCtx
    · cases hu

omit h in
theorem releaseItems {core slot : Nat} {l : List Gated} {s t : State} (h : Formed s t) : Formed s (releaseItems t core slot l) := by
  induction l generalizing t with
  | nil => exact h
  | cons g r ih =>
    unfold Machine.releaseItems
    split
    · split
      · next u hu => exact ih (h.releaseItem hu).updCtx
      · exact h
    · exact h

theorem releaseGated {core slot : Nat} : Formed s (releaseGated t core slot) := by
  unfold Machine.releaseGated
  exact h.releaseItems.updCore

theorem windowEnd {core slot : Nat} : Formed s (windowEnd t core slot) := by
  unfold Machine.windowEnd
  exact .ite (setCtx (releaseGated (.ite h.setCtx h))) (releaseGated (.ite h.setCtx h))

theorem fogRepeat {core slot : Nat} : Formed s (fogRepeat t core slot) := by
  unfold Machine.fogRepeat
  exact .ite h.postE.postF.updIsland (.ite (.ite h.updTeam.yieldTeam.same h.updTeam.yieldTeam) h)

theorem rollback {core slot : Nat} {silent : Bool} : Formed s (rollback t core slot silent) := by
  unfold Machine.rollback
  dsimp only
  split
  · exact h
  next i hm _ =>
    refine fogRepeat (setCtx (setCore ?_ ?_))
    · exact h.foldl (fun _ _ hu => hu.writeLeft)
    · show (List.foldl undoLoad _ _).sram = _
      exact sram_foldl sram_undoLoad _ _

theorem fogCtx {core slot : Nat} {silent : Bool} : Formed s (fogCtx t core slot silent) := by
  unfold Machine.fogCtx
  dsimp only
  split
  · exact .ite h h.rollback
  · exact .ite h h.rollback
  · exact .ite h h.rollback
  · exact h

/-! ### Engine operations -/

theorem respond {core slot : Nat} {a : Acc} : Formed s (respond t core slot a) := h.updCtx

theorem releaseTile {core : Nat} {o : EOp} {n v : Nat} : Formed s (releaseTile t core o n v) := by
  unfold Machine.releaseTile
  exact h.updCtx

theorem endingRelease {core slot : Nat} : Formed s (endingRelease t core slot) := .ite h.setCtx h

theorem dropOp {core : Nat} {o : EOp} : Formed s (dropOp t core o) := h.updCore

theorem finishOp {core : Nat} {o : EOp} : Formed s (finishOp t core o) := by
  unfold Machine.finishOp
  exact endingRelease (updCtx (dropOp (.ite h.writeLeft (h.writeLeft.foldl fun _ _ hu => hu.releaseTile))))

theorem cancelCopy {core : Nat} {o : EOp} : Formed s (cancelCopy t core o) := by
  unfold Machine.cancelCopy
  refine endingRelease (updCtx (dropOp (.ite h.writeLeft ?_)))
  split
  · exact .ite h.writeLeft h.writeLeft.releaseTile
  · exact h.writeLeft.foldl fun _ _ hu => hu.releaseTile

theorem launch {core : Nat} {o : EOp} : Formed s (launch t core o) := by
  cases hp : o.predOff with
  | false =>
    rw [launch_eq t core o hp]
    exact (h.setCore (sram_takes t core o)).updCtx
  | true =>
    rw [launch_off t core o hp]
    exact h.setCore (sram_takes t core o)

theorem relaunch {core slot n seq : Nat} : Formed s (relaunch t core slot n seq) := by
  obtain he | ⟨o, he⟩ := clearsAndLaunches_relaunch t core slot n seq
  · rw [he]
    exact h.setCtx
  · rw [he]
    exact launch h.setCtx

theorem freeze {core slot : Nat} : Formed s (freeze t core slot) := h.updCore

/-! ### Trap entries -/

theorem serveClaim {core slot : Nat} : Formed s (serveClaim t core slot) := by
  unfold Machine.serveClaim
  dsimp only
  split
  · exact h
  · split
    · exact h.setCtx
    · split
      · exact h.setCtx
      · split
        · exact h.setTeam.setCtx
        · exact h.setCtx

omit h in
theorem serveClaims {core slot n : Nat} {s t : State} (h : Formed s t) : Formed s (serveClaims core slot n t) := by
  induction n generalizing t with
  | zero => exact h
  | succ n ih =>
    unfold Machine.serveClaims
    refine .ite h ?_
    split
    · exact ih h.serveClaim
    · exact h

theorem settle {core slot : Nat} : Formed s (settle t core slot) := by
  unfold Machine.settle
  exact updCtx (h.serveClaims.foldl fun _ _ hu => hu.respond)

theorem stopInbound {core slot : Nat} : Formed s (stopInbound t core slot) := by
  unfold Machine.stopInbound
  dsimp only
  refine updCtx (updCore ?_ ?_)
  · refine foldl ?_ (fun _ _ hu => hu.writeLeft.updCtx)
    exact h.foldl fun _ _ hu => hu.cancelCopy
  · exact fun k => sram_stopLoads _ _

theorem enterSup {core slot pc : Nat} : Formed s (enterSup t core slot pc) := h.setCtx

theorem deliver {core slot : Nat} {r : Report} : Formed s (deliver t core slot r) := by
  unfold Machine.deliver
  exact .ite h.setCtx.supFault h.setCtx.setCtx.enterSup

end
end Formed
end Sys2Proof.Machine

/-! ## Trap delivery, queues, tasks, ingress, pages and the end of teams stay in form -/

namespace Sys2Proof.Machine
set_option Elab.async false
namespace Formed
section
variable {s t : State} (h : Formed s t)
include h

theorem vector {core slot : Nat} : Formed s (vector t core slot) := by
  unfold Machine.vector
  extract_lets u c met
  have hu : Formed s u := h.settle.stopInbound
  clear_value u
  split
  · exact hu.setCtx.deliver
  · exact hu.setCtx.deliver

theorem enterTrap {core slot : Nat} : Formed s (enterTrap t core slot) := by
  unfold Machine.enterTrap
  exact .ite h (.ite (.ite h h.freeze.updCtx) (.ite h h.vector))

theorem raise {core slot : Nat} {f : PendFault} : Formed s (raise t core slot f) := by
  unfold Machine.raise
  exact .ite h.supFault h.setCtx.enterTrap

theorem supFaults {core slot : Nat} : Formed s (supFaults t core slot) := by
  unfold Machine.supFaults
  refine .ite ?_ h
  split
  · exact h.supFault
  · exact h

theorem refuse {core slot sl item : Nat} : Formed s (refuse t core slot sl item) := h.updCtx

theorem returnUser {core slot seq : Nat} : Formed s (returnUser t core slot seq) := by
  unfold Machine.returnUser
  exact updCtx (foldl h.setCtx fun _ _ hu => hu.relaunch)

theorem returnFromTrap {core slot seq : Nat} : Formed s (returnFromTrap t core slot seq) := by
  unfold Machine.returnFromTrap
  split
  · exact h.refuse
  · exact h.returnUser

/-! ### What the command processor reads and writes -/

theorem recallWords {die : Nat} {ws : List Nat} : Formed s (recallWords t die ws) := h.still (.recallWords ..)

theorem l2Host {die pa n : Nat} {wr : Bool} : Formed s (l2Host t die pa n wr) := h.still (.l2Host ..)

theorem logHomeBad {die pa n : Nat} : Formed s (logHomeBad t die pa n) := h.still (.logHomeBad ..)

theorem homeWrite {die w tm : Nat} : Formed s (homeWrite t die w tm).1 := h.still (.homeWrite ..)

theorem cpRead {p oid o n : Nat} : Formed s (cpRead t p oid o n).1 := by
  unfold Machine.cpRead
  split
  · dsimp only
    split
    · exact h.combineFor.recallWords.l2Host.logHomeBad
    · exact h.combineFor.recallWords.l2Host
  · exact h

theorem cpWrite {p oid o : Nat} {b : List Byte} : Formed s (cpWrite t p oid o b) := by
  unfold Machine.cpWrite
  split
  · exact .ite h.combineFor.homeWrites.logHomeBad h.combineFor.homeWrites.l2Host.writeDev
  · exact h

/-- What a read by the command processor leaves, with what it has read. -/
theorem cpRead_eq {p oid o n : Nat} {u : State} {x : Option Nat} (hx : Machine.cpRead t p oid o n = (u, x)) : Formed s u :=
  of_fst h.cpRead hx

/-! ### Submission and completion queues, tasks -/

theorem takeIn {p d tm : Nat} {src : Nat → BitVec 128} : Formed s (takeIn t p d src tm).1 := h.same

theorem updQueue {p q : Nat} {f : Queue → Queue} : Formed s (t.updQueue p q f) := h.updPart

theorem queueEntry {p q : Nat} {e : BitVec 256} {task : Option Nat} : Formed s (queueEntry t p q e task) := h.updQueue

theorem refuseEntry {p d : Nat} : Formed s (refuseEntry t p d) := .ite h h.queueEntry

theorem consume {p e : Nat} : Formed s (consume t p e) := by
  unfold Machine.consume
  dsimp only
  refine .ite (.ite ?_ h.takeIn) h.refuseEntry
  split
  · exact h.takeIn.queueEntry
  · exact h.takeIn

omit h in
theorem consumeFrom {p q oid ln head n : Nat} {s t : State} (h : Formed s t) : Formed s (consumeFrom t p q oid ln head n) := by
  induction n generalizing t head with
  | zero => exact h
  | succ n ih =>
    unfold Machine.consumeFrom
    refine .ite h ?_
    split
    next u hu => exact h.cpRead_eq hu
    next u e hu => exact ih (h.cpRead_eq hu).consume.cpWrite

theorem readQueue {p q : Nat} : Formed s (readQueue t p q) := by
  unfold Machine.readQueue
  refine .ite h ?_
  dsimp only
  split
  next u hu => exact h.cpRead_eq hu
  next u head hu =>
    have hhead := h.cpRead_eq hu
    split
    next v hv => exact hhead.cpRead_eq hv
    next v tail hv =>
      have htail := hhead.cpRead_eq hv
      exact .ite htail.updQueue.postE htail.consumeFrom

theorem readQueues {p : Nat} : Formed s (readQueues t p) := h.foldl fun _ _ hu => hu.readQueue

theorem freeTask {i : Nat} : Formed s (freeTask t i) := by
  unfold Machine.freeTask
  split
  · exact h.setTask.readQueues
  · exact h

theorem releaseSucc {p n : Nat} : Formed s (releaseSucc t p n) := by
  unfold Machine.releaseSucc
  split
  · exact .ite h (.ite h.same h.setTask)
  · exact h

theorem touchResv {p : Nat} : Formed s (touchResv t p) := by
  unfold Machine.touchResv
  split
  · split
    · exact h.foldl fun _ _ hu => hu.updIsland
    · exact h
  · exact h

theorem dropResv {p i : Nat} : Formed s (dropResv t p i) := by
  unfold Machine.dropResv
  split
  · exact .ite h.touchResv.updPart h
  · exact h

theorem endTask {i cause : Nat} {entry : Bool} : Formed s (endTask t i cause entry) := by
  unfold Machine.endTask
  split
  · exact h
  next k _ =>
    have hset : Formed s (((Machine.dropResv t k.part i).setTask i
        (some { k with st := if cause = 0 then .complete else .failed, cause := cause }))) := h.dropResv.setTask
    have hsucc : Formed s (if cause = 0 then k.succ.foldl (fun s h => Machine.releaseSucc s k.part h) ((Machine.dropResv t k.part i).setTask i
        (some { k with st := if cause = 0 then .complete else .failed, cause := cause })) else _) :=
      .ite (hset.foldl fun _ _ hu => hu.releaseSucc) hset
    exact .ite hsucc.queueEntry hsucc.freeTask

theorem killTask {i : Nat} {entry : Bool} : Formed s (killTask t i entry) := by
  unfold Machine.killTask
  split
  · exact h
  · split
    · exact h.endTask
    · exact h.endTask
    · exact h.foldl fun _ _ hu => hu.failTeam
    · exact h

/-! ### The ingress buffers -/

omit h in
theorem drainPosted {l : List (Nat × Nat × Ingress)} {blocked : List Nat} {s t : State} (h : Formed s t) :
    Formed s (drainPosted t blocked l).1 := by
  induction l generalizing t blocked with
  | nil => exact h
  | cons x r ih =>
    obtain ⟨l, d, w⟩ := x
    unfold Machine.drainPosted
    split
    · exact ih h
    · exact ih h.updDie

theorem markCredit {heads : List Nat} {moved : Bool} {d : Nat} : Formed s (markCredit t heads moved d) := h.updDie

theorem flowPosted : Formed s (flowPosted t) := by
  unfold Machine.flowPosted
  exact foldl h.drainPosted.same fun _ _ hu => hu.markCredit

theorem recallWord {die w : Nat} : Formed s (recallWord t die w) := h.still (.recallWord ..)

theorem applyPiece {die tm x : Nat} {w : Ingress} : Formed s (applyPiece die tm w t x).1 := by
  unfold Machine.applyPiece
  dsimp only
  split
  · exact h.recallWord.logErr.postE
  · exact h.recallWord.combineFor.homeWrite.l2Host.writeDev

theorem applyWrite {die tm : Nat} {w : Ingress} : Formed s (applyWrite t die tm w).1 :=
  foldlFst (x := (t, tm)) h fun _ _ hy => hy.applyPiece

theorem ringTails {die : Nat} {ws : List Ingress} : Formed s (ringTails t die ws) := by
  refine h.foldl fun u p hu => hu.foldl fun v q hv => ?_
  refine .ite hv ?_
  split
  · exact .ite hv.readQueue hv
  · exact hv

theorem hostWindow {core slot : Nat} : Formed s (hostWindow t core slot) := by
  unfold Machine.hostWindow
  dsimp only
  refine .ite h (flowPosted (ringTails (updCtx (updDie ?_))))
  exact foldlFst (x := (t, _)) h fun _ _ hy => hy.applyWrite

theorem applyDue {die : Nat} {ws : List Ingress} : Formed s (applyDue t die ws) := by
  unfold Machine.applyDue
  exact flowPosted (ringTails (updDie (h.foldl fun _ _ hu => hu.applyWrite.updPart.updDie)))

/-! ### Pages -/

theorem takeFrames {die f n : Nat} : Formed s (takeFrames t die f n) := h.trans ⟨memoryForm_takeFrames die f n, rfl⟩

theorem freeFrames {die f n : Nat} : Formed s (freeFrames t die f n) := h.trans ⟨memoryForm_freeFrames die f n, rfl⟩

theorem wipeDev {die pa n : Nat} : Formed s (wipeDev t die pa n) := h.trans ⟨memoryForm_wipeDev die pa n, rfl⟩

theorem setPage {oid n : Nat} {e : Page} : Formed s (t.setPage oid n e) := by
  unfold State.setPage
  split
  · exact h.setObj
  · exact h

theorem dropPage {die pa n tm : Nat} : Formed s (dropPage t die pa n tm) := by
  unfold Machine.dropPage
  refine still (foldl (still h.combineFor (.flushRange ..)) fun u c hu => ?_) (.freshTimes ..)
  exact .ite hu.updCore hu

theorem settlePage {p die frame psz : Nat} : Formed s (settlePage t p die frame psz) := h.dropPage

theorem setMem {m : List Host.Cell} (hm : memoryForm t = true → Memory.wf m = true) : Formed s { t with mem := m } :=
  h.trans ⟨fun ht => memoryForm_setMem m ht (hm ht), rfl⟩

theorem movePage {oid n dst : Nat} {u : State} (hu : movePage t oid n dst = some u) : Formed s u := by
  unfold Machine.movePage at hu
  split at hu
  · cases hu
  next o _ =>
    dsimp only at hu
    split at hu
    · cases hu
    next f _ =>
      cases hu
      refine setPage (still (freeFrames (foldl (updDie (setMem h.settlePage.takeFrames.wipeDev.wipeDev fun hm => ?_)) fun _ _ hu => hu.logErr)) (.freshTimes ..))
      exact Tab.wf_foldl_set (d := (0 : Byte))
        (fun c : Host.Cell => c.1 - devKey (o.pages.get n {}).die ((o.pages.get n {}).frame * 4096) + devKey dst (f * 4096)) (fun c => c.2) _
        ((memoryForm_iff _).mp hm).1

theorem placePage {oid n : Nat} {data : List Byte} {bad : List Nat} {u : State} (hu : placePage t oid n data bad = some u) : Formed s u := by
  unfold Machine.placePage at hu
  split at hu
  · cases hu
  next o _ =>
    dsimp only at hu
    split at hu
    · cases hu
    next f _ =>
      cases hu
      exact setPage (updDie (setMem h.takeFrames.wipeDev.dropPage fun hm => Memory.wf_writeBytes _ _ ((memoryForm_iff _).mp hm).1))

theorem pageOut {oid n : Nat} : Formed s (pageOut t oid n) := by
  unfold Machine.pageOut
  split
  · exact h
  next o _ =>
    have hlog {l : List Nat} {d : Nat} {out : Out} : Formed s (l.foldl (fun s w => s.logErr d 0x42 false 4 none none (32 * w))
        ((Machine.settlePage t o.part (o.pages.get n {}).die (o.pages.get n {}).frame o.psz).send out)) :=
      h.settlePage.send.foldl fun _ _ hu => hu.logErr
    exact same (setPage (freeFrames (wipeDev hlog)))

theorem dropFlash {n : Nat} : Formed s (dropFlash t n) := h.same

omit h in
theorem makeRoom {p die k n : Nat} {s t : State} (h : Formed s t) : Formed s (makeRoom p die k n t) := by
  induction n generalizing t with
  | zero => exact h
  | succ n ih =>
    unfold Machine.makeRoom
    refine .ite ?_ h
    dsimp only
    split
    · exact ih h.draw.pageOut
    · exact h

theorem bringIn {p oid n : Nat} {flashOk : Bool} : Formed s (bringIn t p oid n flashOk).1 := by
  unfold Machine.bringIn
  split
  · exact h
  · dsimp only
    split
    · exact h
    · split
      · exact h
      · split
        · exact h.makeRoom
        · split
          next u hu =>
            have hplaced := h.makeRoom.placePage hu
            exact .ite hplaced.dropFlash hplaced
          · exact h.makeRoom

theorem settleReq {p oid o e st : Nat} : Formed s (settleReq t p oid o e st) := h.cpWrite.cpWrite

theorem askBringIn {p oid n : Nat} : Formed s (askBringIn t p oid n) := .ite h h.same

omit h in
theorem scanRing {p oid ln : Nat} {only : Option (Nat × Nat × Nat)} {i n : Nat} {s t : State} (h : Formed s t) :
    Formed s (scanRing t p oid ln only i n) := by
  induction n generalizing t i with
  | zero => exact h
  | succ n ih =>
    unfold Machine.scanRing
    refine ih ?_
    split
    next u hu => exact h.cpRead_eq hu
    next u e hu =>
      have hread := h.cpRead_eq hu
      refine .ite hread ?_
      split
      · exact .ite hread.settleReq hread
      · split
        · exact hread.settleReq
        · exact hread.askBringIn

theorem ringSpan {p oid : Nat} : Formed s (ringSpan t p oid).1 := by
  unfold Machine.ringSpan
  split
  next u hu => exact h.cpRead_eq hu
  next u head hu =>
    split
    next v hv => exact (h.cpRead_eq hu).cpRead_eq hv
    next v tail hv => exact (h.cpRead_eq hu).cpRead_eq hv

theorem readRing {p : Nat} {only : Option (Nat × Nat × Nat)} : Formed s (readRing t p only) := by
  unfold Machine.readRing
  refine .ite h ?_
  dsimp only
  split
  next u hu => exact of_fst h.ringSpan hu
  next u head n hu =>
    have hspan := of_fst h.ringSpan hu
    exact .ite hspan.updPart.postE (.ite hspan.scanRing hspan.scanRing.cpWrite)

/-! ### Teams end and go out -/

theorem passDue {b : Bool} : Formed s { t with passDue := b } := h.same

theorem chargeCtx {core slot : Nat} : Formed s (chargeCtx t core slot) := h.updCtx.draw

theorem freeSlot {core slot : Nat} : Formed s (freeSlot t core slot) := by
  unfold Machine.freeSlot
  exact h.updCore.setCtx.updIsland

theorem raisePtime {p n : Nat} : Formed s (raisePtime t p n) := h.updPart

theorem resetBars {n : Nat} : Formed s (resetBars t n) := h.foldl fun _ _ hu => hu.updCore

theorem leaveSlot {core slot : Nat} {ended : Bool} : Formed s (leaveSlot t core slot ended) := h.chargeCtx.updTeam.freeSlot

theorem teamOut {n : Nat} : Formed s (teamOut t n) := by
  unfold Machine.teamOut
  have hleft {l : List (Nat × Nat)} : Formed s (l.foldl (fun s p => Machine.leaveSlot s p.1 p.2 true) t) :=
    h.foldl fun _ _ hu => hu.leaveSlot
  refine .ite h ?_
  dsimp only
  split
  · exact hleft
  · split
    · exact hleft
    · exact readRing (passDue (raisePtime (setTeam hleft.settleBars.resetBars)))

theorem ctxoutRelease {core slot : Nat} : Formed s (ctxoutRelease t core slot) := .ite h.leaveSlot.yieldTeam.teamOut h

theorem outWithEnded {core slot : Nat} : Formed s (outWithEnded t core slot) := .ite h.teamOut h

theorem noteEnding {n : Nat} : Formed s (noteEnding t n) := .ite h.updTeam h

theorem afterOp {core slot : Nat} : Formed s (afterOp t core slot) := by
  unfold Machine.afterOp
  exact ctxoutRelease (noteEnding (outWithEnded (endingRelease (.ite h.supFaults h))))

end
end Formed
end Sys2Proof.Machine

/-! ## The issue of a bundle stays in form if its slots do -/

namespace Sys2Proof.Machine
set_option Elab.async false

/-- What a slot does at its issue, and once the pc has moved, stays in form. -/
structure SlotSem.Keeps (m : SlotSem) : Prop where
  eff : ∀ {s t : State} (p : At), Formed s t → Formed s (m.eff p t)
  fin : ∀ {s t : State} (p : At), Formed s t → Formed s (m.fin p t)

/-- A frame all of whose slots do. -/
def Frame.Keeps (f : Frame) : Prop := ∀ p ∈ f.pieces, p.sem.Keeps

/-- The slots that are read have the meanings given. -/
theorem keeps_readSlots {sem : Instr → SlotSem} (hs : ∀ i, (sem i).Keeps) {word : Nat → Nat} {rem : Tab Remembered} {a : Attr}
    {hdr rep : Nat} {js : List Nat} {w : Nat} {l : List Piece} (hl : readSlots sem word rem a hdr rep js w = .ok l) :
    ∀ p ∈ l, p.sem.Keeps := by
  induction js generalizing w l with
  | nil =>
    cases hl
    exact fun p hp => absurd hp List.not_mem_nil
  | cons j r ih =>
    simp only [readSlots] at hl
    split at hl
    · split at hl
      · cases hl
      · split at hl
        · cases hl
        next i _ _ rest hrest =>
          cases hl
          exact List.forall_mem_cons.mpr ⟨hs i, ih hrest⟩
    · split at hl
      · split at hl
        · cases hl
        · split at hl
          · cases hl
          next i _ _ rest hrest =>
            cases hl
            exact List.forall_mem_cons.mpr ⟨hs i, ih hrest⟩
      · exact ih hl

theorem keeps_fetchSlots {sem : Instr → SlotSem} (hs : ∀ i, (sem i).Keeps) {core slot : Nat} {s : State} {a : Attr}
    {ctl : Option Instr} {f : Frame} (hf : fetchSlots sem core slot s a ctl = .ok f) : f.Keeps := by
  simp only [fetchSlots] at hf
  split at hf
  · cases hf
  · split at hf
    · cases hf
    · split at hf
      · cases hf
      next l hl =>
        split at hf
        · cases hf
        · cases hf
          exact keeps_readSlots hs hl

theorem keeps_fetch {sem : Instr → SlotSem} (hs : ∀ i, (sem i).Keeps) {core slot : Nat} {s : State} {f : Frame}
    (hf : fetch sem core slot s = .ok f) : f.Keeps := by
  simp only [fetch] at hf
  split at hf
  · cases hf
  · split at hf
    · cases hf
    · exact keeps_fetchSlots hs hf

theorem keeps_soloFrame {i : Instr} {m : SlotSem} (hm : m.Keeps) (core slot : Nat) (s : State) : (soloFrame i m core slot s).Keeps := by
  intro p hp
  rw [List.mem_singleton.mp hp]
  exact hm

theorem keeps_atSlots {f : Frame} (hf : f.Keeps) (s : State) (core slot rep : Nat) : ∀ x ∈ atSlots s core slot rep f, x.2.Keeps := by
  intro x hx
  obtain ⟨p, hp, rfl⟩ := List.mem_map.mp hx
  exact hf p hp

namespace Formed
section
variable {s t : State} (h : Formed s t)
include h

theorem startOp {p : At} : Formed s (startOp p t) := .ite h.launch h.launch.updCtx

theorem offEffect {a : At} {m : SlotSem} : Formed s (offEffect a m t) := by
  unfold Machine.offEffect
  dsimp only
  split
  · exact h.updCtx
  · exact h.updCtx
  · exact h
  · exact h.startOp

theorem produce {a : At} {m : Lat} {d : Dst} {v : BitVec 512} : Formed s (produce a m d v t) := by
  unfold Machine.produce
  exact h.updCtx

omit h in
theorem runSlots {l : List (At × SlotSem)} (hl : ∀ x ∈ l, x.2.Keeps) {s t : State} (h : Formed s t) : Formed s (runSlots l t) := by
  induction l generalizing t with
  | nil => exact h
  | cons x r ih =>
    obtain ⟨hx, hr⟩ := List.forall_mem_cons.mp hl
    exact ih hr (.ite (hx.eff _ h) h.offEffect)

theorem endIssue {core slot rep : Nat} {f : Frame} : Formed s (endIssue t core slot f rep) := by
  unfold Machine.endIssue
  exact h.updCore.updCtx

theorem issueNow {core slot rep : Nat} {f : Frame} {l : List (At × SlotSem)} (hl : ∀ x ∈ l, x.2.Keeps) :
    Formed s (issueNow t core slot f rep l) := by
  unfold Machine.issueNow
  extract_lets u v goes w
  have hu : Formed s u := .ite h.hostWindow h
  have hw : Formed s w := (runSlots hl hu.updCtx).updCtx
  exact endIssue (List.foldlRecOn (motive := Formed s) l _ hw fun y hy x hx => .ite ((hl x hx).fin _ hy) hy)

theorem failBundle {core slot code sl k waddr : Nat} {tval : Word} : Formed s (failBundle t core slot code tval sl k waddr) := h.raise

theorem markHere {core slot : Nat} {u : State} (hu : markHere t core slot = some u) : Formed s u := by
  unfold Machine.markHere at hu
  dsimp only at hu
  split at hu
  · cases hu
    exact h
  · split at hu
    · cases hu
    · cases hu
      exact h.setCtx

theorem holdCounted {core slot : Nat} : Formed s (holdCounted t core slot) := h.updCtx

theorem issueGated {core slot rep : Nat} {f : Frame} {l : List (At × SlotSem)} (hl : ∀ x ∈ l, x.2.Keeps) :
    Formed s (issueGated t core slot f rep l) := by
  unfold Machine.issueGated
  refine .ite (h.issueNow hl) ?_
  split
  · exact h
  next u hu => exact (h.markHere hu).issueNow hl

theorem issueChecked {core slot rep : Nat} {f : Frame} (hf : f.Keeps) : Formed s (issueChecked t core slot f rep) := by
  unfold Machine.issueChecked
  have hl := keeps_atSlots hf t core slot rep
  dsimp only
  split
  · exact h.failBundle
  · split
    · exact h
    next u hu =>
      have hmark : Formed s u := by
        split at hu
        · exact h.markHere hu
        · cases hu
          exact h
      split
      · exact hmark.holdCounted
      · refine .ite hmark.holdCounted (.ite hmark ?_)
        split
        · exact hmark.failBundle
        · exact hmark.issueGated hl

theorem issueFrame {core slot : Nat} {f : Frame} (hf : f.Keeps) : Formed s (issueFrame t core slot f) := by
  unfold Machine.issueFrame
  dsimp only
  split
  · exact h
  next u hu =>
    have hmark : Formed s u := by
      split at hu
      · exact h.markHere hu
      · cases hu
        exact h
    split
    · refine .ite ?_ hmark.updCtx.holdCounted
      split
      · exact hmark.updCtx.setCtx
      · exact hmark.updCtx
    · exact .ite hmark.updCtx.updCtx (issueChecked hmark.updCtx.updCtx hf)

/-- One attempt of a context to issue a bundle whose slots stay in form. -/
theorem attempt {core slot : Nat} {get : State → Except BErr Frame} (hget : ∀ u f, get u = .ok f → f.Keeps) :
    Formed s (attempt t core slot get) := by
  unfold Machine.attempt
  refine .ite h (.ite h.supFaults (.ite h.enterTrap ?_))
  extract_lets u c
  have hu : Formed s u := h.updCtx
  refine .ite hu ?_
  split
  · exact hu
  next v hv =>
    have hmark : Formed s v := by
      split at hv
      · obtain ⟨w, hw, rfl⟩ := Option.map_eq_some_iff.mp hv
        exact (hu.markHere hw).updCtx
      · cases hv
        exact hu
    split
    · exact hmark.failBundle
    next f hf => exact hmark.issueFrame (hget _ f hf)

theorem issueOne {i : Instr} {m : SlotSem} (hm : m.Keeps) : Formed s (issueOne i m t) := by
  refine h.attempt fun u f hf => ?_
  cases hf
  exact keeps_soloFrame hm _ _ u

theorem issueCtl {sem : Instr → SlotSem} (hs : ∀ i, (sem i).Keeps) {i : Instr} {a : Attr} : Formed s (issueCtl sem i a t) :=
  h.attempt fun _ _ hf => keeps_fetchSlots hs hf

/-! ### Accesses -/

theorem answer {p : At} {d : Dst} {v : BitVec 512} {m : Nat} {x : Word} {leaves : Bool} {fault : Option Nat} :
    Formed s (answer p t d v m x leaves fault) := by
  unfold Machine.answer
  exact h.updCore.updCtx

theorem bar {p : At} : Formed s (bar p t) := h.updCtx

theorem devTouch {core slot oid o die pa n ty hint : Nat} {wr : Bool} : Formed s (devTouch t core slot oid o die pa n wr ty hint) := by
  unfold Machine.devTouch
  exact updCtx (request h.combineFor)

theorem uncorr {die store addr part core arg : Nat} : Formed s (t.uncorr die store addr part core arg) := h.still (.uncorr ..)

theorem errorAt {core slot : Nat} {pl : Place} {x : Word} : Formed s (errorAt t core slot pl x) := by
  cases pl with
  | sram c a => exact h.uncorr
  | dev d pa => exact .ite (uncorr (.ite h.recallWord h)) (uncorr (.ite h.recallWord h))
  | host a peer => exact h

theorem tableErr {core slot oid o code : Nat} : Formed s (tableErr t core slot oid o code) := by
  unfold Machine.tableErr
  refine .ite h (.ite h.uncorr ?_)
  split
  · exact h.uncorr
  · exact h

theorem partialErr {core slot : Nat} {pl : Place} {x : Word} : Formed s (partialErr t core slot pl x) := by
  unfold Machine.partialErr
  split
  · exact h.uncorr
  · exact h

theorem dmaErr {core slot : Nat} {x : Word} : Formed s (dmaErr t core slot x) := h.postE

theorem throughAt {core slot : Nat} {pl : Place} : Formed s (throughAt t core slot pl) := by
  unfold Machine.throughAt
  split
  · exact h.still (.writeThrough ..)
  · exact h

theorem touchAt {core slot oid o n ty hint : Nat} {pl : Place} {wr : Bool} : Formed s (touchAt t core slot oid o pl n wr ty hint) := by
  cases pl with
  | dev d pa => exact h.devTouch
  | sram c a =>
    unfold Machine.touchAt
    exact updCtx h.spadTouch
  | host a peer => exact h

theorem putAt {pl : Place} {n v : Nat} : Formed s (t.putAt pl n v) := by
  cases pl with
  | dev d pa => exact h.writeDev
  | sram c a => exact h.writeSram
  | host a peer => exact h

theorem doLoad {o : SM} {p : At} : Formed s (doLoad o p t) := by
  unfold Machine.doLoad
  dsimp only
  split
  · exact h.tableErr.answer.bar
  · exact .ite h.dmaErr.answer h.askHost.answer.updCtx
  · split
    · exact answer (errorAt (.ite h h.touchAt))
    · exact answer (.ite h h.touchAt)

theorem doStore {o : SM} {p : At} : Formed s (doStore o p t) := by
  unfold Machine.doStore
  dsimp only
  split
  · exact h.tableErr.answer.bar
  · exact .ite h.dmaErr.answer h.writeHost.answer
  · split
    · exact h.errorAt.answer
    · exact answer (throughAt h.touchAt.putAt)

theorem doPrefetch {o : SM} {p : At} : Formed s (doPrefetch o p t) := by
  unfold Machine.doPrefetch
  refine produce ?_
  split
  · exact .ite h h.request
  · exact h

theorem doAmo {o : SM} {m : Amo} {p : At} : Formed s (doAmo o m p t) := by
  unfold Machine.doAmo
  dsimp only
  split
  · refine .ite h.answer.bar ?_
    split
    · exact h.tableErr.answer.bar
    · exact .ite h.partialErr.answer h.commUpdate.updCtx.answer
    · exact h.answer.bar
  · split
    · exact h.tableErr.answer.bar
    · exact h.answer.bar
    · split
      · exact h.errorAt.answer
      · exact answer (throughAt h.touchAt.putAt)

end
end Formed

/-! ### The scalar memory instructions -/

namespace SlotSem.Keeps

/-- A slot that does nothing once the pc has moved. -/
theorem of_eff {m : SlotSem} (he : ∀ {s t : State} (p : At), Formed s t → Formed s (m.eff p t)) (hf : m.fin = fun _ s => s := by rfl) :
    m.Keeps where
  eff := he
  fin p h := by rw [hf]; exact h

/-- A slot that acts only once the pc has moved. -/
theorem of_fin {m : SlotSem} (hf : ∀ {s t : State} (p : At), Formed s t → Formed s (m.fin p t)) (he : m.eff = fun _ s => s := by rfl) :
    m.Keeps where
  eff p h := by rw [he]; exact h
  fin := hf

theorem default : ({} : SlotSem).Keeps := of_eff fun _ h => h

theorem amoSem (o : SM) (m : Amo) : (amoSem o m).Keeps := of_eff fun _ h => h.doAmo

theorem semLd (o : SM) : (semLd o).Keeps := of_eff fun _ h => h.doLoad

theorem semSt (o : SM) : (semSt o).Keeps := of_eff fun _ h => h.doStore

theorem semPf (o : SM) : (semPf o).Keeps := of_eff fun _ h => h.doPrefetch

theorem flushSem (o : SM) (drop : Bool) : (flushSem o drop).Keeps := by
  refine of_eff fun p h => ?_
  dsimp only [Machine.flushSem]
  refine Formed.updCtx (Formed.answer ?_)
  exact h.foldl fun _ _ hu => hu.still (.flushRange ..)

end SlotSem.Keeps
end Sys2Proof.Machine

/-! ## Dispatch, events, quiesce points and the governor stay in form -/

namespace Sys2Proof.Machine
set_option Elab.async false

/-- The next state of an outcome, if it has one, is in form. -/
def Goes (s : State) (o : Host.Outcome State Fault Refusal) : Prop := ∀ u, o = .next u → Formed s u

theorem Goes.next {s u : State} (h : Formed s u) : Goes s (.next u) := by
  intro v hv
  cases hv
  exact h

/-- The state that an attempt to place a team leaves is in form. -/
def Admit.Keeps (s : State) (a : Admit) : Prop :=
  match a with
  | .yes t | .energy t | .waking t => Formed s t
  | .no => True

namespace Formed
section
variable {s t : State} (h : Formed s t)
include h

theorem clearCore {c : Nat} : Formed s (t.setCore c {}) := h.trans ⟨fun hm => memoryForm_setCore c _ hm rfl, rfl⟩

theorem emptyL1 {c : Nat} : Formed s (emptyL1 t c) := h.still (.emptyL1 ..)

theorem takePages {core base n part : Nat} : Formed s (takePages t core base n part) := h.trans ⟨memoryForm_takePages core base n part, rfl⟩

theorem setSplit {core l1 : Nat} : Formed s (setSplit t core l1) := .ite h h.emptyL1.updCore

theorem loadCtx {w : Want} {team x0 y0 base prio core tidx : Nat} : Formed s (loadCtx t w team x0 y0 base prio core tidx) := by
  unfold Machine.loadCtx
  exact draw (setCtx (updCore (takePages (.ite h.setSplit h))))

theorem restoreBars {m : Team} {cores : List Nat} : Formed s (restoreBars t m cores) := h.foldl fun _ _ hu => hu.updBar

theorem admitTeam {w : Want} {vn : Nat} {team : Option Nat} {x0 y0 base prio : Nat} {rng : Option (Nat × Nat)} :
    Formed s (admitTeam t w vn team x0 y0 base prio rng) := by
  unfold Machine.admitTeam
  extract_lets cores u n m v w x y
  have hu : Formed s u := h.foldl fun _ _ hu => hu.updIsland
  have hv : Formed s v := hu.foldl fun _ _ hv => hv.loadCtx
  have hw : Formed s w := hv.restoreBars
  have hx : Formed s x := hw.same
  have hy : Formed s y := hx.setTeam
  exact hy.dropResv.updTask

theorem startStep {i v : Nat} : Formed s (startStep t i v) := by
  unfold Machine.startStep
  exact .ite h h.updIsland

theorem abortStrips {i : Nat} : Formed s (abortStrips t i) := by
  unfold Machine.abortStrips
  exact .ite h h.updIsland.startStep

theorem admitted {a : Admit} (ha : a.Keeps s) : Formed s (a.state t) := by
  cases a with
  | yes u => exact ha
  | energy u => exact ha
  | waking u => exact ha
  | no => exact h

theorem tryVariant {w : Want} {vn : Nat} {team : Option Nat} {prio : Nat} {rng : Option (Nat × Nat)} :
    (tryVariant t w vn team prio rng).Keeps s := by
  unfold Machine.tryVariant
  split
  · trivial
  · dsimp only
    split
    · exact h.foldl fun _ _ hu => hu.updIsland
    · split
      · exact h.foldl fun _ _ hu => hu.updIsland
      · split
        · exact admitTeam (h.foldl fun _ _ hu => hu.abortStrips)
        · trivial

omit h in
theorem tryVariants {i : Nat} {k : Task} {team : Option Nat} {back : Option Team} {prio : Nat} {rng : Option (Nat × Nat)}
    {first : Bool} {l : List Nat} {s t : State} (h : Formed s t) : (tryVariants t i k team back prio rng first l).Keeps s := by
  induction l generalizing t first with
  | nil => exact h
  | cons n r ih =>
    unfold Machine.tryVariants
    split
    · exact ih h
    next v oid _ =>
      have htry := h.tryVariant (w := { id := i, task := k, v := v, oid := oid, back := back }) (vn := n) (team := team)
        (prio := prio) (rng := rng)
      split
      next u hu => rw [hu] at htry; exact htry
      next u hu => rw [hu] at htry; exact htry
      · exact ih h
      next u hu =>
        rw [hu] at htry
        exact ih (.ite (updTask htry) htry)

theorem settleResv {l : List Cand} {p : Nat} : Formed s (settleResv t l p) := by
  unfold Machine.settleResv
  dsimp only
  split
  · exact .ite h h.touchResv.updPart
  · split
    · exact h.touchResv.updPart
    · exact h

theorem consider {c : Cand} : Formed s (consider t c) := by
  unfold Machine.consider
  split
  · exact h
  · split
    · split
      · exact h
      · exact .ite h.failTeam (h.admitted h.tryVariants)
    · exact .ite h (h.admitted h.tryVariants)

omit h in
theorem crack {p n : Nat} {skip : List Nat} {s t : State} (h : Formed s t) : Formed s (crack p n skip t) := by
  induction n generalizing t skip with
  | zero => exact h
  | succ n ih =>
    unfold Machine.crack
    split
    · exact h
    · split
      · exact h
      next m _ =>
        split
        next f e k _ _ =>
          dsimp only
          refine .ite h ?_
          have htry := h.tryVariants (i := m.task) (k := k) (team := none) (back := none) (prio := effPrio t p k.prio k.eligAt)
            (rng := some (f + k.grain * ((grainsLeft f e k.grain + 1) / 2), e)) (first := false) (l := variantOrder k)
          split
          next u hu =>
            rw [hu] at htry
            exact ih (updTeam htry)
          · exact ih (h.admitted htry)
        · exact h

theorem pass : Formed s (pass t) := by
  unfold Machine.pass
  refine foldl (foldl (foldl ?_ fun _ _ hu => hu.settleResv) fun _ _ hu => hu.consider) fun _ _ hu => hu.crack
  exact h.same

theorem startTeam {n : Nat} : Formed s (startTeam t n) := by
  unfold Machine.startTeam
  split
  · exact h
  · refine setTeam (h.foldl fun u p hu => ?_)
    dsimp only
    split
    · exact hu.setCtx
    · exact .ite hu.setCtx hu.enterSup

theorem finishTeam {n : Nat} {m : Team} : Formed s (finishTeam t n m) := by
  unfold Machine.finishTeam
  split
  · exact h.setTeam
  · extract_lets l u joules time mine v w x y src z
    have hu : Formed s u := h.foldl fun _ _ hu => hu.chargeCtx
    have hv : Formed s v := hu.same
    have hw : Formed s w := hv.resetBars
    have hx : Formed s x := hw.foldl fun _ _ hx => hx.freeSlot
    have hy : Formed s y := hx.raisePtime.setTeam
    have hz : Formed s z := hy.same
    exact .ite hz.endTask hz

/-! ### Events of contexts -/

theorem takeYields {n : Nat} : Formed s (takeYields t n) := h.foldl fun _ _ hu => .ite hu.enterTrap hu

theorem answerNow {core slot : Nat} {a : Acc} : Formed s (answerNow t core slot a) := h.respond.afterOp

theorem recallFrom {core die w : Nat} : Formed s (recallFrom t core die w) := h.still (.recallFrom ..)

theorem grantOldest {core : Nat} : Formed s (grantOldest t core) := h.still (.grantOldest ..)

/-! ### Quiesce points -/

theorem postCore {code phys core : Nat} : Formed s (postCore t code phys core) := h.postF

theorem retireCore {core : Nat} : Formed s (retireCore t core) :=
  clearCore (emptyL1 (h.foldl fun _ _ hu => hu.combineFor))

theorem restoreVmax {i : Nat} : Formed s (restoreVmax t i) := by
  unfold Machine.restoreVmax
  exact h.updIsland

theorem updWear {p : Nat} {f : Wear → Wear} : Formed s (t.updWear p f) := h.same

theorem sharedModes : Formed s (sharedModes t) := h.foldl fun _ _ hu => hu.updIsland

theorem replaceCore {die col j : Nat} : Formed s (replaceCore t die col j) := by
  unfold Machine.replaceCore
  extract_lets core old r ok u r' v w
  have hu : Formed s u := h.retireCore
  have hv : Formed s v := hu.same
  have hw : Formed s w := hv.restoreVmax.sharedModes
  exact .ite hw.restoreVmax hw.postCore

theorem applyColumn {die col : Nat} : Formed s (applyColumn t die col) := h.foldl fun _ _ hu => .ite hu.replaceCore hu

theorem applySpare {die col : Nat} : Formed s (applySpare t die col) := by
  unfold Machine.applySpare
  exact .ite h (.ite h.same (postCore (updWear h.same)))

theorem discardPartials {die pa n : Nat} : Formed s (discardPartials t die pa n) := by
  unfold Machine.discardPartials
  exact updDie (h.foldl fun _ _ hu => .ite hu.updCore hu)

theorem discardBlocks {die pa n : Nat} : Formed s (discardBlocks t die pa n) := by
  unfold Machine.discardBlocks
  exact updDie ((h.foldl fun _ _ hu => .ite hu.updCore hu).foldl fun _ _ hu => .ite hu.updCore hu)

theorem releasePage {psz : Nat} {e : Page} : Formed s (releasePage t psz e) := by
  unfold Machine.releasePage
  exact .ite (freeFrames (wipeDev h.discardPartials.discardBlocks)) (.ite h.dropFlash h)

theorem removeNow {oid : Nat} : Formed s (removeNow t oid) := by
  unfold Machine.removeNow
  split
  · exact h
  · exact setObj (freeFrames (h.foldl fun _ _ hu => hu.releasePage))

theorem remapPage {oid page : Nat} {e : Page} : Formed s (remapPage t oid page e) := by
  unfold Machine.remapPage
  split
  · exact h
  · exact h.releasePage.setPage

theorem endCommand {p res : Nat} : Formed s (endCommand t p res) := h.updPart

theorem applyObject {p op oid page frame : Nat} : Formed s (applyObject t p op oid page frame) := by
  refine endCommand ?_
  split
  · exact h.removeNow
  · exact h.remapPage
  · exact h.remapPage

theorem applyMove {oid page die : Nat} : Formed s (applyMove t oid page die) := by
  unfold Machine.applyMove
  refine .ite ?_ h
  cases hm : Machine.movePage t oid page die with
  | none => exact h
  | some u => exact h.movePage hm

theorem applyWork {w : QuiWork} : Formed s (applyWork t w) := by
  cases w with
  | column d c => exact h.applyColumn
  | spare d c => exact h.applySpare
  | object p op oid page frame => exact h.applyObject
  | bringIn p oid n => exact h
  | rectangle p => exact h
  | move oid page die => exact h.applyMove

theorem dropQuiesce {q : Quiesce} : Formed s (dropQuiesce t q) := h.same

theorem readNotif {n : Nat × Nat × Nat × Nat} : Formed s (readNotif t n) := by
  unfold Machine.readNotif
  exact .ite h h.same

theorem hintMove : Formed s (hintMove t) := by
  unfold Machine.hintMove
  split
  · exact h
  · exact .ite h h.draw.same

/-! ### Rings and system registers -/

theorem writeEntry {p q : Nat} : Formed s (writeEntry t p q) := by
  unfold Machine.writeEntry
  dsimp only
  split
  · exact h
  · refine .ite h.send.updQueue ?_
    split
    · exact h.send.updQueue.freeTask
    · exact h.send.updQueue

theorem writeSome {accept : Bool} : Formed s (writeSome t accept) := by
  unfold Machine.writeSome
  dsimp only
  split
  · exact h.draw.writeEntry
  · exact h

theorem srWrite {core slot code : Nat} {v : Word} : Formed s (srWrite t core slot code v) := h.updCtx

theorem endContext {core slot : Nat} : Formed s (endContext t core slot) := h.updCtx.afterOp

theorem passCycles {core : Nat} : Formed s (passCycles t core) := h.updCore.draw

end
end Formed

/-! ### The events -/

section
variable (s : State)

theorem goes_dispatcherPass : Goes s (execDispatcherPass s) := .next (.ite (.pass (.refl s)) (.refl s))

theorem goes_islandWake (i : Nat) : Goes s (execIslandWake i s) := .next (.ite (.same (.refl s)) (.refl s))

theorem goes_fallbackPressure : Goes s (execFallbackPressure s) := by
  refine .next ((Formed.refl s).foldl fun u e hu => ?_)
  split
  · exact hu.postE.updTask
  · exact hu

theorem goes_teamLoaded : Goes s (execTeamLoaded s) := by
  refine .next ?_
  split
  · exact (Formed.refl s).draw.startTeam
  · exact .refl s

theorem goes_teamComplete : Goes s (execTeamComplete s) := by
  refine .next ?_
  split
  · split
    · exact (Formed.refl s).draw.finishTeam
    · exact .refl s
  · exact .refl s

theorem goes_trapEntry (core slot : Nat) : Goes s (execTrapEntry core slot s) := .next (.enterTrap (.refl s))

theorem goes_formatWriteEffect (core slot : Nat) : Goes s (execFormatWriteEffect core slot s) := .next (.updCtx (.refl s))

theorem goes_yieldRequest (n : Nat) : Goes s (execYieldRequest n s) := .next (Formed.refl s).yieldTeam.takeYields

theorem goes_scalarAccessResponse (core slot id : Nat) : Goes s (execScalarAccessResponse core slot id s) := by
  refine .next ?_
  split
  · exact .ite (.refl s) (.answerNow (.refl s))
  · exact .refl s

theorem goes_cacheFlushComplete (core slot id : Nat) : Goes s (execCacheFlushComplete core slot id s) := by
  refine .next ?_
  split
  · exact .ite (.answerNow (.refl s)) (.refl s)
  · exact .refl s

theorem goes_nextLanding (core slot : Nat) : Goes s (execNextLanding core slot s) := .next (Formed.refl s).updCtx.afterOp

theorem goes_rangeClaim : Goes s (execRangeClaim s) := by
  refine .next ?_
  dsimp only
  split
  · exact (Formed.refl s).draw.serveClaim
  · exact .refl s

theorem goes_droopWindowEnd (core slot : Nat) : Goes s (execDroopWindowEnd core slot s) := .next (Formed.refl s).windowEnd.afterOp

theorem goes_homeRequest (core slot die pa : Nat) (wr : Bool) (ty : Nat) : Goes s (execHomeRequest core slot die pa wr ty s) := by
  unfold execHomeRequest
  exact .next (Formed.updCtx (Formed.refl s).combineFor.request)

theorem goes_ownRecall (core die pa : Nat) : Goes s (execOwnRecall core die pa s) := .next (Formed.refl s).recallFrom

theorem goes_writeBackGrant (core : Nat) : Goes s (execWriteBackGrant core s) := .next (Formed.refl s).grantOldest

theorem goes_quiescePoint : Goes s (execQuiescePoint s) :=
  .next ((Formed.refl s).foldl fun _ _ hu => .ite hu.dropQuiesce.applyWork hu)

theorem goes_quiesceLimitExpiry : Goes s (execQuiesceLimitExpiry s) :=
  .next ((Formed.refl s).foldl fun _ _ hu => hu.foldl fun _ _ hv => hv.yieldTeam.takeYields)

theorem goes_pageRequestSettle (p : Nat) (flashOk : Bool) : Goes s (execPageRequestSettle p flashOk s) := by
  refine .next ?_
  split
  · exact .refl s
  · split
    · exact .refl s
    · exact (Formed.refl s).dropQuiesce.bringIn.readRing

theorem goes_notificationQueueRead : Goes s (execNotificationQueueRead s) :=
  .next (Formed.hintMove ((Formed.refl s).foldl fun _ _ hu => hu.updDie.foldl fun _ _ hv => hv.readNotif))

theorem goes_acceptanceEntryWrite : Goes s (execAcceptanceEntryWrite s) := .next (Formed.refl s).writeSome

theorem goes_completionEntryWrite : Goes s (execCompletionEntryWrite s) := .next (Formed.refl s).writeSome

end
end Sys2Proof.Machine

/-! ## The governor, wear and the passing of time stay in form -/

namespace Sys2Proof.Machine
set_option Elab.async false

theorem setTrip_die {s : State} {d : Nat} : Formed s (({ s with trip := some (s.trip.getD s.now), tripDies := s.tripDies ++ [d] }).postF 0x67 (die := d)) :=
  Formed.postF (Formed.same (.refl s))

namespace Formed
section
variable {s t : State} (h : Formed s t)
include h

theorem postAll {code : Nat} : Formed s (postAll t code) := h.foldl fun _ _ hu => hu.postE

theorem postIsland {i code : Nat} : Formed s (postIsland t i code) := h.foldl fun _ _ hu => hu.postE

theorem setBp : Formed s (setBp t) := by
  unfold Machine.setBp
  extract_lets u draw top hot cool peak calm thlim peaklim n lower n' v
  have hu : Formed s u := h.foldl fun _ _ hu => hu.updIsland
  clear_value u
  have hv : Formed s v := hu.same
  exact .ite hv.postF.postAll hv

theorem setTrip : Formed s (setTrip t) := by
  unfold Machine.setTrip
  exact .ite h.same (h.foldl fun _ _ hu => .ite (hu.trans setTrip_die) hu)

theorem setFloors {f : List Nat} {infeas : Bool} : Formed s (setFloors t f infeas) := by
  unfold Machine.setFloors
  extract_lets moved u posted v
  have hu : Formed s u := h.foldl fun _ _ hu => .ite hu.postE.updPart hu
  clear_value u
  have hposted : Formed s posted := hu.postF
  clear_value posted
  have hv : Formed s v := .ite hposted.same hu
  exact hv.foldl fun _ _ hw => hw.updPart

theorem meterIsland {i : Nat} : Formed s (meterIsland t i) := h.updIsland

theorem balanceIsland {i : Nat} : Formed s (balanceIsland t i) := h.updIsland

theorem chargeCtxs {core : Nat} : Formed s (chargeCtxs t core) := h.foldl fun _ _ hu => hu.chargeCtx

theorem stallCore {core : Nat} : Formed s (stallCore t core) := by
  unfold Machine.stallCore
  exact h.updCore.updCore

theorem warnIsland {i m : Nat} : Formed s (warnIsland t i m) := .ite h h.updIsland.postIsland

theorem setLevel {i l : Nat} : Formed s (setLevel t i l) := .ite h.updIsland.postIsland h.updIsland

theorem throttleIsland {i m : Nat} : Formed s (throttleIsland t i m) := by
  unfold Machine.throttleIsland
  extract_lets x proj u y
  have hu : Formed s u := .ite h.warnIsland (.ite h.updIsland h)
  exact .ite hu.setLevel (.ite hu.setLevel hu)

theorem limitIsland {i m : Nat} {was now' : Bool} : Formed s (limitIsland t i m was now') := by
  unfold Machine.limitIsland
  exact .ite (.ite (.ite h.updIsland.warnIsland h) (.ite h.updIsland (.ite h.updIsland.setLevel h)))
    (.ite h.throttleIsland h.setLevel.updIsland)

theorem reachStep {i : Nat} : Formed s (reachStep t i) := by
  unfold Machine.reachStep
  dsimp only
  split
  · exact .ite h.updIsland h
  · exact h

theorem judgeRequest {i : Nat} {r : Int} : Formed s (judgeRequest t i r) := by
  unfold Machine.judgeRequest
  exact .ite (.ite h.startStep h.updIsland.postIsland) h.startStep

theorem dvfsIsland {i : Nat} : Formed s (dvfsIsland t i) := by
  unfold Machine.dvfsIsland
  extract_lets u x
  have hu : Formed s u := .ite h.abortStrips h
  refine .ite hu (.ite hu.startStep (.ite hu.startStep (.ite hu.startStep ?_)))
  split
  · exact hu.judgeRequest
  · exact hu

theorem sleepCore {core : Nat} : Formed s (sleepCore t core) := emptyL1 (h.foldl fun _ _ hu => hu.combineFor)

theorem retainIsland {i : Nat} : Formed s (retainIsland t i) := by
  unfold Machine.retainIsland
  exact .ite h.updIsland (.ite (updIsland (h.foldl fun _ _ hu => hu.sleepCore)) h)

theorem wearCore {core : Nat} : Formed s (wearCore t core) := by
  unfold Machine.wearCore
  exact h.updWear.foldl fun _ _ hu => hu.updCtx

theorem enterWear {p st code : Nat} : Formed s (enterWear t p st code) := h.updWear.postCore

theorem derate {p : Nat} : Formed s (derate t p) := by
  unfold Machine.derate
  exact .ite h.enterWear.updWear h.enterWear.updIsland

theorem askColumn {w : QuiWork} {die col : Nat} : Formed s (askColumn t w die col) := by
  unfold Machine.askColumn
  exact .ite h h.same

theorem wearStates {p : Nat} : Formed s (wearStates t p) := by
  unfold Machine.wearStates
  extract_lets life w u v x y
  have hu : Formed s u := .ite h.derate h
  have hv : Formed s v := .ite hu.enterWear hu
  have hy : Formed s y := .ite hv.enterWear hv
  exact .ite hy (.ite hy.askColumn (.ite hy.askColumn hy))

theorem setPwrstat {scaled : Bool} : Formed s (setPwrstat t scaled) := h.same

theorem govern {m : Nat} : Formed s (govern t m) := by
  unfold Machine.govern
  extract_lets was tripWas u1 infeas u2 u3 u4 u5 f u6 g u7 u8 u9 u10 u11
  have h1 : Formed s u1 := h.setBp.setTrip
  clear_value u1
  have h2 : Formed s u2 := h1.same
  clear_value u2
  have h3 : Formed s u3 := .ite h2.postF.postAll h2
  clear_value u3
  have h4 : Formed s u4 := h3.foldl fun _ _ hu => hu.meterIsland
  clear_value u4
  have h5 : Formed s u5 := .ite h4 (h4.foldl fun _ _ hu => hu.balanceIsland)
  clear_value u5
  have h6 : Formed s u6 := h5.setFloors
  clear_value u6
  have h7 : Formed s u7 := h6.same
  clear_value u7
  have h8 : Formed s u8 := h7.foldl fun _ _ hu => hu.updIsland
  clear_value u8
  have h9 : Formed s u9 := h8.foldl fun _ _ hu => hu.limitIsland
  clear_value u9
  have h10 : Formed s u10 := h9.foldl fun _ _ hu => hu.dvfsIsland
  clear_value u10
  have h11 : Formed s u11 := h10.foldl fun _ _ hu => hu.updIsland
  clear_value u11
  exact h11.setPwrstat

theorem setActive {n : Nat} : Formed s { t with active := n } := h.same

theorem countInterval {m n : Nat} : Formed s ({ t with intv := m, nextClose := n, passDue := true } : State).draw := h.same

theorem closeInterval : Formed s (closeInterval t) := by
  unfold Machine.closeInterval
  extract_lets m u1 u2 u3 u4 u5 u6
  have h1 : Formed s u1 := h.foldl fun _ _ hu => hu.reachStep
  have h2 : Formed s u2 := h1.foldl fun _ _ hu => hu.stallCore.chargeCtxs
  have h3 : Formed s u3 := h2.govern
  have h4 : Formed s u4 := h3.foldl fun _ _ hu => hu.retainIsland
  have h5 : Formed s u5 := h4.foldl fun _ _ hu => hu.wearCore
  have h6 : Formed s u6 := h5.foldl fun _ _ hu => hu.wearStates
  clear_value u6
  exact countInterval (h6.setActive.foldl fun _ _ hu => hu.readRing)

/-! ### Calibration -/

theorem calibFail {i : Nat} : Formed s (calibFail t i) := h.postF

theorem failSpare {p : Nat} : Formed s (failSpare t p) := h.askColumn

theorem stripSetting {i v : Nat} {atTop : Bool} {gone : List Nat} : Formed s (stripSetting t i v atTop gone) := by
  unfold Machine.stripSetting
  exact h.updIsland.startStep.updIsland

theorem startStrips {i : Nat} : Formed s (startStrips t i) := by
  unfold Machine.startStrips
  exact h.updIsland.stripSetting

theorem endStrips {i : Nat} {fp : Option Nat} : Formed s (endStrips t i fp) := by
  unfold Machine.endStrips
  refine updIsland ?_
  split
  · exact .ite h.calibFail h
  · exact h

theorem dropFailing {l : List Nat} : Formed s (dropFailing t l) := h.foldl fun _ _ hu => .ite hu hu.updWear

theorem stripResult {i : Nat} {x : Strips} {bad : List Nat} : Formed s (stripResult t i x bad) := by
  unfold Machine.stripResult
  have hspare : Formed s ((bad.filter t.isSpare).foldl Machine.failSpare t) := h.foldl fun _ _ hu => hu.failSpare
  dsimp only
  exact .ite (.ite hspare.endStrips hspare.stripSetting) (.ite hspare.calibFail.stripSetting
    (.ite (.ite hspare.calibFail.dropFailing.endStrips hspare.calibFail.dropFailing.stripSetting) hspare.endStrips))

theorem stepStrips {i : Nat} {x : Strips} {fails : List Nat} : Formed s (stepStrips t i x fails) :=
  stripResult (h.reachStep.draw.foldl fun _ _ hu => hu.updWear)

/-! ### Time -/

theorem elapsed {ns : Nat} : Formed s (elapsed t ns) :=
  .ite h (h.foldl fun _ _ hu => hu.foldl fun _ _ hv => hv.updCtx)

/-- What the choice of the next step leaves: time passes, and the agenda moves on (log entry 2). -/
theorem takeStep : Formed s (takeStep t).1 := by
  unfold Machine.takeStep
  split
  · dsimp only
    split
    · exact elapsed h.same
    · exact elapsed h.same
  · dsimp only
    split
    · exact elapsed h.draw.same
    · exact elapsed h.draw.same

end
end Formed

/-! ### The events -/

section
variable (s : State)

theorem goes_governorIntervalClose : Goes s (execGovernorIntervalClose s) := .next (.ite (.closeInterval (.refl s)) (.refl s))

theorem goes_voltageStepReached (i : Nat) : Goes s (execVoltageStepReached i s) := .next (.reachStep (.refl s))

theorem goes_meterCorrection (i coeff : Nat) : Goes s (execMeterCorrection i coeff s) := .next (.updIsland (.refl s))

theorem goes_droopStretch (i : Nat) : Goes s (execDroopStretch i s) := .next (.updIsland (.refl s))

theorem goes_droopRecovery (i : Nat) : Goes s (execDroopRecovery i s) := .next (.updIsland (.refl s))

theorem goes_suspectDroop (i : Nat) : Goes s (execSuspectDroop i s) :=
  .next ((Formed.refl s).foldl fun _ _ hu => hu.foldl fun _ _ hv => hv.fogCtx)

theorem goes_silentError (core slot : Nat) : Goes s (execSilentError core slot s) :=
  .next (.ite (.draw (.refl s)) (Formed.refl s).draw.fogCtx)

theorem goes_testStrips (i : Nat) (fails : List Nat) : Goes s (execTestStrips i fails s) := by
  refine .next ?_
  split
  · exact .ite (.stepStrips (.refl s)) (.refl s)
  · exact .ite (.startStrips (.refl s)) (.refl s)

theorem goes_calibrationOverdue (i : Nat) : Goes s (execCalibrationOverdue i s) :=
  .next (.ite (Formed.refl s).updIsland.calibFail (.refl s))

end
end Sys2Proof.Machine

/-! ## Rows of vector and matrix operations stay in form -/

namespace Sys2Proof.Machine
set_option Elab.async false

/-- What a row changes besides elements and counts stays in form. -/
def RowOut.Keeps (r : RowOut) : Prop := ∀ s t : State, Formed s t → Formed s (r.extra t)

/-- A row that changes nothing else. -/
theorem RowOut.Keeps.of_extra {r : RowOut} (h : r.extra = fun s => s) : r.Keeps := by
  intro s t ht
  rw [h]
  exact ht

theorem keeps_statRow (e : Env) (td n : Nat) (clr : Bool) : (statRow e td n clr).Keeps := fun _ _ h => .ite h.updCtx h

theorem extra_sharedRow (f : Nat → RowOut) (i : Nat) : (sharedRow f i).extra = (f i).extra := rfl

theorem extra_scatOut (e : Env) (o : VT) (i : Nat) : (scatOut e o i).extra = fun s => s := by
  unfold scatOut
  dsimp only
  split
  · rfl
  · split <;> rfl

/-- No row of a vector operation but that of `vstat` changes anything besides elements and counts. -/
theorem keeps_vecRow (e : Env) (i : Nat) (r : RowOut) (hr : vecRow e i = some r) : r.Keeps := by
  unfold vecRow at hr
  dsimp only at hr
  split at hr
  case h_23 =>
    split at hr <;> cases hr <;> exact RowOut.Keeps.of_extra rfl
  case h_47 =>
    cases hr
    exact RowOut.Keeps.of_extra ((extra_sharedRow _ i).trans (extra_scatOut ..))
  case h_54 =>
    cases hr
    exact keeps_statRow _ _ _ _
  case h_55 => cases hr
  all_goals
    cases hr
    exact RowOut.Keeps.of_extra rfl

theorem sram_finishLoad (s : State) (e : Env) :
    let k := s.core e.core
    let p := k.plane e.o.cap.plane
    let p := if e.o.nrows = 0 then { p with w := [], sc := [] } else p
    ((k.setPlane e.o.cap.plane p).updRecord e.o.id (fun p => { p with loaded := true, loading := false })).sram = k.sram :=
  (sram_updRecord ..).trans (Core.sram_setPlane ..)

theorem keeps_loadRow (e : Env) (t : Nat) (down : Bool) (r : Nat) : (loadRow e t down r).Keeps :=
  fun _ _ h => h.updCore fun k => Core.sram_setPlane k _ _

theorem keeps_mstatRow (e : Env) (o : MT) (i : Nat) : (mstatRow e o i).Keeps := by
  unfold mstatRow
  split
  · exact keeps_statRow _ _ _ _
  · exact RowOut.Keeps.of_extra rfl

/-- Rows of matrix operations change besides elements and counts the plane that is loaded, or a status that is read. -/
theorem keeps_matRow (e : Env) (i : Nat) (r : RowOut) (hr : matRow e i = some r) : r.Keeps := by
  unfold matRow at hr
  split at hr
  case h_1 | h_2 =>
    cases hr
    exact keeps_loadRow _ _ _ _
  case h_8 =>
    cases hr
    exact keeps_mstatRow _ _ _
  case h_9 => cases hr
  all_goals
    cases hr
    exact RowOut.Keeps.of_extra rfl

namespace Formed
section
variable {s t : State} (h : Formed s t)
include h

theorem writeCode {core slot n : Nat} {d : BitVec 128} {i j v : Nat} : Formed s (writeCode t core slot n d i j v) := by
  unfold Machine.writeCode
  dsimp only
  refine .ite h.updCtx ?_
  split
  · exact h.writeSram
  · exact h

theorem healAcc {e : Env} {r : RowOut} : Formed s (healAcc e r t) := .ite h h.updCore

theorem healRow {e : Env} {r : RowOut} : Formed s (healRow e r t) := by
  unfold Machine.healRow
  exact .ite h.healAcc h.healAcc.updCore

omit h in
theorem envTouch {x : State × Nat} (h : Formed s x.1) {e : Env} {wr : Bool} {l : List (Nat × Nat × Nat)} : Formed s (e.touch wr l x).1 := by
  refine h.foldlFst fun y a hy => ?_
  split
  · exact hy
  · split
    · split
      · exact hy
      · exact hy.spadTouch
    · exact hy

omit h in
theorem setTime {x : State × Nat} (h : Formed s x.1) {e : Env} : Formed s (e.setTime x) := h.updOp

theorem touchRow {e : Env} {r : RowOut} {whole : Bool} : Formed s (touchRow e r whole t) := by
  unfold Machine.touchRow
  have hx : Formed s (e.touch false r.reads (t, e.o.time)).1 := envTouch h
  dsimp only
  split
  · exact (envTouch hx).setTime
  · exact hx.setTime

/-- A row is committed. -/
theorem commitRow {e : Env} {r : RowOut} (hr : r.Keeps) : Formed s (commitRow e r t) := by
  unfold Machine.commitRow
  exact hr _ _ (updCtx (h.healRow.foldl fun _ _ hu => hu.writeCode))

/-- A row is reached. -/
theorem reachRow {e : Env} {r : RowOut} (hr : r.Keeps) : Formed s (reachRow e r t) := by
  unfold Machine.reachRow
  exact updOp (hr _ _ (updCtx (h.touchRow.healAcc.foldl fun _ _ hu => hu.writeCode)))

theorem finishLoad {e : Env} : Formed s (finishLoad e t) := h.setCore (sram_finishLoad t e)

theorem writeTable {p : At} {toW : Arch → Bool} {l : Env → List (BitVec 16)} {e : Env} : Formed s (writeTable p toW l t e) := h.updCtx

/-- What is read at issue changes nothing but times, errors and faults beside the effect given. -/
theorem readAtIssue {p : At} {e : Env} {l : List (Nat × Nat × Nat)} {eff : State → State} (he : ∀ u, Formed s u → Formed s (eff u)) :
    Formed s (readAtIssue p t e l eff) := by
  unfold Machine.readAtIssue
  split
  · exact he _ (updCtx (envTouch h))
  · exact h.uncorr.updCore.updCtx

end
end Formed

namespace SlotSem.Keeps

theorem vecSem (fmts : At → Arch → List (Option Trap)) (shape : At → Arch → Option Trap) : (vecSem fmts shape).Keeps :=
  of_eff fun _ h => h.startOp

theorem matSem (down : Bool) (fmts : At → State → List (Option Trap)) (shape : At → Arch → Option Trap) : (matSem down fmts shape).Keeps :=
  of_eff fun _ h => h.startOp

theorem tableSem (o : MT) (fmts : At → State → List (Option Trap)) (toW : Arch → Bool) (l : Env → List (BitVec 16))
    (cnts : Env → List Cnt) : (tableSem o fmts toW l cnts).Keeps :=
  of_eff fun _ h => h.readAtIssue fun _ hu => hu.updCtx.writeTable

theorem copySem (fmt post : At → State → Option Trap) : (copySem fmt post).Keeps := of_eff fun _ h => h.startOp

end SlotSem.Keeps
end Sys2Proof.Machine

/-! ## Copies stay in form -/

namespace Sys2Proof.Machine
set_option Elab.async false
namespace Formed

/-- The state of a nested pair that has been taken apart. -/
theorem of_pair {α β : Type} {s u : State} {x : (State × α) × β} {n : α} {b : β} (h : Formed s x.1.1) (hx : x = ((u, n), b)) : Formed s u := by
  subst hx
  exact h

/-- The state and the value beside it, taken apart from an answer. -/
theorem of_end {α β : Type} {s : State} {x : (State × α) × β} {y : State × α} {b : β} (h : Formed s x.1.1) (hx : x = (y, b)) : Formed s y.1 := by
  subst hx
  exact h

section
variable {s : State} {x : State × Nat} (h : Formed s x.1)
include h

theorem sideErr {core slot oid o n : Nat} {d : Except Nat Side} : Formed s (sideErr core slot oid o n d x).1 := by
  unfold Machine.sideErr
  split
  · dsimp only
    exact h.tableErr
  · exact h

theorem readSeg {core slot : Nat} {seen : List (Place × List Byte)} {g : Seg} : Formed s (readSeg core slot seen g x).1.1 := by
  unfold Machine.readSeg
  have ht : Formed s (Machine.touchChunk core slot g.pl g.oid g.o g.n false x).1 := h.touchChunk
  split
  · exact h
  · extract_lets y u
    have hy : Formed s y.1 := ht
    have hu : Formed s u := hy
    clear_value u y
    split
    · exact hu.errorAt
    · split
      · exact hy
      · exact hy
      · split
        · exact hu.dmaErr
        · exact hu.askHost.same

theorem readSegs {core slot : Nat} {seen : List (Place × List Byte)} {l : List Seg} : Formed s (readSegs core slot seen l x).1.1 := by
  induction l generalizing x with
  | nil => exact h
  | cons g r ih =>
    have hg : Formed s (Machine.readSeg core slot seen g x).1.1 := h.readSeg
    simp only [Machine.readSegs]
    split
    next y k hy => exact hg.of_end hy
    next y b hy =>
      have hr : Formed s (Machine.readSegs core slot seen r y).1.1 := ih (hg.of_end hy)
      split
      next z k hz => exact hr.of_end hz
      next z k hz => exact hr.of_end hz

theorem reachSegs {core slot row : Nat} {seen : List (Place × List Byte)} {n : Nat} {l : List Seg} :
    Formed s (reachSegs core slot row seen n l x).1.1 := by
  induction l generalizing x n with
  | nil => exact h
  | cons g r ih =>
    simp only [Machine.reachSegs]
    split
    · have hr : Formed s (Machine.reachSegs core slot row seen (n + g.n) r x).1.1 := ih h
      split
      next z k hz => exact hr.of_end hz
      next z k hz => exact hr.of_end hz
    · have hg : Formed s (Machine.readSeg core slot seen g x).1.1 := h.readSeg
      split
      next y k hy => exact hg.of_end hy
      next y b hy =>
        have hr : Formed s (Machine.reachSegs core slot row seen (n + g.n) r y).1.1 := ih (hg.of_end hy)
        split
        next z k hz => exact hr.of_end hz
        next z k hz => exact hr.of_end hz

theorem readSide {core slot : Nat} {seen : List (Place × List Byte)} {d : Side} : Formed s (readSide core slot seen d x).1.1 := by
  cases d with
  | segs l keep => exact h.readSegs
  | value b => exact h
  | acc n i =>
    simp only [Machine.readSide]
    split
    · exact h.uncorr
    · exact h

theorem takeSide {core slot row : Nat} {whole : Bool} {seen : List (Place × List Byte)} {src : Side} {dsts : List Side} :
    Formed s (takeSide core slot row whole seen src dsts x).1.1 := by
  have hr {d : Side} : Formed s (Machine.readSide core slot seen d x).1.1 := h.readSide
  unfold Machine.takeSide
  split
  · split
    · next l _ _ =>
      have hl : Formed s (Machine.readSegs core slot seen l x).1.1 := h.readSegs
      split
      next y k hy => exact hl.of_end hy
      next y b hy => exact hl.of_end hy
    · exact h.reachSegs
  · split
    next y k hy => exact hr.of_end hy
    next y b hy => exact hr.of_end hy

omit h in
/-- What a write of a side would meet has been logged. -/
theorem sideFails {s t u : State} (h : Formed s t) {core slot k : Nat} {d : Side} (hd : sideFails core slot t d = some (k, u)) : Formed s u := by
  unfold Machine.sideFails at hd
  split at hd
  · split at hd
    · cases hd
    · split at hd
      · cases hd
        exact h.dmaErr
      · cases hd
        exact h.errorAt
  · cases hd

omit h in
theorem writeSide {s t : State} (h : Formed s t) {core slot row : Nat} {b : List Byte} {d : Side} :
    Formed s (writeSide core slot row b t d).1 := by
  cases d with
  | segs l keep => exact h
  | acc n i =>
    dsimp only [Machine.writeSide]
    exact (updCtx h).updCore
  | value b => exact h

theorem moveRow {core slot row : Nat} {whole : Bool} {seen : List (Place × List Byte)} {src : Side} {dsts : List Side}
    {soff off : Word} : Formed s (moveRow core slot row whole seen src dsts soff off x).1.1 := by
  have ht : Formed s (Machine.takeSide core slot row whole seen src dsts x).1.1 := h.takeSide
  unfold Machine.moveRow
  split
  next k u hu =>
    obtain ⟨d, -, hd⟩ := List.exists_of_findSome?_eq_some hu
    exact h.sideFails hd
  · split
    next y k hy => exact ht.of_end hy
    next y b hy =>
      have hy' : Formed s y.1 := ht.of_end hy
      exact foldlFst (x := (y.1, [])) hy' fun z d hz => hz.writeSide

theorem indexAt {core slot : Nat} {u : State} {d : BitVec 128} {i : Nat} : Formed s (indexAt u core slot d i x).1.1 := by
  unfold Machine.indexAt
  split
  · exact h
  · split
    · exact h
    next l _ =>
      have hl : Formed s (Machine.readSegs core slot [] l x).1.1 := h.readSegs
      split
      next y k hy => exact hl.of_end hy
      next y b hy => exact hl.of_end hy

theorem moveOk {src dst : Except Nat Side} {soff off : Word} : Formed s (moveOk src dst soff off x).1.1 := by
  unfold Machine.moveOk
  split <;> exact h

theorem pushRow {core : Nat} {e : EOp} {o : CP} {d : BitVec 128} {i : Nat} : Formed s (pushRow core e o d i x).1.1 := by
  unfold Machine.pushRow
  dsimp only
  split
  · exact h
  · split
    · exact h
    · split <;> exact h

theorem accumRow {core : Nat} {e : EOp} {o : CP} {d : BitVec 128} {i : Nat} : Formed s (accumRow core e o d i x).1.1 := by
  unfold Machine.accumRow
  dsimp only
  split
  · exact h
  · split
    · exact h
    · split
      · dsimp only
        exact h.tableErr
      · split
        · exact h
        · split
          · exact h
          · split
            · exact h
            · split
              · exact h
              · split
                · exact h.sideErr
                · exact h.sideErr
                · split <;> exact h
                · exact h

theorem fillRow {core slot : Nat} {l : List Seg} : Formed s (fillRow core slot l x).1 := by
  refine h.foldlFst fun y g hy => ?_
  split
  · exact hy.still (.l2Touch ..)
  · exact hy

theorem memRow {core : Nat} {e : EOp} {kn n : Nat} {off : Word} {load : Bool} {keep : Nat} {other : Except Nat Side} :
    Formed s (memRow core e kn n off load keep other x).1.1 := by
  unfold Machine.memRow
  split
  · exact h
  · dsimp only
    split
    · exact h.sideErr.moveOk
    · exact h.sideErr.moveOk

theorem indexedRow {core : Nat} {e : EOp} {o : CP} {d : BitVec 128} {i : Nat} {load : Bool} {n : Option Nat} :
    Formed s (indexedRow core e o d i load n x).1.1 := by
  unfold Machine.indexedRow
  dsimp only
  split
  · split
    · exact h.moveOk
    · exact h
  · exact h.memRow

theorem planRow {core : Nat} {e : EOp} {i : Nat} : Formed s (planRow core e i x).1.1 := by
  have hx {d : BitVec 128} : Formed s (Machine.indexAt x.1 core e.slot d i x).1.1 := h.indexAt
  unfold Machine.planRow
  dsimp only
  split
  · exact h
  · split
    · exact h.memRow
    · exact h.memRow
    · split
      next y k hy => exact hx.of_end hy
      next y n hy => exact (hx.of_end hy).indexedRow
    · split
      next y k hy => exact hx.of_end hy
      next y n hy => exact (hx.of_end hy).indexedRow
    · exact h.pushRow
    · exact h.pushRow
    · exact h.accumRow
    · exact h.moveOk
    · split
      · exact h
      · exact h
      · split
        · exact h.sideErr
        · exact h.sideErr.moveOk
    · split
      · exact h
      · split <;> split
        · exact h
        · split <;> exact h
        · exact h
        · split <;> exact h
    · exact h

theorem updateRow {core row : Nat} {e : EOp} {whole : Bool} {src : Side} {l : List Seg} {off : Word} :
    Formed s (updateRow core row e whole src l off x).1.1 := by
  have ht : Formed s (Machine.takeSide core e.slot row whole (e.aheadOf row) src [] x).1.1 := h.takeSide
  unfold Machine.updateRow
  split
  · exact h.partialErr
  · split
    next y k hy => exact ht.of_end hy
    next y b hy => exact ht.of_end hy

theorem copyRow {core : Nat} {e : EOp} {i : Nat} {whole : Bool} : Formed s (copyRow core e i whole x).1.1 := by
  have hp : Formed s (Machine.planRow core e i x).1.1 := h.planRow
  unfold Machine.copyRow
  split
  next y f hy => exact hp.of_end hy
  next y hy => exact hp.of_end hy
  next y src dsts soff off hy => exact (hp.of_end hy).moveRow
  next y src l off hy => exact (hp.of_end hy).updateRow
  next y l hy => exact (hp.of_end hy).fillRow

end
end Formed
end Sys2Proof.Machine

/-! ## Pattern loads, cancels, resumes and engine events stay in form -/

namespace Sys2Proof.Machine
set_option Elab.async false

/-- The copy whose progress word a cancel meets is named by a function that stands for a variable here: a comparison of
terms must not decode the word. -/
def CancelsOrLeaves (f : Nat → Nat → Word → State → Nat → State) : Prop :=
  ∀ core slot m s n, f core slot m s n = s ∨ ∃ (e : EOp) (u : State) (c : Ctx) (seq : Nat), u = s.setCtx core slot c ∧
    f core slot m s n = (e.written.foldl (fun s t => releaseTile s core { e with seq := (s.ctx core slot).iss } t 0) u).updCtx core slot
      (fun d => d.opDone e.tag seq)

theorem cancelsOrLeaves_cancelWord : CancelsOrLeaves cancelWord := by
  delta cancelWord
  obtain ⟨named, hnamed⟩ : ∃ g, g = stoppedCopy := ⟨_, rfl⟩
  rw [← hnamed]
  intro core slot m s n
  dsimp only
  split
  · exact .inl rfl
  next e _ =>
    split
    · exact .inl rfl
    · exact .inr ⟨e, _, _, _, rfl, rfl⟩

namespace Formed
section
variable {s t : State} (h : Formed s t)
include h

theorem loadPattern {o : CP} {p : At} : Formed s (loadPattern o p t) := by
  unfold Machine.loadPattern
  extract_lets c x oid out dst u fail
  have hu : Formed s u := h.updCtx
  clear_value u
  split
  · exact bar (answer (sideErr hu))
  next d _ =>
    have hd : Formed s (Machine.readSide p.core p.slot [] d (u, c.time)).1.1 := readSide hu
    split
    next y k hy => exact answer (hd.of_end hy)
    next y b hy =>
      have hv := (updCtx (hd.of_end hy) (c := p.core) (i := p.slot) (f := fun c => { c with time := max c.time y.2 })).answer
        (p := p) (d := dst) (v := BitVec.ofNat 512 (ofBytes b)) (m := 12) (x := x) (leaves := out) (fault := none)
      exact .ite hv.updCtx hv

theorem cancelWord {core slot n : Nat} {m : Word} : Formed s (cancelWord core slot m t n) := by
  obtain he | ⟨e, u, c, seq, rfl, he⟩ := cancelsOrLeaves_cancelWord core slot m t n
  · rw [he]
    exact h
  · rw [he]
    exact updCtx (foldl h.setCtx fun _ _ hu => hu.releaseTile)

theorem cancelCopies {o : CP} {p : At} : Formed s (cancelCopies o p t) := by
  unfold Machine.cancelCopies
  extract_lets m hit idle x u v running w
  have hx : Formed s x.1 := foldlFst (x := (t, 0)) h fun _ _ hy => hy.cancelCopy
  have hv : Formed s v := foldl (updCtx hx) fun _ _ hy => hy.cancelWord
  have hw : Formed s w := hv.updCore
  exact .ite hw hw.produce

theorem resumeCopy {o : CP} {p : At} : Formed s (resumeCopy o p t) := by
  unfold Machine.resumeCopy
  dsimp only
  split
  · exact h
  · split
    · exact h.refuse
    · exact .ite h.updCore (.ite h.refuse h.relaunch)

/-! ### Engine events -/

theorem parkCopy {core id : Nat} : Formed s (parkCopy t core id) := by
  unfold Machine.parkCopy
  split
  · exact h
  · dsimp only
    split
    · split
      · exact h.dropOp.setCtx
      · exact h
    · exact h

theorem opFault {core : Nat} {o : EOp} {code : Nat} {v : Word} : Formed s (opFault t core o code v) := by
  unfold Machine.opFault
  extract_lets u v w
  have hw : Formed s w := parkCopy (updCtx h.updOp)
  exact .ite hw.supFaults hw

theorem stepRow {go : Env → RowOut → State → State} (hg : ∀ e r u, r.Keeps → Formed s u → Formed s (go e r u)) {core : Nat} {o : EOp} :
    Formed s (stepRow go t core o).1 := by
  have hk : ∀ e r, nextRow t core o = (e, some r) → r.Keeps := by
    intro e r hr
    simp only [nextRow, Prod.mk.injEq] at hr
    obtain ⟨rfl, hr⟩ := hr
    split at hr
    next r' hr' =>
      cases hr
      exact keeps_vecRow _ _ _ hr'
    · exact keeps_matRow _ _ _ hr
  unfold Machine.stepRow
  split
  · exact h
  next e r hr =>
    split
    · dsimp only
      exact opFault h.uncorr
    · exact hg e r t (hk e r hr) h

theorem wholeRow {e : Env} {r : RowOut} (hr : r.Keeps) : Formed s (wholeRow e r t) := updOp (h.touchRow.commitRow hr)

omit h in
theorem stepRows {core id n : Nat} {s t : State} (h : Formed s t) : Formed s (stepRows core id n t) := by
  induction n generalizing t with
  | zero => exact h
  | succ n ih =>
    simp only [Machine.stepRows]
    split
    · exact h
    next o _ =>
      have hr : Formed s (Machine.stepRow Machine.wholeRow t core o).1 := h.stepRow fun _ _ _ hk hu => hu.wholeRow hk
      refine .ite h ?_
      split
      next u hu => exact ih (hr.of_fst hu)
      next u hu => exact hr.of_fst hu

theorem rowPiece {core : Nat} {o : EOp} : Formed s (rowPiece t core o) := by
  unfold Machine.rowPiece
  extract_lets n u a x
  have hu : Formed s u := h.draw
  have hx : Formed s x.1 := spadTouch hu
  exact .ite hu.performOne (.ite (hu.stepRow fun _ _ _ hk hv => hv.reachRow hk) (.ite hu hx.updOp))

theorem endOp {core id : Nat} : Formed s (endOp t core id) := by
  unfold Machine.endOp
  split
  · exact h
  · exact .ite h (afterOp (finishOp (.ite h.finishLoad h)))

/-! ### Rows of copies -/

theorem doneRow {core time : Nat} {o : EOp} {whole : Bool} {l : List Chunk} {u : List Unread} :
    Formed s (doneRow t core o time whole l u) := by
  unfold Machine.doneRow
  refine updOp ?_
  split
  · exact putChunks (x := (t, time)) h
  · exact h

omit h in
/-- The rows that are done, and the end of the one that fails. -/
theorem copyRows {core id n : Nat} {whole : Bool} {s t : State} (h : Formed s t) :
    Formed s (copyRows core id whole n t).1 ∧ ∀ x, (copyRows core id whole n t).2 = some x → Formed s x.1 := by
  induction n generalizing t with
  | zero => exact ⟨h, fun _ hx => nomatch hx⟩
  | succ n ih =>
    simp only [Machine.copyRows]
    split
    · exact ⟨h, fun _ hx => nomatch hx⟩
    next o _ =>
      have hr : Formed s (Machine.copyRow core o o.rows whole (t, o.time)).1.1 := copyRow (x := (t, o.time)) h
      split
      · exact ⟨h, fun _ hx => nomatch hx⟩
      · split
        next u tm l hu => exact ih (hr.of_pair hu).doneRow
        next u tm f hu =>
          refine ⟨h, fun x hx => ?_⟩
          cases hx
          exact hr.of_pair hu

theorem readAhead {core n : Nat} {o : EOp} : Formed s (readAhead t core n o) := by
  unfold Machine.readAhead
  extract_lets begun i
  refine .ite h ?_
  have hp : Formed s (Machine.planRow core o i (t, o.time)).1.1 := planRow (x := (t, o.time)) h
  split
  next x p hx =>
    split
    · exact h
    next g _ =>
      have hg : Formed s (Machine.readSeg core o.slot [] g x).1.1 := (hp.of_end hx).readSeg
      refine .ite h ?_
      split
      next y b hy => exact (hg.of_end hy).updOp
      · exact h
  · exact h

theorem copyPiece {core : Nat} {o : EOp} : Formed s (copyPiece t core o) := by
  unfold Machine.copyPiece
  dsimp only
  split
  · exact h.draw.performOne
  · exact (copyRows h.draw).1
  · exact h.draw.readAhead

theorem copyArrive {core : Nat} {o : EOp} : Formed s (copyArrive t core o) := by
  unfold Machine.copyArrive
  refine .ite h ?_
  split
  · exact .ite h.same h
  · exact .ite h.same h
  · split
    · exact .ite h.same h
    · exact h

theorem sourceRead {core : Nat} {o : EOp} : Formed s (sourceRead t core o) := by
  unfold Machine.sourceRead
  refine .ite h ?_
  split
  · exact h.releaseTile.updOp
  · exact h

theorem endCopy {core id : Nat} : Formed s (endCopy t core id) := by
  unfold Machine.endCopy
  split
  · exact h
  · exact .ite h h.sourceRead.copyArrive.finishOp.afterOp

theorem stopCopy {core : Nat} {o : EOp} {f : CopyFail} : Formed s (stopCopy t core o f) := by
  unfold Machine.stopCopy
  split
  · exact h.updOp.endCopy
  · exact .ite h.cancelCopy.afterOp h.opFault

theorem pcieFails {core slot : Nat} {a : Acc} : Formed s (pcieFails t core slot a) := h.dmaErr.answerNow

theorem copyDmaErr {core : Nat} {o : EOp} : Formed s (copyDmaErr t core o) := by
  unfold Machine.copyDmaErr
  refine .ite h ?_
  split
  · exact h
  · exact h.settleOp.dmaErr.stopCopy

end
end Formed

section
variable (s : State)

theorem goes_engineOpComplete (core id rows : Nat) : Goes s (execEngineOpComplete core id rows s) := by
  refine .next ?_
  split
  · exact .refl s
  · exact .ite (.refl s) (.ite (Formed.refl s).rowPiece (Formed.refl s).settleOp.stepRows.endOp)

theorem goes_engineOpStop (core id : Nat) : Goes s (execEngineOpStop core id s) := by
  refine .next ?_
  split
  · exact .refl s
  · exact .ite (Formed.refl s).cancelCopy.afterOp (.ite (Formed.refl s).settleOp.updOp (.refl s))

theorem goes_copyComplete (core id rows : Nat) : Goes s (execCopyComplete core id rows s) := by
  refine .next ?_
  split
  · exact .refl s
  · exact .ite (.refl s) (.ite (Formed.refl s).copyPiece (Formed.refl s).settleOp.copyRows.1.endCopy)

theorem goes_copyLastRowRead (core id : Nat) : Goes s (execCopyLastRowRead core id s) := by
  refine .next ?_
  split
  · exact .refl s
  next o _ =>
    have hr := (Formed.refl s).copyRows (core := core) (id := id) (n := o.nrows - o.rows) (whole := false)
    refine .ite (.refl s) ?_
    split
    next u hu =>
      split
      · exact (hr.1.of_fst hu).settleReads.sourceRead
      · exact .refl s
    · exact .refl s

theorem goes_copyRowFault (core id : Nat) : Goes s (execCopyRowFault core id s) := by
  refine .next ?_
  split
  · exact .refl s
  next o _ =>
    have hr := ((Formed.refl s).settleOp (core := core) (o := o)).copyRows (core := core) (id := id) (n := o.nrows - o.rows) (whole := true)
    refine .ite (.refl s) ?_
    split
    · exact .refl s
    next u f hu =>
      have hf : Formed s u := hr.2 (u, f) (congrArg Prod.snd hu)
      split
      · exact hf.stopCopy
      · exact .refl s

theorem goes_pcieCompletion (core slot id : Nat) (ok : Bool) (data : Word) : Goes s (execPcieCompletion core slot id ok data s) := by
  refine .next ?_
  have h : Formed s s := .refl s
  split
  · exact .ite h (.ite h.answerNow h.pcieFails)
  · split
    · exact h.same
    · split
      · exact .ite h h.copyDmaErr
      · exact h

theorem goes_pcieDmaTimeout (core slot id : Nat) : Goes s (execPcieDmaTimeout core slot id s) := by
  refine .next ?_
  have h : Formed s s := .refl s
  split
  · exact .ite h.pcieFails h
  · split
    · exact .ite h.same h
    · split
      · exact .ite h.copyDmaErr h
      · exact h

end
end Sys2Proof.Machine

/-! ## Every slot instruction stays in form -/

namespace Sys2Proof.Machine
set_option Elab.async false
namespace Formed
section
variable {s t : State} (h : Formed s t)
include h

theorem gateItem {p : At} {g : Gated} : Formed s (gateItem p g t) := by
  unfold Machine.gateItem
  refine .ite h.updCtx ?_
  cases hr : Machine.releaseItem t p.core p.slot g with
  | none => exact h
  | some u => exact h.releaseItem hr

theorem sendAnswers {l : List Release} : Formed s { t with answers := l } := h.same

theorem initBar {o : SI} {p : At} : Formed s (initBar o p t) := by
  unfold Machine.initBar
  extract_lets c n v
  split
  extract_lets root u
  have hu : Formed s u := h.updBar
  clear_value u
  refine .ite hu.completePhases ?_
  exact .ite hu.updBar hu.updBar.claimBar.updBar.completePhases.sendAnswers

theorem startWait {p : At} {w : Wait} : Formed s (startWait p w t) := h.updCtx

theorem markAfter {p : At} : Formed s (markAfter p t) := h.updCtx

theorem waitToken {n v : Nat} {p : At} : Formed s (waitToken n v p t) := .ite h.updCtx h.startWait

theorem arriveWait {o : SI} {p : At} : Formed s (arriveWait o p t) := by
  unfold Machine.arriveWait
  dsimp only
  split
  · exact h.markAfter.waitToken
  · exact h.markAfter.startWait
  · exact h.gateItem.markAfter.startWait

theorem doDeqm {o : SR} {p : At} : Formed s (doDeqm o p t) := by
  unfold Machine.doDeqm
  dsimp only
  split
  · exact h.setCtx
  · split
    · exact h.setCtx
    · exact .ite h.produce h.startWait

theorem setPref {o : SI} {p : At} : Formed s (setPref o p t) := by
  unfold Machine.setPref
  split
  · exact h.updTask
  · exact h

theorem updDesc {p : At} {n : Nat} {f : BitVec 128 → BitVec 128} : Formed s (updDesc p n f t) := h.updCtx

theorem withElems {o : VT} {n : Nat} {p : At} {eff : List XVal → State → State} (he : ∀ l u, Formed s u → Formed s (eff l u)) :
    Formed s (withElems o n p t eff) :=
  h.readAtIssue fun _ hu => he _ _ hu.updCtx

theorem doShape {o : VT} {p : At} : Formed s (doShape o p t) := .ite (h.withElems fun _ _ hu => hu.updDesc) h.updDesc

theorem doStep {o : VT} {p : At} : Formed s (doStep o p t) := .ite (h.withElems fun _ _ hu => hu.updDesc) h.updDesc

end
end Formed

namespace SlotSem.Keeps

/-- A barrier form claims its barrier and goes on. -/
theorem barSem {op : Nat} {lat : Lat} {o : SI} {eff : At → State → State} (he : ∀ {s t : State} (p : At), Formed s t → Formed s (eff p t)) :
    (barSem op lat o eff).Keeps :=
  of_eff fun p h => he p h.claimBar

/-- A slot that has a result, and does nothing else. -/
theorem of_produce {m : SlotSem} {l : Lat} {d : At → State → Dst} {v : At → State → BitVec 512} :
    ({ m with eff := fun p s => produce p l (d p s) (v p s) s, fin := fun _ s => s } : SlotSem).Keeps :=
  of_eff fun _ h => h.produce

theorem intOp (l a : Nat) (v : Ctx → Word) : (intOp l a v).Keeps := of_produce (m := Machine.intOp l a v)

theorem predOp (a : Nat) (v : Ctx → Bool) : (predOp a v).Keeps := of_produce (m := Machine.predOp a v)

theorem capOp (a : Nat) (src : Ctx → BitVec 128) (v : Ctx → Option (BitVec 128)) : (capOp a src v).Keeps :=
  of_produce (m := Machine.capOp a src v)

theorem tagged (m a : Nat) (v : At → State → Word) : (tagged m a v).Keeps := of_produce (m := Machine.tagged m a v)

theorem semCall (o : SB) : (semCall o).Keeps := of_produce (m := Machine.semCall o)

theorem semCapq (o : SR) : (semCapq o).Keeps := of_produce (m := Machine.semCapq o)

end SlotSem.Keeps

/-- What any instruction does in its slot stays in form. -/
theorem keeps_slotSem (i : Instr) : (slotSem i).Keeps := by
  cases i <;> dsimp only [slotSem]
  case add | addi | sub | mul | muli | mulh | mulhz | div | divz | rem | remz | and | andi | or | ori | xor | xori | shl | shli | shr
    | shri | sra | srai | rotl | rotr | clz | ctz | popc | min | max | minz | maxz | sext | zext | mov | movi | movhi | sel =>
    exact .intOp _ _ _
  case cmp | cmpi | pand | por | pxor | pnot | pmov => exact .predOp _ _
  case lea | caprs | caprt | capmv => exact .capOp _ _ _
  case rdtime | bq | jread | wq => exact .tagged _ _ _
  case call => exact .semCall _
  case capq => exact .semCapq _
  case loop | loopi | mswap | cpjoin | tdef =>
    refine .of_eff fun _ h => ?_
    dsimp only [semLoop, semLoopi, loopSem, semMswap, semCpjoin, semTdef, mgmtSem]
    exact h.updCtx
  case ld o => exact .semLd o
  case st o => exact .semSt o
  case pf o => exact .semPf o
  case cclean o | cinval o | cflush o => exact .flushSem o _
  case amoAdd o | amoFadd o | amoMin o | amoMax o | amoMinz o | amoMaxz o | amoAnd o | amoOr o | amoXor o | amoSwap o | amoCas o =>
    exact .amoSem o _
  case mfsr =>
    refine ⟨fun _ h => ?_, fun _ h => .ite h.updCtx h⟩
    dsimp only [semMfsr]
    exact h.produce
  case mtsr =>
    refine .of_fin fun _ h => ?_
    dsimp only [semMtsr]
    exact h.srWrite
  case trap =>
    refine .of_fin fun _ h => ?_
    dsimp only [semTrap]
    exact h.updCore.raise
  case eret =>
    refine .of_fin fun _ h => ?_
    dsimp only [semEret]
    exact h.returnFromTrap
  case ctxout =>
    refine .of_fin fun _ h => ?_
    dsimp only [semCtxout]
    exact h.updCtx.ctxoutRelease
  case endc =>
    refine .of_fin fun _ h => ?_
    dsimp only [semEndc]
    exact h.endContext
  case rdcyc =>
    refine .of_eff fun _ h => ?_
    dsimp only [semRdcyc]
    exact h.passCycles.produce
  case barInit =>
    refine .of_eff fun _ h => ?_
    dsimp only [semBarInit, barSem]
    exact h.claimBar.initBar
  case barArrive =>
    refine .of_eff fun _ h => ?_
    dsimp only [semBarArrive, barSem]
    exact h.claimBar.gateItem
  case barWait =>
    refine .of_eff fun _ h => ?_
    dsimp only [semBarWait, barSem]
    exact h.claimBar.markAfter.waitToken
  case barAw =>
    refine .of_eff fun _ h => ?_
    dsimp only [semBarAw, barSem]
    exact h.claimBar.arriveWait
  case barQuery =>
    refine .of_eff fun _ h => ?_
    dsimp only [semBarQuery, barSem]
    exact h.claimBar.produce
  case next =>
    refine .of_eff fun _ h => ?_
    dsimp only [semNext]
    exact .updCtx h.same
  case enqt =>
    refine .of_eff fun _ h => ?_
    dsimp only [semEnqt]
    exact h.updCore.gateItem
  case enqm =>
    refine .of_eff fun _ h => ?_
    dsimp only [semEnqm]
    exact h.gateItem
  case deqm =>
    refine .of_eff fun _ h => ?_
    dsimp only [semDeqm]
    exact h.doDeqm
  case widen =>
    refine .of_eff fun _ h => ?_
    dsimp only [semWiden]
    exact h.setPref
  case tshape =>
    refine .of_eff fun _ h => ?_
    dsimp only [semTshape, mgmtSem]
    exact h.doShape
  case tstep =>
    refine .of_eff fun _ h => ?_
    dsimp only [semTstep, mgmtSem]
    exact h.doStep
  case tview | tstate =>
    refine .of_eff fun _ h => ?_
    dsimp only [semTview, semTstate, mgmtSem]
    exact h.updDesc
  case mcbl o | vcbl o => exact .tableSem o _ _ _ _
  case cpCancel =>
    refine .of_eff fun _ h => ?_
    dsimp only [semCpCancel]
    exact h.cancelCopies
  case cpRes =>
    refine .of_eff fun _ h => ?_
    dsimp only [semCpRes]
    exact h.resumeCopy
  case cpPat =>
    refine .of_eff fun _ h => ?_
    dsimp only [semCpPat]
    exact h.loadPattern
  case tclr | vadd | vsub | vmul | vfma | vfms | vfnma | vmin | vmax | vabs | vneg | vclamp | vsel | vcmp | vand | vor | vxor | vnot
    | vshl | vshr | vsra | vmov | vbcast | viota | vcvt | vrcp | vrsq | vrcpf | vrsqf | vexp2 | vlog2 | vtanh | vlgst | vsqrt | vrsum
    | vcsum | vrmax | vcmax | vrmin | vcmin | vrarg | vscan | vcscan | vtrans | vperm | vgath | vscat | vpack | vunpk | vtopk | vquant
    | vdeq | vscal | vstat | mloadw | mloadwt | mma | mzero | mdrain | moutl | mscl | mstat | cpLd | cpSt | cpSs | cpMm | cpGath
    | cpScat | cpBc | cpAcc | cpFill | cpPf =>
    exact .of_eff fun _ h => h.startOp
  case br | bp | jmp | ret => exact .of_eff fun _ h => h
  all_goals exact .default

end Sys2Proof.Machine

/-! ## Events of barriers, messages, tasks and power stay in form -/

namespace Sys2Proof.Machine
set_option Elab.async false
namespace Formed
section
variable {s t : State} (h : Formed s t)
include h

/-- The bytes of a descriptor have been read. -/
theorem readDesc {e : Enq} : Formed s (readDesc t e).1 := by
  unfold Machine.readDesc
  extract_lets oid go
  have hgo : ∀ (u : State) (r : Except Nat Nat) (i : Nat), Formed s u → Formed s (go u r i).1 := by
    intro u r i hu
    dsimp only [go]
    split
    · exact hu
    · split
      · exact hu.tableErr
      · split
        · exact hu.dmaErr
        · exact hu.same
      · split
        · exact hu.touchAt.errorAt
        · exact hu.touchAt
  clear_value go
  split
  · exact h
  · exact foldlFst (x := (t, _)) h fun y i hy => hgo y.1 y.2 i hy

theorem enqDone {e : Enq} : Formed s (enqDone t e) := by
  unfold Machine.enqDone
  dsimp only
  have hr : Formed s (Machine.readDesc t e).1 := h.readDesc
  refine .ite h ?_
  split
  · exact hr.updCtx
  · exact .ite hr.updCtx (.ite hr.updCtx hr.takeIn.updCtx)

/-! ### Power -/

theorem writeRecord : Formed s (writeRecord t) := h.same

/-- Without power every byte store is empty. -/
theorem emptied {u : State} (hm : u.mem = []) (hc : u.cores = []) (hu : u.cur = t.cur) : Formed s u :=
  ⟨fun _ => memoryForm_congr hm hc memoryForm_reset, hu.trans h.cur⟩

theorem diesOff : Formed s (diesOff t) :=
  h.trans ⟨fun hm => (memoryForm_iff _).mpr ⟨((memoryForm_iff t).mp hm).1, rfl⟩, rfl⟩

theorem cleanL2 : Formed s (cleanL2 t) := h.foldl fun _ _ hu => hu.foldl fun _ _ hv => hv.still (.l2Clean ..)

theorem enterRetain : Formed s (enterRetain t) := by
  unfold Machine.enterRetain
  have hd : Formed s ([0, 1, 2, 3].foldl (fun s d => Machine.applyDue s d (s.die d).ingress) t) := h.foldl fun _ _ hu => hu.applyDue
  exact diesOff (writeRecord (same (cleanL2 (hd.foldl fun _ _ hu => hu.sleepCore))))

theorem askRetain : Formed s (askRetain t) := .ite h.same h.same

theorem lastReached : Formed s (lastReached t) := h.trans ⟨memoryForm_lastReached, rfl⟩

theorem emergencyRetain : Formed s (emergencyRetain t) := by
  unfold Machine.emergencyRetain
  extract_lets u
  have hu : Formed s u := h.lastReached
  clear_value u
  split
  extract_lets v w
  have hv : Formed s v := hu.same
  clear_value v
  have hw : Formed s w := hv.same
  clear_value w
  refine writeRecord (diesOff ?_)
  exact hw.same

theorem wake : Formed s (wake t) := by
  unfold Machine.wake
  split
  · refine .ite ?_ ?_
    · exact same (t := { t with bootstat := failWord t.nor }) h.same
    · refine flowPosted ?_
      exact h.same
  · exact h

theorem boot : Formed s (boot t) := by
  unfold Machine.boot
  extract_lets n
  refine .ite h.same ?_
  split
  extract_lets code u v
  have hu : Formed s u := h.emptied rfl rfl rfl
  clear_value u
  have hv : Formed s v := setPwrstat (hu.foldl fun _ _ hy => hy.restoreVmax)
  clear_value v
  exact .ite hv.postF hv

theorem unpowered : Formed s (unpowered t) := h.emptied rfl rfl rfl

/-! ### Registers -/

theorem viaPf {i : Instr} {f : State → State} (hf : ∀ u, Formed s u → Formed s (f u)) : Formed s (viaPf t i f) := by
  have hw : Formed s (Machine.wake t) := h.wake
  unfold Machine.viaPf
  refine .ite h ?_
  split
  · exact hf _ h
  · exact hf _ h
  · exact .ite (.ite (hf _ hw) hw.same) (wake h.same)
  · exact h

theorem viaVf {p : Nat} {i : Instr} {f : State → State} (hf : ∀ u, Formed s u → Formed s (f u)) : Formed s (viaVf t p i f) :=
  h.viaPf fun _ hu => .ite (hf _ hu) hu

theorem evWrite {fn : Fn} {q : EvQ} {e : Nat} : Formed s (evWrite t fn q e).1 := .ite h.same h.same

theorem evDrain {fn : Fn} {q : EvQ} : Formed s (evDrain t fn q).1 := by
  unfold Machine.evDrain
  split
  · exact h.evWrite
  · exact h

theorem setEvq {p : Nat} {f : EvQ → EvQ} : Formed s (setEvq t p f) := by
  unfold Machine.setEvq
  exact h.evDrain.updPart

theorem setPkgEvq {f : EvQ → EvQ} : Formed s (setPkgEvq t f) := by
  have hd : Formed s (Machine.evDrain t .pf (f t.evq)).1 := h.evDrain
  unfold Machine.setPkgEvq
  dsimp only
  exact .ite (foldl hd.same fun _ _ hu => hu.postF) hd.same

theorem setSqcfg {p q : Nat} {v : Word} : Formed s (setSqcfg t p q v) := .ite h h.updQueue

theorem setCqcfg {p q : Nat} {v : Word} : Formed s (setCqcfg t p q v) := .ite h h.updQueue

theorem setCqhead {p q : Nat} {v : Word} : Formed s (setCqhead t p q v) := h.updQueue

theorem setPgrq {p : Nat} {v : Word} : Formed s (setPgrq t p v) := .ite h h.updPart

theorem setAper {p n : Nat} {v : Word} : Formed s (setAper t p n v) := .ite h h.updPart

theorem setSavecap {p half : Nat} {v : Word} : Formed s (setSavecap t p half v) := .ite h.updPart h.updPart

theorem setTaskkill {p : Nat} {v : Word} : Formed s (setTaskkill t p v) := by
  unfold Machine.setTaskkill
  split
  · exact h.killTask
  · exact h

theorem setPkgcon {v : Word} : Formed s (setPkgcon t v) := .ite h.same h

theorem setIsldv {i : Nat} {v : Word} : Formed s (setIsldv t i v) := h.updIsland

theorem writeIsldv {fn : Fn} {i : Nat} {v : Word} : Formed s (writeIsldv t fn i v) := by
  cases fn with
  | pf =>
    dsimp only [Machine.writeIsldv]
    exact h.setIsldv.updIsland
  | vf p => exact .ite h.setIsldv h

theorem dropEntries {p : Nat} : Formed s (dropEntries t p) := by
  refine h.foldl fun u q hu => ?_
  refine foldl hu.updQueue fun v e hv => ?_
  split
  · exact .ite hv hv.setTask
  · exact hv

theorem killAll {p : Nat} : Formed s (killAll t p) := h.foldl fun _ _ hu => hu.updTask.killTask

theorem disablePart {p : Nat} : Formed s (disablePart t p) := h.updPart.dropEntries.killAll

theorem setPset {p : Nat} {v : Word} : Formed s (setPset t p v) := by
  unfold Machine.setPset
  refine .ite h (.ite h ?_)
  exact sharedModes (.ite h.updPart.disablePart h.updPart.passDue)

theorem setPmem {p : Nat} {v : Word} : Formed s (setPmem t p v) := .ite h h.updPart

theorem setPrect {p m : Nat} {v : Word} : Formed s (setPrect t p m v) := by
  unfold Machine.setPrect
  refine .ite h ?_
  have hu : Formed s { t.updPart p (fun x => { x with prect := x.prect.set m v 0 }) with passDue := true } := h.updPart.passDue
  exact sharedModes (.ite hu hu.same)

theorem goObject {p : Nat} : Formed s (goObject t p) := .ite h (.ite h.updPart h.updPart.endCommand)

theorem setObjrdix {p : Nat} {v : Word} : Formed s (setObjrdix t p v) := by
  unfold Machine.setObjrdix
  exact h.updPart

theorem freeEntry {fn : Fn} {die e : Nat} : Formed s (freeEntry t fn die e) := .ite h.updDie h

omit h in
theorem placeAll {oid n : Nat} {s t u : State} (h : Formed s t) (hu : placeAll oid n t = some u) : Formed s u := by
  induction n generalizing t u with
  | zero =>
    cases hu
    exact h
  | succ n ih =>
    obtain ⟨v, hv, hu⟩ := Option.bind_eq_some_iff.mp hu
    exact (ih h hv).placePage hu

theorem installNow {p : Nat} {hdr : Option CodeHdr} {u : State} (hu : installNow t p hdr = some u) : Formed s u := by
  unfold Machine.installNow at hu
  extract_lets x o n all at hu
  obtain ⟨-, hu⟩ := Option.ite_none_left_eq_some.mp hu
  split at hu
  · cases hu
  · dsimp only at hu
    split at hu
    · exact h.takeFrames.setObj.placeAll hu
    · cases hu
      exact h.takeFrames.setObj

theorem askObject {p : Nat} : Formed s (askObject t p) := h.same

theorem startCommand {p : Nat} : Formed s (startCommand t p) := by
  unfold Machine.startCommand
  refine .ite h.endCommand ?_
  split
  · exact h.endCommand
  · exact .ite h.endCommand h.askObject

theorem someCommand {op : Nat} : Formed s (someCommand t op) := by
  unfold Machine.someCommand
  dsimp only
  split
  · exact h.draw.startCommand
  · exact h

theorem writeVf {p o : Nat} {v : Word} : Formed s (writeVf t p o v) := by
  unfold Machine.writeVf
  refine .ite (.ite h h.updPart) (.ite (.ite h h.updPart) (.ite h.setSavecap (.ite h.setSavecap (.ite (.ite h h.updPart)
    (.ite (.ite h h.updPart) (.ite (.ite h h.updPart) (.ite h.setSqcfg (.ite h.setCqcfg (.ite h.setCqhead (.ite h.updPart ?_))))))))))
  exact .ite h.setEvq (.ite h.setEvq (.ite h.setPgrq (.ite h.setTaskkill (.ite h.setAper (.ite h.updPart (.ite h.updPart
    (.ite (.ite h.goObject h) (.ite h.setObjrdix (.ite h.writeIsldv (.ite h.freeEntry h))))))))))

theorem setMap {l : Nat} {v : Word} : Formed s (setMap t l v) := .ite h h.updLink

theorem setPwrctl {v : Word} : Formed s (setPwrctl t v) := by
  unfold Machine.setPwrctl
  have hu : Formed s (if fld v 4 1 = 1 then { t with refused := false } else t) := .ite h.same h
  exact .ite hu.askRetain hu

theorem writePf {o : Nat} {v : Word} : Formed s (writePf t o v) := by
  unfold Machine.writePf
  refine .ite h.setPkgcon (.ite h.setPwrctl (.ite h.setPkgEvq (.ite h.setPkgEvq (.ite h.setMap (.ite ?_ ?_)))))
  · exact .ite h.setPset (.ite h.setPmem (.ite (.ite h h.updPart) (.ite h.setPrect h)))
  · exact .ite h.writeIsldv (.ite h.freeEntry (.ite h.same h))

end
end Formed

section
variable (s : State)

theorem goes_barrierArrival : Goes s (execBarrierArrival s) := by
  refine .next ?_
  dsimp only
  split
  next a _ => exact (Formed.same (.refl s)).arrive.afterOp
  · exact .refl s

theorem goes_barrierReleaseMessage : Goes s (execBarrierReleaseMessage s) := by
  refine .next ?_
  split
  · exact (Formed.same (.refl s)).mirror
  · exact .refl s

theorem goes_barrierInitAnswer : Goes s (execBarrierInitAnswer s) := by
  refine .next ?_
  split
  · exact (Formed.same (.refl s)).takePhases
  · exact .refl s

theorem goes_messageDelivery : Goes s (execMessageDelivery s) := by
  refine .next ?_
  dsimp only
  split
  · exact (Formed.same (.refl s)).enterQueue.afterOp
  · exact .refl s

theorem goes_enqtResult : Goes s (execEnqtResult s) := by
  refine .next ?_
  dsimp only
  split
  · exact (Formed.same (.refl s)).enqDone.afterOp
  · exact .refl s

theorem goes_powerOn : Goes s (execPowerOn s) := by
  refine .next ?_
  split
  · exact (Formed.refl s).boot
  · exact (Formed.refl s).boot
  · exact .refl s

theorem goes_powerLoss : Goes s (execPowerLoss s) := by
  refine .next ?_
  split
  · exact (Formed.same (.refl s)).unpowered
  · exact (Formed.same (.refl s)).unpowered
  · exact (Formed.refl s).unpowered

theorem goes_orderlyPowerOff : Goes s (execOrderlyPowerOff s) := by
  refine .next ?_
  split
  · exact (Formed.refl s).writeRecord.unpowered
  · exact (Formed.refl s).writeRecord.unpowered
  · exact (Formed.refl s).unpowered

theorem goes_lifetimeRecordWrite : Goes s (execLifetimeRecordWrite s) := .next (.ite (Formed.refl s).writeRecord (.refl s))

theorem goes_pwrctlRetain : Goes s (execPwrctlRetain s) := by
  refine .next ?_
  split
  · exact .ite (Formed.refl s).askRetain.enterRetain (Formed.refl s).askRetain
  · exact (Formed.refl s).enterRetain
  · exact .refl s

theorem goes_thermalTripTimeout : Goes s (execThermalTripTimeout s) := .next (.ite (Formed.refl s).emergencyRetain (.refl s))

theorem goes_perstAssert : Goes s (execPerstAssert s) := by
  refine .next ?_
  have ht : Formed s (if s.running then emergencyRetain s else s) := .ite (Formed.refl s).emergencyRetain (.refl s)
  exact ht.same

theorem goes_wake : Goes s (.next (wake s)) := .next (Formed.refl s).wake

end
end Sys2Proof.Machine

/-! ## Events of the host, the stores and the links stay in form; every step does (log entry 5) -/

namespace Sys2Proof.Machine
set_option Elab.async false
namespace Formed
section
variable {s t : State} (h : Formed s t)
include h

/-! ### Accesses of the host -/

theorem unmapped {p : Nat} : Formed s (unmapped t p) := .ite h.postE.updPart h

theorem postWrite {link p off : Nat} {data : List Byte} : Formed s (postWrite t link p off data) := by
  unfold Machine.postWrite
  split
  · exact flowPosted h.same
  · exact h.unmapped

theorem barWrite {link p off : Nat} {data : List Byte} : Formed s (barWrite t link p off data) := h.foldl fun _ _ hu => hu.postWrite

omit h in
theorem readPart {x : State × Option (List Byte)} (h : Formed s x.1) {die pa n : Nat} : Formed s (readPart x die pa n).1 := by
  unfold Machine.readPart
  extract_lets u v
  have hv : Formed s v := l2Host (recallWords h.combineFor)
  clear_value v
  split
  · exact hv.logHomeBad
  · exact hv

theorem barRead {p off n : Nat} : Formed s (barRead t p off n) := by
  unfold Machine.barRead
  extract_lets l r
  have hr : Formed s r.1 := foldlFst (x := (t, some [])) h fun _ _ hu => hu.readPart
  refine .ite h.unmapped.send ?_
  split
  · exact hr.send
  · exact hr.send

theorem regRead {fn : Fn} {off n : Nat} : Formed s (regRead t fn off n) := .ite h.send h.send

/-! ### Errors of the stores -/

theorem corrected {die store addr : Nat} {part core : Option Nat} : Formed s (t.corrected die store addr part core) := by
  unfold State.corrected
  dsimp only
  split
  · exact .ite h.logErr h.logErr.updDie.postF
  · exact h.logErr.updDie.postF

theorem spoilPartial {core die w : Nat} : Formed s (spoilPartial t core die w) := h.updCore

theorem refetch {core die w : Nat} : Formed s (refetch t core die w) := .ite (updCore (h.still (.dropL1 ..))) h.corrected

theorem l1Error {core die w : Nat} : Formed s (l1Error t core die w) := .ite h.updCore (.ite h.spoilPartial (.ite h.refetch h))

theorem l2Error {die w : Nat} : Formed s (l2Error t die w) := by
  unfold Machine.l2Error
  split
  · exact h
  · exact .ite (h.still (.spoilL2 ..)) (.ite h h.draw.corrected)

/-! ### Links and resets -/

theorem linkDown {l : Nat} : Formed s (linkDown t l) := by
  unfold Machine.linkDown
  extract_lets first u v
  have hu : Formed s u := h.updLink
  clear_value u
  have hv : Formed s v := flowPosted hu.same
  exact .ite hv.postF hv

theorem sizeBar2 {p : Nat} : Formed s (sizeBar2 t p) := h.draw.updPart

theorem dropCommand {p : Nat} : Formed s (dropCommand t p) := h.same

theorem flr {p : Nat} : Formed s (flr t p) := h.dropEntries.killAll.dropCommand.updPart

theorem resetSetup {p : Nat} : Formed s (resetSetup t p) := by
  unfold Machine.resetSetup
  exact updPart (h.foldl fun _ _ hu => hu.setPrect)

theorem spdmAnswer {n : Nat} {err : Bool} {v : Word} : Formed s (spdmAnswer t n err v) := by
  unfold Machine.spdmAnswer
  split
  · exact h
  · have hu : Formed s (t.send (.spdm n err (if err then 0 else v))) := h.send
    exact hu.same

theorem spdmIdentity {n : Nat} : Formed s (spdmIdentity t n) := h.spdmAnswer

end
end Formed

section
variable (s : State)

theorem goes_hostWrite (p off : Nat) (data : List Byte) : Goes s (execHostWrite p off data s) :=
  .next ((Formed.refl s).viaVf fun _ hu => .ite hu.barWrite hu)

theorem goes_hostRead (bar : Bar) (off n : Nat) : Goes s (execHostRead bar off n s) := by
  refine .next (.ite (.refl s) ((Formed.refl s).viaPf fun u hu => ?_))
  cases bar with
  | bar0 fn => exact hu.regRead
  | bar2 p => exact .ite hu.barRead hu.send

theorem goes_peerLinkArrival (link p off : Nat) (wr : Bool) (data : List Byte) : Goes s (execPeerLinkArrival link p off wr data s) := by
  have hu := (Formed.refl s).updLink (n := link) (f := fun x => { x with run := 0 })
  exact .next (.ite (.refl s) (.ite (.ite hu.barWrite hu) (.ite hu (.ite hu.barRead hu.send))))

theorem goes_ingressTimeout (die : Nat) : Goes s (execIngressTimeout die s) := .next (.ite (.refl s) (Formed.refl s).applyDue)

theorem goes_ingressOverflow (die : Nat) : Goes s (execIngressOverflow die s) :=
  .next (.ite (.refl s) ((Formed.refl s).updDie.postF.foldl fun _ _ hu => hu.postE))

theorem goes_memoryError (store : Store) (loc addr : Nat) : Goes s (execMemoryError store loc addr s) := by
  refine .next ?_
  cases store with
  | lpddr => exact .ite ((Formed.refl s).still (.spoilWord ..)) (.refl s)
  | l2 => exact .ite (Formed.refl s).l2Error (.refl s)
  | l1 => exact (Formed.refl s).l1Error
  | scratchpad => exact (Formed.refl s).updCore
  | accumulator => exact (Formed.refl s).updCore

theorem goes_errCorrected (store : Store) (loc addr : Nat) : Goes s (execErrCorrected store loc addr s) := by
  refine .next ?_
  cases store with
  | l1 | accumulator => exact (Formed.refl s).corrected
  | scratchpad | l2 | lpddr => exact (Formed.refl s).draw.corrected

theorem goes_patrolScrub (die addr : Nat) (bad : Bool) : Goes s (execPatrolScrub die addr bad s) :=
  .next (.ite (Formed.refl s).logErr (.ite (Formed.refl s).corrected (.refl s)))

theorem goes_vfFlr (p : Nat) : Goes s (execVfFlr p s) := .next ((Formed.refl s).viaPf fun _ hu => .ite hu.flr hu)

theorem goes_pfFlr : Goes s (execPfFlr s) := by
  refine .next ((Formed.refl s).viaPf fun t ht => ?_)
  extract_lets u v w
  have hu : Formed s u := ht.foldl fun _ _ hy => hy.flr.resetSetup
  clear_value u
  have hv : Formed s v := hu.foldl fun _ _ hy => hy.updIsland
  clear_value v
  have hw : Formed s w := hv.foldl fun _ _ hy => hy.updLink
  clear_value w
  exact hw.same

theorem goes_eplReplay (link : Nat) : Goes s (execEplReplay link s) :=
  .next (.ite (.refl s) (.ite (Formed.refl s).updLink.linkDown (Formed.refl s).updLink))

theorem goes_eplRetrain (link : Nat) (ok : Bool) : Goes s (execEplRetrain link ok s) :=
  .next (.ite (.refl s) (.ite (Formed.refl s).updLink (Formed.refl s).updLink))

theorem goes_eplReplayWindow (link : Nat) : Goes s (execEplReplayWindow link s) :=
  .next (.ite (.refl s) (.ite (Formed.refl s).updLink.postF (Formed.refl s).updLink))

theorem goes_pcieLink : Goes s (execPcieLink s) := by
  refine .next (.ite (Formed.postF (Formed.flowPosted ?_)) (.refl s))
  exact (Formed.refl s).same

theorem goes_hostLinkUp : Goes s (execHostLinkUp s) := by
  refine .next ?_
  split
  · exact .refl s
  · exact .refl s
  · extract_lets u
    have hu : Formed s u := (Formed.refl s).foldl fun _ _ hy => hy.sizeBar2
    clear_value u
    have hv : Formed s { u with linkUp := true } := hu.same
    exact hv.setPkgEvq.foldl fun _ _ hy => hy.setEvq

theorem goes_spdmAnswer (n : Nat) (err : Bool) (v : Word) : Goes s (.next (spdmAnswer s n err v)) := .next (Formed.refl s).spdmAnswer

theorem goes_spdmGetMeasurements : Goes s (execSpdmGetMeasurements s) :=
  .next (.ite (Formed.refl s).spdmIdentity (Formed.refl s).spdmIdentity.send)

/-! ### Registers and commands -/

theorem goes_sqcfgWrite (p q : Nat) (v : Word) : Goes s (execSqcfgWrite p q v s) :=
  .next ((Formed.refl s).viaVf fun _ hu => .ite hu.setSqcfg hu)

theorem goes_cqheadWrite (p q : Nat) (v : Word) : Goes s (execCqheadWrite p q v s) :=
  .next ((Formed.refl s).viaVf fun _ hu => .ite hu.setCqhead hu)

theorem goes_pgrqcfgWrite (p : Nat) (v : Word) : Goes s (execPgrqcfgWrite p v s) :=
  .next ((Formed.refl s).viaVf fun _ hu => hu.setPgrq)

theorem goes_aperWrite (p n : Nat) (v : Word) : Goes s (execAperWrite p n v s) :=
  .next ((Formed.refl s).viaVf fun _ hu => .ite hu.setAper hu)

theorem goes_savecapWrite (p half : Nat) (v : Word) : Goes s (execSavecapWrite p half v s) :=
  .next ((Formed.refl s).viaVf fun _ hu => hu.setSavecap)

theorem goes_taskkill (p : Nat) (v : Word) : Goes s (execTaskkill p v s) := .next ((Formed.refl s).viaVf fun _ hu => hu.setTaskkill)

theorem goes_objrdixWrite (p : Nat) (v : Word) : Goes s (execObjrdixWrite p v s) :=
  .next ((Formed.refl s).viaVf fun _ hu => hu.setObjrdix)

theorem goes_pkgconWrite (v : Word) : Goes s (execPkgconWrite v s) := .next ((Formed.refl s).viaPf fun _ hu => hu.setPkgcon)

theorem goes_psetWrite (p : Nat) (v : Word) : Goes s (execPsetWrite p v s) :=
  .next ((Formed.refl s).viaPf fun _ hu => .ite hu.setPset hu)

theorem goes_prectWrite (p m : Nat) (v : Word) : Goes s (execPrectWrite p m v s) :=
  .next ((Formed.refl s).viaPf fun _ hu => .ite hu.setPrect hu)

theorem goes_isldvWrite (fn : Fn) (i : Nat) (v : Word) : Goes s (execIsldvWrite fn i v s) := by
  refine .next ?_
  cases fn with
  | pf => exact (Formed.refl s).viaPf fun _ hu => .ite hu.writeIsldv hu
  | vf p => exact (Formed.refl s).viaVf fun _ hu => .ite hu.writeIsldv hu

theorem goes_errlogEntryFree (fn : Fn) (die e : Nat) : Goes s (execErrlogEntryFree fn die e s) := by
  refine .next ?_
  cases fn with
  | pf => exact (Formed.refl s).viaPf fun _ hu => .ite hu.freeEntry hu
  | vf p => exact (Formed.refl s).viaVf fun _ hu => .ite hu.freeEntry hu

theorem goes_registerWrite (fn : Fn) (off : Nat) (wide : Bool) (v : Word) : Goes s (execRegisterWrite fn off wide v s) := by
  refine .next (.ite (.refl s) ?_)
  cases fn with
  | pf => exact (Formed.refl s).viaPf fun _ hu => hu.writePf
  | vf p => exact (Formed.refl s).viaVf fun _ hu => hu.writeVf

theorem goes_install (p : Nat) (hdr : Option CodeHdr) : Goes s (execInstall p hdr s) := by
  refine .next (.ite (.refl s) (.ite (Formed.refl s).endCommand (.ite (Formed.refl s).endCommand ?_)))
  split
  next u hu => exact ((Formed.refl s).installNow hu).endCommand
  · exact (Formed.refl s).endCommand

theorem goes_someCommand (op : Nat) : Goes s (.next (someCommand s op)) := .next (Formed.refl s).someCommand

theorem goes_issueCtl (i : Instr) (a : Attr) : Goes s (.next (issueCtl slotSem i a s)) := .next ((Formed.refl s).issueCtl keeps_slotSem)

theorem goes_issueOne (i : Instr) : Goes s (.next (issueOne i (slotSem i) s)) := .next ((Formed.refl s).issueOne (keeps_slotSem i))

/-- Every instruction and event but BUNDLE_ISSUE, which takes another context in hand, stays in form. -/
theorem goes_exec (i : Instr) (hb : ∀ core, i ≠ .bundleIssue core) : Goes s (exec i s) := by
  by_cases hs : (slotParts i).isSome = true
  · rw [exec_slot i s hs]
    exact goes_issueOne s i
  · cases i
    case bundleIssue core => exact absurd rfl (hb core)
    case formatWriteEffect => exact goes_formatWriteEffect s _ _
    case trapEntry => exact goes_trapEntry s _ _
    case yieldRequest => exact goes_yieldRequest s _
    case scalarAccessResponse => exact goes_scalarAccessResponse s _ _ _
    case engineOpComplete => exact goes_engineOpComplete s _ _ _
    case copyLastRowRead => exact goes_copyLastRowRead s _ _
    case copyComplete => exact goes_copyComplete s _ _ _
    case copyRowFault => exact goes_copyRowFault s _ _
    case droopWindowEnd => exact goes_droopWindowEnd s _ _
    case suspectDroop => exact goes_suspectDroop s _
    case silentError => exact goes_silentError s _ _
    case droopStretch => exact goes_droopStretch s _
    case nextLanding => exact goes_nextLanding s _ _
    case hostWrite => exact goes_hostWrite s _ _ _
    case hostRead => exact goes_hostRead s _ _ _
    case peerLinkArrival => exact goes_peerLinkArrival s _ _ _ _ _
    case ingressTimeout => exact goes_ingressTimeout s _
    case ingressOverflow => exact goes_ingressOverflow s _
    case islandWake => exact goes_islandWake s _
    case pageRequestSettle => exact goes_pageRequestSettle s _ _
    case homeRequest => exact goes_homeRequest s _ _ _ _ _ _
    case ownRecall => exact goes_ownRecall s _ _ _
    case writeBackGrant => exact goes_writeBackGrant s _
    case memoryError => exact goes_memoryError s _ _ _
    case errCorrected => exact goes_errCorrected s _ _ _
    case patrolScrub => exact goes_patrolScrub s _ _ _
    case pcieCompletion => exact goes_pcieCompletion s _ _ _ _ _
    case pcieDmaTimeout => exact goes_pcieDmaTimeout s _ _ _
    case voltageStepReached => exact goes_voltageStepReached s _
    case meterCorrection => exact goes_meterCorrection s _ _
    case testStrips => exact goes_testStrips s _ _
    case vfFlr => exact goes_vfFlr s _
    case eplReplay => exact goes_eplReplay s _
    case eplRetrain => exact goes_eplRetrain s _ _
    case eplReplayWindow => exact goes_eplReplayWindow s _
    case sqcfgWrite => exact goes_sqcfgWrite s _ _ _
    case cqheadWrite => exact goes_cqheadWrite s _ _ _
    case pkgconWrite => exact goes_pkgconWrite s _
    case aperWrite => exact goes_aperWrite s _ _ _
    case savecapWrite => exact goes_savecapWrite s _ _ _
    case psetWrite => exact goes_psetWrite s _ _
    case prectWrite => exact goes_prectWrite s _ _ _
    case isldvWrite => exact goes_isldvWrite s _ _ _
    case taskkill => exact goes_taskkill s _ _
    case install => exact goes_install s _ _
    case objrdixWrite => exact goes_objrdixWrite s _ _
    case pgrqcfgWrite => exact goes_pgrqcfgWrite s _ _
    case errlogEntryFree => exact goes_errlogEntryFree s _ _ _
    case registerWrite => exact goes_registerWrite s _ _ _ _
    case fmtA | fmtW | fmtO | fmtV | fmtS | rm | seed | cbsel | stepset => exact goes_issueCtl s _ _
    case engineOpStop => exact goes_engineOpStop s _ _
    case cacheFlushComplete => exact goes_cacheFlushComplete s _ _ _
    case droopRecovery => exact goes_droopRecovery s _
    case calibrationOverdue => exact goes_calibrationOverdue s _
    case rangeClaim => exact goes_rangeClaim s
    case barrierArrival => exact goes_barrierArrival s
    case barrierReleaseMessage => exact goes_barrierReleaseMessage s
    case messageDelivery => exact goes_messageDelivery s
    case acceptanceEntryWrite => exact goes_acceptanceEntryWrite s
    case completionEntryWrite => exact goes_completionEntryWrite s
    case dispatcherPass => exact goes_dispatcherPass s
    case teamLoaded => exact goes_teamLoaded s
    case teamComplete => exact goes_teamComplete s
    case fallbackPressure => exact goes_fallbackPressure s
    case quiescePoint => exact goes_quiescePoint s
    case quiesceLimitExpiry => exact goes_quiesceLimitExpiry s
    case governorIntervalClose => exact goes_governorIntervalClose s
    case lifetimeRecordWrite => exact goes_lifetimeRecordWrite s
    case thermalTripTimeout => exact goes_thermalTripTimeout s
    case powerOn => exact goes_powerOn s
    case powerLoss => exact goes_powerLoss s
    case perstAssert => exact goes_perstAssert s
    case perstDeassert | sidebandWake | pwrctlWake => exact goes_wake s
    case pfFlr => exact goes_pfFlr s
    case pcieLink => exact goes_pcieLink s
    case spdmGetVersion | spdmGetCapabilities | spdmNegotiateAlgorithms | spdmGetDigests | spdmGetCertificate | spdmChallenge =>
      exact goes_spdmAnswer s _ _ _
    case spdmGetMeasurements => exact goes_spdmGetMeasurements s
    case pwrctlRetain => exact goes_pwrctlRetain s
    case removeObj | mapPage | unmapPage => exact goes_someCommand s _
    case enqtResult => exact goes_enqtResult s
    case orderlyPowerOff => exact goes_orderlyPowerOff s
    case hostLinkUp => exact goes_hostLinkUp s
    case notificationQueueRead => exact goes_notificationQueueRead s
    case barrierInitAnswer => exact goes_barrierInitAnswer s
    all_goals exact absurd rfl hs

end

/-! ### The choice of a context and the step -/

/-- A rotation keeps memory, and the context in hand until the bundle issues. -/
theorem Formed.rotate {s u : State} {core slot : Nat} (hr : rotate s core = some (u, slot)) : Formed s u := by
  unfold Machine.rotate at hr
  dsimp only at hr
  split at hr
  · cases hr
    exact .refl _
  · obtain ⟨i, -, hi⟩ := Option.map_eq_some_iff.mp hr
    cases hi
    exact (Formed.refl s).updCore.updCtx

/-- The state in which a context attempts to issue its bundle. -/
theorem Formed.attemptBundle {s t : State} (h : Formed s t) {core slot : Nat} :
    Formed s (Machine.attempt (fetchCode (Machine.chargeCtx t core slot) core slot) core slot (fetch slotSem core slot)) :=
  (h.chargeCtx.still (.fetchCode ..)).attempt fun _ _ hf => keeps_fetch keeps_slotSem hf

theorem memoryForm_bundleIssue {core : Nat} {s u : State} (h : memoryForm s = true) (hu : execBundleIssue core s = .next u) :
    memoryForm u = true := by
  rw [← Host.Outcome.next.inj hu]
  split
  · split
    next v slot hr =>
      have hv : memoryForm { v with cur := (core, slot) } = true := memoryForm_congr rfl rfl ((Formed.rotate hr).form h)
      exact ((Formed.refl _).attemptBundle).form hv
    · exact h
  · exact h

theorem memoryForm_exec {i : Instr} {s u : State} (h : memoryForm s = true) (hu : exec i s = .next u) : memoryForm u = true := by
  by_cases hb : ∃ core, i = .bundleIssue core
  · obtain ⟨core, rfl⟩ := hb
    exact memoryForm_bundleIssue h hu
  · exact (goes_exec s i (fun core hi => hb ⟨core, hi⟩) u hu).form h

/-- Settles O39: a step changes byte stores only by writes of bytes, and each of those keeps the canonical form. -/
theorem stepKeepsMemoryForm : Obligations.StepKeepsMemoryForm := by
  intro s u h hu
  unfold step at hu
  split at hu
  · cases hu
  · exact memoryForm_exec ((Formed.refl s).takeStep.form h) hu

end Sys2Proof.Machine

/-! ## Which context issues, and what its bundle's words decode to (R42, R107, R108, R358) -/

namespace Sys2Proof.Machine
set_option Elab.async false

/-! ### The order of the contexts of a core -/

theorem before_iff (k : Core) (i j : Nat) : before k i j = true ↔
    ((k.slot i).last + 768 ≤ k.issues ∧ (k.issues < (k.slot j).last + 768 ∨
      (k.slot i).last < (k.slot j).last ∨ (k.slot i).last = (k.slot j).last ∧ i < j)) ∨
    (k.issues < (k.slot i).last + 768 ∧ k.issues < (k.slot j).last + 768 ∧
      ((k.slot j).prio < (k.slot i).prio ∨ (k.slot i).prio = (k.slot j).prio ∧
        ((k.slot i).last < (k.slot j).last ∨ (k.slot i).last = (k.slot j).last ∧ i < j))) := by
  by_cases hi : (k.slot i).last + 768 ≤ k.issues <;> by_cases hj : (k.slot j).last + 768 ≤ k.issues <;>
    simp [before, hi, hj] <;> omega

theorem before_trans {k : Core} {a b c : Nat} (hab : before k a b = true) (hbc : before k b c = true) : before k a c = true := by
  rw [before_iff] at *
  omega

/-- The better of a choice so far and one more context. -/
def better (k : Core) (b : Option Nat) (i : Nat) : Option Nat :=
  match b with
  | none => some i
  | some j => if before k i j then some i else some j

/-- A choice among the contexts of a list: one of them, and none of the others goes before it. -/
def FirstOf (k : Core) (l : List Nat) (b : Option Nat) : Prop :=
  match b with
  | none => l = []
  | some i => i ∈ l ∧ ∀ j ∈ l, j ≠ i → before k j i = false

theorem firstOf_better {k : Core} {l : List Nat} {b : Option Nat} (i : Nat) (h : FirstOf k l b) : FirstOf k (l ++ [i]) (better k b i) := by
  cases b with
  | none =>
    cases h
    exact ⟨List.mem_singleton_self i, fun j hj hne => absurd (List.mem_singleton.mp hj) hne⟩
  | some b =>
    obtain ⟨hb, hfirst⟩ := h
    simp only [better]
    split
    next hib =>
      refine ⟨List.mem_append_right _ (List.mem_singleton_self i), fun j hj hne => ?_⟩
      rcases List.mem_append.mp hj with hj | hj
      · refine Bool.eq_false_iff.mpr fun hji => ?_
        have hjb : before k j b = true := before_trans hji hib
        by_cases hjb' : j = b
        · subst hjb'
          rw [before_iff] at hji hib
          omega
        · exact absurd hjb (by simp [hfirst j hj hjb'])
      · exact absurd (List.mem_singleton.mp hj) hne
    next hib =>
      refine ⟨List.mem_append_left _ hb, fun j hj hne => ?_⟩
      rcases List.mem_append.mp hj with hj | hj
      · exact hfirst j hj hne
      · rw [List.mem_singleton.mp hj]
        exact Bool.eq_false_iff.mpr hib

theorem firstOf_foldl (k : Core) (l : List Nat) : FirstOf k l (l.foldl (better k) none) := by
  induction l using List.reverseRecOn with
  | nil => rfl
  | append_singleton l i ih =>
    rw [List.foldl_append]
    exact firstOf_better i ih

/-- A rotation point chooses among the contexts that can issue (R42). -/
theorem firstOf_choose (k : Core) : FirstOf k ([0, 1, 2, 3].filter (fun i => canIssue (k.slot i))) (choose k) := firstOf_foldl k _

theorem mem_slots {i : Nat} : i ∈ [0, 1, 2, 3] ↔ i < 4 := by
  simp only [List.mem_cons, List.not_mem_nil, or_false]
  omega

theorem choose_some {k : Core} {i : Nat} (h : choose k = some i) : i < 4 ∧ canIssue (k.slot i) = true ∧
    ∀ j, j < 4 → canIssue (k.slot j) = true → j ≠ i → before k j i = false := by
  have hf := firstOf_choose k
  rw [h] at hf
  obtain ⟨hi, hfirst⟩ := hf
  obtain ⟨hlt, hcan⟩ := List.mem_filter.mp hi
  exact ⟨mem_slots.mp hlt, hcan, fun j hj hc hne => hfirst j (List.mem_filter.mpr ⟨mem_slots.mpr hj, hc⟩) hne⟩

theorem choose_none {k : Core} (h : choose k = none) : ∀ j, j < 4 → canIssue (k.slot j) = false := by
  have hf := firstOf_choose k
  rw [h] at hf
  intro j hj
  exact Bool.eq_false_iff.mpr (List.filter_eq_nil_iff.mp hf j (mem_slots.mpr hj))

/-! ### The words of a bundle -/

theorem inRange_soloAttr (sl : Slot) : (soloAttr sl.num).inRange = true := by cases sl <;> rfl

theorem decodeHeader_solo (sl : Slot) : decodeHeader ((soloAttr sl.num).put 0 0) = .ok (soloAttr sl.num, none) := by
  have ha := inRange_soloAttr sl
  obtain ⟨hclass, hrsv, hop, harg, hlow⟩ := bits_attr_put ha (op := 0) (arg := 0) (by decide) (by decide)
  have hget := getAttr_put ha (op := 0) (arg := 0) (by decide) (by decide)
  simp only [decodeHeader, hclass, hrsv, hop, harg, hlow, hget, ne_eq, not_true_eq_false, or_self, if_false, if_true]

/-- The one slot of a solo header is read from the word behind it. -/
theorem readSlots_solo (sem : Instr → SlotSem) (word : Nat → Nat) (rem : Tab Remembered) (hdr rep w : Nat) (sl : Slot) :
    readSlots sem word rem (soloAttr sl.num) hdr rep [0, 1, 2, 3, 4, 5] w =
      match decodeSlot sl (word w) with
      | .error e => .error { code := e.code, tval := w, slot := sl.num, k := 0 }
      | .ok i => .ok [{ sl := sl.num, k := 0, ins := i, word := word w, waddr := w, sem := sem i }] := by
  cases sl <;> rfl

section
variable (sem : Instr → SlotSem) (core slot : Nat) (s : State)

theorem fetch_beyond (h : codeLen s (s.ctx core slot).part (s.ctx core slot).codeOid ≤ (s.ctx core slot).pcNow) :
    fetch sem core slot s = .error { code := 7, tval := (s.ctx core slot).pcNow, slot := 7 } := by
  simp only [fetch, h, if_true]

theorem fetch_badHeader {e : DecErr} (hlen : (s.ctx core slot).pcNow < codeLen s (s.ctx core slot).part (s.ctx core slot).codeOid)
    (h : decodeHeader (codeWord s (s.ctx core slot).part (s.ctx core slot).codeOid (s.ctx core slot).pcNow) = .error e) :
    fetch sem core slot s = .error { code := e.code, tval := (s.ctx core slot).pcNow, slot := 7 } := by
  simp only [fetch, Nat.not_le.mpr hlen, if_false, h]

theorem fetch_header {a : Attr} {ctl : Option Instr} (hlen : (s.ctx core slot).pcNow < codeLen s (s.ctx core slot).part (s.ctx core slot).codeOid)
    (h : decodeHeader (codeWord s (s.ctx core slot).part (s.ctx core slot).codeOid (s.ctx core slot).pcNow) = .ok (a, ctl)) :
    fetch sem core slot s = fetchSlots sem core slot s a ctl := by
  simp only [fetch, Nat.not_le.mpr hlen, if_false, h]

/-- The bundle behind a solo header: its one slot, or what its word fails by. -/
theorem fetchSlots_solo (sl : Slot) (hlen : (s.ctx core slot).pcNow + 2 ≤ codeLen s (s.ctx core slot).part (s.ctx core slot).codeOid) :
    fetchSlots sem core slot s (soloAttr sl.num) none =
      match decodeSlot sl (codeWord s (s.ctx core slot).part (s.ctx core slot).codeOid ((s.ctx core slot).pcNow + 1)) with
      | .error e => .error { code := e.code, tval := (s.ctx core slot).pcNow + 1, slot := sl.num, k := 0 }
      | .ok i => .ok { attr := soloAttr sl.num, ctl := none, hdr := (s.ctx core slot).pcNow, nxt := (s.ctx core slot).pcNow + 2,
                       pieces := [{ sl := sl.num, k := 0, ins := i, word := codeWord s (s.ctx core slot).part (s.ctx core slot).codeOid ((s.ctx core slot).pcNow + 1), waddr := (s.ctx core slot).pcNow + 1, sem := sem i }] } := by
  have hwords : attrWords (soloAttr sl.num) = 1 := by cases sl <;> rfl
  have hsticky : ∀ j, maskBit (soloAttr sl.num).sticky j = false := fun j => by simp [soloAttr, maskBit, bits]
  have hlen' : ¬ codeLen s (s.ctx core slot).part (s.ctx core slot).codeOid < (s.ctx core slot).pcNow + 1 + 1 := by omega
  unfold fetchSlots
  simp only [hsticky, Bool.false_or, Bool.false_and, List.any_cons, List.any_nil, Bool.false_eq_true, if_false, hwords, hlen', and_false,
    readSlots_solo]
  cases decodeSlot sl (codeWord s (s.ctx core slot).part (s.ctx core slot).codeOid ((s.ctx core slot).pcNow + 1)) with
  | error e => rfl
  | ok i => rfl

end

/-! ### The bundle of a core's current context -/

theorem cur_fetched (s : State) (core : Nat) : (fetched s core).cur = (core, (s.core core).cur) :=
  (((Formed.refl _).chargeCtx).still (.fetchCode ..)).cur

section
variable {s : State} {core : Nat} (hp : s.power = .on)
include hp

theorem exec_bundleIssue : exec (.bundleIssue core) s = .next (match rotate s core with
    | some (t, slot) => attempt (fetchCode (chargeCtx { t with cur := (core, slot) } core slot) core slot) core slot (fetch slotSem core slot)
    | none => s) := by
  have h : s.power = .on ∨ s.power = .entering := .inl hp
  show execBundleIssue core s = _
  simp only [execBundleIssue, h, if_true] <;> rfl

theorem bundleIssue_current (hr : rotates ((s.core core).slot (s.core core).cur) = false) :
    exec (.bundleIssue core) s = .next (attempt (fetched s core) core (s.core core).cur (fetch slotSem core (s.core core).cur)) := by
  have h : rotate s core = some (s, (s.core core).cur) := by simp only [rotate, hr, if_true]
  rw [exec_bundleIssue hp, h]
  rfl

theorem bundleIssue_chosen {i : Nat} (hr : rotates ((s.core core).slot (s.core core).cur) = true) (hc : choose (s.core core) = some i) :
    ∃ t, exec (.bundleIssue core) s = .next t ∧ t.cur = (core, i) := by
  have h : rotate s core = some ((s.updCore core (fun k => { k with cur := i })).updCtx core i (fun c => { c with burst := 0, held := 0 }), i) := by
    simp only [rotate, hr, Bool.true_eq_false, if_false, hc, Option.map_some]
  rw [exec_bundleIssue hp, h]
  exact ⟨_, rfl, ((Formed.refl _).attemptBundle).cur⟩

theorem bundleIssue_none (hr : rotates ((s.core core).slot (s.core core).cur) = true) (hc : choose (s.core core) = none) :
    exec (.bundleIssue core) s = .next s := by
  have h : rotate s core = none := by simp only [rotate, hr, Bool.true_eq_false, if_false, hc, Option.map_none]
  rw [exec_bundleIssue hp, h]

end

/-- Settles O32: the order of the contexts is transitive, so the fold of R42 ends at a first one; a decoding error of the
header or of a lone slot's word goes to `failBundle` with its cause and place (R358). -/
theorem bundleIssue : Obligations.BundleIssue := by
  unfold Obligations.BundleIssue
  refine ⟨exec_slot, fun k i h => choose_some h, fun k h => choose_none h, ?_⟩
  intro s core hp k
  refine ⟨bundleIssue_current hp, fun i hr hc _ => bundleIssue_chosen hp hr hc, bundleIssue_none hp, ?_⟩
  intro e hr v c b u word hc ht hs hb traps
  have hcur : v.cur = (core, k.cur) := cur_fetched s core
  have hturn : AtTurn v := atTurn_of hc ht hs hb
  have hctx : (bounded v).ctx core k.cur = b := by
    have h := ctx_bounded v
    rwa [hcur] at h
  have hfail {x : BErr} (hx : fetch slotSem core k.cur (bounded v) = .error x) :
      exec (.bundleIssue core) s =
        .next (failBundle u core k.cur x.code (.ofNat 64 x.tval) x.slot x.k (if x.slot = 7 then b.pcNow else x.tval)) := by
    have h := attempt_error hturn (get := fetch slotSem v.cur.1 v.cur.2) (by rw [hcur]; exact hx)
    rw [hcur] at h
    rw [bundleIssue_current hp hr]
    exact congrArg _ h
  have hlenv : codeLen (bounded v) b.part b.codeOid = codeLen v b.part b.codeOid := codeLen_setCtx ..
  have hwordv (n : Nat) : codeWord (bounded v) b.part b.codeOid n = codeWord v b.part b.codeOid n := codeWord_setCtx ..
  clear_value b u
  refine ⟨fun hlen => ?_, fun hlen hw => ?_, fun sl hlen h0 h1 => ?_⟩
  · have hx := fetch_beyond slotSem core k.cur (bounded v) (by rw [hctx, hlenv]; exact hlen)
    rw [hctx] at hx
    have h := hfail hx
    rwa [if_pos rfl] at h
  · have hx := fetch_badHeader slotSem core k.cur (bounded v) (e := e) (by rw [hctx, hlenv]; exact hlen) (by rw [hctx, hwordv]; exact hw)
    rw [hctx] at hx
    have h := hfail hx
    rwa [if_pos rfl] at h
  · have hx := fetch_header slotSem core k.cur (bounded v) (a := soloAttr sl.num) (ctl := none) (by rw [hctx, hlenv]; omega)
      (by rw [hctx, hwordv]; exact (congrArg decodeHeader h0).trans (decodeHeader_solo sl))
    rw [fetchSlots_solo slotSem core k.cur (bounded v) sl (by rw [hctx, hlenv]; exact hlen), hctx, hwordv] at hx
    have h1' : decodeSlot sl (codeWord v b.part b.codeOid (b.pcNow + 1)) = .error e := h1
    rw [h1'] at hx
    have hsl : sl.num ≠ 7 := by cases sl <;> decide
    have h := hfail hx
    simp only [hsl, if_false] at h
    exact h

end Sys2Proof.Machine

/-! ## A step issues the bundle that is decoded (R108) -/

namespace Sys2Proof.Machine
set_option Elab.async false

/-- Where a context fetches its next bundle: word address, partition and code object. -/
def Ctx.codeAt (c : Ctx) : Nat × Nat × Nat := (c.pcNow, c.part, c.codeOid)

/-- A context of `u` that fetches the same code from the same memory as in `t`. -/
structure SameCode (core slot : Nat) (t u : State) : Prop where
  objs : u.objs = t.objs
  mem : u.mem = t.mem
  at' : (u.ctx core slot).codeAt = (t.ctx core slot).codeAt

theorem codeAt_openRegion (c : Ctx) : c.openRegion.codeAt = c.codeAt := proj_still Ctx.codeAt (fun _ => rfl) (Ctx.still_openRegion c)

theorem codeAt_mark (c : Ctx) : c.mark.codeAt = c.codeAt := by
  unfold Ctx.mark
  rw [codeAt_openRegion]
  unfold Ctx.closeRegion
  split <;> rfl

namespace SameCode
variable {core slot : Nat} {t u : State}

theorem refl (t : State) : SameCode core slot t t := ⟨rfl, rfl, rfl⟩

theorem setCtx (h : SameCode core slot t u) {c : Ctx} (hc : c.codeAt = (u.ctx core slot).codeAt) : SameCode core slot t (u.setCtx core slot c) :=
  ⟨h.objs, h.mem, by rw [State.ctx_setCtx, hc, h.at']⟩

theorem updCtx (h : SameCode core slot t u) {f : Ctx → Ctx} (hf : (f (u.ctx core slot)).codeAt = (u.ctx core slot).codeAt) :
    SameCode core slot t (u.updCtx core slot f) := h.setCtx hf

theorem codeLen (h : SameCode core slot t u) (p oid : Nat) : codeLen u p oid = codeLen t p oid := by
  simp only [Machine.codeLen, State.objOf, State.obj, h.objs]

theorem codeWord (h : SameCode core slot t u) (p oid w : Nat) : codeWord u p oid w = codeWord t p oid w := by
  simp only [Machine.codeWord, codeByte, State.objOf, State.obj, h.objs, h.mem]

theorem mark (h : SameCode core slot t u) {v : State} (hv : markHere u core slot = some v) : SameCode core slot t v := by
  unfold markHere at hv
  dsimp only at hv
  split at hv
  · cases hv
    exact h
  · split at hv
    · cases hv
    · cases hv
      exact h.setCtx (codeAt_mark _)

end SameCode

theorem codeAt_atBoundary (c : Ctx) : (atBoundary c).codeAt = c.codeAt := proj_still Ctx.codeAt (fun _ => rfl) (still_atBoundary c)

/-- An attempt reads its bundle in a state that has the same code at the same place. -/
theorem attempt_congr {t : State} {core slot : Nat} {get get' : State → Except BErr Frame}
    (hget : ∀ u, SameCode core slot t u → get u = get' u) : attempt t core slot get = attempt t core slot get' := by
  unfold attempt
  refine ite_congr rfl (fun _ => rfl) fun _ => ite_congr rfl (fun _ => rfl) fun _ => ite_congr rfl (fun _ => rfl) fun _ => ?_
  extract_lets u c
  have hu : SameCode core slot t u := (SameCode.refl t).updCtx (codeAt_atBoundary _)
  refine ite_congr rfl (fun _ => rfl) fun _ => ?_
  cases hm : (if c.markDue && !c.sup then (markHere u core slot).map (fun s => s.updCtx core slot (fun c => { c with markDue := false })) else some u) with
  | none => rfl
  | some v =>
    have hv : SameCode core slot t v := by
      split at hm
      · obtain ⟨w, hw, rfl⟩ := Option.map_eq_some_iff.mp hm
        exact (hu.mark hw).updCtx rfl
      · cases hm
        exact hu
    dsimp only
    rw [hget v hv]

/-! ### The fetch of a bundle -/

theorem keepsCode_codeError (s : State) (core slot die w o : Nat) : KeepsCtx Ctx.codeAt s (codeError s core slot die w o) := by
  unfold codeError
  refine .ite (.refl s) ?_
  have hu : KeepsCtx Ctx.codeAt s (s.uncorr die (homeStoreOf s die w) (32 * w) (s.ctx core slot).part core o) := by
    unfold State.uncorr
    exact (KeepsCtx.logErr ..).trans ((KeepsCtx.postE ..))
  refine (hu.trans (.updCore _ _ _)).trans (.updCtx _ _ _ _ fun x => ?_)
  split <;> rfl

theorem OnlyMeters.keepsCode {s t : State} (h : OnlyMeters s t) : KeepsCtx Ctx.codeAt s t :=
  ⟨h.cur, fun c i => (congrArg Ctx.codeAt (h.ctx c i) : (t.ctx c i).unmetered.codeAt = (s.ctx c i).unmetered.codeAt)⟩

theorem keepsCode_fillCode (s : State) (core slot oid page die w o : Nat) : KeepsCtx Ctx.codeAt s (fillCode s core slot oid page die w o) := by
  unfold fillCode
  exact .ite (.updCore _ _ _) (.ite (keepsCode_codeError ..) ((OnlyMeters.l2Touch ..).keepsCode.trans (.updCore _ _ _)))

theorem keepsCode_fetchCode (s : State) (core slot : Nat) : KeepsCtx Ctx.codeAt s (fetchCode s core slot) := by
  unfold fetchCode
  refine .ite (.refl s) ?_
  split
  · exact .refl s
  · exact .foldl _ (fun _ _ => .ite (keepsCode_fillCode ..) (.refl _)) _ _

theorem keepsCode_chargeCtx (s : State) (core slot : Nat) : KeepsCtx Ctx.codeAt s (chargeCtx s core slot) := by
  refine KeepsCtx.trans (.updCtx s core slot fun c => { c with joule := c.joule + Config.activity (4 * core + slot) s.fresh }) ?_
  exact .congr rfl rfl

/-- The context whose bundle is fetched stands where it stood. -/
theorem codeAt_fetched (s : State) (core : Nat) :
    ((fetched s core).ctx core (s.core core).cur).codeAt = ((s.core core).slot (s.core core).cur).codeAt :=
  ((keepsCode_chargeCtx { s with cur := (core, (s.core core).cur) } core (s.core core).cur).trans (keepsCode_fetchCode ..)).ctx core (s.core core).cur

theorem mem_fetched (s : State) (core : Nat) : (fetched s core).mem = s.mem := (Still.fetchCode ..).mem

/-- The words of a well-formed instruction behind its header make its own bundle. -/
theorem fetch_solo {i : Instr} {core slot : Nat} {s : State} {c : Ctx} (hs : (slotParts i).isSome = true) (hw : wellFormed i = true)
    (hc : (s.ctx core slot).codeAt = c.codeAt) (hlen : c.pcNow + 2 ≤ codeLen s c.part c.codeOid)
    (h0 : codeWord s c.part c.codeOid c.pcNow = (soloAttr (headOf i).slot.num).put 0 0) (h1 : codeWord s c.part c.codeOid (c.pcNow + 1) = encode i) :
    fetch slotSem core slot s = .ok (soloFrame i (slotSem i) core slot s) := by
  obtain ⟨⟨h, op, arg⟩, hp⟩ := Option.isSome_iff_exists.mp hs
  have hhead : headOf i = h := by simp only [headOf, hp]
  have hdec : decodeSlot (headOf i).slot (encode i) = .ok i := by
    rw [hhead]
    exact (decodeSlot_encode_of_wellFormed hw hp).2
  simp only [Ctx.codeAt, Prod.mk.injEq] at hc
  obtain ⟨hpc, hpart, hoid⟩ := hc
  rw [← hpc, ← hpart, ← hoid] at hlen h0 h1
  rw [fetch_header slotSem core slot s (a := soloAttr (headOf i).slot.num) (ctl := none) (by omega) (by rw [h0]; exact decodeHeader_solo _),
    fetchSlots_solo slotSem core slot s _ hlen, h1, hdec]
  rfl

/-! ### The step -/

/-- The first of the agenda is what comes next, with nothing before it (log entry 2). -/
theorem step_agenda {s : State} {i : Instr} {rest : List (Nat × Instr)} (ha : s.agenda = (0, i) :: rest)
    (hf : s.running = false ∨ s.now ≤ (forced s).1) : step s = exec i { s with agenda := rest } := by
  have hforced : (s.running && decide ((forced s).1 < s.now + 0)) = false := by
    rcases hf with h | h
    · simp [h]
    · simp [Nat.not_lt.mpr h]
  have htake : takeStep s = ({ s with agenda := rest }, i) := by
    unfold takeStep
    rw [ha]
    dsimp only
    rw [hforced]
    rfl
  have hne : ¬ (s.power = .failed ∧ s.agenda = []) := fun h => by simp [ha] at h
  rw [step, if_neg hne, htake]

section
variable {s : State} {core : Nat} {i : Instr} (hp : s.power = .on) (hr : rotates ((s.core core).slot (s.core core).cur) = false)
  (hw : wellFormed i = true)
include hp hr hw

omit hw in
/-- BUNDLE_ISSUE is the issue of the instruction whose words stand at the pc. -/
theorem bundleIssue_runs {get : State → Except BErr Frame}
    (hexec : exec i (fetched s core) = .next (attempt (fetched s core) (fetched s core).cur.1 (fetched s core).cur.2 get))
    (hget : ∀ u, SameCode core (s.core core).cur (fetched s core) u → fetch slotSem core (s.core core).cur u = get u) :
    exec (.bundleIssue core) s = exec i (fetched s core) := by
  rw [bundleIssue_current hp hr, hexec, cur_fetched]
  exact congrArg _ (attempt_congr hget)

theorem bundleIssue_slot (hs : (slotParts i).isSome = true) :
    let c := (s.core core).slot (s.core core).cur
    let word (n : Nat) : Nat := codeWord (fetched s core) c.part c.codeOid (c.pcNow + n)
    c.pcNow + 2 ≤ codeLen (fetched s core) c.part c.codeOid → word 0 = (soloAttr (headOf i).slot.num).put 0 0 → word 1 = encode i →
      exec (.bundleIssue core) s = exec i (fetched s core) := by
  intro c word hlen h0 h1
  refine bundleIssue_runs hp hr (exec_slot i _ hs) fun u hu => ?_
  rw [cur_fetched]
  exact fetch_solo hs hw (hu.at'.trans (codeAt_fetched s core)) (by rw [hu.codeLen]; exact hlen) (by rw [hu.codeWord]; exact h0)
    (by rw [hu.codeWord]; exact h1)

theorem bundleIssue_ctl (hc : (ctlParts i).isSome = true) :
    let c := (s.core core).slot (s.core core).cur
    let word (n : Nat) : Nat := codeWord (fetched s core) c.part c.codeOid (c.pcNow + n)
    c.pcNow + 1 ≤ codeLen (fetched s core) c.part c.codeOid → word 0 = encode i → exec (.bundleIssue core) s = exec i (fetched s core) := by
  intro c word hlen h0
  obtain ⟨⟨a, op, arg⟩, hctl⟩ := Option.isSome_iff_exists.mp hc
  have hexec : exec i (fetched s core) = .next (issueCtl slotSem i a (fetched s core)) := by
    cases i <;> cases hctl <;> rfl
  refine bundleIssue_runs hp hr hexec fun u hu => ?_
  rw [cur_fetched]
  have hat := hu.at'.trans (codeAt_fetched s core)
  simp only [Ctx.codeAt, Prod.mk.injEq] at hat
  obtain ⟨hpc, hpart, hoid⟩ := hat
  refine fetch_header slotSem core _ u ?_ ?_
  · rw [hpc, hpart, hoid, hu.codeLen]
    exact hlen
  · rw [hpc, hpart, hoid, hu.codeWord]
    exact (congrArg decodeHeader h0).trans (decodeHeader_encode_of_wellFormed hw hctl).2

end

/-- Settles O31: the words at the pc decode to the instruction they encode, so BUNDLE_ISSUE and the instruction are one
attempt with the same bundle (R108, R358). -/
theorem stepRunsDecoded : Obligations.StepRunsDecoded := by
  unfold Obligations.StepRunsDecoded
  refine ⟨fun s i rest ha hf => step_agenda ha hf, ?_⟩
  intro s core i hp hr hw c u word
  exact ⟨mem_fetched s core, cur_fetched s core, fun hs => bundleIssue_slot hp hr hw hs, fun hc => bundleIssue_ctl hp hr hw hc⟩

end Sys2Proof.Machine

/-! ## Returns from traps, `end` and `ctxout` (R48, R54, R186, R187) -/

namespace Sys2Proof.Machine
set_option Elab.async false

theorem fixOpen_settleMark (c : Ctx) : (settleMark c).fixOpen = c.fixOpen := by
  unfold settleMark
  split
  next h =>
    simp only [Bool.and_eq_true] at h
    exact h.1.1.2.symm
  · rfl

theorem Ctx.a_openRegion (c : Ctx) : c.openRegion.a = c.a := by
  unfold Ctx.openRegion Ctx.setShadow
  dsimp only
  split <;> rfl

theorem Ctx.a_closeRegion (c : Ctx) : c.closeRegion.a = c.a := by
  unfold Ctx.closeRegion
  split <;> rfl

theorem a_settleMark (c : Ctx) : (settleMark c).a = c.a := by
  unfold settleMark
  split
  · exact (Ctx.a_openRegion _).trans (Ctx.a_closeRegion c)
  · rfl

section
variable {i : Instr} {m : SlotSem} {s : State}

/-- A lone slot without tile, mark and gate issues once its checks pass, and its end is that of its meaning. -/
theorem issueOne_ends (hm : slotSem i = m) (hf : free (headOf i) s = true) (hc : m.chk (here i s) (judged (headOf i) s) = none)
    (hpost : m.post (here i s) (judged (headOf i) s) = none) (hh : m.hold (here i s) (judged (headOf i) s) = false)
    (ht : ∀ u, m.tiles (here i s) u = []) (hk : m.mark (here i s) (judged (headOf i) s) = false)
    (hg : m.gates (here i s) (judged (headOf i) s) = false) (hl : m.lat = .now) :
    issueOne i m s = issued i false s (m.eff (here i s)) (m.goes (here i s) (m.eff (here i s) (issuing i false s))) (m.fin (here i s)) := by
  have h := issueOne_passes i s hf (passes_plain i s m hm hc hpost hh ht hk hg (by simp [hl]))
  rw [hm, hl] at h
  exact h

theorem wait_found (h : Head) (hf : free h s = true) : (found h s).wait = .none := by
  have hcan := ((free_iff h s).mp hf).can
  simp only [canIssue, Bool.and_eq_true, beq_iff_eq] at hcan
  rw [proj_found Ctx.wait (fun _ => rfl)]
  exact hcan.2

theorem sup_atIssue (i : Instr) (al : Bool) (s : State) : (atIssue i al s).sup = (found (headOf i) s).sup := passed_sup ..

theorem wait_atIssue (hf : free (headOf i) s = true) (al : Bool) : (atIssue i al s).wait = .none :=
  (passed_wait ..).trans (wait_found _ hf)

end

theorem cur_ending_id {i : Instr} {al : Bool} {s : State} {g : Option Nat} : (ending i al s id g).cur = s.cur := rfl

/-- The context in hand behind a lone bundle, from the state in which its end leaves it. -/
theorem hand_issued_eq {i : Instr} {al : Bool} {s v : State} {eff fin : State → State} {g : Option Nat} (hv : fin (ending i al s eff g) = v)
    (hc : v.cur = s.cur) :
    hand (issued i al s eff g fin) = settleMark ((v.ctx s.cur.1 s.cur.2).ended ((v.core s.cur.1).issues + 1)) := by
  subst hv
  exact hand_issued hc

/-! ### Returns from traps -/

/-- The mode, the state and the pc of a context: what the return from a trap sets. -/
def Ctx.stand (c : Ctx) : Bool × SlotSt × Nat := (c.sup, c.st, c.a.pc)

theorem Ctx.of_stand {c : Ctx} {sup : Bool} {st : SlotSt} {pc : Nat} (h : c.stand = (sup, st, pc)) : c.sup = sup ∧ c.st = st ∧ c.a.pc = pc := by
  simpa only [Ctx.stand, Prod.mk.injEq] using h

theorem Ctx.stand_openRegion (c : Ctx) : c.openRegion.stand = c.stand := by
  unfold Ctx.openRegion Ctx.setShadow
  dsimp only
  split <;> rfl

theorem Ctx.stand_closeRegion (c : Ctx) : c.closeRegion.stand = c.stand := by
  unfold Ctx.closeRegion
  split <;> rfl

theorem stand_settleMark (c : Ctx) : (settleMark c).stand = c.stand := by
  unfold settleMark
  split
  · exact (Ctx.stand_openRegion _).trans (Ctx.stand_closeRegion c)
  · rfl

theorem Ctx.stand_ended (n : Nat) (c : Ctx) : (c.ended n).stand = c.stand := by
  cases h : c.sup <;> simp [Ctx.ended, Ctx.stand, h]

section
variable {i : Instr} {al : Bool} {s v : State} {eff fin : State → State} {g : Option Nat} (hv : fin (ending i al s eff g) = v) (hc : v.cur = s.cur)
include hv hc

theorem stand_hand_issued : (hand (issued i al s eff g fin)).stand = (v.ctx s.cur.1 s.cur.2).stand := by
  rw [hand_issued_eq hv hc, stand_settleMark, Ctx.stand_ended]

theorem fixOpen_hand_issued : (hand (issued i al s eff g fin)).fixOpen = (v.ctx s.cur.1 s.cur.2).fixOpen := by
  rw [hand_issued_eq hv hc, fixOpen_settleMark]
  rfl

theorem proj_issued_fin {α : Type} (f : Ctx → α) (hf : ∀ c, f c.settled = f c) :
    f (hand (issued i al s eff g fin)) = f (v.ctx s.cur.1 s.cur.2) := by
  subst hv
  rw [← hf, settled_hand_issued hc, hf]

end

theorem pc_setTstate (a : Arch) (t v : Nat) : (a.setTstate t v).pc = a.pc := by
  unfold Arch.setTstate Arch.setDesc
  split <;> rfl

theorem pc_foldl_filling (l : List Nat) (a : Arch) : (l.foldl (fun a t => a.setTstate t 1) a).pc = a.pc :=
  List.foldlRecOn (motive := fun b : Arch => b.pc = a.pc) l _ rfl (fun _ hb t _ => (pc_setTstate _ t 1).trans hb)

theorem stand_takesTiles (o : EOp) (c : Ctx) : (o.takesTiles c).stand = c.stand := by
  have hpc : (o.takesTiles c).a.pc = c.a.pc := by
    unfold EOp.takesTiles
    dsimp only
    split
    · rw [pc_setTstate, pc_foldl_filling]
    · exact pc_foldl_filling _ _
  exact congrArg (fun n => (c.sup, c.st, n)) hpc

theorem ctx_takes (s : State) (core : Nat) (o : EOp) : (Core.takes s core o).ctx = (s.core core).ctx := by
  unfold Core.takes Core.setPlane
  dsimp only
  split
  · split <;> rfl
  · rfl

theorem KeepsCtx.setCore {α : Type} {g : Ctx → α} (s : State) (c : Nat) (k : Core) (hk : k.ctx = (s.core c).ctx) : KeepsCtx g s (s.setCore c k) := by
  refine ⟨rfl, fun d i => ?_⟩
  by_cases hd : d = c
  · subst hd
    simp only [State.ctx, State.core_setCore, Core.slot, hk]
  · simp only [State.ctx, State.core_setCore_other _ _ _ _ hd]

theorem stand_launch (s : State) (core : Nat) (o : EOp) : KeepsCtx Ctx.stand s (launch s core o) := by
  have hcore := KeepsCtx.setCore (g := Ctx.stand) s core (Core.takes s core o) (ctx_takes s core o)
  cases hp : o.predOff with
  | false =>
    rw [launch_eq s core o hp]
    exact hcore.trans (.updCtx _ _ _ _ (stand_takesTiles o))
  | true =>
    rw [launch_off s core o hp]
    exact hcore

theorem pc_progClear (a : Arch) (n : Nat) : (a.progClear n).pc = a.pc := by
  unfold Arch.progClear Arch.setItem
  rfl

theorem stand_progClear (c : Ctx) (n : Nat) : ({ c with a := c.a.progClear n } : Ctx).stand = c.stand :=
  congrArg (fun pc => (c.sup, c.st, pc)) (pc_progClear c.a n)

theorem stand_relaunch (s : State) (core slot n seq : Nat) : KeepsCtx Ctx.stand s (relaunch s core slot n seq) := by
  have hclear : KeepsCtx Ctx.stand s (s.setCtx core slot { s.ctx core slot with a := (s.ctx core slot).a.progClear n }) :=
    .setCtx _ _ _ _ (stand_progClear _ n)
  obtain h | ⟨o, h⟩ := clearsAndLaunches_relaunch s core slot n seq
  · rw [h]
    exact hclear
  · rw [h]
    exact hclear.trans (stand_launch _ core o)

/-- The context to which a return goes, before its operations run again and its region opens (R186). -/
def Ctx.returned (c : Ctx) : Ctx :=
  { c with sup := false, st := .ready, wait := .none, slv := [], srem := [], sreps := 0,
           a := { c.a with pc := fld c.epc 0 24, pend := c.a.pend.map (fun p => { p with sup := false }) } }

theorem returnUser_eq (s : State) (core slot seq : Nat) : returnUser s core slot seq =
    ((validWords (s.ctx core slot).returned.a).foldl (fun t n => relaunch t core slot n seq)
      (s.setCtx core slot (s.ctx core slot).returned)).updCtx core slot Ctx.openRegion := rfl

/-- The return leaves the context Ready in user mode at sr.epc, with a region open. -/
theorem returnUser_stands (s : State) (core slot seq : Nat) : (returnUser s core slot seq).cur = s.cur ∧
    ((returnUser s core slot seq).ctx core slot).stand = (false, .ready, (s.ctx core slot).epc.toNat % 2 ^ 24) ∧
    ((returnUser s core slot seq).ctx core slot).fixOpen = true := by
  rw [returnUser_eq]
  have hk := KeepsCtx.foldl (g := Ctx.stand) (fun t n => relaunch t core slot n seq) (fun t n => stand_relaunch t core slot n seq)
    (validWords (s.ctx core slot).returned.a) (s.setCtx core slot (s.ctx core slot).returned)
  refine ⟨hk.cur, ?_, ?_⟩
  · rw [State.ctx_updCtx, Ctx.stand_openRegion, hk.ctx, State.ctx_setCtx]
    simp [Ctx.stand, Ctx.returned, fld, bits]
  · rw [State.ctx_updCtx]
    unfold Ctx.openRegion Ctx.setShadow
    rfl

section
variable {h : Head} {o : SR} {s : State} (hf : free h s = true) (hs : (found h s).sup = true)
include hf hs

theorem issueOne_eret : issueOne (.eret h o) (semEret o) s =
    issued (.eret h o) false s id none (fun t => returnFromTrap t s.cur.1 s.cur.2 (here (.eret h o) s).seq) := by
  have hc : (semEret o).chk (here (.eret h o) s) (judged h s) = none := by
    show onlySup 0x103 _ = none
    rw [here_ctx, ctx_judged, onlySup, hs]
    rfl
  exact issueOne_ends (i := .eret h o) (m := semEret o) rfl hf hc rfl rfl (fun _ => rfl) rfl rfl rfl

end

section
variable {h : Head} {o : SR} {s u : State} {t : State} (hu : ending (.eret h o) false s id none = u)
  (ht : t = issued (.eret h o) false s id none (fun t => returnFromTrap t s.cur.1 s.cur.2 (here (.eret h o) s).seq))
include hu ht

/-- `eret` whose checks pass leaves user mode at sr.epc. -/
theorem eret_returns (hr : eretRefused u s.cur.1 s.cur.2 = none) :
    (hand t).stand = (false, .ready, (found h s).epc.toNat % 2 ^ 24) ∧ (hand t).fixOpen = true := by
  have hcu : u.cur = s.cur := by rw [← hu]; rfl
  obtain ⟨hcur, hstand, hopen⟩ := returnUser_stands u s.cur.1 s.cur.2 (here (.eret h o) s).seq
  have hepc : (u.ctx s.cur.1 s.cur.2).epc = (found h s).epc := by
    rw [← hu, proj_ending Ctx.epc fun _ => rfl, id, ctx_issuing]
    exact passed_epc ..
  have hret : returnFromTrap (ending (.eret h o) false s id none) s.cur.1 s.cur.2 (here (.eret h o) s).seq =
      returnUser u s.cur.1 s.cur.2 (here (.eret h o) s).seq := by
    rw [hu, returnFromTrap, hr]
  rw [ht, ← hepc]
  exact ⟨(stand_hand_issued (fin := fun t => returnFromTrap t s.cur.1 s.cur.2 (here (.eret h o) s).seq) hret (hcur.trans hcu)).trans hstand,
    (fixOpen_hand_issued (fin := fun t => returnFromTrap t s.cur.1 s.cur.2 (here (.eret h o) s).seq) hret (hcur.trans hcu)).trans hopen⟩

/-- Refused, it leaves what the refusal leaves. -/
theorem eret_refused {x : Nat} (hr : eretRefused u s.cur.1 s.cur.2 = some x) {α : Type} (f : Ctx → α) (hp : ∀ c, f c.settled = f c) :
    f (hand t) = f ((refuse u s.cur.1 s.cur.2 0 x).ctx s.cur.1 s.cur.2) := by
  have hcu : u.cur = s.cur := by rw [← hu]; rfl
  have hrefuse : returnFromTrap (ending (.eret h o) false s id none) s.cur.1 s.cur.2 (here (.eret h o) s).seq = refuse u s.cur.1 s.cur.2 0 x := by
    rw [hu, returnFromTrap, hr]
  rw [ht]
  exact proj_issued_fin (fin := fun t => returnFromTrap t s.cur.1 s.cur.2 (here (.eret h o) s).seq) hrefuse hcu f hp

end

/-- Settles O20: the end of `eret`'s bundle is the return, after which its progress words launch operations that leave the
mode and the pc, or the refusal. -/
theorem trapReturn : Obligations.TrapReturn := by
  unfold Obligations.TrapReturn
  intro h o s hf hs i u
  have hi : exec i s = .next (issued i false s id none (fun t => returnFromTrap t s.cur.1 s.cur.2 (here i s).seq)) :=
    congrArg (Host.Outcome.next (φ := Fault) (ρ := Refusal)) (issueOne_eret (o := o) hf hs)
  have hmid : ending i false s id none = u := rfl
  obtain ⟨t, ht⟩ : ∃ t, t = issued i false s id none (fun t => returnFromTrap t s.cur.1 s.cur.2 (here i s).seq) := ⟨_, rfl⟩
  rw [← ht] at hi
  clear_value u
  refine ⟨fun hr => ⟨t, hi, ?_⟩, fun x hr => ⟨t, hi, ?_⟩⟩
  · obtain ⟨hstand, hopen⟩ := eret_returns hmid ht hr
    obtain ⟨hsup, hst, hpc⟩ := Ctx.of_stand hstand
    exact ⟨hsup, hst, hpc, hopen⟩
  · have hset {α : Type} (f : Ctx → α) (hp : ∀ c, f c.settled = f c) := eret_refused hmid ht hr f hp
    have hsup : (u.ctx s.cur.1 s.cur.2).sup = true := by
      rw [← hmid, proj_ending Ctx.sup fun _ => rfl, id, ctx_issuing, sup_atIssue]
      exact hs
    have href : refuse u s.cur.1 s.cur.2 0 x = u.updCtx s.cur.1 s.cur.2 (fun c => { c with cause := .ofNat 64 0x73, tval := .ofNat 64 x }) := rfl
    rw [href] at hset
    refine ⟨(hset Ctx.sup fun _ => rfl).trans ?_, (hset Ctx.cause fun _ => rfl).trans ?_, (hset Ctx.tval fun _ => rfl).trans ?_⟩
    · rw [State.ctx_updCtx]; exact hsup
    · rw [State.ctx_updCtx]
    · rw [State.ctx_updCtx]

/-! ### `end` and `ctxout` -/

section
variable {s : State} {core slot : Nat}

/-- A context in Ending with an inbound operation stays so. -/
theorem endingRelease_waits (h : (s.core core).ops.any (fun o => o.slot == slot && o.inb) = true) : endingRelease s core slot = s := by
  simp [endingRelease, h]

theorem outWithEnded_waits (h : (s.ctx core slot).st ≠ .ended) : outWithEnded s core slot = s := by
  simp [outWithEnded, h]

theorem ctxoutRelease_waits (h : (s.ctx core slot).wait ≠ .ctxout ∨ (s.core core).ops.any (fun o => o.slot == slot) = true) :
    ctxoutRelease s core slot = s := by
  unfold ctxoutRelease
  dsimp only
  refine if_neg fun hq => ?_
  rcases h with h | h
  · exact h hq.1
  · simp [quiet, h] at hq

theorem cores_noteEnding (t : Nat) : (noteEnding s t).cores = s.cores ∧ (noteEnding s t).cur = s.cur := by
  unfold noteEnding
  split <;> exact ⟨rfl, rfl⟩

/-- After an operation of a context in Ending that has an inbound one left, it stays as it is (R48). -/
theorem ctx_afterOp_ending (hst : (s.ctx core slot).st = .ending) (hw : (s.ctx core slot).wait = .none)
    (hop : (s.core core).ops.any (fun o => o.slot == slot && o.inb) = true) :
    (afterOp s core slot).cores = s.cores ∧ (afterOp s core slot).cur = s.cur := by
  obtain ⟨hcores, hcur⟩ := cores_noteEnding (s := s) (s.ctx core slot).team
  have hctx : (noteEnding s (s.ctx core slot).team).ctx core slot = s.ctx core slot := by
    rw [State.ctx, State.core, hcores]
    rfl
  have hafter : afterOp s core slot = noteEnding s (s.ctx core slot).team := by
    have hout : (s.ctx core slot).wait ≠ .ctxout := by simp [hw]
    unfold afterOp
    rw [if_neg hout]
    dsimp only
    rw [endingRelease_waits hop, outWithEnded_waits (by simp [hst]), ctxoutRelease_waits (.inl (by simp [hctx, hw]))]
  rw [hafter]
  exact ⟨hcores, hcur⟩

end

theorem fin_semEndc (o : SR) (p : At) (t : State) : (semEndc o).fin p t = endContext t p.core p.slot := by
  simp only [semEndc]

theorem ops_updCtx (s : State) (c i : Nat) (f : Ctx → Ctx) : ((s.updCtx c i f).core c).ops = (s.core c).ops := by
  rw [State.core_updCtx]
  rfl

theorem pc_movedOn_some {c : Ctx} (hs : c.sup = false) (hdr t : Nat) : (movedOn hdr (some t) c).stand = (false, c.st, t) := by
  simp [movedOn, Ctx.setReps, Ctx.setPc, Ctx.stand, hs]

/-- What `end` makes of its context before anything waits for it (R48). -/
def Ctx.endsHere (c : Ctx) : Ctx := { c.closeRegion with st := .ending }

theorem stand_endsHere (c : Ctx) : c.endsHere.stand = (c.sup, .ending, c.a.pc) := by
  have h := Ctx.of_stand (Ctx.stand_closeRegion c)
  exact congrArg₂ (fun sup pc => (sup, SlotSt.ending, pc)) h.1 h.2.2

theorem fixOpen_endsHere (c : Ctx) : c.endsHere.fixOpen = false := by
  unfold Ctx.endsHere Ctx.closeRegion
  split
  · rfl
  next h => simpa using h

theorem wait_endsHere (c : Ctx) : c.endsHere.wait = c.wait := by
  unfold Ctx.endsHere Ctx.closeRegion
  split <;> rfl

/-- `end` leaves its context in Ending, its region closed, while an inbound operation runs (R48). -/
theorem endContext_waits {u : State} {core slot : Nat} (hw : (u.ctx core slot).wait = .none)
    (hop : (u.core core).ops.any (fun o => o.slot == slot && o.inb) = true) :
    (endContext u core slot).cur = u.cur ∧ (endContext u core slot).ctx core slot = (u.ctx core slot).endsHere := by
  have hc : (u.updCtx core slot Ctx.endsHere).ctx core slot = (u.ctx core slot).endsHere := State.ctx_updCtx ..
  obtain ⟨hcores, hcur⟩ := ctx_afterOp_ending (s := u.updCtx core slot Ctx.endsHere) (core := core) (slot := slot)
    (by rw [hc]; rfl) (by rw [hc, wait_endsHere, hw]) (by rw [ops_updCtx, hop])
  refine ⟨hcur, ?_⟩
  rw [← hc]
  exact congrArg (fun l : Tab Core => (l.get core {}).slot slot) hcores

section
variable {h : Head} {o : SR} {s : State} (hf : free h s = true)
include hf

theorem issueOne_endc (hs : (found h s).sup = false) (hw : (found h s).win = false) : issueOne (.endc h o) (semEndc o) s =
    issued (.endc h o) false s id (some (pcOf s)) (fun t => endContext t s.cur.1 s.cur.2) := by
  have hc : (semEndc o).chk (here (.endc h o) s) (judged h s) = none := by
    show onlyUser 0x105 _ = none
    rw [here_ctx, ctx_judged, onlyUser, hs]
    rfl
  have hh : (semEndc o).hold (here (.endc h o) s) (judged h s) = false := by
    show ((here (.endc h o) s).ctx (judged h s)).win = false
    rw [here_ctx, ctx_judged, hw]
  have hp : (semEndc o).post (here (.endc h o) s) (judged h s) = none := rfl
  have hk : (semEndc o).mark (here (.endc h o) s) (judged h s) = false := rfl
  have hg : (semEndc o).gates (here (.endc h o) s) (judged h s) = false := rfl
  have hi := issueOne_ends (i := .endc h o) (m := semEndc o) rfl hf hc hp hh (fun _ => rfl) hk hg rfl
  have hgo : (semEndc o).goes (here (.endc h o) s) ((semEndc o).eff (here (.endc h o) s) (issuing (.endc h o) false s)) = some (pcOf s) := rfl
  rw [hgo] at hi
  refine hi.trans (issued_congr_fin ?_)
  rw [fin_semEndc, here_core, here_slot]

theorem issueOne_ctxout (hs : (found h s).sup = true) (hin : inboundOf s s.cur.1 s.cur.2 = 0) : issueOne (.ctxout h o) (semCtxout o) s =
    issued (.ctxout h o) false s id none
      (fun t => ctxoutRelease (t.updCtx s.cur.1 s.cur.2 (fun c => { c with wait := .ctxout })) s.cur.1 s.cur.2) := by
  have hc : (semCtxout o).chk (here (.ctxout h o) s) (judged h s) = none := by
    show onlySup 0x104 _ = none
    rw [here_ctx, ctx_judged, onlySup, hs]
    rfl
  have hops : inboundOf (judged h s) s.cur.1 s.cur.2 = inboundOf s s.cur.1 s.cur.2 := by
    simp [inboundOf, judged, setHand, State.setCtx, Core.setSlot]
  have hh : (semCtxout o).hold (here (.ctxout h o) s) (judged h s) = false := by
    show (inboundOf (judged h s) s.cur.1 s.cur.2 != 0) = false
    rw [hops, hin]
    rfl
  exact issueOne_ends (i := .ctxout h o) (m := semCtxout o) rfl hf hc rfl hh (fun _ => rfl) rfl rfl rfl

end

/-- Settles O21: an inbound operation keeps the context in Ending, and any operation one in `ctxout`. -/
theorem endAndOut : Obligations.EndAndOut := by
  unfold Obligations.EndAndOut
  intro h o s hf op
  have hops (i : Instr) (g : Option Nat) : ((ending i false s id g).core s.cur.1).ops = (s.core s.cur.1).ops :=
    (ops_updCtx _ _ _ _).trans (ops_issuing _ _ _)
  refine ⟨fun hs hw ⟨e, he, hslot, hinb⟩ => ⟨_, congrArg Host.Outcome.next (issueOne_endc (o := o) hf hs hw), ?endc⟩,
    fun hs hin ⟨e, he, hslot, _⟩ => ⟨_, congrArg Host.Outcome.next (issueOne_ctxout (o := o) hf hs hin), ?ctxout⟩⟩
  case endc =>
    have hwait : ((ending (.endc h o) false s id (some (pcOf s))).ctx s.cur.1 s.cur.2).wait = .none := by
      rw [proj_ending Ctx.wait (fun _ => rfl), id, ctx_issuing]
      exact wait_atIssue (i := .endc h o) hf false
    have hany : ((ending (.endc h o) false s id (some (pcOf s))).core s.cur.1).ops.any (fun o => o.slot == s.cur.2 && o.inb) = true := by
      rw [hops]
      exact List.any_eq_true.mpr ⟨e, he, by simp [hslot, hinb]⟩
    obtain ⟨hcur, hctx⟩ := endContext_waits hwait hany
    obtain ⟨v, hv⟩ : ∃ v, endContext (ending (.endc h o) false s id (some (pcOf s))) s.cur.1 s.cur.2 = v := ⟨_, rfl⟩
    have hcur0 : (ending (.endc h o) false s id (some (pcOf s))).cur = s.cur := cur_ending_id
    rw [hv, hcur0] at hcur
    rw [hv] at hctx
    rw [ctx_ending, id, ctx_issuing] at hctx
    have hmoved := Ctx.of_stand (pc_movedOn_some ((sup_atIssue (.endc h o) false s).trans hs) (pcOf s) (pcOf s))
    have hstand := stand_hand_issued (i := .endc h o) (al := false) (s := s) (eff := id) (g := some (pcOf s))
      (fin := fun t => endContext t s.cur.1 s.cur.2) hv hcur
    rw [hctx, stand_endsHere, hmoved.2.2] at hstand
    obtain ⟨-, hst, hpc⟩ := Ctx.of_stand hstand
    have hfix := fixOpen_hand_issued (i := .endc h o) (al := false) (s := s) (eff := id) (g := some (pcOf s))
      (fin := fun t => endContext t s.cur.1 s.cur.2) hv hcur
    rw [hctx, fixOpen_endsHere] at hfix
    exact ⟨hst, hpc, hfix⟩
  case ctxout =>
    have hany : (((ending (.ctxout h o) false s id none).updCtx s.cur.1 s.cur.2 (fun c => { c with wait := .ctxout })).core s.cur.1).ops.any
        (fun o => o.slot == s.cur.2) = true := by
      rw [ops_updCtx, hops]
      exact List.any_eq_true.mpr ⟨e, he, by simp [hslot]⟩
    have hcur : ((ending (.ctxout h o) false s id none).updCtx s.cur.1 s.cur.2 (fun c => { c with wait := .ctxout })).cur = s.cur := by
      rw [State.updCtx_cur, cur_ending_id]
    have hctx := State.ctx_updCtx (ending (.ctxout h o) false s id none) s.cur.1 s.cur.2 (fun c => { c with wait := .ctxout })
    have hv := ctxoutRelease_waits (.inr hany)
    obtain ⟨v, hvv⟩ : ∃ v, (ending (.ctxout h o) false s id none).updCtx s.cur.1 s.cur.2 (fun c => { c with wait := .ctxout }) = v := ⟨_, rfl⟩
    rw [hvv] at hcur hctx
    refine (proj_issued_fin (fin := fun t => ctxoutRelease (t.updCtx s.cur.1 s.cur.2 (fun c => { c with wait := .ctxout })) s.cur.1 s.cur.2)
      (hv.trans hvv) hcur Ctx.wait (fun _ => rfl)).trans ?_
    rw [hctx]

end Sys2Proof.Machine

/-! ## A trap entry of a context that has stopped (R50, R357) -/

namespace Sys2Proof.Machine
set_option Elab.async false

/-- A fault pending of a context's own bundle. -/
def staleFault : PendFault :=
  { code := 0x41, async := false, sup := false, tval := 0, tinst := 0, slot := 0, k := 0, seq := 0, id := 0, tag := 0 }

/-- A Ready context that waits for the end of its team (R357), with a fault pending. -/
def stoppedCtx : Ctx := { st := .ready, wait := .stopped, faults := [staleFault] }

/-- A running team without a range, of task 0. -/
def plainTeam : Team :=
  { task := 0, st := .running, x0 := 0, y0 := 0, variant := 0, oid := 1, prio := 0, rangeE := none, launched := 0, outAt := 0, kept := [],
    bars := [], ringTail := 0, failed := none, extbase := 0 }

/-- That context alone, in that team, of a partition without supervisor code. -/
def stoppedState : State := { State.reset with teams := [(0, some plainTeam)] }.setCtx 0 0 stoppedCtx

theorem ctx_stoppedState : stoppedState.ctx 0 0 = stoppedCtx := State.ctx_setCtx ..

/-- No trap of a stopped context is due, so that its entry does nothing. -/
theorem enterTrap_stopped : enterTrap stoppedState 0 0 = stoppedState := by
  simp [enterTrap, ctx_stoppedState, trapDue, stoppedCtx]

/-- Refutes O40: the entry of a context that has stopped with its failing team does not take its fault, since no trap of it is
due, and a team that has not failed yet stays as it is. -/
theorem not_trapEntryVectors : ¬ Obligations.TrapEntryVectors := by
  unfold Obligations.TrapEntryVectors
  intro h
  obtain ⟨hready, -⟩ := h stoppedState 0 0
  rw [ctx_stoppedState] at hready
  obtain ⟨hfault, -⟩ := hready rfl rfl rfl rfl
  obtain ⟨t, ht, -, hteam⟩ := (hfault staleFault rfl (.inr rfl)).2 rfl
  have hexec : exec (.trapEntry 0 0) stoppedState = .next stoppedState := congrArg Host.Outcome.next enterTrap_stopped
  rw [hexec] at ht
  obtain rfl : stoppedState = t := Host.Outcome.next.inj ht
  have hfailed := hteam plainTeam rfl rfl
  exact absurd hfailed (by decide)

end Sys2Proof.Machine

/-! ## Answers, landings and ends of windows (R112, R262, R308) -/

namespace Sys2Proof.Machine
set_option Elab.async false

/-! ### What waits for an operation of its context -/

section
variable {s : State} {core slot : Nat}

/-- Where nothing that the context waits for lets it go, the end of an operation leaves all contexts (R48, R54). -/
theorem afterOp_stays (h : stays (s.ctx core slot) = true) : afterOp s core slot = noteEnding s (s.ctx core slot).team := by
  simp only [stays, Bool.and_eq_true, bne_iff_ne] at h
  obtain ⟨⟨hending, hended⟩, hout⟩ := h
  obtain ⟨hcores, -⟩ := cores_noteEnding (s := s) (s.ctx core slot).team
  have hctx : (noteEnding s (s.ctx core slot).team).ctx core slot = s.ctx core slot := by
    rw [State.ctx, State.core, hcores]
    rfl
  have hrel : endingRelease s core slot = s := by simp [endingRelease, hending]
  unfold afterOp
  rw [if_neg hout]
  dsimp only
  rw [hrel, outWithEnded_waits hended, ctxoutRelease_waits (.inl (by rw [hctx]; exact hout))]

theorem mem_noteEnding (t : Nat) : (noteEnding s t).mem = s.mem := by
  unfold noteEnding
  split <;> rfl

theorem ctx_noteEnding (t core slot : Nat) : (noteEnding s t).ctx core slot = s.ctx core slot := by
  rw [State.ctx, State.core, (cores_noteEnding t).1]
  rfl

end

/-! ### Answers -/

/-- The load of a pattern entry that has met a fault, made by own issue 1. -/
def failedPatternLoad : Acc :=
  { id := 0, dst := .pat 0, val := 0, minLat := 12, seq := 1, tag := 0, waddr := 0, off := 0, leaves := true, pcie := false, width := 8, sgn := false,
    fault := some 0x41, sl := 0, k := 0, sup := false }

/-- A Ready context that waits for the answer to that load. -/
def patternState : State := State.reset.setCtx 0 0 { st := .ready, accs := [failedPatternLoad] }

/-- The answer leaves its entry invalid, as written by that issue (R237). -/
theorem lastw_respond_pattern : ((respond patternState 0 0 failedPatternLoad).ctx 0 0).a.lastw.get (Dst.pat 0).key 0 = 1 := by
  rw [respond, State.ctx_updCtx, patternState, State.ctx_setCtx]
  rfl

/-- Refutes O44: the fault of a pattern load writes its entry as invalid, and notes with it which issue has written the entry
last, so that the registers' bookkeeping is not as it was. -/
theorem not_accessAnswers : ¬ Obligations.AccessAnswers := by
  unfold Obligations.AccessAnswers
  intro h
  have hctx : patternState.ctx 0 0 = { st := .ready, accs := [failedPatternLoad] } := State.ctx_setCtx ..
  obtain ⟨hresponse, -⟩ := h patternState 0 0 0 failedPatternLoad (by rw [hctx]; rfl) (by rw [hctx]; rfl)
  obtain ⟨t, ht, -, ha, -⟩ := hresponse rfl rfl
  have hstays : stays ((respond patternState 0 0 failedPatternLoad).ctx 0 0) = true := by
    rw [respond, State.ctx_updCtx, hctx]
    rfl
  have hexec : exec (.scalarAccessResponse 0 0 0) patternState = .next (afterOp (respond patternState 0 0 failedPatternLoad) 0 0) := by
    show execScalarAccessResponse 0 0 0 patternState = _
    rw [execScalarAccessResponse, hctx]
    rfl
  rw [hexec] at ht
  rw [← Host.Outcome.next.inj ht, afterOp_stays hstays, ctx_noteEnding] at ha
  have hlast := lastw_respond_pattern
  rw [ha, hctx] at hlast
  exact absurd hlast (by decide)

end Sys2Proof.Machine

/-! ## What an access leaves of the machine beside caches, memory and logs -/

namespace Sys2Proof.Machine
set_option Elab.async false

/-! ### Events -/

/-- An entry to a queue adds to what is sent, and changes the queue. -/
theorem evWrite_eq (s : State) (fn : Fn) (q : EvQ) (e : Nat) : ∃ l, (evWrite s fn q e).1 = { s with out := s.out ++ l } := by
  unfold evWrite
  dsimp only
  split
  · exact ⟨_, congrArg (fun o => { s with out := o }) (List.append_assoc ..)⟩
  · exact ⟨_, rfl⟩

theorem evPost_eq (s : State) (fn : Fn) (q : EvQ) (e : Nat) : ∃ l, (evPost s fn q e).1 = { s with out := s.out ++ l } := by
  have hnone : s = { s with out := s.out ++ [] } := by rw [List.append_nil]
  unfold evPost
  dsimp only
  split
  · exact ⟨[], hnone⟩
  split
  · exact ⟨[], hnone⟩
  split
  · exact evWrite_eq ..
  obtain ⟨l, hl⟩ := evWrite_eq s fn { q with dropped := 0 } (evEntry 0x77 0x3F 0x1FF 0 s.now 0 q.dropped)
  split
  · exact ⟨l, hl⟩
  · obtain ⟨r, hr⟩ := evWrite_eq (evWrite s fn { q with dropped := 0 } (evEntry 0x77 0x3F 0x1FF 0 s.now 0 q.dropped)).1 fn
      (evWrite s fn { q with dropped := 0 } (evEntry 0x77 0x3F 0x1FF 0 s.now 0 q.dropped)).2 e
    rw [hl] at hr
    exact ⟨l ++ r, by rw [hl, hr, List.append_assoc]⟩

theorem evDrain_eq (s : State) (fn : Fn) (q : EvQ) : ∃ l, (evDrain s fn q).1 = { s with out := s.out ++ l } := by
  unfold evDrain
  split
  · exact evWrite_eq ..
  · exact ⟨[], by rw [List.append_nil]⟩

/-- An event to the package adds to what is sent, and changes the package's queue. -/
theorem postF_eq (s : State) (code island core die handle arg : Nat) :
    ∃ l q, s.postF code island core die handle arg = { s with out := s.out ++ l, evq := q } := by
  obtain ⟨l, hl⟩ := evPost_eq s .pf s.evq (evEntry code island core die s.now handle arg)
  exact ⟨l, _, congrArg (fun t : State => { t with evq := (evPost s .pf s.evq (evEntry code island core die s.now handle arg)).2 }) hl⟩

/-- An event to a partition adds to what is sent, and changes that partition's queue. -/
theorem postE_eq (s : State) (p code island core die handle arg : Nat) :
    ∃ l q, s.postE p code island core die handle arg = { s.updPart p (fun x => { x with evq := q }) with out := s.out ++ l } := by
  obtain ⟨l, hl⟩ := evPost_eq s (.vf p) (s.part p).evq (evEntry code island core die s.now handle arg)
  exact ⟨l, (evPost s (.vf p) (s.part p).evq (evEntry code island core die s.now handle arg)).2,
    congrArg (fun t : State => t.updPart p (fun x => { x with evq := (evPost s (.vf p) (s.part p).evq (evEntry code island core die s.now handle arg)).2 })) hl⟩

/-! ### The machine around an access -/

/-- The machine without what accesses to memory change: cores, dies, bytes and their records, page counters, meters, links,
queues of events and what is sent. -/
def State.rest (s : State) : State :=
  { s with cores := [], dies := [], mem := [], l2Old := [], l1Old := [], objs := [], islands := [], parts := [], epl := [], out := [], evq := {}, fresh := 0 }

/-- A partition without its event queue. -/
def Part.unposted (x : Part) : Part := { x with evq := {} }

/-- The rest of the machine is as it was, partitions but for their event queues, and what was sent is sent. -/
structure Around (s t : State) : Prop where
  rest : t.rest = s.rest
  part : ∀ p, (t.part p).unposted = (s.part p).unposted
  out : ∃ l, t.out = s.out ++ l

namespace Around

theorem refl (s : State) : Around s s := ⟨rfl, fun _ => rfl, [], (List.append_nil _).symm⟩

theorem trans {s t u : State} (h : Around s t) (k : Around t u) : Around s u := by
  obtain ⟨l, hl⟩ := h.out
  obtain ⟨r, hr⟩ := k.out
  exact ⟨k.rest.trans h.rest, fun p => (k.part p).trans (h.part p), l ++ r, by rw [hr, hl, List.append_assoc]⟩

theorem plain {s t : State} (hr : t.rest = s.rest) (hp : t.parts = s.parts) (ho : t.out = s.out) : Around s t :=
  ⟨hr, fun p => by rw [State.part, hp]; rfl, [], by rw [ho, List.append_nil]⟩

theorem ite {p : Prop} [Decidable p] {s t u : State} (h : Around s t) (k : Around s u) : Around s (if p then t else u) := by
  split
  · exact h
  · exact k

theorem foldl_on {β σ : Type} (m : σ → State) (f : σ → β → σ) (hf : ∀ x b, Around (m x) (m (f x b))) (l : List β) (x : σ) :
    Around (m x) (m (l.foldl f x)) := by
  induction l generalizing x with
  | nil => exact .refl _
  | cons b r ih => exact (hf x b).trans (ih _)

theorem foldl {β : Type} (f : State → β → State) (hf : ∀ s b, Around s (f s b)) (l : List β) (s : State) : Around s (l.foldl f s) :=
  .foldl_on id f hf l s

theorem updCore (s : State) (c : Nat) (f : Core → Core) : Around s (s.updCore c f) := .plain rfl rfl rfl

theorem updCtx (s : State) (c i : Nat) (f : Ctx → Ctx) : Around s (s.updCtx c i f) := .plain rfl rfl rfl

theorem setCtx (s : State) (c i : Nat) (v : Ctx) : Around s (s.setCtx c i v) := .plain rfl rfl rfl

theorem updDie (s : State) (d : Nat) (f : Die → Die) : Around s (s.updDie d f) := .plain rfl rfl rfl

theorem updIsland (s : State) (i : Nat) (f : Island → Island) : Around s (s.updIsland i f) := .plain rfl rfl rfl

theorem draw (s : State) : Around s s.draw := .plain rfl rfl rfl

theorem send (s : State) (o : Out) : Around s (s.send o) := ⟨rfl, fun _ => rfl, [o], rfl⟩

theorem postF (s : State) (code island core die handle arg : Nat) : Around s (s.postF code island core die handle arg) := by
  obtain ⟨l, q, h⟩ := postF_eq s code island core die handle arg
  rw [h]
  exact ⟨rfl, fun _ => rfl, l, rfl⟩

theorem postE (s : State) (p code island core die handle arg : Nat) : Around s (s.postE p code island core die handle arg) := by
  obtain ⟨l, q, h⟩ := postE_eq s p code island core die handle arg
  rw [h]
  refine ⟨rfl, fun n => ?_, l, rfl⟩
  show Part.unposted ((s.parts.set p { s.part p with evq := q } {}).get n {}) = _
  by_cases hn : n = p
  · subst hn
    rw [Tab.get_set_same]
    rfl
  · rw [Tab.get_set_other _ _ _ _ _ _ hn]
    rfl

theorem logErr (s : State) (die code : Nat) (corr : Bool) (store : Nat) (part core : Option Nat) (addr : Nat) :
    Around s (s.logErr die code corr store part core addr) := by
  unfold State.logErr
  dsimp only
  split
  · split
    · exact .updDie ..
    · exact .refl s
  split
  · exact .updDie ..
  split
  · exact .updDie ..
  split
  · exact .refl s
  · exact (Around.updDie s die _).trans (.postF ..)

theorem uncorr (s : State) (die store addr part core arg : Nat) : Around s (s.uncorr die store addr part core arg) :=
  (Around.logErr ..).trans (.postE ..)

end Around

end Sys2Proof.Machine

/-! ## Words that move among caches: what a request leaves of cores and contexts (R73 to R82) -/

namespace Sys2Proof.Machine
set_option Elab.async false

/-- A core without its caches, the words that fail there, and its contexts. -/
def Core.bare (k : Core) : Core := { k with l1 := [], victim := [], foot := [], l1Bad := [], ctx := [] }

/-- Only caches of cores change, the joule counters of contexts, and what is around no access. -/
structure MovesWords (s t : State) : Prop where
  around : Around s t
  meters : OnlyMeters s t
  core : ∀ c, (t.core c).bare = (s.core c).bare

namespace MovesWords

theorem refl (s : State) : MovesWords s s := ⟨.refl s, .refl s, fun _ => rfl⟩

theorem trans {s t u : State} (h : MovesWords s t) (k : MovesWords t u) : MovesWords s u :=
  ⟨h.around.trans k.around, h.meters.trans k.meters, fun c => (k.core c).trans (h.core c)⟩

theorem congr {s t : State} (hc : t.cores = s.cores) (hu : t.cur = s.cur) (ha : Around s t := by exact .plain rfl rfl rfl) : MovesWords s t :=
  ⟨ha, .congr hc hu, fun c => by simp only [State.core, hc]⟩

theorem ite {p : Prop} [Decidable p] {s t u : State} (h : MovesWords s t) (k : MovesWords s u) :
    MovesWords s (if p then t else u) := by
  split
  · exact h
  · exact k

theorem foldl {β : Type} (f : State → β → State) (hf : ∀ s b, MovesWords s (f s b)) (l : List β) (s : State) :
    MovesWords s (l.foldl f s) := by
  induction l generalizing s with
  | nil => exact .refl s
  | cons b r ih => exact (hf s b).trans (ih _)

theorem updCore (s : State) (c : Nat) (f : Core → Core) (hx : ∀ k, (f k).ctx = k.ctx := by intros; rfl)
    (hf : ∀ k, (f k).bare = k.bare := by intros; rfl) : MovesWords s (s.updCore c f) := by
  refine ⟨.updCore s c f, .updCore s c f hx, fun d => ?_⟩
  by_cases hd : d = c
  · subst hd; rw [State.core_updCore, hf]
  · rw [State.core_updCore_other _ _ _ _ hd]

theorem meterCtx (s : State) (core slot n : Nat) : MovesWords s (meterCtx s core slot n) := by
  refine ⟨.updCtx .., OnlyMeters.meterCtx s core slot n, fun d => ?_⟩
  by_cases hd : d = core
  · subst hd; rw [Machine.meterCtx, State.core_updCtx]; rfl
  · rw [Machine.meterCtx, State.updCtx, State.setCtx, State.core_updCore_other _ _ _ _ hd]

theorem meterFor (s : State) (core slot team n : Nat) : MovesWords s (meterFor s core slot team n) :=
  (MovesWords.ite (MovesWords.meterCtx s core slot n) (.refl s)).trans (.congr rfl rfl)

theorem meterDram (s : State) (core slot n : Nat) : MovesWords s (meterDram s core slot n) :=
  (MovesWords.meterCtx s core slot n).trans (.congr rfl rfl)

theorem updDie (s : State) (d : Nat) (f : Die → Die) : MovesWords s (s.updDie d f) := .congr rfl rfl

theorem setTimes (s : State) (die w : Nat) (v : Nat × Nat × Nat) : MovesWords s (s.setTimes die w v) := .updDie _ _ _

theorem postE (s : State) (p code island core die handle arg : Nat) : MovesWords s (s.postE p code island core die handle arg) :=
  .congr (postE_mem ..).2.1 (postE_mem ..).2.2 (.postE ..)

theorem postF (s : State) (code island core die handle arg : Nat) : MovesWords s (s.postF code island core die handle arg) :=
  .congr (postF_mem ..).2.1 (postF_mem ..).2.2 (.postF ..)

theorem logErr (s : State) (die code : Nat) (corr : Bool) (store : Nat) (part core : Option Nat) (addr : Nat) :
    MovesWords s (s.logErr die code corr store part core addr) := .congr (logErr_mem ..).2.1 (logErr_mem ..).2.2 (.logErr ..)

/-! ### L2 and the home -/

theorem l2Clean (s : State) (die : Nat) (b : Block) : MovesWords s (l2Clean s die b) := by
  unfold Machine.l2Clean
  dsimp only
  split
  · exact .refl s
  split
  · exact .congr rfl rfl
  · refine MovesWords.trans ?_ (MovesWords.meterFor _ _ _ _ _)
    exact MovesWords.congr rfl rfl

theorem l2Put (s : State) (die : Nat) (b : Block) : MovesWords s (l2Put s die b) :=
  (MovesWords.updDie s _ _).trans (.foldl _ (fun s x => MovesWords.l2Clean s die x) _ _)

theorem l2Use (s : State) (die frame a b : Nat) : MovesWords s (l2Use s die frame a b).1 := by
  unfold Machine.l2Use
  dsimp only
  split
  · exact .congr rfl rfl
  · exact MovesWords.l2Put _ _ _

theorem noteL2 (s : State) (die w : Nat) : MovesWords s (noteL2 s die w) := .ite (.congr rfl rfl) (.refl s)

theorem noteL1 (s : State) (die w : Nat) : MovesWords s (noteL1 s die w) := .ite (.congr rfl rfl) (.refl s)

theorem l2Dirty (s : State) (die w : Nat) (who : Option (Nat × Nat × Nat)) : MovesWords s (l2Dirty s die w who) :=
  (MovesWords.noteL2 _ _ _).trans (MovesWords.l2Put _ _ _)

theorem countFill (s : State) (part oid page reqDie : Nat) : MovesWords s (countFill s part oid page reqDie) := by
  unfold Machine.countFill
  split
  · exact .refl s
  dsimp only
  refine .ite (.refl s) (.ite (.congr rfl rfl) (.ite (.congr rfl rfl) (.ite (.congr rfl rfl) ?_)))
  exact ((MovesWords.congr rfl rfl : MovesWords s (s.setObj oid _)).trans (.updDie _ _ _)).trans (.postF _ _ _ _ _ _ _)

theorem l2Touch (s : State) (core slot oid page die frame a b : Nat) :
    MovesWords s (l2Touch s core slot oid page die frame a b) := by
  unfold Machine.l2Touch
  dsimp only
  split
  · exact MovesWords.l2Use _ _ _ _ _
  · exact (MovesWords.l2Use _ _ _ _ _).trans ((MovesWords.meterDram _ _ _ _).trans (.countFill _ _ _ _ _))

theorem touchRuns (s : State) (core slot oid page die frame : Nat) (is : List Nat) :
    MovesWords s (touchRuns s core slot oid page die frame is) :=
  .foldl _ (fun s _ => MovesWords.l2Touch s _ _ _ _ _ _ _ _) _ _

/-! ### Blocks that leave a core -/

theorem spoilHome (s : State) (core part die w : Nat) : MovesWords s (spoilHome s core part die w) :=
  (MovesWords.updCore s _ _).trans (((MovesWords.updDie _ _ _).trans (.updDie _ _ _)).trans ((MovesWords.logErr _ _ _ _ _ _ _ _).trans (.postE _ _ _ _ _ _ _ _)))

theorem settleOld (s : State) (core : Nat) (b : Block) (w : Nat) : MovesWords s (settleOld s core b w) := by
  unfold Machine.settleOld
  dsimp only
  split <;> exact .congr rfl rfl

theorem writeHome (s : State) (core : Nat) (b : Block) : MovesWords s (writeHome s core b) :=
  .ite (.refl s) ((MovesWords.foldl _ (fun s w => .settleOld s core b w) _ _).trans
    ((MovesWords.ite (.refl _) (.updDie _ _ _)).trans
      ((MovesWords.foldl _ (fun s w => .ite (.spoilHome s core b.part b.die w) (.refl s)) _ _).trans (.l2Put _ _ _))))

theorem giveBack (s : State) (b : Block) (h : Nat) : MovesWords s (giveBack s b h) :=
  .ite (.foldl _ (fun s _ => .setTimes s _ _ _) _ _) (.refl s)

theorem freeHolder (s : State) (core : Nat) (b : Block) : MovesWords s (freeHolder s core b) :=
  .foldl _ (fun s _ => .ite (.setTimes s _ _ _) (.refl s)) _ _

theorem noteFoot (s : State) (core : Nat) (b : Block) : MovesWords s (noteFoot s core b) := .ite (.refl s) (.updCore _ _ _)

theorem grantOldest (s : State) (core : Nat) : MovesWords s (grantOldest s core) := by
  unfold Machine.grantOldest
  split
  · exact .refl s
  · exact (MovesWords.updCore s _ _).trans ((MovesWords.freeHolder _ _ _).trans (MovesWords.writeHome _ _ _))

theorem toVictim (s : State) (core : Nat) (b : Block) : MovesWords s (toVictim s core b) := by
  unfold Machine.toVictim
  exact (MovesWords.ite (MovesWords.grantOldest s core) (.refl s)).trans (.updCore _ _ _)

theorem evict (s : State) (core : Nat) (b : Block) : MovesWords s (evict s core b) := by
  have h := (MovesWords.giveBack s b (core + 1)).trans (MovesWords.noteFoot _ core b)
  exact .ite h (h.trans (.toVictim _ _ _))

theorem dropL1 (s : State) (core : Nat) (f : Block → Bool) : MovesWords s (dropL1 s core f) :=
  (MovesWords.updCore s _ _).trans (.foldl _ (fun s b => MovesWords.evict s core b) _ _)

theorem recallFrom (s : State) (c die w : Nat) : MovesWords s (recallFrom s c die w) :=
  (MovesWords.updCore s _ _).trans
    ((MovesWords.foldl _ (fun s b => (MovesWords.giveBack s b 0).trans ((MovesWords.noteFoot _ c b).trans (.writeHome _ c b))) _ _).trans
      (.foldl _ (fun s b => (MovesWords.freeHolder s c b).trans (.writeHome _ c b)) _ _))

theorem recallWord (s : State) (die w : Nat) : MovesWords s (recallWord s die w) := .ite (.refl s) (.recallFrom s _ die w)

theorem recallWords (s : State) (die : Nat) (ws : List Nat) : MovesWords s (recallWords s die ws) :=
  .foldl _ (fun s w => .recallWord s die w) _ _

theorem setBlock (s : State) (die : Nat) (b : List Nat) (wt le : Nat) : MovesWords s (setBlock s die b wt le) :=
  .foldl _ (fun s w => .setTimes s die w _) _ _

theorem homeReads (s : State) (die : Nat) (ws : List Nat) (t ext : Nat) : MovesWords s (homeReads s die ws t ext).1 :=
  (MovesWords.recallWords s die ws).trans (.foldl _ (fun s b => .setBlock s die b _ _) _ _)

theorem homeWrites (s : State) (die : Nat) (ws : List Nat) (t : Nat) : MovesWords s (homeWrites s die ws t).1 :=
  (MovesWords.recallWords s die ws).trans (.foldl _ (fun s b => .setBlock s die b _ _) _ _)

theorem homeStore (s : State) (core slot oid page die w t : Nat) : MovesWords s (homeStore s core slot oid page die w t).1 := by
  unfold Machine.homeStore
  dsimp only
  exact (MovesWords.l2Touch s core slot oid page die _ _ _).trans ((MovesWords.homeWrites _ die [w] t).trans (.l2Dirty _ die w _))

/-! ### L1 -/

theorem l1Room (s : State) (core set sets : Nat) : MovesWords s (l1Room s core set sets) :=
  (MovesWords.updCore s _ _).trans (.foldl _ (fun s b => .evict s core b) _ _)

theorem l1Fill (s : State) (core : Nat) (b : Block) : MovesWords s (l1Fill s core b) := by
  unfold Machine.l1Fill
  dsimp only
  refine MovesWords.trans ?_ (.l1Room _ _ _ _)
  exact .ite ((MovesWords.updCore _ _ _).trans (.foldl _ (fun s w => .setTimes s _ _ _) _ _)) (.updCore _ _ _)

theorem l1Hit (s : State) (core : Nat) (b b' : Block) : MovesWords s (l1Hit s core b b') := .updCore s core _

theorem l1Miss (s : State) (core slot oid page die frame i t : Nat) (wr : Bool) (ty hint : Nat) :
    MovesWords s (l1Miss s core slot oid page die frame i t wr ty hint).1 := by
  have hu (f : Block → Bool) (is : List Nat) : MovesWords s (Machine.touchRuns (Machine.dropL1 s core f) core slot oid page die frame is) :=
    (MovesWords.dropL1 s core f).trans (.touchRuns _ core slot oid page die frame is)
  have hhome (u : State) (ws vs : List Nat) : MovesWords u (if wr = false then Machine.homeReads u die ws t 16 else if ty = 0 then Machine.homeWrites u die ws t
      else ((Machine.homeReads (Machine.homeStore u core slot oid page die (16 * frame + i) t).1 die vs
        (Machine.homeStore u core slot oid page die (16 * frame + i) t).2 16).1, (Machine.homeStore u core slot oid page die (16 * frame + i) t).2)).1 := by
    split
    · exact .homeReads u die _ t 16
    split
    · exact .homeWrites u die _ t
    · exact (MovesWords.homeStore u core slot oid page die _ t).trans (.homeReads _ die _ _ 16)
  unfold Machine.l1Miss
  dsimp only
  refine MovesWords.trans ?_ (.l1Fill _ core _)
  split
  · exact ((hu _ _).trans (hhome _ _ _)).trans (.noteL1 _ _ _)
  · exact (hu _ _).trans (hhome _ _ _)

theorem renew (s : State) (core slot oid page : Nat) (b : Block) (i t : Nat) : MovesWords s (renew s core slot oid page b i t).1 := by
  unfold Machine.renew
  dsimp only
  exact (MovesWords.homeReads s b.die b.words t 16).trans ((MovesWords.ite (.refl _) (.l2Touch _ _ _ _ _ _ _ _ _)).trans (.l1Hit _ core b _))

theorem request (s : State) (core slot oid page die pa t : Nat) (wr : Bool) (ty hint : Nat) :
    MovesWords s (request s core slot oid page die pa t wr ty hint).1 := by
  have hmiss (ty : Nat) : MovesWords s (Machine.l1Miss s core slot oid page die (pa / 512) (pa / 32 % 16) t wr ty hint).1 := .l1Miss ..
  unfold Machine.request
  dsimp only
  generalize (if (s.core core).l1size = 0 then 3 else ty) = ty
  split
  · split
    · exact .homeStore ..
    · exact (MovesWords.l2Touch s core slot oid page die _ _ _).trans (.homeReads _ die [pa / 32] t 0)
  split
  next b _ =>
    split
    · split
      · exact (MovesWords.noteL1 s die _).trans (.l1Hit ..)
      · exact .l1Hit ..
    split
    · exact hmiss _
    split
    · exact (MovesWords.homeStore s core slot oid page die _ _).trans (.l1Hit ..)
    split
    · exact .l1Hit ..
    · exact .renew ..
  next => exact hmiss _

theorem writeThrough (s : State) (core die pa t : Nat) : MovesWords s (writeThrough s core die pa t) :=
  .ite (.updCore s core _) (.refl s)

/-! ### Range flushes -/

theorem flushL1 (s : State) (c : Nat) (f : Block → Bool) (drop : Bool) : MovesWords s (flushL1 s c f drop) :=
  .ite (.ite (.dropL1 _ _ _) ((MovesWords.updCore s _ _).trans (.foldl _ (fun s b => .toVictim s c b) _ _))) (.refl s)

theorem flushVictim (s : State) (c : Nat) (f : Block → Bool) : MovesWords s (flushVictim s c f) :=
  .ite ((MovesWords.updCore s _ _).trans (.foldl _ (fun s b => (MovesWords.freeHolder s c b).trans (.writeHome _ c b)) _ _)) (.refl s)

theorem flushRange (s : State) (die pa n : Nat) (drop : Bool) : MovesWords s (flushRange s die pa n drop) := by
  have h := MovesWords.foldl (fun s c => Machine.flushVictim (Machine.flushL1 s c (Block.within die pa n) drop) c (Block.within die pa n))
    (fun s c => (MovesWords.flushL1 s c _ drop).trans (.flushVictim _ c _)) (List.range 256) s
  unfold Machine.flushRange
  dsimp only
  generalize List.foldl _ s (List.range 256) = t at h ⊢
  exact h.trans ((MovesWords.foldl _ (fun s b => .l2Clean s die b) _ t).trans (.updDie _ _ _))

end MovesWords

/-- What of a context does not speak of its joule counter stays. -/
theorem OnlyMeters.keeps {α : Type} {g : Ctx → α} {s t : State} (h : OnlyMeters s t)
    (hg : ∀ c : Ctx, g c.unmetered = g c := by intros; rfl) : KeepsCtx g s t :=
  ⟨h.cur, fun c i => by rw [← hg, h.ctx, hg]⟩

end Sys2Proof.Machine

/-! ## Numbers as bytes, and events that go out (R7, R354) -/

namespace Sys2Proof.Machine
set_option Elab.async false

@[simp] theorem length_toBytes (n x : Nat) : (toBytes n x).length = n := by
  induction n generalizing x with
  | zero => rfl
  | succ n ih => rw [toBytes, List.length_cons, ih]

theorem ofBytes_toBytes (n x : Nat) : ofBytes (toBytes n x) = x % 2 ^ (8 * n) := by
  induction n generalizing x with
  | zero => rw [toBytes, ofBytes, Nat.mul_zero, pow_zero, Nat.mod_one]
  | succ n ih =>
    rw [toBytes, ofBytes, ih, BitVec.toNat_ofNat, show 2 ^ (8 * (n + 1)) = 256 * 2 ^ (8 * n) by ring, Nat.mod_mul]

theorem ofBytes_lt (l : List Byte) : ofBytes l < 2 ^ (8 * l.length) := by
  induction l with
  | nil => exact Nat.one_pos
  | cons b r ih =>
    have hb : b.toNat < 256 := b.isLt
    rw [ofBytes, List.length_cons, show 2 ^ (8 * (r.length + 1)) = 256 * 2 ^ (8 * r.length) by ring]
    omega

theorem toBytes_head (n x : Nat) (hn : 0 < n) : ((toBytes n x).getD 0 0).toNat = x % 256 := by
  obtain ⟨n, rfl⟩ := Nat.exists_eq_succ_of_ne_zero hn.ne'
  rw [toBytes, List.getD_cons_zero, BitVec.toNat_ofNat]

/-! ### Events -/

/-- With room and nothing lost, a post writes its entry first of all. -/
theorem evPost_room (s : State) (fn : Fn) (q : EvQ) (e : Nat) (hr : evRoom s q = true) (hd : q.dropped = 0) :
    evPost s fn q e = evWrite s fn q e := by
  have hon : ringOn q.cfg ≠ false := fun h => by rw [evRoom, h, Bool.and_false, Bool.false_and] at hr; exact Bool.noConfusion hr
  rw [evPost, if_neg hon, if_neg (by rw [hr]; exact Bool.noConfusion), if_pos hd]

theorem evWrite_out (s : State) (fn : Fn) (q : EvQ) (e : Nat) :
    ∃ a ph r, (evWrite s fn q e).1.out = s.out ++ .pcieWrite fn a (toBytes 32 (e + ph * 2 ^ 63)) :: r := by
  unfold evWrite
  dsimp only
  split
  · exact ⟨_, _, _, List.append_assoc ..⟩
  · exact ⟨_, _, [], rfl⟩

theorem evWrite_written (s : State) (fn : Fn) (q : EvQ) (e : Nat) : (evWrite s fn q e).2.written = q.written + 1 := rfl

/-- The first byte of an entry is its event code (R355). -/
theorem evEntry_code {code : Nat} (hc : code < 256) (island core die now handle arg ph : Nat) :
    ((toBytes 32 (evEntry code island core die now handle arg + ph * 2 ^ 63)).getD 0 0).toNat = code := by
  rw [toBytes_head _ _ (by decide), evEntry]
  omega

theorem part_updPart (s : State) (p : Nat) (f : Part → Part) : (s.updPart p f).part p = f (s.part p) := by
  simp [State.updPart, State.part]

theorem postsE_postE (s : State) (p : Nat) {code : Nat} (hc : code < 256) (island core die handle arg : Nat) :
    PostsE s (s.postE p code island core die handle arg) p code := by
  intro hr hd
  obtain ⟨a, ph, r, hout⟩ := evWrite_out s (.vf p) (s.part p).evq (evEntry code island core die s.now handle arg)
  unfold State.postE
  rw [evPost_room s _ _ _ hr hd]
  refine ⟨?_, a, _, r, hout, length_toBytes .., evEntry_code hc ..⟩
  rw [part_updPart]
  rfl

theorem postsF_postF (s : State) {code : Nat} (hc : code < 256) (island core die handle arg : Nat) :
    PostsF s (s.postF code island core die handle arg) code := by
  intro hr hd
  obtain ⟨a, ph, r, hout⟩ := evWrite_out s .pf s.evq (evEntry code island core die s.now handle arg)
  unfold State.postF
  rw [evPost_room s _ _ _ hr hd]
  exact ⟨rfl, a, _, r, hout, length_toBytes .., evEntry_code hc ..⟩

/-- What was posted stays posted while the queue and what was sent stay. -/
theorem PostsE.congr {s t u : State} {p code : Nat} (h : PostsE s t p code) (hq : (u.part p).evq = (t.part p).evq) (ho : u.out = t.out) :
    PostsE s u p code := by
  intro hr hd
  rw [hq, ho]
  exact h hr hd

/-- Where queue, link and output stand as they did, it is the same to post from either state. -/
theorem PostsE.of_same {s t u : State} {p code : Nat} (h : PostsE t u p code) (hq : (t.part p).evq = (s.part p).evq) (hl : t.linkUp = s.linkUp)
    (ho : t.out = s.out) : PostsE s u p code := by
  intro hr hd
  have := h (by rw [evRoom, hl, hq]; exact hr) (by rw [hq]; exact hd)
  rwa [hq, ho] at this

/-! ### States that send alike -/

/-- Two states that have sent the same, at the same time, over the same link. -/
structure SendsAlike (s t : State) : Prop where
  out : s.out = t.out
  linkUp : s.linkUp = t.linkUp
  now : s.now = t.now

theorem SendsAlike.evRoom {s t : State} (h : SendsAlike s t) (q : EvQ) : evRoom s q = evRoom t q := by
  rw [Machine.evRoom, Machine.evRoom, h.linkUp]

theorem SendsAlike.evWrite {s t : State} (h : SendsAlike s t) (fn : Fn) (q : EvQ) (e : Nat) :
    SendsAlike (evWrite s fn q e).1 (evWrite t fn q e).1 ∧ (evWrite s fn q e).2 = (evWrite t fn q e).2 := by
  refine ⟨?_, rfl⟩
  unfold Machine.evWrite
  dsimp only
  split
  · exact ⟨by simp only [State.send, h.out], h.linkUp, h.now⟩
  · exact ⟨by simp only [State.send, h.out], h.linkUp, h.now⟩

theorem SendsAlike.evPost {s t : State} (h : SendsAlike s t) (fn : Fn) (q : EvQ) (e : Nat) :
    SendsAlike (evPost s fn q e).1 (evPost t fn q e).1 := by
  unfold Machine.evPost
  rw [h.evRoom]
  split
  · exact h
  split
  · exact h
  split
  · exact (h.evWrite fn q e).1
  · obtain ⟨hs, hq⟩ := h.evWrite fn { q with dropped := 0 } (evEntry 0x77 0x3F 0x1FF 0 s.now 0 q.dropped)
    rw [← h.now]
    dsimp only
    rw [← hq, hs.evRoom]
    split
    · exact hs
    · exact (hs.evWrite fn _ e).1

theorem SendsAlike.postE {s t : State} (h : SendsAlike s t) (p : Nat) (hq : (s.part p).evq = (t.part p).evq) (code island core die handle arg : Nat) :
    (s.postE p code island core die handle arg).out = (t.postE p code island core die handle arg).out := by
  unfold State.postE
  rw [hq, h.now]
  exact (h.evPost ..).out

end Sys2Proof.Machine

/-! ## Scalar accesses: their turn, their bytes and their answers (R166 to R172) -/

namespace Sys2Proof.Machine
set_option Elab.async false

/-! ### Bytes at a place -/

theorem mem_writeDev (s : State) (d pa : Nat) (b : List Byte) : (s.writeDev d pa b).mem = writeBytes s.mem (devKey d pa) b := by
  unfold State.writeDev
  dsimp only
  split <;> rfl

theorem sram_writeDev (s : State) (d pa : Nat) (b : List Byte) (c : Nat) : ((s.writeDev d pa b).core c).sram = (s.core c).sram := by
  unfold State.writeDev
  dsimp only
  split <;> rfl

theorem sram_writeSram (s : State) (c a : Nat) (b : List Byte) : ((s.writeSram c a b).core c).sram = writeBytes (s.core c).sram a b := by
  unfold State.writeSram
  dsimp only
  rw [State.core_updCore]

theorem sram_writeSram_other (s : State) {c k : Nat} (h : k ≠ c) (a : Nat) (b : List Byte) :
    ((s.writeSram c a b).core k).sram = (s.core k).sram := by
  unfold State.writeSram
  dsimp only
  rw [State.core_updCore_other _ _ _ _ h]

theorem getAt_congr {s t : State} (hm : t.mem = s.mem) (hs : ∀ c, (t.core c).sram = (s.core c).sram) (pl : Place) (n : Nat) :
    t.getAt pl n = s.getAt pl n := by
  cases pl with
  | sram c a => simp only [State.getAt, State.readSram, hs]
  | dev d pa => simp only [State.getAt, State.readDev, hm]
  | host => rfl

theorem getAt_lt (s : State) (pl : Place) (n : Nat) : s.getAt pl n < 2 ^ (8 * n) := by
  cases pl with
  | sram c a =>
    have h := ofBytes_lt (s.readSram c a n)
    rwa [State.readSram, length_readBytes] at h
  | dev d pa =>
    have h := ofBytes_lt (s.readDev d pa n)
    rwa [State.readDev, length_readBytes] at h
  | host => exact Nat.two_pow_pos _

theorem getAt_putAt (s : State) {pl : Place} (hpl : ∀ a peer, pl ≠ .host a peer) (n v : Nat) :
    (s.putAt pl n v).getAt pl n = v % 2 ^ (8 * n) := by
  have hl (m : List Host.Cell) (a : Nat) : ofBytes (readBytes (writeBytes m a (toBytes n v)) a n) = v % 2 ^ (8 * n) := by
    have h := readBytes_writeBytes m a (toBytes n v)
    rw [length_toBytes] at h
    rw [h, ofBytes_toBytes]
  cases pl with
  | sram c a => rw [State.getAt, State.readSram, State.putAt, sram_writeSram, hl]
  | dev d pa => rw [State.getAt, State.readDev, State.putAt, mem_writeDev, hl]
  | host a peer => exact absurd rfl (hpl a peer)

theorem KeepsOtherBytes.congr {u t v : State} {pl : Place} {n : Nat} (h : KeepsOtherBytes u t pl n) (hm : v.mem = t.mem)
    (hs : ∀ c, (v.core c).sram = (t.core c).sram) : KeepsOtherBytes u v pl n := by
  obtain ⟨hd, hc⟩ := h
  refine ⟨fun d hd' => ?_, fun core b hb => ?_⟩
  · rw [hm]; exact hd d hd'
  · rw [hs]; exact hc core b hb

theorem keepsOtherBytes_putAt (s : State) (pl : Place) (n v : Nat) : KeepsOtherBytes s (s.putAt pl n v) pl n := by
  cases pl with
  | sram c a =>
    refine ⟨fun d _ => rfl, fun core b hb => ?_⟩
    rw [State.putAt]
    by_cases hc : core = c
    · subst hc
      rw [sram_writeSram, get_writeBytes_outside _ _ _ _ (by rw [length_toBytes]; exact hb.resolve_left (absurd rfl))]
    · rw [sram_writeSram_other s hc]
  | dev d pa =>
    refine ⟨fun k hk => ?_, fun core b _ => ?_⟩
    · rw [State.putAt, mem_writeDev, get_writeBytes_outside _ _ _ _ (by rw [length_toBytes]; exact hk)]
    · rw [State.putAt, sram_writeDev]
  | host a peer => exact ⟨fun _ _ => rfl, fun _ _ _ => rfl⟩

theorem Still.throughAt (s : State) (core slot : Nat) (pl : Place) : Still s (throughAt s core slot pl) := by
  cases pl with
  | dev d pa => exact Still.writeThrough s core d pa _
  | sram => exact Still.refl s
  | host => exact Still.refl s

/-! ### Turns of accesses leave what contexts await -/

section
variable {α : Type} {g : Ctx → α}

theorem KeepsCtx.devTouch (hm : ∀ c : Ctx, g c.unmetered = g c) (ht : ∀ (c : Ctx) (t : Nat), g { c with time := t } = g c)
    (s : State) (core slot oid o die pa n : Nat) (wr : Bool) (ty hint : Nat) :
    KeepsCtx g s (devTouch s core slot oid o die pa n wr ty hint) := by
  unfold Machine.devTouch
  have h₁ : KeepsCtx g s (Machine.combineFor s die pa n) := (OnlyMeters.combineFor s die pa n).keeps hm
  generalize Machine.combineFor s die pa n = u at h₁ ⊢
  have h₂ := (MovesWords.request u core slot oid (pageNo u core slot oid o) die pa (u.ctx core slot).time wr ty hint).meters.keeps hm
  dsimp only
  generalize Machine.request u core slot oid (pageNo u core slot oid o) die pa (u.ctx core slot).time wr ty hint = r at h₂ ⊢
  exact (h₁.trans h₂).trans (.updCtx _ _ _ _ fun c => ht c _)

theorem KeepsCtx.touchAt (hm : ∀ c : Ctx, g c.unmetered = g c) (ht : ∀ (c : Ctx) (t : Nat), g { c with time := t } = g c)
    (s : State) (core slot oid o : Nat) (pl : Place) (n : Nat) (wr : Bool) (ty hint : Nat) :
    KeepsCtx g s (touchAt s core slot oid o pl n wr ty hint) := by
  cases pl with
  | sram t a => exact (KeepsCtx.spadTouch s t a n _ wr).trans (.updCtx _ _ _ _ fun c => ht c _)
  | dev d pa => exact .devTouch hm ht ..
  | host => exact .refl s

theorem KeepsCtx.putAt (s : State) (pl : Place) (n v : Nat) : KeepsCtx g s (s.putAt pl n v) := by
  cases pl with
  | sram => exact .writeSram ..
  | dev => exact .writeDev ..
  | host => exact .refl s

theorem KeepsCtx.throughAt (hm : ∀ c : Ctx, g c.unmetered = g c) (s : State) (core slot : Nat) (pl : Place) : KeepsCtx g s (throughAt s core slot pl) := by
  cases pl with
  | dev d pa => exact (MovesWords.writeThrough s core d pa _).meters.keeps hm
  | sram => exact .refl s
  | host => exact .refl s

end

theorem accs_touchAt (s : State) (core slot oid o : Nat) (pl : Place) (n : Nat) (wr : Bool) (ty hint : Nat) :
    KeepsCtx Ctx.accs s (touchAt s core slot oid o pl n wr ty hint) := .touchAt (fun _ => rfl) (fun _ _ => rfl) ..

/-! ### Answers -/

/-- The answer that an access leaves on its way. -/
def answerOf (p : At) (s : State) (d : Dst) (v : BitVec 512) (m : Nat) (x : Word) (leaves : Bool) (fault : Option Nat) : Acc :=
  { id := (s.core p.core).nextId, dst := d, val := v, minLat := m, seq := p.seq, tag := p.tag, waddr := p.waddr, off := x, leaves := leaves,
    pcie := false, width := 0, sgn := false, fault := fault, sl := p.sl, k := p.k, sup := (p.ctx s).sup }

section
variable (p : At) (s : State) (d : Dst) (v : BitVec 512) (m : Nat) (x : Word) (leaves : Bool) (fault : Option Nat)

theorem answer_eq : answer p s d v m x leaves fault = (s.updCore p.core (fun k => { k with nextId := k.nextId + 1 })).updCtx p.core p.slot
    (fun c => { c with accs := c.accs ++ [answerOf p s d v m x leaves fault] }) := rfl

@[simp] theorem mem_answer : (answer p s d v m x leaves fault).mem = s.mem := rfl
@[simp] theorem out_answer : (answer p s d v m x leaves fault).out = s.out := rfl
@[simp] theorem cur_answer : (answer p s d v m x leaves fault).cur = s.cur := rfl

theorem accs_answer : ((answer p s d v m x leaves fault).ctx p.core p.slot).accs =
    (s.ctx p.core p.slot).accs ++ [answerOf p s d v m x leaves fault] := by
  rw [answer_eq, State.ctx_updCtx]
  have h := (KeepsCtx.updCore s p.core (fun k => { k with nextId := k.nextId + 1 }) : KeepsCtx Ctx.accs _ _).ctx p.core p.slot
  dsimp only
  rw [h]

theorem nextId_answer : ((answer p s d v m x leaves fault).core p.core).nextId = (s.core p.core).nextId + 1 := by
  rw [answer_eq, State.core_updCtx, Core.setSlot, State.core_updCore]

theorem sram_answer (c : Nat) : ((answer p s d v m x leaves fault).core c).sram = (s.core c).sram := by
  rw [answer_eq, (Still.updCtx _ _ _ _).sram, (Still.updCore s p.core _ ?_).sram]
  rfl

/-- The answer just left is the one marked, where no other has its number. -/
theorem accs_marked (f : Acc → Acc) (hnew : ∀ b ∈ (s.ctx p.core p.slot).accs, b.id ≠ (s.core p.core).nextId) :
    (((answer p s d v m x leaves fault).updCtx p.core p.slot (fun c => { c with accs := c.accs.map (fun b =>
      if b.id == ((answer p s d v m x leaves fault).core p.core).nextId - 1 then f b else b) })).ctx p.core p.slot).accs =
    (s.ctx p.core p.slot).accs ++ [f (answerOf p s d v m x leaves fault)] := by
  have hold : (s.ctx p.core p.slot).accs.map (fun b => if b.id == (s.core p.core).nextId then f b else b) = (s.ctx p.core p.slot).accs :=
    (List.map_congr_left fun b hb => if_neg (by simpa using hnew b hb)).trans (List.map_id' _)
  rw [nextId_answer, State.ctx_updCtx, Nat.add_sub_cancel]
  dsimp only
  rw [accs_answer, List.map_append, hold, List.map_singleton, if_pos (by simp [answerOf])]

end

/-! ### Lone issues of accesses -/

/-- A meaning that names no tile, opens no region and goes nowhere. -/
structure SlotSem.Accesses (m : SlotSem) : Prop where
  post : ∀ p s, m.post p s = none := by intros; rfl
  tiles : ∀ p s, m.tiles p s = [] := by intros; rfl
  mark : ∀ p s, m.mark p s = false := by intros; rfl
  gates : ∀ p s, m.gates p s = false := by intros; rfl
  engine : m.lat ≠ .engine := by nofun
  tags : (m.lat != .now) = true := by rfl
  fin : ∀ p, m.fin p = id := by intros; rfl
  goes : ∀ p s, m.goes p s = none := by intros; rfl

section
variable {i : Instr} {s : State}

theorem SlotSem.Accesses.exec_eq (hp : (slotSem i).Accesses) (hx : (slotParts i).isSome = true) (hf : free (headOf i) s = true)
    (hc : (slotSem i).chk (here i s) (judged (headOf i) s) = none) (hh : (slotSem i).hold (here i s) (judged (headOf i) s) = false) :
    exec i s = .next (issued i true s ((slotSem i).eff (here i s)) none id) := by
  rw [exec_slot i s hx, issueOne_goes rfl hf hc (hp.post _ _) hh (hp.tiles _) (hp.mark _ _) (hp.gates _ _) hp.engine (hp.fin _), hp.tags, hp.goes]

theorem here_core_slot (i : Instr) (s : State) : (here i s).core = s.cur.1 ∧ (here i s).slot = s.cur.2 := ⟨rfl, rfl⟩

/-- Alignment, right and bounds hold (R166). -/
theorem accessErr_none {h : Head} {o : SM} (hi : headOf i = h) {r : Nat} (hx : (memOffset (found h s) o.x o.off).toNat % 2 ^ o.w = 0)
    (hc : capCheck (found h s) ((found h s).getK o.k) (capHas ((found h s).getK o.k) r) (memOffset (found h s) o.x o.off) (2 ^ o.w) = none) :
    accessErr o r (widthBytes o.w) ((here i s).ctx (judged (headOf i) s)) = none := by
  subst hi
  rw [here_ctx, ctx_judged]
  simp only [accessErr, smOff, smCap, widthBytes, hx, hc, ne_eq, not_true_eq_false, if_false, Option.map_none]

theorem nextId_issuing (i : Instr) (al : Bool) (s : State) (c : Nat) : ((issuing i al s).core c).nextId = (s.core c).nextId := by
  by_cases hc : c = s.cur.1
  · subst hc; simp [issuing, setHand, State.setCtx, Core.setSlot]
  · rw [issuing, setHand, State.setCtx, State.core_updCore_other _ _ _ _ hc]

theorem out_counted (core slot : Nat) (s : State) : (counted core slot s).out = s.out := rfl

theorem parts_counted (core slot : Nat) (s : State) : (counted core slot s).parts = s.parts := rfl

theorem out_issued {al : Bool} {eff : State → State} {g : Option Nat} : (issued i al s eff g id).out = (eff (issuing i al s)).out := by
  rw [issued_eq, out_counted, ending]
  exact State.updCtx_out ..

theorem part_issued {al : Bool} {eff : State → State} {g : Option Nat} (p : Nat) :
    (issued i al s eff g id).part p = (eff (issuing i al s)).part p := by
  rw [State.part, State.part, issued_eq, parts_counted, ending]
  exact congrArg (fun t : Tab Part => t.get p {}) (State.updCtx_parts ..)

/-- Its scratchpads are as its effect leaves them. -/
theorem sram_issued {al : Bool} {eff : State → State} {g : Option Nat} (c : Nat) :
    ((issued i al s eff g id).core c).sram = ((eff (issuing i al s)).core c).sram := coreProj_issued Core.sram (fun _ => rfl) c

end

end Sys2Proof.Machine

/-! ## Loads, stores, prefetches and range flushes (R168, R170) -/

namespace Sys2Proof.Machine
set_option Elab.async false

section
variable {o : SM} {p : At} {s : State}

/-! ### Loads -/

theorem doLoad_bytes {pl : Place} (hpl : place s p.core p.slot (capOid (smCap o (p.ctx s))) (smOff o (p.ctx s)).toNat (widthBytes o.w) = .ok pl)
    (hdev : ∀ a peer, pl ≠ .host a peer) (hv : victimBad s p.core pl = false) {u : State}
    (hu : u = touchAt s p.core p.slot (capOid (smCap o (p.ctx s))) (smOff o (p.ctx s)).toNat pl (widthBytes o.w) false o.ty o.hint)
    (hb : badAt u p.core pl (widthBytes o.w) = none) :
    doLoad o p s = answer p u ((p.ctx s).dstS o.a) ((loadValue ((lookAt s p.core p.slot pl (widthBytes o.w) o.ty).getD (u.getAt pl (widthBytes o.w)))
      (widthBytes o.w) (o.ext == 1)).setWidth 512) 12 (smOff o (p.ctx s)) (leavesCore o p s) none := by
  subst hu
  unfold doLoad
  dsimp only
  rw [hpl]
  cases pl with
  | host a peer => exact absurd rfl (hdev a peer)
  | sram t a => simp only [hv, Bool.false_eq_true, if_false, hb]
  | dev d pa => simp only [hv, Bool.false_eq_true, if_false, hb]

theorem doLoad_host {a : Nat} {peer : Bool}
    (hpl : place s p.core p.slot (capOid (smCap o (p.ctx s))) (smOff o (p.ctx s)).toNat (widthBytes o.w) = .ok (.host a peer))
    (hd : s.hostDown a peer false = false) :
    doLoad o p s = (answer p (s.askHost (p.ctx s).part a peer (widthBytes o.w)) ((p.ctx s).dstS o.a) 0 12 (smOff o (p.ctx s)) (leavesCore o p s) none).updCtx
      p.core p.slot (fun c => { c with accs := c.accs.map (fun b =>
        if b.id == ((answer p (s.askHost (p.ctx s).part a peer (widthBytes o.w)) ((p.ctx s).dstS o.a) 0 12 (smOff o (p.ctx s)) (leavesCore o p s) none).core p.core).nextId - 1
        then { b with pcie := true, width := widthBytes o.w, sgn := o.ext == 1, asked := (s.askHost (p.ctx s).part a peer (widthBytes o.w)).now } else b) }) := by
  unfold doLoad
  dsimp only
  rw [hpl]
  dsimp only
  rw [hd]
  rfl

theorem doLoad_hostDown {a : Nat} {peer : Bool}
    (hpl : place s p.core p.slot (capOid (smCap o (p.ctx s))) (smOff o (p.ctx s)).toNat (widthBytes o.w) = .ok (.host a peer))
    (hd : s.hostDown a peer false = true) :
    doLoad o p s = answer p (dmaErr s p.core p.slot (smOff o (p.ctx s))) ((p.ctx s).dstS o.a) 0 12 (smOff o (p.ctx s)) (leavesCore o p s) (some 0x48) := by
  unfold doLoad
  dsimp only
  rw [hpl]
  dsimp only
  rw [if_pos hd]

/-! ### Stores -/

theorem doStore_bytes {pl : Place} (hpl : place s p.core p.slot (capOid (smCap o (p.ctx s))) (smOff o (p.ctx s)).toNat (widthBytes o.w) = .ok pl)
    (hdev : ∀ a peer, pl ≠ .host a peer) (hv : partAt s p.core pl (widthBytes o.w) = none) {u : State}
    (hu : u = touchAt s p.core p.slot (capOid (smCap o (p.ctx s))) (smOff o (p.ctx s)).toNat pl (widthBytes o.w) true o.ty o.hint) :
    doStore o p s = answer p (throughAt (u.putAt pl (widthBytes o.w) (((p.ctx s).getS o.a).toNat % 2 ^ (8 * widthBytes o.w))) p.core p.slot pl)
      .nothing 0 1 (smOff o (p.ctx s)) (leavesCore o p s) none := by
  subst hu
  unfold doStore
  dsimp only
  rw [hpl]
  cases pl with
  | host a peer => exact absurd rfl (hdev a peer)
  | sram t a => simp only [hv]
  | dev d pa => simp only [hv]

theorem doStore_host {a : Nat} {peer : Bool}
    (hpl : place s p.core p.slot (capOid (smCap o (p.ctx s))) (smOff o (p.ctx s)).toNat (widthBytes o.w) = .ok (.host a peer))
    (hd : s.hostDown a peer true = false) :
    doStore o p s = answer p (s.writeHost (p.ctx s).part a peer (toBytes (widthBytes o.w) (((p.ctx s).getS o.a).toNat % 2 ^ (8 * widthBytes o.w))))
      .nothing 0 1 (smOff o (p.ctx s)) (leavesCore o p s) none := by
  unfold doStore
  dsimp only
  rw [hpl]
  dsimp only
  rw [hd]
  rfl

theorem doStore_hostDown {a : Nat} {peer : Bool}
    (hpl : place s p.core p.slot (capOid (smCap o (p.ctx s))) (smOff o (p.ctx s)).toNat (widthBytes o.w) = .ok (.host a peer))
    (hd : s.hostDown a peer true = true) :
    doStore o p s = answer p (dmaErr s p.core p.slot (smOff o (p.ctx s))) .nothing 0 1 (smOff o (p.ctx s)) (leavesCore o p s) (some 0x48) := by
  unfold doStore
  dsimp only
  rw [hpl]
  dsimp only
  rw [if_pos hd]

end

/-! ### The context at the issue of an access -/

section
variable (i : Instr) (s : State) (o : SM)

theorem smOff_here : smOff o ((here i s).ctx (issuing i true s)) = memOffset (found (headOf i) s) o.x o.off := by
  rw [here_ctx, ctx_issuing, smOff, atIssue_memOffset]

theorem smCap_here : smCap o ((here i s).ctx (issuing i true s)) = (found (headOf i) s).getK o.k := by
  rw [here_ctx, ctx_issuing, smCap, atIssue_getK]

theorem part_here : ((here i s).ctx (issuing i true s)).part = (found (headOf i) s).part := by
  rw [here_ctx, ctx_issuing]
  exact passed_part ..

theorem accs_here : ((issuing i true s).ctx s.cur.1 s.cur.2).accs = (found (headOf i) s).accs := by rw [ctx_issuing, accs_atIssue]

end

theorem writeHost_mem (s : State) (p a : Nat) (peer : Bool) (b : List Byte) : (s.writeHost p a peer b).mem = s.mem := by
  unfold State.writeHost
  split
  · dsimp only; split <;> rfl
  · rfl

theorem askHost_now (s : State) (p a : Nat) (peer : Bool) (n : Nat) : (s.askHost p a peer n).now = s.now := by
  unfold State.askHost
  split <;> rfl

theorem askHost_out_issuing (i : Instr) (s : State) (p a : Nat) (peer : Bool) (n : Nat) :
    ((issuing i true s).askHost p a peer n).out = (s.askHost p a peer n).out := by
  unfold State.askHost
  rw [show (issuing i true s).linkFor a peer = s.linkFor a peer from rfl]
  cases s.linkFor a peer <;> rfl

theorem writeHost_out_issuing (i : Instr) (s : State) (p a : Nat) (peer : Bool) (b : List Byte) :
    ((issuing i true s).writeHost p a peer b).out = (s.writeHost p a peer b).out := by
  unfold State.writeHost
  rw [show (issuing i true s).linkFor a peer = s.linkFor a peer from rfl]
  cases s.linkFor a peer with
  | none => rfl
  | some l =>
    dsimp only
    rw [show ((issuing i true s).linkOf l).up = (s.linkOf l).up from rfl]
    split <;> rfl

theorem askHost_mem (s : State) (p a : Nat) (peer : Bool) (n : Nat) : (s.askHost p a peer n).mem = s.mem := by
  unfold State.askHost
  split <;> rfl

theorem askHost_cores (s : State) (p a : Nat) (peer : Bool) (n : Nat) : (s.askHost p a peer n).cores = s.cores := by
  unfold State.askHost
  split <;> rfl

theorem dmaErr_posts (s : State) (core slot : Nat) (x : Word) : PostsE s (dmaErr s core slot x) (s.ctx core slot).part 0x48 :=
  postsE_postE s _ (by decide) _ _ _ _ _

theorem parts_issuing (i : Instr) (al : Bool) (s : State) : (issuing i al s).parts = s.parts := rfl
theorem linkUp_issuing (i : Instr) (al : Bool) (s : State) : (issuing i al s).linkUp = s.linkUp := rfl
theorem outs_issuing (i : Instr) (al : Bool) (s : State) : (issuing i al s).out = s.out := rfl
theorem parts_answer (p : At) (s : State) (d : Dst) (v : BitVec 512) (m : Nat) (x : Word) (l : Bool) (f : Option Nat) :
    (answer p s d v m x l f).parts = s.parts := rfl

theorem dmaErr_out_issuing (i : Instr) (s : State) (x : Word) :
    (dmaErr (issuing i true s) s.cur.1 s.cur.2 x).out = (dmaErr s s.cur.1 s.cur.2 x).out := by
  have hp : ((issuing i true s).ctx s.cur.1 s.cur.2).part = (s.ctx s.cur.1 s.cur.2).part :=
    (part_here i s).trans (proj_found Ctx.part (fun _ => rfl) (headOf i) s)
  have hsend : SendsAlike (issuing i true s) s := ⟨rfl, rfl, rfl⟩
  have hisl : (issuing i true s).islandOf s.cur.1 = s.islandOf s.cur.1 := rfl
  unfold dmaErr
  rw [hp, hisl]
  exact hsend.postE _ (congrArg (fun t : Tab Part => (t.get _ {}).evq) (parts_issuing i true s)) ..

/-- The failed request of a lone access is posted to its partition (R382). -/
theorem posts_dmaErr_issued {i : Instr} {s : State} {eff : State → State} {p : At} {d : Dst} {v : BitVec 512} {m : Nat} {x : Word} {l : Bool}
    {f : Option Nat} (heff : eff (issuing i true s) = answer p (dmaErr (issuing i true s) s.cur.1 s.cur.2 x) d v m x l f) :
    PostsE s (issued i true s eff none id) (found (headOf i) s).part 0x48 := by
  have hp : ((issuing i true s).ctx s.cur.1 s.cur.2).part = (found (headOf i) s).part := part_here i s
  have hpost := dmaErr_posts (issuing i true s) s.cur.1 s.cur.2 x
  rw [hp] at hpost
  refine (hpost.congr ?_ ?_).of_same ?_ (linkUp_issuing i true s) (outs_issuing i true s)
  · rw [part_issued, heff, State.part, parts_answer]
    rfl
  · rw [out_issued, heff, out_answer]
  · rw [State.part, parts_issuing]
    rfl

theorem loadValue_eq (v n e : Nat) : loadValue v n (e == 1) = if e = 1 then (BitVec.ofNat (8 * n) v).signExtend 64 else BitVec.ofNat 64 v := by
  simp only [loadValue, beq_iff_eq, sext64_eq_signExtend]

theorem semLd_accesses (o : SM) : (semLd o).Accesses := {}
theorem semSt_accesses (o : SM) : (semSt o).Accesses := {}
theorem semPf_accesses (o : SM) : (semPf o).Accesses := {}
theorem flushSem_accesses (o : SM) (drop : Bool) : (flushSem o drop).Accesses := {}

end Sys2Proof.Machine

/-! ## Loads and stores -/

namespace Sys2Proof.Machine
set_option Elab.async false

section
variable {h : Head} {o : SM} {s : State}

theorem exec_ld (hf : free h s = true) (hx : (memOffset (found h s) o.x o.off).toNat % 2 ^ o.w = 0)
    (hc : capCheck (found h s) ((found h s).getK o.k) (capHas ((found h s).getK o.k) rRD) (memOffset (found h s) o.x o.off) (2 ^ o.w) = none)
    (hh : accessHold o false (here (.ld h o) s) (judged h s) = false) :
    exec (.ld h o) s = .next (issued (.ld h o) true s (doLoad o (here (.ld h o) s)) none id) :=
  SlotSem.Accesses.exec_eq (i := .ld h o) (semLd_accesses o) rfl hf (accessErr_none (i := .ld h o) rfl hx hc) hh

theorem exec_st (hf : free h s = true) (hx : (memOffset (found h s) o.x o.off).toNat % 2 ^ o.w = 0)
    (hc : capCheck (found h s) ((found h s).getK o.k) (capHas ((found h s).getK o.k) rWR) (memOffset (found h s) o.x o.off) (2 ^ o.w) = none)
    (hh : accessHold o true (here (.st h o) s) (judged h s) = false) :
    exec (.st h o) s = .next (issued (.st h o) true s (doStore o (here (.st h o) s)) none id) :=
  SlotSem.Accesses.exec_eq (i := .st h o) (semSt_accesses o) rfl hf (accessErr_none (i := .st h o) rfl hx hc) hh

end

/-- Settles O10: the effect of a load is one answer, whose value its place gives. -/
theorem loads : Obligations.Loads := by
  unfold Obligations.Loads
  intro h o s u pl hf _ i c x k n v hx hc hh hpl
  have he := exec_ld hf hx hc hh
  have hoff : smOff o ((here i s).ctx (issuing i true s)) = x := smOff_here i s o
  have hcap : smCap o ((here i s).ctx (issuing i true s)) = k := smCap_here i s o
  have hdst : ((here i s).ctx (issuing i true s)).dstS o.a = c.dstS o.a := by rw [here_ctx, ctx_issuing, atIssue_dstS]; rfl
  have hpart : ((here i s).ctx (issuing i true s)).part = c.part := part_here i s
  have hpl' : place (issuing i true s) (here i s).core (here i s).slot (capOid (smCap o ((here i s).ctx (issuing i true s))))
      (smOff o ((here i s).ctx (issuing i true s))).toNat (widthBytes o.w) = .ok pl := by rw [hcap, hoff]; exact hpl
  have haccs : ((issuing i true s).ctx s.cur.1 s.cur.2).accs = c.accs := accs_here i s
  refine ⟨fun hdev hv hu hb => ?bytes, fun addr peer hhost hnew => ⟨fun hd => ?ask, fun hd => ?down⟩⟩
  case bytes =>
    have hkeep : KeepsCtx Ctx.accs (issuing i true s) u := by rw [hu]; exact accs_touchAt ..
    have heff := doLoad_bytes hpl' hdev hv (u := u) (by rw [hu, hcap, hoff]; rfl) hb
    have hcur : (doLoad o (here i s) (issuing i true s)).cur = s.cur := by rw [heff, cur_answer, hkeep.cur]; rfl
    refine ⟨_, answerOf (here i s) u (c.dstS o.a) ((loadValue v n (o.ext == 1)).setWidth 512) 12 x (leavesCore o (here i s) (issuing i true s)) none, he, ?_, ?_, rfl,
      rfl, rfl, rfl, rfl, rfl, ?_⟩
    · rw [accs_issued hcur, heff, hdst, hoff]
      exact (accs_answer (here i s) u _ _ 12 x _ none).trans (by rw [(here_core_slot i s).1, (here_core_slot i s).2, hkeep.ctx, haccs]; rfl)
    · rw [mem_issued, heff, mem_answer]
    · exact congrArg (BitVec.setWidth 512) (loadValue_eq v n o.ext)
  case ask =>
    subst hhost
    have heff := doLoad_host hpl' hd
    rw [hpart, hdst, hoff] at heff
    have hcores := askHost_cores (issuing i true s) c.part addr peer n
    have hnew' : ∀ b ∈ Ctx.accs (((issuing i true s).askHost c.part addr peer n).ctx s.cur.1 s.cur.2),
        b.id ≠ (((issuing i true s).askHost c.part addr peer n).core s.cur.1).nextId := by
      rw [(KeepsCtx.askHost (g := Ctx.accs) (issuing i true s) c.part addr peer n).ctx, haccs,
        show ((issuing i true s).askHost c.part addr peer n).core s.cur.1 = (issuing i true s).core s.cur.1 by rw [State.core, hcores]; rfl, nextId_issuing]
      exact hnew
    have hmark := accs_marked (here i s) ((issuing i true s).askHost c.part addr peer n) (c.dstS o.a) 0 12 x (leavesCore o (here i s) (issuing i true s)) none
      (fun b => { b with pcie := true, width := n, sgn := o.ext == 1, asked := ((issuing i true s).askHost c.part addr peer n).now }) hnew'
    have hcur : (doLoad o (here i s) (issuing i true s)).cur = s.cur := by
      rw [heff, State.updCtx_cur, cur_answer, (KeepsCtx.askHost (g := Ctx.accs) (issuing i true s) c.part addr peer (widthBytes o.w)).cur]; rfl
    refine ⟨_, { answerOf (here i s) ((issuing i true s).askHost c.part addr peer n) (c.dstS o.a) 0 12 x (leavesCore o (here i s) (issuing i true s)) none with
      pcie := true, width := n, sgn := o.ext == 1, asked := ((issuing i true s).askHost c.part addr peer n).now }, he, ?_, ?_, ?_, rfl, rfl, rfl, rfl, rfl, rfl,
      rfl, rfl, askHost_now (issuing i true s) c.part addr peer n⟩
    · rw [accs_issued hcur, heff]
      refine hmark.trans (congrArg (· ++ _) ?_)
      rw [(KeepsCtx.askHost (g := Ctx.accs) (issuing i true s) c.part addr peer n).ctx]
      exact haccs
    · rw [mem_issued, heff, State.updCtx_mem, mem_answer]
      exact askHost_mem (issuing i true s) c.part addr peer n
    · rw [out_issued, heff, State.updCtx_out, out_answer]
      exact askHost_out_issuing i s c.part addr peer n
  case down =>
    subst hhost
    have heff := doLoad_hostDown hpl' hd
    rw [hdst, hoff] at heff
    have hkeep : KeepsCtx Ctx.accs (issuing i true s) (dmaErr (issuing i true s) s.cur.1 s.cur.2 x) := .postE ..
    have hcur : (doLoad o (here i s) (issuing i true s)).cur = s.cur := by rw [heff, cur_answer]; exact hkeep.cur
    refine ⟨_, answerOf (here i s) (dmaErr (issuing i true s) s.cur.1 s.cur.2 x) (c.dstS o.a) 0 12 x (leavesCore o (here i s) (issuing i true s)) (some 0x48),
      he, ?_, ?_, rfl, rfl, rfl, ?_⟩
    · rw [accs_issued hcur, heff]
      exact (accs_answer (here i s) _ _ _ 12 x _ _).trans (congrArg (· ++ _) ((hkeep.ctx _ _).trans haccs))
    · rw [mem_issued, heff, mem_answer]
      exact (postE_mem ..).1
    · exact posts_dmaErr_issued heff

/-- Settles O11: the effect of a store is its bytes at its place, and one answer. -/
theorem stores : Obligations.Stores := by
  unfold Obligations.Stores
  intro h o s u pl hf _ i c x k n hx hc hh hpl
  have he := exec_st hf hx hc hh
  have hoff : smOff o ((here i s).ctx (issuing i true s)) = x := smOff_here i s o
  have hcap : smCap o ((here i s).ctx (issuing i true s)) = k := smCap_here i s o
  have hget : ((here i s).ctx (issuing i true s)).getS o.a = c.getS o.a := by rw [here_ctx, ctx_issuing, atIssue_getS]; rfl
  have hpart : ((here i s).ctx (issuing i true s)).part = c.part := part_here i s
  have hpl' : place (issuing i true s) (here i s).core (here i s).slot (capOid (smCap o ((here i s).ctx (issuing i true s))))
      (smOff o ((here i s).ctx (issuing i true s))).toNat (widthBytes o.w) = .ok pl := by rw [hcap, hoff]; exact hpl
  have haccs : ((issuing i true s).ctx s.cur.1 s.cur.2).accs = c.accs := accs_here i s
  refine ⟨fun hdev hb hu => ?bytes, fun addr peer hhost => ⟨fun hd => ?send, fun hd => ?down⟩⟩
  case bytes =>
    have heff := doStore_bytes hpl' hdev hb (u := u) (by rw [hu, hcap, hoff]; rfl)
    rw [hget, hoff] at heff
    obtain ⟨w, hw⟩ : ∃ w, w = throughAt (u.putAt pl n ((c.getS o.a).toNat % 2 ^ (8 * n))) s.cur.1 s.cur.2 pl := ⟨_, rfl⟩
    have heff : doStore o (here i s) (issuing i true s) = answer (here i s) w .nothing 0 1 x (leavesCore o (here i s) (issuing i true s)) none := by
      rw [heff, hw]; rfl
    have hstill : Still (u.putAt pl n ((c.getS o.a).toNat % 2 ^ (8 * n))) w := by rw [hw]; exact .throughAt ..
    have hkeep : KeepsCtx Ctx.accs (issuing i true s) w := by
      rw [hw]
      refine (KeepsCtx.trans ?_ (.putAt u pl n _)).trans (.throughAt (fun _ => rfl) ..)
      rw [hu]
      exact accs_touchAt ..
    have hcur : (doStore o (here i s) (issuing i true s)).cur = s.cur := by rw [heff, cur_answer, hkeep.cur]; rfl
    have hmem : (issued i true s (doStore o (here i s)) none id).mem = (u.putAt pl n ((c.getS o.a).toNat % 2 ^ (8 * n))).mem := by
      rw [mem_issued, heff, mem_answer, hstill.mem]
    have hsram (k : Nat) : ((issued i true s (doStore o (here i s)) none id).core k).sram = ((u.putAt pl n ((c.getS o.a).toNat % 2 ^ (8 * n))).core k).sram := by
      rw [sram_issued, heff, sram_answer, hstill.sram]
    refine ⟨_, answerOf (here i s) w .nothing 0 1 x (leavesCore o (here i s) (issuing i true s)) none, he, ?_, rfl, rfl, rfl, ?_,
      (keepsOtherBytes_putAt u pl n _).congr hmem hsram⟩
    · rw [accs_issued hcur, heff]
      exact (accs_answer (here i s) w _ _ 1 x _ none).trans (congrArg (· ++ _) ((hkeep.ctx _ _).trans haccs))
    · rw [getAt_congr hmem hsram, getAt_putAt u hdev, Nat.mod_mod]
  case send =>
    subst hhost
    have heff := doStore_host hpl' hd
    rw [hpart, hget, hoff] at heff
    obtain ⟨w, hw⟩ : ∃ w, w = (issuing i true s).writeHost c.part addr peer (toBytes n ((c.getS o.a).toNat % 2 ^ (8 * n))) := ⟨_, rfl⟩
    have heff : doStore o (here i s) (issuing i true s) = answer (here i s) w .nothing 0 1 x (leavesCore o (here i s) (issuing i true s)) none := by
      rw [heff, hw]; rfl
    have hkeep : KeepsCtx Ctx.accs (issuing i true s) w := by rw [hw]; exact .writeHost ..
    have hcur : (doStore o (here i s) (issuing i true s)).cur = s.cur := by rw [heff, cur_answer, hkeep.cur]; rfl
    refine ⟨_, answerOf (here i s) w .nothing 0 1 x (leavesCore o (here i s) (issuing i true s)) none, he, ?_, rfl, rfl, rfl, ?_, ?_⟩
    · rw [accs_issued hcur, heff]
      exact (accs_answer (here i s) w _ _ 1 x _ none).trans (congrArg (· ++ _) ((hkeep.ctx _ _).trans haccs))
    · rw [mem_issued, heff, mem_answer, hw]
      exact writeHost_mem ..
    · rw [out_issued, heff, out_answer, hw]
      exact writeHost_out_issuing i s c.part addr peer _
  case down =>
    subst hhost
    have heff := doStore_hostDown hpl' hd
    rw [hoff] at heff
    have hkeep : KeepsCtx Ctx.accs (issuing i true s) (dmaErr (issuing i true s) s.cur.1 s.cur.2 x) := .postE ..
    have hcur : (doStore o (here i s) (issuing i true s)).cur = s.cur := by rw [heff, cur_answer]; exact hkeep.cur
    refine ⟨_, answerOf (here i s) (dmaErr (issuing i true s) s.cur.1 s.cur.2 x) .nothing 0 1 x (leavesCore o (here i s) (issuing i true s)) (some 0x48),
      he, ?_, rfl, rfl, rfl, ?_, ?_, posts_dmaErr_issued heff⟩
    · rw [accs_issued hcur, heff]
      exact (accs_answer (here i s) _ _ _ 1 x _ _).trans (congrArg (· ++ _) ((hkeep.ctx _ _).trans haccs))
    · rw [mem_issued, heff, mem_answer]
      exact (postE_mem ..).1
    · rw [out_issued, heff, out_answer]
      exact dmaErr_out_issuing i s x

end Sys2Proof.Machine

/-! ## Prefetches and range flushes (R77, R168, R170) -/

namespace Sys2Proof.Machine
set_option Elab.async false

/-- The state of a prefetch before its tag is on its way: at most a request has been made. -/
theorem doPrefetch_eq (o : SM) (p : At) (s : State) :
    ∃ u, doPrefetch o p s = produce p (.prod 1) .nothing 0 u ∧ MovesWords s u ∧ Still s u := by
  unfold doPrefetch
  dsimp only
  split
  next d pa _ _ =>
    split
    · exact ⟨_, rfl, .refl s, .refl s⟩
    · exact ⟨_, rfl, .request .., .request ..⟩
  next => exact ⟨_, rfl, .refl s, .refl s⟩

/-- The words of a range flush move, and no byte changes. -/
theorem flushRanges_moves (l : List (Nat × Nat × Nat)) (drop : Bool) (s : State) :
    MovesWords s (l.foldl (fun s r => flushRange s r.1 r.2.1 r.2.2 drop) s) ∧ Still s (l.foldl (fun s r => flushRange s r.1 r.2.1 r.2.2 drop) s) :=
  ⟨.foldl _ (fun s _ => .flushRange s _ _ _ drop) _ _, .foldl _ (fun s _ => .flushRange s _ _ _ drop) _ _⟩

/-- A range flush leaves one answer that frees its tag. -/
theorem flushSem_eff (o : SM) (drop : Bool) (p : At) (s : State) (hnew : ∀ b ∈ (p.ctx s).accs, b.id ≠ (s.core p.core).nextId) :
    ∃ a : Acc, ((flushSem o drop).eff p s).cur = s.cur ∧ ((flushSem o drop).eff p s).mem = s.mem ∧
      (p.ctx ((flushSem o drop).eff p s)).accs = (p.ctx s).accs ++ [a] ∧
      a.dst = .nothing ∧ a.fault = none ∧ a.flush = true ∧ a.minLat = 8 ∧ a.tag = p.tag := by
  obtain ⟨hmove, hstill⟩ := flushRanges_moves (rangePages s (p.ctx s).part (capOid (smCap o (p.ctx s))) (smOff o (p.ctx s)).toNat ((p.ctx s).getS o.a).toNat) drop s
  obtain ⟨u, hu⟩ : ∃ u, u = (rangePages s (p.ctx s).part (capOid (smCap o (p.ctx s))) (smOff o (p.ctx s)).toNat ((p.ctx s).getS o.a).toNat).foldl
    (fun s r => flushRange s r.1 r.2.1 r.2.2 drop) s := ⟨_, rfl⟩
  rw [← hu] at hmove hstill
  have hacc : (u.ctx p.core p.slot).accs = (p.ctx s).accs := (hmove.meters.keeps (g := Ctx.accs)).ctx ..
  have hid : (u.core p.core).nextId = (s.core p.core).nextId := by
    have h := congrArg Core.nextId (hmove.core p.core)
    exact h
  have hmark := accs_marked p u .nothing 0 8 (smOff o (p.ctx s)) false none (fun b => { b with flush := true }) (by rw [hacc, hid]; exact hnew)
  have heff : (flushSem o drop).eff p s = (answer p u .nothing 0 8 (smOff o (p.ctx s)) false none).updCtx p.core p.slot
      (fun c => { c with accs := c.accs.map (fun b =>
        if b.id == ((answer p u .nothing 0 8 (smOff o (p.ctx s)) false none).core p.core).nextId - 1 then { b with flush := true } else b) }) := by
    rw [hu]; rfl
  refine ⟨{ answerOf p u .nothing 0 8 (smOff o (p.ctx s)) false none with flush := true }, ?_, ?_, ?_, rfl, rfl, rfl, rfl, rfl⟩
  · rw [heff, State.updCtx_cur, cur_answer, hstill.cur]
  · rw [heff, State.updCtx_mem, mem_answer, hstill.mem]
  · rw [heff, ← hacc]
    exact hmark

/-- Settles O13: a prefetch is at most a request, which moves words only; a range flush moves words and answers. -/
theorem prefetchAndFlushes : Obligations.PrefetchAndFlushes := by
  unfold Obligations.PrefetchAndFlushes
  intro h o s hf _ c
  refine ⟨fun hh => ?pf, fun hc hnew i hi => ?flush⟩
  case pf =>
    have he := SlotSem.Accesses.exec_eq (i := .pf h o) (s := s) (semPf_accesses o) rfl hf rfl hh
    obtain ⟨u, hu, hmove, hstill⟩ := doPrefetch_eq o (here (.pf h o) s) (issuing (.pf h o) true s)
    have heff : (slotSem (.pf h o)).eff (here (.pf h o) s) (issuing (.pf h o) true s) = produce (here (.pf h o) s) (.prod 1) .nothing 0 u := hu
    have hcur : ((slotSem (.pf h o)).eff (here (.pf h o) s) (issuing (.pf h o) true s)).cur = s.cur := by
      rw [heff, produce, State.updCtx_cur, hstill.cur]
      rfl
    refine ⟨_, he, ?_, ?_⟩
    · rw [mem_issued, heff, produce, State.updCtx_mem, hstill.mem]
      rfl
    · rw [res_issued hcur, heff, produce, (here_core_slot (.pf h o) s).1, (here_core_slot (.pf h o) s).2, State.ctx_updCtx]
      have hres : (u.ctx s.cur.1 s.cur.2).res = c.res :=
        ((hmove.meters.keeps (g := Ctx.res)).ctx s.cur.1 s.cur.2).trans (by rw [ctx_issuing, res_atIssue]; rfl)
      exact congrArg (· ++ _) hres
  case flush =>
    obtain ⟨drop, hsem, hh, hx⟩ : ∃ drop, slotSem i = flushSem o drop ∧ headOf i = h ∧ (slotParts i).isSome = true := by
      simp only [List.mem_cons, List.not_mem_nil, or_false] at hi
      rcases hi with rfl | rfl | rfl
      · exact ⟨false, rfl, rfl, rfl⟩
      · exact ⟨true, rfl, rfl, rfl⟩
      · exact ⟨true, rfl, rfl, rfl⟩
    subst hh
    have hchk : (slotSem i).chk (here i s) (judged (headOf i) s) = none := by
      rw [hsem]
      simp only [flushSem, here_ctx, ctx_judged, smOff, smCap]
      rcases hc with h0 | h1
      · exact if_pos (congrArg BitVec.toNat h0)
      · split
        · rfl
        · rw [h1]; rfl
    have he := SlotSem.Accesses.exec_eq (i := i) (s := s) (by rw [hsem]; exact flushSem_accesses o drop) hx hf hchk (by rw [hsem]; rfl)
    have hnew' : ∀ b ∈ ((here i s).ctx (issuing i true s)).accs, b.id ≠ ((issuing i true s).core (here i s).core).nextId := by
      rw [here_ctx, accs_here, (here_core_slot i s).1, nextId_issuing]
      exact hnew
    obtain ⟨a, hcur, hmem, haccs, hdst, hfault, hflush, hlat, htag⟩ := flushSem_eff o drop (here i s) (issuing i true s) hnew'
    rw [hsem] at he
    refine ⟨_, a, he, ?_, ?_, hdst, hfault, hflush, hlat, htag⟩
    · rw [mem_issued, hmem]
      rfl
    · rw [accs_issued (hcur.trans rfl)]
      exact haccs.trans (congrArg (· ++ [a]) (by rw [here_ctx, accs_here]))

end Sys2Proof.Machine

/-! ## Atomics (R83, R171, R172) -/

namespace Sys2Proof.Machine
set_option Elab.async false

/-! ### Updates of partials -/

/-- A buffer that has taken an update holds the new partial, and every other as before. -/
theorem mem_updPartial (p : List Partial) (e : Partial) (cfmt cop v : Nat) :
    (∃ n ∈ updPartial p e cfmt cop v, n.die = e.die ∧ n.addr = e.addr ∧
      n.val = BitVec.ofNat 64 (combOp cfmt cop (match p.find? (fun x => x.die == e.die && x.addr == e.addr) with
        | some x => x.val.toNat
        | none => combId cfmt cop) v)) ∧
    ∀ y : Partial, (y.die ≠ e.die ∨ y.addr ≠ e.addr) → (y ∈ updPartial p e cfmt cop v ↔ y ∈ p) := by
  refine ⟨⟨_, List.mem_append_right _ (List.mem_singleton.mpr rfl), rfl, rfl, rfl⟩, fun y hy => ?_⟩
  have hsame : (y.die == e.die && y.addr == e.addr) = false := by
    rw [Bool.and_eq_false_iff]
    exact hy.imp beq_false_of_ne beq_false_of_ne
  have hne {z : Partial} (hd : z.die = e.die) (ha : z.addr = e.addr) : y ≠ z := fun h => by
    subst h
    exact hy.elim (fun h => h hd) (fun h => h ha)
  unfold updPartial
  dsimp only
  simp only [List.mem_append, List.mem_filter, List.mem_singleton, hsame, Bool.not_false, and_true]
  constructor
  · rintro ((h | h) | h)
    · exact h.1
    · exact h.1
    · exact absurd h (hne rfl rfl)
  · intro h
    cases hat : y.at e.die (e.addr / 32)
    · exact .inl (.inl ⟨h, rfl⟩)
    · exact .inl (.inr ⟨h, rfl⟩)

/-- A home that has room to track a block moves nothing. -/
theorem track_room (s : State) (die a n part : Nat) (h : (s.die die).tracked.length < 4096) :
    track s die a n part = s.updDie die (fun d => { d with tracked := d.tracked.filter (fun t => t.1 != a) ++ [(a, n, part)] }) := by
  have hl : ((s.die die).tracked.filter (fun t => sliceOf t.1 == sliceOf a)).length < 4096 := lt_of_le_of_lt (List.length_filter_le ..) h
  unfold track
  dsimp only
  rw [if_pos (Or.inr hl)]

/-- A buffer with room gives up nothing. -/
theorem partRoom_room (s : State) (core die w : Nat) (h : ((s.core core).part.map (fun e => (e.die, e.addr / 32))).eraseDups.length < 64) :
    partRoom s core die w = s := by
  unfold partRoom
  dsimp only
  rw [if_pos (Or.inr h)]

theorem die_updDie_same (s : State) (d : Nat) (f : Die → Die) : (s.updDie d f).die d = f (s.die d) := by
  simp [State.updDie, State.die]

/-- With room in the buffer and at the home, a commutative update acts on its core's partial alone, once its turn has
moved words. -/
theorem commUpdate_room (s : State) (core slot : Nat) (ob : Obj) (oid page die pa v t : Nat)
    (hp : ((s.core core).part.map (fun e => (e.die, e.addr / 32))).eraseDups.length < 64) (ht : (s.die die).tracked.length < 4096) :
    ∃ u e, MovesWords s u ∧ Still s u ∧ e.die = die ∧ e.addr = pa ∧
      (commUpdate s core slot ob oid page die pa v t).1 = u.updCore core (fun k => { k with part := updPartial k.part e ob.cfmt ob.cop v }) := by
  obtain ⟨w, hw⟩ : ∃ w, w = track s die (pa / blkBytes ob * blkBytes ob) (blkBytes ob) ob.part := ⟨_, rfl⟩
  have hw' := hw
  rw [track_room s _ _ _ _ ht] at hw'
  have hmove : MovesWords s w := by rw [hw']; exact .updDie ..
  have hstill : Still s w := by rw [hw']; exact .updDie ..
  have hroom : partRoom w core die (pa / 32) = w :=
    partRoom_room w core die (pa / 32) (by rw [hw', show (s.updDie die _).core core = s.core core from rfl]; exact hp)
  have hany : (w.die die).tracked.any (fun t => t.1 == pa / blkBytes ob * blkBytes ob) = true := by
    rw [hw', die_updDie_same, List.any_append]
    simp
  refine ⟨(homeWrites w die [pa / 32] t).1,
    { die := die, addr := pa, op := ob.cfmt * 4 + ob.cop, val := 0, slot := slot, team := ((homeWrites w die [pa / 32] t).1.ctx core slot).team, oid := oid, page := page },
    hmove.trans (.homeWrites w die [pa / 32] t),
    hstill.trans (.homeWrites w die [pa / 32] t), rfl, rfl, ?_⟩
  unfold commUpdate
  dsimp only
  rw [← hw, hroom, if_pos hany]

theorem partials_updCtx (s : State) (c i d : Nat) (f : Ctx → Ctx) : ((s.updCtx c i f).core d).part = (s.core d).part := by
  by_cases hd : d = c
  · subst hd; rw [State.core_updCtx]; rfl
  · rw [State.updCtx, State.setCtx, State.core_updCore_other _ _ _ _ hd]

theorem partials_answer (p : At) (s : State) (d : Dst) (v : BitVec 512) (m : Nat) (x : Word) (l : Bool) (f : Option Nat) (core : Nat) :
    ((answer p s d v m x l f).core core).part = (s.core core).part := by
  rw [answer_eq, partials_updCtx]
  by_cases hd : core = p.core
  · subst hd; rw [State.core_updCore]
  · rw [State.core_updCore_other _ _ _ _ hd]

/-! ### What an atomic does -/

/-- The object of a commutative range that an atomic acts on, if it does (R172). -/
def commRange (o : SM) (p : At) (s : State) : Option Obj :=
  if capHas (smCap o (p.ctx s)) rCM && !isSpad (capOid (smCap o (p.ctx s))) then
    (s.objOf (p.ctx s).part (capOid (smCap o (p.ctx s)))).filter (fun ob =>
      ob.cr && decide ((smOff o (p.ctx s)).toNat + widthBytes o.w ≤ ob.len) && !s.entryBad (dieOf p.core) (capOid (smCap o (p.ctx s))))
  else none

section
variable {o : SM} {m : Amo} {p : At} {s : State}

theorem doAmo_bytes {pl : Place} (hcm : commRange o p s = none)
    (hpl : place s p.core p.slot (capOid (smCap o (p.ctx s))) (smOff o (p.ctx s)).toNat (widthBytes o.w) = .ok pl)
    (hdev : ∀ a peer, pl ≠ .host a peer) (hb : badAt s p.core pl (widthBytes o.w) = none) {u : State}
    (hu : u = touchAt s p.core p.slot (capOid (smCap o (p.ctx s))) (smOff o (p.ctx s)).toNat pl (widthBytes o.w) true o.ty 0) :
    doAmo o m p s = answer p (throughAt (u.putAt pl (widthBytes o.w) (m.f (u.getAt pl (widthBytes o.w)) (((p.ctx s).getS o.v).toNat % 2 ^ (8 * widthBytes o.w))
      (((p.ctx s).getS o.a).toNat % 2 ^ (8 * widthBytes o.w)) (8 * widthBytes o.w) % 2 ^ (8 * widthBytes o.w))) p.core p.slot pl)
      ((p.ctx s).dstS o.a) ((loadValue (u.getAt pl (widthBytes o.w)) (widthBytes o.w) (widthBytes o.w == 4 && !m.zext)).setWidth 512) 16 (smOff o (p.ctx s))
      (leavesCore o p s) none := by
  subst hu
  unfold doAmo
  unfold commRange at hcm
  dsimp only
  rw [hcm, hpl]
  cases pl with
  | host a peer => exact absurd rfl (hdev a peer)
  | sram t a => simp only [hb]
  | dev d pa => simp only [hb]

theorem doAmo_host {a : Nat} {peer : Bool} (hcm : commRange o p s = none)
    (hpl : place s p.core p.slot (capOid (smCap o (p.ctx s))) (smOff o (p.ctx s)).toNat (widthBytes o.w) = .ok (.host a peer)) :
    doAmo o m p s = bar p (answer p s ((p.ctx s).dstS o.a) 0 16 (smOff o (p.ctx s)) (leavesCore o p s) (some 0x41)) := by
  unfold doAmo
  unfold commRange at hcm
  dsimp only
  rw [hcm, hpl]

theorem doAmo_comm {ob : Obj} {d pa : Nat} (hcm : commRange o p s = some ob) (hop : m.cop = some ob.cop) (hfmt : m.fmt (widthBytes o.w) = ob.cfmt)
    (hpl : place s p.core p.slot (capOid (smCap o (p.ctx s))) (smOff o (p.ctx s)).toNat (widthBytes o.w) = .ok (.dev d pa))
    (hgood : ∀ e ∈ (s.core p.core).part, e.bad = false) {u : State × Nat}
    (hu : u = commUpdate s p.core p.slot ob (capOid (smCap o (p.ctx s))) (pageNo s p.core p.slot (capOid (smCap o (p.ctx s))) (smOff o (p.ctx s)).toNat) d pa
      (((p.ctx s).getS o.v).toNat % 2 ^ (8 * widthBytes o.w)) (p.ctx s).time) :
    doAmo o m p s = answer p (u.1.updCtx p.core p.slot (fun c => { c with time := max c.time u.2 })) ((p.ctx s).dstS o.a) 0 16 (smOff o (p.ctx s))
      (leavesCore o p s) none := by
  have hbad : partialBad s p.core (.dev d pa) (widthBytes o.w) = false := by
    rw [partialBad, List.any_eq_false]
    intro e he
    rw [hgood e he]
    exact Bool.noConfusion
  subst hu
  unfold doAmo
  unfold commRange at hcm
  dsimp only
  rw [hcm]
  dsimp only
  rw [if_neg (by rw [hop, hfmt]; exact fun h => h.elim (fun h => h rfl) (fun h => h rfl)), hpl]
  dsimp only
  rw [hbad]
  rfl

end

theorem amoSem_accesses (o : SM) (m : Amo) : (amoSem o m).Accesses := {}

theorem pickSigned_less (x v w : Nat) : pickSigned x v w true = if (BitVec.ofNat w v).toInt < (BitVec.ofNat w x).toInt then v else x := by
  simp only [pickSigned, sNat_eq_toInt, beq_true, decide_eq_true_eq]

theorem pickSigned_more (x v w : Nat) : pickSigned x v w false = if (BitVec.ofNat w v).toInt < (BitVec.ofNat w x).toInt then x else v := by
  simp only [pickSigned, sNat_eq_toInt, beq_false, Bool.not_eq_true', decide_eq_false_iff_not, ite_not]

/-- Of patterns of a width, the larger one may be chosen from either side. -/
theorem pickSigned_more_comm {x v w : Nat} (hx : x < 2 ^ w) (hv : v < 2 ^ w) :
    pickSigned x v w false = if (BitVec.ofNat w x).toInt < (BitVec.ofNat w v).toInt then v else x := by
  rw [pickSigned_more]
  split
  next h => rw [if_neg (by omega)]
  next h =>
    split
    · rfl
    next h' =>
      have he : BitVec.ofNat w v = BitVec.ofNat w x := BitVec.eq_of_toInt_eq (by omega)
      have hn := congrArg BitVec.toNat he
      rwa [BitVec.toNat_ofNat, BitVec.toNat_ofNat, Nat.mod_eq_of_lt hx, Nat.mod_eq_of_lt hv] at hn

end Sys2Proof.Machine

/-! ## Every atomic is one read and write, or one update of a partial (R171, R172) -/

namespace Sys2Proof.Machine
set_option Elab.async false

section
variable {i : Instr} {o : SM} {m : Amo} {s : State} (hsem : slotSem i = amoSem o m) (hx : (slotParts i).isSome = true) (hf : free (headOf i) s = true)
include hsem hx hf

theorem exec_amo (ha : (memOffset (found (headOf i) s) o.x o.off).toNat % 2 ^ o.w = 0)
    (hc : capCheck (found (headOf i) s) ((found (headOf i) s).getK o.k) (capHas ((found (headOf i) s).getK o.k) rAT)
      (memOffset (found (headOf i) s) o.x o.off) (2 ^ o.w) = none)
    (hh : accessHold o true (here i s) (judged (headOf i) s) = false) :
    exec i s = .next (issued i true s (doAmo o m (here i s)) none id) := by
  have he := SlotSem.Accesses.exec_eq (i := i) (s := s) (by rw [hsem]; exact amoSem_accesses o m) hx hf
    (by rw [hsem]; exact accessErr_none rfl ha hc) (by rw [hsem]; exact hh)
  rw [hsem] at he
  exact he

/-- An atomic outside commutative ranges (R171). -/
theorem amo_does {zext : Bool} {f : Nat → Nat → Nat → Nat} (hz : m.zext = zext)
    (hfun : ∀ x v a, x < 2 ^ (8 * 2 ^ o.w) → v < 2 ^ (8 * 2 ^ o.w) → m.f x v a (8 * 2 ^ o.w) % 2 ^ (8 * 2 ^ o.w) = f x v a % 2 ^ (8 * 2 ^ o.w)) : AtomicDoes i o s zext f := by
  unfold AtomicDoes
  intro c x k n pl u ha hc hh hcomm hpl
  have he := exec_amo hsem hx hf ha hc hh
  have hoff : smOff o ((here i s).ctx (issuing i true s)) = x := smOff_here i s o
  have hcap : smCap o ((here i s).ctx (issuing i true s)) = k := smCap_here i s o
  have hdst : ((here i s).ctx (issuing i true s)).dstS o.a = c.dstS o.a := by rw [here_ctx, ctx_issuing, atIssue_dstS]
  have hget (r : Nat) : ((here i s).ctx (issuing i true s)).getS r = c.getS r := by rw [here_ctx, ctx_issuing, atIssue_getS]
  have hpart : ((here i s).ctx (issuing i true s)).part = c.part := part_here i s
  have hpl' : place (issuing i true s) (here i s).core (here i s).slot (capOid (smCap o ((here i s).ctx (issuing i true s))))
      (smOff o ((here i s).ctx (issuing i true s))).toNat (widthBytes o.w) = .ok pl := by rw [hcap, hoff]; exact hpl
  have haccs : ((issuing i true s).ctx s.cur.1 s.cur.2).accs = c.accs := accs_here i s
  have hcm : commRange o (here i s) (issuing i true s) = none := by
    unfold commRange
    rw [hcap, hpart, hoff]
    rcases hcomm with h | h | h
    · rw [h]; rfl
    · rw [h, Bool.not_true, Bool.and_false]; rfl
    · split
      · refine Option.filter_eq_none_iff.mpr fun ob hob => ?_
        rw [h ob hob]
        exact Bool.noConfusion
      · rfl
  refine ⟨fun hdev hb hu => ?bytes, fun addr peer hhost hnew => ?host⟩
  case bytes =>
    have heff := doAmo_bytes (m := m) hcm hpl' hdev hb (u := u) (by rw [hu, hcap, hoff]; rfl)
    rw [hget, hget, hdst, hoff] at heff
    obtain ⟨v, hv⟩ : ∃ v, v = m.f (u.getAt pl n) ((c.getS o.v).toNat % 2 ^ (8 * n)) ((c.getS o.a).toNat % 2 ^ (8 * n)) (8 * n) % 2 ^ (8 * n) := ⟨_, rfl⟩
    obtain ⟨w, hw⟩ : ∃ w, w = throughAt (u.putAt pl n v) s.cur.1 s.cur.2 pl := ⟨_, rfl⟩
    have heff : doAmo o m (here i s) (issuing i true s) =
        answer (here i s) w (c.dstS o.a) ((loadValue (u.getAt pl n) n (n == 4 && !zext)).setWidth 512) 16 x (leavesCore o (here i s) (issuing i true s)) none := by
      rw [heff, hw, hv, hz]; rfl
    have hstill : Still (u.putAt pl n v) w := by rw [hw]; exact .throughAt ..
    have hkeep : KeepsCtx Ctx.accs (issuing i true s) w := by
      rw [hw]
      refine (KeepsCtx.trans ?_ (.putAt u pl n _)).trans (.throughAt (fun _ => rfl) ..)
      rw [hu]
      exact accs_touchAt ..
    have hcur : (doAmo o m (here i s) (issuing i true s)).cur = s.cur := by rw [heff, cur_answer, hkeep.cur]; rfl
    have hmem : (issued i true s (doAmo o m (here i s)) none id).mem = (u.putAt pl n v).mem := by rw [mem_issued, heff, mem_answer, hstill.mem]
    have hsram (k : Nat) : ((issued i true s (doAmo o m (here i s)) none id).core k).sram = ((u.putAt pl n v).core k).sram := by
      rw [sram_issued, heff, sram_answer, hstill.sram]
    refine ⟨_, answerOf (here i s) w (c.dstS o.a) ((loadValue (u.getAt pl n) n (n == 4 && !zext)).setWidth 512) 16 x
      (leavesCore o (here i s) (issuing i true s)) none, he, ?_, ?_, (keepsOtherBytes_putAt u pl n v).congr hmem hsram, rfl, rfl, rfl, rfl, ?_⟩
    · rw [accs_issued hcur, heff]
      exact (accs_answer (here i s) w _ _ 16 x _ none).trans (congrArg (· ++ _) ((hkeep.ctx _ _).trans haccs))
    · rw [getAt_congr hmem hsram, getAt_putAt u hdev, hv, Nat.mod_mod]
      exact hfun _ _ _ (getAt_lt u pl n) (Nat.mod_lt _ (Nat.two_pow_pos _))
    · rw [show (answerOf (here i s) w (c.dstS o.a) ((loadValue (u.getAt pl n) n (n == 4 && !zext)).setWidth 512) 16 x
        (leavesCore o (here i s) (issuing i true s)) none).val = (loadValue (u.getAt pl n) n (n == 4 && !zext)).setWidth 512 from rfl,
        BitVec.setWidth_setWidth_of_le _ (by decide), BitVec.setWidth_eq, loadValue]
      by_cases h4 : n = 4
      · cases zext
        · simp only [h4, beq_self_eq_true, Bool.not_false, Bool.and_self, if_true, and_self, sext64_eq_signExtend]
        · simp only [h4, beq_self_eq_true, Bool.not_true, Bool.and_false, Bool.false_eq_true, if_false, and_false, Bool.true_eq_false]
      · rw [if_neg (by simp [h4]), if_neg (fun h => h4 h.1)]
  case host =>
    subst hhost
    have heff := doAmo_host (m := m) hcm hpl'
    rw [hdst, hoff] at heff
    have hnew' : ∀ b ∈ Ctx.accs ((issuing i true s).ctx (here i s).core (here i s).slot), b.id ≠ ((issuing i true s).core (here i s).core).nextId := by
      rw [(here_core_slot i s).1, (here_core_slot i s).2, haccs, nextId_issuing]
      exact hnew
    have hmark := accs_marked (here i s) (issuing i true s) (c.dstS o.a) 0 16 x (leavesCore o (here i s) (issuing i true s)) (some 0x41)
      (fun b => { b with barred := true }) hnew'
    have hcur : (doAmo o m (here i s) (issuing i true s)).cur = s.cur := by rw [heff, bar, State.updCtx_cur, cur_answer]; rfl
    refine ⟨_, { answerOf (here i s) (issuing i true s) (c.dstS o.a) 0 16 x (leavesCore o (here i s) (issuing i true s)) (some 0x41) with barred := true },
      he, ?_, rfl, rfl, rfl, ?_⟩
    · rw [accs_issued hcur, heff]
      exact hmark.trans (congrArg (· ++ _) haccs)
    · rw [mem_issued, heff, bar, State.updCtx_mem, mem_answer]
      rfl

/-- An atomic on an element of a commutative range (R83, R172). -/
theorem amo_updates {cop : Nat} {fmt : Nat → Nat} (hop : m.cop = some cop) (hfmt : m.fmt (2 ^ o.w) = fmt (2 ^ o.w)) :
    CommutativeDoes i o s cop fmt := by
  unfold CommutativeDoes
  intro c x k n ob d pa ha hc hh hcm hspad hobj hcr hlen hentry hobcop hobfmt hpl hgood hwords htracked
  have he := exec_amo hsem hx hf ha hc hh
  have hoff : smOff o ((here i s).ctx (issuing i true s)) = x := smOff_here i s o
  have hcap : smCap o ((here i s).ctx (issuing i true s)) = k := smCap_here i s o
  have hdst : ((here i s).ctx (issuing i true s)).dstS o.a = c.dstS o.a := by rw [here_ctx, ctx_issuing, atIssue_dstS]
  have hget (r : Nat) : ((here i s).ctx (issuing i true s)).getS r = c.getS r := by rw [here_ctx, ctx_issuing, atIssue_getS]
  have hpart : ((here i s).ctx (issuing i true s)).part = c.part := part_here i s
  have haccs : ((issuing i true s).ctx s.cur.1 s.cur.2).accs = c.accs := accs_here i s
  have hbuf : ((issuing i true s).core s.cur.1).part = (s.core s.cur.1).part := by simp [issuing, setHand, State.setCtx, Core.setSlot]
  have hpl' : place (issuing i true s) (here i s).core (here i s).slot (capOid (smCap o ((here i s).ctx (issuing i true s))))
      (smOff o ((here i s).ctx (issuing i true s))).toNat (widthBytes o.w) = .ok (.dev d pa) := by rw [hcap, hoff]; exact hpl
  have hrange : commRange o (here i s) (issuing i true s) = some ob := by
    unfold commRange
    rw [hcap, hpart, hoff, hcm, hspad, Bool.not_false, Bool.and_self, if_pos rfl, show (issuing i true s).objOf c.part (capOid k) = some ob from hobj, Option.filter_some, if_pos]
    rw [hcr, show (issuing i true s).entryBad (dieOf (here i s).core) (capOid k) = false from hentry, Bool.true_and, Bool.not_false, Bool.and_true]
    exact decide_eq_true hlen
  have heff := doAmo_comm (m := m) hrange (by rw [hop, hobcop]) (by rw [hobfmt]; exact hfmt) hpl' (by rw [(here_core_slot i s).1, hbuf]; exact hgood) rfl
  rw [hdst, hoff, hget, hcap] at heff
  obtain ⟨u, e, hmove, hstill, hed, hea, hu⟩ := commUpdate_room (issuing i true s) s.cur.1 s.cur.2 ob (capOid k)
    (pageNo (issuing i true s) s.cur.1 s.cur.2 (capOid k) x.toNat) d pa ((c.getS o.v).toNat % 2 ^ (8 * n)) ((here i s).ctx (issuing i true s)).time
    (by rw [hbuf]; exact hwords) htracked
  obtain ⟨r, hr⟩ : ∃ r, r = commUpdate (issuing i true s) s.cur.1 s.cur.2 ob (capOid k)
    (pageNo (issuing i true s) s.cur.1 s.cur.2 (capOid k) x.toNat) d pa ((c.getS o.v).toNat % 2 ^ (8 * n)) ((here i s).ctx (issuing i true s)).time := ⟨_, rfl⟩
  obtain ⟨w, hw⟩ : ∃ w, w = r.1.updCtx s.cur.1 s.cur.2 (fun c => { c with time := max c.time r.2 }) := ⟨_, rfl⟩
  have heff : doAmo o m (here i s) (issuing i true s) =
      answer (here i s) w (c.dstS o.a) 0 16 x (leavesCore o (here i s) (issuing i true s)) none := by rw [heff, hw, hr]; rfl
  rw [← hr] at hu
  have hkeep : KeepsCtx Ctx.accs (issuing i true s) w := by
    rw [hw, hu]
    exact (hmove.meters.keeps.trans (.updCore _ _ _)).trans (.updCtx _ _ _ _)
  have hsame : Still u w := by rw [hw, hu]; exact (Still.updCore u _ _ rfl).trans (.updCtx ..)
  have hcur : (doAmo o m (here i s) (issuing i true s)).cur = s.cur := by rw [heff, cur_answer, hkeep.cur]; rfl
  have hpartial : ((issued i true s (doAmo o m (here i s)) none id).core s.cur.1).part =
      updPartial (s.core s.cur.1).part e ob.cfmt ob.cop ((c.getS o.v).toNat % 2 ^ (8 * n)) := by
    have hold : (u.core s.cur.1).part = (s.core s.cur.1).part := by
      have h := congrArg Core.part (hmove.core s.cur.1)
      exact Eq.trans h hbuf
    rw [coreProj_issued Core.part fun _ => rfl, heff, partials_answer, hw, hu, partials_updCtx, State.core_updCore, hold]
  obtain ⟨⟨n', hin, hdie, haddr, hval⟩, hothers⟩ := mem_updPartial (s.core s.cur.1).part e ob.cfmt ob.cop ((c.getS o.v).toNat % 2 ^ (8 * n))
  rw [hed] at hdie hval hothers
  rw [hea] at haddr hval hothers
  refine ⟨_, answerOf (here i s) w (c.dstS o.a) 0 16 x (leavesCore o (here i s) (issuing i true s)) none,
    n', he, ?_, ?_, fun core => ?_, rfl, rfl, rfl, rfl, rfl, by rw [hpartial]; exact hin, hdie, haddr, ?_, ?_⟩
  · rw [accs_issued hcur, heff]
    exact (accs_answer (here i s) w _ _ 16 x _ none).trans (congrArg (· ++ _) ((hkeep.ctx _ _).trans haccs))
  · rw [mem_issued, heff, mem_answer, hsame.mem, hstill.mem]
    rfl
  · rw [sram_issued, heff, sram_answer, hsame.sram, hstill.sram]
    exact (Still.updCtx s s.cur.1 s.cur.2 fun _ => atIssue i true s).sram core
  · rw [← hobcop]
    exact hval
  · rw [hpartial]
    exact hothers

end

/-- Settles O14: each atomic is an instance of the one read and write, or of the one update. -/
theorem atomics : Obligations.Atomics := by
  unfold Obligations.Atomics
  intro h o s hf _ n m signed
  have hint (mm : Amo) (hm : mm.float = false) : mm.fmt (2 ^ o.w) = if 2 ^ o.w = 4 then 2 else 3 := by
    rw [Amo.fmt, hm]
    rfl
  refine ⟨?add, fun hw => ?fadd, ?min, ?max, ?minz, ?maxz, ?and, ?or, ?xor, ?swap, ?cas, ?cadd, ?cmin, ?cmax, fun hw => ?cfadd⟩
  case add => exact amo_does (i := .amoAdd h o) rfl rfl hf rfl fun x v a _ _ => (Nat.mod_mod _ _).symm
  case fadd => exact amo_does (i := .amoFadd h o) rfl rfl hf rfl fun x v a _ _ => rfl
  case min => exact amo_does (i := .amoMin h o) rfl rfl hf rfl fun x v a _ _ => congrArg (· % _) (pickSigned_less x v _)
  case max => exact amo_does (i := .amoMax h o) rfl rfl hf rfl fun x v a hx hv => congrArg (· % _) (pickSigned_more_comm hx hv)
  case minz => exact amo_does (i := .amoMinz h o) rfl rfl hf rfl fun x v a _ _ => rfl
  case maxz => exact amo_does (i := .amoMaxz h o) rfl rfl hf rfl fun x v a _ _ => rfl
  case and => exact amo_does (i := .amoAnd h o) rfl rfl hf rfl fun x v a _ _ => rfl
  case or => exact amo_does (i := .amoOr h o) rfl rfl hf rfl fun x v a _ _ => rfl
  case xor => exact amo_does (i := .amoXor h o) rfl rfl hf rfl fun x v a _ _ => rfl
  case swap => exact amo_does (i := .amoSwap h o) rfl rfl hf rfl fun x v a _ _ => rfl
  case cas => exact amo_does (i := .amoCas h o) rfl rfl hf rfl fun x v a _ _ => rfl
  case cadd => exact amo_updates (i := .amoAdd h o) rfl rfl hf rfl (hint _ rfl)
  case cmin => exact amo_updates (i := .amoMin h o) rfl rfl hf rfl (hint _ rfl)
  case cmax => exact amo_updates (i := .amoMax h o) rfl rfl hf rfl (hint _ rfl)
  case cfadd => exact amo_updates (i := .amoFadd h o) rfl rfl hf rfl rfl

end Sys2Proof.Machine

/-! ## A pattern load beside an older access of its number (R237) -/

namespace Sys2Proof.Machine
set_option Elab.async false

/-- An access on its way that has the number which its core gives to the next one. -/
def oldAccess : Acc :=
  { id := 0, dst := .nothing, val := 0, minLat := 1, seq := 0, tag := 0, waddr := 0, off := 0, leaves := false, pcie := false, width := 0, sgn := false,
    fault := none, sl := 0, k := 0, sup := false }

/-- A Ready context with that access, and a capability to read through an object that does not exist in k2. -/
def numberedCtx : Ctx := { st := .ready, a := { k := [(2, BitVec.ofNat 128 (5 + 2 ^ 24 + 2 ^ 90))] }, accs := [oldAccess] }

def numberedState : State := State.reset.setCtx 0 0 numberedCtx

/-- `cp.pat` of the bytes at offset 0 of k2 into entry 0. -/
def patternCopy : Instr :=
  .cpPat { slot := .C0, pd := 0, atag := 1, w0 := 0, w1 := 0, pneg := 0, pidx := 0 } { t := 0, k := 2, x := 0, y := 0, off := 0, con := 0, pat := 0, r := 0 }

theorem patternCopy_passes : free (headOf patternCopy) numberedState = true ∧ passes patternCopy numberedState = true := by decide +kernel

/-- The failing load marks the older access too as one that did not pass its port checks. -/
theorem patternCopy_marks : (match exec patternCopy numberedState with
    | .next t => (hand t).accs.head?.map Acc.barred
    | _ => none) = some true := by decide +kernel

theorem found_numbered : (found (headOf patternCopy) numberedState).accs.head?.map Acc.barred = some false := by decide +kernel

/-- Refutes O30: a pattern load that fails its port checks is marked by its number, which in this state an older access has
too: the accesses of the context are not as they were. -/
theorem not_copyControl : ¬ Obligations.CopyControl := by
  unfold Obligations.CopyControl
  intro h
  obtain ⟨hfree, hpasses⟩ := patternCopy_passes
  obtain ⟨hpat, -⟩ := h _ _ numberedState hfree
  obtain ⟨t, a, ht, -, haccs, -⟩ := hpat hpasses
  have hmark := patternCopy_marks
  have hold := found_numbered
  rw [show exec patternCopy numberedState = .next t from ht] at hmark
  dsimp only at hmark
  rw [show (hand t).accs = (found (headOf patternCopy) numberedState).accs ++ [a] from haccs] at hmark
  generalize (found (headOf patternCopy) numberedState).accs = l at hmark hold
  cases l with
  | nil => exact absurd hold (by decide)
  | cons b r =>
    rw [List.cons_append, List.head?_cons] at hmark
    exact absurd (hmark.symm.trans hold) (by decide)

end Sys2Proof.Machine

/-! ## Claims: one is served and lands (R45, R46, R262) -/

namespace Sys2Proof.Machine
set_option Elab.async false

section
variable {a : Arch} {x : Claim}

theorem landClaims_one (ha : a.claims = [x]) (hd : x.due = true) : a.landClaims = { a.landClaim x with claims := [] } := by
  simp only [Arch.landClaims, ha, List.filter_cons, hd, if_true, List.filter_nil, List.foldl_cons, List.foldl_nil, Bool.not_true, Bool.false_eq_true,
    if_false]

/-- What a claim writes into its hand-off register (R262). -/
def Claim.word (x : Claim) : BitVec 512 := BitVec.ofNat 512 (x.lo % 2 ^ 32 + x.hi % 2 ^ 32 * 2 ^ 32)

theorem landClaim_eq : a.landClaim x = if x.tag = 0 then a.putSeq (.h x.h) x.word x.seq
    else { a.putSeq (.h x.h) x.word x.seq with tg := (a.putSeq (.h x.h) x.word x.seq).tg.set x.tag ((a.putSeq (.h x.h) x.word x.seq).tg.get x.tag 0 - 1) 0 } := rfl

theorem putSeq_h_keeps (n : Nat) (v : BitVec 512) (seq : Nat) : (a.putSeq (.h n) v seq).s = a.s ∧ (a.putSeq (.h n) v seq).tg = a.tg := by
  unfold Arch.putSeq
  split <;> exact ⟨rfl, rfl⟩

theorem s_landClaim : (a.landClaim x).s = a.s := by
  obtain ⟨hs, -⟩ := putSeq_h_keeps (a := a) x.h x.word x.seq
  rw [landClaim_eq]
  split <;> exact hs

theorem tg_landClaim (ht : x.tag ≠ 0) : (a.landClaim x).tg.get x.tag 0 = a.tg.get x.tag 0 - 1 := by
  obtain ⟨-, htg⟩ := putSeq_h_keeps (a := a) x.h x.word x.seq
  rw [landClaim_eq, if_neg ht]
  dsimp only
  rw [Tab.get_set_same, htg]

theorem h_landClaim (hl : a.lastw.get (88 + x.h) 0 ≤ x.seq) :
    (a.landClaim x).h.get x.h 0 = .ofNat 64 (x.lo % 2 ^ 32 + x.hi % 2 ^ 32 * 2 ^ 32) := by
  have hh : (a.putSeq (.h x.h) x.word x.seq).h.get x.h 0 = .ofNat 64 (x.lo % 2 ^ 32 + x.hi % 2 ^ 32 * 2 ^ 32) := by
    rw [Arch.h_putSeq a x.word x.seq x.h hl]
    exact BitVec.setWidth_ofNat_of_le (by decide) _
  rw [landClaim_eq]
  split <;> exact hh

theorem landClaim_claims (l : List Claim) : { Arch.landClaim { a with claims := l } x with claims := [] } = { a.landClaim x with claims := [] } := by
  have hp (v : BitVec 512) : { Arch.putSeq { a with claims := l } (.h x.h) v x.seq with claims := [] } = { a.putSeq (.h x.h) v x.seq with claims := [] } := by
    unfold Arch.putSeq
    dsimp only
    split <;> rfl
  have htg (v : BitVec 512) : (Arch.putSeq { a with claims := l } (.h x.h) v x.seq).tg = (a.putSeq (.h x.h) v x.seq).tg := by
    rw [(putSeq_h_keeps ..).2, (putSeq_h_keeps ..).2]
  rw [landClaim_eq, landClaim_eq]
  generalize x.word = v
  split
  · exact hp v
  · rw [htg]
    exact congrArg (fun b : Arch => { b with tg := (a.putSeq (.h x.h) v x.seq).tg.set x.tag ((a.putSeq (.h x.h) v x.seq).tg.get x.tag 0 - 1) 0 }) (hp v)

end

/-- A context whose one claim has landed. -/
def Ctx.claimLanded (c : Ctx) (x : Claim) : Ctx := { c with a := { c.a.landClaim x with claims := [] } }

section
variable {s : State} {core slot : Nat} {x : Claim} (hc : (s.ctx core slot).a.claims = [x]) (hv : x.valid = true)
include hc hv

/-- A served claim lands, and ends a wait on its tag. -/
theorem nextLanding_lands (hs : x.served = true) (hsup : (s.ctx core slot).sup = false)
    (hst : (s.ctx core slot).st = .ready ∧ x.left = 0 ∨ (s.ctx core slot).st = .waiting ∧ (s.ctx core slot).wait = .claim x.tag) :
    ∃ (y : Claim) (w : Wait), y = { x with left := 0 } ∧ (if (s.ctx core slot).sup then s.ctx core slot else
      if (s.ctx core slot).claimsRun then landOldest (s.ctx core slot) else { s.ctx core slot with a := (s.ctx core slot).a.landClaims }) =
      { (s.ctx core slot).claimLanded y with st := .ready, wait := w } ∧ (w = .none ∨ w = (s.ctx core slot).wait) := by
  obtain ⟨c, hcc⟩ : ∃ c, c = s.ctx core slot := ⟨_, rfl⟩
  rw [← hcc] at hc hsup hst ⊢
  rw [hsup, if_neg Bool.false_ne_true]
  rcases hst with ⟨hr, hl⟩ | ⟨hw, hwait⟩
  · refine ⟨x, c.wait, by rw [← hl], ?_, .inr rfl⟩
    have hrun : c.claimsRun = false := by rw [Ctx.claimsRun, hr]; rfl
    rw [hrun, if_neg Bool.false_ne_true, landClaims_one hc (by rw [Claim.due, hv, hs, hl]; rfl), ← hr]
    rfl
  · refine ⟨{ x with left := 0 }, .none, rfl, ?_, .inl rfl⟩
    have hrun : c.claimsRun = true := by rw [Ctx.claimsRun, hw, hwait]; rfl
    have hfind : c.a.claims.find? (·.valid) = some x := by rw [hc, List.find?_cons, hv]
    have hland : Arch.landClaims { c.a with claims := c.a.claims.map (fun y => { y with left := y.left - x.left }) } =
        { Arch.landClaim { c.a with claims := [{ x with left := 0 }] } { x with left := 0 } with claims := [] } := by
      rw [hc, List.map_singleton, Nat.sub_self]
      exact landClaims_one rfl (by rw [Claim.due, hv, hs]; rfl)
    rw [hrun, if_pos rfl, landOldest, hfind]
    dsimp only
    have hover : Ctx.claimOver { c with a := { Arch.landClaim { c.a with claims := [{ x with left := 0 }] } { x with left := 0 } with claims := [] } } = true := by
      simp only [Ctx.claimOver, hw, hwait, List.any_nil, Bool.not_false]
    rw [hs, if_neg (by decide), hland, if_pos hover, landClaim_claims]
    rfl

end

/-! ### Claims of a range -/

theorem team_setTeam (s : State) (t : Nat) (v : Option Team) : (s.setTeam t v).team t = v := Tab.get_set_same ..

section
variable {s : State} {core slot : Nat} {x : Claim}

/-- The claim that `serveClaim` gives [lo, hi) to. -/
def Ctx.claimServed (c : Ctx) (x : Claim) (lo hi : Nat) (play : List (Nat × Nat)) : Ctx :=
  let note (a : Arch) : Arch := { a with claims := a.claims.map (fun z => if z.is x then { z with served := true, lo := lo, hi := hi } else z) }
  { c with a := note c.a, sh0 := c.sh0.map (fun h => { h with arch := note h.arch }), sh1 := c.sh1.map (fun h => { h with arch := note h.arch }),
           playClaims := play, recClaims := if c.fixOpen || c.win then c.recClaims ++ [(x.seq, lo, hi)] else c.recClaims }

theorem claims_claimServed {c : Ctx} (hc : c.a.claims = [x]) (hv : x.valid = true) (hs : x.served = false) (lo hi : Nat) (play : List (Nat × Nat)) :
    (c.claimServed x lo hi play).a.claims = [{ x with served := true, lo := lo, hi := hi }] := by
  have his : x.is x = true := by simp [Claim.is, hv, hs]
  simp only [Ctx.claimServed, hc, List.map_singleton, his, if_true]

theorem unserved_one {c : Ctx} (hc : c.a.claims = [x]) (hv : x.valid = true) (hs : x.served = false) : c.unserved = some x := by
  rw [Ctx.unserved, hc, List.find?_cons, hv, hs]
  rfl

/-- The first claim not served takes what a rollback left to replay, else the next grain of its team's range. -/
theorem serveClaim_play {lo hi : Nat} {r : List (Nat × Nat)} (hu : (s.ctx core slot).unserved = some x) (hp : (s.ctx core slot).playClaims = (lo, hi) :: r) :
    serveClaim s core slot = s.setCtx core slot ((s.ctx core slot).claimServed x lo hi r) := by
  unfold serveClaim
  dsimp only
  rw [hu, hp]
  rfl

theorem serveClaim_range {tm : Team} {k : Task} {f e : Nat} (hu : (s.ctx core slot).unserved = some x) (hp : (s.ctx core slot).playClaims = [])
    (ht : s.team (s.ctx core slot).team = some tm) (hr : tm.rangeE = some (f, e)) (hk : s.task tm.task = some k) :
    serveClaim s core slot = (s.setTeam (s.ctx core slot).team (some { tm with rangeE := some (min (f + k.grain) e, e) })).setCtx core slot
      ((s.ctx core slot).claimServed x f (min (f + k.grain) e) []) := by
  unfold serveClaim
  dsimp only
  rw [hu, hp, ht]
  dsimp only
  rw [hr, hk]
  rfl

theorem serveClaim_noRange {tm : Team} (hu : (s.ctx core slot).unserved = some x) (hp : (s.ctx core slot).playClaims = [])
    (ht : s.team (s.ctx core slot).team = some tm) (hr : tm.rangeE = none) :
    serveClaim s core slot = s.setCtx core slot ((s.ctx core slot).claimServed x 0 0 []) := by
  unfold serveClaim
  dsimp only
  rw [hu, hp, ht]
  dsimp only
  rw [hr]
  rfl

/-- The one claimant is served. -/
theorem exec_rangeClaim (h : claimants s = [(core, slot)]) : exec .rangeClaim s = .next (serveClaim s.draw core slot) := by
  have hturn : claimTurn s (core, slot) = true := by
    rw [claimTurn, h, List.any_cons, List.any_nil, Bool.or_false, Bool.not_eq_true', Bool.and_eq_false_iff]
    refine .inr ?_
    cases (s.ctx core slot).unserved with
    | none => rfl
    | some y => exact decide_eq_false (lt_irrefl _)
  show execRangeClaim s = _
  unfold execRangeClaim
  dsimp only
  rw [h, List.filter_cons, hturn, if_pos rfl, List.filter_nil, List.length_singleton, Nat.max_self, Nat.mod_one]
  rfl

end

/-- Settles O42: a landing moves one claim into its register, and serving one takes what it replays, else a grain. -/
theorem claimsAndLandings : Obligations.ClaimsAndLandings := by
  unfold Obligations.ClaimsAndLandings
  intro s core slot x c hc hv
  refine ⟨fun hs hsup hstays hst => ?land, fun hs hone => ?serve⟩
  case land =>
    obtain ⟨y, w, hy, hd, hw⟩ := nextLanding_lands hc hv hs hsup hst
    have hexec : exec (.nextLanding core slot) s = .next (afterOp (s.setCtx core slot { c.claimLanded y with st := .ready, wait := w }) core slot) := by
      rw [← hd]
      rfl
    have hctx := s.ctx_setCtx core slot { c.claimLanded y with st := .ready, wait := w }
    have hstays' : stays ((s.setCtx core slot { c.claimLanded y with st := .ready, wait := w }).ctx core slot) = true := by
      rw [hctx]
      rcases hw with rfl | rfl
      · rfl
      · simp only [stays, Bool.and_eq_true] at hstays ⊢
        exact ⟨⟨rfl, rfl⟩, hstays.2⟩
    rw [afterOp_stays hstays'] at hexec
    refine ⟨_, hexec, ?_⟩
    dsimp only
    rw [ctx_noteEnding, hctx]
    subst hy
    exact ⟨rfl, rfl, fun ht => tg_landClaim (a := c.a) (x := { x with left := 0 }) ht, s_landClaim, fun hl => h_landClaim (a := c.a) (x := { x with left := 0 }) hl⟩
  case serve =>
    have hu : (s.draw.ctx core slot).unserved = some x := unserved_one hc hv hs
    have hgive (lo hi : Nat) (r : List (Nat × Nat)) : (c.claimServed x lo hi r).a.claims = [{ x with served := true, lo := lo, hi := hi }] :=
      claims_claimServed hc hv hs lo hi r
    refine ⟨_, exec_rangeClaim hone, fun lo hi r hp => ?_, fun hp => ⟨fun tm k f e ht hr hk => ?_, fun tm ht hr => ?_⟩⟩
    · rw [serveClaim_play hu hp, State.ctx_setCtx]
      exact ⟨hgive lo hi r, rfl⟩
    · rw [serveClaim_range hu hp ht hr hk, State.ctx_setCtx]
      refine ⟨hgive f _ [], ?_⟩
      exact congrArg (Option.map (·.rangeE)) (team_setTeam s.draw c.team (some { tm with rangeE := some (min (f + k.grain) e, e) }))
    · rw [serveClaim_noRange hu hp ht hr, State.ctx_setCtx]
      exact hgive 0 0 []

end Sys2Proof.Machine

/-! ## The end of a droop-check window (R251, R272, R308) -/

namespace Sys2Proof.Machine
set_option Elab.async false

/-- What of a context a release of gated items leaves: its registers, its place and its regions. -/
def Ctx.regions (c : Ctx) : Arch × SlotSt × Wait × Bool × Bool × Nat × Option Shadow × Option Shadow × Bool × Nat × Nat × Nat :=
  (c.a, c.st, c.wait, c.win, c.fixOpen, c.fixCur, c.sh0, c.sh1, c.markDue, c.iss, c.team, c.time)

section
variable {c d : Ctx} (h : c.regions = d.regions)
include h

theorem Ctx.of_regions : c.a = d.a ∧ c.st = d.st ∧ c.wait = d.wait ∧ c.win = d.win ∧ c.fixOpen = d.fixOpen ∧ c.fixCur = d.fixCur ∧ c.sh0 = d.sh0 ∧
    c.sh1 = d.sh1 ∧ c.markDue = d.markDue ∧ c.iss = d.iss ∧ c.team = d.team ∧ c.time = d.time := by
  simpa only [Ctx.regions, Prod.mk.injEq] using h

theorem openSeq_of_regions : c.openSeq = d.openSeq := by
  obtain ⟨-, -, -, -, hopen, hcur, h0, h1, -, hiss, -, -⟩ := Ctx.of_regions h
  have hset : c.openSet = d.openSet := hcur
  have hsh : c.shadow = d.shadow := by funext i; rw [Ctx.shadow, Ctx.shadow, h0, h1]
  rw [Ctx.openSeq, Ctx.openSeq, hopen, hset, hsh, hiss]

theorem stays_of_regions : stays c = stays d := by
  obtain ⟨-, hst, hw, -⟩ := Ctx.of_regions h
  rw [stays, stays, hst, hw]

end

/-! ### Releases -/

theorem regions_sendMsg (s : State) (f : Flight) : KeepsCtx Ctx.regions s (sendMsg s f) := by
  unfold sendMsg
  split
  next p _ =>
    exact (KeepsCtx.updCtx s p.1 p.2 (fun c => { c with qres := c.qres.set f.q (c.reserved f.q + 1) 0 })).trans (.congr rfl rfl)
  next => exact .congr rfl rfl

theorem regions_askDesc (s : State) (e : Enq) : KeepsCtx Ctx.regions s (askDesc s e) := by
  unfold askDesc
  dsimp only
  generalize List.filterMap _ (descPieces s e) = hosts
  have hask : KeepsCtx Ctx.regions s (hosts.foldl (fun s h => s.askHost (s.ctx e.core e.slot).part h.1 h.2 32) s) :=
    .foldl _ (fun s h => .askHost s _ _ _ _) _ _
  split
  · exact .congr rfl rfl
  · exact hask.trans (.congr rfl rfl)

theorem regions_releaseItem {s t : State} {core slot : Nat} {g : Gated} (h : releaseItem s core slot g = some t) : KeepsCtx Ctx.regions s t := by
  cases g with
  | arrive => exact Option.some.inj h ▸ .congr rfl rfl
  | enqt => exact Option.some.inj h ▸ regions_askDesc ..
  | enqm seq dst tag tidx q ack payload =>
    unfold releaseItem at h
    dsimp only at h
    split at h
    · refine Option.some.inj h ▸ ?_
      split
      · exact regions_sendMsg ..
      · exact (regions_sendMsg ..).trans (.updCtx _ _ _ _)
    · exact absurd h (by simp)

theorem regions_releaseItems (core slot : Nat) (l : List Gated) (s : State) : KeepsCtx Ctx.regions s (releaseItems s core slot l) := by
  induction l generalizing s with
  | nil => exact .refl s
  | cons g r ih =>
    unfold releaseItems
    split
    · split
      next t ht => exact (regions_releaseItem ht).trans ((KeepsCtx.updCtx t core slot _).trans (ih _))
      next => exact .refl s
    · exact .refl s

/-- The items and operations issued before this own issue are released. -/
def releaseBefore (s : State) (core slot : Nat) : Nat :=
  let c := s.ctx core slot
  ((c.gatedItems.map (·.seq)) ++ [c.releaseLim]).foldl min c.releaseLim

theorem releaseGated_eq (s : State) (core slot : Nat) : releaseGated s core slot =
    (releaseItems s core slot (s.ctx core slot).gatedItems).updCore core (fun k => { k with ops := k.ops.map (fun o =>
      if o.slot == slot && decide (o.seq < releaseBefore (releaseItems s core slot (s.ctx core slot).gatedItems) core slot) then { o with gated := false } else o) }) := rfl

theorem lt_foldl_min {a : Nat} (l : List Nat) {b : Nat} (hb : a < b) (hl : ∀ x ∈ l, a < x) : a < l.foldl min b := by
  induction l generalizing b with
  | nil => exact hb
  | cons x r ih => exact ih (lt_min hb (hl x (List.mem_cons_self ..))) fun y hy => hl y (List.mem_cons_of_mem _ hy)

/-- Where no window runs, what was issued before the open region, and before every item that stays gated, is released. -/
theorem releaseGated_ops {s : State} {core slot : Nat} (hw : (s.ctx core slot).win = false) :
    ∀ o ∈ ((releaseGated s core slot).core core).ops, o.slot = slot → o.seq < (s.ctx core slot).openSeq →
      (∀ g ∈ ((releaseGated s core slot).ctx core slot).gatedItems, o.seq < g.seq) → o.gated = false := by
  obtain ⟨u, hu⟩ : ∃ u, u = releaseItems s core slot (s.ctx core slot).gatedItems := ⟨_, rfl⟩
  have hreg : (u.ctx core slot).regions = (s.ctx core slot).regions := by rw [hu]; exact (regions_releaseItems core slot _ s).ctx ..
  obtain ⟨-, -, -, hwin, -⟩ := Ctx.of_regions hreg
  have hitems : ((releaseGated s core slot).ctx core slot).gatedItems = (u.ctx core slot).gatedItems := by
    rw [releaseGated_eq, ← hu]
    exact (KeepsCtx.updCore (g := Ctx.gatedItems) u core _).ctx ..
  intro o ho hslot hseq hbefore
  rw [hitems] at hbefore
  rw [releaseGated_eq, ← hu, State.core_updCore] at ho
  obtain ⟨y, -, rfl⟩ := List.mem_map.mp ho
  have hlim : (u.ctx core slot).releaseLim = (s.ctx core slot).openSeq := by
    rw [Ctx.releaseLim, hwin, hw, if_neg Bool.false_ne_true, openSeq_of_regions hreg]
  split
  · rfl
  next hn =>
    rw [if_neg hn] at hslot hseq hbefore
    refine absurd ?_ hn
    have hlt : y.seq < releaseBefore u core slot := by
      unfold releaseBefore
      dsimp only
      rw [hlim]
      refine lt_foldl_min _ hseq fun x hx => ?_
      rcases List.mem_append.mp hx with h | h
      · obtain ⟨g, hg, rfl⟩ := List.mem_map.mp h
        exact hbefore g hg
      · rw [List.mem_singleton.mp h]; exact hseq
    rw [hslot, beq_self_eq_true, Bool.true_and]
    exact decide_eq_true hlt

theorem regions_releaseGated (s : State) (core slot : Nat) : KeepsCtx Ctx.regions s (releaseGated s core slot) := by
  rw [releaseGated_eq]
  exact (regions_releaseItems core slot _ s).trans (.updCore _ _ _)

/-! ### The window -/

/-- A context whose window has ended without fog. -/
def Ctx.windowOver (c : Ctx) : Ctx :=
  let own := (c.shadow c.closedSet).map (·.mark)
  { c.setShadow c.closedSet none with
    win := false, recClaims := c.recClaims.filter (fun r => decide (c.openSeq ≤ r.1)), recMsgs := c.recMsgs.filter (fun r => decide (c.openSeq ≤ r.1)),
    fogRun := if c.fogMark = own then 0 else c.fogRun, fogMark := if c.fogMark = own then none else c.fogMark,
    fogSilent := if c.fogMark = own then 0 else c.fogSilent }

section
variable (c : Ctx)

theorem setShadow_keeps (i : Nat) : (c.setShadow i none).a = c.a ∧ (c.setShadow i none).fixOpen = c.fixOpen ∧ (c.setShadow i none).fixCur = c.fixCur ∧
    (c.setShadow i none).markDue = c.markDue ∧ (c.setShadow i none).st = c.st ∧ (c.setShadow i none).wait = c.wait ∧ (c.setShadow i none).iss = c.iss ∧
    (c.setShadow i none).gatedItems = c.gatedItems ∧ (c.setShadow i none).team = c.team ∧ (c.setShadow i none).time = c.time := by
  unfold Ctx.setShadow
  split <;> exact ⟨rfl, rfl, rfl, rfl, rfl, rfl, rfl, rfl, rfl, rfl⟩

theorem shadow_setShadow (i : Nat) : (c.setShadow i none).shadow i = none := by
  unfold Ctx.setShadow Ctx.shadow
  split <;> rfl

theorem shadow_windowOver (i : Nat) : c.windowOver.shadow i = (c.setShadow c.closedSet none).shadow i := rfl

theorem openSeq_windowOver : c.windowOver.openSeq = c.openSeq := by
  obtain ⟨-, hopen, hcur, -, -, -, hiss, -⟩ := setShadow_keeps c c.closedSet
  have hopen' : c.windowOver.fixOpen = c.fixOpen := hopen
  have hset : c.windowOver.openSet = c.openSet := hcur
  have hiss' : c.windowOver.iss = c.iss := hiss
  rw [Ctx.openSeq, Ctx.openSeq, hopen', hiss', hset, shadow_windowOver]
  cases ho : c.fixOpen with
  | false => rfl
  | true =>
    have hother : (c.setShadow c.closedSet none).shadow c.openSet = c.shadow c.openSet := by
      unfold Ctx.setShadow Ctx.closedSet Ctx.openSet Ctx.shadow
      rw [ho, if_pos rfl]
      by_cases h0 : c.fixCur = 0
      · rw [h0]; rfl
      · rw [if_neg h0]
        by_cases h1 : 1 - c.fixCur = 0
        · rw [if_pos h1, if_neg h0]
        · omega
    rw [hother]

end

/-- The end of a window that runs (R308). -/
theorem windowEnd_eq {s : State} {core slot : Nat} (hw : (s.ctx core slot).win = true) (hm : (s.ctx core slot).markDue = false) :
    windowEnd s core slot = releaseGated (s.setCtx core slot (s.ctx core slot).windowOver) core slot := by
  have heq : windowEnd s core slot =
      (let t := releaseGated (if (s.ctx core slot).win then s.setCtx core slot (s.ctx core slot).windowOver else s) core slot
       if (t.ctx core slot).markDue && (t.ctx core slot).st == .waiting && (t.ctx core slot).fixOpen then t.setCtx core slot (t.ctx core slot).mark else t) := rfl
  have hover : (s.ctx core slot).windowOver.markDue = false := (setShadow_keeps _ _).2.2.2.1.trans hm
  have hdue : ((releaseGated (s.setCtx core slot (s.ctx core slot).windowOver) core slot).ctx core slot).markDue = false := by
    have hreg := (regions_releaseGated (s.setCtx core slot (s.ctx core slot).windowOver) core slot).ctx core slot
    obtain ⟨-, -, -, -, -, -, -, -, hdue, -⟩ := Ctx.of_regions hreg
    rw [hdue, State.ctx_setCtx, hover]
  rw [heq, hw, if_pos rfl]
  dsimp only
  rw [hdue, Bool.false_and, Bool.false_and, if_neg Bool.false_ne_true]

theorem releaseItems_nil (s : State) (core slot : Nat) : releaseItems s core slot [] = s := rfl

/-- A gated arrival from before the open region sets out. -/
theorem releaseItems_arrive {s : State} {core slot n seq tag : Nat} {dst : Dst} {aw : Bool} (h : seq < (s.ctx core slot).releaseLim) :
    releaseItems s core slot [.arrive n seq dst tag aw] = State.updCtx { s with arrs := s.arrs ++ [{ core := core, n := n, from' := core, slot := slot, team := (s.ctx core slot).team, time := (s.ctx core slot).time, for' := if aw then .await else .token dst seq tag }] }
      core slot (fun c => { c with gatedItems := [] }) := by
  rw [releaseItems, if_pos (show (Gated.arrive n seq dst tag aw).seq < _ from h)]
  rfl

theorem noteEnding_keeps (s : State) (t : Nat) : (noteEnding s t).arrs = s.arrs ∧ (noteEnding s t).flights = s.flights ∧ (noteEnding s t).enqs = s.enqs ∧
    (noteEnding s t).cores = s.cores := by
  unfold noteEnding
  split <;> exact ⟨rfl, rfl, rfl, rfl⟩

/-- Settles O43: the closed region's shadow set is freed, and the release of what it gated touches no region and no register. -/
theorem windowEnds : Obligations.WindowEnds := by
  unfold Obligations.WindowEnds
  intro s core slot c hw hm hstays
  obtain ⟨u, hu⟩ : ∃ u, u = s.setCtx core slot c.windowOver := ⟨_, rfl⟩
  have huctx : u.ctx core slot = c.windowOver := by rw [hu, State.ctx_setCtx]
  obtain ⟨v, hv⟩ : ∃ v, v = releaseGated u core slot := ⟨_, rfl⟩
  have hreg : (v.ctx core slot).regions = c.windowOver.regions := by
    rw [hv, (regions_releaseGated u core slot).ctx, huctx]
  obtain ⟨ka, kopen, kcur, kdue, kst, kwait, kiss, kitems, kteam, ktime⟩ := setShadow_keeps c c.closedSet
  obtain ⟨ha, hst, hwait, hwin, hopen, hcur, h0, h1, -⟩ := Ctx.of_regions hreg
  have hvstays : stays (v.ctx core slot) = true := by
    rw [stays, hst, hwait]
    exact (congrArg₂ (fun (x : SlotSt) (y : Wait) => x != .ending && x != .ended && y != .ctxout) kst kwait).trans hstays
  have hexec : exec (.droopWindowEnd core slot) s = .next (noteEnding v (v.ctx core slot).team) := by
    have he : windowEnd s core slot = v := by rw [windowEnd_eq hw hm, hv, hu]
    show execDroopWindowEnd core slot s = _
    rw [execDroopWindowEnd, he, afterOp_stays hvstays]
  obtain ⟨harrs, hflights, henqs, hcores⟩ := noteEnding_keeps v (v.ctx core slot).team
  have hshadow (i : Nat) : (v.ctx core slot).shadow i = (c.setShadow c.closedSet none).shadow i := by
    rw [Ctx.shadow, h0, h1]
    rfl
  refine ⟨_, hexec, ?_⟩
  dsimp only
  rw [ctx_noteEnding, State.core, hcores, harrs, hflights, henqs]
  refine ⟨hwin.trans rfl, hopen.trans kopen, ?_, ha.trans ka, ?_, fun hi => ?_, fun n seq dst tag aw hi hseq => ?_⟩
  · rw [hshadow, shadow_setShadow]
  · intro o ho hslot hseq hbefore
    rw [hv] at ho hbefore
    exact releaseGated_ops (by rw [huctx]; rfl) o ho hslot (by rw [huctx, openSeq_windowOver]; exact hseq) hbefore
  · have hitems : (u.ctx core slot).gatedItems = [] := by rw [huctx]; exact kitems.trans hi
    rw [hv, releaseGated_eq, hitems, releaseItems_nil, hu]
    exact ⟨rfl, rfl, rfl⟩
  · have hitems : (u.ctx core slot).gatedItems = [.arrive n seq dst tag aw] := by rw [huctx]; exact kitems.trans hi
    have hlim : seq < (u.ctx core slot).releaseLim := by
      rw [huctx]
      show seq < c.windowOver.openSeq
      rw [openSeq_windowOver]
      exact hseq
    have hteam : (u.ctx core slot).team = c.team := by rw [huctx]; exact kteam
    have htime : (u.ctx core slot).time = c.time := by rw [huctx]; exact ktime
    have hrel := releaseItems_arrive (n := n) (tag := tag) (dst := dst) (aw := aw) hlim
    rw [hteam, htime] at hrel
    constructor
    · rw [hv, releaseGated_eq, hitems, (KeepsCtx.updCore (g := Ctx.gatedItems) _ core _).ctx, hrel, State.ctx_updCtx]
    · rw [hv, releaseGated_eq, hitems, hrel, hu]
      rfl

end Sys2Proof.Machine

/-! ## Engine operations commit rows, and complete or stop (R51, R191, R196) -/

namespace Sys2Proof.Machine
set_option Elab.async false

/-! ### What keeps the operations of cores -/

/-- Every core holds the operations that it held. -/
structure KeepsOps (s t : State) : Prop where
  ops : ∀ c, (t.core c).ops = (s.core c).ops

namespace KeepsOps

theorem refl (s : State) : KeepsOps s s := ⟨fun _ => rfl⟩

theorem trans {s t u : State} (h : KeepsOps s t) (k : KeepsOps t u) : KeepsOps s u := ⟨fun c => (k.ops c).trans (h.ops c)⟩

theorem updCore (s : State) (c : Nat) (f : Core → Core) (hf : ∀ k, (f k).ops = k.ops := by intros; rfl) : KeepsOps s (s.updCore c f) := by
  refine ⟨fun d => ?_⟩
  by_cases hd : d = c
  · subst hd; rw [State.core_updCore, hf]
  · rw [State.core_updCore_other _ _ _ _ hd]

theorem updCtx (s : State) (c i : Nat) (f : Ctx → Ctx) : KeepsOps s (s.updCtx c i f) := by
  unfold State.updCtx State.setCtx
  exact .updCore ..

theorem ite {p : Prop} [Decidable p] {s t u : State} (h : KeepsOps s t) (k : KeepsOps s u) : KeepsOps s (if p then t else u) := by
  split
  · exact h
  · exact k

theorem foldl {β : Type} (f : State → β → State) (hf : ∀ s b, KeepsOps s (f s b)) (l : List β) (s : State) : KeepsOps s (l.foldl f s) := by
  induction l generalizing s with
  | nil => exact .refl s
  | cons b r ih => exact (hf s b).trans (ih _)

theorem foldl_fst {β σ : Type} (f : State × σ → β → State × σ) (hf : ∀ x b, KeepsOps x.1 (f x b).1) (l : List β) (x : State × σ) :
    KeepsOps x.1 (l.foldl f x).1 := by
  induction l generalizing x with
  | nil => exact .refl _
  | cons b r ih => exact (hf x b).trans (ih _)

theorem writeSram (s : State) (c a : Nat) (b : List Byte) : KeepsOps s (s.writeSram c a b) := by
  unfold State.writeSram
  exact .updCore ..

theorem spadTouch (s : State) (core a n t : Nat) (wr : Bool) : KeepsOps s (spadTouch s core a n t wr).1 := by
  unfold Machine.spadTouch
  dsimp only
  generalize List.foldl _ t _ = t'
  split
  · exact .refl s
  · dsimp only
    exact KeepsOps.updCore s core _ fun _ => rfl

theorem writeCode (s : State) (core slot t : Nat) (d : BitVec 128) (i j v : Nat) : KeepsOps s (writeCode s core slot t d i j v) := by
  unfold Machine.writeCode
  dsimp only
  refine .ite (.updCtx ..) ?_
  split
  · exact .writeSram ..
  · exact .refl s

theorem healAcc (e : Env) (r : RowOut) (s : State) : KeepsOps s (healAcc e r s) := .ite (.refl s) (.updCore ..)

theorem healRow (e : Env) (r : RowOut) (s : State) : KeepsOps s (healRow e r s) := by
  unfold Machine.healRow
  exact .ite (.healAcc e r s) ((KeepsOps.healAcc e r s).trans (.updCore ..))

theorem envTouch (e : Env) (wr : Bool) (l : List (Nat × Nat × Nat)) (x : State × Nat) : KeepsOps x.1 (e.touch wr l x).1 := by
  refine .foldl_fst _ (fun y b => ?_) l x
  split
  · exact .refl _
  split
  · split
    · exact .refl _
    · exact .spadTouch ..
  · exact .refl _

end KeepsOps

/-- What a row changes besides elements and counts is no operation. -/
def RowOut.SparesOps (r : RowOut) : Prop := ∀ s : State, KeepsOps s (r.extra s)

theorem RowOut.SparesOps.of_extra {r : RowOut} (h : r.extra = fun s => s) : r.SparesOps := fun s => by rw [h]; exact .refl s

theorem ops_setPlane (k : Core) (n : Nat) (p : Plane) : (k.setPlane n p).ops = k.ops := by
  unfold Core.setPlane
  split <;> rfl

theorem sparesOps_statRow (e : Env) (td n : Nat) (clr : Bool) : (statRow e td n clr).SparesOps := fun s => .ite (.updCtx ..) (.refl s)

theorem sparesOps_vecRow (e : Env) (i : Nat) (r : RowOut) (hr : vecRow e i = some r) : r.SparesOps := by
  unfold vecRow at hr
  dsimp only at hr
  split at hr
  case h_23 =>
    split at hr <;> cases hr <;> exact .of_extra rfl
  case h_47 =>
    cases hr
    exact .of_extra ((extra_sharedRow _ i).trans (extra_scatOut ..))
  case h_54 =>
    cases hr
    exact sparesOps_statRow _ _ _ _
  case h_55 => cases hr
  all_goals
    cases hr
    exact .of_extra rfl

theorem sparesOps_loadRow (e : Env) (t : Nat) (down : Bool) (r : Nat) : (loadRow e t down r).SparesOps :=
  fun s => .updCore s e.core _ fun k => ops_setPlane k _ _

theorem sparesOps_mstatRow (e : Env) (o : MT) (i : Nat) : (mstatRow e o i).SparesOps := by
  unfold mstatRow
  split
  · exact sparesOps_statRow _ _ _ _
  · exact .of_extra rfl

theorem sparesOps_matRow (e : Env) (i : Nat) (r : RowOut) (hr : matRow e i = some r) : r.SparesOps := by
  unfold matRow at hr
  split at hr
  case h_1 | h_2 =>
    cases hr
    exact sparesOps_loadRow _ _ _ _
  case h_8 =>
    cases hr
    exact sparesOps_mstatRow _ _ _
  case h_9 => cases hr
  all_goals
    cases hr
    exact .of_extra rfl

theorem KeepsOps.commitRow {e : Env} {r : RowOut} (hr : r.SparesOps) (s : State) : KeepsOps s (commitRow e r s) := by
  unfold Machine.commitRow
  exact (((KeepsOps.healRow e r s).trans (.foldl _ (fun s x => .writeCode s _ _ _ _ _ _ _) _ _)).trans (.updCtx ..)).trans (hr _)

/-! ### An operation by its number -/

theorem opAt_of_ops {s t : State} {core : Nat} (h : (t.core core).ops = (s.core core).ops) (id : Nat) : t.opAt core id = s.opAt core id := by
  rw [State.opAt, State.opAt, h]

theorem opAt_updOp (s : State) (core id j : Nat) (f : EOp → EOp) (hf : ∀ o, (f o).id = o.id := by intros; rfl) :
    (s.updOp core j f).opAt core id = (s.opAt core id).map (fun o => if o.id = j then f o else o) := by
  rw [State.opAt, State.updOp, State.core_updCore, List.find?_map, State.opAt]
  have hid : ((fun o : EOp => o.id == id) ∘ fun o => if o.id = j then f o else o) = fun o => o.id == id := by
    funext o
    simp only [Function.comp_apply]
    split
    · rw [hf]
    · rfl
  rw [hid]

theorem id_of_opAt {s : State} {core id : Nat} {o : EOp} (h : s.opAt core id = some o) : o.id = id := by
  simpa using List.find?_some h

/-- The touches of a row leave an operation but for its time. -/
theorem opAt_touchRow {e : Env} {s : State} (r : RowOut) (whole : Bool) {o : EOp} (h : s.opAt e.core e.o.id = some o) :
    ∃ t, (touchRow e r whole s).opAt e.core e.o.id = some { o with time := t } := by
  have hset (x : State × Nat) (hx : KeepsOps s x.1) : ∃ t, (e.setTime x).opAt e.core e.o.id = some { o with time := t } := by
    refine ⟨x.2, ?_⟩
    rw [Env.setTime, opAt_updOp x.1 e.core e.o.id e.o.id (fun o => { o with time := x.2 }) (fun _ => rfl), opAt_of_ops (hx.ops e.core), h, Option.map_some, if_pos (id_of_opAt h)]
  unfold touchRow
  have hread : KeepsOps s (e.touch false r.reads (s, e.o.time)).1 := .envTouch e false r.reads (s, e.o.time)
  refine hset _ ?_
  split
  · exact hread.trans (.envTouch ..)
  · exact hread

end Sys2Proof.Machine

/-! ## Engine operations that commit rows, complete and stop (R51, R191, R196, R238) -/

namespace Sys2Proof.Machine
set_option Elab.async false

/-! ### Operations with no piece of a row left -/

section
variable {s : State} {core : Nat} {o : EOp}

theorem writeLeft_none (hl : o.left = []) (hu : o.unread = []) : writeLeft s core o = (s, o.time) := by
  simp [writeLeft, readLeft, hl, hu, putChunks]

theorem settleOp_none (hl : o.left = []) (hu : o.unread = []) (hs : o.seen = []) : settleOp s core o = s := by
  simp [settleOp, hl, hu, hs]

theorem overlay_none (hs : o.seen = []) : overlay s o = s := by
  simp [overlay, EOp.aheadOf, hs]

theorem held_running (h : running s core o = true) : o.held = false := by
  simp only [running, Bool.and_eq_true, Bool.not_eq_true'] at h
  exact h.1.1.2

/-! ### The tiles that an operation lets go of -/

/-- The state that a tile has when it is given `v`: an accumulator is filling or ready. -/
def tileGets (t v : Nat) : Nat := if t < 64 then v else if v = 1 then 1 else 2

theorem tstate_setTstate_gets (a : Arch) (t v : Nat) (hv : v < 4) : (a.setTstate t v).tstate t = tileGets t v := by
  unfold tileGets
  by_cases ht : t < 64
  · rw [if_pos ht, tstate_setTstate_same a t v ht hv]
  · rw [if_neg ht]
    simp [Arch.setTstate, Arch.tstate, ht]

theorem ops_releaseTile (t v : Nat) : KeepsOps s (releaseTile s core o t v) := by
  unfold releaseTile
  exact .updCtx ..

theorem tstate_releaseTile_same (t v : Nat) (hv : v < 4) (hw : writerLeft (s.core core).ops o.slot o.id t (2 ^ 64) = false) :
    ((releaseTile s core o t v).ctx core o.slot).a.tstate t = tileGets t v := by
  unfold releaseTile
  dsimp only
  rw [State.ctx_updCtx]
  dsimp only
  rw [hw]
  exact tstate_setTstate_gets _ _ _ hv

theorem tstate_releaseTile_other {t u : Nat} (v : Nat) (h : u ≠ t) :
    ((releaseTile s core o t v).ctx core o.slot).a.tstate u = (s.ctx core o.slot).a.tstate u := by
  unfold releaseTile
  dsimp only
  rw [State.ctx_updCtx]
  dsimp only
  split
  · rfl
  · exact tstate_setTstate_other _ _ _ _ h

/-- Of several tiles let go of, each has the state that it is given, and the others have what they had. -/
theorem tstate_releaseTiles (l : List Nat) (v : Nat) (hv : v < 4) {u : Nat} (hw : writerLeft (s.core core).ops o.slot o.id u (2 ^ 64) = false) :
    ((l.foldl (fun s t => releaseTile s core o t v) s).ctx core o.slot).a.tstate u =
      if u ∈ l then tileGets u v else (s.ctx core o.slot).a.tstate u := by
  induction l generalizing s with
  | nil => rfl
  | cons t r ih =>
    have hw' : writerLeft ((releaseTile s core o t v).core core).ops o.slot o.id u (2 ^ 64) = false := by
      rw [(ops_releaseTile (s := s) (core := core) (o := o) t v).ops core]
      exact hw
    rw [List.foldl_cons, ih hw']
    by_cases hur : u ∈ r
    · rw [if_pos hur, if_pos (List.mem_cons_of_mem t hur)]
    · rw [if_neg hur]
      by_cases hut : u = t
      · subst hut
        rw [if_pos List.mem_cons_self, tstate_releaseTile_same u v hv hw]
      · rw [if_neg (by simp [hur, hut]), tstate_releaseTile_other v hut]

/-- What a thread that lets go of tiles leaves of its context. -/
def Ctx.besideTiles (c : Ctx) : SlotSt × Wait × List Pend × Nat := (c.st, c.wait, c.res, c.team)

theorem beside_releaseTile (t v : Nat) : KeepsCtx Ctx.besideTiles s (releaseTile s core o t v) := by
  unfold releaseTile
  exact KeepsCtx.updCtx s core o.slot _ fun _ => rfl

theorem mem_releaseTiles (l : List Nat) (v : Nat) : (l.foldl (fun s t => releaseTile s core o t v) s).mem = s.mem := by
  induction l generalizing s with
  | nil => rfl
  | cons t r ih => rw [List.foldl_cons, ih]; rfl

/-! ### The end of a thread -/

theorem ops_dropOp : ((dropOp s core o).core core).ops = (s.core core).ops.filter (fun x => x.id != o.id) := by
  rw [dropOp, State.core_updCore]

theorem opAt_none_of_filter {t : State} (h : (t.core core).ops = (s.core core).ops.filter (fun x => x.id != o.id)) : t.opAt core o.id = none := by
  rw [State.opAt, h]
  simp

theorem threadDone_beside (c : Ctx) (o : EOp) (t : Nat) : (c.threadDone o t).besideTiles = c.besideTiles ∧ (c.threadDone o t).a = c.a := by
  unfold Ctx.threadDone Ctx.tagSeen
  dsimp only
  split <;> exact ⟨rfl, rfl⟩

/-- The result that frees the tag of an operation, where it has one. -/
def EOp.frees (o : EOp) (l : List Pend) : List Pend :=
  if o.tag = 0 then l else l ++ [{ dst := .nothing, val := 0, due := o.seq + 8, seq := o.seq, tag := o.tag, fixed := false }]

theorem opDone_beside (c : Ctx) : (c.opDone o.tag o.seq).besideTiles = (c.st, c.wait, o.frees c.res, c.team) ∧ (c.opDone o.tag o.seq).a = c.a := by
  unfold Ctx.opDone EOp.frees
  split <;> exact ⟨rfl, rfl⟩

theorem endingRelease_of_not {slot : Nat} (h : (s.ctx core slot).st ≠ .ending) : endingRelease s core slot = s := by
  unfold endingRelease
  dsimp only
  rw [if_neg (by simp [h])]

theorem stays_iff (c : Ctx) : stays c = true ↔ c.st ≠ .ending ∧ c.st ≠ .ended ∧ c.wait ≠ .ctxout := by
  simp [stays, and_assoc]

/-- What the end of a thread leaves: `t` is the machine once the tiles are let go of. -/
structure ThreadEnds (s : State) (core : Nat) (o : EOp) (t u : State) : Prop where
  ops : (u.core core).ops = (s.core core).ops.filter (fun x => x.id != o.id)
  beside : (u.ctx core o.slot).besideTiles = ((s.ctx core o.slot).st, (s.ctx core o.slot).wait, o.frees (s.ctx core o.slot).res, (s.ctx core o.slot).team)
  a : (u.ctx core o.slot).a = (t.ctx core o.slot).a
  mem : u.mem = t.mem

/-- A context that waits for no thread's end stays as it is at the end of its operation (R48, R54). -/
theorem ThreadEnds.afterOp {t u : State} (h : ThreadEnds s core o t u) (hst : stays (s.ctx core o.slot) = true) :
    ThreadEnds s core o t (afterOp u core o.slot) := by
  have hb := h.beside
  simp only [Ctx.besideTiles, Prod.mk.injEq] at hb
  obtain ⟨hbst, hbwait, -⟩ := hb
  have hstays : stays (u.ctx core o.slot) = true := by
    rw [stays_iff] at hst ⊢
    rwa [hbst, hbwait]
  rw [afterOp_stays hstays]
  obtain ⟨hc, -⟩ := cores_noteEnding (s := u) (u.ctx core o.slot).team
  exact ⟨by rw [State.core, hc]; exact h.ops, by rw [ctx_noteEnding]; exact h.beside, by rw [ctx_noteEnding]; exact h.a,
    by rw [mem_noteEnding]; exact h.mem⟩

theorem ThreadEnds.opAt {t u : State} (h : ThreadEnds s core o t u) : u.opAt core o.id = none := opAt_none_of_filter h.ops

theorem ThreadEnds.res {t u : State} (h : ThreadEnds s core o t u) : (u.ctx core o.slot).res = o.frees (s.ctx core o.slot).res := by
  have hb := h.beside
  simp only [Ctx.besideTiles, Prod.mk.injEq] at hb
  exact hb.2.2.1

/-- The operation leaves the engine, and its context takes the end of the thread, from a machine `t` whose tiles are let go of. -/
theorem threadEnds_of_drop {t : State} (hops : KeepsOps s t) (hb : KeepsCtx Ctx.besideTiles s t) (hst : stays (s.ctx core o.slot) = true)
    (f : Ctx → Ctx) (hf : ∀ c, (f c).besideTiles = (c.st, c.wait, o.frees c.res, c.team) ∧ (f c).a = c.a) :
    ThreadEnds s core o t (endingRelease ((dropOp t core o).updCtx core o.slot f) core o.slot) := by
  have hdrop : (dropOp t core o).ctx core o.slot = t.ctx core o.slot := ctx_updCore _ _ _ _ rfl
  have hctx : ((dropOp t core o).updCtx core o.slot f).ctx core o.slot = f (t.ctx core o.slot) := by rw [State.ctx_updCtx, hdrop]
  have hbt := hb.ctx core o.slot
  obtain ⟨hfb, hfa⟩ := hf (t.ctx core o.slot)
  have hbeside : (f (t.ctx core o.slot)).besideTiles =
      ((s.ctx core o.slot).st, (s.ctx core o.slot).wait, o.frees (s.ctx core o.slot).res, (s.ctx core o.slot).team) := by
    rw [hfb]
    simp only [Ctx.besideTiles, Prod.mk.injEq] at hbt
    obtain ⟨h1, h2, h3, h4⟩ := hbt
    rw [h1, h2, h3, h4]
  have hending : (((dropOp t core o).updCtx core o.slot f).ctx core o.slot).st ≠ .ending := by
    rw [hctx]
    simp only [Ctx.besideTiles, Prod.mk.injEq] at hbeside
    rw [hbeside.1]
    exact ((stays_iff _).mp hst).1
  rw [endingRelease_of_not hending]
  refine ⟨?_, by rw [hctx]; exact hbeside, by rw [hctx]; exact hfa, rfl⟩
  rw [(KeepsOps.updCtx (dropOp t core o) core o.slot f).ops core, ops_dropOp, hops.ops core]

/-- An operation with nothing left completes: the tiles that it wrote are ready (R191). -/
theorem finishOp_ends (hl : o.left = []) (hu : o.unread = []) (hp : o.predOff = false) (hst : stays (s.ctx core o.slot) = true) :
    ThreadEnds s core o (o.written.foldl (fun s t => releaseTile s core o t 2) s) (finishOp s core o) := by
  unfold finishOp
  rw [writeLeft_none hl hu, hp]
  exact threadEnds_of_drop (.foldl _ (fun _ _ => ops_releaseTile _ _) _ _) (.foldl _ (fun _ _ => beside_releaseTile _ _) _ _) hst _ fun c => by
    obtain ⟨h1, h2⟩ := threadDone_beside (c.opDone o.tag o.seq) o o.time
    obtain ⟨h3, h4⟩ := opDone_beside (o := o) c
    exact ⟨h1.trans h3, h2.trans h4⟩

/-- What a cancelled copy lets go of (R238). -/
def letGo (s : State) (core : Nat) (o : EOp) : State :=
  match o.outSource with
  | some (t, _) => if o.srcDone then s else releaseTile s core o t 2
  | none => o.written.foldl (fun s t => releaseTile s core o t 0) s

theorem letGo_keeps : KeepsOps s (letGo s core o) ∧ KeepsCtx Ctx.besideTiles s (letGo s core o) := by
  unfold letGo
  split
  · exact ⟨.ite (.refl s) (ops_releaseTile _ _), .ite (.refl s) (beside_releaseTile _ _)⟩
  · exact ⟨.foldl _ (fun _ _ => ops_releaseTile _ _) _ _, .foldl _ (fun _ _ => beside_releaseTile _ _) _ _⟩

/-- A cancelled copy that no `cp.cancel` waits for leaves the engine (R238, R248). -/
theorem cancelCopy_ends (hl : o.left = []) (hu : o.unread = []) (hp : o.predOff = false) (hc : o.cancelTag = []) (hst : stays (s.ctx core o.slot) = true) :
    ThreadEnds s core o (letGo s core o) (cancelCopy s core o) := by
  unfold cancelCopy
  rw [writeLeft_none hl hu, hp, hc]
  refine threadEnds_of_drop (o := o) letGo_keeps.1 letGo_keeps.2 hst _ fun c => ?_
  obtain ⟨h1, h2⟩ := threadDone_beside (c.opDone o.tag o.seq) o o.time
  obtain ⟨h3, h4⟩ := opDone_beside (o := o) c
  exact ⟨h1.trans h3, h2.trans h4⟩

/-- A load that completes leaves its core's contexts, and the tiles that its operations write. -/
theorem writerLeft_updRecord (k : Core) (f : Plane → Plane) (id slot t lim : Nat) (i : Nat) :
    writerLeft (k.updRecord i f).ops slot id t lim = writerLeft k.ops slot id t lim := by
  rw [writerLeft, writerLeft, Core.updRecord, List.any_map]
  rfl

end

end Sys2Proof.Machine

/-! ## EngineCompletes (R51, R191, R196, R238) -/

namespace Sys2Proof.Machine
set_option Elab.async false

section
variable {s : State} {core : Nat} {o : EOp}

/-! ### A row is committed -/

/-- The touches and the commit of a row count it, and leave the rest of its operation but for its time. -/
theorem opAt_wholeRow (e : Env) (r : RowOut) (hr : r.SparesOps) (h : s.opAt e.core e.o.id = some o) :
    ∃ t, (wholeRow e r s).opAt e.core e.o.id = some { o with time := t, rows := o.rows + 1, seen := [] } := by
  obtain ⟨t, ht⟩ := opAt_touchRow (s := s) r true h
  refine ⟨t, ?_⟩
  rw [wholeRow, opAt_updOp _ e.core e.o.id e.o.id (fun o => { o with rows := o.rows + 1, seen := [] }) (fun _ => rfl),
    opAt_of_ops ((KeepsOps.commitRow hr (touchRow e r true s)).ops e.core), ht, Option.map_some, if_pos (id_of_opAt ht)]

/-- A row that reads no failing word is committed whole. -/
theorem stepRow_whole {r : RowOut} (hs : o.seen = [])
    (hr : vecRow { s := s, core := core, o := o } o.rows = some r ∨ vecRow { s := s, core := core, o := o } o.rows = none ∧ matRow { s := s, core := core, o := o } o.rows = some r)
    (hbad : rowBad { s := s, core := core, o := o } r = none) :
    stepRow wholeRow s core o = (wholeRow { s := s, core := core, o := o } r s, true) := by
  have hrow : nextRow s core o = ({ s := s, core := core, o := o }, some r) := by
    unfold nextRow
    rw [overlay_none hs]
    obtain hv | ⟨hv, hm⟩ := hr
    · simp [hv]
    · simp [hv, hm]
  rw [stepRow, hrow]
  dsimp only
  rw [hbad]

theorem sparesOps_row (e : Env) (i : Nat) {r : RowOut} (hr : vecRow e i = some r ∨ vecRow e i = none ∧ matRow e i = some r) : r.SparesOps := by
  obtain hv | ⟨-, hm⟩ := hr
  · exact sparesOps_vecRow e i r hv
  · exact sparesOps_matRow e i r hm

theorem endOp_continues {id : Nat} (h : s.opAt core id = some o) (hr : o.rows < o.nrows) : endOp s core id = s := by
  simp [endOp, h, hr]

/-! ### A load is complete -/

theorem finishLoad_keeps (e : Env) : KeepsCtx Ctx.besideTiles s (finishLoad e s) ∧ (finishLoad e s).mem = s.mem := by
  refine ⟨KeepsCtx.updCore s e.core (fun k => (k.setPlane e.o.cap.plane _).updRecord e.o.id _) fun k => ?_, rfl⟩
  unfold Core.updRecord Core.setPlane
  split <;> rfl

theorem writerLeft_finishLoad (e : Env) (slot id t lim : Nat) :
    writerLeft ((finishLoad e s).core e.core).ops slot id t lim = writerLeft (s.core e.core).ops slot id t lim := by
  unfold finishLoad
  dsimp only
  rw [State.core_setCore, writerLeft_updRecord, ops_setPlane]

end

/-- An operation behind its last row completes. -/
theorem endOp_ends {s : State} {core : Nat} {o : EOp} (h : s.opAt core o.id = some o) (hh : o.held = false) (hr : o.nrows ≤ o.rows)
    (hl : o.left = []) (hu : o.unread = []) (hp : o.predOff = false) (hst : stays (s.ctx core o.slot) = true) :
    ∃ s', KeepsCtx Ctx.besideTiles s s' ∧ s'.mem = s.mem ∧
      (∀ t lim, writerLeft (s'.core core).ops o.slot o.id t lim = writerLeft (s.core core).ops o.slot o.id t lim) ∧
      ThreadEnds s' core o (o.written.foldl (fun s t => releaseTile s core o t 2) s') (endOp s core o.id) := by
  have hend : endOp s core o.id = afterOp (finishOp (if isLoad o.ins && !o.predOff then finishLoad { s := s, core := core, o := o } s else s) core o) core o.slot := by
    simp [endOp, h, hh, Nat.not_lt.mpr hr]
  have hends {s' : State} (hk : KeepsCtx Ctx.besideTiles s s') : ThreadEnds s' core o (o.written.foldl (fun s t => releaseTile s core o t 2) s')
      (afterOp (finishOp s' core o) core o.slot) := by
    have hst' : stays (s'.ctx core o.slot) = true := by
      have hb := hk.ctx core o.slot
      simp only [Ctx.besideTiles, Prod.mk.injEq] at hb
      obtain ⟨h1, h2, -⟩ := hb
      rw [stays_iff] at hst ⊢
      rwa [h1, h2]
    exact (finishOp_ends hl hu hp hst').afterOp hst'
  rw [hend]
  split
  · exact ⟨_, (finishLoad_keeps _).1, (finishLoad_keeps _).2, fun t lim => writerLeft_finishLoad { s := s, core := core, o := o } _ _ t lim, hends (finishLoad_keeps _).1⟩
  · exact ⟨s, .refl s, rfl, fun _ _ => rfl, hends (.refl s)⟩

/-- Settles O45: a row's commit keeps every operation, so that the next row is that of the same one; the end of a thread lets go
of its tiles, drops it, and frees its tag. -/
theorem engineCompletes : Obligations.EngineCompletes := by
  unfold Obligations.EngineCompletes
  intro s core id o ho
  obtain rfl : o.id = id := id_of_opAt ho
  intro c e freed
  have hfreed (d : Ctx) (hd : d.res = o.frees (s.ctx core o.slot).res) : d.res = freed c := hd
  refine ⟨fun hcopy hrun hready hl hu hs => ⟨fun r hrows hr hbad => ?_, fun hrows hst hp => ?_⟩, fun hstop hp hst hct hl hu => ?_, fun hstop hin hdue => ?_⟩
  · have hguard : (o.copy || !running s core o || !engineReady s core o) = false := by simp [hcopy, hrun, hready]
    have hpiece : pieceTurn o (o.rows + 1) = false := by simp [pieceTurn]
    have hone : min (o.rows + 1) o.nrows - o.rows = 1 := by omega
    have hstep : stepRows core o.id 1 s = wholeRow e r s := by
      simp [stepRows, ho, Nat.not_le.mpr (Nat.lt_of_succ_lt hrows), stepRow_whole hs hr hbad, e]
    obtain ⟨t, ht⟩ := opAt_wholeRow (s := s) e r (sparesOps_row e _ hr) ho
    show Host.Outcome.next _ = _
    rw [ho]
    dsimp only
    rw [hguard, hpiece, if_neg Bool.false_ne_true, if_neg Bool.false_ne_true, settleOp_none hl hu hs, hone, hstep, endOp_continues (o := { o with time := t, rows := o.rows + 1, seen := [] }) ht hrows]
    rfl
  · have hguard : (o.copy || !running s core o || !engineReady s core o) = false := by simp [hcopy, hrun, hready]
    have hpiece : pieceTurn o o.nrows = false := by simp [pieceTurn]
    have hnone : min o.nrows o.nrows - o.rows = 0 := by omega
    obtain ⟨s', hk, hmem, hwriter, hends⟩ := endOp_ends ho (held_running hrun) hrows hl hu hp hst
    have hres : (s'.ctx core o.slot).res = (s.ctx core o.slot).res := congrArg (·.2.2.1) (hk.ctx core o.slot)
    refine ⟨endOp s core o.id, ?_, hends.opAt, ?_, hfreed _ (by rw [hends.res, hres]), fun u hw hu72 hleft => ?_⟩
    · show Host.Outcome.next _ = _
      rw [ho]
      dsimp only
      rw [hguard, hpiece, if_neg Bool.false_ne_true, if_neg Bool.false_ne_true, settleOp_none hl hu hs, hnone, stepRows]
    · rw [hends.mem, mem_releaseTiles, hmem]
    · rw [hends.a, tstate_releaseTiles _ _ (by decide) (by rw [hwriter]; exact hleft), if_pos hw]
      simp [tileGets]
  · have hends := (cancelCopy_ends hl hu hp hct hst).afterOp hst
    refine ⟨afterOp (cancelCopy s core o) core o.slot, ?_, hends.opAt, hfreed _ hends.res, fun hsrc u hw hu72 hleft => ?_, fun u con hsrc hdone hu64 hleft => ?_⟩
    · show Host.Outcome.next _ = _
      rw [ho]
      dsimp only
      rw [if_pos hstop]
    · by_cases hu64 : u < 64
      · left
        rw [hends.a, letGo, hsrc]
        dsimp only
        rw [tstate_releaseTiles _ _ (by decide) hleft, if_pos hw, tileGets, if_pos hu64]
      · exact .inr (Nat.not_lt.mp hu64)
    · rw [hends.a, letGo, hsrc]
      dsimp only
      rw [hdone, if_neg Bool.false_ne_true, tstate_releaseTile_same _ _ (by decide) hleft, tileGets, if_pos hu64]
  · show Host.Outcome.next _ = _
    rw [ho]
    dsimp only
    rw [if_neg (by simp [hstop]), hin, Bool.true_and, if_pos hdue]

end Sys2Proof.Machine

/-! ## Links and attestation (R320, R322, R402, R404, R406) -/

namespace Sys2Proof.Machine
set_option Elab.async false

/-- A field of one bit. -/
theorem fld_bit {w : Nat} (v : BitVec w) (i : Nat) : fld v i 1 = (v.getLsbD i).toNat := by
  rw [BitVec.getLsbD, Nat.testBit_eq_decide_div_mod_eq]
  unfold fld bits
  have h : v.toNat / 2 ^ i % 2 ^ 1 < 2 := Nat.mod_lt _ (by decide)
  rw [Nat.pow_one] at h ⊢
  obtain h0 | h1 : v.toNat / 2 ^ i % 2 = 0 ∨ v.toNat / 2 ^ i % 2 = 1 := by omega
  · rw [h0]; rfl
  · rw [h1]; rfl

/-! ### Posted writes flow -/

section
variable (s : State)

/-- Writes that enter the buffers of their dies change nothing else. -/
theorem drainPosted_eq (l : List (Nat × Nat × Ingress)) (blocked : List Nat) : ∃ d, (drainPosted s blocked l).1 = { s with dies := d } := by
  induction l generalizing s blocked with
  | nil => exact ⟨s.dies, rfl⟩
  | cons e r ih =>
    obtain ⟨l, d, w⟩ := e
    unfold drainPosted
    split
    · exact ih s (l :: blocked)
    · obtain ⟨u, hu⟩ := ih (s.updDie d fun x => { x with ingress := x.ingress ++ [{ w with at' := s.now }] }) blocked
      exact ⟨u, hu⟩

theorem markCredits_eq (heads : List Nat) (moved : Nat → Bool) (l : List Nat) :
    ∃ d, l.foldl (fun s d => markCredit s heads (moved d) d) s = { s with dies := d } := by
  induction l generalizing s with
  | nil => exact ⟨s.dies, rfl⟩
  | cons d r ih =>
    obtain ⟨u, hu⟩ := ih (markCredit s heads (moved d) d)
    exact ⟨u, hu⟩

/-- Posted writes that flow change the dies and what waits on the links. -/
theorem flowPosted_eq : ∃ d p, flowPosted s = { s with dies := d, posted := p } := by
  obtain ⟨d, hd⟩ := drainPosted_eq s s.posted []
  unfold flowPosted
  dsimp only
  rw [hd]
  obtain ⟨u, hu⟩ := markCredits_eq { s with dies := d, posted := (drainPosted s [] s.posted).2 } (linkHeads [] (drainPosted s [] s.posted).2)
    (fun d => decide (postedTo (drainPosted s [] s.posted).2 d < postedTo s.posted d)) [0, 1, 2, 3]
  exact ⟨u, _, hu⟩

end

/-! ### Events of the package queue -/

theorem PostsF.of_same {s t u : State} {code : Nat} (h : PostsF t u code) (hq : t.evq = s.evq) (hl : t.linkUp = s.linkUp) (ho : t.out = s.out) :
    PostsF s u code := by
  intro hr hd
  unfold evRoom at hr
  obtain ⟨hw, hout⟩ := h (by unfold evRoom; rw [hq, hl]; exact hr) (by rw [hq]; exact hd)
  rw [hq] at hw
  rw [ho] at hout
  exact ⟨hw, hout⟩

/-- An event to a queue that is on while the host link is down is dropped and counted (R356). -/
theorem dropped_postF (s : State) (code : Nat) (hl : s.linkUp = false) (hon : ringOn s.evq.cfg = true) :
    (s.postF code).evq.dropped = s.evq.dropped + 1 ∧ (s.postF code).linkUp = false := by
  have hroom : evRoom s s.evq = false := by simp [evRoom, hl]
  have hpost (e : Nat) : evPost s .pf s.evq e = (s, { s.evq with dropped := s.evq.dropped + 1 }) := by
    unfold evPost
    rw [if_neg (by simp [hon]), if_pos hroom]
  unfold State.postF
  rw [hpost]
  exact ⟨rfl, hl⟩

theorem linkOf_postF (s : State) (code island core die handle arg l : Nat) : (s.postF code island core die handle arg).linkOf l = s.linkOf l := by
  obtain ⟨o, q, h⟩ := postF_eq s code island core die handle arg
  rw [h]
  rfl

theorem linkUp_postF (s : State) (code island core die handle arg : Nat) : (s.postF code island core die handle arg).linkUp = s.linkUp := by
  obtain ⟨o, q, h⟩ := postF_eq s code island core die handle arg
  rw [h]

/-! ### Peer links -/

/-- A link that has gone down (R320, R402). -/
def Epl.fallen (now : Nat) (x : Epl) : Epl :=
  { x with up := false, training := false, downs := min 65535 (x.downs + 1), run := 0, downPosted := true, tried := max 1 now }

section
variable (s : State) (l : Nat)

@[simp] theorem linkOf_updLink (f : Epl → Epl) : (s.updLink l f).linkOf l = f (s.linkOf l) := by
  simp [State.linkOf, State.updLink]

theorem linkDown_does :
    (linkDown s l).linkOf l = (s.linkOf l).fallen s.now ∧ ((s.linkOf l).downPosted = false → PostsF s (linkDown s l) 0x7A) := by
  obtain ⟨d, p, hf⟩ := flowPosted_eq { s.updLink l (Epl.fallen s.now) with posted := s.posted.filter (fun w => w.1 != l + 1) }
  have hdown : linkDown s l = if !(s.linkOf l).downPosted then State.postF { s.updLink l (Epl.fallen s.now) with dies := d, posted := p } 0x7A
      else { s.updLink l (Epl.fallen s.now) with dies := d, posted := p } := by
    unfold linkDown
    dsimp only
    exact congrArg (fun u : State => if !(s.linkOf l).downPosted then u.postF 0x7A else u) hf
  have hlink : State.linkOf { s.updLink l (Epl.fallen s.now) with dies := d, posted := p } l = (s.linkOf l).fallen s.now := linkOf_updLink s l _
  rw [hdown]
  refine ⟨?_, fun hp => ?_⟩
  · split
    · rw [linkOf_postF, hlink]
    · exact hlink
  · rw [if_pos (by simp [hp])]
    exact (postsF_postF _ (by decide) _ _ _ _ _).of_same rfl rfl rfl

end

/-! ### The responder -/

theorem spdmAnswer_on {s : State} (h : s.power = .on) (n : Nat) (err : Bool) (v : Word) :
    spdmAnswer s n err v = { s.send (.spdm n err (if err then 0 else v)) with spdmSeen := s.spdmSeen + 1, spdmIn := [] } := by
  unfold spdmAnswer
  rw [h]

theorem spdmIdentity_on {s : State} (h : s.power = .on) (n : Nat) : spdmIdentity s n = spdmAnswer s n (!s.nor.idOk) (Config.spdm n s.spdmSeen) := by
  unfold spdmIdentity
  rw [h]
  congr 1
  cases s.nor.idOk <;> decide

/-! ### The host link -/

theorem linkUp_foldl {β : Type} (f : State → β → State) (hf : ∀ s b, (f s b).linkUp = s.linkUp) (l : List β) (s : State) :
    (l.foldl f s).linkUp = s.linkUp := by
  induction l generalizing s with
  | nil => rfl
  | cons b r ih => rw [List.foldl_cons, ih, hf]

theorem linkUp_evDrain (s : State) (fn : Fn) (q : EvQ) : (evDrain s fn q).1.linkUp = s.linkUp := by
  obtain ⟨o, h⟩ := evDrain_eq s fn q
  rw [h]

theorem linkUp_setEvq (s : State) (p : Nat) (f : EvQ → EvQ) : (setEvq s p f).linkUp = s.linkUp := linkUp_evDrain s (.vf p) _

theorem linkUp_setPkgEvq (s : State) (f : EvQ → EvQ) : (setPkgEvq s f).linkUp = s.linkUp := by
  unfold setPkgEvq
  dsimp only
  split
  · rw [linkUp_foldl _ (fun s c => linkUp_postF s c _ _ _ _ _)]
    exact linkUp_evDrain s .pf _
  · exact linkUp_evDrain s .pf _

/-- Settles O57: a link that goes down lets the other links' writes flow, which posts nothing; the responder answers by one message. -/
theorem linksAndAttestation : Obligations.LinksAndAttestation := by
  unfold Obligations.LinksAndAttestation
  refine ⟨fun s l => ?_, fun s => ⟨fun hup => ?_, fun hon => ?_⟩, fun s hon => ?_⟩
  · intro x
    refine ⟨fun hup hrun => ?_, fun hup hrun => ?_, fun hup hen hrunning => ⟨fun hmay => ?_, fun htried hearly ok => ?_⟩, fun hover => ?_, fun hnot => ?_⟩
    · refine ⟨_, rfl, ?_⟩
      rw [if_neg (by simp [show (s.linkOf l).up = true from hup]), if_neg (by rw [linkOf_updLink]; exact Nat.not_le.mpr hrun), linkOf_updLink]
      exact ⟨hup, rfl, rfl⟩
    · refine ⟨_, rfl, ?_⟩
      rw [if_neg (by simp [show (s.linkOf l).up = true from hup]), if_pos (by rw [linkOf_updLink]; exact hrun)]
      obtain ⟨hlink, hposts⟩ := linkDown_does (s.updLink l fun x => { x with cnt := x.cnt + 1, run := x.run + 1 }) l
      rw [linkOf_updLink] at hlink hposts
      rw [hlink]
      exact ⟨rfl, rfl, fun hp => (hposts hp).of_same rfl rfl rfl⟩
    · have htrain : Epl.mayTrain (s.linkOf l) s.now = true := by
        simpa [Epl.mayTrain] using hmay
      have hgo : ((s.linkOf l).up || fld (s.linkOf l).map 0 1 == 0 || !s.running || !(s.linkOf l).mayTrain s.now) = false := by
        simp [show (s.linkOf l).up = false from hup, hrunning, htrain, fld_bit, show (s.linkOf l).map.getLsbD 0 = true from hen]
      refine ⟨⟨_, rfl, ?_⟩, ⟨_, rfl, ?_⟩⟩
      · dsimp only
        rw [hgo, if_neg Bool.false_ne_true, if_pos rfl, linkOf_updLink]
        exact ⟨rfl, rfl⟩
      · dsimp only
        rw [hgo, if_neg Bool.false_ne_true, if_neg Bool.false_ne_true, linkOf_updLink]
        exact ⟨hup, rfl⟩
    · have htrain : Epl.mayTrain (s.linkOf l) s.now = false := by
        simpa [Epl.mayTrain] using ⟨htried, hearly⟩
      show Host.Outcome.next _ = _
      dsimp only
      rw [htrain, if_pos (by simp)]
    · refine ⟨_, rfl, ?_⟩
      dsimp only
      rw [if_neg (Nat.not_lt.mpr hover)]
      split
      next hmany =>
        rw [linkOf_postF, linkOf_updLink]
        exact ⟨rfl, rfl, rfl, fun _ => (postsF_postF _ (by decide) _ _ _ _ _).of_same rfl rfl rfl⟩
      next hfew =>
        rw [linkOf_updLink]
        exact ⟨rfl, rfl, rfl, fun hmany => absurd hmany hfew⟩
    · show Host.Outcome.next _ = _
      dsimp only
      rw [if_pos hnot]
  · obtain ⟨d, p, hf⟩ := flowPosted_eq { s with linkUp := false, linkWait := [], posted := s.posted.filter (fun w => w.1 != 0) }
    refine ⟨_, rfl, ?_⟩
    rw [if_pos hup, hf]
    refine ⟨linkUp_postF .., fun hring => (dropped_postF _ _ rfl ?_).1⟩
    exact hring
  · refine ⟨_, rfl, ?_⟩
    rw [hon]
    dsimp only
    rw [linkUp_foldl _ fun s p => linkUp_setEvq s p id]
    exact linkUp_setPkgEvq ..
  · have hone (n : Nat) (err : Bool) (v : Word) (hn : n ≠ 7) (P : Word → Prop) (hP : P (if err then 0 else v)) :
        ∃ t w rest, Host.Outcome.next (spdmAnswer s n err v) = (.next t : Host.Outcome State Fault Refusal) ∧ t.out = s.out ++ .spdm n err w :: rest ∧ P w ∧
          t.spdmSeen = s.spdmSeen + 1 ∧ t.spdmIn = [] ∧ t.mem = s.mem ∧
          rest = if n = 7 ∧ err = false then [.hashes s.nor.booted.fwHash s.nor.booted.cfgHash] else [] := by
      rw [spdmAnswer_on hon]
      exact ⟨_, _, [], rfl, rfl, hP, rfl, rfl, rfl, by rw [if_neg fun h => hn h.1]⟩
    intro replies
    refine ⟨hone 1 false _ (by decide) _ rfl, hone 2 false _ (by decide) _ trivial, fun a b => hone 3 _ _ (by decide) _ fun h => by rw [h]; rfl, ?_⟩
    have hid (n : Nat) (hn : n ≠ 7) (i : Instr) (hi : exec i s = .next (spdmIdentity s n)) : replies i n (!s.nor.idOk) (fun w => s.nor.idOk = false → w = 0) := by
      have h := hone n (!s.nor.idOk) (Config.spdm n s.spdmSeen) hn (fun w => s.nor.idOk = false → w = 0) fun h => by rw [h]; rfl
      rw [← spdmIdentity_on hon, ← hi] at h
      exact h
    intro i n hin
    simp only [List.mem_cons, Prod.mk.injEq, List.not_mem_nil, or_false] at hin
    obtain ⟨rfl, rfl⟩ | ⟨rfl, rfl⟩ | ⟨rfl, rfl⟩ | ⟨rfl, rfl⟩ := hin
    · exact hid 4 (by decide) _ rfl
    · exact hid 5 (by decide) _ rfl
    · exact hid 6 (by decide) _ rfl
    · refine ⟨_, if s.nor.idOk = false then 0 else Config.spdm 7 s.spdmSeen, _, rfl, ?_, fun h => if_pos h, ?_, ?_, ?_, rfl⟩
      all_goals
        rw [spdmIdentity_on hon, spdmAnswer_on hon, hon]
        cases s.nor.idOk <;> simp [State.send]

end Sys2Proof.Machine

/-! ## Power states (R312, R322 to R325, R398, R404 to R407) -/

namespace Sys2Proof.Machine
set_option Elab.async false

/-! ### The boot word -/

theorem oneIf_le (b : Bool) : oneIf b ≤ 1 := by
  cases b <;> decide

theorem toNat_bootWord {stage code : Nat} (hs : stage < 8) (hc : code < 128) (b fa fb : Bool) :
    (bootWord stage b fa fb code).toNat = stage + oneIf b * 8 + oneIf fa * 16 + oneIf fb * 32 + code * 64 := by
  have := oneIf_le b
  have := oneIf_le fa
  have := oneIf_le fb
  rw [bootWord, BitVec.toNat_ofNat]
  exact Nat.mod_eq_of_lt (by omega)

theorem stage_bootWord {stage code : Nat} (hs : stage < 8) (hc : code < 128) (b fa fb : Bool) : (bootWord stage b fa fb code).toNat % 8 = stage := by
  rw [toNat_bootWord hs hc]
  omega

theorem code_bootWord {stage code : Nat} (hs : stage < 8) (hc : code < 128) (b fa fb : Bool) : (bootWord stage b fa fb code).toNat / 2 ^ 6 = code := by
  have := oneIf_le b
  have := oneIf_le fa
  have := oneIf_le fb
  rw [toNat_bootWord hs hc]
  omega

theorem slot_bootWord {stage code : Nat} (hs : stage < 8) (hc : code < 128) (b fa fb : Bool) : (bootWord stage b fa fb code).getLsbD 3 = b := by
  have := oneIf_le fa
  have := oneIf_le fb
  have hbit : (bootWord stage b fa fb code).toNat / 2 ^ 3 % 2 = oneIf b := by
    have := oneIf_le b
    rw [toNat_bootWord hs hc]
    omega
  rw [BitVec.getLsbD, Nat.testBit_eq_decide_div_mod_eq, hbit]
  cases b <;> decide

/-! ### Boot -/

theorem fails_iff (n : Nor) : n.fails = false ↔ n.slotA.passes = true ∨ n.slotB.passes = true := by
  unfold Nor.fails
  cases n.slotA.passes <;> cases n.slotB.passes <;> decide

theorem restoreVmaxs_eq (l : List Nat) (s : State) : ∃ i, l.foldl restoreVmax s = { s with islands := i } := by
  induction l generalizing s with
  | nil => exact ⟨s.islands, rfl⟩
  | cons i r ih =>
    obtain ⟨u, hu⟩ := ih (restoreVmax s i)
    exact ⟨u, hu⟩

/-- The code of BOOTSTAT after a boot (R405, R406). -/
def bootCode (n : Nor) : Nat := if n.idOk = false then 0x7D else if (loadRecord n).2 then 0x7E else 0

theorem bootCode_lt (n : Nor) : bootCode n < 128 := by
  unfold bootCode
  split
  · decide
  split <;> decide

/-- What a boot from power-off leaves. -/
structure Booted (s t : State) : Prop where
  power : t.power = .on
  now : t.now = 0
  mem : t.mem = []
  cores : t.cores = []
  linkUp : t.linkUp = true
  remap : t.remap = s.nor.booted.remap
  bootstat : t.bootstat = bootWord 5 (!s.nor.slotA.passes) (!s.nor.slotA.passes) false (bootCode s.nor)

theorem boot_boots {s : State} (h : s.nor.fails = false) : Booted s (boot s) := by
  let t : State := { State.reset with order := s.order, remap := s.nor.booted.remap, nor := { s.nor with dirtyLoss := false }, out := s.out, agenda := s.agenda, fresh := s.fresh, cur := s.cur, wear := retiredMap s.nor.booted (loadRecord s.nor).1, islands := calibrated 0 0, bootstat := bootWord 5 (!s.nor.slotA.passes) (!s.nor.slotA.passes) false (bootCode s.nor), bootEvents := if s.nor.idOk then [] else [0x7D] }
  have hboot : boot s = if (loadRecord s.nor).2 then (setPwrstat (allIslands.foldl restoreVmax t) false).postF 0x7E else setPwrstat (allIslands.foldl restoreVmax t) false := by
    unfold boot
    dsimp only
    rw [h, if_neg Bool.false_ne_true]
    rfl
  obtain ⟨i, hi⟩ := restoreVmaxs_eq allIslands t
  obtain ⟨w, hw⟩ : ∃ w, setPwrstat (allIslands.foldl restoreVmax t) false = { t with islands := i, pwrstat := w } :=
    ⟨(setPwrstat (allIslands.foldl restoreVmax t) false).pwrstat, by rw [hi]; rfl⟩
  rw [hboot, hw]
  split
  · obtain ⟨o, q, hpost⟩ := postF_eq { t with islands := i, pwrstat := w } 0x7E 0x3F 0x1FF 0 0 0
    rw [hpost]
    exact ⟨rfl, rfl, rfl, rfl, rfl, rfl, rfl⟩
  · exact ⟨rfl, rfl, rfl, rfl, rfl, rfl, rfl⟩

/-! ### The lifetime record -/

/-- The record that is written is the newest valid one (R312). -/
theorem newestRec_writeRecord (s : State) : newestRec (writeRecord s).nor = some { seq := max s.nor.rec0.seq s.nor.rec1.seq + 1, valid := true, wear := s.wear } := by
  unfold writeRecord
  dsimp only
  split
  · unfold newestRec
    dsimp only
    rw [if_neg (by simp), if_pos rfl]
  · unfold newestRec
    dsimp only
    rw [if_pos (by simp; omega)]

/-! ### Wakes -/

theorem wakeCode_lt (s : State) : wakeCode s < 128 := by
  unfold wakeCode
  dsimp only
  split
  · exact Nat.mod_lt _ (by decide)
  split <;> decide

/-- What a wake of an image that boots leaves. -/
theorem wake_wakes {s : State} (hp : s.power = .retain) (h : s.nor.fails = false) :
    (wake s).power = .on ∧ (wake s).nextClose = (s.now / 10000 + 1) * 10000 ∧ (wake s).passDue = true ∧ (wake s).mem = s.mem ∧
      (wake s).bootstat = bootWord 5 (!s.nor.slotA.passes) (!s.nor.slotA.passes) false (wakeCode s) := by
  obtain ⟨d, p, hf⟩ := flowPosted_eq { s with power := .on, agenda := s.linkWait.map (fun i => (0, i)) ++ s.agenda, linkWait := [], saved := none, islands := (s.saved.getD s.islands).foldl (fun (t : Tab Island) e => t.set e.1 { e.2 with idleSince := s.now, strips := none } {}) [], bootstat := bootWord 5 (!s.nor.slotA.passes) (!s.nor.slotA.passes) false (wakeCode s), nextClose := (s.now / 10000 + 1) * 10000, passDue := true }
  unfold wake
  rw [hp]
  dsimp only
  rw [h, if_neg Bool.false_ne_true, hf]
  exact ⟨rfl, rfl, rfl, rfl, rfl⟩

theorem wake_fails {s : State} (hp : s.power = .retain) (h : s.nor.fails = true) : (wake s).power = .retain ∧ (wake s).out = s.out ++ [.sideband 0x7C] := by
  unfold wake
  rw [hp]
  dsimp only
  rw [h, if_pos rfl]
  exact ⟨rfl, rfl⟩

/-- The record that is due is written (R312). -/
theorem exec_lifetimeRecordWrite {s : State} (hr : s.running = true) (hdue : s.recAt + 600000000000 ≤ s.now) :
    ∃ t, exec .lifetimeRecordWrite s = .next t ∧ newestRec t.nor = some { seq := max s.nor.rec0.seq s.nor.rec1.seq + 1, valid := true, wear := s.wear } ∧
      t.recAt = s.now ∧ t.cores = s.cores ∧ t.mem = s.mem := by
  refine ⟨writeRecord s, ?_, newestRec_writeRecord s, rfl, rfl, rfl⟩
  show Host.Outcome.next _ = _
  rw [hr, Bool.true_and, if_pos (decide_eq_true hdue)]

/-! ### The states -/

/-! ### Retain -/

/-- A Retain request is refused while a team is resident (R324). -/
theorem exec_pwrctlRetain_refused {s : State} (hon : s.power = .on) (hres : anyResident s = true) :
    ∃ t, exec .pwrctlRetain s = .next t ∧ t.power = .on ∧ t.refused = true ∧ t.cores = s.cores := by
  have hask : askRetain s = { s with refused := true } := if_pos hres
  refine ⟨askRetain s, ?_, by rw [hask]; exact hon, by rw [hask], by rw [hask]⟩
  show Host.Outcome.next _ = _
  rw [hon]
  dsimp only
  rw [hask, if_neg (by simp [hon])]

theorem exec_pwrctlRetain_enters {s : State} (hon : s.power = .on) (hres : anyResident s = false) :
    ∃ t, exec .pwrctlRetain s = .next t ∧ t.power = .retain ∧ t.cores = [] := by
  refine ⟨enterRetain { s with power := .entering }, ?_, rfl, rfl⟩
  show Host.Outcome.next _ = _
  rw [hon]
  dsimp only
  rw [show askRetain s = { s with power := .entering } from if_neg (by rw [hres]; decide), if_pos rfl]

theorem exec_perstAssert {s : State} (hr : s.running = true) :
    ∃ t, exec .perstAssert s = .next t ∧ t.power = .retain ∧ t.linkUp = false ∧ t.cores = [] ∧ t.tasks = [] := by
  refine ⟨{ emergencyRetain s with linkUp := false, linkWait := [], posted := (emergencyRetain s).posted.filter (fun w => w.1 != 0) }, ?_, rfl, rfl, rfl, rfl⟩
  show Host.Outcome.next _ = _
  rw [if_pos hr]

/-- A sensor is too hot, or a trip has lasted too long (R398). -/
def tooHot (s : State) : Prop := (∃ i, i < 48 ∧ s.tj + 10 ≤ (s.island i).temp) ∨ ∃ since, s.trip = some since ∧ since + 100000000 ≤ s.now

theorem exec_thermalTripTimeout {s : State} (hr : s.running = true) (h : tooHot s) :
    ∃ t, exec .thermalTripTimeout s = .next t ∧ t.power = .retain ∧ t.cores = [] ∧ t.tasks = [] ∧ t.teams = [] := by
  have htrip : allIslands.any (fun i => decide (s.tj + 10 ≤ (s.island i).temp)) = true ∨ s.trip.any (fun t => decide (t + 100000000 ≤ s.now)) = true := by
    obtain ⟨i, hi, ht⟩ | ⟨since, hs, hl⟩ := h
    · exact .inl (List.any_eq_true.mpr ⟨i, List.mem_range.mpr hi, decide_eq_true ht⟩)
    · exact .inr (by rw [hs, Option.any_some]; exact decide_eq_true hl)
  refine ⟨emergencyRetain s, ?_, rfl, rfl, rfl, rfl⟩
  show Host.Outcome.next _ = _
  dsimp only
  rw [hr, Bool.true_and, if_pos (by rw [Bool.or_eq_true]; exact htrip)]

/-- Settles O58: an entry to Retain ends by writing the lifetime record of the machine whose dies are off. -/
theorem powerStates : Obligations.PowerStates := by
  unfold Obligations.PowerStates
  intro s goes good recorded hot
  have hgood (h : good) : s.nor.fails = false := (fails_iff _).mpr h
  have hbad (h : ¬good) : s.nor.fails = true := by
    rw [← Bool.not_eq_false, fails_iff]
    exact h
  refine ⟨fun hoff => ?_, fun hon => ?_, fun hret i hi => ?_⟩
  · have hexec : exec .powerOn s = .next (boot s) := by
      show Host.Outcome.next _ = _
      obtain h | h := hoff <;> rw [h]
    refine ⟨fun h => ⟨_, hexec, ?_⟩, fun h => ⟨_, hexec, ?_⟩⟩
    · obtain ⟨h1, h2, h3, h4, h5, h6, h7⟩ := boot_boots (hgood h)
      rw [h7]
      refine ⟨h1, h2, h3, h4, h5, ?_, slot_bootWord (by decide) (bootCode_lt _) .., stage_bootWord (by decide) (bootCode_lt _) .., fun hid hrec => ?_⟩
      · rw [h6, Nor.booted]
        split <;> rfl
      · rw [code_bootWord (by decide) (bootCode_lt _), bootCode, hid, hrec]
        rfl
    · have hfail : boot s = bootFails s := by
        unfold boot
        dsimp only
        rw [hbad h, if_pos rfl]
      rw [hfail]
      refine ⟨rfl, rfl, rfl, ?_⟩
      show (failWord s.nor).toNat % 8 = _
      rw [failWord, stage_bootWord (by have := oneIf_le s.nor.slotB.ok1; omega) (by decide)]
      rfl
  · have hrunning : s.running = true := by
      unfold State.running
      rw [hon]
      rfl
    refine ⟨⟨_, rfl, ?_⟩, ⟨_, rfl, ?_⟩, exec_lifetimeRecordWrite hrunning, exec_pwrctlRetain_refused hon, exec_pwrctlRetain_enters hon,
      exec_perstAssert hrunning, exec_thermalTripTimeout hrunning⟩
    · rw [hon]
      exact ⟨rfl, rfl, rfl, rfl, rfl⟩
    · rw [hon]
      exact ⟨rfl, rfl, newestRec_writeRecord s⟩
  · have hexec : exec i s = .next (wake s) := by
      simp only [List.mem_cons, List.not_mem_nil, or_false] at hi
      obtain rfl | rfl | rfl := hi <;> rfl
    refine ⟨fun h => ⟨_, hexec, ?_⟩, fun h => ⟨_, hexec, wake_fails hret (hbad h)⟩⟩
    obtain ⟨h1, h2, h3, h4, h5⟩ := wake_wakes hret (hgood h)
    refine ⟨h1, h2, h3, h4, fun hcode => ?_⟩
    rw [h5, code_bootWord (by decide) (wakeCode_lt s), wakeCode]
    exact if_pos hcode

end Sys2Proof.Machine

/-! ## A request to yield that finds a context stopped (R50, R357) -/

namespace Sys2Proof.Machine
set_option Elab.async false

/-- A task of one core that runs. -/
def runningTask : Task :=
  { gen := 0, part := 0, a := 0, b := 0, pin := false, rng := false, prio := 0, dep := 0, home := none, cq := 0, nocq := false, lo := 0, hi := 0, grain := 1, tag := 0, vars := [], args := [], caps := [], succ := [], st := .running, eligAt := 0, accOrd := 0, pref := none, holdSince := none, holdPosted := false, enqTime := 0, joules := 0, uncl := 0, cause := 0 }

/-- Its team, which fails. -/
def failingTeam : Team :=
  { task := 0, st := .failing, x0 := 0, y0 := 0, variant := 0, oid := 1, prio := 0, rangeE := none, launched := 0, outAt := 0, kept := [], bars := [], ringTail := 0, failed := some 0x57, extbase := 0 }

/-- The team's one context stands stopped on core 0. -/
def haltedState : State := { State.reset.setCtx 0 0 { st := .ready, wait := .stopped } with tasks := [(0, some runningTask)], teams := [(0, some failingTeam)] }

theorem teamCtxs_halted : haltedState.teamCtxs 0 = [(0, 0)] := by decide +kernel

theorem ready_halted : ∀ p ∈ haltedState.teamCtxs 0, (haltedState.ctx p.1 p.2).st = .ready := by decide +kernel

theorem ypend_halted : ((takeYields (yieldTeam haltedState 0) 0).ctx 0 0).ypend = false := by decide +kernel

/-- Refutes O56: a context of a failing team is stopped while its slot is Ready; a request to yield passes it by. -/
theorem not_objectsAndQuiescePoints : ¬ Obligations.ObjectsAndQuiescePoints := by
  unfold Obligations.ObjectsAndQuiescePoints
  intro ⟨_, _, _, _, h⟩
  obtain ⟨⟨t, ht, hyield⟩, -⟩ := h haltedState 0 ready_halted
  obtain rfl : takeYields (yieldTeam haltedState 0) 0 = t := Host.Outcome.next.inj ht
  have hpend := hyield (0, 0) (by rw [teamCtxs_halted]; exact List.mem_singleton.mpr rfl)
  rw [show ((takeYields (yieldTeam haltedState 0) 0).ctx (0, 0).1 (0, 0).2).ypend = false from ypend_halted] at hpend
  exact absurd hpend (by decide)

end Sys2Proof.Machine

/-! ## What accesses leave around them: combining, engine threads, stops and the command processor -/

namespace Sys2Proof.Machine
set_option Elab.async false

namespace Around

theorem foldl_fst {β σ : Type} (f : State × σ → β → State × σ) (hf : ∀ x b, Around x.1 (f x b).1) (l : List β) (x : State × σ) :
    Around x.1 (l.foldl f x).1 := .foldl_on Prod.fst f hf l x

/-! ### Bytes -/

theorem writeDev (s : State) (d pa : Nat) (b : List Byte) : Around s (s.writeDev d pa b) := .ite (.plain rfl rfl rfl) (.plain rfl rfl rfl)

theorem writeSram (s : State) (c a : Nat) (b : List Byte) : Around s (s.writeSram c a b) := by
  unfold State.writeSram
  exact .updCore ..

theorem writeHost (s : State) (p addr : Nat) (peer : Bool) (b : List Byte) : Around s (s.writeHost p addr peer b) := by
  unfold State.writeHost
  split
  · exact .ite ((Around.plain rfl rfl rfl : Around s (s.updLink _ _)).trans (.send ..)) (.refl s)
  · exact .send ..

theorem askHost (s : State) (p addr : Nat) (peer : Bool) (n : Nat) : Around s (s.askHost p addr peer n) := by
  unfold State.askHost
  split
  · exact (Around.plain rfl rfl rfl : Around s (s.updLink _ _)).trans (.send ..)
  · exact .send ..

theorem spadTouch (s : State) (core a n t : Nat) (wr : Bool) : Around s (spadTouch s core a n t wr).1 := by
  unfold Machine.spadTouch
  dsimp only
  rw [apply_ite Prod.fst]
  dsimp only
  exact .ite (.refl s) (.updCore ..)

/-! ### The command processor's accesses -/

theorem l2Host (s : State) (die pa n : Nat) (wr : Bool) : Around s (l2Host s die pa n wr) :=
  .foldl _ (fun s _ => (MovesWords.l2Use s die _ _ _).around.trans (.ite (MovesWords.l2Dirty ..).around (.refl _))) _ _

theorem logHomeBad (s : State) (die pa n : Nat) : Around s (logHomeBad s die pa n) := .foldl _ (fun s _ => .logErr s ..) _ _

/-! ### Combining (R84) -/

theorem l2TouchFor (s : State) (core slot team oid page die frame a b : Nat) : Around s (l2TouchFor s core slot team oid page die frame a b) := by
  unfold Machine.l2TouchFor
  dsimp only
  split
  · exact (MovesWords.l2Use ..).around
  · exact (MovesWords.l2Use ..).around.trans ((MovesWords.meterFor ..).around.trans (MovesWords.countFill ..).around)

theorem foldPartial (s : State) (core : Nat) (e : Partial) : Around s (foldPartial s core e) := by
  unfold Machine.foldPartial
  dsimp only
  exact ((Around.l2TouchFor ..).trans (MovesWords.l2Dirty ..).around).trans (.writeDev ..)

theorem spoilL2 (s : State) (die w : Nat) : Around s (spoilL2 s die w) := (Around.updDie s _ _).trans (.updDie _ _ _)

theorem foldBad (s : State) (core : Nat) (e : Partial) : Around s (foldBad s core e) := by
  unfold Machine.foldBad
  dsimp only
  refine Around.trans ?_ (.logErr ..)
  exact (MovesWords.l2Dirty ..).around.trans (.spoilL2 ..)

theorem combine (s : State) (die a n : Nat) : Around s (combine s die a n) := by
  unfold Machine.combine
  dsimp only
  refine Around.trans ?_ (.updDie ..)
  refine Around.trans ?_ (.foldl _ (fun s c => .updCore s c _) _ _)
  refine Around.trans (Around.trans ?_ (.foldl _ (fun s x => ?_) _ _)) (.foldl _ (fun s x => ?_) _ _)
  · exact .ite (.refl s) (MovesWords.recallWords ..).around
  · exact .foldl _ (fun s e => .foldPartial s _ e) _ _
  · exact .foldl _ (fun s e => .foldBad s _ e) _ _

theorem combineFor (s : State) (die pa n : Nat) : Around s (combineFor s die pa n) := .foldl _ (fun s _ => .combine s die _ _) _ _

theorem track (s : State) (die a n part : Nat) : Around s (track s die a n part) := by
  unfold Machine.track
  dsimp only
  refine Around.trans (.ite (.refl s) ?_) (.updDie ..)
  split
  · exact .refl s
  · exact (Around.combine ..).trans (.ite (.refl _) ((Around.updDie ..).trans (.postE ..)))

theorem partRoom (s : State) (core die w : Nat) : Around s (partRoom s core die w) := by
  unfold Machine.partRoom
  dsimp only
  refine .ite (.refl s) ?_
  split
  · exact .foldl _ (fun s _ => .combine s _ _ _) _ _
  · exact .refl s

theorem commUpdate (s : State) (core slot : Nat) (ob : Obj) (oid page die pa v t : Nat) :
    Around s (commUpdate s core slot ob oid page die pa v t).1 := by
  unfold Machine.commUpdate
  dsimp only
  refine Around.trans (Around.trans ?_ (MovesWords.homeWrites ..).around) (.updCore ..)
  exact ((Around.track ..).trans (.partRoom ..)).trans (.ite (.refl _) (.track ..))

theorem freshTimes (s : State) (die pa n t : Nat) : Around s (freshTimes s die pa n t) :=
  .ite (.updDie ..) ((Around.updDie ..).trans (.foldl _ (fun s _ => .updDie s ..) _ _))

theorem dropPage (s : State) (die pa n t : Nat) : Around s (dropPage s die pa n t) := by
  have hflush : Around s (Machine.flushRange (Machine.combineFor s die pa n) die pa n true) := (Around.combineFor ..).trans (MovesWords.flushRange ..).around
  unfold Machine.dropPage
  dsimp only
  refine Around.trans ?_ (.freshTimes ..)
  refine hflush.trans (.foldl _ (fun s c => ?_) _ _)
  exact .ite (.updCore ..) (.refl s)

/-! ### Engine threads -/

theorem touchChunk (core slot : Nat) (pl : Place) (oid o n : Nat) (wr : Bool) (x : State × Nat) :
    Around x.1 (touchChunk core slot pl oid o n wr x).1 := by
  cases pl with
  | sram t a => exact .spadTouch ..
  | dev d pa => exact (Around.combineFor x.1 d pa n).trans (MovesWords.request ..).around
  | host a peer => exact .refl _

theorem writeChunk (core slot : Nat) (g : Chunk) (x : State × Nat) : Around x.1 (writeChunk core slot g x).1 := by
  refine (Around.touchChunk core slot g.pl g.oid g.o g.data.length true x).trans ?_
  unfold Machine.writeChunk
  dsimp only
  split
  · exact .ite (.writeSram ..) (.foldl _ (fun s _ => .writeSram s ..) _ _)
  · exact .ite (.writeDev ..) (.foldl _ (fun s _ => .writeDev s ..) _ _)
  · split
    · exact .writeHost ..
    · refine Around.trans ?_ (.writeHost ..)
      exact (Around.askHost ..).trans (.plain rfl rfl rfl)

theorem updateChunk (core slot : Nat) (g : Chunk) (x : State × Nat) : Around x.1 (updateChunk core slot g x).1 := by
  unfold Machine.updateChunk
  split
  · exact .foldl_fst _ (fun x _ => .commUpdate x.1 ..) _ x
  · exact .refl _

theorem putChunk (core slot : Nat) (g : Chunk) (x : State × Nat) : Around x.1 (putChunk core slot g x).1 := by
  unfold Machine.putChunk
  split
  · exact .updateChunk core slot g x
  · exact .writeChunk core slot g x

theorem writeLeft (s : State) (core : Nat) (o : EOp) : Around s (writeLeft s core o).1 := by
  have hr : Around s (readLeft core o (s, o.time)).1.1 := by
    unfold readLeft
    refine .foldl_on (fun y => y.1.1) _ (fun y u => ?_) o.unread ((s, o.time), o.left)
    exact .touchChunk core o.slot u.pl u.oid u.o u.n false y.1
  unfold Machine.writeLeft putChunks
  exact hr.trans (.foldl_fst _ (fun x g => .putChunk core o.slot g x) _ _)

theorem stopCtx (s : State) (core slot : Nat) : Around s (stopCtx s core slot) := by
  unfold Machine.stopCtx
  dsimp only
  exact ((Around.foldl _ (fun s o => .writeLeft s core o) _ _).trans (.updCore ..)).trans (.updCtx ..)

theorem emptyL1 (s : State) (core : Nat) : Around s (emptyL1 s core) := by
  unfold Machine.emptyL1 drainVictim
  exact (MovesWords.dropL1 ..).around.trans (.foldl _ (fun s _ => (MovesWords.grantOldest s core).around) _ _)

theorem sleepCore (s : State) (core : Nat) : Around s (sleepCore s core) :=
  (Around.foldl _ (fun s _ => .combineFor s _ _ _) _ _).trans (.emptyL1 ..)

/-! ### Accesses of a context -/

theorem devTouch (s : State) (core slot oid o d pa n : Nat) (wr : Bool) (ty hint : Nat) : Around s (devTouch s core slot oid o d pa n wr ty hint) := by
  unfold Machine.devTouch
  dsimp only
  exact ((Around.combineFor ..).trans (MovesWords.request ..).around).trans (.updCtx ..)

theorem touchAt (s : State) (core slot oid o : Nat) (pl : Place) (n : Nat) (wr : Bool) (ty hint : Nat) :
    Around s (touchAt s core slot oid o pl n wr ty hint) := by
  unfold Machine.touchAt
  split
  · exact .devTouch ..
  next t a =>
    dsimp only
    refine Around.trans ?_ (.updCtx ..)
    exact .spadTouch ..
  · exact .refl s

theorem errorAt (s : State) (core slot : Nat) (pl : Place) (x : Word) : Around s (errorAt s core slot pl x) := by
  unfold Machine.errorAt
  dsimp only
  split
  · exact .uncorr ..
  next d pa =>
    have hrecall : Around s (if otherBad s core d pa then Machine.recallWord s d (pa / 32) else s) := .ite (MovesWords.recallWord ..).around (.refl s)
    exact hrecall.trans (.ite (.uncorr ..) (.uncorr ..))
  · exact .refl s

theorem tableErr (s : State) (core slot oid o code : Nat) : Around s (tableErr s core slot oid o code) := by
  unfold Machine.tableErr
  refine .ite (.refl s) (.ite (.uncorr ..) ?_)
  split
  · exact .uncorr ..
  · exact .refl s

end Around

/-- A read of the command processor. -/
theorem Around.cpRead {s t : State} {p oid o n : Nat} {r : Option Nat} (h : cpRead s p oid o n = (t, r)) : Around s t := by
  unfold Machine.cpRead at h
  split at h
  · dsimp only at h
    have hread (d pa : Nat) : Around s (Machine.l2Host (Machine.recallWords (Machine.combineFor s d pa n) d (span (pa / 32) ((pa + n + 31) / 32 - pa / 32))) d pa n false) :=
      ((Around.combineFor ..).trans (MovesWords.recallWords ..).around).trans (.l2Host ..)
    split at h
    · cases h
      exact (hread _ _).trans (.logHomeBad ..)
    · cases h
      exact hread _ _
  · cases h
    exact .refl s

theorem Around.cpWrite (s : State) (p oid o : Nat) (b : List Byte) : Around s (cpWrite s p oid o b) := by
  unfold Machine.cpWrite
  split
  · dsimp only
    next d pa _ =>
      have hhome : Around s (Machine.homeWrites (Machine.combineFor s d pa b.length) d (span (pa / 32) ((pa + b.length + 31) / 32 - pa / 32)) ((Machine.combineFor s d pa b.length).part p).ptime).1 :=
        (Around.combineFor ..).trans (MovesWords.homeWrites ..).around
      exact hhome.trans (.ite (.logHomeBad ..) ((Around.l2Host ..).trans (.writeDev ..)))
  · exact .refl s

end Sys2Proof.Machine

/-! ## What the command processor leaves: submission queues, ends of tasks and of teams

`Served s t`: tasks, teams and what accesses change apart, the machine is as it was; every partition keeps its set-up, and
every ring of a queue its registers and its count of entries written. -/

namespace Sys2Proof.Machine
set_option Elab.async false

/-- The machine without its tasks, and without what says that a pass is due. -/
def State.untasked (s : State) : State := { s with tasks := [], gens := [], accepts := 0, passDue := false }

/-- The machine without what the command processor changes. -/
def State.served (s : State) : State := s.rest.untasked

/-- A partition without its queues and its reservation. -/
def Part.unqueued (x : Part) : Part := { x with qs := [], resv := none }

/-- A partition without its queues, its reservation and its events: what its registers set up. -/
def Part.setUp (x : Part) : Part := x.unposted.unqueued

/-- A queue without its waiting entries and SQ_OVERRUN. -/
def Queue.ring (x : Queue) : Queue := { x with waiting := [], sqoff := false }

/-- What the command processor leaves where it reads queues and ends tasks. -/
structure Served (s t : State) : Prop where
  rest : t.served = s.served
  setUp : ∀ p, (t.part p).setUp = (s.part p).setUp
  ring : ∀ p q, ((t.part p).queueOf q).ring = ((s.part p).queueOf q).ring
  out : ∃ l, t.out = s.out ++ l

theorem part_updPart_other (s : State) (f : Part → Part) {n p : Nat} (h : n ≠ p) : (s.updPart p f).part n = s.part n :=
  Tab.get_set_other _ _ _ _ _ _ h

theorem queueOf_updQueue (s : State) (p q : Nat) (f : Queue → Queue) :
    ((s.updQueue p q f).part p).queueOf q = f ((s.part p).queueOf q) := by
  unfold State.updQueue
  rw [part_updPart]
  exact Tab.get_set_same _ _ _ _

namespace Served

theorem refl (s : State) : Served s s := ⟨rfl, fun _ => rfl, fun _ _ => rfl, [], (List.append_nil _).symm⟩

theorem trans {s t u : State} (h : Served s t) (k : Served t u) : Served s u := by
  obtain ⟨l, hl⟩ := h.out
  obtain ⟨r, hr⟩ := k.out
  exact ⟨k.rest.trans h.rest, fun p => (k.setUp p).trans (h.setUp p), fun p q => (k.ring p q).trans (h.ring p q), l ++ r,
    by rw [hr, hl, List.append_assoc]⟩

theorem plain {s t : State} (hr : t.served = s.served) (hp : t.parts = s.parts) (ho : t.out = s.out) : Served s t :=
  ⟨hr, fun p => by rw [State.part, hp]; rfl, fun p q => by rw [State.part, hp]; rfl, [], by rw [ho, List.append_nil]⟩

theorem ite {p : Prop} [Decidable p] {s t u : State} (h : Served s t) (k : Served s u) : Served s (if p then t else u) := by
  split
  · exact h
  · exact k

theorem foldl_on {β σ : Type} (m : σ → State) (f : σ → β → σ) (hf : ∀ x b, Served (m x) (m (f x b))) (l : List β) (x : σ) :
    Served (m x) (m (l.foldl f x)) := by
  induction l generalizing x with
  | nil => exact .refl _
  | cons b r ih => exact (hf x b).trans (ih _)

theorem foldl {β : Type} (f : State → β → State) (hf : ∀ s b, Served s (f s b)) (l : List β) (s : State) : Served s (l.foldl f s) :=
  .foldl_on id f hf l s

theorem setTask (s : State) (i : Nat) (k : Option Task) : Served s (s.setTask i k) := .plain rfl rfl rfl

theorem updTask (s : State) (i : Nat) (f : Task → Task) : Served s (s.updTask i f) := .setTask ..

/-- A write of a partition that keeps its set-up and its rings. -/
theorem updPart (s : State) (p : Nat) (f : Part → Part) (hs : (f (s.part p)).setUp = (s.part p).setUp)
    (hq : ∀ q, ((f (s.part p)).queueOf q).ring = ((s.part p).queueOf q).ring) : Served s (s.updPart p f) := by
  refine ⟨rfl, fun n => ?_, fun n q => ?_, [], (List.append_nil _).symm⟩
  · by_cases hn : n = p
    · subst hn
      rw [part_updPart, hs]
    · rw [part_updPart_other s f hn]
  · by_cases hn : n = p
    · subst hn
      rw [part_updPart, hq]
    · rw [part_updPart_other s f hn]

theorem updQueue (s : State) (p q : Nat) (f : Queue → Queue) (hf : ∀ x : Queue, (f x).ring = x.ring) : Served s (s.updQueue p q f) := by
  refine .updPart s p _ rfl fun n => ?_
  by_cases hn : n = q
  · subst hn
    show Queue.ring (Tab.get (Tab.set _ n _ _) n _) = _
    rw [Tab.get_set_same, hf]
  · show Queue.ring (Tab.get (Tab.set _ q _ _) n _) = _
    rw [Tab.get_set_other _ _ _ _ _ _ hn]
    rfl

end Served

theorem Around.served {s t : State} (h : Around s t) : Served s t := by
  have hpart (p : Nat) : (t.part p).unposted.qs = (s.part p).unposted.qs := by rw [h.part p]
  refine ⟨congrArg State.untasked h.rest,
    fun p => congrArg Part.unqueued (h.part p), fun p q => ?_, h.out⟩
  exact congrArg (fun x : Tab Queue => (x.get q {}).ring) (hpart p)

/-! ### Submission queues (R275) -/

namespace Served

theorem queueEntry (s : State) (p q : Nat) (e : BitVec 256) (i : Option Nat) : Served s (queueEntry s p q e i) := .updQueue _ _ _ _ fun _ => rfl

theorem refuseEntry (s : State) (p d : Nat) : Served s (refuseEntry s p d) := .ite (.refl s) (.queueEntry ..)

theorem counts (s : State) (g : Tab Nat) (n : Nat) (b : Bool) : Served s { s with gens := g, accepts := n, passDue := b } := .plain rfl rfl rfl

theorem takeIn (s : State) (p d : Nat) (src : Nat → BitVec 128) (time : Nat) : Served s (takeIn s p d src time).1 :=
  ((Around.draw s).served.trans (.setTask ..)).trans (.counts ..)

theorem consume (s : State) (p e : Nat) : Served s (consume s p e) := by
  unfold Machine.consume
  refine .ite ?_ (.refuseEntry ..)
  have htake := Served.takeIn s p (e % 2 ^ 2048) (fun i => BitVec.ofNat 128 (bits e (2048 + 128 * i) 128)) 0
  refine .ite ?_ htake
  split
  · exact htake.trans (.queueEntry ..)
  · exact htake

theorem consumeFrom (p q oid ln : Nat) (n head : Nat) (s : State) : Served s (consumeFrom s p q oid ln head n) := by
  induction n generalizing s head with
  | zero => exact .refl s
  | succ n ih =>
    unfold Machine.consumeFrom
    refine .ite (.refl s) ?_
    split
    · next h => exact (Around.cpRead h).served
    · next h => exact (((Around.cpRead h).served.trans (.consume ..)).trans (Around.cpWrite ..).served).trans (ih ..)

theorem readQueue (s : State) (p q : Nat) : Served s (readQueue s p q) := by
  unfold Machine.readQueue
  refine .ite (.refl s) ?_
  dsimp only
  split
  · next h => exact (Around.cpRead h).served
  next h =>
    split
    · next k => exact (Around.cpRead h).served.trans (Around.cpRead k).served
    next k =>
      refine ((Around.cpRead h).served.trans (Around.cpRead k).served).trans (.ite ?_ (.consumeFrom ..))
      exact (Served.updQueue _ p q (fun x => { x with sqoff := true }) fun _ => rfl).trans (Around.postE ..).served

theorem readQueues (s : State) (p : Nat) : Served s (readQueues s p) := .foldl _ (fun s q => .readQueue s p q) _ _

/-! ### The end of a task (R39, R280, R281, R357) -/

theorem freeTask (s : State) (i : Nat) : Served s (freeTask s i) := by
  unfold Machine.freeTask
  split
  · exact (Served.setTask ..).trans (.readQueues ..)
  · exact .refl s

theorem releaseSucc (s : State) (p h : Nat) : Served s (releaseSucc s p h) := by
  unfold Machine.releaseSucc
  split
  · exact .ite (.refl s) (.ite (.plain rfl rfl rfl) (.setTask ..))
  · exact .refl s

theorem touchResv (s : State) (p : Nat) : Served s (touchResv s p) := by
  unfold Machine.touchResv
  split
  · split
    · exact .foldl _ (fun s _ => (Around.updIsland s _ _).served) _ _
    · exact .refl s
  · exact .refl s

theorem dropResv (s : State) (p i : Nat) : Served s (dropResv s p i) := by
  unfold Machine.dropResv
  split
  · exact .ite ((Served.touchResv ..).trans (.updPart _ _ _ rfl fun _ => rfl)) (.refl s)
  · exact .refl s

theorem endTask (s : State) (i cause : Nat) (entry : Bool) : Served s (endTask s i cause entry) := by
  unfold Machine.endTask
  split
  · exact .refl s
  dsimp only
  refine Served.trans ?_ (.ite (.queueEntry ..) (.freeTask ..))
  exact ((Served.dropResv ..).trans (.setTask ..)).trans (.ite (.foldl _ (fun s h => .releaseSucc s _ h) _ _) (.refl _))

theorem dropEntries (s : State) (p : Nat) : Served s (dropEntries s p) := by
  refine .foldl _ (fun s q => ?_) _ _
  dsimp only
  refine (Served.updQueue s p q (fun x => { x with waiting := [] }) fun _ => rfl).trans (.foldl _ (fun s e => ?_) _ _)
  split
  · exact .ite (.refl s) (.setTask ..)
  · exact .refl s

end Served

/-! ### Tasks that are killed (R357, R404) -/

/-- Every partition keeps its set-up. -/
def KeepsSetUp (s t : State) : Prop := ∀ p, (t.part p).setUp = (s.part p).setUp

namespace KeepsSetUp

theorem refl (s : State) : KeepsSetUp s s := fun _ => rfl

theorem trans {s t u : State} (h : KeepsSetUp s t) (k : KeepsSetUp t u) : KeepsSetUp s u := fun p => (k p).trans (h p)

theorem foldl {β : Type} (f : State → β → State) (hf : ∀ s b, KeepsSetUp s (f s b)) (l : List β) (s : State) : KeepsSetUp s (l.foldl f s) := by
  induction l generalizing s with
  | nil => exact .refl s
  | cons b r ih => exact (hf s b).trans (ih _)

theorem of_parts {s t : State} (h : t.parts = s.parts) : KeepsSetUp s t := fun p => by
  rw [State.part, h]
  rfl

theorem stopCtx (s : State) (core slot : Nat) : KeepsSetUp s (stopCtx s core slot) := (Around.served (Around.stopCtx s core slot)).setUp

theorem failTeam (s : State) (t cause : Nat) : KeepsSetUp s (failTeam s t cause) := by
  unfold Machine.failTeam
  split
  · exact .refl s
  split
  · exact .refl s
  dsimp only
  refine KeepsSetUp.trans ?_ (.of_parts rfl)
  exact .foldl (fun s (p : Nat × Nat) => Machine.stopCtx s p.1 p.2) (fun s p => .stopCtx s p.1 p.2) (s.teamCtxs t) s

theorem killTask (s : State) (i : Nat) (entry : Bool) : KeepsSetUp s (killTask s i entry) := by
  unfold Machine.killTask
  cases s.task i with
  | none => exact .refl s
  | some t =>
    dsimp only
    split
    · exact (Served.endTask ..).setUp
    · exact (Served.endTask ..).setUp
    · exact .foldl (fun s m => Machine.failTeam s m 0x57) (fun s m => .failTeam s m 0x57) (s.taskTeams i) s
    · exact .refl s

theorem killAll (s : State) (p : Nat) : KeepsSetUp s (killAll s p) :=
  .foldl _ (fun s i => (KeepsSetUp.of_parts rfl : KeepsSetUp s (s.updTask i _)).trans (.killTask (s.updTask i _) i false)) _ _

end KeepsSetUp

end Sys2Proof.Machine

/-! ## Writes of the physical function's registers, and function level resets (O55) -/

namespace Sys2Proof.Machine
set_option Elab.async false

theorem viaPf_reached {s : State} (h : reachesPf s = true) (i : Instr) (f : State → State) : viaPf s i f = f s := by
  simp only [reachesPf, Bool.and_eq_true, beq_iff_eq] at h
  simp [viaPf, h.1, h.2]

theorem fld_eq {w : Nat} (v : BitVec w) (lo len : Nat) : fld v lo len = v.toNat / 2 ^ lo % 2 ^ len := rfl

/-- The field from a bit of a word up to its end. -/
theorem fld_end (v : Word) {lo len : Nat} (h : lo + len = 64) : fld v lo len = v.toNat / 2 ^ lo := by
  rw [fld_eq, Nat.mod_eq_of_lt]
  rw [Nat.div_lt_iff_lt_mul (Nat.two_pow_pos lo), ← pow_add, add_comm len, h]
  exact v.isLt

/-- What no step of a fold changes. -/
theorem foldl_keeps {α β γ : Type} (m : α → γ) (f : α → β → α) (h : ∀ a b, m (f a b) = m a) (l : List β) (a : α) : m (l.foldl f a) = m a :=
  List.foldlRecOn (motive := fun t => m t = m a) l f rfl fun t ht b _ => (h t b).trans ht

/-! ### Islands and links -/

theorem island_updIsland (s : State) (i : Nat) (f : Island → Island) : (s.updIsland i f).island i = f (s.island i) :=
  Tab.get_set_same _ _ _ _

theorem island_updIsland_other (s : State) (f : Island → Island) {i j : Nat} (h : j ≠ i) : (s.updIsland i f).island j = s.island j :=
  Tab.get_set_other _ _ _ _ _ _ h

theorem foldl_updIsland_eq {β : Type} (g : β → Nat) (f : β → Island → Island) (l : List β) (s : State) :
    ∃ x, l.foldl (fun s b => s.updIsland (g b) (f b)) s = { s with islands := x } := by
  induction l generalizing s with
  | nil => exact ⟨_, rfl⟩
  | cons b r ih =>
    obtain ⟨x, hx⟩ := ih (s.updIsland (g b) (f b))
    exact ⟨x, hx⟩

theorem sharedModes_eq (s : State) : ∃ x, sharedModes s = { s with islands := x } :=
  foldl_updIsland_eq (fun i => i) (fun _ x => { x with mode := x.pfMode }) _ s

theorem part_sharedModes (s : State) (p : Nat) : (sharedModes s).part p = s.part p := by
  obtain ⟨x, hx⟩ := sharedModes_eq s
  rw [hx]
  rfl

theorem passDue_sharedModes (s : State) : (sharedModes s).passDue = s.passDue := by
  obtain ⟨x, hx⟩ := sharedModes_eq s
  rw [hx]

/-! ### PKGCON and PSET (R297, R328) -/

theorem pkgconWrite_does {s : State} (v : Word) (h : reachesPf s = true) :
    exec (.pkgconWrite v) s = .next (setPkgcon s v) := congrArg Host.Outcome.next (viaPf_reached h _ _)

theorem psetWrite_does {s : State} {p : Nat} (v : Word) (h : reachesPf s = true) (hp : p < 8) : exec (.psetWrite p v) s = .next (setPset s p v) := by
  show Host.Outcome.next _ = _
  rw [viaPf_reached h, if_pos hp]

theorem setPset_reserved {s : State} (p : Nat) {v : Word} (h : v.toNat / 2 ^ 30 ≠ 0) : setPset s p v = s := by
  unfold setPset
  exact if_pos (by rwa [fld_end v (by decide)])

theorem setPset_over {s : State} (p : Nat) {v : Word} (hv : v.getLsbD 0 = true)
    (h : 32768 < v.toNat / 2 % 2 ^ 16 + shareSum s p 1 16 ∨ 4096 < v.toNat / 2 ^ 17 % 2 ^ 13 + shareSum s p 17 13) : setPset s p v = s := by
  have hover : (fld v 0 1 == 1 && (decide (32768 < fld v 1 16 + shareSum s p 1 16) || decide (4096 < fld v 17 13 + shareSum s p 17 13))) = true := by
    rw [fld_bit, hv]
    rw [Bool.and_eq_true, Bool.or_eq_true]
    exact ⟨rfl, h.imp decide_eq_true decide_eq_true⟩
  unfold setPset
  dsimp only
  rw [if_pos hover, ite_self]

theorem setPset_enables {s : State} (p : Nat) {v : Word} (hr : v.toNat / 2 ^ 30 = 0) (hv : v.getLsbD 0 = true)
    (ht : v.toNat / 2 % 2 ^ 16 + shareSum s p 1 16 ≤ 32768) (hg : v.toNat / 2 ^ 17 % 2 ^ 13 + shareSum s p 17 13 ≤ 4096) :
    setPset s p v = sharedModes { s.updPart p (fun x => { x with pset := v }) with passDue := true } := by
  have hon : (fld v 0 1 == 1) = true := by rw [fld_bit, hv]; rfl
  have hroom : (decide (32768 < fld v 1 16 + shareSum s p 1 16) || decide (4096 < fld v 17 13 + shareSum s p 17 13)) = false := by
    rw [Bool.or_eq_false_iff]
    exact ⟨decide_eq_false (Nat.not_lt.mpr ht), decide_eq_false (Nat.not_lt.mpr hg)⟩
  unfold setPset
  simp only [fld_end v (show 30 + 34 = 64 from rfl), hr, hon, hroom]
  simp

/-! ### PRECT (R328) -/

theorem prectWrite_does {s : State} {p m : Nat} (v : Word) (h : reachesPf s = true) (hp : p < 8) (hm : m < 8) :
    exec (.prectWrite p m v) s = .next (setPrect s p m v) := by
  show Host.Outcome.next _ = _
  rw [viaPf_reached h, if_pos ⟨hp, hm⟩]

/-- An accepted write of a rectangle register. -/
theorem setPrect_writes {s : State} {p m : Nat} {v : Word} (hr : v.toNat < 2 ^ 15) (hok : ∀ r, rectOf v = some r → rectOk s p m r = true) :
    (setPrect s p m v).passDue = true ∧ (setPrect s p m v).part p = { s.part p with prect := (s.part p).prect.set m v 0 } ∧
    ∀ q, q ≠ p → (setPrect s p m v).part q = s.part q := by
  have hres : fld v 15 49 = 0 := by
    rw [fld_end v (by decide)]
    exact Nat.div_eq_of_lt hr
  have hgoes : ∃ l, setPrect s p m v = sharedModes { s.updPart p (fun x => { x with prect := x.prect.set m v 0 }) with passDue := true, quiesce := l } := by
    cases hrect : rectOf v with
    | none =>
      simp only [setPrect, hrect, hres, ne_eq, not_true_eq_false, Bool.true_eq_false, or_false, if_false]
      split
      · exact ⟨_, rfl⟩
      · exact ⟨_, rfl⟩
    | some r =>
      simp only [setPrect, hrect, hok r hrect, hres, ne_eq, not_true_eq_false, Bool.true_eq_false, or_false, if_false]
      split
      · exact ⟨_, rfl⟩
      · exact ⟨_, rfl⟩
  obtain ⟨l, hl⟩ := hgoes
  rw [hl]
  refine ⟨passDue_sharedModes _, ?_, fun q hq => ?_⟩
  · rw [part_sharedModes]
    exact part_updPart s p fun x => { x with prect := x.prect.set m v 0 }
  · rw [part_sharedModes]
    exact part_updPart_other s (fun x => { x with prect := x.prect.set m v 0 }) hq

/-! ### Function level resets (R404) -/

theorem part_dropCommand (s : State) (p q : Nat) : (dropCommand s p).part q = s.part q := rfl

theorem setUp_kills (s : State) (p : Nat) : KeepsSetUp s (killAll (dropEntries s p) p) := KeepsSetUp.trans (Served.dropEntries s p).setUp (.killAll _ _)

/-- What a reset of VF `p` leaves of a partition. -/
theorem part_flr (s : State) (p : Nat) : ∃ x, (flr s p).part p = resetPart x ∧ x.setUp = (s.part p).setUp := by
  have hk := setUp_kills s p
  generalize hu : killAll (dropEntries s p) p = u at hk
  refine ⟨u.part p, ?_, hk p⟩
  unfold flr
  rw [hu, part_updPart, part_dropCommand]

theorem setUp_flr_other (s : State) {p q : Nat} (h : q ≠ p) : ((flr s p).part q).setUp = (s.part q).setUp := by
  have hk := setUp_kills s p
  generalize hu : killAll (dropEntries s p) p = u at hk
  unfold flr
  rw [hu, part_updPart_other _ _ h, part_dropCommand]
  exact hk q

/-- A partition without shares, memory, supervisor code and rectangles. -/
structure Part.Unset (x : Part) : Prop where
  pset : x.pset = 0
  pmem : x.pmem = 0
  supcfg : x.supcfg = 0
  prect : ∀ m, m < 8 → x.prect.get m 0 = 0

theorem Part.Unset.of_setUp {x y : Part} (h : y.setUp = x.setUp) (hx : x.Unset) : y.Unset := by
  have hpset : y.pset = x.pset := show y.setUp.pset = x.setUp.pset by rw [h]
  have hpmem : y.pmem = x.pmem := show y.setUp.pmem = x.setUp.pmem by rw [h]
  have hsup : y.supcfg = x.supcfg := show y.setUp.supcfg = x.setUp.supcfg by rw [h]
  have hrect : y.prect = x.prect := show y.setUp.prect = x.setUp.prect by rw [h]
  exact ⟨hpset.trans hx.pset, hpmem.trans hx.pmem, hsup.trans hx.supcfg, fun m hm => by rw [hrect, hx.prect m hm]⟩

theorem rectOf_zero : rectOf 0 = none := rfl

theorem setPrect_zero (s : State) (p m : Nat) :
    (setPrect s p m 0).part p = { s.part p with prect := (s.part p).prect.set m 0 0 } ∧ ∀ q, q ≠ p → (setPrect s p m 0).part q = s.part q :=
  (setPrect_writes (s := s) (p := p) (m := m) (v := 0) (by decide) (fun r h => absurd (h ▸ rectOf_zero) (Option.some_ne_none r))).2

/-- Clearing every rectangle of a partition. -/
theorem clearRects (s : State) (p : Nat) :
    let t := (List.range 8).foldl (fun s m => setPrect s p m 0) s
    (t.part p).supcfg = (s.part p).supcfg ∧ (∀ m, m < 8 → (t.part p).prect.get m 0 = 0) ∧ ∀ q, q ≠ p → t.part q = s.part q := by
  refine ⟨?_, fun m hm => ?_, fun q hq => ?_⟩
  · refine foldl_keeps (fun s : State => (s.part p).supcfg) _ (fun s m => ?_) _ _
    rw [(setPrect_zero s p m).1]
  · refine foldl_reaches (fun s : State => (s.part p).prect.get m 0 = 0) (List.mem_range.mpr hm) (fun s => ?_) (fun s n _ h => ?_) s
    · rw [(setPrect_zero s p m).1]
      exact Tab.get_set_same (s.part p).prect m 0 0
    · rw [(setPrect_zero s p n).1]
      by_cases hn : m = n
      · subst hn
        exact Tab.get_set_same (s.part p).prect m 0 0
      · exact (Tab.get_set_other (s.part p).prect n m 0 0 0 hn).trans h
  · exact foldl_keeps (fun s : State => s.part q) _ (fun s m => (setPrect_zero s p m).2 q hq) _ _

theorem resetSetup_unsets (s : State) (p : Nat) : ((resetSetup (flr s p) p).part p).Unset := by
  obtain ⟨x, hx, -⟩ := part_flr s p
  obtain ⟨hsup, hrect, -⟩ := clearRects (flr s p) p
  unfold resetSetup
  rw [part_updPart]
  refine ⟨rfl, rfl, hsup.trans ?_, hrect⟩
  rw [hx]
  rfl

theorem setUp_resetSetup_other (s : State) {p q : Nat} (h : q ≠ p) : ((resetSetup (flr s p) p).part q).setUp = (s.part q).setUp := by
  unfold resetSetup
  rw [part_updPart_other _ _ h, (clearRects (flr s p) p).2.2 q h, setUp_flr_other s h]

theorem mem_allParts {p : Nat} : p ∈ allParts ↔ p < 8 := by
  unfold allParts
  simp only [List.mem_cons, List.not_mem_nil, or_false]
  omega

/-- Every partition is unset after an FLR of each. -/
theorem resetSetup_all (s : State) (p : Nat) (hp : p < 8) : ((allParts.foldl (fun s p => resetSetup (flr s p) p) s).part p).Unset := by
  refine foldl_reaches (fun s : State => (s.part p).Unset) (f := fun s p => resetSetup (flr s p) p) (mem_allParts.mpr hp) (resetSetup_unsets · p) (fun s q _ h => ?_) s
  by_cases hn : p = q
  · subst hn
    exact resetSetup_unsets s p
  · exact h.of_setUp (setUp_resetSetup_other s hn)

/-! ### ISLDV and the FLR of the physical function (R302, R404) -/

theorem isldvWrite_does {s : State} {i : Nat} (v : Word) (h : reachesPf s = true) (hi : i < 48) :
    exec (.isldvWrite .pf i v) s = .next (writeIsldv s .pf i v) := by
  show Host.Outcome.next (viaPf s (.isldvWrite .pf i v) fun s => if i < 48 then writeIsldv s .pf i v else s) = _
  rw [viaPf_reached h, if_pos hi]

theorem island_writeIsldv (s : State) (i : Nat) (v : Word) :
    (writeIsldv s .pf i v).island i =
      { s.island i with vtgt := fld v 21 7, mode := fld v 34 1, denied := (s.island i).denied && fld v 33 1 == 0, pfMode := fld v 34 1 } := by
  unfold writeIsldv setIsldv
  dsimp only
  rw [island_updIsland, island_updIsland]

theorem fld_bit_eq_zero (v : Word) (i : Nat) : (fld v i 1 == 0) = !v.getLsbD i := by
  rw [fld_bit]
  cases v.getLsbD i <;> rfl

theorem vfFlr_does {s : State} {p : Nat} (h : reachesPf s = true) (hp : p < 8) : exec (.vfFlr p) s = .next (flr s p) := by
  show Host.Outcome.next _ = _
  rw [viaPf_reached h, if_pos hp]

/-- Every island at its reset values. -/
def plainIslands (s : State) : State :=
  allIslands.foldl (fun s i => s.updIsland i (fun x => { x with vtgt := 50, mode := 0, pfMode := 0, denied := false })) s

/-- Every peer link without its partition. -/
def unmapLinks (s : State) : State := allParts.foldl (fun s l => s.updLink l (fun x => { x with map := 0 })) s

theorem pfFlr_does {s : State} (h : reachesPf s = true) :
    exec .pfFlr s = .next { unmapLinks (plainIslands (allParts.foldl (fun s p => resetSetup (flr s p) p) s)) with pkgcon := State.reset.pkgcon, refused := false, evq := {} } :=
  congrArg Host.Outcome.next (viaPf_reached h _ _)

theorem part_plainIslands (s : State) (p : Nat) : (plainIslands s).part p = s.part p :=
  foldl_keeps (fun s : State => s.part p) (fun s i => s.updIsland i _) (fun _ _ => rfl) _ _

theorem part_unmapLinks (s : State) (p : Nat) : (unmapLinks s).part p = s.part p :=
  foldl_keeps (fun s : State => s.part p) (fun s l => s.updLink l _) (fun _ _ => rfl) _ _

theorem island_unmapLinks (s : State) (i : Nat) : (unmapLinks s).island i = s.island i :=
  foldl_keeps (fun s : State => s.island i) (fun s l => s.updLink l _) (fun _ _ => rfl) _ _

theorem island_plainIslands (s : State) {i : Nat} (hi : i < 48) : ((plainIslands s).island i).vtgt = 50 ∧ ((plainIslands s).island i).mode = 0 := by
  refine foldl_reaches (fun s : State => (s.island i).vtgt = 50 ∧ (s.island i).mode = 0) (List.mem_range.mpr hi) (fun s => ?_) (fun s j _ h => ?_) s
  · rw [island_updIsland]
    exact ⟨rfl, rfl⟩
  · by_cases hn : i = j
    · subst hn
      rw [island_updIsland]
      exact ⟨rfl, rfl⟩
    · rwa [island_updIsland_other _ _ hn]

theorem linkOf_unmapLinks (s : State) {l : Nat} (hl : l < 8) : ((unmapLinks s).linkOf l).map = 0 := by
  refine foldl_reaches (fun s : State => (s.linkOf l).map = 0) (mem_allParts.mpr hl) (fun s => ?_) (fun s j _ h => ?_) s
  · rw [linkOf_updLink]
  · by_cases hn : l = j
    · subst hn
      rw [linkOf_updLink]
    · have hkeep : (s.updLink j (fun x => { x with map := 0 })).linkOf l = s.linkOf l := Tab.get_set_other _ _ _ _ _ _ hn
      rwa [hkeep]

theorem mask_pkgcon (v : Word) : mask v (2 ^ 40 - 1) = v &&& 0xFFFFFFFFFF#64 := rfl

/-- Settles O55: the writes by cases of their conditions; an FLR ends tasks, which keeps every partition's set-up
(`KeepsSetUp`), and resets the partition. -/
theorem pfRegisters : Obligations.PfRegisters := by
  intro s v h
  dsimp only
  refine ⟨⟨fun ok => ?_, fun bad => ?_⟩, fun p hp => ⟨fun hr => ?_, fun hr hv ht hg => ?_, fun _ hv hover => ?_, fun m hm hr hok => ?_, ?_⟩, fun i hi => ?_, ?_⟩
  · rw [pkgconWrite_does v h]
    simp only [setPkgcon, fld_eq, pow_zero, Nat.div_one, if_pos ok, mask_pkgcon]
  · rw [pkgconWrite_does v h]
    simp only [setPkgcon, fld_eq, pow_zero, Nat.div_one, if_neg bad]
  · rw [psetWrite_does v h hp, setPset_reserved p hr]
  · refine ⟨_, psetWrite_does v h hp, ?_⟩
    rw [setPset_enables p hr hv ht hg, passDue_sharedModes]
    refine ⟨?_, rfl, fun q hq => ?_⟩
    · rw [part_sharedModes]
      exact congrArg Part.pset (part_updPart s p fun x => { x with pset := v })
    · rw [part_sharedModes]
      exact part_updPart_other s (fun x => { x with pset := v }) hq
  · rw [psetWrite_does v h hp, setPset_over p hv hover]
  · obtain ⟨hdue, hrect, -⟩ := setPrect_writes hr hok
    refine ⟨_, prectWrite_does v h hp hm, ?_, hdue⟩
    rw [hrect]
    exact Tab.get_set_same (s.part p).prect m v 0
  · obtain ⟨x, hx, hkept⟩ := part_flr s p
    refine ⟨_, vfFlr_does h hp, ?_⟩
    rw [hx]
    have hpset : x.setUp.pset = (s.part p).setUp.pset := by rw [hkept]
    have hrect : x.setUp.prect = (s.part p).setUp.prect := by rw [hkept]
    exact ⟨rfl, rfl, rfl, rfl, rfl, rfl, rfl, rfl, hpset, hrect⟩
  · refine ⟨_, isldvWrite_does v h hi, ?_⟩
    rw [island_writeIsldv]
    exact ⟨fld_eq .., by simp [fld_eq], by rw [fld_bit_eq_zero], rfl⟩
  · have hdoes := pfFlr_does h
    have hparts := resetSetup_all s
    generalize allParts.foldl (fun s p => resetSetup (flr s p) p) s = u at hparts hdoes
    have hunset (p : Nat) (hp : p < 8) : ((unmapLinks (plainIslands u)).part p).Unset := by
      rw [part_unmapLinks, part_plainIslands]
      exact hparts p hp
    have hisl (i : Nat) (hi : i < 48) : ((unmapLinks (plainIslands u)).island i).vtgt = 50 ∧ ((unmapLinks (plainIslands u)).island i).mode = 0 := by
      rw [island_unmapLinks]
      exact island_plainIslands u hi
    have hlink (l : Nat) (hl : l < 8) := linkOf_unmapLinks (plainIslands u) hl
    generalize unmapLinks (plainIslands u) = w at hdoes hunset hisl hlink
    exact ⟨_, hdoes, rfl, rfl, rfl, fun p hp => ⟨(hunset p hp).pset, (hunset p hp).pmem, (hunset p hp).supcfg, (hunset p hp).prect⟩, hisl, hlink⟩

end Sys2Proof.Machine

/-! ## Writes of a partition's registers by its virtual function (O54) -/

namespace Sys2Proof.Machine
set_option Elab.async false

theorem viaVf_reached {s : State} {p : Nat} (h : reachesVf s p = true) (i : Instr) (f : State → State) : viaVf s p i f = f s := by
  unfold reachesVf at h
  obtain ⟨h, hset⟩ := Bool.and_eq_true_iff.mp h
  obtain ⟨hpf, hp⟩ := Bool.and_eq_true_iff.mp h
  unfold viaVf
  rw [viaPf_reached hpf]
  exact if_pos (by rw [hp, fld_bit, hset]; rfl)

/-- Bit 0 of a word as its field. -/
theorem fld_low_bit (v : Word) : fld v 0 1 = 1 ↔ v.getLsbD 0 = true := by
  rw [fld_bit]
  cases v.getLsbD 0 <;> decide

theorem part_updQueue_eq (s : State) (p q : Nat) (f : Queue → Queue) :
    (s.updQueue p q f).part p = { s.part p with qs := (s.part p).qs.set q (f ((s.part p).queueOf q)) {} } :=
  part_updPart s p fun x => { x with qs := x.qs.set q (f (x.queueOf q)) {} }

/-! ### Queues, rings and apertures -/

theorem sqcfgWrite_does {s : State} {p q : Nat} (v : Word) (h : reachesVf s p = true) (hq : q < 8) :
    exec (.sqcfgWrite p q v) s = .next (setSqcfg s p q v) := by
  show Host.Outcome.next _ = _
  rw [viaVf_reached h, if_pos hq]

theorem cqheadWrite_does {s : State} {p q : Nat} (v : Word) (h : reachesVf s p = true) (hq : q < 8) :
    exec (.cqheadWrite p q v) s = .next (setCqhead s p q v) := by
  show Host.Outcome.next _ = _
  rw [viaVf_reached h, if_pos hq]

theorem pgrqcfgWrite_does {s : State} {p : Nat} (v : Word) (h : reachesVf s p = true) : exec (.pgrqcfgWrite p v) s = .next (setPgrq s p v) :=
  congrArg Host.Outcome.next (viaVf_reached h _ _)

theorem aperWrite_does {s : State} {p n : Nat} (v : Word) (h : reachesVf s p = true) (hn : n < 64) :
    exec (.aperWrite p n v) s = .next (setAper s p n v) := by
  show Host.Outcome.next _ = _
  rw [viaVf_reached h, if_pos hn]

/-- What SQCFG is discarded for. -/
def sqcfgBad (s : State) (p : Nat) (v : Word) : Prop :=
  v.toNat / 2 ^ 6 % 4 ≠ 0 ∨ v.toNat / 2 ^ 32 ≠ 0 ∨ (v.getLsbD 0 = true ∧ ownDevice s p (v.toNat / 2 ^ 8 % 2 ^ 24) = false)

theorem sqcfgBad_iff (s : State) (p : Nat) (v : Word) :
    (fld v 6 2 ≠ 0 ∨ fld v 32 32 ≠ 0 ∨ (fld v 0 1 = 1 ∧ ownDevice s p (fld v 8 24) = false)) ↔ sqcfgBad s p v := by
  unfold sqcfgBad
  rw [fld_low_bit, fld_end v (show 32 + 32 = 64 from rfl)]
  rfl

theorem setSqcfg_bad {s : State} {p q : Nat} {v : Word} (h : sqcfgBad s p v) : setSqcfg s p q v = s := if_pos ((sqcfgBad_iff s p v).mpr h)

theorem setSqcfg_good {s : State} {p q : Nat} {v : Word} (h : ¬sqcfgBad s p v) :
    setSqcfg s p q v = s.updQueue p q (fun x => { x with sqcfg := v, sqoff := false }) := if_neg (mt (sqcfgBad_iff s p v).mp h)

/-- The fields of PGRQCFG that its mask keeps. -/
theorem mask_pgrq (v : Word) :
    mask v (2 ^ 32 - 1 - 0xC0) = v &&& 0xFFFFFF3F#64 ∧ fld (v &&& 0xFFFFFF3F#64) 0 1 = fld v 0 1 ∧ fld (v &&& 0xFFFFFF3F#64) 8 24 = fld v 8 24 := by
  refine ⟨rfl, ?_, ?_⟩
  · rw [fld_bit, fld_bit, BitVec.getLsbD_and]
    simp
  · have hext : (v &&& 0xFFFFFF3F#64).extractLsb' 8 24 = v.extractLsb' 8 24 := by
      ext i hi
      have hone : (0xFFFFFF3F#64).getLsbD (8 + i) = true := by
        interval_cases i <;> rfl
      simp [hone]
    have hnat := congrArg BitVec.toNat hext
    simpa [fld_eq, BitVec.extractLsb'_toNat, Nat.shiftRight_eq_div_pow] using hnat

theorem setPgrq_taken {s : State} {p : Nat} {v : Word} (h : ownDevice s p (v.toNat / 2 ^ 8 % 2 ^ 24) = true) :
    setPgrq s p v = s.updPart p (fun x => { x with pgrq := v &&& 0xFFFFFF3F#64, pgrqOff := false }) := by
  obtain ⟨hm, -, hoid⟩ := mask_pgrq v
  have hown : ownDevice s p (fld (v &&& 0xFFFFFF3F#64) 8 24) = true := by rw [hoid]; exact h
  unfold setPgrq
  dsimp only
  rw [hm, hown, if_neg (by simp)]

theorem setPgrq_discarded {s : State} {p : Nat} {v : Word} (hv : v.getLsbD 0 = true) (h : ownDevice s p (v.toNat / 2 ^ 8 % 2 ^ 24) = false) :
    setPgrq s p v = s := by
  obtain ⟨hm, hbit, hoid⟩ := mask_pgrq v
  have hown : ownDevice s p (fld (v &&& 0xFFFFFF3F#64) 8 24) = false := by rw [hoid]; exact h
  unfold setPgrq
  dsimp only
  rw [hm, if_pos ⟨.inl (hbit.trans ((fld_low_bit v).mpr hv)), hown⟩]

theorem setAper_taken {s : State} {p n : Nat} {v : Word} (h : v.getLsbD 0 = false ∨ aperOk s p v = true) :
    setAper s p n v = s.updPart p (fun x => { x with aper := x.aper.set n v 0 }) := by
  refine if_neg fun ⟨hbit, hbad⟩ => ?_
  rw [fld_low_bit] at hbit
  rcases h with h | h
  · exact absurd (hbit.symm.trans h) (by simp)
  · exact absurd (h.symm.trans hbad) (by simp)

/-! ### SAVECAP and TASKKILL -/

theorem savecapWrite_does {s : State} {p : Nat} (half : Nat) (v : Word) (h : reachesVf s p = true) :
    exec (.savecapWrite p half v) s = .next (setSavecap s p half v) := congrArg Host.Outcome.next (viaVf_reached h _ _)

/-- The pair of SAVECAP registers as one capability. -/
theorem savecap_pair (v lo : Word) : BitVec.ofNat 128 (lo.toNat + v.toNat * 2 ^ 64) = v ++ lo := by
  refine BitVec.eq_of_toNat_eq ?_
  have hv := v.isLt
  have hlo := lo.isLt
  rw [BitVec.toNat_append, BitVec.toNat_ofNat, ← Nat.shiftLeft_add_eq_or_of_lt hlo, Nat.shiftLeft_eq]
  omega

theorem setSavecap_pair {s : State} {p : Nat} {v lo : Word} (h : (s.part p).saveWait = some lo) :
    setSavecap s p 1 v = s.updPart p fun x =>
      if literalOk s p (v ++ lo) then { x with savecap0 := lo, savecap1 := v, saveWait := none } else { x with saveWait := none } := by
  unfold setSavecap
  rw [if_neg (by decide)]
  dsimp only
  rw [h, Option.getD_some, savecap_pair]

theorem taskkill_does {s : State} {p : Nat} (v : Word) (h : reachesVf s p = true) : exec (.taskkill p v) s = .next (setTaskkill s p v) :=
  congrArg Host.Outcome.next (viaVf_reached h _ _)

theorem task_of_byHandle {s : State} {p h n : Nat} {k : Task} (hb : s.byHandle p h = some (n, k)) : s.task n = some k := by
  unfold State.byHandle at hb
  split at hb
  · next t ht =>
    split at hb
    · cases hb
      exact ht
    · cases hb
  · cases hb

theorem task_setTask (s : State) (n : Nat) (k : Option Task) : (s.setTask n k).task n = k := Tab.get_set_same _ _ _ _

theorem task_queueEntry (s : State) (p q : Nat) (e : BitVec 256) (i : Option Nat) (n : Nat) : (queueEntry s p q e i).task n = s.task n := rfl

/-- A task that fails with a completion entry stays in the table. -/
theorem task_endTask {s : State} {n cause : Nat} {k : Task} (hk : s.task n = some k) (hc : cause ≠ 0) (hq : k.nocq = false) :
    (endTask s n cause true).task n = some { k with st := .failed, cause := cause } := by
  unfold endTask
  rw [hk]
  dsimp only
  rw [if_neg hc, if_neg hc, if_pos (by rw [hq]; rfl)]
  rw [task_queueEntry, task_setTask]

theorem task_setTaskkill {s : State} {p n : Nat} {v : Word} {k : Task} (hb : s.byHandle p (v.toNat % 2 ^ 32) = some (n, k))
    (hst : k.st = .waiting ∨ k.st = .eligible) (hq : k.nocq = false) :
    (setTaskkill s p v).task n = some { k with st := .failed, cause := 0x57 } := by
  have hend : setTaskkill s p v = endTask s n 0x57 true := by
    unfold setTaskkill killTask
    rw [fld_low32, hb]
    dsimp only
    rw [task_of_byHandle hb]
    rcases hst with hst | hst <;> simp only [hst]
  rw [hend]
  exact task_endTask (task_of_byHandle hb) (by decide) hq

/-! ### OBJRDIX and registers by their offsets -/

theorem objrdixWrite_does {s : State} {p : Nat} (v : Word) (h : reachesVf s p = true) : exec (.objrdixWrite p v) s = .next (setObjrdix s p v) :=
  congrArg Host.Outcome.next (viaVf_reached h _ _)

theorem mask_objrdix {v : Word} (hv : v.toNat < 2 ^ 56) : mask v (2 ^ 57 - 1) = v := by
  refine BitVec.eq_of_toNat_eq ?_
  rw [mask, BitVec.toNat_and, BitVec.toNat_ofNat, Nat.mod_eq_of_lt (by norm_num : 2 ^ 57 - 1 < 2 ^ 64), Nat.and_two_pow_sub_one_eq_mod,
    Nat.mod_eq_of_lt (by omega)]

/-- OBJRDIX names an object entry where bit 56 is clear. -/
theorem shown_entry {v : Word} (hv : v.toNat < 2 ^ 56) (x : Option Obj) (g : Nat → Obj → Nat) (f : Page → Nat) :
    (match x with
    | some o => if fld v 56 1 = 1 then f (o.pages.get (fld v 24 32) {}) else g (fld v 0 24) o
    | none => 0) = x.elim 0 (g (v.toNat % 2 ^ 24)) := by
  have hobj : ¬fld v 56 1 = 1 := by
    rw [fld_eq, Nat.div_eq_of_lt hv]
    decide
  have hoid : fld v 0 24 = v.toNat % 2 ^ 24 := by rw [fld_eq, pow_zero, Nat.div_one]
  cases x with
  | none => rfl
  | some o => exact (if_neg hobj).trans (by rw [hoid]; rfl)

theorem setObjrdix_eq (s : State) (p : Nat) {v : Word} (hv : v.toNat < 2 ^ 56) :
    setObjrdix s p v = s.updPart p fun x => { x with
      objrdix := v, objrd := BitVec.ofNat 256 ((s.objOf p (v.toNat % 2 ^ 24)).elim 0 (objEntry (v.toNat % 2 ^ 24))) } := by
  have hoid : fld v 0 24 = v.toNat % 2 ^ 24 := by rw [fld_eq, pow_zero, Nat.div_one]
  have hshown := shown_entry hv (s.objOf p (v.toNat % 2 ^ 24)) objEntry pageEntry
  rw [← hshown, ← hoid]
  unfold setObjrdix
  rw [mask_objrdix hv] <;> (generalize objEntry = g, pageEntry = f; rfl)

theorem setObjrdix_none {s : State} {p : Nat} {v : Word} (hv : v.toNat < 2 ^ 56) (h : s.objOf p (v.toNat % 2 ^ 24) = none) :
    setObjrdix s p v = s.updPart p fun x => { x with objrdix := v, objrd := 0 } := by
  rw [setObjrdix_eq s p hv, h]
  rfl

theorem setObjrdix_some {s : State} {p : Nat} {v : Word} {o : Obj} (hv : v.toNat < 2 ^ 56) (h : s.objOf p (v.toNat % 2 ^ 24) = some o) :
    setObjrdix s p v = s.updPart p fun x => { x with objrdix := v, objrd := BitVec.ofNat 256 (objEntry (v.toNat % 2 ^ 24) o) } := by
  rw [setObjrdix_eq s p hv, h, Option.elim_some]

theorem objrd_shown (s : State) (p : Nat) (w : Word) (x : BitVec 256) :
    ((s.updPart p fun y => { y with objrdix := w, objrd := x }).part p).objrd = x := by
  rw [part_updPart]

theorem registerWrite_does {s : State} {p off : Nat} {wide : Bool} (v : Word) (h : reachesVf s p = true) (ha : off % (if wide then 8 else 4) = 0) :
    exec (.registerWrite (.vf p) off wide v) s = .next (writeVf s p (off / 8 * 8) (wholeReg s (.vf p) off wide v)) := by
  show Host.Outcome.next (if _ then _ else viaVf s p _ _) = _
  rw [if_neg (not_not.mpr ha), viaVf_reached h]

/-- The upper half of a register that a 4-byte write leaves for the rest. -/
theorem setFld_upper (c v : Word) :
    setFld (setFld c 32 32 0 &&& ~~~(0 : Word)) 32 32 (fld v 0 32) = v.setWidth 32 ++ c.setWidth 32 := by
  refine BitVec.eq_of_toNat_eq ?_
  have hv := v.isLt
  have hc := c.isLt
  rw [BitVec.toNat_append, ← Nat.shiftLeft_add_eq_or_of_lt (BitVec.isLt _), Nat.shiftLeft_eq]
  have hall (x : Word) : x &&& ~~~(0 : Word) = x := by rw [BitVec.ofNat_eq_ofNat, BitVec.not_zero, BitVec.and_allOnes]
  rw [hall]
  simp only [setFld, fld_eq, BitVec.toNat_ofNat, BitVec.toNat_setWidth]
  omega

/-- Settles O54: each write by what its register accepts; TASKKILL by the end of its task. -/
theorem vfRegisters : Obligations.VfRegisters := by
  intro s p v h
  have hwrites (off : Nat) (hoff : off % 8 = 0) : exec (.registerWrite (.vf p) off true v) s = .next (writeVf s p off v) := by
    rw [registerWrite_does v h hoff, Nat.div_mul_cancel (Nat.dvd_of_mod_eq_zero hoff)]
    rfl
  dsimp only
  refine ⟨fun q hq => ⟨fun hf hr hown => ?_, fun hbad => ?_, ?_⟩, fun hown => ?_, fun hv hown => ?_, fun n hn hok => ?_, ?_, fun lo hlo => ⟨fun hok => ?_, fun hbad => ?_⟩,
    fun n k hb hst hq => ?_, fun hv => ⟨fun hnone => ?_, fun o hsome => ?_⟩, fun hpos hlt => ?_, ?_, ?_, fun n hn => ?_, ?_⟩
  · have hgood : ¬sqcfgBad s p v := by
      rintro (hbad | hbad | ⟨hbit, hbad⟩)
      · exact hbad hf
      · exact hbad hr
      · rcases hown with hown | hown
        · exact absurd (hbit.symm.trans hown) (by simp)
        · exact absurd (hown.symm.trans hbad) (by simp)
    refine ⟨_, sqcfgWrite_does v h hq, ?_⟩
    rw [setSqcfg_good hgood, queueOf_updQueue]
    exact ⟨⟨rfl, rfl⟩, rfl, rfl⟩
  · rw [sqcfgWrite_does v h hq, setSqcfg_bad hbad]
  · refine ⟨_, cqheadWrite_does v h hq, ?_⟩
    unfold setCqhead
    rw [queueOf_updQueue]
    exact ⟨⟨fld_low32 v, rfl⟩, rfl, rfl⟩
  · refine ⟨_, pgrqcfgWrite_does v h, ?_⟩
    rw [setPgrq_taken hown, part_updPart]
    exact ⟨rfl, rfl, rfl⟩
  · rw [pgrqcfgWrite_does v h, setPgrq_discarded hv hown]
  · refine ⟨_, aperWrite_does v h hn, ?_⟩
    rw [setAper_taken hok, part_updPart]
    exact ⟨Tab.get_set_same (s.part p).aper n v 0, rfl, rfl⟩
  · refine ⟨_, savecapWrite_does 0 v h, ?_⟩
    unfold setSavecap
    rw [if_pos rfl, part_updPart]
    exact ⟨⟨rfl, rfl, rfl⟩, rfl, rfl⟩
  · refine ⟨_, savecapWrite_does 1 v h, ?_⟩
    rw [setSavecap_pair hlo, hok, part_updPart]
    exact ⟨⟨rfl, rfl⟩, rfl, rfl⟩
  · refine ⟨_, savecapWrite_does 1 v h, ?_⟩
    rw [setSavecap_pair hlo, hbad, part_updPart]
    exact ⟨⟨rfl, rfl⟩, rfl, rfl⟩
  · refine ⟨_, taskkill_does v h, ?_⟩
    rw [task_setTaskkill hb hst hq]
    rfl
  · refine ⟨_, objrdixWrite_does v h, ?_, rfl, rfl⟩
    rw [setObjrdix_none hv hnone, part_updPart]
    exact ⟨rfl, rfl⟩
  · refine ⟨_, objrdixWrite_does v h, ?_, rfl, rfl⟩
    rw [setObjrdix_some hv hsome, objrd_shown]
  · refine ⟨_, hwrites 0x28 rfl, ?_⟩
    have hcfg : setMigcfg s p v = s.updPart p (fun x => { x with migcfg := v }) := by
      refine if_neg (not_or.mpr ⟨not_not.mpr ?_, ?_⟩)
      · rw [fld_end v (by decide), Nat.div_eq_of_lt hlt]
      · rw [fld_eq, pow_zero, Nat.div_one, Nat.mod_eq_of_lt hlt]
        exact hpos.ne'
    show ((setMigcfg s p v).part p).migcfg = v ∧ (setMigcfg s p v).mem = s.mem ∧ (setMigcfg s p v).cores = s.cores
    rw [hcfg, part_updPart]
    exact ⟨rfl, rfl, rfl⟩
  · exact ⟨_, hwrites 0x500 rfl, congrArg Part.charge (part_updPart s p fun x => { x with charge := v }), rfl, rfl⟩
  · refine ⟨_, registerWrite_does v h rfl, ?_, rfl, rfl⟩
    refine (congrArg Part.charge (part_updPart s p fun x => { x with charge := wholeReg s (.vf p) 0x504 false v })).trans ?_
    exact setFld_upper (s.part p).charge v
  · refine ⟨_, hwrites (0x1000 + 8 * n) (by omega), ?_⟩
    have hcmd : writeVf s p (0x1000 + 8 * n) v = s.updPart p (fun x => { x with objcmd := x.objcmd.set n v 0 }) := by
      interval_cases n <;> rfl
    rw [hcmd, part_updPart]
    exact ⟨Tab.get_set_same (s.part p).objcmd n v 0, rfl, rfl⟩
  · rfl

end Sys2Proof.Machine

/-! ## Arrivals, phases, releases, messages and enqueued tasks (O60) -/

namespace Sys2Proof.Machine
set_option Elab.async false

/-! ### What the end of a wait leaves of a context -/

/-- The machine without its cores. -/
def State.coreless (s : State) : State := { s with cores := [] }

theorem State.coreless_arrs (s : State) : s.coreless.arrs = s.arrs := rfl
theorem State.coreless_rels (s : State) : s.coreless.rels = s.rels := rfl
theorem State.coreless_answers (s : State) : s.coreless.answers = s.answers := rfl

/-- What a context awaits or has got, and whether nothing lets it go. -/
def Ctx.awaits (c : Ctx) : List Pend × Nat × Bool := (c.res, c.team, stays c)

theorem awaits_released (c : Ctx) (m : Nat) (t : Option Nat) (x : Nat) (h : c.st = .waiting) (hw : c.wait = .barrier m t) :
    Ctx.awaits { c with st := .ready, wait := .none, time := x } = c.awaits := by
  simp only [Ctx.awaits, stays, h, hw]
  rfl

section
variable {s : State} {core n : Nat}

/-! ### Releases of waits (R260, R261) -/

/-- The wait of one context of a core on a barrier whose phases are `ph`. -/
def releaseOne (core n ph : Nat) (s : State) (i : Nat) : State :=
  match (s.ctx core i).st, (s.ctx core i).wait with
  | .waiting, .barrier m (some t) =>
    if m = n ∧ waitOver ph t then
      s.setCtx core i { s.ctx core i with st := .ready, wait := .none, time := max (s.ctx core i).time (phaseTime s core n t) }
    else s
  | _, _ => s

theorem releaseWaits_eq (s : State) (core n : Nat) :
    releaseWaits s core n = [0, 1, 2, 3].foldl (releaseOne core n ((s.core core).barrier n).phases) s := rfl

/-- Either the wait ends, or nothing changes. -/
theorem releaseOne_cases (ph : Nat) (s : State) (i : Nat) :
    releaseOne core n ph s i = s ∨
    ∃ t x, (s.ctx core i).st = .waiting ∧ (s.ctx core i).wait = .barrier n (some t) ∧ waitOver ph t = true ∧
      releaseOne core n ph s i = s.setCtx core i { s.ctx core i with st := .ready, wait := .none, time := x } := by
  unfold releaseOne
  split
  · next m t hst hw =>
    split
    · next h =>
      obtain ⟨rfl, hover⟩ := h
      exact .inr ⟨t, _, hst, hw, hover, rfl⟩
    · exact .inl rfl
  · exact .inl rfl

theorem releaseOne_awaits (ph : Nat) (s : State) (i : Nat) : KeepsCtx Ctx.awaits s (releaseOne core n ph s i) := by
  rcases releaseOne_cases (core := core) (n := n) ph s i with h | ⟨t, x, hst, hw, -, h⟩
  · rw [h]
    exact .refl s
  · rw [h]
    exact .setCtx _ _ _ _ (awaits_released _ _ _ _ hst hw)

/-- A release of waits changes contexts of its core and nothing else. -/
theorem releaseOne_plain (ph : Nat) (s : State) (i : Nat) :
    (releaseOne core n ph s i).coreless = s.coreless ∧ ∀ c, ((releaseOne core n ph s i).core c).bar = (s.core c).bar := by
  rcases releaseOne_cases (core := core) (n := n) ph s i with h | ⟨t, x, -, -, -, h⟩
  · rw [h]
    exact ⟨rfl, fun _ => rfl⟩
  · rw [h]
    refine ⟨rfl, fun c => ?_⟩
    by_cases hc : c = core
    · subst hc
      rw [State.setCtx, State.core_updCore]
      rfl
    · rw [State.setCtx, State.core_updCore_other _ _ _ _ hc]

theorem releaseWaits_plain (s : State) (core n : Nat) :
    (releaseWaits s core n).coreless = s.coreless ∧ ∀ c, ((releaseWaits s core n).core c).bar = (s.core c).bar := by
  rw [releaseWaits_eq]
  refine ⟨foldl_keeps State.coreless _ (fun s i => (releaseOne_plain _ s i).1) _ _, fun c => ?_⟩
  exact foldl_keeps (fun s : State => (s.core c).bar) _ (fun s i => (releaseOne_plain _ s i).2 c) _ _

theorem releaseWaits_awaits (s : State) (core n : Nat) : KeepsCtx Ctx.awaits s (releaseWaits s core n) := by
  rw [releaseWaits_eq]
  exact .foldl _ (fun s i => releaseOne_awaits _ s i) _ _

/-- The context is Ready, or waits for a token whose phase has passed. -/
def Released (core n ph i : Nat) (s : State) : Prop :=
  (s.ctx core i).st = .ready ∨ ∃ t, (s.ctx core i).st = .waiting ∧ (s.ctx core i).wait = .barrier n (some t) ∧ waitOver ph t = true

theorem releaseOne_keeps {ph i : Nat} {s : State} (h : Released core n ph i s) (j : Nat) : Released core n ph i (releaseOne core n ph s j) := by
  rcases releaseOne_cases (core := core) (n := n) ph s j with hj | ⟨t, x, -, -, -, hj⟩
  · rwa [hj]
  · rw [hj]
    by_cases hi : i = j
    · subst hi
      left
      rw [State.ctx_setCtx]
    · unfold Released
      rwa [State.ctx_setCtx_slot _ _ _ _ _ hi]

theorem releaseOne_frees {ph i : Nat} {s : State} (h : Released core n ph i s) : ((releaseOne core n ph s i).ctx core i).st = .ready := by
  rcases h with h | ⟨t, hst, hw, hover⟩
  · rcases releaseOne_cases (core := core) (n := n) ph s i with hj | ⟨t, x, hst, -⟩
    · rwa [hj]
    · exact absurd (h.symm.trans hst) (by simp)
  · unfold releaseOne
    rw [hst, hw]
    dsimp only
    rw [if_pos ⟨rfl, hover⟩, State.ctx_setCtx]

theorem releaseOne_ready {ph i : Nat} {s : State} (h : (s.ctx core i).st = .ready) (j : Nat) : ((releaseOne core n ph s j).ctx core i).st = .ready := by
  rcases releaseOne_cases (core := core) (n := n) ph s j with hj | ⟨t, x, -, -, -, hj⟩
  · rwa [hj]
  · rw [hj]
    by_cases hi : i = j
    · subst hi
      rw [State.ctx_setCtx]
    · rwa [State.ctx_setCtx_slot _ _ _ _ _ hi]

/-- A wait whose phase has passed ends. -/
theorem releaseWaits_frees {i t : Nat} (hi : i < 4) (hst : (s.ctx core i).st = .waiting) (hw : (s.ctx core i).wait = .barrier n (some t))
    (hover : waitOver ((s.core core).barrier n).phases t = true) : ((releaseWaits s core n).ctx core i).st = .ready := by
  have hmem : i ∈ [0, 1, 2, 3] := by
    simp only [List.mem_cons, List.not_mem_nil, or_false]
    omega
  have hgo (l : List Nat) (u : State) (hl : i ∈ l) (hu : Released core n ((s.core core).barrier n).phases i u) :
      ((l.foldl (releaseOne core n ((s.core core).barrier n).phases) u).ctx core i).st = .ready := by
    induction l generalizing u with
    | nil => cases hl
    | cons j r ih =>
      rcases List.mem_cons.mp hl with rfl | hl
      · exact List.foldlRecOn (motive := fun u : State => (u.ctx core i).st = .ready) r _ (releaseOne_frees hu) fun u hu j _ => releaseOne_ready hu j
      · exact ih _ hl (releaseOne_keeps hu j)
  rw [releaseWaits_eq]
  exact hgo _ s hmem (.inr ⟨t, hst, hw, hover⟩)

end

/-! ### Barriers -/

theorem barrier_updBar (s : State) (core n : Nat) (f : Barrier → Barrier) :
    ((s.updBar core n f).core core).barrier n = f ((s.core core).barrier n) := by
  rw [State.updBar, State.core_updCore]
  exact Tab.get_set_same _ _ _ _

theorem barrier_of_bar {k l : Core} (h : k.bar = l.bar) (n : Nat) : k.barrier n = l.barrier n := by
  rw [Core.barrier, h]
  rfl

theorem updBar_awaits (s : State) (core n : Nat) (f : Barrier → Barrier) : KeepsCtx Ctx.awaits s (s.updBar core n f) := .updCore _ _ _

theorem updBar_ctx (s : State) (core n : Nat) (f : Barrier → Barrier) (c i : Nat) : (s.updBar core n f).ctx c i = s.ctx c i :=
  (KeepsCtx.updCore (g := id) s core fun c => { c with bar := c.bar.set n (f (c.barrier n)) {} }).ctx c i

/-! ### Arrivals (R258 to R260) -/

theorem completePhases_counts {s : State} {core n : Nat} (h : ((s.core core).barrier n).settle.phases = ((s.core core).barrier n).phases) :
    completePhases s core n = s.updBar core n fun _ => ((s.core core).barrier n).settle := if_pos h

/-- Where a phase completes at a barrier of its own core, the waits on it there end. -/
theorem completePhases_completes {s : State} {core n : Nat} (hs : ((s.core core).barrier n).scope = 0)
    (h : ((s.core core).barrier n).settle.phases ≠ ((s.core core).barrier n).phases) :
    ∃ v, completePhases s core n = releaseWaits v core n ∧ v.cur = s.cur ∧ v.arrs = s.arrs ∧ (∀ c i, v.ctx c i = s.ctx c i) ∧
      (v.core core).barrier n = ((s.core core).barrier n).settle := by
  refine ⟨{ s.updBar core n (fun _ => ((s.core core).barrier n).settle) with rels := s.rels ++ [] }, ?_, rfl, rfl, fun c i => ?_, ?_⟩
  · unfold completePhases
    dsimp only
    rw [if_neg h, if_neg (by rw [hs]; decide)]
    rfl
  · exact updBar_ctx s core n (fun _ => ((s.core core).barrier n).settle) c i
  · exact barrier_updBar s core n fun _ => ((s.core core).barrier n).settle

/-- A barrier that its team claims and that counts one arrival. -/
def Barrier.takes (b : Barrier) (a : Arrival) : Barrier :=
  let b := if b.team.isNone then { b with team := some a.team } else b
  { b with arrived := b.arrived + 1, times := b.times ++ [a.time] }

/-- The state in which the arrival has been counted and no phase is completed. -/
def arrivalCounted (s : State) (a : Arrival) : State :=
  (claimBar s a.core a.n a.team).updBar a.core a.n (fun b => { b with arrived := b.arrived + 1, times := b.times ++ [a.time] })

theorem barrier_arrivalCounted (s : State) (a : Arrival) : ((arrivalCounted s a).core a.core).barrier a.n = ((s.core a.core).barrier a.n).takes a := by
  unfold arrivalCounted claimBar
  rw [barrier_updBar, barrier_updBar]
  rfl

theorem ctx_arrivalCounted (s : State) (a : Arrival) (c i : Nat) : (arrivalCounted s a).ctx c i = s.ctx c i := by
  unfold arrivalCounted claimBar
  rw [updBar_ctx, updBar_ctx]

theorem Barrier.takes_settings (b : Barrier) (a : Arrival) :
    (b.takes a).expect = b.expect ∧ (b.takes a).scope = b.scope ∧ (b.takes a).phases = b.phases ∧ (b.takes a).arrived = b.arrived + 1 := by
  unfold Barrier.takes
  split <;> exact ⟨rfl, rfl, rfl, rfl⟩

theorem Barrier.takes_team {b : Barrier} {a : Arrival} (h : b.team = none ∨ b.team = some a.team) : (b.takes a).team = some a.team := by
  unfold Barrier.takes
  rcases h with h | h <;> simp [h]

/-- An arrival on a barrier of its team, which its core counts (R258, R259). -/
theorem arrive_counts {s : State} {a : Arrival} (hs : ((s.core a.core).barrier a.n).scope = 0)
    (ht : ((s.core a.core).barrier a.n).team = none ∨ ((s.core a.core).barrier a.n).team = some a.team) :
    arrive s a = giveToken (completePhases (arrivalCounted s a) a.core a.n) a ((s.core a.core).barrier a.n).phases := by
  have hfree : barBusy s a.core a.n a.team = false := by
    unfold barBusy
    rcases ht with ht | ht <;> simp [ht]
  have hbar : ((claimBar s a.core a.n a.team).core a.core).barrier a.n =
      if ((s.core a.core).barrier a.n).team.isNone then { (s.core a.core).barrier a.n with team := some a.team } else (s.core a.core).barrier a.n :=
    barrier_updBar ..
  have hset : (((claimBar s a.core a.n a.team).core a.core).barrier a.n).scope = 0 ∧
      (((claimBar s a.core a.n a.team).core a.core).barrier a.n).phases = ((s.core a.core).barrier a.n).phases := by
    rw [hbar]
    split
    · exact ⟨hs, rfl⟩
    · exact ⟨hs, rfl⟩
  have hroot : countingCore (claimBar s a.core a.n a.team) a.core a.n = a.core := by
    unfold countingCore
    rw [if_neg (by rw [hset.1]; decide)]
  unfold arrive
  rw [hfree, if_neg Bool.false_ne_true]
  dsimp only
  rw [hroot, if_neg (not_not.mpr rfl), hset.2]
  rfl

/-- The token of an arrival goes to its context. -/
theorem giveToken_pushes {s : State} {a : Arrival} {dst : Dst} {seq tag : Nat} (t : Nat) (ha : a.for' = .token dst seq tag)
    (ht : (s.ctx a.from' a.slot).team = a.team) :
    giveToken s a t = s.updCtx a.from' a.slot (fun c =>
      c.push { dst := dst, val := .ofNat 512 t, due := seq + 8, seq := seq, tag := tag, fixed := false }) := by
  simp only [giveToken, ht, ne_eq, not_true_eq_false, if_false, ha]

theorem Barrier.settle_before {b : Barrier} (h : b.expect = 0 ∨ b.arrived < b.expect) (hp : b.phases < 2 ^ 16) :
    b.settle.arrived = b.arrived ∧ b.settle.phases = b.phases ∧ b.settle.expect = b.expect ∧ b.settle.team = b.team := by
  unfold Barrier.settle
  split
  · exact ⟨rfl, rfl, rfl, rfl⟩
  · next he =>
    have hlt : b.arrived < b.expect := h.resolve_left he
    refine ⟨Nat.mod_eq_of_lt hlt, ?_, rfl, rfl⟩
    dsimp only
    rw [Nat.div_eq_of_lt hlt, add_zero, Nat.mod_eq_of_lt hp]

theorem Barrier.settle_at {b : Barrier} (h : b.expect = b.arrived) (hpos : 0 < b.expect) :
    b.settle.arrived = 0 ∧ b.settle.phases = (b.phases + 1) % 2 ^ 16 ∧ b.settle.expect = b.expect ∧ b.settle.team = b.team := by
  unfold Barrier.settle
  rw [if_neg hpos.ne']
  refine ⟨?_, ?_, rfl, rfl⟩
  · dsimp only
    rw [← h, Nat.mod_self]
  · dsimp only
    rw [← h, Nat.div_self hpos]

/-- The count that completes a phase (R260). -/
theorem completePhases_last {s : State} {core n : Nat} (hs : ((s.core core).barrier n).scope = 0)
    (he : ((s.core core).barrier n).expect = ((s.core core).barrier n).arrived) (hpos : 0 < ((s.core core).barrier n).expect) :
    KeepsCtx Ctx.awaits s (completePhases s core n) ∧ (completePhases s core n).arrs = s.arrs ∧
    ((completePhases s core n).core core).barrier n = ((s.core core).barrier n).settle ∧
    ∀ i tok, i < 4 → (s.ctx core i).st = .waiting → (s.ctx core i).wait = .barrier n (some tok) →
      waitOver ((s.core core).barrier n).settle.phases tok = true → ((completePhases s core n).ctx core i).st = .ready := by
  have hmoves : ((s.core core).barrier n).settle.phases ≠ ((s.core core).barrier n).phases := by
    rw [(Barrier.settle_at he hpos).2.1]
    have hmod := Nat.mod_lt (((s.core core).barrier n).phases + 1) (show 0 < 2 ^ 16 by decide)
    have hle := Nat.mod_le (((s.core core).barrier n).phases + 1) (2 ^ 16)
    omega
  obtain ⟨v, hv, hcur, hvarrs, hctx, hbar⟩ := completePhases_completes hs hmoves
  rw [hv]
  obtain ⟨hplain, hbars⟩ := releaseWaits_plain v core n
  have hkeeps := releaseWaits_awaits v core n
  have harrs : (releaseWaits v core n).arrs = v.arrs := by rw [← State.coreless_arrs, hplain, State.coreless_arrs]
  refine ⟨⟨hkeeps.cur.trans hcur, fun c i => (hkeeps.ctx c i).trans (by rw [hctx])⟩, harrs.trans hvarrs,
    (barrier_of_bar (hbars core) n).trans hbar, fun i tok hi hst hw hover => ?_⟩
  exact releaseWaits_frees hi (by rw [hctx]; exact hst) (by rw [hctx]; exact hw) (by rw [hbar]; exact hover)

/-! ### One arrival (R260) -/

theorem noteEnding_eq (s : State) (n : Nat) : ∃ l, noteEnding s n = { s with teams := l } := by
  unfold noteEnding
  split
  · exact ⟨_, rfl⟩
  · exact ⟨_, rfl⟩

/-- What the end of a wait leaves: the machine but for its teams. -/
theorem afterOp_eq {s : State} {core slot : Nat} (h : stays (s.ctx core slot) = true) : ∃ l, afterOp s core slot = { s with teams := l } := by
  rw [afterOp_stays h]
  exact noteEnding_eq _ _

theorem awaits_res {c d : Ctx} (h : c.awaits = d.awaits) : c.res = d.res ∧ c.team = d.team ∧ stays c = stays d := by
  simpa [Ctx.awaits] using h

theorem barrierArrival_does {s : State} {a : Arrival} (h : s.arrs = [a]) :
    exec .barrierArrival s = .next (afterOp (arrive { s.draw with arrs := [] } a) a.from' a.slot) := by
  have hone : Config.pick s.fresh % max 1 1 = 0 := Nat.mod_one _
  show execBarrierArrival s = _
  simp only [execBarrierArrival, h, List.length_singleton, chosen, hone, List.getElem?_cons_zero, List.eraseIdx_cons_zero]

/-- The state where an arrival has been counted, its phase completed or not, and its token given. -/
theorem token_given {u : State} {a : Arrival} {dst : Dst} {seq tag tok : Nat} (ha : a.for' = .token dst seq tag) (ht : (u.ctx a.from' a.slot).team = a.team)
    (hst : stays (u.ctx a.from' a.slot) = true) (harrs : u.arrs = []) :
    ∃ t, afterOp (giveToken u a tok) a.from' a.slot = t ∧ t.arrs = [] ∧ (t.core a.core).barrier a.n = (u.core a.core).barrier a.n ∧
      (t.ctx a.from' a.slot).res = (u.ctx a.from' a.slot).res ++ [{ dst := dst, val := .ofNat 512 tok, due := seq + 8, seq := seq, tag := tag, fixed := false }] ∧
      ∀ c i, (t.ctx c i).st = (u.ctx c i).st := by
  rw [giveToken_pushes tok ha ht]
  generalize hp : ({ dst := dst, val := .ofNat 512 tok, due := seq + 8, seq := seq, tag := tag, fixed := false } : Pend) = p
  have hctx : (u.updCtx a.from' a.slot (fun c => c.push p)).ctx a.from' a.slot = (u.ctx a.from' a.slot).push p := State.ctx_updCtx ..
  obtain ⟨l, hl⟩ := afterOp_eq (s := u.updCtx a.from' a.slot (fun c => c.push p)) (core := a.from') (slot := a.slot) (by rw [hctx]; exact hst)
  refine ⟨_, hl, harrs, ?_, ?_, fun c i => ?_⟩
  · refine barrier_of_bar ?_ a.n
    show ((u.updCtx a.from' a.slot (fun c => c.push p)).core a.core).bar = _
    rw [State.updCtx, State.setCtx]
    by_cases hc : a.core = a.from'
    · rw [hc, State.core_updCore]
      rfl
    · rw [State.core_updCore_other _ _ _ _ hc]
  · show ((u.updCtx a.from' a.slot (fun c => c.push p)).ctx a.from' a.slot).res = _
    rw [hctx]
    rfl
  · exact (KeepsCtx.updCtx (g := Ctx.st) u a.from' a.slot (fun c => c.push p)).ctx c i

section
variable {s : State} {a : Arrival} {dst : Dst} {seq tag : Nat} (harr : s.arrs = [a]) (hfor : a.for' = .token dst seq tag)
  (hs : ((s.core a.core).barrier a.n).scope = 0) (ht : ((s.core a.core).barrier a.n).team = none ∨ ((s.core a.core).barrier a.n).team = some a.team)
  (hteam : (s.ctx a.from' a.slot).team = a.team) (hst : stays (s.ctx a.from' a.slot) = true)
include harr hfor hs ht hteam hst

/-- One arrival, once it is known what completing phases leaves. -/
theorem arrival_counts (arrived phases : Nat)
    (hu : let u := completePhases (arrivalCounted { s.draw with arrs := [] } a) a.core a.n
      KeepsCtx Ctx.awaits s u ∧ u.arrs = [] ∧ (u.core a.core).barrier a.n = (((s.core a.core).barrier a.n).takes a).settle)
    (hset : let y := (((s.core a.core).barrier a.n).takes a).settle
      y.arrived = arrived ∧ y.phases = phases ∧ y.expect = ((s.core a.core).barrier a.n).expect ∧ y.team = some a.team) :
    ∃ t, exec .barrierArrival s = .next t ∧ t.arrs = [] ∧
      (let y := (t.core a.core).barrier a.n
       y.arrived = arrived ∧ y.phases = phases ∧ y.expect = ((s.core a.core).barrier a.n).expect ∧ y.team = some a.team) ∧
      (t.ctx a.from' a.slot).res = (s.ctx a.from' a.slot).res ++
        [{ dst := dst, val := .ofNat 512 ((s.core a.core).barrier a.n).phases, due := seq + 8, seq := seq, tag := tag, fixed := false }] ∧
      ∀ c i, (t.ctx c i).st = ((completePhases (arrivalCounted { s.draw with arrs := [] } a) a.core a.n).ctx c i).st := by
  obtain ⟨hctx, harrs, hbar⟩ := hu
  obtain ⟨hres, hteam', hstays⟩ := awaits_res (hctx.ctx a.from' a.slot)
  have hdoes := barrierArrival_does harr
  rw [arrive_counts (s := { s.draw with arrs := [] }) hs ht] at hdoes
  obtain ⟨t, ht, htarrs, htbar, htres, htst⟩ := token_given (tok := ((s.core a.core).barrier a.n).phases) hfor (hteam'.trans hteam) (hstays.trans hst) harrs
  refine ⟨t, hdoes.trans (congrArg _ ht), htarrs, ?_, ?_, htst⟩
  · rw [htbar, hbar]
    exact hset
  · rw [htres, hres]

/-- An arrival that completes no phase. -/
theorem arrival_before (he : ((s.core a.core).barrier a.n).expect = 0 ∨ ((s.core a.core).barrier a.n).arrived + 1 < ((s.core a.core).barrier a.n).expect)
    (hp : ((s.core a.core).barrier a.n).phases < 2 ^ 16) :
    ∃ t, exec .barrierArrival s = .next t ∧ t.arrs = [] ∧
      (let y := (t.core a.core).barrier a.n
       y.arrived = ((s.core a.core).barrier a.n).arrived + 1 ∧ y.phases = ((s.core a.core).barrier a.n).phases ∧
       y.expect = ((s.core a.core).barrier a.n).expect ∧ y.team = some a.team) ∧
      (t.ctx a.from' a.slot).res = (s.ctx a.from' a.slot).res ++
        [{ dst := dst, val := .ofNat 512 ((s.core a.core).barrier a.n).phases, due := seq + 8, seq := seq, tag := tag, fixed := false }] := by
  obtain ⟨hexp, -, hph, harrd⟩ := Barrier.takes_settings ((s.core a.core).barrier a.n) a
  obtain ⟨h₁, h₂, h₃, h₄⟩ := Barrier.settle_before (b := ((s.core a.core).barrier a.n).takes a) (by rwa [hexp, harrd]) (by rwa [hph])
  have hbar := barrier_arrivalCounted { s.draw with arrs := [] } a
  have hu : completePhases (arrivalCounted { s.draw with arrs := [] } a) a.core a.n =
      (arrivalCounted { s.draw with arrs := [] } a).updBar a.core a.n fun _ => (((s.core a.core).barrier a.n).takes a).settle := by
    refine (completePhases_counts ?_).trans ?_
    · rw [hbar]
      exact h₂
    · rw [hbar]
      rfl
  obtain ⟨t, ht, htarrs, hty, htres, -⟩ := arrival_counts harr hfor hs ht hteam hst (((s.core a.core).barrier a.n).arrived + 1) ((s.core a.core).barrier a.n).phases
    (by
      rw [hu]
      refine ⟨⟨rfl, fun c i => ?_⟩, rfl, barrier_updBar ..⟩
      rw [updBar_ctx, ctx_arrivalCounted]
      rfl)
    ⟨h₁.trans harrd, h₂.trans hph, h₃.trans hexp, h₄.trans (Barrier.takes_team ht)⟩
  exact ⟨t, ht, htarrs, hty, htres⟩

/-- The arrival that completes a phase, which ends the waits on it. -/
theorem arrival_last (he : ((s.core a.core).barrier a.n).expect = ((s.core a.core).barrier a.n).arrived + 1) :
    ∃ t, exec .barrierArrival s = .next t ∧ t.arrs = [] ∧
      (let y := (t.core a.core).barrier a.n
       y.arrived = 0 ∧ y.phases = (((s.core a.core).barrier a.n).phases + 1) % 2 ^ 16 ∧
       y.expect = ((s.core a.core).barrier a.n).expect ∧ y.team = some a.team) ∧
      (t.ctx a.from' a.slot).res = (s.ctx a.from' a.slot).res ++
        [{ dst := dst, val := .ofNat 512 ((s.core a.core).barrier a.n).phases, due := seq + 8, seq := seq, tag := tag, fixed := false }] ∧
      ∀ i tok, i < 4 → (s.ctx a.core i).st = .waiting → (s.ctx a.core i).wait = .barrier a.n (some tok) →
        waitOver ((((s.core a.core).barrier a.n).phases + 1) % 2 ^ 16) tok = true → (t.ctx a.core i).st = .ready := by
  obtain ⟨hexp, hscope, hph, harrd⟩ := Barrier.takes_settings ((s.core a.core).barrier a.n) a
  obtain ⟨h₁, h₂, h₃, h₄⟩ := Barrier.settle_at (b := ((s.core a.core).barrier a.n).takes a) (by rw [hexp, harrd, he]) (by rw [hexp, he]; exact Nat.succ_pos _)
  have hbar : ((arrivalCounted { s.draw with arrs := [] } a).core a.core).barrier a.n = ((s.core a.core).barrier a.n).takes a := barrier_arrivalCounted ..
  have hctx (c i : Nat) : (arrivalCounted { s.draw with arrs := [] } a).ctx c i = s.ctx c i := ctx_arrivalCounted ..
  have hcur : (arrivalCounted { s.draw with arrs := [] } a).cur = s.cur := rfl
  have harrs : (arrivalCounted { s.draw with arrs := [] } a).arrs = [] := rfl
  obtain ⟨hkeeps, hcarrs, hcbar, hfrees⟩ := completePhases_last (s := arrivalCounted { s.draw with arrs := [] } a) (core := a.core) (n := a.n)
    (by rw [hbar, hscope, hs]) (by rw [hbar, hexp, harrd, he]) (by rw [hbar, hexp, he]; exact Nat.succ_pos _)
  obtain ⟨t, ht, htarrs, hty, htres, htst⟩ := arrival_counts harr hfor hs ht hteam hst 0 ((((s.core a.core).barrier a.n).phases + 1) % 2 ^ 16)
    ⟨⟨hkeeps.cur.trans hcur, fun c i => (hkeeps.ctx c i).trans (by rw [hctx])⟩, hcarrs.trans harrs, hcbar.trans (by rw [hbar])⟩
    ⟨h₁, h₂.trans (by rw [hph]), h₃.trans hexp, h₄.trans (Barrier.takes_team ht)⟩
  refine ⟨t, ht, htarrs, hty, htres, fun i tok hi hwst hw hover => ?_⟩
  rw [htst]
  refine hfrees i tok hi (by rw [hctx]; exact hwst) (by rw [hctx]; exact hw) ?_
  rw [hbar, h₂, hph]
  exact hover

end

/-! ### Releases and init answers (R259) -/

theorem mirror_other {s : State} {r : Release} (ha : s.answers = [])
    (h : ((s.core r.core).barrier r.n).team ≠ some r.team ∨ ((s.core r.core).barrier r.n).root ≠ r.root) : mirror s r = s := by
  have hno : ((s.core r.core).barrier r.n).mirrors r = false := by
    unfold Barrier.mirrors
    rcases h with h | h <;> simp [h]
  simp only [mirror, ha, hno, List.any_nil, Bool.false_eq_true, false_and, if_false]

theorem mirror_takes {s : State} {r : Release} (ha : s.answers = []) (hs : ((s.core r.core).barrier r.n).scope = 1)
    (ht : ((s.core r.core).barrier r.n).team = some r.team) (hr : ((s.core r.core).barrier r.n).root = r.root)
    (hover : waitOver r.phases ((s.core r.core).barrier r.n).phases = true) : mirror s r = takePhases s r := by
  have hm : ((s.core r.core).barrier r.n).mirrors r = true := by simp [Barrier.mirrors, hs, ht, hr]
  simp only [mirror, ha, hm, hover, List.any_nil, Bool.false_eq_true, true_or, and_self, if_true, if_false]

/-- A core that takes the phases of its root. -/
theorem takePhases_takes (s : State) (r : Release) :
    (takePhases s r).rels = s.rels ∧ (takePhases s r).answers = s.answers ∧ (((takePhases s r).core r.core).barrier r.n).phases = r.phases := by
  obtain ⟨hplain, hbars⟩ := releaseWaits_plain (s.updBar r.core r.n (fun b => { b with phases := r.phases })) r.core r.n
  have hrels : (takePhases s r).rels = s.rels := by
    rw [takePhases, ← State.coreless_rels, hplain]
    rfl
  have hans : (takePhases s r).answers = s.answers := by
    rw [takePhases, ← State.coreless_answers, hplain]
    rfl
  refine ⟨hrels, hans, ?_⟩
  unfold takePhases
  rw [barrier_of_bar (hbars r.core), barrier_updBar]

end Sys2Proof.Machine

/-! ## Messages and descriptors arrive (O60) -/

namespace Sys2Proof.Machine
set_option Elab.async false

/-! ### A message enters its queue (R265, R266) -/

theorem stays_putMsg (c : Ctx) (q : Nat) (m : Msg) : stays (putMsg c q m) = stays c := by
  unfold putMsg
  dsimp only
  split
  · next q' a b tag hst hw =>
    split
    · simp only [stays, hst, hw]
      rfl
    · rfl
  all_goals rfl

theorem putMsg_ready {c : Ctx} (q : Nat) (m : Msg) (h : c.st = .ready) :
    (putMsg c q m).queue q = c.queue q ++ [m] ∧ (putMsg c q m).reserved q = c.reserved q - 1 ∧ (putMsg c q m).st = .ready := by
  have heq : putMsg c q m = { c with qres := c.qres.set q (c.reserved q - 1) 0, q := c.q.set q (c.queue q ++ [m]) [] } := by
    simp only [putMsg, h]
    rfl
  rw [heq]
  exact ⟨Tab.get_set_same _ _ _ _, Tab.get_set_same _ _ _ _, h⟩

theorem putMsg_waiting {c : Ctx} {q ha sb tag : Nat} (m : Msg) (h : c.st = .waiting) (hw : c.wait = .queue q ha sb tag) :
    (putMsg c q m).st = .ready ∧ (putMsg c q m).wait = .none ∧ (putMsg c q m).queue q = c.queue q ∧
    (putMsg c q m).res = c.res ++ [{ dst := .h ha, val := m.val.setWidth 512, due := c.waitSeq + 8, seq := c.waitSeq, tag := 0, fixed := false },
      { dst := c.dstS sb, val := .ofNat 512 (m.src % 256 + q % 4 * 256 + 2 ^ 63), due := c.waitSeq + 8, seq := c.waitSeq, tag := tag, fixed := false }] := by
  simp only [putMsg, h, hw, if_true, true_and]
  exact ⟨rfl, List.append_assoc _ _ _⟩

theorem messageDelivery_does {s : State} {f : Flight} (h : s.flights = [f]) :
    exec .messageDelivery s = .next (afterOp (enterQueue { s.draw with flights := [] } f) f.from' f.fslot) := by
  have hone : Config.pick s.fresh % max 1 1 = 0 := Nat.mod_one _
  show execMessageDelivery s = _
  simp only [execMessageDelivery, h, List.zipIdx_cons, List.zipIdx_nil, firstFlight, List.take_zero, List.any_nil, Bool.not_false, List.filter_cons_of_pos,
    List.filter_nil, List.length_singleton, chosen, hone, List.getElem?_cons_zero, List.eraseIdx_cons_zero]

theorem enterQueue_puts {s : State} {f : Flight} {core slot : Nat} (h : s.whereIs f.team f.tidx = some (core, slot)) (ha : f.ack = none) :
    enterQueue s f = s.updCtx core slot (fun c => putMsg c f.q f.m) := by
  simp only [enterQueue, h, ha]

/-- The one message in flight reaches the context of its team index. -/
theorem message_enters {s : State} {f : Flight} {core slot : Nat} (hf : s.flights = [f]) (ha : f.ack = none)
    (hw : s.whereIs f.team f.tidx = some (core, slot)) (hst : stays (s.ctx f.from' f.fslot) = true) :
    ∃ t, exec .messageDelivery s = .next t ∧ t.flights = [] ∧ t.ctx core slot = putMsg (s.ctx core slot) f.q f.m := by
  have hput := enterQueue_puts (s := { s.draw with flights := [] }) (f := f) (core := core) (slot := slot) hw ha
  have hkeeps : KeepsCtx stays { s.draw with flights := [] } (({ s.draw with flights := [] } : State).updCtx core slot fun c => putMsg c f.q f.m) :=
    .updCtx _ _ _ _ fun c => stays_putMsg c f.q f.m
  obtain ⟨l, hl⟩ := afterOp_eq (s := ({ s.draw with flights := [] } : State).updCtx core slot fun c => putMsg c f.q f.m) (core := f.from') (slot := f.fslot)
    ((hkeeps.ctx _ _).trans hst)
  refine ⟨_, (messageDelivery_does hf).trans (congrArg _ ((congrArg (afterOp · f.from' f.fslot) hput).trans hl)), rfl, ?_⟩
  exact State.ctx_updCtx { s.draw with flights := [] } core slot fun c => putMsg c f.q f.m

/-! ### Reading a descriptor (R264) -/

section
variable {α : Type} {g : Ctx → α}

theorem KeepsCtx.uncorr (s : State) (die store addr part core arg : Nat) : KeepsCtx g s (s.uncorr die store addr part core arg) :=
  (KeepsCtx.logErr ..).trans (.postE ..)

theorem KeepsCtx.errorAt (hm : ∀ c : Ctx, g c.unmetered = g c) (s : State) (core slot : Nat) (pl : Place) (x : Word) :
    KeepsCtx g s (errorAt s core slot pl x) := by
  cases pl with
  | sram t a => exact .uncorr ..
  | dev d pa =>
    have hrecall : KeepsCtx g s (if otherBad s core d pa then recallWord s d (pa / 32) else s) :=
      .ite ((MovesWords.recallWord s d (pa / 32)).meters.keeps hm) (.refl s)
    exact hrecall.trans (.ite (.uncorr ..) (.uncorr ..))
  | host a peer => exact .refl s

theorem KeepsCtx.tableErr (s : State) (core slot oid o code : Nat) : KeepsCtx g s (tableErr s core slot oid o code) := by
  unfold Machine.tableErr
  refine .ite (.refl s) (.ite (.uncorr ..) ?_)
  split
  · exact .uncorr ..
  · exact .refl s

end

/-- One step of reading 32 bytes of a descriptor. -/
def descPart (e : Enq) (s : State) (r : Except Nat Nat) (i : Nat) : State × Except Nat Nat :=
  match r with
  | .error k => (s, .error k)
  | .ok v =>
    match place s e.core e.slot (capOid e.cap) (e.off.toNat + 32 * i) 32 with
    | .error k => (tableErr s e.core e.slot (capOid e.cap) (e.off.toNat + 32 * i) k, .error k)
    | .ok (.host a peer) =>
      if e.pcie = 3 || s.hostDown a peer false then (dmaErr s e.core e.slot e.off, .error 0x48)
      else ({ s with fresh := s.fresh + 4 }, .ok (v + ofBytes (hostBytes s.fresh 32) * 2 ^ (256 * i)))
    | .ok pl =>
      let s := touchAt s e.core e.slot (capOid e.cap) (e.off.toNat + 32 * i) pl 32 false 0 0
      match badAt s e.core pl 32 with
      | some k => (errorAt s e.core e.slot pl e.off, .error k)
      | none => (s, .ok (v + s.getAt pl 32 * 2 ^ (256 * i)))

theorem readDesc_eq (s : State) (e : Enq) :
    readDesc s e = match (if capOid e.cap = oidRemote then spadPlace s e.core e.slot (capOid e.cap) e.off.toNat 256 else .ok (.sram e.core 0)) with
      | .error k => (s, .error k)
      | .ok _ => (List.range 8).foldl (fun r i => descPart e r.1 r.2 i) (s, .ok 0) := rfl

theorem descPart_keeps (e : Enq) (s : State) (r : Except Nat Nat) (i : Nat) :
    Around s (descPart e s r i).1 ∧ KeepsCtx Ctx.besideTiles s (descPart e s r i).1 := by
  unfold descPart
  split
  · exact ⟨.refl s, .refl s⟩
  split
  · exact ⟨.tableErr .., .tableErr ..⟩
  · split
    · exact ⟨.postE .., .postE ..⟩
    · exact ⟨.plain rfl rfl rfl, .congr rfl rfl⟩
  · next pl _ _ =>
    have ha : Around s (touchAt s e.core e.slot (capOid e.cap) (e.off.toNat + 32 * i) pl 32 false 0 0) := .touchAt ..
    have hk : KeepsCtx Ctx.besideTiles s (touchAt s e.core e.slot (capOid e.cap) (e.off.toNat + 32 * i) pl 32 false 0 0) :=
      .touchAt (fun _ => rfl) (fun _ _ => rfl) ..
    dsimp only
    generalize touchAt s e.core e.slot (capOid e.cap) (e.off.toNat + 32 * i) pl 32 false 0 0 = u at ha hk
    split
    · exact ⟨ha.trans (.errorAt u ..), hk.trans (.errorAt (fun _ => rfl) u ..)⟩
    · exact ⟨ha, hk⟩

/-- Reading a descriptor leaves the machine around it, and what contexts await. -/
theorem readDesc_keeps (s : State) (e : Enq) : Around s (readDesc s e).1 ∧ KeepsCtx Ctx.besideTiles s (readDesc s e).1 := by
  rw [readDesc_eq]
  split
  · exact ⟨.refl s, .refl s⟩
  · exact ⟨.foldl_on Prod.fst (fun r i => descPart e r.1 r.2 i) (fun r i => (descPart_keeps e r.1 r.2 i).1) (List.range 8) (s, Except.ok 0),
      .foldl_on Prod.fst (fun r i => descPart e r.1 r.2 i) (fun r i => (descPart_keeps e r.1 r.2 i).2) (List.range 8) (s, Except.ok 0)⟩

/-! ### The result of an `enqt` (R264, R279) -/

theorem enqtResult_does {s : State} {e : Enq} (h : s.enqs = [e]) (hp : e.pcie ≠ 1) :
    exec .enqtResult s = .next (afterOp (enqDone { s.draw with enqs := [] } e) e.core e.slot) := by
  have hone : Config.pick s.fresh % max 1 1 = 0 := Nat.mod_one _
  have hgo : (e.pcie != 1) = true := bne_iff_ne.mpr hp
  show execEnqtResult s = _
  simp only [execEnqtResult, h, List.zipIdx_cons, List.zipIdx_nil, hgo, List.filter_cons_of_pos, List.filter_nil, List.length_singleton, chosen, hone,
    List.getElem?_cons_zero, List.eraseIdx_cons_zero]

/-- What the dispatcher makes of a descriptor that it has read. -/
def enqAnswer (u : State) (e : Enq) (part d : Nat) : State × Word :=
  if shareFull u part then (u, enqResult 0 (some 0x55))
  else if descOk u part d (fun i => e.caps.get i 0) false = false then (u, enqResult 0 (some 0x56))
  else
    let r := takeIn u part d (fun i => e.caps.get i 0) e.time
    (r.1, enqResult (r.1.handle r.2) none)

/-- The register write of an `enqt`. -/
def Enq.result (e : Enq) (v : Word) : Pend := { dst := e.dst, val := v.setWidth 512, due := e.seq + 16, seq := e.seq, tag := e.tag, fixed := false }

/-- The fault of an `enqt` whose descriptor could not be read. -/
def Enq.fault (e : Enq) (code : Nat) : PendFault :=
  { code := code, async := true, sup := false, tval := e.off, tinst := e.waddr, slot := 0, k := e.k, seq := e.seq, id := e.id, tag := e.tag }

theorem enqDone_reads {s u : State} {e : Enq} {d : Nat} (ht : (s.ctx e.core e.slot).team = e.team) (h : readDesc s e = (u, .ok d)) :
    enqDone s e = (enqAnswer u e (s.ctx e.core e.slot).part d).1.updCtx e.core e.slot
      (fun c => c.push (e.result (enqAnswer u e (s.ctx e.core e.slot).part d).2)) := by
  unfold enqDone
  dsimp only
  rw [if_neg (not_not.mpr ht), h]
  dsimp only
  unfold enqAnswer
  split
  · rfl
  split
  · rfl
  · rfl

theorem enqDone_faults {s u : State} {e : Enq} {code : Nat} (ht : (s.ctx e.core e.slot).team = e.team) (h : readDesc s e = (u, .error code)) :
    enqDone s e = u.addFault e.core e.slot (e.fault code) := by
  unfold enqDone
  dsimp only
  rw [if_neg (not_not.mpr ht), h]
  rfl

/-- The answer takes contexts and requests in flight as they are. -/
theorem enqAnswer_keeps (u : State) (e : Enq) (part d : Nat) :
    (enqAnswer u e part d).1.enqs = u.enqs ∧ KeepsCtx Ctx.besideTiles u (enqAnswer u e part d).1 := by
  unfold enqAnswer
  split
  · exact ⟨rfl, .refl u⟩
  split
  · exact ⟨rfl, .refl u⟩
  · exact ⟨rfl, .congr rfl rfl⟩

theorem beside_stays {c d : Ctx} (h : c.besideTiles = d.besideTiles) : c.res = d.res ∧ c.team = d.team ∧ stays c = stays d := by
  simp only [Ctx.besideTiles, Prod.mk.injEq] at h
  obtain ⟨hst, hw, hres, ht⟩ := h
  exact ⟨hres, ht, by simp only [stays, hst, hw]⟩

/-- Reading the descriptor of the one `enqt` in flight. -/
theorem enqt_read {s u : State} {e : Enq} {desc : Except Nat Nat} (hr : readDesc { s.draw with enqs := [] } e = (u, desc)) :
    u.enqs = [] ∧ KeepsCtx Ctx.besideTiles s u := by
  have hread := readDesc_keeps { s.draw with enqs := [] } e
  rw [hr] at hread
  obtain ⟨haround, hkeeps⟩ := hread
  have henqs : u.rest.enqs = ({ s.draw with enqs := [] } : State).rest.enqs := by rw [haround.rest]
  exact ⟨henqs, (KeepsCtx.congr rfl rfl : KeepsCtx Ctx.besideTiles s { s.draw with enqs := [] }).trans hkeeps⟩

section
variable {s u : State} {e : Enq} {desc : Except Nat Nat} (he : s.enqs = [e]) (hp : e.pcie ≠ 1) (ht : (s.ctx e.core e.slot).team = e.team)
  (hst : stays (s.ctx e.core e.slot) = true) (hr : readDesc { s.draw with enqs := [] } e = (u, desc))
include he hp ht hst hr

/-- A descriptor that was read is answered. -/
theorem enqt_answers {d : Nat} (hd : desc = .ok d) :
    ∃ t, exec .enqtResult s = .next t ∧ t.enqs = [] ∧ t.tasks = (enqAnswer u e (s.ctx e.core e.slot).part d).1.tasks ∧
      (t.ctx e.core e.slot).res = (s.ctx e.core e.slot).res ++ [e.result (enqAnswer u e (s.ctx e.core e.slot).part d).2] := by
  obtain ⟨henqs, hkeeps⟩ := enqt_read hr
  have hdoes := enqtResult_does he hp
  rw [enqDone_reads (s := { s.draw with enqs := [] }) (u := u) (d := d) ht (by rw [hr, hd])] at hdoes
  have hans := enqAnswer_keeps u e (s.ctx e.core e.slot).part d
  change exec .enqtResult s = .next (afterOp ((enqAnswer u e (s.ctx e.core e.slot).part d).1.updCtx e.core e.slot
    (fun c => c.push (e.result (enqAnswer u e (s.ctx e.core e.slot).part d).2))) e.core e.slot) at hdoes
  generalize enqAnswer u e (s.ctx e.core e.slot).part d = r at hdoes hans
  obtain ⟨hres, -, hstays⟩ := beside_stays ((hkeeps.trans hans.2).ctx e.core e.slot)
  have hctx : (r.1.updCtx e.core e.slot (fun c => c.push (e.result r.2))).ctx e.core e.slot = (r.1.ctx e.core e.slot).push (e.result r.2) := State.ctx_updCtx ..
  obtain ⟨l, hl⟩ := afterOp_eq (s := r.1.updCtx e.core e.slot (fun c => c.push (e.result r.2))) (core := e.core) (slot := e.slot)
    (by rw [hctx]; exact hstays.trans hst)
  refine ⟨_, hdoes.trans (congrArg _ hl), hans.1.trans henqs, rfl, ?_⟩
  show ((r.1.updCtx e.core e.slot (fun c => c.push (e.result r.2))).ctx e.core e.slot).res = _
  rw [hctx, ← hres]
  rfl

/-- A fault of the reading joins its context. -/
theorem enqt_faults {code : Nat} (hd : desc = .error code) (hw : (u.ctx e.core e.slot).wait ≠ .stopped) :
    ∃ t, exec .enqtResult s = .next t ∧ e.fault code ∈ (t.ctx e.core e.slot).faults := by
  obtain ⟨-, hkeeps⟩ := enqt_read hr
  obtain ⟨-, -, hstays⟩ := beside_stays (hkeeps.ctx e.core e.slot)
  have hdoes := enqtResult_does he hp
  rw [enqDone_faults (s := { s.draw with enqs := [] }) (u := u) (code := code) ht (by rw [hr, hd])] at hdoes
  have hctx : (u.addFault e.core e.slot (e.fault code)).ctx e.core e.slot =
      { u.ctx e.core e.slot with faults := (u.ctx e.core e.slot).faults ++ [e.fault code] } := by
    unfold State.addFault
    rw [State.ctx_updCtx, if_neg hw]
  obtain ⟨l, hl⟩ := afterOp_eq (s := u.addFault e.core e.slot (e.fault code)) (core := e.core) (slot := e.slot) (by rw [hctx]; exact hstays.trans hst)
  refine ⟨_, hdoes.trans (congrArg _ hl), ?_⟩
  show e.fault code ∈ ((u.addFault e.core e.slot (e.fault code)).ctx e.core e.slot).faults
  rw [hctx]
  exact List.mem_append_right _ (List.mem_singleton_self _)

end

theorem enqResult_handle (n g : Nat) : enqResult (n % 2 ^ 15 + g % 2 ^ 17 * 2 ^ 15) none = .ofNat 64 (n % 2 ^ 15 + g % 2 ^ 17 * 2 ^ 15) := by
  unfold enqResult
  dsimp only
  rw [Nat.mod_eq_of_lt (by omega)]
  rfl

/-- A task that is taken in stands in the table, and its handle names it (R277, R279). -/
theorem takeIn_takes (s : State) (p d : Nat) (src : Nat → BitVec 128) (time : Nat) :
    ∃ k, (takeIn s p d src time).1.task (takeIn s p d src time).2 = some k ∧ k.part = p ∧
      (takeIn s p d src time).1.handle (takeIn s p d src time).2 = (takeIn s p d src time).2 % 2 ^ 15 + k.gen % 2 ^ 17 * 2 ^ 15 := by
  have htask : ∃ k, (takeIn s p d src time).1.task (takeIn s p d src time).2 = some k ∧ k.part = p := by
    unfold takeIn
    dsimp only
    exact ⟨_, task_setTask s.draw (freeIndex s) (some _), rfl⟩
  obtain ⟨k, hk, hpart⟩ := htask
  exact ⟨k, hk, hpart, by rw [State.handle, hk]⟩

/-! ### O60 -/

theorem barrierReleaseMessage_does {s : State} {r : Release} (h : s.rels = [r]) :
    exec .barrierReleaseMessage s = .next (mirror { s with rels := [] } r) := by
  show execBarrierReleaseMessage s = _
  simp only [execBarrierReleaseMessage, h]

theorem barrierInitAnswer_does {s : State} {r : Release} (h : s.answers = [r]) :
    exec .barrierInitAnswer s = .next (takePhases { s with answers := [] } r) := by
  show execBarrierInitAnswer s = _
  simp only [execBarrierInitAnswer, h]

theorem waitOver_of {ph t : Nat} (h₁ : 1 ≤ (ph + 2 ^ 16 - t % 2 ^ 16) % 2 ^ 16) (h₂ : (ph + 2 ^ 16 - t % 2 ^ 16) % 2 ^ 16 ≤ 32767) : waitOver ph t = true :=
  Bool.and_eq_true_iff.mpr ⟨decide_eq_true h₁, decide_eq_true h₂⟩

/-- Settles O60: an arrival by what completing phases leaves (`completePhases_last`), releases by the phases taken, messages and
descriptors by what their last context awaits. -/
theorem barrierAndMessageEvents : Obligations.BarrierAndMessageEvents := by
  refine ⟨fun s a dst seq tag harr hfor => ?_, fun s r => ⟨fun hr ha hs ht hroot hover => ?_, fun hr ha hother => ?_, fun ha => ?_⟩,
    fun s f core slot hf hack hw hst => ⟨fun hready => ?_, fun ha sb tag hwait hq => ?_⟩, fun s e desc u he hp hteam hst hr => ⟨fun d hd => ⟨fun hfull => ?_, fun hroom hbad => ?_, fun hroom hok => ?_⟩, fun code hd hlive => ?_⟩⟩
  · intro b c hs ht hteam hst
    refine ⟨fun he hph => ?_, fun he => ?_⟩
    · obtain ⟨t, ht', harrs, hbar, hres⟩ := arrival_before harr hfor hs ht hteam hst he hph
      exact ⟨t, ht', harrs, hbar, hres, trivial⟩
    · obtain ⟨t, ht', harrs, hbar, hres, hfree⟩ := arrival_last harr hfor hs ht hteam hst he
      exact ⟨t, ht', harrs, hbar, hres, fun i tok hi hwst hw h₁ h₂ => hfree i tok hi hwst hw (waitOver_of h₁ h₂)⟩
  · have hdoes := barrierReleaseMessage_does hr
    rw [mirror_takes (s := { s with rels := [] }) ha hs ht hroot hover] at hdoes
    obtain ⟨hrels, -, hph⟩ := takePhases_takes { s with rels := [] } r
    exact ⟨_, hdoes, hrels, hph⟩
  · rw [barrierReleaseMessage_does hr, mirror_other (s := { s with rels := [] }) ha hother]
  · obtain ⟨-, hans, hph⟩ := takePhases_takes { s with answers := [] } r
    exact ⟨_, barrierInitAnswer_does ha, hans, hph⟩
  · obtain ⟨t, ht, hfl, hctx⟩ := message_enters hf hack hw hst
    refine ⟨t, ht, hfl, ?_⟩
    rw [hctx]
    exact putMsg_ready f.q f.m hready
  · obtain ⟨t, ht, hfl, hctx⟩ := message_enters hf hack hw hst
    refine ⟨t, ht, hfl, ?_⟩
    rw [hctx]
    exact putMsg_waiting f.m hwait hq
  · obtain ⟨t, ht, henqs, -, hres⟩ := enqt_answers he hp hteam hst hr hd
    have hans : enqAnswer u e (s.ctx e.core e.slot).part d = (u, enqResult 0 (some 0x55)) := if_pos hfull
    rw [hans] at hres
    exact ⟨t, _, ht, henqs, rfl, hres⟩
  · obtain ⟨t, ht, henqs, -, hres⟩ := enqt_answers he hp hteam hst hr hd
    have hans : enqAnswer u e (s.ctx e.core e.slot).part d = (u, enqResult 0 (some 0x56)) := by
      unfold enqAnswer
      rw [if_neg (by rw [hroom]; exact Bool.false_ne_true), if_pos hbad]
    rw [hans] at hres
    exact ⟨t, _, ht, henqs, rfl, hres⟩
  · obtain ⟨t, ht, henqs, htasks, hres⟩ := enqt_answers he hp hteam hst hr hd
    have hans : enqAnswer u e (s.ctx e.core e.slot).part d =
        ((takeIn u (s.ctx e.core e.slot).part d (fun i => e.caps.get i 0) e.time).1,
          enqResult ((takeIn u (s.ctx e.core e.slot).part d (fun i => e.caps.get i 0) e.time).1.handle
            (takeIn u (s.ctx e.core e.slot).part d (fun i => e.caps.get i 0) e.time).2) none) := by
      unfold enqAnswer
      rw [if_neg (by rw [hroom]; exact Bool.false_ne_true), if_neg (by rw [hok]; simp)]
    obtain ⟨k, hk, hpart, hhandle⟩ := takeIn_takes u (s.ctx e.core e.slot).part d (fun i => e.caps.get i 0) e.time
    rw [hans] at htasks hres
    dsimp only at htasks hres
    rw [hhandle, enqResult_handle] at hres
    exact ⟨t, _, ht, henqs, ⟨_, k, by rw [State.task, htasks]; exact hk, hpart, rfl⟩, hres⟩
  · obtain ⟨t, ht, hmem⟩ := enqt_faults he hp hteam hst hr hd hlive
    exact ⟨t, _, ht, hmem, rfl, rfl, rfl⟩

end Sys2Proof.Machine

/-! ## The order of placement, energy holds and ring entries (O59) -/

namespace Sys2Proof.Machine
set_option Elab.async false

/-! ### The first rectangle by its keys (R285) -/

theorem keyLess_iff (a b : Nat × Nat × Nat) :
    keyLess a b = true ↔ a.1 < b.1 ∨ (a.1 = b.1 ∧ (a.2.1 < b.2.1 ∨ (a.2.1 = b.2.1 ∧ a.2.2 < b.2.2))) := by
  simp [keyLess]

theorem keyLess_trans {a b c : Nat × Nat × Nat} (h : keyLess a b = true) (k : keyLess b c = true) : keyLess a c = true := by
  rw [keyLess_iff] at *
  omega

/-- A key that is not less than one that is not less than a third. -/
theorem not_keyLess_trans {a b c : Nat × Nat × Nat} (h : keyLess a b = false) (k : keyLess b c = false) : keyLess a c = false := by
  rw [← Bool.not_eq_true, keyLess_iff] at *
  omega

theorem keyLess_irrefl (a : Nat × Nat × Nat) : keyLess a a = false := by
  rw [← Bool.not_eq_true, keyLess_iff]
  omega

/-- The better of what a search holds and one origin. -/
def lesserKey (key : Nat × Nat → Nat × Nat × Nat) (b : Option (Nat × Nat)) (o : Nat × Nat) : Option (Nat × Nat) :=
  match b with
  | none => some o
  | some c => if keyLess (key o) (key c) then some o else b

/-- A search from an origin ends at one of those it has met, and none of them has a lesser key. -/
theorem lesserKey_least (key : Nat × Nat → Nat × Nat × Nat) (l : List (Nat × Nat)) (c : Nat × Nat) :
    ∃ o, l.foldl (lesserKey key) (some c) = some o ∧ (o = c ∨ o ∈ l) ∧ ∀ r, r = c ∨ r ∈ l → keyLess (key r) (key o) = false := by
  induction l generalizing c with
  | nil =>
    refine ⟨c, rfl, .inl rfl, fun r hr => ?_⟩
    rw [hr.resolve_right (List.not_mem_nil)]
    exact keyLess_irrefl _
  | cons x l ih =>
    rw [List.foldl_cons]
    unfold lesserKey
    dsimp only
    by_cases hx : keyLess (key x) (key c) = true
    · rw [if_pos hx]
      obtain ⟨o, ho, hmem, hleast⟩ := ih x
      refine ⟨o, ho, .inr (List.mem_cons.mpr hmem), fun r hr => ?_⟩
      rcases hr with rfl | hr
      · rw [← Bool.not_eq_true]
        intro hlt
        exact absurd (keyLess_trans hx hlt) (by rw [hleast x (.inl rfl)]; exact Bool.false_ne_true)
      · exact hleast r (List.mem_cons.mp hr)
    · rw [if_neg hx]
      obtain ⟨o, ho, hmem, hleast⟩ := ih c
      refine ⟨o, ho, hmem.imp id (List.mem_cons_of_mem _), fun r hr => ?_⟩
      rcases hr with rfl | hr
      · exact hleast r (.inl rfl)
      · rcases List.mem_cons.mp hr with rfl | hr
        · exact not_keyLess_trans (Bool.eq_false_iff.mpr hx) (hleast c (.inl rfl))
        · exact hleast r (.inr hr)

theorem firstRect_eq (s : State) (w : Want) (occ : Bool) (f : Nat × Nat → Bool) :
    firstRect s w occ f = ((origins w.task.a w.task.b).filter f).foldl (lesserKey (rectKey s w occ)) none := rfl

/-- The first rectangle is an origin that is accepted, and no other of these has a lesser key. -/
theorem firstRect_least {s : State} {w : Want} {f : Nat × Nat → Bool} {o : Nat × Nat} (h : firstRect s w true f = some o) :
    o ∈ origins w.task.a w.task.b ∧ f o = true ∧
    ∀ r ∈ origins w.task.a w.task.b, f r = true → keyLess (rectKey s w true r) (rectKey s w true o) = false := by
  rw [firstRect_eq] at h
  generalize hl : (origins w.task.a w.task.b).filter f = l at h
  have hmem (r : Nat × Nat) : r ∈ l ↔ r ∈ origins w.task.a w.task.b ∧ f r = true := by rw [← hl, List.mem_filter]
  cases l with
  | nil => cases h
  | cons c l =>
    obtain ⟨o', ho', hin, hleast⟩ := lesserKey_least (rectKey s w true) l c
    obtain rfl : o' = o := Option.some.inj (ho'.symm.trans h)
    obtain ⟨horigin, hf⟩ := (hmem o').mp (List.mem_cons.mpr hin)
    exact ⟨horigin, hf, fun r hr hfr => hleast r (List.mem_cons.mp ((hmem r).mpr ⟨hr, hfr⟩))⟩

/-! ### Energy holds (R287, R372) -/

theorem task_setTask_other (s : State) {n j : Nat} (k : Option Task) (h : j ≠ n) : (s.setTask n k).task j = s.task j :=
  Tab.get_set_other _ _ _ _ _ _ h

theorem task_updTask (s : State) (n : Nat) (f : Task → Task) : (s.updTask n f).task n = (s.task n).map f := task_setTask ..

theorem task_updTask_other (s : State) {n j : Nat} (f : Task → Task) (h : j ≠ n) : (s.updTask n f).task j = s.task j := task_setTask_other s _ h

theorem task_postE (s : State) (p code island core die handle arg j : Nat) : (s.postE p code island core die handle arg).task j = s.task j := by
  obtain ⟨l, q, h⟩ := postE_eq s p code island core die handle arg
  rw [h]
  rfl

/-- One task of FALLBACK_PRESSURE. -/
def pressOne (s : State) (e : Nat × Option Task) : State :=
  match e.2 with
  | some t => (s.postE t.part 0x64 (handle := s.handle e.1)).updTask e.1 (fun t => { t with holdPosted := true })
  | none => s

theorem fallbackPressure_does (s : State) :
    exec .fallbackPressure s = .next ((s.tasks.filter (fun e => e.2.any (holdDue s))).foldl pressOne s) := rfl

/-- An entry that a table gives stands in it. -/
theorem mem_of_get {α : Type} {t : Tab (Option α)} {n : Nat} {k : α} (h : t.get n none = some k) : (n, some k) ∈ t := by
  induction t with
  | nil => cases h
  | cons e r ih =>
    obtain ⟨m, v⟩ := e
    rw [Tab.get] at h
    split at h
    · next hm =>
      subst hm
      rw [h]
      exact List.mem_cons_self
    · exact List.mem_cons_of_mem _ (ih h)

theorem task_pressOne (s : State) (e : Nat × Option Task) (n : Nat) :
    (pressOne s e).task n = s.task n ∨ (pressOne s e).task n = (s.task n).map (fun t => { t with holdPosted := true }) := by
  unfold pressOne
  split
  · by_cases hn : n = e.1
    · subst hn
      rw [task_updTask, task_postE]
      exact .inr rfl
    · rw [task_updTask_other _ _ hn, task_postE]
      exact .inl rfl
  · exact .inl rfl

theorem task_pressOne_same (s : State) {n : Nat} (k : Task) : (pressOne s (n, some k)).task n = (s.task n).map (fun t => { t with holdPosted := true }) := by
  unfold pressOne
  rw [task_updTask, task_postE]

/-- Every hold that is due has been posted. -/
theorem pressed {s : State} {n : Nat} {k : Task} {l : List (Nat × Option Task)} (hl : (n, some k) ∈ l) (hk : (s.task n).isSome = true) :
    ((l.foldl pressOne s).task n).map (·.holdPosted) = some true := by
  have hsome (s : State) (e : Nat × Option Task) (h : (s.task n).isSome = true) : ((pressOne s e).task n).isSome = true := by
    rcases task_pressOne s e n with he | he <;> rw [he] <;> simp [h]
  have hstay (s : State) (e : Nat × Option Task) (h : (s.task n).map (·.holdPosted) = some true) : ((pressOne s e).task n).map (·.holdPosted) = some true := by
    rcases task_pressOne s e n with he | he
    · rwa [he]
    · rw [he]
      obtain ⟨t, ht, -⟩ := Option.map_eq_some_iff.mp h
      rw [ht]
      rfl
  induction l generalizing s with
  | nil => cases hl
  | cons e r ih =>
    rcases List.mem_cons.mp hl with rfl | hl
    · refine List.foldlRecOn (motive := fun s : State => (s.task n).map (·.holdPosted) = some true) r _ ?_ fun s hs e _ => hstay s e hs
      rw [task_pressOne_same]
      obtain ⟨t, ht⟩ := Option.isSome_iff_exists.mp hk
      rw [ht]
      rfl
    · exact ih hl (hsome s e hk)

/-- The one hold that is due is posted. -/
theorem pressOne_posts {s : State} {n : Nat} {k : Task} (hk : s.task n = some k) :
    PostsE s (pressOne s (n, some k)) k.part 0x64 ∧ (pressOne s (n, some k)).task n = some { k with holdPosted := true } ∧
    ∀ j, j ≠ n → (pressOne s (n, some k)).task j = s.task j := by
  refine ⟨?_, ?_, fun j hj => ?_⟩
  · unfold pressOne
    exact (postsE_postE _ _ (by decide) _ _ _ _ _).congr rfl rfl
  · rw [task_pressOne_same, hk]
    rfl
  · unfold pressOne
    rw [task_updTask_other _ _ hj, task_postE]

/-! ### Ring entries (R276) -/

theorem ready_one {s : State} {p q : Nat} (a : Bool) (h : ringsReady s a = [(p, q)]) : writeSome s a = writeEntry s.draw p q := by
  have hone : Config.pick s.fresh % max 1 1 = 0 := Nat.mod_one _
  simp only [writeSome, h, List.length_singleton, hone, List.getElem?_cons_zero]

theorem ready_none {s : State} (a : Bool) (h : ringsReady s a = []) : writeSome s a = s := by
  simp only [writeSome, h, List.length_nil, List.getElem?_nil]

/-- The state in which the oldest entry of a ring has been written. -/
def wroteEntry (s : State) (p q : Nat) (e : BitVec 256) (r : List (BitVec 256 × Option Nat)) : State :=
  (s.send (.pcieWrite (.vf p) (((s.part p).queueOf q).cqcfg.toNat / 2 ^ 12 * 4096 + 32 * (((s.part p).queueOf q).written % 2 ^ (((s.part p).queueOf q).cqcfg.toNat / 2 % 2 ^ 5)))
    (toBytes 32 (e.toNat + (1 - ((s.part p).queueOf q).written / 2 ^ (((s.part p).queueOf q).cqcfg.toNat / 2 % 2 ^ 5) % 2) * 2 ^ 63)))).updQueue p q
    (fun y => { y with waiting := r, written := y.written + 1 })

theorem writeEntry_eq {s : State} {p q : Nat} {e : BitVec 256} {i : Option Nat} {r : List (BitVec 256 × Option Nat)}
    (h : ((s.part p).queueOf q).waiting = (e, i) :: r) :
    writeEntry s p q = if e.getLsbD 40 = true then wroteEntry s p q e r else i.elim (wroteEntry s p q e r) (freeTask (wroteEntry s p q e r)) := by
  have hbase : fld ((s.part p).queueOf q).cqcfg 12 52 = ((s.part p).queueOf q).cqcfg.toNat / 2 ^ 12 := fld_end _ rfl
  have hsize : fld ((s.part p).queueOf q).cqcfg 1 5 = ((s.part p).queueOf q).cqcfg.toNat / 2 % 2 ^ 5 := rfl
  have hbit : fld e 40 1 = 1 ↔ e.getLsbD 40 = true := by
    rw [fld_bit]
    cases e.getLsbD 40 <;> decide
  unfold writeEntry
  dsimp only
  rw [h, hbase, hsize]
  simp only [hbit]
  cases i <;> rfl

theorem wroteEntry_does (s : State) (p q : Nat) (e : BitVec 256) (r : List (BitVec 256 × Option Nat)) :
    (((wroteEntry s p q e r).part p).queueOf q).written = ((s.part p).queueOf q).written + 1 ∧
    (((wroteEntry s p q e r).part p).queueOf q).waiting = r := by
  unfold wroteEntry
  rw [queueOf_updQueue]
  exact ⟨rfl, rfl⟩

/-- With every submission ring off nothing is read. -/
theorem readQueues_off {s : State} (p : Nat) (h : ∀ q, ringOn ((s.part p).queueOf q).sqcfg = false) : readQueues s p = s :=
  List.foldl_fixed' (f := fun s q => readQueue s p q) (fun q => if_pos (Or.inl (h q))) allParts

end Sys2Proof.Machine

/-! ## Start and end of teams (O59) -/

namespace Sys2Proof.Machine
set_option Elab.async false

/-- What one step of a fold brings about where something holds throughout, and every step keeps, holds in the end. -/
theorem foldl_reaches_under {α β : Type} (I P : β → Prop) {f : β → α → β} {l : List α} {u : α} (hu : u ∈ l) (hI : ∀ b n, I b → I (f b n))
    (hmake : ∀ b, I b → P (f b u)) (hkeep : ∀ b n, I b → P b → P (f b n)) {b : β} (hb : I b) : P (l.foldl f b) := by
  obtain ⟨l₁, l₂, rfl⟩ := List.append_of_mem hu
  have h₁ : I (l₁.foldl f b) := List.foldlRecOn l₁ f hb fun b hb n _ => hI b n hb
  rw [List.foldl_append, List.foldl_cons]
  exact (List.foldlRecOn (motive := fun b => I b ∧ P b) l₂ f ⟨hI _ _ h₁, hmake _ h₁⟩ fun b hb n _ => ⟨hI b n hb.1, hkeep b n hb.1 hb.2⟩).2

theorem team_one {s : State} {n : Nat} {m : Team} (h : s.teams = [(n, some m)]) : s.team n = some m := by
  rw [State.team, h]
  exact if_pos rfl

/-- The one team of the machine, where it is asked for. -/
theorem someTeam_one {s : State} {n : Nat} {m : Team} {f : Nat → Team → Bool} (h : s.teams = [(n, some m)]) (hf : f n m = true) :
    someTeam s f = some n := by
  have hone : Config.pick s.fresh % max 1 1 = 0 := Nat.mod_one _
  simp only [someTeam, h, List.filterMap_cons, hf, if_true, List.filterMap_nil, List.length_singleton, hone, List.getElem?_cons_zero]

/-! ### A loaded team starts (R47, R57) -/

/-- The start of one context. -/
def startOne (m : Team) (s : State) (p : Nat × Nat) : State :=
  match m.kept.find? (fun k => k.tidx == (s.ctx p.1 p.2).tidx) with
  | none => s.setCtx p.1 p.2 { s.ctx p.1 p.2 with st := .ready }
  | some k =>
    if k.ended then s.setCtx p.1 p.2 { s.ctx p.1 p.2 with st := .ended }
    else enterSup s p.1 p.2 (fld (s.part (s.ctx p.1 p.2).part).rstcfg 0 24)

theorem startTeam_eq {s : State} {n : Nat} {m : Team} (h : s.team n = some m) :
    startTeam s n = ((s.teamCtxs n).foldl (startOne m) s).setTeam n (some { m with st := .running, kept := [] }) := by
  simp only [startTeam, h]
  rfl

/-- How a context with this index starts. -/
def Team.Starts (m : Team) (entry : Nat) (tidx : Nat) (d : Ctx) : Prop :=
  match m.kept.find? (fun k => k.tidx == tidx) with
  | none => d.st = .ready
  | some k => if k.ended then d.st = .ended else d.st = .supervisor ∧ d.sup = true ∧ d.spc = entry

/-- What tells a context's team index and partition. -/
def Ctx.origin (c : Ctx) : Nat × Nat := (c.tidx, c.part)

/-- One context starts: it is one new value of that context alone. -/
theorem startOne_sets (m : Team) (s : State) (p : Nat × Nat) :
    ∃ d, startOne m s p = s.setCtx p.1 p.2 d ∧ d.origin = (s.ctx p.1 p.2).origin ∧
      m.Starts ((s.part (s.ctx p.1 p.2).part).rstcfg.toNat % 2 ^ 24) (s.ctx p.1 p.2).tidx d := by
  unfold startOne Team.Starts
  cases m.kept.find? (fun k => k.tidx == (s.ctx p.1 p.2).tidx) with
  | none => exact ⟨_, rfl, rfl, rfl⟩
  | some k =>
    dsimp only
    split
    · exact ⟨_, rfl, rfl, rfl⟩
    · exact ⟨_, rfl, rfl, rfl, rfl, by rw [fld_eq, pow_zero, Nat.div_one]⟩

theorem startOne_keeps (m : Team) (s : State) (p : Nat × Nat) : KeepsCtx Ctx.origin s (startOne m s p) ∧ (startOne m s p).parts = s.parts := by
  obtain ⟨d, hd, horigin, -⟩ := startOne_sets m s p
  rw [hd]
  exact ⟨.setCtx _ _ _ _ horigin, rfl⟩

/-- Every context of a loaded team starts as the dispatcher kept it, or anew. -/
theorem startTeam_starts {s : State} {n : Nat} {m : Team} (h : s.team n = some m) {p : Nat × Nat} (hp : p ∈ s.teamCtxs n) :
    m.Starts ((s.part ((startTeam s n).ctx p.1 p.2).part).rstcfg.toNat % 2 ^ 24) (s.ctx p.1 p.2).tidx ((startTeam s n).ctx p.1 p.2) := by
  have hmake (u : State) (hu : KeepsCtx Ctx.origin s u ∧ u.parts = s.parts) (q : Nat × Nat) :
      m.Starts ((s.part ((startOne m u q).ctx q.1 q.2).part).rstcfg.toNat % 2 ^ 24) (s.ctx q.1 q.2).tidx ((startOne m u q).ctx q.1 q.2) := by
    obtain ⟨d, hd, horigin, hstarts⟩ := startOne_sets m u q
    have hpart : u.part d.part = s.part d.part := by rw [State.part, hu.2]; rfl
    have ho : d.origin = (s.ctx q.1 q.2).origin := horigin.trans (hu.1.ctx q.1 q.2)
    have hd' : (u.ctx q.1 q.2).part = d.part ∧ (u.ctx q.1 q.2).tidx = (s.ctx q.1 q.2).tidx := by
      have h₁ := congrArg Prod.snd horigin
      have h₂ := congrArg Prod.fst (hu.1.ctx q.1 q.2)
      exact ⟨h₁.symm, h₂⟩
    rw [hd, State.ctx_setCtx]
    rw [hd'.1, hd'.2, hpart] at hstarts
    exact hstarts
  rw [startTeam_eq h]
  refine foldl_reaches_under (fun u => KeepsCtx Ctx.origin s u ∧ u.parts = s.parts)
    (fun u : State => m.Starts ((s.part (u.ctx p.1 p.2).part).rstcfg.toNat % 2 ^ 24) (s.ctx p.1 p.2).tidx (u.ctx p.1 p.2)) hp
    (fun u q hu => ?_) (fun u hu => hmake u hu p) (fun u q hu hP => ?_) ⟨.refl s, rfl⟩
  · obtain ⟨hk, hparts⟩ := startOne_keeps m u q
    exact ⟨hu.1.trans hk, hparts.trans hu.2⟩
  · by_cases hq : p = q
    · subst hq
      exact hmake u hu p
    · obtain ⟨d, hd, -, -⟩ := startOne_sets m u q
      have hctx : (startOne m u q).ctx p.1 p.2 = u.ctx p.1 p.2 := by
        rw [hd]
        by_cases hc : p.1 = q.1
        · rw [← hc, State.ctx_setCtx_slot _ _ _ _ _ fun hs => hq (Prod.ext hc hs)]
        · exact State.ctx_setCtx_core _ _ _ _ _ _ hc
      rwa [hctx]

/-- The one team, loaded, starts. -/
theorem teamLoaded_does {s : State} {n : Nat} {m : Team} (h : s.teams = [(n, some m)]) (hst : m.st = .loading) :
    exec .teamLoaded s = .next (startTeam s.draw n) := by
  have hf : someTeam s (fun _ m => m.st == .loading) = some n := someTeam_one h (by rw [hst]; rfl)
  show execTeamLoaded s = _
  simp only [execTeamLoaded, hf]

end Sys2Proof.Machine

/-! ## The end of a team and of its task (O59) -/

namespace Sys2Proof.Machine
set_option Elab.async false

/-! ### What the command processor leaves of contexts -/

section
variable {α : Type} {g : Ctx → α} (hm : ∀ c : Ctx, g c.unmetered = g c)
include hm

theorem KeepsCtx.l2Host (s : State) (die pa n : Nat) (wr : Bool) : KeepsCtx g s (l2Host s die pa n wr) :=
  .foldl _ (fun s _ => ((MovesWords.l2Use s die _ _ _).meters.keeps hm).trans (.ite ((MovesWords.l2Dirty ..).meters.keeps hm) (.refl _))) _ _

omit hm in
theorem KeepsCtx.logHomeBad (s : State) (die pa n : Nat) : KeepsCtx g s (logHomeBad s die pa n) := .foldl _ (fun s _ => .logErr s ..) _ _

theorem KeepsCtx.cpRead {s t : State} {p oid o n : Nat} {r : Option Nat} (h : cpRead s p oid o n = (t, r)) : KeepsCtx g s t := by
  have hread (d pa : Nat) : KeepsCtx g s (Machine.l2Host (Machine.recallWords (Machine.combineFor s d pa n) d (span (pa / 32) ((pa + n + 31) / 32 - pa / 32))) d pa n false) :=
    (((OnlyMeters.combineFor s d pa n).keeps hm).trans ((MovesWords.recallWords ..).meters.keeps hm)).trans (.l2Host hm ..)
  unfold Machine.cpRead at h
  split at h
  · dsimp only at h
    split at h
    · cases h
      exact (hread _ _).trans (.logHomeBad ..)
    · cases h
      exact hread _ _
  · cases h
    exact .refl s

theorem KeepsCtx.cpWrite (s : State) (p oid o : Nat) (b : List Byte) : KeepsCtx g s (cpWrite s p oid o b) := by
  unfold Machine.cpWrite
  split
  · dsimp only
    next d pa _ =>
      have hhome : KeepsCtx g s (Machine.homeWrites (Machine.combineFor s d pa b.length) d (span (pa / 32) ((pa + b.length + 31) / 32 - pa / 32)) ((Machine.combineFor s d pa b.length).part p).ptime).1 :=
        ((OnlyMeters.combineFor s d pa b.length).keeps hm).trans ((MovesWords.homeWrites ..).meters.keeps hm)
      exact hhome.trans (.ite (.logHomeBad ..) ((KeepsCtx.l2Host hm ..).trans (.writeDev ..)))
  · exact .refl s

omit hm in
theorem KeepsCtx.consume (s : State) (p e : Nat) : KeepsCtx g s (consume s p e) := by
  unfold Machine.consume
  refine .ite ?_ (.ite (.refl s) (.congr rfl rfl))
  have htake : KeepsCtx g s (takeIn s p (e % 2 ^ 2048) (fun i => BitVec.ofNat 128 (bits e (2048 + 128 * i) 128)) 0).1 := .congr rfl rfl
  refine .ite ?_ htake
  split
  · exact htake.trans (.congr rfl rfl)
  · exact htake

theorem KeepsCtx.consumeFrom (p q oid ln n head : Nat) (s : State) : KeepsCtx g s (consumeFrom s p q oid ln head n) := by
  induction n generalizing s head with
  | zero => exact .refl s
  | succ n ih =>
    unfold Machine.consumeFrom
    refine .ite (.refl s) ?_
    split
    · next h => exact .cpRead hm h
    · next h => exact (((KeepsCtx.cpRead hm h).trans (.consume ..)).trans (.cpWrite hm ..)).trans (ih ..)

theorem KeepsCtx.readQueue (s : State) (p q : Nat) : KeepsCtx g s (readQueue s p q) := by
  unfold Machine.readQueue
  refine .ite (.refl s) ?_
  dsimp only
  split
  · next h => exact .cpRead hm h
  next h =>
    split
    · next k => exact (KeepsCtx.cpRead hm h).trans (.cpRead hm k)
    next k =>
      refine ((KeepsCtx.cpRead hm h).trans (.cpRead hm k)).trans (.ite ?_ (.consumeFrom hm ..))
      refine KeepsCtx.trans ?_ (.postE ..)
      exact .congr rfl rfl

theorem KeepsCtx.freeTask (s : State) (i : Nat) : KeepsCtx g s (freeTask s i) := by
  unfold Machine.freeTask
  split
  · exact (KeepsCtx.congr rfl rfl : KeepsCtx g s (s.setTask i none)).trans (.foldl _ (fun s q => .readQueue hm s _ q) _ _)
  · exact .refl s

end

/-! ### The end of a task (R280, R281) -/

theorem foldl_islands_eq {β : Type} (f : State → β → State) (hf : ∀ s b, ∃ x, f s b = { s with islands := x }) (l : List β) (s : State) :
    ∃ x, l.foldl f s = { s with islands := x } := by
  induction l generalizing s with
  | nil => exact ⟨_, rfl⟩
  | cons b r ih =>
    obtain ⟨x, hx⟩ := hf s b
    obtain ⟨y, hy⟩ := ih (f s b)
    exact ⟨y, by rw [List.foldl_cons, hy, hx]⟩

/-- A reservation that ends leaves all but islands and the reservation. -/
theorem dropResv_plain (s : State) (p i : Nat) :
    (dropResv s p i).cores = s.cores ∧ (dropResv s p i).cur = s.cur ∧ (dropResv s p i).tasks = s.tasks ∧ ∀ q, ((dropResv s p i).part q).qs = (s.part q).qs := by
  have htouch : ∃ x, touchResv s p = { s with islands := x } := by
    unfold touchResv
    split
    · split
      · exact foldl_islands_eq _ (fun s _ => ⟨_, rfl⟩) _ s
      · exact ⟨_, rfl⟩
    · exact ⟨_, rfl⟩
  unfold dropResv
  split
  · split
    · obtain ⟨x, hx⟩ := htouch
      rw [hx]
      refine ⟨rfl, rfl, rfl, fun q => ?_⟩
      by_cases hq : q = p
      · subst hq
        rw [part_updPart]
        rfl
      · rw [part_updPart_other _ _ hq]
        rfl
    · exact ⟨rfl, rfl, rfl, fun _ => rfl⟩
  · exact ⟨rfl, rfl, rfl, fun _ => rfl⟩

/-- A successor that becomes eligible is a waiting task. -/
theorem releaseSucc_plain (s : State) (p h : Nat) :
    (releaseSucc s p h).cores = s.cores ∧ (releaseSucc s p h).cur = s.cur ∧ (releaseSucc s p h).parts = s.parts ∧
    ∀ i k, s.task i = some k → k.st ≠ .waiting → (releaseSucc s p h).task i = some k := by
  unfold releaseSucc
  split
  · next j t hj =>
    have hother (i : Nat) (k : Task) (hk : s.task i = some k) (hst : k.st ≠ .waiting) (hw : t.st = .waiting) : i ≠ j := by
      rintro rfl
      have htk : t = k := Option.some.inj ((task_of_byHandle hj).symm.trans hk)
      exact hst (htk ▸ hw)
    split
    · exact ⟨rfl, rfl, rfl, fun _ _ hk _ => hk⟩
    next hw =>
      have hw : t.st = .waiting := not_not.mp (not_or.mp hw).1
      split
      · exact ⟨rfl, rfl, rfl, fun i k hk hst => (task_setTask_other s (some { t with dep := 0, st := .eligible, eligAt := s.now }) (hother i k hk hst hw)).trans hk⟩
      · exact ⟨rfl, rfl, rfl, fun i k hk hst => (task_setTask_other s _ (hother i k hk hst hw)).trans hk⟩
  · exact ⟨rfl, rfl, rfl, fun _ _ hk _ => hk⟩

/-- A task that has ended, with its successors told. -/
def endedTask (s : State) (i cause : Nat) (k : Task) : State :=
  let s := (dropResv s k.part i).setTask i (some { k with st := if cause = 0 then .complete else .failed, cause := cause })
  if cause = 0 then k.succ.foldl (fun s h => releaseSucc s k.part h) s else s

theorem endTask_eq {s : State} {i cause : Nat} {entry : Bool} {k : Task} (hk : s.task i = some k) :
    endTask s i cause entry = if entry && !k.nocq then
        queueEntry (endedTask s i cause k) k.part k.cq (cqEntry (s.handle i) cause (cause != 0) false k.tag k.joules k.uncl) (some i)
      else freeTask (endedTask s i cause k) i := by
  simp only [endTask, hk]
  rfl

theorem endedTask_plain (s : State) (i cause : Nat) (k : Task) :
    (endedTask s i cause k).cores = s.cores ∧ (endedTask s i cause k).cur = s.cur ∧ (∀ q, ((endedTask s i cause k).part q).qs = (s.part q).qs) ∧
    (endedTask s i cause k).task i = some { k with st := if cause = 0 then .complete else .failed, cause := cause } := by
  have hset : ∀ v : TaskSt, ((dropResv s k.part i).setTask i (some { k with st := v, cause := cause })).cores = s.cores ∧
      ((dropResv s k.part i).setTask i (some { k with st := v, cause := cause })).cur = s.cur ∧
      (∀ q, (((dropResv s k.part i).setTask i (some { k with st := v, cause := cause })).part q).qs = (s.part q).qs) ∧
      ((dropResv s k.part i).setTask i (some { k with st := v, cause := cause })).task i = some { k with st := v, cause := cause } := by
    intro v
    obtain ⟨hcores, hcur, -, hqs⟩ := dropResv_plain s k.part i
    exact ⟨hcores, hcur, hqs, task_setTask ..⟩
  unfold endedTask
  dsimp only
  by_cases hc : cause = 0
  · simp only [if_pos hc]
    have h₀ := hset .complete
    generalize (dropResv s k.part i).setTask i (some { k with st := .complete, cause := cause }) = u₀ at h₀
    refine List.foldlRecOn (motive := fun u : State => u.cores = s.cores ∧ u.cur = s.cur ∧ (∀ q, (u.part q).qs = (s.part q).qs) ∧
      u.task i = some { k with st := .complete, cause := cause }) k.succ (fun s h => releaseSucc s k.part h) h₀ fun u hu h _ => ?_
    obtain ⟨h₁, h₂, h₃, h₄⟩ := hu
    obtain ⟨r₁, r₂, r₃, r₄⟩ := releaseSucc_plain u k.part h
    exact ⟨r₁.trans h₁, r₂.trans h₂, fun q => by rw [State.part, r₃]; exact h₃ q, r₄ i _ h₄ (by simp)⟩
  · simp only [if_neg hc]
    exact hset .failed

end Sys2Proof.Machine

/-! ## A team that is done (O59) -/

namespace Sys2Proof.Machine
set_option Elab.async false

section
variable {s : State} {i cause : Nat} {k : Task} (hk : s.task i = some k)
include hk

/-- A task that leaves a completion entry stays in the table until that is written. -/
theorem endTask_entry (hq : k.nocq = false) :
    (endTask s i cause true).task i = some { k with st := if cause = 0 then .complete else .failed, cause := cause } ∧
    (((endTask s i cause true).part k.part).queueOf k.cq).waiting = ((s.part k.part).queueOf k.cq).waiting ++
      [(cqEntry (s.handle i) cause (cause != 0) false k.tag k.joules k.uncl, some i)] := by
  obtain ⟨-, -, hqs, htask⟩ := endedTask_plain s i cause k
  rw [endTask_eq hk, if_pos (by rw [hq]; rfl)]
  refine ⟨(task_queueEntry ..).trans htask, ?_⟩
  unfold queueEntry
  rw [queueOf_updQueue, Part.queueOf, hqs]
  rfl

/-- A task without one leaves the table at once; with every submission ring off nothing is taken into its place. -/
theorem endTask_frees (entry : Bool) (hq : k.nocq = true) (hoff : ∀ p q, ringOn ((s.part p).queueOf q).sqcfg = false) :
    (endTask s i cause entry).task i = none := by
  obtain ⟨-, -, hqs, htask⟩ := endedTask_plain s i cause k
  rw [endTask_eq hk, if_neg (by rw [hq]; simp)]
  unfold freeTask
  rw [htask]
  dsimp only
  have hoff' (p q : Nat) : ringOn ((((endedTask s i cause k).setTask i none).part p).queueOf q).sqcfg = false := by
    have h : (((endedTask s i cause k).setTask i none).part p).qs = (s.part p).qs := hqs p
    rw [Part.queueOf, h]
    exact hoff p q
  rw [readQueues_off _ (hoff' k.part), task_setTask]

theorem endTask_st (entry : Bool) : KeepsCtx Ctx.st s (endTask s i cause entry) := by
  obtain ⟨hcores, hcur, -, -⟩ := endedTask_plain s i cause k
  rw [endTask_eq hk]
  have hended : KeepsCtx Ctx.st s (endedTask s i cause k) := .congr hcores hcur
  exact .ite (hended.trans (.congr rfl rfl)) (hended.trans (.freeTask (fun _ => rfl) ..))

end

theorem team_endTask (s : State) (i cause : Nat) (entry : Bool) (n : Nat) : (endTask s i cause entry).team n = s.team n := by
  have h : (endTask s i cause entry).served.teams = s.served.teams := by rw [(Served.endTask s i cause entry).rest]
  exact congrArg (fun x : Tab (Option Team) => x.get n none) h

/-! ### The slots of a team that is done -/

/-- The machine without its cores, its islands and what is on its way between cores. -/
def State.unhoused (s : State) : State := { s with cores := [], islands := [], fresh := 0, rels := [], answers := [], arrs := [], flights := [] }

theorem unhoused_updCore (s : State) (c : Nat) (f : Core → Core) : (s.updCore c f).unhoused = s.unhoused := rfl
theorem unhoused_setCtx (s : State) (c i : Nat) (d : Ctx) : (s.setCtx c i d).unhoused = s.unhoused := rfl
theorem unhoused_islands (s : State) (x : Tab Island) : ({ s with islands := x } : State).unhoused = s.unhoused := rfl
theorem unhoused_draw (s : State) : s.draw.unhoused = s.unhoused := rfl
theorem unhoused_lists (s : State) (r a : List Release) (l : List Arrival) (f : List Flight) :
    ({ s with rels := r, answers := a, arrs := l, flights := f } : State).unhoused = s.unhoused := rfl

/-- What a slot that goes takes from its core. -/
def Core.letSlot (slot : Nat) (k : Core) : Core :=
  { k with ops := (k.ops.filter (fun o => o.slot != slot)).map (fun o => { o with before := o.before.map (·.leave slot), cap := { o.cap with recs := o.cap.recs.map (·.leave slot) } }), pl0 := k.pl0.leave slot, pl1 := k.pl1.leave slot }

theorem freeSlot_eq (s : State) (core slot : Nat) : ∃ x, freeSlot s core slot = { (s.updCore core (Core.letSlot slot)).setCtx core slot {} with islands := x } := ⟨_, rfl⟩

theorem freeSlot_frees (s : State) (core slot : Nat) :
    (freeSlot s core slot).unhoused = s.unhoused ∧ (freeSlot s core slot).ctx core slot = {} ∧
    ∀ c i, (c, i) ≠ (core, slot) → (freeSlot s core slot).ctx c i = s.ctx c i := by
  have hkeep : KeepsCtx id s (s.updCore core (Core.letSlot slot)) := .updCore s core (Core.letSlot slot) fun _ => rfl
  obtain ⟨x, hx⟩ := freeSlot_eq s core slot
  rw [hx]
  generalize s.updCore core (Core.letSlot slot) = u at hkeep hx
  have hu : u.unhoused = s.unhoused := by
    have hh : (freeSlot s core slot).unhoused = s.unhoused := by
      obtain ⟨y, hy⟩ := freeSlot_eq s core slot
      rw [hy, unhoused_islands, unhoused_setCtx, unhoused_updCore]
    rwa [hx, unhoused_islands, unhoused_setCtx] at hh
  refine ⟨by rw [unhoused_islands, unhoused_setCtx, hu], State.ctx_setCtx u core slot {}, fun c i hne => ?_⟩
  refine Eq.trans ?_ (hkeep.ctx c i)
  show (u.setCtx core slot {}).ctx c i = _
  by_cases hc : c = core
  · subst hc
    exact State.ctx_setCtx_slot _ _ _ _ _ fun hs => hne (by rw [hs])
  · exact State.ctx_setCtx_core _ _ _ _ _ _ hc

theorem freeSlots_free (l : List (Nat × Nat)) (s : State) :
    (l.foldl (fun s p => freeSlot s p.1 p.2) s).unhoused = s.unhoused ∧ ∀ p ∈ l, ((l.foldl (fun s p => freeSlot s p.1 p.2) s).ctx p.1 p.2).st = .free := by
  refine ⟨foldl_keeps State.unhoused (fun s (p : Nat × Nat) => freeSlot s p.1 p.2) (fun s p => (freeSlot_frees s p.1 p.2).1) l s, fun p hp => ?_⟩
  refine foldl_reaches (fun s : State => (s.ctx p.1 p.2).st = .free) hp (fun s => ?_) (fun s q _ h => ?_) s
  · rw [(freeSlot_frees s p.1 p.2).2.1]
  · by_cases hq : p = q
    · subst hq
      rw [(freeSlot_frees s p.1 p.2).2.1]
    · rw [(freeSlot_frees s q.1 q.2).2.2 p.1 p.2 hq]
      exact h

theorem unhoused_chargeCtx (s : State) (core slot : Nat) : (chargeCtx s core slot).unhoused = s.unhoused := by
  unfold chargeCtx
  rw [unhoused_draw, State.updCtx, unhoused_setCtx]

theorem unhoused_resetBars (s : State) (n : Nat) : (resetBars s n).unhoused = s.unhoused :=
  foldl_keeps State.unhoused (fun s c => s.updCore c _) (fun s c => unhoused_updCore s c _) _ s

theorem unhoused_charges (l : List (Nat × Nat)) (s : State) : (l.foldl (fun s p => chargeCtx s p.1 p.2) s).unhoused = s.unhoused :=
  foldl_keeps State.unhoused (fun s (p : Nat × Nat) => chargeCtx s p.1 p.2) (fun s p => unhoused_chargeCtx s p.1 p.2) l s

/-- What a team that ends leaves of the machine, before its task takes its sums. -/
def leftBy (s : State) (n : Nat) : State :=
  let u : State := (s.teamCtxs n).foldl (fun s p => chargeCtx s p.1 p.2) s
  let mine (r : Release) : Bool := ((u.core r.core).barrier r.n).team == some n
  let v : State := { u with rels := u.rels.filter (fun r => !mine r), answers := u.answers.filter (fun r => !mine r), arrs := u.arrs.filter (fun a => a.team != n), flights := u.flights.filter (fun f => f.team != n) }
  (s.teamCtxs n).foldl (fun s p => freeSlot s p.1 p.2) (resetBars v n)

/-- Its slots are free, and partitions, tasks and teams stand as they did. -/
theorem leftBy_frees (s : State) (n : Nat) : (leftBy s n).unhoused = s.unhoused ∧ ∀ p ∈ s.teamCtxs n, ((leftBy s n).ctx p.1 p.2).st = .free := by
  unfold leftBy
  have hcharged := unhoused_charges (s.teamCtxs n) s
  generalize (s.teamCtxs n).foldl (fun s p => chargeCtx s p.1 p.2) s = u at hcharged
  dsimp only
  generalize hv : ({ u with rels := u.rels.filter (fun r => !(((u.core r.core).barrier r.n).team == some n)), answers := u.answers.filter (fun r => !(((u.core r.core).barrier r.n).team == some n)), arrs := u.arrs.filter (fun a => a.team != n), flights := u.flights.filter (fun f => f.team != n) } : State) = v
  have hlists : v.unhoused = u.unhoused := by rw [← hv, unhoused_lists]
  obtain ⟨hfree, hst⟩ := freeSlots_free (s.teamCtxs n) (resetBars v n)
  exact ⟨hfree.trans ((unhoused_resetBars v n).trans (hlists.trans hcharged)), hst⟩

/-- The task of the team takes its sums. -/
def takesSums (u : State) (n : Nat) (m : Team) (k : Task) (time joules : Nat) : State :=
  { ((raisePtime u k.part time).setTeam n none).updTask m.task (fun t => { t with joules := t.joules + joules, uncl := t.uncl + (match m.rangeE with
        | some (f, e) => e - f
        | none => 0) }) with passDue := true }

theorem finishTeam_eq {s : State} {n : Nat} {m : Team} {k : Task} (hk : s.task m.task = some k) :
    ∃ time joules, finishTeam s n m =
      if ((takesSums (leftBy s n) n m k time joules).taskTeams m.task).isEmpty then
        endTask (takesSums (leftBy s n) n m k time joules) m.task k.cause (fld ((takesSums (leftBy s n) n m k time joules).part k.part).pset 0 1 == 1)
      else takesSums (leftBy s n) n m k time joules := by
  simp only [finishTeam, hk]
  exact ⟨_, _, rfl⟩

end Sys2Proof.Machine

/-! ## The end of the last team of a task (O59) -/

namespace Sys2Proof.Machine
set_option Elab.async false

theorem teamComplete_does {s : State} {n : Nat} {m : Team} (h : s.teams = [(n, some m)]) (hd : teamDone s n m = true) :
    exec .teamComplete s = .next (finishTeam s.draw n m) := by
  have hf : someTeam s (teamDone s) = some n := someTeam_one h hd
  have ht := team_one h
  show execTeamComplete s = _
  simp only [execTeamComplete, hf, ht]

theorem unhoused_fields {u s : State} (h : u.unhoused = s.unhoused) : u.tasks = s.tasks ∧ u.teams = s.teams ∧ u.parts = s.parts := by
  have ht : u.unhoused.tasks = s.unhoused.tasks := by rw [h]
  have hm : u.unhoused.teams = s.unhoused.teams := by rw [h]
  have hp : u.unhoused.parts = s.unhoused.parts := by rw [h]
  exact ⟨ht, hm, hp⟩

/-- A task with the sums of one of its teams. -/
def Task.sums (k : Task) (m : Team) (joules : Nat) : Task :=
  { k with joules := k.joules + joules, uncl := k.uncl + (match m.rangeE with
    | some (f, e) => e - f
    | none => 0) }

section
variable {s u : State} {n : Nat} {m : Team} {k : Task} (hu : u.unhoused = s.unhoused) (hteams : s.teams = [(n, some m)]) (hk : s.task m.task = some k)
  (time joules : Nat)
include hu

theorem takesSums_task (hk : s.task m.task = some k) : (takesSums u n m k time joules).task m.task = some (k.sums m joules) := by
  have htask : u.task m.task = some k := by
    rw [State.task, (unhoused_fields hu).1]
    exact hk
  refine (task_updTask ((raisePtime u k.part time).setTeam n none) m.task _).trans ?_
  show (u.task m.task).map _ = _
  rw [htask]
  rfl

theorem takesSums_teams (hteams : s.teams = [(n, some m)]) : (takesSums u n m k time joules).teams = [] := by
  show u.teams.set n none none = []
  rw [(unhoused_fields hu).2.1, hteams]
  simp [Tab.set, Tab.erase]

theorem takesSums_part (p : Nat) :
    ((takesSums u n m k time joules).part p).qs = (s.part p).qs ∧ ((takesSums u n m k time joules).part p).pset = (s.part p).pset := by
  have hpart : u.part p = s.part p := by
    rw [State.part, (unhoused_fields hu).2.2]
    rfl
  show ((u.updPart k.part (fun x => { x with ptime := max x.ptime time })).part p).qs = _ ∧
    ((u.updPart k.part (fun x => { x with ptime := max x.ptime time })).part p).pset = _
  by_cases hp : p = k.part
  · subst hp
    rw [part_updPart, hpart]
    exact ⟨rfl, rfl⟩
  · rw [part_updPart_other _ _ hp, hpart]
    exact ⟨rfl, rfl⟩

end

theorem takesSums_ctx (u : State) (n : Nat) (m : Team) (k : Task) (time joules c i : Nat) : (takesSums u n m k time joules).ctx c i = u.ctx c i := by
  have h : (takesSums u n m k time joules).cores = u.cores := by
    dsimp only [takesSums, State.updTask, State.setTask, State.setTeam, raisePtime, State.updPart]
  rw [State.ctx, State.core, h]
  rfl

/-- What the end of a task leaves where its slots are free and no team of it lives. -/
theorem endTask_ends {v : State} {n i : Nat} {k : Task} (htask : v.task i = some k) (hteams : v.teams = []) :
    (endTask v i k.cause true).team n = none ∧ (∀ c j, ((endTask v i k.cause true).ctx c j).st = (v.ctx c j).st) ∧
    (k.nocq = false → (endTask v i k.cause true).task i = some { k with st := if k.cause = 0 then .complete else .failed, cause := k.cause } ∧
      (((endTask v i k.cause true).part k.part).queueOf k.cq).waiting = ((v.part k.part).queueOf k.cq).waiting ++
        [(cqEntry (v.handle i) k.cause (k.cause != 0) false k.tag k.joules k.uncl, some i)]) ∧
    (k.nocq = true → (∀ p q, ringOn ((v.part p).queueOf q).sqcfg = false) → (endTask v i k.cause true).task i = none) := by
  refine ⟨?_, (endTask_st htask true).ctx, endTask_entry htask, endTask_frees htask true⟩
  rw [team_endTask, State.team, hteams]
  rfl

/-- The state in which the one team has gone and its task has its sums. -/
theorem finishTeam_ends {s : State} {n : Nat} {m : Team} {k : Task} (hteams : s.teams = [(n, some m)]) (hk : s.task m.task = some k)
    (hset : (s.part k.part).pset.getLsbD 0 = true) :
    ∃ v joules, finishTeam s n m = endTask v m.task k.cause true ∧ v.task m.task = some (k.sums m joules) ∧ v.teams = [] ∧
      (∀ p, (v.part p).qs = (s.part p).qs) ∧ ∀ p ∈ s.teamCtxs n, (v.ctx p.1 p.2).st = .free := by
  obtain ⟨hhoused, hfree⟩ := leftBy_frees s n
  obtain ⟨time, joules, hfin⟩ := finishTeam_eq (s := s) (n := n) (m := m) (k := k) hk
  have htask := takesSums_task hhoused time joules hk (m := m) (n := n)
  have hvteams := takesSums_teams hhoused (k := k) time joules hteams
  have hparts := takesSums_part hhoused (n := n) (m := m) (k := k) time joules
  have hnone : ((takesSums (leftBy s n) n m k time joules).taskTeams m.task).isEmpty = true := by
    rw [State.taskTeams, hvteams]
    rfl
  have hon : (fld ((takesSums (leftBy s n) n m k time joules).part k.part).pset 0 1 == 1) = true := by
    rw [(hparts k.part).2, fld_bit, hset]
    rfl
  rw [if_pos hnone, hon] at hfin
  exact ⟨_, joules, hfin, htask, hvteams, fun p => (hparts p).1, fun p hp => by rw [takesSums_ctx]; exact hfree p hp⟩

/-- The end of the one team, which is the last of its task. -/
theorem teamComplete_ends {s : State} {n : Nat} {m : Team} {k : Task} (hteams : s.teams = [(n, some m)]) (hd : teamDone s n m = true)
    (hk : s.task m.task = some k) (hset : (s.part k.part).pset.getLsbD 0 = true) :
    ∃ t joules, exec .teamComplete s = .next t ∧ t.team n = none ∧ (∀ p ∈ s.teamCtxs n, (t.ctx p.1 p.2).st = .free) ∧
      (k.nocq = false → t.task m.task = some { k.sums m joules with st := if k.cause = 0 then .complete else .failed, cause := k.cause } ∧
        ((t.part k.part).queueOf k.cq).waiting = ((s.part k.part).queueOf k.cq).waiting ++
          [(cqEntry (s.handle m.task) k.cause (k.cause != 0) false k.tag (k.sums m joules).joules (k.sums m joules).uncl, some m.task)]) ∧
      (k.nocq = true → (∀ p q, ringOn ((s.part p).queueOf q).sqcfg = false) → t.task m.task = none) := by
  obtain ⟨v, joules, hfin, htask, hvteams, hqs, hfree⟩ := finishTeam_ends (s := s.draw) (n := n) hteams hk hset
  have hhandle : v.handle m.task = s.handle m.task := by
    rw [State.handle, htask, State.handle, hk]
    rfl
  have hqueue (p q : Nat) : (v.part p).queueOf q = (s.part p).queueOf q := congrArg (fun x : Tab Queue => x.get q {}) (hqs p)
  obtain ⟨hteam, hst, hentry, hnocq⟩ := endTask_ends (n := n) htask hvteams
  refine ⟨_, joules, (teamComplete_does hteams hd).trans (congrArg _ hfin), hteam, fun p hp => (hst p.1 p.2).trans (hfree p hp), fun hq => ?_, fun hq hoff => ?_⟩
  · obtain ⟨h₁, h₂⟩ := hentry hq
    refine ⟨h₁, h₂.trans ?_⟩
    rw [hhandle]
    exact congrArg (fun x : Queue => x.waiting ++ _) (hqueue k.part k.cq)
  · exact hnocq hq fun p q => by rw [hqueue]; exact hoff p q

end Sys2Proof.Machine

/-! ## A pass that places its one candidate (O59) -/

namespace Sys2Proof.Machine
set_option Elab.async false

namespace Around

theorem abortStrips (s : State) (i : Nat) : Around s (abortStrips s i) := by
  unfold Machine.abortStrips
  dsimp only
  refine .ite (.refl s) ?_
  unfold startStep
  dsimp only
  exact .ite (.updIsland ..) ((Around.updIsland ..).trans (.updIsland ..))

theorem setSplit (s : State) (core l1 : Nat) : Around s (setSplit s core l1) := .ite (.refl s) ((Around.emptyL1 s core).trans (.updCore ..))

theorem takePages (s : State) (core base n part : Nat) : Around s (takePages s core base n part) := by
  unfold Machine.takePages
  exact (Around.draw s).trans (.updCore ..)

end Around

/-- What tasks and teams are, as accesses leave them. -/
theorem Around.board {s t : State} (h : Around s t) :
    t.nextTeam = s.nextTeam ∧ t.teams = s.teams ∧ t.tasks = s.tasks ∧ t.passDue = s.passDue ∧ ∀ p, (t.part p).resv = (s.part p).resv := by
  have h₁ : t.rest.nextTeam = s.rest.nextTeam := by rw [h.rest]
  have h₂ : t.rest.teams = s.rest.teams := by rw [h.rest]
  have h₃ : t.rest.tasks = s.rest.tasks := by rw [h.rest]
  have h₄ : t.rest.passDue = s.rest.passDue := by rw [h.rest]
  have h₅ (p : Nat) : (t.part p).unposted.resv = (s.part p).unposted.resv := by rw [h.part]
  exact ⟨h₁, h₂, h₃, h₄, h₅⟩

/-- The lowest free slot of a core. -/
def freeSlotOf (s : State) (core : Nat) : Nat := ([0, 1, 2, 3].find? (fun i => ((s.core core).slot i).st == .free)).getD 0

/-- Loading a context leaves the machine around it, and puts the launch state into the lowest free slot. -/
theorem loadCtx_loads (s : State) (w : Want) (team x0 y0 base prio core tidx : Nat) :
    Around s (loadCtx s w team x0 y0 base prio core tidx) ∧
    ∃ u, Around s u ∧ (loadCtx s w team x0 y0 base prio core tidx).ctx core (freeSlotOf s core) = newCtx u w team x0 y0 base prio tidx core := by
  have hsplit : Around s (if (s.core core).resident.isEmpty then setSplit s core w.v.l1 else s) := .ite (.setSplit ..) (.refl s)
  unfold loadCtx freeSlotOf
  dsimp only
  generalize (if (s.core core).resident.isEmpty then setSplit s core w.v.l1 else s) = u₁ at hsplit
  have hpages := hsplit.trans (.takePages u₁ core base w.v.spad w.task.part)
  generalize takePages u₁ core base w.v.spad w.task.part = u₂ at hpages
  generalize ([0, 1, 2, 3].find? (fun i => ((s.core core).slot i).st == .free)).getD 0 = slot
  have hbad := hpages.trans (.updCore u₂ core fun k => { k with accBad := k.accBad.filter (fun x => x.1 != slot) })
  generalize (u₂.updCore core fun k => { k with accBad := k.accBad.filter (fun x => x.1 != slot) }) = u₃ at hbad
  refine ⟨(hbad.trans (.setCtx ..)).trans (.draw _), u₃, hbad, ?_⟩
  exact State.ctx_setCtx u₃ core slot _

/-- The launch state of a new context (R40). -/
theorem newCtx_launches {s : State} {w : Want} {team x0 y0 base prio tidx core : Nat} (hb : w.back = none) :
    let d := newCtx s w team x0 y0 base prio tidx core
    d.st = .loading ∧ d.team = team ∧ d.tidx = tidx ∧ d.x0 = x0 ∧ d.y0 = y0 ∧ d.part = w.task.part ∧ d.extbase = base ∧ d.extent = w.v.spad ∧ d.nacc = w.v.acc ∧
    d.oid = w.oid ∧ d.sup = false ∧ d.a.pc = w.v.entry ∧ d.a.k = w.task.caps ∧ d.a.fa = 2 ∧ d.a.rm = 0 ∧
    d.a.s = w.task.args.zipIdx.foldl (fun (r : Tab Word) x => r.set (x.2 + 1) x.1 0) [] := by
  unfold newCtx
  rw [hb]
  exact ⟨rfl, rfl, rfl, rfl, rfl, rfl, rfl, rfl, rfl, rfl, rfl, rfl, rfl, rfl, rfl, rfl⟩

/-- Arguments in ascending registers. -/
theorem get_args (l : List Word) (j : Nat) (t : Tab Word) {i : Nat} (hi : i < l.length) :
    ((l.zipIdx j).foldl (fun (r : Tab Word) x => r.set (x.2 + 1) x.1 0) t).get (j + i + 1) 0 = l.getD i 0 := by
  have hkeep (l : List Word) (j n : Nat) (t : Tab Word) (h : n ≤ j) :
      ((l.zipIdx j).foldl (fun (r : Tab Word) x => r.set (x.2 + 1) x.1 0) t).get n 0 = t.get n 0 := by
    induction l generalizing j t with
    | nil => rfl
    | cons a l ih =>
      rw [List.zipIdx_cons, List.foldl_cons, ih _ _ (by omega)]
      exact Tab.get_set_other _ _ _ _ _ _ (by omega)
  induction l generalizing j t i with
  | nil => cases hi
  | cons a l ih =>
    rw [List.zipIdx_cons, List.foldl_cons]
    cases i with
    | zero =>
      rw [add_zero, hkeep l (j + 1) (j + 1) _ le_rfl]
      exact Tab.get_set_same _ _ _ _
    | succ i =>
      have h := ih (j + 1) (t.set (j + 1) a 0) (Nat.lt_of_succ_lt_succ hi)
      rw [show j + (i + 1) + 1 = j + 1 + i + 1 by omega]
      exact h

/-! ### Cracks and reservations of a pass without them -/

theorem crack_none {s : State} {p : Nat} {skip : List Nat} (n : Nat) (h : crackTarget s p skip = none) : crack p n skip s = s := by
  cases n with
  | zero => rfl
  | succ n => simp only [crack, h]

theorem crackTarget_none {s : State} {n : Nat} {m : Team} (p : Nat) (skip : List Nat) (h : s.teams = [(n, some m)]) (hr : m.rangeE = none) :
    crackTarget s p skip = none := by
  simp only [crackTarget, h, List.filterMap_cons, hr, List.filterMap_nil, List.foldl_nil, Option.map_none]

theorem settleResv_none {s : State} {c : Cand} (p : Nat) (hr : (s.part p).resv = none) (hc : s.now < c.time + 2000000) : settleResv s [c] p = s := by
  have hfind : [c].find? (fun c => c.team.isNone && c.part == p && decide (c.time + 2000000 ≤ s.now)) = none := by
    rw [List.find?_singleton, decide_eq_false (Nat.not_le.mpr hc), Bool.and_false]
    rfl
  simp only [settleResv, hr, hfind]

theorem dropResv_none {s : State} {p : Nat} (i : Nat) (h : (s.part p).resv = none) : dropResv s p i = s := by
  simp only [dropResv, h]

end Sys2Proof.Machine

/-! ## The pass itself, and the events of the dispatcher (O59) -/

namespace Sys2Proof.Machine
set_option Elab.async false

theorem rectCores_one (x0 y0 : Nat) : rectCores x0 y0 0 0 = [16 * y0 + x0] := by simp [rectCores]

theorem islandsOf_one (s : State) (core : Nat) : islandsOf s [core] = [s.islandOf core] := by simp [islandsOf, List.eraseDups_cons]

/-- The task of an admitted team runs. -/
def Task.runs (t : Task) : Task := { t with st := .running, holdSince := none, holdPosted := false }

theorem teams_setTeam_none {s : State} (n : Nat) (m : Team) (h : s.teams = []) : (s.setTeam n (some m)).teams = [(n, some m)] := by
  show s.teams.set n (some m) none = _
  rw [h]
  rfl

theorem restoreBars_none {s : State} {m : Team} {cores : List Nat} (h : m.bars = []) : restoreBars s m cores = s := by
  unfold restoreBars
  rw [h]
  rfl

/-- A new team takes its place beside a loaded context. -/
def seat (s : State) (n next : Nat) (m : Team) (i : Nat) : State := (({ s with nextTeam := next } : State).setTeam n (some m)).updTask i Task.runs

theorem seat_seats {s : State} (n next : Nat) (m : Team) (i : Nat) (h : s.teams = []) :
    (seat s n next m i).passDue = s.passDue ∧ (seat s n next m i).task i = (s.task i).map Task.runs ∧ (seat s n next m i).teams = [(n, some m)] ∧
    ∀ c j, (seat s n next m i).ctx c j = s.ctx c j := by
  refine ⟨rfl, task_updTask .., teams_setTeam_none n m h, fun c j => ?_⟩
  exact (KeepsCtx.congr (g := id) rfl rfl : KeepsCtx id s (seat s n next m i)).ctx c j

/-- A team of one core is let in: its context is loaded and its task runs. -/
theorem admitTeam_admits {s : State} {w : Want} {x0 y0 base prio : Nat} (vn : Nat) (hb : w.back = none) (ha : w.task.a = 0) (hb' : w.task.b = 0)
    (hteams : s.teams = []) (hresv : (s.part w.task.part).resv = none) :
    let t := admitTeam s w vn none x0 y0 base prio none
    t.passDue = s.passDue ∧ t.task w.id = (s.task w.id).map Task.runs ∧ (∃ m : Team, m.st = .loading ∧ m.rangeE = none ∧ t.teams = [(s.nextTeam, some m)]) ∧
    ∃ u slot, t.ctx (16 * y0 + x0) slot = newCtx u w s.nextTeam x0 y0 base prio 0 (16 * y0 + x0) := by
  have hcommit : Around s ((islandsOf s (rectCores x0 y0 0 0)).foldl (fun u i => u.updIsland i (fun x => { x with commit := x.commit + reqOn u w.task.part w.v.energy (rectCores x0 y0 0 0) i })) s) :=
    .foldl _ (fun u i => .updIsland u i _) _ s
  unfold admitTeam
  simp only [hb, ha, hb', Option.getD_none, Option.isNone_none, if_true]
  generalize (islandsOf s (rectCores x0 y0 0 0)).foldl (fun u i => u.updIsland i (fun x => { x with commit := x.commit + reqOn u w.task.part w.v.energy (rectCores x0 y0 0 0) i })) s = u at hcommit
  obtain ⟨hnext, -, -, -, -⟩ := hcommit.board
  rw [rectCores_one]
  obtain ⟨hload, v, hv, hctx⟩ := loadCtx_loads u w u.nextTeam x0 y0 base prio (16 * y0 + x0) 0
  simp only [List.zipIdx_cons, List.zipIdx_nil, List.foldl_cons, List.foldl_nil]
  rw [restoreBars_none rfl]
  generalize freeSlotOf u (16 * y0 + x0) = slot at hctx
  generalize loadCtx u w u.nextTeam x0 y0 base prio (16 * y0 + x0) 0 = l at hload hctx
  obtain ⟨-, hlteams, hltasks, hldue, hlresv⟩ := (hcommit.trans hload).board
  generalize hm : ({ task := w.id, st := .loading, x0 := x0, y0 := y0, variant := vn, oid := w.oid, prio := prio, rangeE := none, launched := u.now, outAt := 0, kept := [], bars := [], ringTail := 0, failed := none, extbase := base } : Team) = m
  have hdrop : dropResv (({ l with nextTeam := l.nextTeam + 1 } : State).setTeam u.nextTeam (some m)) w.task.part w.id =
      ({ l with nextTeam := l.nextTeam + 1 } : State).setTeam u.nextTeam (some m) := dropResv_none _ ((hlresv _).trans hresv)
  rw [hdrop]
  obtain ⟨h₁, h₂, h₃, h₄⟩ := seat_seats u.nextTeam (l.nextTeam + 1) m w.id (hlteams.trans hteams)
  have htask : l.task w.id = s.task w.id := by rw [State.task, hltasks]; rfl
  rw [← hnext]
  refine ⟨h₁.trans hldue, h₂.trans (congrArg _ htask), ⟨m, ?_, ?_, h₃⟩, v, slot, (h₄ ..).trans hctx⟩
  · rw [← hm]
  · rw [← hm]

/-- Where a rectangle of one core qualifies, with energy and awake, its team is let in. -/
theorem tryVariant_admits {s : State} {w : Want} {vn prio x0 y0 base : Nat} (ha : w.task.a = 0) (hb : w.task.b = 0)
    (hrect : firstRect s w true (fun o => qualifies s w o.1 o.2) = some (x0, y0)) (henergy : energyShort s w [16 * y0 + x0] = [])
    (hbase : baseOn s [16 * y0 + x0] w.v = some base) (hawake : (s.island (s.islandOf (16 * y0 + x0))).retention = false) :
    tryVariant s w vn none prio none = .yes (admitTeam ((islandsOf s [16 * y0 + x0]).foldl abortStrips s) w vn none x0 y0 base prio none) := by
  have hasleep : (islandsOf s [16 * y0 + x0]).filter (fun i => (s.island i).retention) = [] := by
    rw [islandsOf_one, List.filter_cons_of_neg (by rw [hawake]; exact Bool.false_ne_true), List.filter_nil]
  simp only [tryVariant, hrect, ha, hb, rectCores_one, henergy, hasleep, hbase, ne_eq, not_true_eq_false, if_false]

theorem passOrder_one (c : Cand) : passOrder [c] = [c] := rfl

section
variable {s : State} {k : Task} {n oid x0 y0 base : Nat} {v : Variant} {c : Cand}

/-- A pass whose one candidate is a task of one core and one variant. -/
theorem dispatcherPass_places (hon : s.power = .on) (hteams : s.teams = []) (hcand : candidates (passStart s) = [c]) (hct : c.team = none) (hcn : c.task = n)
    (hfresh : s.now < c.time + 2000000) (hresv : ∀ p, (s.part p).resv = none) (hk : s.task n = some k) (hrng : k.rng = false) (ha : k.a = 0) (hb : k.b = 0)
    (hpref : k.pref = none) (hvars : k.vars.length = 1) (hvar : taskVariant (passStart s) k 0 = some (v, oid))
    (hrect : firstRect (passStart s) { id := n, task := k, v := v, oid := oid, back := none } true
      (fun o => qualifies (passStart s) { id := n, task := k, v := v, oid := oid, back := none } o.1 o.2) = some (x0, y0))
    (henergy : energyShort (passStart s) { id := n, task := k, v := v, oid := oid, back := none } [16 * y0 + x0] = [])
    (hbase : baseOn (passStart s) [16 * y0 + x0] v = some base)
    (hawake : ((passStart s).island ((passStart s).islandOf (16 * y0 + x0))).retention = false) :
    ∃ b, Around (passStart s) b ∧
      exec .dispatcherPass s = .next (admitTeam b { id := n, task := k, v := v, oid := oid, back := none } 0 none x0 y0 base c.prio none) := by
  have hpass : exec .dispatcherPass s = .next (allParts.foldl (fun s p => crack p 4096 [] s)
      ((passOrder (candidates (passStart s))).foldl consider (allParts.foldl (fun s' p => settleResv s' (passOrder (candidates (passStart s))) p) (passStart s)))) :=
    congrArg Host.Outcome.next (if_pos hon)
  have hnow : (passStart s).now < c.time + 2000000 := hfresh
  have hparts (p : Nat) : ((passStart s).part p).resv = none := hresv p
  have htask : (passStart s).task n = some k := hk
  have hsteams : (passStart s).teams = [] := hteams
  rw [hcand, passOrder_one] at hpass
  generalize passStart s = u at *
  have hsettle : allParts.foldl (fun s' p => settleResv s' [c] p) u = u := List.foldl_fixed' (fun p => settleResv_none p (hparts p) hnow) allParts
  have hstrips : Around u ((islandsOf u [16 * y0 + x0]).foldl abortStrips u) := .foldl _ (fun s i => .abortStrips s i) _ u
  have hadmit := tryVariant_admits (vn := 0) (prio := c.prio) (w := { id := n, task := k, v := v, oid := oid, back := none }) ha hb hrect henergy hbase hawake
  generalize (islandsOf u [16 * y0 + x0]).foldl abortStrips u = b at hstrips hadmit
  obtain ⟨-, hbteams, -, -, hbresv⟩ := hstrips.board
  obtain ⟨-, -, ⟨m, -, hm, hteam⟩, -⟩ := admitTeam_admits (s := b) (w := { id := n, task := k, v := v, oid := oid, back := none }) (x0 := x0) (y0 := y0) (base := base)
    (prio := c.prio) 0 rfl ha hb (hbteams.trans hsteams) ((hbresv _).trans (hparts _))
  generalize hb' : admitTeam b { id := n, task := k, v := v, oid := oid, back := none } 0 none x0 y0 base c.prio none = t at hadmit hteam
  have hconsider : consider u c = t := by
    have horder : variantOrder k = [0] := by
      simp only [variantOrder, hpref, hvars]
      rfl
    simp only [consider, hcn, htask, hct, hrng, Bool.false_and, Bool.false_eq_true, if_false, horder, tryVariants, hvar, hadmit, Admit.state]
  have hcrack : allParts.foldl (fun s p => crack p 4096 [] s) t = t :=
    List.foldl_fixed' (f := fun s p => crack p 4096 [] s) (fun p => crack_none 4096 (crackTarget_none p [] hteam hm)) allParts
  refine ⟨b, hstrips, ?_⟩
  rw [hpass, hsettle, List.foldl_cons, List.foldl_nil, hconsider, hcrack, hb']

end

end Sys2Proof.Machine

/-! ## What the dispatcher does (O59) -/

namespace Sys2Proof.Machine
set_option Elab.async false

theorem queueOf_updQueue_other (s : State) (f : Queue → Queue) {p q i j : Nat} (h : i ≠ p ∨ j ≠ q) :
    ((s.updQueue p q f).part i).queueOf j = (s.part i).queueOf j := by
  unfold State.updQueue
  by_cases hi : i = p
  · subst hi
    rw [part_updPart]
    exact Tab.get_set_other _ _ _ _ _ _ (h.resolve_left fun hne => hne rfl)
  · rw [part_updPart_other _ _ hi]

/-- An entry written leaves the submission rings. -/
theorem wroteEntry_sqcfg (s : State) (p q : Nat) (e : BitVec 256) (r : List (BitVec 256 × Option Nat)) (i j : Nat) :
    (((wroteEntry s p q e r).part i).queueOf j).sqcfg = ((s.part i).queueOf j).sqcfg := by
  unfold wroteEntry
  by_cases h : i ≠ p ∨ j ≠ q
  · rw [queueOf_updQueue_other _ _ h]
    rfl
  · obtain ⟨rfl, rfl⟩ : i = p ∧ j = q := by simpa using h
    rw [queueOf_updQueue]
    rfl

/-- A task that is freed leaves the table, with every submission ring off. -/
theorem freeTask_frees {s : State} (n : Nat) (hoff : ∀ p q, ringOn ((s.part p).queueOf q).sqcfg = false) :
    (freeTask s n).task n = none ∧ (freeTask s n).parts = s.parts ∧ (freeTask s n).out = s.out := by
  unfold freeTask
  cases h : s.task n with
  | none => exact ⟨h, rfl, rfl⟩
  | some k =>
    dsimp only
    rw [readQueues_off (s := s.setTask n none) _ fun q => hoff k.part q]
    exact ⟨task_setTask .., rfl, rfl⟩

theorem queueOf_of_parts {s t : State} (h : t.parts = s.parts) (p q : Nat) : ((t.part p).queueOf q) = ((s.part p).queueOf q) := by
  rw [State.part, h]
  rfl

theorem teamCores_draw (s : State) (n : Nat) : s.draw.teamCores n = s.teamCores n := by
  have hteam : s.draw.team n = s.team n := rfl
  have htask (i : Nat) : s.draw.task i = s.task i := rfl
  simp only [State.teamCores, hteam, htask]

theorem teamCtxs_draw (s : State) (n : Nat) : s.draw.teamCtxs n = s.teamCtxs n := by
  have hslot (c : Nat) : s.draw.slotOfTeam c n = s.slotOfTeam c n := rfl
  simp only [State.teamCtxs, teamCores_draw, hslot]

/-- A loaded team starts its contexts (R40, R49). -/
theorem teamLoaded_starts {s : State} {n : Nat} {m : Team} (h : s.teams = [(n, some m)]) (hst : m.st = .loading) :
    ∃ t, exec .teamLoaded s = .next t ∧ (t.team n).map (·.st) = some .running ∧
      ∀ p ∈ s.teamCtxs n, ∃ q, (t.ctx p.1 p.2).part = q ∧ m.Starts ((s.part q).rstcfg.toNat % 2 ^ 24) (s.ctx p.1 p.2).tidx (t.ctx p.1 p.2) := by
  have hteam : s.draw.team n = some m := team_one h
  refine ⟨_, teamLoaded_does h hst, ?_, fun p hp => ⟨_, rfl, startTeam_starts hteam (by rwa [teamCtxs_draw])⟩⟩
  rw [startTeam_eq hteam, team_setTeam]
  rfl

/-- What a hold posts (R287, R372). -/
theorem fallbackPressure_posts (s : State) :
    (∃ t, exec .fallbackPressure s = .next t ∧ ∀ n k, s.task n = some k → k.st = .eligible → k.holdPosted = false →
      ∀ since, k.holdSince = some since → since + 1000000 ≤ s.now → (t.task n).map (·.holdPosted) = some true) ∧
    (∀ n k, s.tasks.filter (fun e => e.2.any (holdDue s)) = [(n, some k)] → s.task n = some k →
      ∃ t, exec .fallbackPressure s = .next t ∧ PostsE s t k.part 0x64 ∧ t.task n = some { k with holdPosted := true } ∧
        ∀ j, j ≠ n → t.task j = s.task j) ∧
    (s.tasks.filter (fun e => e.2.any (holdDue s)) = [] → exec .fallbackPressure s = .next s) := by
  refine ⟨⟨_, fallbackPressure_does s, fun n k hk hst hposted since hsince hlong => ?_⟩, fun n k hone hk => ?_, fun hnone => ?_⟩
  · have hdue : holdDue s k = true := by
      simp only [holdDue, hst, hposted, hsince, beq_self_eq_true, Bool.not_false, Bool.true_and, decide_eq_true hlong]
    exact pressed (List.mem_filter.mpr ⟨mem_of_get hk, hdue⟩) (Option.isSome_iff_exists.mpr ⟨k, hk⟩)
  · refine ⟨pressOne s (n, some k), ?_, pressOne_posts hk⟩
    rw [fallbackPressure_does, hone]
    rfl
  · rw [fallbackPressure_does, hnone]
    rfl

/-- What a ring entry that is ready writes (R276). -/
theorem writeEntry_writes {s : State} {p q : Nat} {e : BitVec 256} {i : Option Nat} {r : List (BitVec 256 × Option Nat)}
    (h : ((s.part p).queueOf q).waiting = (e, i) :: r) :
    let x := (s.part p).queueOf q
    let ln := x.cqcfg.toNat / 2 % 2 ^ 5
    let t := writeEntry s p q
    (∃ rest, t.out = s.out ++ .pcieWrite (.vf p) (x.cqcfg.toNat / 2 ^ 12 * 4096 + 32 * (x.written % 2 ^ ln))
      (toBytes 32 (e.toNat + (1 - x.written / 2 ^ ln % 2) * 2 ^ 63)) :: rest) ∧
    ((t.part p).queueOf q).written = x.written + 1 ∧
    (e.getLsbD 40 = true ∨ i = none → ((t.part p).queueOf q).waiting = r) ∧
    (e.getLsbD 40 = false → ∀ n, i = some n → (∀ p q, ringOn ((s.part p).queueOf q).sqcfg = false) →
      t.task n = none ∧ ((t.part p).queueOf q).waiting = r) := by
  obtain ⟨hwritten, hwaiting⟩ := wroteEntry_does s p q e r
  have hout : (wroteEntry s p q e r).out = s.out ++ _ := rfl
  dsimp only
  rw [writeEntry_eq h]
  by_cases hbit : e.getLsbD 40 = true
  · rw [if_pos hbit]
    exact ⟨⟨[], hout⟩, hwritten, fun _ => hwaiting, fun hno => absurd (hbit.symm.trans hno) Bool.noConfusion⟩
  · rw [if_neg hbit]
    cases i with
    | none => exact ⟨⟨[], hout⟩, hwritten, fun _ => hwaiting, fun _ n hn => nomatch hn⟩
    | some n =>
      have hserved := Served.freeTask (wroteEntry s p q e r) n
      obtain ⟨l, hl⟩ := hserved.out
      refine ⟨⟨l, ?_⟩, (congrArg Queue.written (hserved.ring p q)).trans hwritten, ?_, fun _ n' hn hoff => ?_⟩
      · rw [Option.elim_some, hl, hout, List.append_assoc]
        rfl
      · rintro (hb | hn)
        · exact absurd hb hbit
        · cases hn
      · cases hn
        obtain ⟨hnone, hparts, -⟩ := freeTask_frees (s := wroteEntry s p q e r) n fun i j => by rw [wroteEntry_sqcfg]; exact hoff i j
        exact ⟨hnone, (congrArg Queue.waiting (queueOf_of_parts hparts p q)).trans hwaiting⟩

/-- Settles O59: the pass, the starts and ends of teams, the energy holds and the ring entries, each by its own lemma. -/
theorem dispatcherEvents : Obligations.DispatcherEvents := by
  unfold Obligations.DispatcherEvents
  refine ⟨?place, fun s w f o h => firstRect_least h, ?team, fallbackPressure_posts, ?ring⟩
  case place =>
    intro s k n oid x0 y0 base v c
    dsimp only
    intro hon hteams hcand hct hcn hfresh hresv hk hrng ha hb hpref hvars hvar hrect henergy hbase hawake
    obtain ⟨b, hb', hpass⟩ := dispatcherPass_places hon hteams hcand hct hcn hfresh hresv hk hrng ha hb hpref hvars hvar hrect henergy hbase hawake
    obtain ⟨hnext, hbteams, hbtasks, hdue, hbresv⟩ := hb'.board
    obtain ⟨htdue, htask, ⟨m, hm, -, htteams⟩, u, slot, hctx⟩ :=
      admitTeam_admits (s := b) (w := { id := n, task := k, v := v, oid := oid, back := none }) (x0 := x0) (y0 := y0) (base := base) (prio := c.prio)
        0 rfl ha hb (hbteams.trans hteams) ((hbresv _).trans (hresv _))
    have hbtask : b.task n = some k := by
      rw [State.task, hbtasks]
      exact hk
    refine ⟨_, slot, hpass, htdue.trans hdue, ?_, ?_, ?_⟩
    · rw [htask, hbtask]
      rfl
    · rw [← show b.nextTeam = s.nextTeam from hnext, team_one htteams]
      exact congrArg some hm
    · rw [hctx]
      obtain ⟨h₁, h₂, h₃, h₄, h₅, h₆, h₇, h₈, h₉, h₁₀, h₁₁, h₁₂, h₁₃, hfa, hrm, hs⟩ :=
        newCtx_launches (s := u) (w := { id := n, task := k, v := v, oid := oid, back := none }) (team := b.nextTeam) (x0 := x0) (y0 := y0) (base := base)
          (prio := c.prio) (tidx := 0) (core := 16 * y0 + x0) rfl
      refine ⟨h₁, h₂.trans hnext, h₃, h₄, h₅, h₆, h₇, h₈, h₉, h₁₀, h₁₁, h₁₂, h₁₃, fun i hi => ?_, hfa, hrm⟩
      rw [hs, Nat.add_comm i 1, ← Nat.zero_add 1, Nat.add_right_comm]
      exact get_args k.args 0 [] hi
  case team =>
    intro s n m hteams
    refine ⟨fun hst => ?_, fun k hd hk hset => ?_⟩
    · obtain ⟨t, ht, hrun, hall⟩ := teamLoaded_starts hteams hst
      refine ⟨t, ht, hrun, fun p hp => ?_⟩
      obtain ⟨_, rfl, hstarts⟩ := hall p hp
      exact hstarts
    · obtain ⟨t, joules, ht, hteam, hfree, hentry, hnone⟩ := teamComplete_ends hteams hd hk hset
      refine ⟨t, ht, hteam, hfree, fun hq => ?_, hnone⟩
      obtain ⟨htask, hwaiting⟩ := hentry hq
      exact ⟨_, htask, rfl, rfl, hwaiting⟩
  case ring =>
    intro s p q e i r
    dsimp only
    intro hx
    obtain ⟨hout, hwritten, hwaiting, hfrees⟩ := writeEntry_writes (s := s.draw) hx
    have haccept (t : State) (h : writeSome s true = t) : exec .acceptanceEntryWrite s = .next t := congrArg Host.Outcome.next h
    have hcomplete (t : State) (h : writeSome s false = t) : exec .completionEntryWrite s = .next t := congrArg Host.Outcome.next h
    exact ⟨fun hone hb => ⟨_, haccept _ (ready_one true hone), hout, hwritten, hwaiting (.inl hb)⟩,
      fun hone hb => ⟨_, hcomplete _ (ready_one false hone), hout, hwritten, fun hi => hwaiting (.inr hi), hfrees hb⟩,
      fun hnone => haccept _ (ready_none true hnone), fun hnone => hcomplete _ (ready_none false hnone)⟩

end Sys2Proof.Machine

/-! ## Claims, tasks, messages, joins and variants (O24) -/

namespace Sys2Proof.Machine
set_option Elab.async false

section
variable {i : Instr} {m : SlotSem} {s : State}

/-- A lone slot whose meaning goes nowhere and ends as every bundle does. -/
theorem exec_passes (hx : (slotParts i).isSome = true) (hm : slotSem i = m) (hf : free (headOf i) s = true) (hp : passes i s = true)
    (hg : ∀ p t, m.goes p t = none) (hfin : ∀ p, m.fin p = id) {al : Bool} (hl : (m.lat != .now) = al) :
    exec i s = .next (issued i al s (m.eff (here i s)) none id) := by
  have h := issueOne_passes i s hf hp
  rw [exec_slot i s hx, h, hm, hg, hfin, hl]

theorem sup_of_onlyUser {op : Nat} {c : Ctx} (h : onlyUser op c = none) : c.sup = false := by
  unfold onlyUser at h
  cases hs : c.sup
  · rfl
  · rw [hs, if_pos rfl] at h
    cases h

/-- What passes the mode check issues in user mode, where a region is open (R307). -/
theorem user_of_passes {op : Nat} (hm : slotSem i = m) (hp : passes i s = true) (hc : ∀ p t, m.chk p t = none → onlyUser op (p.ctx t) = none) :
    (found (headOf i) s).sup = false ∧ (found (headOf i) s).fixOpen = true := by
  have hchk := ((passes_iff i s).mp hp).chk
  rw [hm] at hchk
  have hsup : (found (headOf i) s).sup = false := by
    have h := sup_of_onlyUser (hc _ _ hchk)
    rwa [here_ctx, ctx_judged] at h
  exact ⟨hsup, (found_sup_or_fixOpen (headOf i) s).resolve_left (by rw [hsup]; exact Bool.false_ne_true)⟩

end

theorem of_firstOf_none {a : Option Trap} {l : List (Option Trap)} (h : firstOf (a :: l) = none) : a = none := by
  cases a with
  | none => rfl
  | some t => cases h

/-! ### Items gated in an open region (R272) -/

/-- In an open region a gated item joins the context's items. -/
theorem gateItem_open {p : At} {g : Gated} {s : State} (hs : (p.ctx s).sup = false) (hopen : (p.ctx s).fixOpen = true) :
    gateItem p g s = s.updCtx p.core p.slot (fun c => { c with gatedItems := c.gatedItems ++ [g] }) := by
  unfold gateItem
  rw [hs, hopen]
  rfl

/-- All capability registers of a context. -/
theorem get_allCaps (c : Ctx) {i : Nat} (hi : i < 16) :
    ((List.range 16).foldl (fun (t : Tab (BitVec 128)) i => t.set i (c.getK i) 0) []).get i 0 = c.getK i := by
  refine foldl_reaches (fun t : Tab (BitVec 128) => t.get i 0 = c.getK i) (List.mem_range.mpr hi) (fun t => Tab.get_set_same t i (c.getK i) 0) (fun t n _ ht => ?_) []
  by_cases hn : i = n
  · subst hn
    exact Tab.get_set_same ..
  · rwa [Tab.get_set_other _ _ _ _ _ _ hn]

/-- A lone slot in an open region whose effect gates an item adds that to the items. -/
theorem gatedItems_issued {i : Instr} {al : Bool} {s u : State} {eff : State → State} {g : Gated} (heff : eff (issuing i al s) = gateItem (here i s) g u)
    (hctx : u.ctx s.cur.1 s.cur.2 = atIssue i al s) (hcur : u.cur = s.cur)
    (huser : (found (headOf i) s).sup = false ∧ (found (headOf i) s).fixOpen = true) :
    (hand (issued i al s eff none id)).gatedItems = (found (headOf i) s).gatedItems ++ [g] := by
  have hsup : ((here i s).ctx u).sup = false := by
    rw [here_ctx, hctx]
    exact (passed_sup ..).trans huser.1
  have hopen : ((here i s).ctx u).fixOpen = true := by
    rw [here_ctx, hctx]
    exact (passed_fixOpen ..).trans huser.2
  rw [gateItem_open hsup hopen] at heff
  have hitems : (atIssue i al s).gatedItems = (found (headOf i) s).gatedItems := passed_gatedItems ..
  refine (proj_issued Ctx.gatedItems (fun _ => rfl) (by rw [heff]; exact hcur)).trans ?_
  rw [heff, here_core, here_slot, State.ctx_updCtx, hctx, ← hitems]

/-- What an issue makes of the claims: their counts fall (R262). -/
theorem claims_passed (h : Head) (i : Instr) (al : Bool) (tl : List Nat) (c : Ctx) (hs : c.sup = false) :
    (passed h i al tl c).a.claims = c.a.tickClaims.claims := by
  unfold passed observe Ctx.tick Ctx.allocTag Ctx.setRem Arch.tickFmt
  cases al <;> by_cases ht : h.atag = 0 <;> by_cases h3 : h.slot = .S <;> simp [Arch.tickClaims, ht, h3, hs]

theorem length_valid_tickClaims (a : Arch) : (a.tickClaims.claims.filter (·.valid)).length = (a.claims.filter (·.valid)).length := by
  rw [Arch.tickClaims, List.filter_map, List.length_map]
  rfl

/-- The context with one claim more, behind the valid ones. -/
def Ctx.claiming (seq tag ord : Nat) (c : Ctx) : Ctx :=
  { c with a := { c.a with claims := c.a.claims.filter (·.valid) ++ [{ left := 31, h := c.a.hnext, tag := tag, seq := seq, ord := ord }],
                           hnext := (c.a.hnext + 1) % 8 } }

theorem eff_semNext (o : SR) (p : At) (s : State) :
    (semNext o).eff p s = ({ s with claimNo := s.claimNo + 1 } : State).updCtx p.core p.slot (Ctx.claiming p.seq p.tag s.claimNo) := rfl

theorem ctx_claimNo (s : State) (n c i : Nat) : ({ s with claimNo := n } : State).ctx c i = s.ctx c i := rfl

section
variable {h : Head} {s : State} (hf : free h s = true)
include hf

/-- `next` puts a claim behind the valid ones (R262). -/
theorem exec_next {o : SR} (hp : passes (.next h o) s = true) :
    ∃ t l, exec (.next h o) s = .next t ∧ (hand t).a.hnext = ((found h s).a.hnext + 1) % 8 ∧
      (hand t).a.claims = l ++ [{ left := 31, h := (found h s).a.hnext, tag := h.atag, seq := (found h s).iss, ord := s.claimNo }] ∧
      l.length = ((found h s).a.claims.filter (·.valid)).length := by
  obtain ⟨hsup, -⟩ := user_of_passes (op := 0x125) (i := .next h o) rfl hp fun _ _ hc => hc
  have hx := exec_passes (i := .next h o) (m := semNext o) rfl rfl hf hp (fun _ _ => rfl) (fun _ => rfl) (al := true) rfl
  have hcur : ((semNext o).eff (here (.next h o) s) (issuing (.next h o) true s)).cur = s.cur := rfl
  have hctx : ((semNext o).eff (here (.next h o) s) (issuing (.next h o) true s)).ctx s.cur.1 s.cur.2 =
      (atIssue (.next h o) true s).claiming (found h s).iss h.atag s.claimNo := by
    rw [eff_semNext, here_core, here_slot, State.ctx_updCtx, ctx_claimNo, ctx_issuing]
    rfl
  have hnext : (atIssue (.next h o) true s).a.hnext = (found h s).a.hnext := passed_a_hnext ..
  have hset {α : Type} (f : Ctx → α) (hf : ∀ c, f c.settled = f c) :
      f (hand (issued (.next h o) true s ((semNext o).eff (here (.next h o) s)) none id)) =
        f ((atIssue (.next h o) true s).claiming (found h s).iss h.atag s.claimNo) := by
    rw [proj_issued f hf hcur, hctx]
  refine ⟨_, (atIssue (.next h o) true s).a.claims.filter (·.valid), hx, ?_, ?_, ?_⟩
  · rw [← hnext]
    exact hset (fun c => c.a.hnext) fun _ => rfl
  · rw [← hnext]
    exact hset (fun c => c.a.claims) fun _ => rfl
  · rw [atIssue, claims_passed _ _ _ _ _ hsup]
    exact length_valid_tickClaims _

/-- `enqt` gates its submission with all capability registers (R264, R272). -/
theorem exec_enqt {o : SR} (hp : passes (.enqt h o) s = true) :
    ∃ (t : State) (caps : Tab (BitVec 128)), exec (.enqt h o) s = .next t ∧ (∀ i, i < 16 → caps.get i 0 = (found h s).getK i) ∧
      (hand t).gatedItems = (found h s).gatedItems ++ [.enqt (s.core s.cur.1).nextId (found h s).iss 0 ((found h s).dstS o.a) h.atag (pcOf s + 1)
        ((found h s).getS o.c) ((found h s).getK (o.b % 16)) caps (atIssue (.enqt h o) true s).time] := by
  obtain ⟨hsup, hopen⟩ := user_of_passes (op := 0x126) (i := .enqt h o) (m := semEnqt o) rfl hp fun _ _ hc => of_firstOf_none hc
  have hx := exec_passes (i := .enqt h o) (m := semEnqt o) rfl rfl hf hp (fun _ _ => rfl) (fun _ => rfl) (al := true) rfl
  have heff : (semEnqt o).eff (here (.enqt h o) s) (issuing (.enqt h o) true s) = doEnqt o (here (.enqt h o) s) (issuing (.enqt h o) true s) := rfl
  have hid : ((issuing (.enqt h o) true s).core s.cur.1).nextId = (s.core s.cur.1).nextId := by
    simp [issuing, setHand, State.setCtx, Core.setSlot]
  unfold doEnqt at heff
  dsimp only at heff
  rw [here_ctx, here_core, ctx_issuing, atIssue_getS, atIssue_getK, atIssue_dstS, hid] at heff
  refine ⟨_, _, hx, fun i hi => ?_, gatedItems_issued heff ?_ ?_ ⟨hsup, hopen⟩⟩
  · rw [get_allCaps _ hi, atIssue_getK]
    rfl
  · exact (ctx_updCore _ _ _ (fun k => { k with nextId := k.nextId + 1 }) rfl).trans (ctx_issuing ..)
  · rfl

/-- `enqm` gates its message (R265, R272). -/
theorem exec_enqm {o : SR} (hp : passes (.enqm h o) s = true) :
    let v := ((found h s).getS o.b).toNat
    ∃ t, exec (.enqm h o) s = .next t ∧ (hand t).gatedItems = (found h s).gatedItems ++ [.enqm (found h s).iss ((found h s).dstS o.a) h.atag
      (bits v 0 4 + bits v 4 4 * 2 ^ (found h s).ea) (bits v 8 2) (bits v 10 1 == 1) ((found h s).getS o.c)] := by
  have huser := user_of_passes (op := 0x127) (i := .enqm h o) rfl hp fun _ _ hc => hc
  have hx := exec_passes (i := .enqm h o) (m := semEnqm o) rfl rfl hf hp (fun _ _ => rfl) (fun _ => rfl) (al := true) rfl
  have heff : (semEnqm o).eff (here (.enqm h o) s) (issuing (.enqm h o) true s) = doEnqm o (here (.enqm h o) s) (issuing (.enqm h o) true s) := rfl
  have hea : (atIssue (.enqm h o) true s).ea = (found h s).ea := passed_ea ..
  unfold doEnqm msgIndex at heff
  dsimp only at heff
  rw [here_ctx, ctx_issuing, atIssue_getS, atIssue_getS, atIssue_dstS, hea] at heff
  exact ⟨_, hx, gatedItems_issued heff (ctx_issuing ..) rfl huser⟩

end

/-! ### Messages taken (R266) -/

/-- The context that has taken the oldest message of a queue. -/
def Ctx.takesMsg (c : Ctx) (q seq tag : Nat) (hd sd : Dst) (m : Msg) (r : List Msg) : Ctx :=
  deliverMsg { c with q := c.q.set q r [], recMsgs := if c.fixOpen || c.win then c.recMsgs ++ [(seq, q, m)] else c.recMsgs } m q hd sd seq tag

theorem res_takesMsg {q : Nat} (c : Ctx) (seq tag : Nat) (hd sd : Dst) (m : Msg) (r : List Msg) (hq : q < 4) :
    (c.takesMsg q seq tag hd sd m r).res = c.res ++ [{ dst := hd, val := m.val.setWidth 512, due := seq + 8, seq := seq, tag := 0, fixed := false },
      { dst := sd, val := BitVec.ofNat 512 (m.src % 2 ^ 8 + q * 2 ^ 8 + 2 ^ 63), due := seq + 8, seq := seq, tag := tag, fixed := false }] := by
  have h : (c.takesMsg q seq tag hd sd m r).res = (c.res ++ [_]) ++ [_] := rfl
  rw [h, List.append_assoc, msgInfo, Nat.mod_eq_of_lt hq]
  rfl

section
variable {o : SR} {p : At} {s : State} (hplay : (p.ctx s).playMsgs = [])
include hplay

theorem doDeqm_takes {m : Msg} {r : List Msg} (hq : (p.ctx s).queue (fld ((p.ctx s).getS o.c) 0 2) = m :: r) :
    doDeqm o p s = s.setCtx p.core p.slot
      ((p.ctx s).takesMsg (fld ((p.ctx s).getS o.c) 0 2) p.seq p.tag (.h (o.a % 8)) ((p.ctx s).dstS o.b) m r) := by
  have hfind : (p.ctx s).playMsgs.find? (fun x => x.1 == fld ((p.ctx s).getS o.c) 0 2) = none := by rw [hplay]; rfl
  simp only [doDeqm, hfind, hq]
  rfl

theorem doDeqm_empty (hq : (p.ctx s).queue (fld ((p.ctx s).getS o.c) 0 2) = []) :
    doDeqm o p s = if fld ((p.ctx s).getS o.c) 2 1 = 1 then produce p (.prod 8) ((p.ctx s).dstS o.b) 0 s
      else startWait p (.queue (fld ((p.ctx s).getS o.c) 0 2) (o.a % 8) o.b p.tag) s := by
  simp only [doDeqm, hplay, List.find?_nil, hq]

end

theorem fld_low2 (v : Word) : fld v 0 2 = v.toNat % 4 := by simp [fld, bits]

section
variable {h : Head} {o : SR} {s : State} (hf : free h s = true) (hp : passes (.deqm h o) s = true) (hplay : (found h s).playMsgs = [])

theorem num_issuing : fld (((here (.deqm h o) s).ctx (issuing (.deqm h o) true s)).getS o.c) 0 2 = ((found h s).getS o.c).toNat % 4 := by
  rw [here_ctx, ctx_issuing, atIssue_getS, fld_low2]
  rfl

theorem queue_issuing (q : Nat) : ((here (.deqm h o) s).ctx (issuing (.deqm h o) true s)).queue q = (found h s).queue q := by
  have hq : (atIssue (.deqm h o) true s).q = (found h s).q := passed_q ..
  rw [here_ctx, ctx_issuing, Ctx.queue, hq]
  rfl

include hplay in
theorem playMsgs_issuing : ((here (.deqm h o) s).ctx (issuing (.deqm h o) true s)).playMsgs = [] := by
  rw [here_ctx, ctx_issuing]
  exact (passed_playMsgs ..).trans hplay

include hf hp in
theorem exec_deqm : exec (.deqm h o) s = .next (issued (.deqm h o) true s (doDeqm o (here (.deqm h o) s)) none id) :=
  exec_passes (i := .deqm h o) (m := semDeqm o) rfl rfl hf hp (fun _ _ => rfl) (fun _ => rfl) (al := true) rfl

include hf hp hplay

/-- `deqm` takes the oldest message of its queue. -/
theorem exec_deqm_takes {m : Msg} {r : List Msg} (hq : (found h s).queue (((found h s).getS o.c).toNat % 4) = m :: r) :
    let q := ((found h s).getS o.c).toNat % 4
    ∃ t, exec (.deqm h o) s = .next t ∧ (hand t).queue q = r ∧ (hand t).time = max (atIssue (.deqm h o) true s).time m.time ∧
      (hand t).res = (found h s).res ++ [{ dst := .h (o.a % 8), val := m.val.setWidth 512, due := (found h s).iss + 8, seq := (found h s).iss, tag := 0, fixed := false },
        result (.deqm h o) s 8 false ((found h s).dstS o.b) (BitVec.ofNat 512 (m.src % 2 ^ 8 + q * 2 ^ 8 + 2 ^ 63))] := by
  have hnum := num_issuing (h := h) (o := o) (s := s)
  have heff := doDeqm_takes (playMsgs_issuing hplay) (hnum ▸ (queue_issuing _).trans hq)
  rw [hnum, here_ctx, ctx_issuing, atIssue_dstS] at heff
  dsimp only
  have hlt : ((found h s).getS o.c).toNat % 4 < 4 := Nat.mod_lt _ (by decide)
  generalize ((found h s).getS o.c).toNat % 4 = q at hq heff hlt
  have hset {α : Type} (f : Ctx → α) (hf : ∀ c, f c.settled = f c) :
      f (hand (issued (.deqm h o) true s (doDeqm o (here (.deqm h o) s)) none id)) =
        f ((atIssue (.deqm h o) true s).takesMsg q (found h s).iss h.atag (.h (o.a % 8)) ((found h s).dstS o.b) m r) := by
    rw [proj_issued f hf (by rw [heff]; rfl), heff, here_core, here_slot, State.ctx_setCtx]
    rfl
  refine ⟨_, exec_deqm hf hp, ?_, ?_, ?_⟩
  · exact (hset (fun c => c.queue q) fun _ => rfl).trans (Tab.get_set_same ..)
  · exact hset Ctx.time fun _ => rfl
  · refine (hset Ctx.res fun _ => rfl).trans ?_
    rw [res_takesMsg _ _ _ _ _ _ _ hlt, res_atIssue]
    rfl

/-- Without one, and without a wait asked for, it answers 0. -/
theorem exec_deqm_none (hq : (found h s).queue (((found h s).getS o.c).toNat % 4) = []) (hno : bits ((found h s).getS o.c).toNat 2 1 = 1) :
    exec (.deqm h o) s = .next (produced (.deqm h o) s 8 false ((found h s).dstS o.b) 0) := by
  have hnum := num_issuing (h := h) (o := o) (s := s)
  have heff := doDeqm_empty (playMsgs_issuing hplay) (hnum ▸ (queue_issuing _).trans hq)
  rw [here_ctx, ctx_issuing, atIssue_dstS, atIssue_getS] at heff
  rw [exec_deqm hf hp]
  refine congrArg _ (issued_congr _ _ _ _ _ _ _ ?_)
  exact heff.trans (if_pos hno)

/-- Or it waits for one. -/
theorem exec_deqm_waits (hq : (found h s).queue (((found h s).getS o.c).toNat % 4) = []) (hyes : bits ((found h s).getS o.c).toNat 2 1 = 0) :
    ∃ t, exec (.deqm h o) s = .next t ∧ (hand t).st = .waiting ∧ (hand t).wait = .queue (((found h s).getS o.c).toNat % 4) (o.a % 8) o.b h.atag := by
  have hnum := num_issuing (h := h) (o := o) (s := s)
  have heff := doDeqm_empty (playMsgs_issuing hplay) (hnum ▸ (queue_issuing _).trans hq)
  have hno : ¬fld ((found h s).getS o.c) 2 1 = 1 := by
    rw [fld, hyes]
    decide
  rw [hnum, here_ctx, ctx_issuing, atIssue_dstS, atIssue_getS] at heff
  have hwaits : doDeqm o (here (.deqm h o) s) (issuing (.deqm h o) true s) = _ := heff.trans (if_neg hno)
  have hset {α : Type} (f : Ctx → α) (hf : ∀ c, f c.settled = f c) :
      f (hand (issued (.deqm h o) true s (doDeqm o (here (.deqm h o) s)) none id)) =
        f ((doDeqm o (here (.deqm h o) s) (issuing (.deqm h o) true s)).ctx s.cur.1 s.cur.2) := proj_issued f hf (by rw [hwaits]; rfl)
  refine ⟨_, exec_deqm hf hp, (hset Ctx.st fun _ => rfl).trans ?_, (hset Ctx.wait fun _ => rfl).trans ?_⟩ <;>
    rw [hwaits, startWait, here_core, here_slot, State.ctx_updCtx]
  rfl

end

/-! ### Joins and variants (R267, R268) -/

section
variable {h : Head} {i : SI} {s : State} (hf : free h s = true)
include hf

theorem exec_cpjoin (hp : passes (.cpjoin h i) s = true) : exec (.cpjoin h i) s = .next (issued (.cpjoin h i) false s
    (fun t => t.updCtx s.cur.1 s.cur.2 (fun d => { d with time := max d.time d.copyTime })) none id) :=
  exec_passes (i := .cpjoin h i) (m := semCpjoin i) rfl rfl hf hp (fun _ _ => rfl) (fun _ => rfl) (al := false) rfl

omit hf in
theorem task_issued (j : Instr) (al : Bool) (s : State) (eff : State → State) (g : Option Nat) (n : Nat) :
    (issued j al s eff g id).task n = (eff (issuing j al s)).task n := by
  have hctx (t : State) (c i : Nat) (f : Ctx → Ctx) : (t.updCtx c i f).task n = t.task n := rfl
  have hcore (t : State) (c : Nat) (f : Core → Core) : (t.updCore c f).task n = t.task n := rfl
  rw [issued_eq, counted, hctx, hcore, id, ending, hctx]

/-- `widen` sets its task's preference. -/
theorem exec_widen {tm : Team} {k : Task} (hp : passes (.widen h i) s = true) (ht : s.team (found h s).team = some tm) (hk : s.task tm.task = some k) :
    ∃ t, exec (.widen h i) s = .next t ∧ t.task tm.task = some { k with pref := if bits i.imm 2 1 = 1 then none else some (i.imm % 4) } := by
  have hteam : (issuing (.widen h i) false s).team ((here (.widen h i) s).ctx (issuing (.widen h i) false s)).team = some tm := by
    have hc : (atIssue (.widen h i) false s).team = (found h s).team := passed_team ..
    rw [here_ctx, ctx_issuing, hc]
    exact ht
  have heff : (semWiden i).eff (here (.widen h i) s) (issuing (.widen h i) false s) =
      (issuing (.widen h i) false s).updTask tm.task (fun k => { k with pref := if bits i.imm 2 1 = 1 then none else some (bits i.imm 0 2) }) := by
    show setPref i _ _ = _
    simp only [setPref, hteam]
  have hmod : bits i.imm 0 2 = i.imm % 4 := by simp [bits]
  refine ⟨_, exec_passes (i := .widen h i) (m := semWiden i) rfl rfl hf hp (fun _ _ => rfl) (fun _ => rfl) (al := false) rfl, ?_⟩
  have htask : (issuing (.widen h i) false s).task tm.task = some k := hk
  rw [task_issued, heff, task_updTask, hmod, htask]
  rfl

end

/-- Settles O24: each instruction whose checks pass issues with its effect, in user mode in an open region. -/
theorem tasksAndMessages : Obligations.TasksAndMessages := by
  unfold Obligations.TasksAndMessages
  intro h o s hf c
  exact ⟨exec_next hf, exec_enqt hf, exec_enqm hf, fun hp hplay => ⟨fun m r hq => exec_deqm_takes hf hp hplay hq, exec_deqm_none hf hp hplay,
    exec_deqm_waits hf hp hplay⟩, fun i hp => exec_cpjoin hf hp, fun i tm k hp ht hk => exec_widen hf hp ht hk⟩

end Sys2Proof.Machine

/-! ## The barrier instructions (O23) -/

namespace Sys2Proof.Machine
set_option Elab.async false

/-! ### Marks behind a bundle (R272, R307) -/

/-- What decides whether a due mark is made. -/
def Ctx.marks (c : Ctx) : Bool × Bool × Bool := (c.sup, c.fixOpen, c.markDue)

theorem marks_setReps (c : Ctx) (n : Nat) : (c.setReps n).marks = c.marks := by
  unfold Ctx.setReps
  split <;> rfl

theorem marks_setPc (c : Ctx) (n : Nat) : (c.setPc n).marks = c.marks := by
  unfold Ctx.setPc
  split <;> rfl

theorem marks_setLv (c : Ctx) (t : Tab Level) : (c.setLv t).marks = c.marks := by
  unfold Ctx.setLv
  split <;> rfl

theorem marks_movedOn (hdr : Nat) (g : Option Nat) (c : Ctx) : (movedOn hdr g c).marks = c.marks := by
  cases g with
  | none => exact (marks_setPc _ _).trans ((marks_setLv _ _).trans (marks_setReps _ _))
  | some t => exact (marks_setPc _ _).trans (marks_setReps _ _)

theorem win_openRegion (c : Ctx) : c.openRegion.win = c.win := by
  unfold Ctx.openRegion Ctx.setShadow
  dsimp only
  split <;> rfl

/-- A mark that is due in an open region is made, or waits behind the window of the region before. -/
theorem win_settleMark {c : Ctx} (h : c.marks = (false, true, true)) : (settleMark c).win = true := by
  simp only [Ctx.marks, Prod.mk.injEq] at h
  obtain ⟨hsup, hopen, hdue⟩ := h
  unfold settleMark
  cases hw : c.win with
  | true => simpa [hsup, hopen, hdue] using hw
  | false =>
    rw [hsup, hopen, hdue]
    show (c.closeRegion.openRegion).win = true
    rw [win_openRegion, Ctx.closeRegion, if_pos hopen]

section
variable {i : Instr} {al : Bool} {s : State} {eff : State → State} {g : Option Nat} (hcur : (eff (issuing i al s)).cur = s.cur)
include hcur

theorem win_issued (h : ((eff (issuing i al s)).ctx s.cur.1 s.cur.2).marks = (false, true, true)) : (hand (issued i al s eff g id)).win = true := by
  rw [hand_issued (fin := id) (i := i) (al := al) (eff := eff) (g := g) hcur]
  refine win_settleMark ?_
  show ((ending i al s eff g).ctx s.cur.1 s.cur.2).marks = _
  rw [ctx_ending, marks_movedOn, h]

/-- A token that a yield had saved has been judged (R273). -/
theorem aw_issued (h : ((eff (issuing i al s)).ctx s.cur.1 s.cur.2).sup = false) : (hand (issued i al s eff g id)).a.aw = none := by
  rw [hand_issued (fin := id) (i := i) (al := al) (eff := eff) (g := g) hcur, a_settleMark]
  have hsup : ((ending i al s eff g).ctx s.cur.1 s.cur.2).sup = false := (proj_ending Ctx.sup fun _ => rfl).trans h
  show (if ((ending i al s eff g).ctx s.cur.1 s.cur.2).sup then _ else _ : Arch).aw = none
  rw [hsup]
  rfl

end

/-! ### Barriers of a core -/

theorem bar_setCtx (s : State) (c i d : Nat) (v : Ctx) : ((s.setCtx c i v).core d).bar = (s.core d).bar := by
  by_cases h : d = c
  · subst h
    rw [State.setCtx, State.core_updCore]
    rfl
  · rw [State.setCtx, State.core_updCore_other _ _ _ _ h]

theorem bar_updCtx (s : State) (c i d : Nat) (f : Ctx → Ctx) : ((s.updCtx c i f).core d).bar = (s.core d).bar := bar_setCtx ..

theorem bar_issuing (i : Instr) (al : Bool) (s : State) (d : Nat) : ((issuing i al s).core d).bar = (s.core d).bar := bar_setCtx ..

theorem barrier_issued (i : Instr) (al : Bool) (s : State) (eff : State → State) (g : Option Nat) (d n : Nat) :
    ((issued i al s eff g id).core d).barrier n = ((eff (issuing i al s)).core d).barrier n :=
  coreProj_issued (fun k => k.barrier n) (fun _ => rfl) d

/-- A barrier apart from the team that has claimed it. -/
def Barrier.unclaimed (b : Barrier) : Barrier := { b with team := none }

theorem unclaimed_fields {b c : Barrier} (h : b.unclaimed = c.unclaimed) : b.expect = c.expect ∧ b.arrived = c.arrived ∧ b.ends = c.ends := by
  have hexpect := congrArg Barrier.expect h
  have harrived := congrArg Barrier.arrived h
  have hends := congrArg Barrier.ends h
  exact ⟨hexpect, harrived, hends⟩

/-- A barrier that a team has claimed, which keeps an earlier claim (R258). -/
def Barrier.claimed (b : Barrier) (team : Nat) : Barrier := { b with team := some (b.team.getD team) }

theorem barrier_claimBar (s : State) (core n team : Nat) : ((claimBar s core n team).core core).barrier n = ((s.core core).barrier n).claimed team := by
  rw [claimBar, barrier_updBar, Barrier.claimed]
  cases h : ((s.core core).barrier n).team with
  | none => rfl
  | some t =>
    rw [Option.isNone_some, if_neg Bool.false_ne_true, Option.getD_some, ← h]

theorem core_updBar_other (s : State) {core d : Nat} (n : Nat) (f : Barrier → Barrier) (h : d ≠ core) : (s.updBar core n f).core d = s.core d :=
  State.core_updCore_other _ _ _ _ h

theorem unclaimed_claimBar (s : State) (core n team d : Nat) :
    (((claimBar s core n team).core d).barrier n).unclaimed = ((s.core d).barrier n).unclaimed := by
  by_cases h : d = core
  · subst h
    rw [barrier_claimBar]
    rfl
  · rw [claimBar, core_updBar_other _ _ _ h]

/-- The state in which a bar form takes effect: its barrier is its team's. -/
def barring (i : Instr) (al : Bool) (s : State) (n : Nat) : State := claimBar (issuing i al s) s.cur.1 n (found (headOf i) s).team

section
variable (i : Instr) (al : Bool) (s : State) (n : Nat)

theorem ctx_barring : (barring i al s n).ctx s.cur.1 s.cur.2 = atIssue i al s :=
  (updBar_ctx (issuing i al s) s.cur.1 n (fun b => if b.team.isNone then { b with team := some (found (headOf i) s).team } else b) _ _).trans (ctx_issuing ..)

theorem barrier_barring : ((barring i al s n).core s.cur.1).barrier n = ((s.core s.cur.1).barrier n).claimed (found (headOf i) s).team := by
  rw [barring, barrier_claimBar, barrier_of_bar (bar_issuing i al s _) n]

theorem unclaimed_barring (d : Nat) : (((barring i al s n).core d).barrier n).unclaimed = ((s.core d).barrier n).unclaimed := by
  rw [barring, unclaimed_claimBar, barrier_of_bar (bar_issuing i al s _) n]

/-- The core that counts a barrier's arrivals. -/
theorem countingCore_barring : countingCore (barring i al s n) s.cur.1 n =
    if ((s.core s.cur.1).barrier n).scope = 1 then ((s.core s.cur.1).barrier n).root else s.cur.1 := by
  rw [countingCore, barrier_barring]
  rfl

end

end Sys2Proof.Machine

/-! ## Arrivals and waits of the barrier instructions (O23) -/

namespace Sys2Proof.Machine
set_option Elab.async false

section
variable {i : Instr} {m : SlotSem} {o : SI} {op : Nat} {s : State} {eff : At → State → State}

/-- A bar form whose checks pass takes effect on a barrier of its team, in user mode in an open region. -/
theorem exec_bar (hx : (slotParts i).isSome = true) (hm : slotSem i = m) (he : ∀ p s, m.eff p s = eff p (claimBar s p.core (barNo o) (p.ctx s).team))
    (hc : ∀ p t, m.chk p t = none → onlyUser op (p.ctx t) = none) (hg : ∀ p t, m.goes p t = none) (hfin : ∀ p, m.fin p = id) {al : Bool}
    (hl : (m.lat != .now) = al) (hf : free (headOf i) s = true) (hp : passes i s = true) :
    exec i s = .next (issued i al s (fun _ => eff (here i s) (barring i al s (barNo o))) none id) ∧
    (found (headOf i) s).sup = false ∧ (found (headOf i) s).fixOpen = true := by
  refine ⟨?_, user_of_passes hm hp hc⟩
  have hteam : ((here i s).ctx (issuing i al s)).team = (found (headOf i) s).team := by
    rw [here_ctx, ctx_issuing]
    exact passed_team ..
  rw [exec_passes hx hm hf hp hg hfin hl]
  refine congrArg _ (issued_congr i al s _ _ none id ?_)
  rw [he, hteam]
  rfl

end

section
variable {i : Instr} {al : Bool} {s : State} {n : Nat} {F : Ctx → Ctx}

/-- A bar form that does no more than change its context. -/
theorem barred (v : State) (hv : v = (barring i al s n).updCtx s.cur.1 s.cur.2 F) :
    ((issued i al s (fun _ => v) none id).core s.cur.1).barrier n = ((s.core s.cur.1).barrier n).claimed (found (headOf i) s).team ∧
    (∀ {α : Type} (f : Ctx → α), (∀ c, f c.settled = f c) → f (hand (issued i al s (fun _ => v) none id)) = f (F (atIssue i al s))) ∧
    ((F (atIssue i al s)).marks = (false, true, true) → (hand (issued i al s (fun _ => v) none id)).win = true) ∧
    ((F (atIssue i al s)).sup = false → (hand (issued i al s (fun _ => v) none id)).a.aw = none) := by
  have hcur : v.cur = s.cur := by rw [hv]; rfl
  have hctx : v.ctx s.cur.1 s.cur.2 = F (atIssue i al s) := by rw [hv, State.ctx_updCtx, ctx_barring]
  refine ⟨?_, fun f hf => ?_, fun h => ?_, fun h => ?_⟩
  · rw [barrier_issued, ← barrier_barring i al s n, hv]
    exact barrier_of_bar (bar_updCtx ..) n
  · exact (proj_issued (eff := fun _ => v) f hf hcur).trans (congrArg f hctx)
  · exact win_issued (eff := fun _ => v) hcur ((congrArg Ctx.marks hctx).trans h)
  · exact aw_issued (eff := fun _ => v) hcur ((congrArg Ctx.sup hctx).trans h)

end

/-! ### Waits for a token (R260, R261) -/

/-- The token's phase as the barrier counts it: the largest time of its arrivals (R81). -/
def State.phaseEnd (s : State) (core n tok : Nat) : Nat :=
  ((s.core (if ((s.core core).barrier n).scope = 1 then ((s.core core).barrier n).root else core)).barrier n).ends.get (tok % 2 ^ 16) 0

theorem phaseTime_barring (i : Instr) (al : Bool) (s : State) (n tok : Nat) :
    phaseTime (barring i al s n) s.cur.1 n tok = s.phaseEnd s.cur.1 n tok := by
  rw [phaseTime, countingCore_barring]
  have hends (d : Nat) : (((barring i al s n).core d).barrier n).ends = ((s.core d).barrier n).ends :=
    (unclaimed_fields (unclaimed_barring i al s n d)).2.2
  rw [hends, State.phaseEnd]

theorem phaseTime_updCtx (s : State) (c i : Nat) (f : Ctx → Ctx) (core n tok : Nat) : phaseTime (s.updCtx c i f) core n tok = phaseTime s core n tok := by
  have hb (d : Nat) : ((s.updCtx c i f).core d).barrier n = (s.core d).barrier n := barrier_of_bar (bar_updCtx ..) n
  simp only [phaseTime, countingCore, hb]

/-- A context at whose next boundary a mark is due. -/
def Ctx.toMark (c : Ctx) : Ctx := { c with markDue := true }

theorem markAfter_eq (p : At) (s : State) : markAfter p s = s.updCtx p.core p.slot Ctx.toMark := rfl

/-- A context that leaves the ready set. -/
def Ctx.waits (p : At) (w : Wait) (c : Ctx) : Ctx :=
  { c with st := .waiting, wait := w, waitPc := p.hdr, waitReps := c.repsNow, waitLv := c.lvNow, waitSeq := p.seq, burst := 256 }

theorem startWait_eq (p : At) (w : Wait) (s : State) : startWait p w s = s.updCtx p.core p.slot (Ctx.waits p w) := rfl

/-- A context that has observed the arrivals of a phase. -/
def Ctx.observes (n : Nat) (c : Ctx) : Ctx := { c with time := max c.time n }

section
variable {i : Instr} {al : Bool} {s : State} {n tok : Nat}

/-- A wait whose phase has completed is left at once. -/
theorem waitToken_over (h : waitOver ((s.core s.cur.1).barrier n).phases tok = true) :
    waitToken n tok (here i s) (markAfter (here i s) (barring i al s n)) =
      (barring i al s n).updCtx s.cur.1 s.cur.2 (fun c => c.toMark.observes (s.phaseEnd s.cur.1 n tok)) := by
  have hph : (((markAfter (here i s) (barring i al s n)).core (here i s).core).barrier n).phases = ((s.core s.cur.1).barrier n).phases := by
    rw [markAfter_eq, barrier_of_bar (bar_updCtx ..) n, here_core, barrier_barring]
    rfl
  rw [waitToken, hph, if_pos h, markAfter_eq, here_core, here_slot, phaseTime_updCtx, phaseTime_barring, State.updCtx_updCtx]
  rfl

theorem waitToken_waits (h : waitOver ((s.core s.cur.1).barrier n).phases tok = false) :
    waitToken n tok (here i s) (markAfter (here i s) (barring i al s n)) =
      (barring i al s n).updCtx s.cur.1 s.cur.2 (fun c => c.toMark.waits (here i s) (.barrier n (some tok))) := by
  have hph : (((markAfter (here i s) (barring i al s n)).core (here i s).core).barrier n).phases = ((s.core s.cur.1).barrier n).phases := by
    rw [markAfter_eq, barrier_of_bar (bar_updCtx ..) n, here_core, barrier_barring]
    rfl
  rw [waitToken, hph, if_neg (by rw [h]; exact Bool.false_ne_true), startWait_eq, markAfter_eq, here_core, here_slot, State.updCtx_updCtx]

/-- What the wait for a token leaves, as `bar.wait` and `bar.aw` judge it. -/
theorem token_judged (hf : free (headOf i) s = true) (huser : (found (headOf i) s).sup = false ∧ (found (headOf i) s).fixOpen = true) {t : State}
    (ht : t = issued i al s (fun _ => waitToken n tok (here i s) (markAfter (here i s) (barring i al s n))) none id) :
    (t.core s.cur.1).barrier n = ((s.core s.cur.1).barrier n).claimed (found (headOf i) s).team ∧ (hand t).win = true ∧ (hand t).a.aw = none ∧
    (hand t).gatedItems = (found (headOf i) s).gatedItems ∧
    (waitOver ((s.core s.cur.1).barrier n).phases tok = true → (hand t).st = (found (headOf i) s).st ∧ (hand t).wait = .none ∧
      (hand t).time = max (atIssue i al s).time (s.phaseEnd s.cur.1 n tok)) ∧
    (waitOver ((s.core s.cur.1).barrier n).phases tok = false → (hand t).st = .waiting ∧ (hand t).wait = .barrier n (some tok)) := by
  have hsup : (atIssue i al s).sup = false := (sup_atIssue ..).trans huser.1
  have hopen : (atIssue i al s).fixOpen = true := (passed_fixOpen ..).trans huser.2
  have hst : (atIssue i al s).st = (found (headOf i) s).st := passed_st ..
  have hwait := wait_atIssue hf al
  have hitems : (atIssue i al s).gatedItems = (found (headOf i) s).gatedItems := passed_gatedItems ..
  rw [← hst, ← hitems]
  have hmarks (c : Ctx) (hs : c.sup = false) (ho : c.fixOpen = true) : c.toMark.marks = (false, true, true) := by
    rw [← hs, ← ho]
    simp only [Ctx.marks, Ctx.toMark, hs, ho]
  cases hover : waitOver ((s.core s.cur.1).barrier n).phases tok with
  | true =>
    obtain ⟨hbar, hset, hwin, haw⟩ := barred (i := i) (al := al) _ (waitToken_over hover)
    rw [← ht] at hbar hset hwin haw
    generalize atIssue i al s = y at *
    exact ⟨hbar, hwin (hmarks y hsup hopen), haw hsup, hset Ctx.gatedItems fun _ => rfl, fun _ => ⟨hset Ctx.st fun _ => rfl,
      (hset Ctx.wait fun _ => rfl).trans hwait, hset Ctx.time fun _ => rfl⟩, nofun⟩
  | false =>
    obtain ⟨hbar, hset, hwin, haw⟩ := barred (i := i) (al := al) _ (waitToken_waits hover)
    rw [← ht] at hbar hset hwin haw
    generalize atIssue i al s = y at *
    exact ⟨hbar, hwin (hmarks y hsup hopen), haw hsup, hset Ctx.gatedItems fun _ => rfl, nofun, fun _ => ⟨hset Ctx.st fun _ => rfl, hset Ctx.wait fun _ => rfl⟩⟩

end

end Sys2Proof.Machine

/-! ## The barrier instructions, one by one (O23) -/

namespace Sys2Proof.Machine
set_option Elab.async false

theorem barNo_eq (o : SI) : barNo o = o.imm % 2 ^ 10 := by simp [barNo, bits]

theorem fld_low16 (v : Word) : fld v 0 16 = v.toNat % 2 ^ 16 := by simp [fld, bits]

/-- A context that has gated one item more. -/
def Ctx.gates (g : Gated) (c : Ctx) : Ctx := { c with gatedItems := c.gatedItems ++ [g] }

/-- The token that a yield has saved for the `bar.aw` at a word. -/
theorem savedToken (a : Arch) (hdr n : Nat) :
    (∀ t, a.aw = some (hdr, n, t) → a.aw.filter (fun x => x.1 == hdr && x.2.1 == n) = some (hdr, n, t)) ∧
    ((∀ t, a.aw ≠ some (hdr, n, t)) → a.aw.filter (fun x => x.1 == hdr && x.2.1 == n) = none) := by
  refine ⟨fun t ht => by simp [ht], fun hno => ?_⟩
  rw [Option.filter_eq_none_iff]
  rintro ⟨x, y, t⟩ ht hxy
  simp only [Bool.and_eq_true, beq_iff_eq] at hxy
  obtain ⟨rfl, rfl⟩ := hxy
  exact hno t ht

/-- The barrier that counts for the core in hand. -/
def State.counts (s : State) (n : Nat) : Barrier :=
  (s.core (if ((s.core s.cur.1).barrier n).scope = 1 then ((s.core s.cur.1).barrier n).root else s.cur.1)).barrier n

/-- What is read of a barrier that a team has claimed (R257). -/
theorem word_claimed (b : Barrier) (team expect arrived : Nat) : (b.claimed team).word expect arrived =
    BitVec.ofNat 64 (expect % 2 ^ 16 + arrived % 2 ^ 16 * 2 ^ 16 + b.phases % 2 ^ 16 * 2 ^ 32 + b.scope * 2 ^ 48 + b.tx0 * 2 ^ 49 + b.ty0 * 2 ^ 53 +
      b.c * 2 ^ 57 + b.e * 2 ^ 60 + 2 ^ 63) := by
  have h : oneIf (b.claimed team).team.isSome * 2 ^ 63 = 2 ^ 63 := Nat.one_mul _
  rw [Barrier.word, h]
  rfl

section
variable {h : Head} {o : SI} {s : State} (hf : free h s = true)
include hf

/-- An arrival is gated (R261, R272). -/
theorem exec_barArrive (hp : passes (.barArrive h o) s = true) :
    ∃ t, exec (.barArrive h o) s = .next t ∧ (t.core s.cur.1).barrier (o.imm % 2 ^ 10) = ((s.core s.cur.1).barrier (o.imm % 2 ^ 10)).claimed (found h s).team ∧
      (hand t).gatedItems = (found h s).gatedItems ++ [.arrive (o.imm % 2 ^ 10) (found h s).iss ((found h s).dstS o.a) h.atag false] := by
  obtain ⟨hx, huser⟩ := exec_bar (i := .barArrive h o) (m := semBarArrive o) (o := o) (op := 0x121)
    (eff := fun p s => gateItem p (.arrive (barNo o) p.seq ((p.ctx s).dstS o.a) p.tag false) s) rfl rfl (fun _ _ => rfl) (fun _ _ hc => hc) (fun _ _ => rfl) (fun _ => rfl)
    (al := true) rfl hf hp
  rw [barNo_eq] at hx
  have hctx := ctx_barring (.barArrive h o) true s (o.imm % 2 ^ 10)
  have hv : gateItem (here (.barArrive h o) s) (.arrive (o.imm % 2 ^ 10) (found h s).iss ((found h s).dstS o.a) h.atag false)
      (barring (.barArrive h o) true s (o.imm % 2 ^ 10)) = _ := gateItem_open (by rw [here_ctx, hctx]; exact (passed_sup ..).trans huser.1)
        (by rw [here_ctx, hctx]; exact (passed_fixOpen ..).trans huser.2)
  have hdst : ((here (.barArrive h o) s).ctx (barring (.barArrive h o) true s (o.imm % 2 ^ 10))).dstS o.a = (found h s).dstS o.a := by
    rw [here_ctx, hctx]
    exact atIssue_dstS ..
  rw [hdst] at hx
  obtain ⟨hbar, hset, -, -⟩ := barred _ hv
  refine ⟨_, hx, hbar, (hset Ctx.gatedItems fun _ => rfl).trans ?_⟩
  exact congrArg (· ++ [_]) (passed_gatedItems ..)

/-- A wait for the token in s[B] (R261). -/
theorem exec_barWait (hp : passes (.barWait h o) s = true) :
    ∃ t, exec (.barWait h o) s = .next t ∧ t = issued (.barWait h o) false s (fun _ => waitToken (o.imm % 2 ^ 10) (((found h s).getS o.b).toNat % 2 ^ 16)
      (here (.barWait h o) s) (markAfter (here (.barWait h o) s) (barring (.barWait h o) false s (o.imm % 2 ^ 10)))) none id ∧
      (found h s).sup = false ∧ (found h s).fixOpen = true := by
  obtain ⟨hx, huser⟩ := exec_bar (i := .barWait h o) (m := semBarWait o) (o := o) (op := 0x122) (eff := waitBar o) rfl rfl (fun _ _ => rfl) (fun _ _ hc => hc) (fun _ _ => rfl) (fun _ => rfl)
    (al := false) rfl hf hp
  refine ⟨_, hx, ?_, huser⟩
  have htok : fld (((here (.barWait h o) s).ctx (barring (.barWait h o) false s (o.imm % 2 ^ 10))).getS o.b) 0 16 = ((found h s).getS o.b).toNat % 2 ^ 16 := by
    rw [here_ctx, ctx_barring, atIssue_getS]
    exact fld_low16 _
  rw [waitBar, barNo_eq, htok]

/-- `bar.aw` in its own terms, its context as the bundle issues it. -/
theorem exec_barAw (hp : passes (.barAw h o) s = true) :
    ∃ t, exec (.barAw h o) s = .next t ∧ t = issued (.barAw h o) false s (fun _ => arriveWait o (here (.barAw h o) s)
      (barring (.barAw h o) false s (o.imm % 2 ^ 10))) none id ∧ (found h s).sup = false ∧ (found h s).fixOpen = true := by
  obtain ⟨hx, huser⟩ := exec_bar (i := .barAw h o) (m := semBarAw o) (o := o) (op := 0x123) (eff := arriveWait o) rfl rfl (fun _ _ => rfl) (fun _ _ hc => hc)
    (fun _ _ => rfl) (fun _ => rfl) (al := false) rfl hf hp
  rw [barNo_eq] at hx
  exact ⟨_, hx, rfl, huser⟩

omit hf in
theorem aw_barring : ((here (.barAw h o) s).ctx (barring (.barAw h o) false s (o.imm % 2 ^ 10))).a.aw = (found h s).a.aw := by
  rw [here_ctx, ctx_barring, a_atIssue]
  rfl

/-- Without a saved token `bar.aw` arrives and waits (R261, R272). -/
theorem barAw_arrives (hp : passes (.barAw h o) s = true) (hno : ∀ t, (found h s).a.aw ≠ some (pcOf s, o.imm % 2 ^ 10, t)) :
    ∃ t, exec (.barAw h o) s = .next t ∧ (t.core s.cur.1).barrier (o.imm % 2 ^ 10) = ((s.core s.cur.1).barrier (o.imm % 2 ^ 10)).claimed (found h s).team ∧
      (hand t).st = .waiting ∧ (hand t).wait = .barrier (o.imm % 2 ^ 10) none ∧ (hand t).win = true ∧
      (hand t).gatedItems = (found h s).gatedItems ++ [.arrive (o.imm % 2 ^ 10) (found h s).iss .nothing 0 true] := by
  obtain ⟨t, hx, ht, huser⟩ := exec_barAw hf hp
  generalize hn : o.imm % 2 ^ 10 = n at *
  have hctx := ctx_barring (.barAw h o) false s n
  have hgate := gateItem_open (p := here (.barAw h o) s) (g := .arrive n (found h s).iss .nothing 0 true) (s := barring (.barAw h o) false s n)
    (by rw [here_ctx, hctx]; exact (passed_sup ..).trans huser.1) (by rw [here_ctx, hctx]; exact (passed_fixOpen ..).trans huser.2)
  have haw := aw_barring (h := h) (o := o) (s := s)
  rw [hn] at haw
  have hv : arriveWait o (here (.barAw h o) s) (barring (.barAw h o) false s n) = (barring (.barAw h o) false s n).updCtx s.cur.1 s.cur.2
      (fun c => ((c.gates (.arrive n (found h s).iss .nothing 0 true)).toMark).waits (here (.barAw h o) s) (.barrier n none)) := by
    have hnone := (savedToken (found h s).a (pcOf s) n).2 hno
    have hhdr : (here (.barAw h o) s).hdr = pcOf s := rfl
    have hseq : (here (.barAw h o) s).seq = (found h s).iss := rfl
    simp only [arriveWait, barNo_eq, hn, haw, hhdr, hnone, hseq]
    rw [hgate, markAfter_eq, startWait_eq, here_core, here_slot, State.updCtx_updCtx, State.updCtx_updCtx]
    rfl
  obtain ⟨hbar, hset, hwin, -⟩ := barred _ hv
  rw [← ht] at hbar hset hwin
  have hsup : (atIssue (.barAw h o) false s).sup = false := (sup_atIssue ..).trans huser.1
  have hopen : (atIssue (.barAw h o) false s).fixOpen = true := (passed_fixOpen ..).trans huser.2
  have hitems : (atIssue (.barAw h o) false s).gatedItems = (found h s).gatedItems := passed_gatedItems ..
  rw [← hitems]
  generalize atIssue (.barAw h o) false s = y at *
  refine ⟨t, hx, hbar, hset Ctx.st fun _ => rfl, hset Ctx.wait fun _ => rfl, hwin ?_, hset Ctx.gatedItems fun _ => rfl⟩
  show (y.sup, y.fixOpen, true) = _
  rw [hsup, hopen]

/-- A saved token is judged, or still awaited (R273). -/
theorem barAw_resumes {tok : Option Nat} (hp : passes (.barAw h o) s = true) (haw : (found h s).a.aw = some (pcOf s, o.imm % 2 ^ 10, tok)) :
    ∃ t, exec (.barAw h o) s = .next t ∧ (t.core s.cur.1).barrier (o.imm % 2 ^ 10) = ((s.core s.cur.1).barrier (o.imm % 2 ^ 10)).claimed (found h s).team ∧
      (hand t).gatedItems = (found h s).gatedItems ∧ (hand t).a.aw = none ∧ (hand t).win = true ∧
      (∀ x, tok = some x → waitOver ((s.core s.cur.1).barrier (o.imm % 2 ^ 10)).phases x = true →
        (hand t).st = (found h s).st ∧ (hand t).wait = .none ∧ (hand t).time = max (atIssue (.barAw h o) false s).time (s.phaseEnd s.cur.1 (o.imm % 2 ^ 10) x)) ∧
      ((∀ x, tok = some x → waitOver ((s.core s.cur.1).barrier (o.imm % 2 ^ 10)).phases x = false) → (hand t).st = .waiting ∧
        (hand t).wait = .barrier (o.imm % 2 ^ 10) tok) := by
  obtain ⟨t, hx, ht, huser⟩ := exec_barAw hf hp
  have hread := aw_barring (h := h) (o := o) (s := s)
  have hsome := (savedToken (found h s).a (pcOf s) (o.imm % 2 ^ 10)).1 tok haw
  have hhdr : (here (.barAw h o) s).hdr = pcOf s := rfl
  generalize hn : o.imm % 2 ^ 10 = n at *
  cases tok with
  | some x =>
    have hv : arriveWait o (here (.barAw h o) s) (barring (.barAw h o) false s n) =
        waitToken n x (here (.barAw h o) s) (markAfter (here (.barAw h o) s) (barring (.barAw h o) false s n)) := by
      simp only [arriveWait, barNo_eq, hn, hread, hhdr, hsome]
    rw [hv] at ht
    obtain ⟨hbar, hwin, hnone, hitems, hover, hwaits⟩ := token_judged (i := .barAw h o) hf huser ht
    refine ⟨t, hx, hbar, hitems, hnone, hwin, ?_, fun hall => hwaits (hall x rfl)⟩
    intro y hy hyes
    obtain rfl := Option.some.inj hy
    exact hover hyes
  | none =>
    have hv : arriveWait o (here (.barAw h o) s) (barring (.barAw h o) false s n) =
        (barring (.barAw h o) false s n).updCtx s.cur.1 s.cur.2 (fun c => c.toMark.waits (here (.barAw h o) s) (.barrier n none)) := by
      simp only [arriveWait, barNo_eq, hn, hread, hhdr, hsome]
      rw [markAfter_eq, startWait_eq, here_core, here_slot, State.updCtx_updCtx]
    obtain ⟨hbar, hset, hwin, hnone⟩ := barred _ hv
    rw [← ht] at hbar hset hwin hnone
    have hsup : (atIssue (.barAw h o) false s).sup = false := (sup_atIssue ..).trans huser.1
    have hopen : (atIssue (.barAw h o) false s).fixOpen = true := (passed_fixOpen ..).trans huser.2
    have hitems : (atIssue (.barAw h o) false s).gatedItems = (found h s).gatedItems := passed_gatedItems ..
    rw [← hitems]
    generalize atIssue (.barAw h o) false s = y at *
    refine ⟨t, hx, hbar, hset Ctx.gatedItems fun _ => rfl, hnone hsup, hwin ?_, nofun, fun _ => ⟨hset Ctx.st fun _ => rfl, hset Ctx.wait fun _ => rfl⟩⟩
    show (y.sup, y.fixOpen, true) = _
    rw [hsup, hopen]

/-- `bar.query` reads the barrier, EXPECT and ARRIVED where they are counted (R257, R261). -/
theorem exec_barQuery (hp : passes (.barQuery h o) s = true) :
    let core := s.cur.1
    let n := o.imm % 2 ^ 10
    let old := (s.core core).barrier n
    let r := (s.core (if old.scope = 1 then old.root else core)).barrier n
    ∃ t, exec (.barQuery h o) s = .next t ∧ (t.core core).barrier n = old.claimed (found h s).team ∧
      (hand t).res = (found h s).res ++ [result (.barQuery h o) s 8 false ((found h s).dstS o.a) ((BitVec.ofNat 64 (r.expect % 2 ^ 16 +
        r.arrived % 2 ^ 16 * 2 ^ 16 + old.phases % 2 ^ 16 * 2 ^ 32 + old.scope * 2 ^ 48 + old.tx0 * 2 ^ 49 + old.ty0 * 2 ^ 53 +
        old.c * 2 ^ 57 + old.e * 2 ^ 60 + 2 ^ 63)).setWidth 512)] := by
  obtain ⟨hx, -⟩ := exec_bar (i := .barQuery h o) (m := semBarQuery o) (o := o) (op := 0x124)
    (eff := fun p s => produce p (.prod 8) ((p.ctx s).dstS o.a) ((queryBar o p s).setWidth 512) s) rfl rfl (fun _ _ => rfl) (fun _ _ hc => hc)
    (fun _ _ => rfl) (fun _ => rfl) (al := true) rfl hf hp
  rw [barNo_eq] at hx
  have hdst : ((here (.barQuery h o) s).ctx (barring (.barQuery h o) true s (o.imm % 2 ^ 10))).dstS o.a = (found h s).dstS o.a := by
    rw [here_ctx, ctx_barring]
    exact atIssue_dstS ..
  have hfields (d : Nat) := unclaimed_fields (unclaimed_barring (.barQuery h o) true s (o.imm % 2 ^ 10) d)
  have hword : queryBar o (here (.barQuery h o) s) (barring (.barQuery h o) true s (o.imm % 2 ^ 10)) =
      (((s.core s.cur.1).barrier (o.imm % 2 ^ 10)).claimed (found h s).team).word (s.counts (o.imm % 2 ^ 10)).expect (s.counts (o.imm % 2 ^ 10)).arrived := by
    rw [queryBar, barNo_eq, here_core, (hfields _).1, (hfields _).2.1, barrier_barring, countingCore_barring]
    rfl
  have hctx : produce (here (.barQuery h o) s) (.prod 8) ((found h s).dstS o.a) ((queryBar o (here (.barQuery h o) s)
      (barring (.barQuery h o) true s (o.imm % 2 ^ 10))).setWidth 512) (barring (.barQuery h o) true s (o.imm % 2 ^ 10)) =
      (barring (.barQuery h o) true s (o.imm % 2 ^ 10)).updCtx s.cur.1 s.cur.2 (fun c => c.push (result (.barQuery h o) s 8 false ((found h s).dstS o.a)
        ((queryBar o (here (.barQuery h o) s) (barring (.barQuery h o) true s (o.imm % 2 ^ 10))).setWidth 512))) := rfl
  rw [hdst] at hx
  obtain ⟨hbar, hset, -, -⟩ := barred _ hctx
  refine ⟨_, hx, hbar, (hset Ctx.res fun _ => rfl).trans ?_⟩
  rw [hword, word_claimed]
  exact congrArg (· ++ [_]) (res_atIssue ..)

end

end Sys2Proof.Machine

/-! ## Barriers that are set (O23) -/

namespace Sys2Proof.Machine
set_option Elab.async false

/-! ### Phases that complete (R259, R260) -/

theorem settle_fields (b : Barrier) :
    (b.settle.team = b.team ∧ b.settle.expect = b.expect ∧ b.settle.scope = b.scope ∧ b.settle.root = b.root ∧
      b.settle.tx0 = b.tx0 ∧ b.settle.ty0 = b.ty0 ∧ b.settle.c = b.c ∧ b.settle.e = b.e) ∧
    b.settle.arrived = (if b.expect = 0 then b.arrived else b.arrived % b.expect) ∧
    b.settle.phases = (if b.expect = 0 then b.phases else (b.phases + b.arrived / b.expect) % 2 ^ 16) := by
  by_cases h : b.expect = 0
  · have hs : b.settle = b := if_pos h
    rw [hs, if_pos h, if_pos h]
    exact ⟨⟨rfl, rfl, rfl, rfl, rfl, rfl, rfl, rfl⟩, rfl, rfl⟩
  · have hs : b.settle = _ := if_neg h
    rw [hs, if_neg h, if_neg h]
    exact ⟨⟨rfl, rfl, rfl, rfl, rfl, rfl, rfl, rfl⟩, rfl, rfl⟩

/-- What a core completes stays at its barrier: no other core's changes, and no init answer. -/
theorem completePhases_plain (s : State) (core n : Nat) :
    ((completePhases s core n).core core).barrier n = ((s.core core).barrier n).settle ∧
    (∀ d, d ≠ core → ((completePhases s core n).core d).barrier n = (s.core d).barrier n) ∧ (completePhases s core n).answers = s.answers := by
  have hset := barrier_updBar s core n fun _ => ((s.core core).barrier n).settle
  have hother (d : Nat) (hd : d ≠ core) := core_updBar_other s n (fun _ => ((s.core core).barrier n).settle) hd
  by_cases h : ((s.core core).barrier n).settle.phases = ((s.core core).barrier n).phases
  · rw [completePhases_counts h]
    exact ⟨hset, fun d hd => by rw [hother d hd], rfl⟩
  · unfold completePhases
    dsimp only
    rw [if_neg h]
    have hans : (s.updBar core n fun _ => ((s.core core).barrier n).settle).answers = s.answers := rfl
    generalize (if ((s.core core).barrier n).scope = 1 then _ else _ : List Release) = l
    generalize (s.updBar core n fun _ => ((s.core core).barrier n).settle) = u at *
    obtain ⟨hcore, hbar⟩ := releaseWaits_plain { u with rels := u.rels ++ l } core n
    refine ⟨(barrier_of_bar (hbar core) n).trans hset, fun d hd => (barrier_of_bar (hbar d) n).trans ?_, ?_⟩
    · exact congrArg (fun k : Core => k.barrier n) (hother d hd)
    · rw [← State.coreless_answers, hcore]
      exact hans

/-! ### `bar.init` (R259) -/

/-- A barrier with its EXPECT, scope and root set. -/
def Barrier.sets (b : Barrier) (expect : Nat) (k : Nat × Nat × Nat × Nat × Nat) (root arrived : Nat) : Barrier :=
  { b with expect := expect, scope := k.1, tx0 := k.2.1, ty0 := k.2.2.1, c := k.2.2.2.1, e := k.2.2.2.2, root := root, arrived := arrived }

/-- A core away from the root forwards what it has counted and asks the root for its PHASES. -/
def forwards (s : State) (core root n team : Nat) (old : Barrier) : State :=
  if barBusy s root n team then s else
  let s := claimBar s root n team
  let s := s.updBar root n (fun b => { b with arrived := b.arrived + old.arrived, times := b.times ++ old.times })
  let s := completePhases s root n
  { s with answers := s.answers ++ [{ core := core, n := n, phases := ((s.core root).barrier n).phases, root := root, team := team }] }

/-- The root that a scope names. -/
def rootOf (c : Ctx) (core : Nat) (k : Nat × Nat × Nat × Nat × Nat) : Nat := if k.1 = 1 then c.coreAt k.2.1 k.2.2.1 else core

theorem initBar_eq (o : SI) (p : At) (s : State) :
    let k := barScope o ((p.ctx s).getS o.b)
    let root := rootOf (p.ctx s) p.core k
    let t := s.updBar p.core (barNo o) (fun b => b.sets (fld ((p.ctx s).getS o.b) 0 16) k root (if root = p.core then b.arrived else 0))
    initBar o p s = if root = p.core then completePhases t p.core (barNo o)
      else forwards (t.updBar p.core (barNo o) (fun b => { b with times := [] })) p.core root (barNo o) (p.ctx s).team ((s.core p.core).barrier (barNo o)) := rfl

section
variable {o : SI} {p : At} {s : State} {n : Nat} (hn : barNo o = n)
include hn

/-- Where its own core counts, the barrier completes phases at once. -/
theorem initBar_root (hroot : rootOf (p.ctx s) p.core (barScope o ((p.ctx s).getS o.b)) = p.core) :
    ((initBar o p s).core p.core).barrier n = (((s.core p.core).barrier n).sets (fld ((p.ctx s).getS o.b) 0 16) (barScope o ((p.ctx s).getS o.b)) p.core
      ((s.core p.core).barrier n).arrived).settle := by
  subst hn
  rw [initBar_eq, hroot, if_pos rfl, (completePhases_plain ..).1, barrier_updBar, if_pos rfl]

omit hn in
/-- What a core away from the root leaves at its own barrier. -/
theorem forwards_plain (core root team : Nat) (old : Barrier) (hne : root ≠ core) :
    ((forwards s core root n team old).core core).barrier n = (s.core core).barrier n ∧
    (barBusy s root n team = true → forwards s core root n team old = s) ∧
    (barBusy s root n team = false → (forwards s core root n team old).answers = s.answers ++
        [{ core := core, n := n, phases := (((forwards s core root n team old).core root).barrier n).phases, root := root, team := team }] ∧
      (((s.core root).barrier n).expect = 0 →
        (((forwards s core root n team old).core root).barrier n).arrived = ((s.core root).barrier n).arrived + old.arrived)) := by
  cases hb : barBusy s root n team with
  | true =>
    have hf : forwards s core root n team old = s := if_pos hb
    exact ⟨by rw [hf], fun _ => hf, nofun⟩
  | false =>
    have hclaim := barrier_claimBar s root n team
    have hclaimo : (claimBar s root n team).core core = s.core core := core_updBar_other _ _ _ hne.symm
    have hjoin := barrier_updBar (claimBar s root n team) root n fun b => { b with arrived := b.arrived + old.arrived, times := b.times ++ old.times }
    have hjoino := core_updBar_other (claimBar s root n team) n (fun b => { b with arrived := b.arrived + old.arrived, times := b.times ++ old.times }) hne.symm
    have hans : ((claimBar s root n team).updBar root n fun b => { b with arrived := b.arrived + old.arrived, times := b.times ++ old.times }).answers = s.answers := rfl
    unfold forwards
    rw [hb, if_neg Bool.false_ne_true]
    dsimp only
    generalize ((claimBar s root n team).updBar root n fun b => { b with arrived := b.arrived + old.arrived, times := b.times ++ old.times }) = u at *
    obtain ⟨hroot, hother, hanswers⟩ := completePhases_plain u root n
    generalize completePhases u root n = v at *
    refine ⟨?_, nofun, fun _ => ⟨?_, fun he => ?_⟩⟩
    · show (v.core core).barrier n = _
      rw [hother core hne.symm, hjoino, hclaimo]
    · show v.answers ++ _ = _
      rw [hanswers, hans]
      rfl
    · show ((v.core root).barrier n).arrived = _
      obtain ⟨-, harrived, -⟩ := settle_fields ((u.core root).barrier n)
      have hexpect : ((u.core root).barrier n).expect = 0 := by
        rw [hjoin, hclaim]
        exact he
      rw [hroot, harrived, if_pos hexpect, hjoin, hclaim]
      rfl

end

end Sys2Proof.Machine

/-! ## What `bar.init` leaves (O23) -/

namespace Sys2Proof.Machine
set_option Elab.async false

/-- SCOPE, TX0, TY0, C and E of `bar.init`, each 0 without SCOPE. -/
theorem barScope_eq (o : SI) (v : Word) : barScope o v = (bits o.imm 10 1, (if bits o.imm 10 1 = 1 then bits v.toNat 16 4 else 0),
    (if bits o.imm 10 1 = 1 then bits v.toNat 20 4 else 0), (if bits o.imm 10 1 = 1 then bits v.toNat 24 3 else 0),
    (if bits o.imm 10 1 = 1 then bits v.toNat 27 3 else 0)) := by
  unfold barScope
  by_cases h : bits o.imm 10 1 = 1
  · simp only [fld, h, if_true]
  · have h0 : bits o.imm 10 1 = 0 := by
      have : bits o.imm 10 1 < 2 := Nat.mod_lt _ (by decide)
      omega
    simp only [h0]
    rfl

theorem rootOf_barScope (c : Ctx) (core : Nat) (o : SI) (v : Word) :
    rootOf c core (barScope o v) = if bits o.imm 10 1 = 1 then c.coreAt (bits v.toNat 16 4) (bits v.toNat 20 4) else core := by
  rw [barScope_eq, rootOf]
  by_cases h : bits o.imm 10 1 = 1
  · simp only [h, if_true]
  · simp only [h, if_false]

section
variable {o : SI} {p : At} {s : State} {n root : Nat} (hn : barNo o = n)
include hn

/-- Away from the root a core forwards what it has counted (log entries 28 and 124). -/
theorem initBar_away (hroot : rootOf (p.ctx s) p.core (barScope o ((p.ctx s).getS o.b)) = root) (hne : root ≠ p.core) :
    ((initBar o p s).core p.core).barrier n = { ((s.core p.core).barrier n).sets (fld ((p.ctx s).getS o.b) 0 16) (barScope o ((p.ctx s).getS o.b)) root 0 with times := [] } ∧
    (barBusy s root n (p.ctx s).team = true → (initBar o p s).answers = s.answers ∧ ((initBar o p s).core root).barrier n = (s.core root).barrier n) ∧
    (barBusy s root n (p.ctx s).team = false → (initBar o p s).answers = s.answers ++
        [{ core := p.core, n := n, phases := (((initBar o p s).core root).barrier n).phases, root := root, team := (p.ctx s).team }] ∧
      (((s.core root).barrier n).expect = 0 →
        (((initBar o p s).core root).barrier n).arrived = ((s.core root).barrier n).arrived + ((s.core p.core).barrier n).arrived)) := by
  subst hn
  rw [initBar_eq, hroot, if_neg hne]
  have hset := barrier_updBar s p.core (barNo o) fun b => b.sets (fld ((p.ctx s).getS o.b) 0 16) (barScope o ((p.ctx s).getS o.b)) root (if root = p.core then b.arrived else 0)
  have hseto := core_updBar_other s (barNo o)
    (fun b => b.sets (fld ((p.ctx s).getS o.b) 0 16) (barScope o ((p.ctx s).getS o.b)) root (if root = p.core then b.arrived else 0)) hne
  have hans : (s.updBar p.core (barNo o)
    fun b => b.sets (fld ((p.ctx s).getS o.b) 0 16) (barScope o ((p.ctx s).getS o.b)) root (if root = p.core then b.arrived else 0)).answers = s.answers := rfl
  rw [if_neg hne] at hset
  generalize (s.updBar p.core (barNo o)
    fun b => b.sets (fld ((p.ctx s).getS o.b) 0 16) (barScope o ((p.ctx s).getS o.b)) root (if root = p.core then b.arrived else 0)) = u at *
  have htimes := barrier_updBar u p.core (barNo o) fun b => { b with times := [] }
  have htimeso := core_updBar_other u (barNo o) (fun b => { b with times := [] }) hne
  have hans' : (u.updBar p.core (barNo o) fun b => { b with times := [] }).answers = u.answers := rfl
  generalize (u.updBar p.core (barNo o) fun b => { b with times := [] }) = v at *
  have hcore : v.core root = s.core root := htimeso.trans hseto
  have hbusy (team : Nat) : barBusy v root (barNo o) team = barBusy s root (barNo o) team := by rw [barBusy, hcore]; rfl
  obtain ⟨hown, hyes, hno⟩ := forwards_plain (s := v) (n := barNo o) p.core root (p.ctx s).team ((s.core p.core).barrier (barNo o)) hne
  rw [hbusy, hcore, hans', hans] at hno
  rw [hbusy] at hyes
  refine ⟨by rw [hown, htimes, hset], fun hb => ?_, hno⟩
  rw [hyes hb, hcore]
  exact ⟨hans'.trans hans, rfl⟩

end

theorem barBusy_barring (i : Instr) (al : Bool) (s : State) (n team : Nat) {root : Nat} (hne : root ≠ s.cur.1) :
    ((barring i al s n).core root).barrier n = (s.core root).barrier n ∧ barBusy (barring i al s n) root n team = barBusy s root n team := by
  have hcore : (barring i al s n).core root = (issuing i al s).core root := by rw [barring, claimBar, core_updBar_other _ _ _ hne]
  have hb : ((barring i al s n).core root).barrier n = (s.core root).barrier n := by
    rw [hcore]
    exact barrier_of_bar (bar_issuing i al s root) n
  exact ⟨hb, by simp only [barBusy, hb]⟩

theorem answers_claimBar (s : State) (core n team : Nat) : (claimBar s core n team).answers = s.answers := rfl

theorem answers_barring (i : Instr) (al : Bool) (s : State) (n : Nat) : (barring i al s n).answers = s.answers := by
  rw [barring, answers_claimBar]
  rfl

theorem answers_issued (i : Instr) (al : Bool) (s : State) (eff : State → State) (g : Option Nat) :
    (issued i al s eff g id).answers = (eff (issuing i al s)).answers := by
  have hctx (t : State) (c i : Nat) (f : Ctx → Ctx) : (t.updCtx c i f).answers = t.answers := rfl
  have hcore (t : State) (c : Nat) (f : Core → Core) : (t.updCore c f).answers = t.answers := rfl
  rw [issued_eq, counted, hctx, hcore, id, ending, hctx]

section
variable {h : Head} {o : SI} {s : State} (hf : free h s = true)
include hf

/-- `bar.init` sets its barrier: the core that counts completes phases, another forwards its arrivals (R259). -/
theorem exec_barInit (hp : passes (.barInit h o) s = true) :
    let n := o.imm % 2 ^ 10
    ∃ t, exec (.barInit h o) s = .next t ∧ t.answers = (initBar o (here (.barInit h o) s) (barring (.barInit h o) false s n)).answers ∧
      ∀ d, (t.core d).barrier n = ((initBar o (here (.barInit h o) s) (barring (.barInit h o) false s n)).core d).barrier n := by
  obtain ⟨hx, -⟩ := exec_bar (i := .barInit h o) (m := semBarInit o) (o := o) (op := 0x120) (eff := initBar o) rfl rfl (fun _ _ => rfl) (fun _ _ hc => hc)
    (fun _ _ => rfl) (fun _ => rfl) (al := false) rfl hf hp
  rw [barNo_eq] at hx
  exact ⟨_, hx, answers_issued .., fun d => barrier_issued ..⟩

end

/-- Settles O23: each bar form that passes claims its barrier and takes effect in user mode in an open region. -/
theorem barriers : Obligations.Barriers := by
  unfold Obligations.Barriers
  intro h o s hf
  dsimp only
  refine ⟨exec_barArrive hf, ?wait, ?waits, fun hp hno => barAw_arrives hf hp hno, fun tok hp haw => ?aw, exec_barQuery hf, fun hp => ?init⟩
  case wait =>
    intro hp hover
    obtain ⟨t, hx, ht, huser⟩ := exec_barWait hf hp
    obtain ⟨hbar, hwin, -, -, hjudge, -⟩ := token_judged (i := .barWait h o) hf huser ht
    obtain ⟨hst, hwait, htime⟩ := hjudge hover
    rw [State.phaseEnd, Nat.mod_mod] at htime
    exact ⟨t, hx, hbar, hst, hwait, htime, hwin⟩
  case waits =>
    intro hp hover
    obtain ⟨t, hx, ht, huser⟩ := exec_barWait hf hp
    obtain ⟨hbar, hwin, -, -, -, hjudge⟩ := token_judged (i := .barWait h o) hf huser ht
    obtain ⟨hst, hwait⟩ := hjudge hover
    exact ⟨t, hx, hbar, hst, hwait, hwin⟩
  case aw =>
    obtain ⟨t, hx, hbar, hitems, haw, hwin, hover, hwaits⟩ := barAw_resumes hf hp haw
    refine ⟨t, hx, hbar, hitems, haw, hwin, fun x hx hlt hyes => ?_, hwaits⟩
    have hend := hover x hx hyes
    rwa [State.phaseEnd, Nat.mod_eq_of_lt hlt] at hend
  case init =>
    obtain ⟨t, hx, hanswers, hbars⟩ := exec_barInit hf hp
    refine ⟨t, hx, ?_⟩
    have hctx : (here (.barInit h o) s).ctx (barring (.barInit h o) false s (o.imm % 2 ^ 10)) = atIssue (.barInit h o) false s := ctx_barring ..
    have hv : (atIssue (.barInit h o) false s).getS o.b = (found h s).getS o.b := atIssue_getS ..
    have hteam : (atIssue (.barInit h o) false s).team = (found h s).team := passed_team ..
    have hcoreAt (x y : Nat) : (atIssue (.barInit h o) false s).coreAt x y = (found h s).coreAt x y := by
      have hx₀ : (atIssue (.barInit h o) false s).x0 = (found h s).x0 := passed_x0 ..
      have hy₀ : (atIssue (.barInit h o) false s).y0 = (found h s).y0 := passed_y0 ..
      rw [Ctx.coreAt, hx₀, hy₀]
      rfl
    have hroot := rootOf_barScope (atIssue (.barInit h o) false s) s.cur.1 o ((found h s).getS o.b)
    rw [hcoreAt] at hroot
    have hatroot := initBar_root (o := o) (p := here (.barInit h o) s) (s := barring (.barInit h o) false s (o.imm % 2 ^ 10)) (barNo_eq o)
    have haway (root : Nat) := initBar_away (o := o) (p := here (.barInit h o) s) (s := barring (.barInit h o) false s (o.imm % 2 ^ 10)) (root := root) (barNo_eq o)
    have hother (root : Nat) := barBusy_barring (.barInit h o) false s (o.imm % 2 ^ 10) (found h s).team (root := root)
    have hans := answers_barring (.barInit h o) false s (o.imm % 2 ^ 10)
    simp only [hctx, hv, hteam, here_core, barrier_barring, hroot, hans] at hatroot haway
    simp only [← hbars, ← hanswers, fld_low16, barScope_eq] at hatroot haway
    generalize (if bits o.imm 10 1 = 1 then (found h s).coreAt (bits ((found h s).getS o.b).toNat 16 4) (bits ((found h s).getS o.b).toNat 20 4) else s.cur.1) = root at *
    by_cases hr : root = s.cur.1
    · subst hr
      rw [hatroot rfl]
      obtain ⟨⟨hteam, hexpect, hscope, hroot, htx, hty, hc, he⟩, harrived, hphases⟩ := settle_fields
        ((((s.core s.cur.1).barrier (o.imm % 2 ^ 10)).claimed (found h s).team).sets (((found h s).getS o.b).toNat % 2 ^ 16) _ s.cur.1
          (((s.core s.cur.1).barrier (o.imm % 2 ^ 10)).claimed (found h s).team).arrived)
      exact ⟨hteam, hexpect, hscope, hroot, htx, hty, hc, he, fun _ => ⟨harrived, hphases⟩, fun hne => absurd rfl hne⟩
    · obtain ⟨hown, hbusy, hfree⟩ := haway root rfl hr
      rw [(hother root hr).2] at hbusy hfree
      rw [(hother root hr).1] at hbusy hfree
      rw [hown]
      exact ⟨rfl, rfl, rfl, rfl, rfl, rfl, rfl, rfl, fun hroot => absurd hroot hr, fun _ => ⟨rfl, rfl, hbusy, hfree⟩⟩

end Sys2Proof.Machine

/-! ## Fields of descriptors (R188, R200) -/

namespace Sys2Proof.Machine
set_option Elab.async false

theorem add_mul_lt {a b r n : Nat} (hr : r < n) (ha : a < b) : r + n * a < n * b :=
  calc r + n * a < n + n * a := Nat.add_lt_add_right hr _
    _ = n * (a + 1) := by rw [Nat.mul_add, Nat.mul_one, Nat.add_comm]
    _ ≤ n * b := Nat.mul_le_mul_left n ha

section
variable {w : Nat} (v : BitVec w) {lo len x : Nat} (h : lo + len ≤ w)
include h

/-- A vector with one field put, in its three parts. -/
theorem toNat_setFld : (setFld v lo len x).toNat = v.toNat % 2 ^ lo + 2 ^ lo * (x % 2 ^ len + 2 ^ len * (v.toNat / 2 ^ (lo + len))) := by
  have hv := toNat_eq_fields v lo len
  have htop : v.toNat / 2 ^ lo / 2 ^ len = v.toNat / 2 ^ (lo + len) := by rw [Nat.div_div_eq_div_mul, ← Nat.pow_add]
  rw [htop] at hv
  have hset : v.toNat - fld v lo len * 2 ^ lo + x % 2 ^ len * 2 ^ lo =
      v.toNat % 2 ^ lo + 2 ^ lo * (x % 2 ^ len + 2 ^ len * (v.toNat / 2 ^ (lo + len))) := by
    rw [Nat.mul_add, Nat.mul_comm (2 ^ lo) (2 ^ len * _), Nat.mul_comm (2 ^ len) (v.toNat / 2 ^ (lo + len)), Nat.mul_comm (2 ^ lo)]
    omega
  obtain ⟨r, rfl⟩ := Nat.exists_eq_add_of_le h
  have hlt : v.toNat / 2 ^ (lo + len) < 2 ^ r := Nat.div_lt_of_lt_mul (by rw [← Nat.pow_add]; exact v.isLt)
  have hbound := add_mul_lt (Nat.mod_lt v.toNat (Nat.two_pow_pos lo)) (add_mul_lt (Nat.mod_lt x (Nat.two_pow_pos len)) hlt)
  rw [← Nat.pow_add, ← Nat.pow_add, ← Nat.add_assoc] at hbound
  rw [setFld, BitVec.toNat_ofNat, hset, Nat.mod_eq_of_lt hbound]

/-- The fields below one that is put stay. -/
theorem fld_setFld_below {l n : Nat} (hl : l + n ≤ lo) : fld (setFld v lo len x) l n = fld v l n := by
  have hmod : (setFld v lo len x).toNat % 2 ^ (l + n) = v.toNat % 2 ^ (l + n) := by
    rw [← Nat.mod_mod_of_dvd _ (Nat.pow_dvd_pow 2 hl), toNat_setFld v h, Nat.add_mul_mod_self_left, Nat.mod_mod,
      Nat.mod_mod_of_dvd _ (Nat.pow_dvd_pow 2 hl)]
  rw [fld, fld, bits_eq_mod_div, bits_eq_mod_div, hmod]

/-- And so do those above it. -/
theorem fld_setFld_above {l n : Nat} (hl : lo + len ≤ l) : fld (setFld v lo len x) l n = fld v l n := by
  have hdiv : (setFld v lo len x).toNat / 2 ^ (lo + len) = v.toNat / 2 ^ (lo + len) := by
    rw [toNat_setFld v h, Nat.pow_add, ← Nat.div_div_eq_div_mul, Nat.add_mul_div_left _ _ (Nat.two_pow_pos lo),
      Nat.div_eq_of_lt (Nat.mod_lt _ (Nat.two_pow_pos lo)), Nat.zero_add, Nat.add_mul_div_left _ _ (Nat.two_pow_pos len),
      Nat.div_eq_of_lt (Nat.mod_lt _ (Nat.two_pow_pos len)), Nat.zero_add]
  obtain ⟨r, rfl⟩ := Nat.exists_eq_add_of_le hl
  rw [fld, fld, bits, bits, Nat.pow_add 2 (lo + len) r, ← Nat.div_div_eq_div_mul, hdiv, ← Nat.div_div_eq_div_mul]

end

/-! ### What tile management writes -/

section
variable (d : BitVec 128)

theorem setState_fields (v : Nat) :
    let e := setFld d 118 2 v
    dState e = v % 4 ∧ dBase e = dBase d ∧ dView e = dView d ∧ dRows e = dRows d ∧ dCols e = dCols d ∧ dVRows e = dVRows d ∧ dVCols e = dVCols d ∧
    dPitch e = dPitch d ∧ dFmt e = dFmt d ∧ dStep e = dStep d := by
  have hbelow {l n : Nat} (hl : l + n ≤ 118) := fld_setFld_below d (lo := 118) (len := 2) (x := v) (by decide) hl
  dsimp only
  unfold dState dBase dView dRows dCols dVRows dVCols dPitch dFmt dStep
  refine ⟨fld_setFld_same d 118 2 v (by decide), ?_⟩
  simp (disch := decide) only [hbelow, and_self]

theorem emptied_fields :
    let e := setFld (setFld d 118 2 0) 120 1 0
    dState e = 0 ∧ dBase e = dBase d ∧ dView e = dView d ∧ dRows e = dRows d ∧ dCols e = dCols d ∧ dVRows e = dVRows d ∧ dVCols e = dVCols d ∧
    dPitch e = dPitch d ∧ dFmt e = dFmt d ∧ dStep e = dStep d := by
  have hbelow {l n : Nat} (hl : l + n ≤ 120) := fld_setFld_below (setFld d 118 2 0) (lo := 120) (len := 1) (x := 0) (by decide) hl
  have hstate := setState_fields d 0
  revert hstate
  dsimp only
  unfold dState dBase dView dRows dCols dVRows dVCols dPitch dFmt dStep
  simp (disch := decide) only [hbelow, imp_self]

theorem setView_fields (v : Nat) :
    let e := setFld d 25 1 v
    dView e = (v % 2 == 1) ∧ dBase e = dBase d ∧ dVRows e = dVRows d ∧ dVCols e = dVCols d := by
  have habove {l n : Nat} (hl : 25 + 1 ≤ l) := fld_setFld_above d (lo := 25) (len := 1) (x := v) (by decide) (n := n) hl
  dsimp only
  unfold dView dBase dVRows dVCols
  rw [fld_setFld_same d 25 1 v (by decide), fld_setFld_below d (lo := 25) (by decide) (by decide)]
  simp (disch := decide) only [habove, pow_one, and_self]

theorem dRows_lt : dRows d ≤ 256 := Nat.succ_le_of_lt (fld_lt d 26 8)

theorem dCols_lt : dCols d ≤ 512 := Nat.succ_le_of_lt (fld_lt d 34 9)

theorem setShape_fields (r c : Nat) :
    let e := setShape d r c
    dVRows e = min r (dRows d) ∧ dVCols e = min c (dCols d) ∧ dBase e = dBase d ∧ dFmt e = dFmt d ∧ dState e = dState d := by
  have hr : min r (dRows d) < 2 ^ 9 := lt_of_le_of_lt (Nat.min_le_right ..) (lt_of_le_of_lt (dRows_lt d) (by decide))
  have hc : min c (dCols d) < 2 ^ 10 := lt_of_le_of_lt (Nat.min_le_right ..) (lt_of_le_of_lt (dCols_lt d) (by decide))
  dsimp only
  unfold setShape
  generalize min r (dRows d) = x at *
  generalize min c (dCols d) = y at *
  have hbelow₂ {l n : Nat} (hl : l + n ≤ 52) := fld_setFld_below (setFld d 43 9 x) (lo := 52) (len := 10) (x := y) (by decide) hl
  have habove₂ {l n : Nat} (hl : 52 + 10 ≤ l) := fld_setFld_above (setFld d 43 9 x) (lo := 52) (len := 10) (x := y) (by decide) (n := n) hl
  have hbelow {l n : Nat} (hl : l + n ≤ 43) := fld_setFld_below d (lo := 43) (len := 9) (x := x) (by decide) hl
  have habove {l n : Nat} (hl : 43 + 9 ≤ l) := fld_setFld_above d (lo := 43) (len := 9) (x := x) (by decide) (n := n) hl
  unfold dVRows dVCols dBase dFmt dState
  rw [fld_setFld_same _ 52 10 y (by decide), Nat.mod_eq_of_lt hc, hbelow₂ (by decide), fld_setFld_same d 43 9 x (by decide), Nat.mod_eq_of_lt hr]
  simp (disch := decide) only [hbelow₂, habove₂, hbelow, habove, and_self]

theorem setStep_fields {x : Int} (hlo : -0x800000 ≤ x) (hhi : x < 0x800000) :
    let e := setStep d x
    dStep e = x ∧ dBase e = dBase d ∧ dVRows e = dVRows d ∧ dVCols e = dVCols d := by
  have hbelow {l n : Nat} (hl : l + n ≤ 94) := fld_setFld_below d (lo := 94) (len := 24) (x := (BitVec.ofInt 24 x).toNat) (by decide) hl
  dsimp only
  unfold setStep dStep dBase dVRows dVCols
  rw [fld_setFld_same d 94 24 _ (by decide), Nat.mod_eq_of_lt (BitVec.isLt _), sNat_eq_toInt, BitVec.ofNat_toNat, BitVec.setWidth_eq,
    BitVec.toInt_ofInt]
  refine ⟨?_, ?_⟩
  · rw [Int.bmod_def]
    omega
  · simp (disch := decide) only [hbelow, and_self]

theorem dStep_bounds : -0x800000 ≤ dStep d ∧ dStep d < 0x800000 := by
  unfold dStep
  rw [sNat_eq_toInt]
  generalize BitVec.ofNat 24 _ = v
  have := v.le_toInt
  have := v.toInt_lt
  simp only [Nat.add_one_sub_one] at *
  omega

end

theorem clampCount_le (v : XVal) (n : Nat) : clampCount v n ≤ n := by
  unfold clampCount
  split
  · exact le_rfl
  · exact Nat.min_le_left ..

theorem clampStep_bounds (v : XVal) : -0x800000 ≤ clampStep v ∧ clampStep v < 0x800000 := by
  unfold clampStep
  split
  · split <;> decide
  · omega

end Sys2Proof.Machine

/-! ## Tile management (O26) -/

namespace Sys2Proof.Machine
set_option Elab.async false

theorem t_setStatus (a : Arch) (t : Nat) (w : Word) : (a.setStatus t w).t = a.t := rfl

theorem t_applyCnt (seq : Nat) (p : Ctx × Seen) (c : Cnt) : (applyCnt seq p c).1.a.t = p.1.a.t := by
  unfold applyCnt Ctx.apply
  dsimp only
  split
  · rfl
  · split
    · exact t_setStatus _ _ _
    · rfl

/-- Counts go into status words: descriptors stay (R151). -/
theorem t_applyCnts (c : Ctx) (seq : Nat) (l : List Cnt) : (applyCnts c seq l).a.t = c.a.t :=
  List.foldlRecOn (motive := fun p : Ctx × Seen => p.1.a.t = c.a.t) l (applyCnt seq) rfl (fun p hp x _ => (t_applyCnt seq p x).trans hp)

theorem tileTrap_none {code t : Nat} {b : Bool} (h : tileTrap code t b = none) : b = false := by
  unfold tileTrap at h
  cases b
  · rfl
  · cases h

section
variable {i : Instr} {m : SlotSem} {o : VT} {s : State} {l src : List Nat} {chk : At → State → Option Trap} {eff : At → State → State}

/-- Tile management names tiles, no accumulator (R190). -/
theorem td_of_passes (hm : slotSem i = m) (hc : ∀ p s, m.chk p s = firstOf [accNamed (o.td :: l), chk p s]) (hp : passes i s = true) : o.td < 64 := by
  have hchk := ((passes_iff i s).mp hp).chk
  rw [hm, hc] at hchk
  have h := tileTrap_none (of_firstOf_none (of_firstOf_none hchk))
  simpa using h

end

section
variable {i : Instr} {s : State} {eff : State → State} {td : Nat} {d : BitVec 128}

/-- A lone slot that writes one descriptor leaves the others. -/
theorem leaves_desc (hcur : (eff (issuing i false s)).cur = s.cur)
    (ht : ((eff (issuing i false s)).ctx s.cur.1 s.cur.2).a.t = (found (headOf i) s).a.t.set td d 0) (htd : td < 64) :
    (hand (issued i false s eff none id)).a.desc td = d ∧
    ∀ u, u ≠ td → (hand (issued i false s eff none id)).a.desc u = (found (headOf i) s).a.desc u := by
  have htab : (hand (issued i false s eff none id)).a.t = (found (headOf i) s).a.t.set td d 0 :=
    (proj_issued (fun c => c.a.t) (fun _ => rfl) hcur).trans ht
  have hdesc (u : Nat) : (hand (issued i false s eff none id)).a.desc u =
      if u < 64 then ((found (headOf i) s).a.t.set td d 0).get u 0 else accDesc := by rw [Arch.desc, htab]
  refine ⟨by rw [hdesc, if_pos htd, Tab.get_set_same], fun u hu => ?_⟩
  rw [hdesc, Tab.get_set_other _ _ _ _ _ _ hu]
  rfl

theorem t_atIssue (i : Instr) (al : Bool) (s : State) : (atIssue i al s).a.t = (found (headOf i) s).a.t := passed_a_t ..

/-- An update of the descriptor of td. -/
theorem updDesc_table {p : At} {u : State} {f : BitVec 128 → BitVec 128} (htd : td < 64) :
    ((updDesc p td f u).ctx p.core p.slot).a.t = ((u.ctx p.core p.slot).a.t).set td (f ((u.ctx p.core p.slot).a.t.get td 0)) 0 := by
  rw [updDesc, State.ctx_updCtx, Arch.setDesc, Arch.desc, if_pos htd]

theorem tstate_of_lt (a : Arch) {t : Nat} (h : t < 64) : a.tstate t = dState (a.desc t) := if_pos h

end

section
variable {i : Instr} {m : SlotSem} {o : VT} {s : State} (hx : (slotParts i).isSome = true) (hm : slotSem i = m) (hf : free (headOf i) s = true)
  (hp : passes i s = true) (hg : ∀ p t, m.goes p t = none) (hfin : ∀ p, m.fin p = id) (hl : (m.lat != .now) = false) (htd : o.td < 64)
include hx hm hf hp hg hfin hl htd

/-- A lone slot whose effect updates the descriptor of td. -/
theorem exec_updDesc {f : BitVec 128 → BitVec 128} (he : m.eff (here i s) (issuing i false s) = updDesc (here i s) o.td f (issuing i false s)) :
    ∃ t, exec i s = .next t ∧ (hand t).a.desc o.td = f ((found (headOf i) s).a.desc o.td) ∧
      ∀ u, u ≠ o.td → (hand t).a.desc u = (found (headOf i) s).a.desc u := by
  have htab : ((m.eff (here i s) (issuing i false s)).ctx s.cur.1 s.cur.2).a.t =
      (found (headOf i) s).a.t.set o.td (f ((found (headOf i) s).a.desc o.td)) 0 := by
    have h := updDesc_table (p := here i s) (u := issuing i false s) (f := f) htd
    rw [here_core, here_slot, ctx_issuing, t_atIssue] at h
    rw [he, h, Arch.desc, if_pos htd]
  exact ⟨_, exec_passes hx hm hf hp hg hfin hl, leaves_desc (by rw [he]; rfl) htab htd⟩

end

end Sys2Proof.Machine

/-! ## The tile management instructions, one by one (O26) -/

namespace Sys2Proof.Machine
set_option Elab.async false

/-! ### Elements read at an issue -/

theorem elemTiles_atIssue (i : Instr) (al : Bool) (s : State) (o : VT) : elemTiles (atIssue i al s).a o = elemTiles (found (headOf i) s).a o := by
  rw [a_atIssue]
  rfl

/-- Elements that pass their check are read, and no descriptor changes. -/
theorem withElems_good {o : VT} {p : At} {s : State} {e : Env} (he : issueEnv p s (elemTiles (p.ctx s).a o) = e) (n : Nat) (eff : List XVal → State → State)
    (hgood : ∀ j, e.elemBad o.ta 0 j = false) :
    ∃ u, withElems o n p s eff = eff ((List.range n).map (fun j => (e.decode (fvRd e) o.ta 0 j).1)) u ∧ u.cur = s.cur ∧
      (u.ctx p.core p.slot).a.t = (s.ctx p.core p.slot).a.t := by
  have hk := KeepsCtx.touch (g := fun c => c.a.t) e false ((List.range n).map (fun j => (o.ta, 0, j))) (s, (p.ctx s).time)
  unfold withElems
  dsimp only
  rw [he, readAtIssue_good]
  · generalize e.touch false ((List.range n).map (fun j => (o.ta, 0, j))) (s, (p.ctx s).time) = x at hk
    rw [List.map_map]
    refine ⟨_, rfl, hk.cur, ?_⟩
    rw [State.ctx_updCtx, t_applyCnts, State.ctx_updCtx]
    exact hk.ctx ..
  · intro x hx
    obtain ⟨j, -, rfl⟩ := List.mem_map.mp hx
    exact hgood j

section
variable {i : Instr} {m : SlotSem} {o : VT} {s : State} (hx : (slotParts i).isSome = true) (hm : slotSem i = m) (hf : free (headOf i) s = true)
  (hp : passes i s = true) (hg : ∀ p t, m.goes p t = none) (hfin : ∀ p, m.fin p = id) (hl : (m.lat != .now) = false) (htd : o.td < 64)
  (hgood : ∀ j, (elemEnv o i s).elemBad o.ta 0 j = false)
include hx hm hf hp hg hfin hl htd hgood

/-- A lone slot that updates the descriptor of td by elements that it reads. -/
theorem exec_updElems {n : Nat} {f : List XVal → BitVec 128 → BitVec 128}
    (he : m.eff (here i s) (issuing i false s) = withElems o n (here i s) (issuing i false s) (fun l => updDesc (here i s) o.td (f l))) :
    ∃ t, exec i s = .next t ∧
      (hand t).a.desc o.td = f ((List.range n).map (fun j => ((elemEnv o i s).decode (fvRd (elemEnv o i s)) o.ta 0 j).1)) ((found (headOf i) s).a.desc o.td) ∧
      ∀ u, u ≠ o.td → (hand t).a.desc u = (found (headOf i) s).a.desc u := by
  have henv : issueEnv (here i s) (issuing i false s) (elemTiles ((here i s).ctx (issuing i false s)).a o) = elemEnv o i s := by
    rw [here_ctx, ctx_issuing, elemTiles_atIssue]
    rfl
  obtain ⟨u, hu, hcur, htab⟩ := withElems_good henv n (fun l => updDesc (here i s) o.td (f l)) hgood
  rw [here_core, here_slot, ctx_issuing, t_atIssue] at htab
  have heff := he.trans hu
  generalize (List.range n).map (fun j => ((elemEnv o i s).decode (fvRd (elemEnv o i s)) o.ta 0 j).1) = vals at *
  have hdesc : ((m.eff (here i s) (issuing i false s)).ctx s.cur.1 s.cur.2).a.t =
      (found (headOf i) s).a.t.set o.td (f vals ((found (headOf i) s).a.desc o.td)) 0 := by
    have h := updDesc_table (p := here i s) (u := u) (f := f vals) htd
    rw [here_core, here_slot, htab] at h
    rw [heff, h, Arch.desc, if_pos htd]
  exact ⟨_, exec_passes hx hm hf hp hg hfin hl, leaves_desc (by rw [heff]; exact hcur) hdesc htd⟩

end

/-! ### `tdef` -/

theorem status_setStatus (a : Arch) (t : Nat) (w : Word) : (a.setStatus t w).status t = w := Tab.get_set_same ..

section
variable {h : Head} {o : VT} {s : State} {ob : Obj} {hd : CodeHdr} (hob : s.objOf (found h s).part (found h s).codeOid = some ob) (hhd : ob.hdr = some hd)
include hob hhd

theorem tileTable_found : tileTable (found h s) s = hd.tiles := by
  simp only [tileTable, hob, Option.bind_some, hhd]

theorem tileTable_judged : tileTable ((here (.tdef h o) s).ctx (judged h s)) (judged h s) = hd.tiles := by
  rw [here_ctx, ctx_judged]
  exact tileTable_found hob hhd

theorem tileTable_issuing : tileTable ((here (.tdef h o) s).ctx (issuing (.tdef h o) false s)) (issuing (.tdef h o) false s) = hd.tiles := by
  have hpart : (atIssue (.tdef h o) false s).part = (found h s).part := passed_part ..
  have hoid : (atIssue (.tdef h o) false s).codeOid = (found h s).codeOid := passed_codeOid ..
  have hobj : (issuing (.tdef h o) false s).objOf (found h s).part (found h s).codeOid = some ob := hob
  rw [here_ctx, ctx_issuing, tileTable, hpart, hoid, hobj, Option.bind_some, hhd]

/-- `tdef` writes the entry of the descriptor table, empty, and clears the tile's status. -/
theorem exec_tdef {d : BitVec 128} (hf : free h s = true) (hp : passes (.tdef h o) s = true) (hd' : hd.tiles[o.ta]? = some d) :
    ∃ t, exec (.tdef h o) s = .next t ∧ (hand t).a.desc o.td = setFld (setFld d 118 2 0) 120 1 0 ∧ (hand t).a.status o.td = 0 ∧ o.td < 64 ∧
      ∀ u, u ≠ o.td → (hand t).a.desc u = (found h s).a.desc u := by
  have htd := td_of_passes (i := .tdef h o) (m := semTdef o) rfl (fun _ _ => rfl) hp
  have heff : (semTdef o).eff (here (.tdef h o) s) (issuing (.tdef h o) false s) = (issuing (.tdef h o) false s).updCtx s.cur.1 s.cur.2 (fun c =>
      { c with a := (c.a.setDesc o.td (setFld (setFld (((tileTable ((here (.tdef h o) s).ctx (issuing (.tdef h o) false s)) (issuing (.tdef h o) false s))[o.ta]?).getD 0)
        118 2 0) 120 1 0)).setStatus o.td 0 }) := rfl
  rw [tileTable_issuing hob hhd, hd', Option.getD_some] at heff
  generalize setFld (setFld d 118 2 0) 120 1 0 = e at *
  have hcur : ((semTdef o).eff (here (.tdef h o) s) (issuing (.tdef h o) false s)).cur = s.cur := by rw [heff]; rfl
  have hctx : ((semTdef o).eff (here (.tdef h o) s) (issuing (.tdef h o) false s)).ctx s.cur.1 s.cur.2 =
      { atIssue (.tdef h o) false s with a := ((atIssue (.tdef h o) false s).a.setDesc o.td e).setStatus o.td 0 } := by
    rw [heff, State.ctx_updCtx, ctx_issuing]
  obtain ⟨hdesc, hothers⟩ := leaves_desc (i := .tdef h o) hcur (d := e) (by rw [hctx, t_setStatus, Arch.setDesc, t_atIssue]) htd
  refine ⟨_, exec_passes (i := .tdef h o) (m := semTdef o) rfl rfl hf hp (fun _ _ => rfl) (fun _ => rfl) (al := false) rfl, hdesc, ?_, htd, hothers⟩
  refine (proj_issued (fun c => c.a.status o.td) (fun _ => rfl) hcur).trans ?_
  rw [hctx]
  exact status_setStatus _ _ _

/-- An index at or beyond the table's length is TILE_DESC (log entry 112). -/
theorem exec_tdef_beyond (hf : free h s = true) (htd : o.td < 64) (hlen : hd.tiles.length ≤ o.ta) :
    exec (.tdef h o) s = .next (failBundle (judged h s) s.cur.1 s.cur.2 0x20 (.ofNat 64 o.td) h.slot.num 0 (pcOf s + 1)) := by
  have hchk : (semTdef o).chk (here (.tdef h o) s) (judged h s) = some { code := 0x20, tval := .ofNat 64 o.td } := by
    show firstOf [accNamed [o.td], tdefErr o (here (.tdef h o) s) (judged h s)] = _
    have hacc : accNamed [o.td] = none := by
      simp only [accNamed, List.map_cons, List.map_nil, tileTrap, decide_eq_false (Nat.not_le.mpr htd), Bool.false_eq_true, if_false, firstOf]
    rw [hacc, tdefErr, tileTable_judged hob hhd, List.getElem?_eq_none hlen]
    rfl
  have hx : exec (.tdef h o) s = .next (issueOne (.tdef h o) (semTdef o) s) := rfl
  rw [hx, issueOne_fails (.tdef h o) (semTdef o) s _ hf hchk]
  rfl

end

section
variable {h : Head} {o : VT} {s : State} (hno : bits o.flags 0 1 = 0)
include hno

theorem useElem_of_zero : useElem o = false := by
  rw [useElem, hno]
  rfl

/-- The counts of another descriptor. -/
theorem eff_shape : (semTshape o).eff (here (.tshape h o) s) (issuing (.tshape h o) false s) = updDesc (here (.tshape h o) s) o.td
    (fun d => setShape d (dVRows ((found h s).a.desc o.ta)) (dVCols ((found h s).a.desc o.ta))) (issuing (.tshape h o) false s) := by
  have hta : ((here (.tshape h o) s).ctx (issuing (.tshape h o) false s)).a.desc o.ta = (found h s).a.desc o.ta := by
    rw [here_ctx, ctx_issuing]
    exact desc_atIssue ..
  show doShape o _ _ = _
  rw [doShape, useElem_of_zero hno, if_neg Bool.false_ne_true, hta]

theorem eff_step : (semTstep o).eff (here (.tstep h o) s) (issuing (.tstep h o) false s) = updDesc (here (.tstep h o) s) o.td
    (fun d => setStep d (dStep ((found h s).a.desc o.ta))) (issuing (.tstep h o) false s) := by
  have hta : ((here (.tstep h o) s).ctx (issuing (.tstep h o) false s)).a.desc o.ta = (found h s).a.desc o.ta := by
    rw [here_ctx, ctx_issuing]
    exact desc_atIssue ..
  show doStep o _ _ = _
  rw [doStep, useElem_of_zero hno, if_neg Bool.false_ne_true, hta]

end

/-- Settles O26: each instruction updates the descriptor of its one tile, by fields of the table, of another descriptor, of
the instruction or by elements that it reads. -/
theorem tileManagement : Obligations.TileManagement := by
  unfold Obligations.TileManagement
  intro h o s hf
  dsimp only
  refine ⟨fun ob hd d hob hhd hd' hp => ?tdef, fun ob hd hob hhd htd hlen => exec_tdef_beyond hob hhd hf htd hlen, fun hp hno => ?shape, fun hp => ?view, fun hp => ?state,
    fun hp hno => ?step, fun v0 v1 i helem hi hp hgood h0 h1 => ?elems⟩
  case tdef =>
    obtain ⟨t, hx, hdesc, hstatus, htd, hothers⟩ := exec_tdef hob hhd hf hp hd'
    obtain ⟨hst, hfields⟩ := emptied_fields d
    refine ⟨t, hx, ⟨?_, hstatus, ?_⟩, hothers⟩
    · rw [tstate_of_lt _ htd, hdesc]
      exact hst
    · rw [hdesc]
      exact hfields
  case shape =>
    have htd := td_of_passes (i := .tshape h o) (m := semTshape o) rfl (fun _ _ => rfl) hp
    obtain ⟨t, hx, hdesc, hothers⟩ := exec_updDesc (i := .tshape h o) (m := semTshape o) rfl rfl hf hp (fun _ _ => rfl) (fun _ => rfl) rfl htd (eff_shape hno)
    obtain ⟨hr, hc, hb, hfmt, hst⟩ := setShape_fields ((found h s).a.desc o.td) (dVRows ((found h s).a.desc o.ta)) (dVCols ((found h s).a.desc o.ta))
    refine ⟨t, hx, ?_, hothers⟩
    rw [tstate_of_lt _ htd, tstate_of_lt _ htd, hdesc]
    exact ⟨hr, hc, hb, hfmt, hst⟩
  case view =>
    have htd := td_of_passes (i := .tview h o) (m := semTview o) rfl (fun _ _ => rfl) hp
    have heff : (semTview o).eff (here (.tview h o) s) (issuing (.tview h o) false s) =
      updDesc (here (.tview h o) s) o.td (fun d => setFld d 25 1 o.flags) (issuing (.tview h o) false s) := rfl
    obtain ⟨t, hx, hdesc, hothers⟩ := exec_updDesc (i := .tview h o) (m := semTview o) rfl rfl hf hp (fun _ _ => rfl) (fun _ => rfl) rfl htd heff
    refine ⟨t, hx, ?_, hothers⟩
    rw [hdesc]
    exact setView_fields _ o.flags
  case state =>
    have htd := td_of_passes (i := .tstate h o) (m := semTstate o) rfl (fun _ _ => rfl) hp
    have heff : (semTstate o).eff (here (.tstate h o) s) (issuing (.tstate h o) false s) =
      updDesc (here (.tstate h o) s) o.td (fun d => setFld d 118 2 o.flags) (issuing (.tstate h o) false s) := rfl
    obtain ⟨t, hx, hdesc, hothers⟩ := exec_updDesc (i := .tstate h o) (m := semTstate o) rfl rfl hf hp (fun _ _ => rfl) (fun _ => rfl) rfl htd heff
    obtain ⟨hst, hb, -, -, -, hr, hc, -⟩ := setState_fields ((found h s).a.desc o.td) o.flags
    refine ⟨t, hx, ?_, hothers⟩
    rw [tstate_of_lt _ htd, hdesc]
    exact ⟨hst, hb, hr, hc⟩
  case step =>
    have htd := td_of_passes (i := .tstep h o) (m := semTstep o) rfl (fun _ _ => rfl) hp
    obtain ⟨t, hx, hdesc, hothers⟩ := exec_updDesc (i := .tstep h o) (m := semTstep o) rfl rfl hf hp (fun _ _ => rfl) (fun _ => rfl) rfl htd (eff_step hno)
    obtain ⟨hlo, hhi⟩ := dStep_bounds ((found h s).a.desc o.ta)
    refine ⟨t, hx, ?_, hothers⟩
    rw [hdesc]
    exact setStep_fields _ hlo hhi
  case elems =>
    have huse : useElem o = true := by rw [useElem, helem]; rfl
    refine ⟨?_, ?_⟩
    · rintro rfl
      have htd := td_of_passes (i := .tshape h o) (m := semTshape o) rfl (fun _ _ => rfl) hp
      have heff : (semTshape o).eff (here (.tshape h o) s) (issuing (.tshape h o) false s) = withElems o 2 (here (.tshape h o) s) (issuing (.tshape h o) false s)
          (fun l => updDesc (here (.tshape h o) s) o.td (fun d => setShape d (clampCount (l.getD 0 .zero) (dRows d)) (clampCount (l.getD 1 .zero) (dCols d)))) :=
        if_pos huse
      obtain ⟨t, hx, hdesc, hothers⟩ := exec_updElems (i := .tshape h o) (m := semTshape o) rfl rfl hf hp (fun _ _ => rfl) (fun _ => rfl) rfl htd hgood heff
      have hvals : (List.range 2).map (fun j => ((elemEnv o (.tshape h o) s).decode (fvRd (elemEnv o (.tshape h o) s)) o.ta 0 j).1) = [v0, v1] := by
        rw [← h0, ← h1]
        rfl
      obtain ⟨hr, hc, -⟩ := setShape_fields ((found h s).a.desc o.td) (clampCount v0 (dRows ((found h s).a.desc o.td))) (clampCount v1 (dCols ((found h s).a.desc o.td)))
      refine ⟨t, hx, ?_, hothers⟩
      rw [hdesc, hvals]
      exact ⟨hr.trans (Nat.min_eq_left (clampCount_le ..)), hc.trans (Nat.min_eq_left (clampCount_le ..))⟩
    · rintro rfl
      have htd := td_of_passes (i := .tstep h o) (m := semTstep o) rfl (fun _ _ => rfl) hp
      have heff : (semTstep o).eff (here (.tstep h o) s) (issuing (.tstep h o) false s) = withElems o 1 (here (.tstep h o) s) (issuing (.tstep h o) false s)
          (fun l => updDesc (here (.tstep h o) s) o.td (fun d => setStep d (clampStep (l.getD 0 .zero)))) := if_pos huse
      obtain ⟨t, hx, hdesc, hothers⟩ := exec_updElems (i := .tstep h o) (m := semTstep o) rfl rfl hf hp (fun _ _ => rfl) (fun _ => rfl) rfl htd hgood heff
      have hvals : (List.range 1).map (fun j => ((elemEnv o (.tstep h o) s).decode (fvRd (elemEnv o (.tstep h o) s)) o.ta 0 j).1) = [v0] := by
        rw [← h0]
        rfl
      obtain ⟨hlo, hhi⟩ := clampStep_bounds v0
      refine ⟨t, hx, ?_, hothers⟩
      rw [hdesc, hvals]
      exact (setStep_fields _ hlo hhi).1

end Sys2Proof.Machine

/-! ## The error log of a die (O51) -/

namespace Sys2Proof.Machine
set_option Elab.async false

/-! ### The corrected entry with the oldest first occurrence (R353) -/

/-- The choice between the oldest corrected entry so far and entry `i`. -/
def olderOf (d : Die) (b : Option Nat) (i : Nat) : Option Nat :=
  match d.log.get i none with
  | some e => if e.corr then
      (match b with
       | some j => (match d.log.get j none with
          | some f => if e.tfirst < f.tfirst then some i else b
          | none => some i)
       | none => some i)
    else b
  | none => b

theorem oldestCorr_eq (d : Die) : oldestCorr d = (List.range 256).foldl (olderOf d) none := rfl

/-- The oldest corrected entry among the first `n`, the lowest of these, if there is one. -/
def Oldest (d : Die) (n : Nat) : Option Nat → Prop
  | none => ∀ j f, j < n → d.log.get j none = some f → f.corr = false
  | some i => i < n ∧ ∃ e, d.log.get i none = some e ∧ e.corr = true ∧
      ∀ j f, j < n → d.log.get j none = some f → f.corr = true → e.tfirst < f.tfirst ∨ (e.tfirst = f.tfirst ∧ i ≤ j)

theorem oldest_olderOf (d : Die) {n : Nat} {b : Option Nat} (h : Oldest d n b) : Oldest d (n + 1) (olderOf d b n) := by
  have hstep {P : Nat → LogEntry → Prop} (hlow : ∀ j f, j < n → d.log.get j none = some f → P j f)
      (hn : ∀ f, d.log.get n none = some f → P n f) (j : Nat) (f : LogEntry) (hj : j < n + 1) (hf : d.log.get j none = some f) : P j f := by
    rcases Nat.lt_succ_iff_lt_or_eq.mp hj with hlt | rfl
    · exact hlow j f hlt hf
    · exact hn f hf
  unfold olderOf
  cases hlog : d.log.get n none with
  | none =>
    dsimp only
    cases b with
    | none => exact hstep h fun f hf => nomatch hlog.symm.trans hf
    | some i =>
      obtain ⟨hi, e, he, hc, hall⟩ := h
      exact ⟨Nat.lt_succ_of_lt hi, e, he, hc, hstep hall fun f hf => nomatch hlog.symm.trans hf⟩
  | some x =>
    dsimp only
    by_cases hx : x.corr = true
    · rw [if_pos hx]
      cases b with
      | none =>
        refine ⟨Nat.lt_succ_self n, x, hlog, hx, hstep (fun j f hj hf hc => ?_) fun f hf _ => ?_⟩
        · rw [h j f hj hf] at hc
          cases hc
        · obtain rfl := Option.some.inj (hlog.symm.trans hf)
          exact .inr ⟨rfl, le_rfl⟩
      | some i =>
        obtain ⟨hi, e, he, hc, hall⟩ := h
        dsimp only
        rw [he]
        dsimp only
        by_cases hlt : x.tfirst < e.tfirst
        · rw [if_pos hlt]
          refine ⟨Nat.lt_succ_self n, x, hlog, hx, hstep (fun j f hj hf hfc => .inl ?_) fun f hf _ => ?_⟩
          · have := hall j f hj hf hfc
            omega
          · obtain rfl := Option.some.inj (hlog.symm.trans hf)
            exact .inr ⟨rfl, le_rfl⟩
        · rw [if_neg hlt]
          refine ⟨Nat.lt_succ_of_lt hi, e, he, hc, hstep hall fun f hf _ => ?_⟩
          obtain rfl := Option.some.inj (hlog.symm.trans hf)
          omega
    · rw [if_neg hx]
      have hno : x.corr = false := by simpa using hx
      cases b with
      | none => exact hstep h fun f hf => by rw [← Option.some.inj (hlog.symm.trans hf)]; exact hno
      | some i =>
        obtain ⟨hi, e, he, hc, hall⟩ := h
        refine ⟨Nat.lt_succ_of_lt hi, e, he, hc, hstep hall fun f hf hfc => ?_⟩
        rw [← Option.some.inj (hlog.symm.trans hf), hno] at hfc
        cases hfc

theorem oldest_foldl (d : Die) (n : Nat) : Oldest d n ((List.range n).foldl (olderOf d) none) := by
  induction n with
  | zero => exact fun j f hj => absurd hj (Nat.not_lt_zero j)
  | succ n ih =>
    rw [List.range_succ, List.foldl_append, List.foldl_cons, List.foldl_nil]
    exact oldest_olderOf d ih

/-- Without a corrected entry there is no oldest one. -/
theorem oldestCorr_none {d : Die} (h : ∀ j f, j < 256 → d.log.get j none = some f → f.corr = false) : oldestCorr d = none := by
  have ho := oldest_foldl d 256
  rw [oldestCorr_eq]
  cases hf : (List.range 256).foldl (olderOf d) none with
  | none => rfl
  | some i =>
    rw [hf] at ho
    obtain ⟨hi, e, he, hc, -⟩ := ho
    rw [h i e hi he] at hc
    cases hc

/-- The oldest corrected entry is found. -/
theorem oldestCorr_some {d : Die} {i : Nat} {e : LogEntry} (hi : i < 256) (he : d.log.get i none = some e) (hc : e.corr = true)
    (hall : ∀ j f, j < 256 → d.log.get j none = some f → f.corr = true → e.tfirst < f.tfirst ∨ (e.tfirst = f.tfirst ∧ i ≤ j)) :
    oldestCorr d = some i := by
  have ho := oldest_foldl d 256
  rw [oldestCorr_eq]
  cases hf : (List.range 256).foldl (olderOf d) none with
  | none =>
    rw [hf] at ho
    rw [ho i e hi he] at hc
    cases hc
  | some j =>
    rw [hf] at ho
    obtain ⟨hj, x, hx, hxc, hxall⟩ := ho
    have h₁ := hall j x hj hx hxc
    have h₂ := hxall i e hi he hc
    congr 1
    omega

/-! ### What is logged (R353) -/

/-- A die with a log entry written. -/
def Die.putLog (i : Nat) (e : LogEntry) (d : Die) : Die := { d with log := d.log.set i (some e) none }

theorem log_putLog (s : State) (die i : Nat) (e : LogEntry) :
    ((s.updDie die (Die.putLog i e)).die die).log.get i none = some e ∧
    ∀ j, j ≠ i → ((s.updDie die (Die.putLog i e)).die die).log.get j none = (s.die die).log.get j none := by
  rw [die_updDie_same]
  exact ⟨Tab.get_set_same (s.die die).log i (some e) none, fun j hj => Tab.get_set_other (s.die die).log i j (some e) none none hj⟩

theorem findLog_some {d : Die} {f : Option LogEntry → Bool} {i : Nat} (hi : i < 256) (hf : f (d.log.get i none) = true)
    (hlow : ∀ j, j < i → f (d.log.get j none) = false) : findLog d f = some i := by
  rw [findLog, List.find?_range_eq_some]
  exact ⟨hf, List.mem_range.mpr hi, fun j hj => by rw [hlow j hj]; rfl⟩

theorem findLog_none {d : Die} {f : Option LogEntry → Bool} (h : ∀ i, i < 256 → f (d.log.get i none) = false) : findLog d f = none := by
  rw [findLog, List.find?_range_eq_none]
  exact fun i hi => by rw [h i hi]; rfl

theorem same_iff (e : LogEntry) (store addr : Nat) (corr : Bool) : e.same store addr corr = true ↔ e.store = store ∧ e.addr = addr ∧ e.corr = corr := by
  simp only [LogEntry.same, Bool.and_eq_true, beq_iff_eq, and_assoc]

section
variable (s : State) (die code : Nat) (corr : Bool) (store : Nat) (part core : Option Nat) (addr : Nat)

/-- An error that its log has not seen. -/
def freshEntry : LogEntry :=
  { code := code, corr := corr, store := store, part := part, core := core, addr := addr, count := 1, tfirst := s.now, tlast := s.now }

theorem logErr_merges {i : Nat} {e : LogEntry} (hfind : findLog (s.die die) (fun e => e.any (·.same store addr corr)) = some i)
    (he : (s.die die).log.get i none = some e) :
    s.logErr die code corr store part core addr = s.updDie die (Die.putLog i { e with count := min 255 (e.count + 1), tlast := s.now }) := by
  simp only [State.logErr, hfind, he]
  rfl

theorem logErr_enters {i : Nat} (hnew : findLog (s.die die) (fun e => e.any (·.same store addr corr)) = none)
    (hfind : findLog (s.die die) (fun e => e.isNone) = some i) :
    s.logErr die code corr store part core addr = s.updDie die (Die.putLog i (freshEntry s code corr store part core addr)) := by
  simp only [State.logErr, hnew, hfind]
  rfl

theorem logErr_full (hnew : findLog (s.die die) (fun e => e.any (·.same store addr corr)) = none)
    (hfull : findLog (s.die die) (fun e => e.isNone) = none) :
    s.logErr die code corr store part core addr = (if corr then none else oldestCorr (s.die die)).elim
      (if (s.die die).logFull then s else (s.updDie die (fun x => { x with logFull := true })).postF 0x49 (die := die))
      fun i => s.updDie die (Die.putLog i (freshEntry s code corr store part core addr)) := by
  simp only [State.logErr, hnew, hfull]
  cases (if corr then none else oldestCorr (s.die die) : Option Nat) <;> rfl

theorem dies_postF (s : State) (code island core die handle arg : Nat) : (s.postF code island core die handle arg).dies = s.dies := by
  obtain ⟨l, q, h⟩ := postF_eq s code island core die handle arg
  rw [h]

/-- An error that finds no place raises ERRLOG_FULL. -/
theorem raises_logFull (u : State) :
    (u = if (s.die die).logFull then s else (s.updDie die (fun x => { x with logFull := true })).postF 0x49 (die := die)) →
    (∀ j, (u.die die).log.get j none = (s.die die).log.get j none) ∧ (u.die die).logFull = true := by
  rintro rfl
  split
  next h => exact ⟨fun _ => rfl, h⟩
  next =>
    have hd : ((s.updDie die (fun x => { x with logFull := true })).postF 0x49 (die := die)).die die = { s.die die with logFull := true } := by
      rw [State.die, dies_postF]
      exact die_updDie_same s die fun x => { x with logFull := true }
    rw [hd]
    exact ⟨fun _ => rfl, rfl⟩

/-- R353 of the log that an error enters. -/
theorem logsError_logErr : LogsError s (s.logErr die code corr store part core addr) die code store addr corr part core := by
  unfold LogsError
  dsimp only
  refine ⟨fun i e hi he hsame hlow => ?_, fun hnew => ⟨fun i hi hnone hlow => ?_, fun hfull => ⟨fun i e hi hc he hec hall => ?_, fun hno => ?_⟩⟩⟩
  · have hfind : findLog (s.die die) (fun e => e.any (·.same store addr corr)) = some i := by
      refine findLog_some hi (by rw [he]; exact (same_iff ..).mpr hsame) fun j hj => ?_
      cases hl : (s.die die).log.get j none with
      | none => rfl
      | some f => exact Bool.eq_false_iff.mpr fun hs => hlow j f hj hl ((same_iff ..).mp hs)
    rw [logErr_merges s die code corr store part core addr hfind he]
    exact log_putLog ..
  all_goals
    have hfind : findLog (s.die die) (fun e => e.any (·.same store addr corr)) = none := by
      refine findLog_none fun j hj => ?_
      cases hl : (s.die die).log.get j none with
      | none => rfl
      | some f => exact Bool.eq_false_iff.mpr fun hs => hnew j f hj hl ((same_iff ..).mp hs)
  · have hfree : findLog (s.die die) (fun e => e.isNone) = some i :=
      findLog_some hi (by rw [hnone]; rfl) fun j hj => Option.isNone_eq_false_iff.mpr (Option.isSome_iff_ne_none.mpr (hlow j hj))
    rw [logErr_enters s die code corr store part core addr hfind hfree]
    exact log_putLog ..
  all_goals
    have hnofree : findLog (s.die die) (fun e => e.isNone) = none :=
      findLog_none fun j hj => Option.isNone_eq_false_iff.mpr (Option.isSome_iff_ne_none.mpr (hfull j hj))
    rw [logErr_full s die code corr store part core addr hfind hnofree]
  · rw [hc, if_neg Bool.false_ne_true, oldestCorr_some hi he hec hall]
    exact log_putLog ..
  · have hnone : (if corr then none else oldestCorr (s.die die)) = none := by
      rcases hno with rfl | hno
      · rfl
      · split
        · rfl
        · exact oldestCorr_none hno
    rw [hnone]
    exact raises_logFull s die _ rfl

end

end Sys2Proof.Machine

/-! ## Corrected errors (O51) -/

namespace Sys2Proof.Machine
set_option Elab.async false

/-- What is logged is a matter of the log and of ERRLOG_FULL alone. -/
theorem LogsError.of_die {s t u : State} {die code store addr : Nat} {corr : Bool} {part core : Option Nat}
    (h : LogsError s t die code store addr corr part core) (hl : (u.die die).log = (t.die die).log) (hf : (u.die die).logFull = (t.die die).logFull) :
    LogsError s u die code store addr corr part core := by
  unfold LogsError at h ⊢
  rw [hl, hf]
  exact h

section
variable (s : State) (die store addr : Nat) (part core : Option Nat)

/-- A log with a free entry takes every error. -/
theorem logErr_room (code : Nat) (corr : Bool) (hroom : ∃ i, i < 256 ∧ (s.die die).log.get i none = none) :
    ∃ i e, s.logErr die code corr store part core addr = s.updDie die (Die.putLog i e) := by
  cases hnew : findLog (s.die die) (fun e => e.any (·.same store addr corr)) with
  | some i =>
    obtain ⟨hi, -, -⟩ := List.find?_range_eq_some.mp hnew
    obtain ⟨e, he, -⟩ := (Option.any_eq_true ..).mp hi
    exact ⟨i, _, logErr_merges s die code corr store part core addr hnew he⟩
  | none =>
    cases hfree : findLog (s.die die) (fun e => e.isNone) with
    | some i => exact ⟨i, _, logErr_enters s die code corr store part core addr hnew hfree⟩
    | none =>
      obtain ⟨i, hi, hnone⟩ := hroom
      have h := List.find?_range_eq_none.mp hfree i hi
      rw [hnone] at h
      cases h

/-- The state in which a corrected error has been posted. -/
def postedCorr (u : State) : State := (u.updDie die (fun x => { x with corrAt := some u.now })).postF 0x44 (die := die)

/-- What the post of a corrected error leaves of its die. -/
theorem postedCorr_plain (u : State) :
    ((postedCorr die u).die die).log = (u.die die).log ∧ ((postedCorr die u).die die).logFull = (u.die die).logFull ∧ (postedCorr die u).mem = u.mem ∧
    ((postedCorr die u).die die).corrAt = some u.now ∧ PostsF u (postedCorr die u) 0x44 := by
  have hd : (postedCorr die u).die die = { u.die die with corrAt := some u.now } := by
    rw [postedCorr, State.die, dies_postF]
    exact die_updDie_same u die fun x => { x with corrAt := some u.now }
  refine ⟨by rw [hd], by rw [hd], ?_, by rw [hd], (postsF_postF _ (by decide) _ _ _ _ _).of_same rfl rfl rfl⟩
  exact (postF_mem ..).1

/-- A corrected error is logged, and posted unless one was less than 1 ms ago. -/
theorem corrected_eq :
    let u := s.logErr die 0x44 true store part core addr
    s.corrected die store addr part core = match (u.die die).corrAt with
      | some t => if u.now < t + 1000000 then u else postedCorr die u
      | none => postedCorr die u := rfl

theorem corrected_cases : s.corrected die store addr part core = s.logErr die 0x44 true store part core addr ∨
    s.corrected die store addr part core = postedCorr die (s.logErr die 0x44 true store part core addr) := by
  rw [corrected_eq]
  split
  · split
    · exact .inl rfl
    · exact .inr rfl
  · exact .inr rfl

theorem logsError_corrected : LogsError s (s.corrected die store addr part core) die 0x44 store addr true part core ∧
    (s.corrected die store addr part core).mem = s.mem := by
  have hlog := logsError_logErr s die 0x44 true store part core addr
  have hmem := (logErr_mem s die 0x44 true store part core addr).1
  rcases corrected_cases s die store addr part core with h | h
  · rw [h]
    exact ⟨hlog, hmem⟩
  · obtain ⟨hl, hf, hm, -⟩ := postedCorr_plain die (s.logErr die 0x44 true store part core addr)
    rw [h]
    exact ⟨hlog.of_die hl hf, hm.trans hmem⟩

theorem postsCorrected_corrected : PostsCorrected s (s.corrected die store addr part core) die := by
  intro hroom
  obtain ⟨i, e, hu⟩ := logErr_room s die store addr part core 0x44 true hroom
  have hcorr : ((s.updDie die (Die.putLog i e)).die die).corrAt = (s.die die).corrAt := by
    rw [die_updDie_same]
    rfl
  have heq := corrected_eq s die store addr part core
  dsimp only at heq
  rw [hu, hcorr] at heq
  refine ⟨fun hold => ?_, fun since hsince hnew => ?_⟩
  · have hposted : s.corrected die store addr part core = postedCorr die (s.updDie die (Die.putLog i e)) := by
      cases hat : (s.die die).corrAt with
      | none =>
        rw [hat] at heq
        exact heq
      | some since =>
        rw [hat] at heq
        exact heq.trans (if_neg (Nat.not_lt.mpr (hold since hat)))
    obtain ⟨-, -, -, hat, hpost⟩ := postedCorr_plain die (s.updDie die (Die.putLog i e))
    rw [hposted]
    exact ⟨hpost.of_same rfl rfl rfl, hat⟩
  · rw [hsince] at heq
    have hkept : s.corrected die store addr part core = s.updDie die (Die.putLog i e) := heq.trans (if_pos hnew)
    rw [hkept]
    exact ⟨rfl, hcorr.trans hsince⟩

end

end Sys2Proof.Machine

/-! ## Errors of the stores (O51) -/

namespace Sys2Proof.Machine
set_option Elab.async false

section
variable {s t : State} {die : Nat}

theorem LogsError.of_draw {code store addr : Nat} {corr : Bool} {part core : Option Nat} (h : LogsError s.draw t die code store addr corr part core) :
    LogsError s t die code store addr corr part core := h

theorem PostsCorrected.of_draw (h : PostsCorrected s.draw t die) : PostsCorrected s t die := by
  intro hroom
  obtain ⟨hold, hnew⟩ := h hroom
  exact ⟨fun h => ⟨(hold h).1.of_same rfl rfl rfl, (hold h).2⟩, hnew⟩

end

/-! ### Words that fail their check (R385, R387) -/

theorem mem_append_once {α : Type} [BEq α] [LawfulBEq α] (l : List α) (x : α) : x ∈ (if l.contains x then l else l ++ [x]) := by
  split
  next h => exact List.contains_iff_mem.mp h
  next => exact List.mem_append_right _ (List.mem_singleton.mpr rfl)

/-- An access to a failing word meets it. -/
theorem hasBad_word {l : List Nat} {pa n : Nat} (h : pa / 32 ∈ l) (hn : 0 < n) : hasBad l pa n = true := by
  refine List.any_eq_true.mpr ⟨pa / 32, h, ?_⟩
  simp only [Bool.and_eq_true, decide_eq_true_eq]
  omega

theorem badAt_word {t : State} {die pa n : Nat} (core : Nat) (h : pa / 32 ∈ (t.die die).bad) (hn : 0 < n) (hd : dirtyHere t core die pa = false) :
    badAt t core (.dev die pa) n = some 0x42 := by
  simp only [badAt, hd, hasBad_word h hn, Bool.true_or, Bool.false_eq_true, if_false, if_true]

section
variable (s : State) (die w : Nat)

theorem mem_bad_spoilWord : w ∈ ((spoilWord s die w).die die).bad := by
  rw [spoilWord, die_updDie_same]
  exact mem_append_once _ _

theorem mem_bad_spoilL2 : w ∈ ((spoilL2 s die w).die die).bad ∧ w ∈ ((spoilL2 s die w).die die).badL2 := by
  rw [spoilL2, die_updDie_same]
  exact ⟨mem_bad_spoilWord s die w, mem_append_once _ _⟩

end

/-- LPDDR-6: the word fails from now on. -/
theorem lpddrError_fails (s : State) {die : Nat} (addr : Nat) (hd : die < 4) :
    ∃ t, exec (.memoryError .lpddr die addr) s = .next t ∧ t.mem = s.mem ∧ addr / 32 ∈ (t.die die).bad :=
  ⟨spoilWord s die (addr / 32), congrArg Host.Outcome.next (if_pos hd), rfl, mem_bad_spoilWord ..⟩

/-- L2: a dirty word fails, a clean one is refetched (R385). -/
theorem l2Error_does (s : State) {die : Nat} (addr : Nat) (hd : die < 4) :
    ∃ t, exec (.memoryError .l2 die addr) s = .next t ∧ t.mem = s.mem ∧
      ∀ b, (s.die die).l2.find? (·.has die (addr / 32 / 16) (addr / 32 % 16)) = some b →
        (b.dirty.testBit (addr / 32 % 16) = true → addr / 32 ∈ (t.die die).bad ∧ addr / 32 ∈ (t.die die).badL2) ∧
        (b.dirty.testBit (addr / 32 % 16) = false → addr / 32 ∉ (s.die die).bad → ∃ part core, LogsError s t die 0x44 1 (32 * (addr / 32)) true part core) := by
  refine ⟨l2Error s die (addr / 32), congrArg Host.Outcome.next (if_pos hd), ?_, fun b hb => ?_⟩
  · unfold l2Error
    split
    · rfl
    · split
      · rfl
      · split
        · rfl
        · exact (logsError_corrected ..).2
  · unfold l2Error
    rw [hb]
    dsimp only
    refine ⟨fun hdirty => ?_, fun hclean hgood => ?_⟩
    · rw [if_pos hdirty]
      exact mem_bad_spoilL2 ..
    · rw [if_neg (by rw [hclean]; exact Bool.false_ne_true), if_neg fun h => hgood (List.contains_iff_mem.mp h)]
      exact ⟨_, _, (logsError_corrected ..).1.of_draw⟩

/-- Scratchpad: the word fails from now on. -/
theorem scratchError_fails (s : State) (core addr : Nat) :
    ∃ t, exec (.memoryError .scratchpad core addr) s = .next t ∧ (t.core core).sram = (s.core core).sram ∧ addr / 32 ∈ (t.core core).bad := by
  refine ⟨s.updCore core (fun k => { k with bad := if k.bad.contains (addr / 32) then k.bad else k.bad ++ [addr / 32] }), rfl, ?_, ?_⟩
  · rw [State.core_updCore]
  · rw [State.core_updCore]
    exact mem_append_once _ _

/-- Accumulators: the word fails for every operation of its slot. -/
theorem accError_fails (s : State) (core addr : Nat) :
    ∃ t, exec (.memoryError .accumulator core addr) s = .next t ∧ accWord addr ∈ (t.core core).accBad := by
  refine ⟨s.updCore core (fun k => { k with accBad := if k.accBad.contains (accWord addr) then k.accBad else k.accBad ++ [accWord addr] }), rfl, ?_⟩
  rw [State.core_updCore]
  exact mem_append_once _ _

/-- The word of an accumulator's element. -/
theorem accWord_element {slot tile i j : Nat} (hs : slot < 4) (ht : tile < 32) (hi : i < 128) (hj : j < 64) :
    accWord (slot * 2 ^ 20 + tile * 2 ^ 15 + 256 * i + 4 * j) = (slot, 4096 * tile + 8 * i + j / 8) := by
  unfold accWord
  rw [Prod.mk.injEq]
  constructor <;> omega

/-- An element whose word fails. -/
theorem elemBad_acc {e : Env} {tile i j : Nat} (hv : dValid (e.desc (64 + tile)) i j = true)
    (h : (e.o.slot, 4096 * tile + 8 * i + j / 8) ∈ (e.s.core e.core).accBad) : e.elemBad (64 + tile) i j = true := by
  simp only [Env.elemBad, hv, Bool.true_eq_false, if_false, Nat.le_add_right, if_true, Nat.add_sub_cancel_left]
  exact List.contains_iff_mem.mpr h

end Sys2Proof.Machine

/-! ## Errors in L1, corrected errors, the scrub and the log (O51) -/

namespace Sys2Proof.Machine
set_option Elab.async false

section
variable {s : State} {core die pa : Nat}

/-- A word dirty in the core is so in its L1 or victim buffer. -/
theorem dirtyIn_of_dirtyHere (h : dirtyHere s core die pa = true) : dirtyIn (s.core core) die (pa / 32) = true := by
  obtain ⟨b, hb, hdirty⟩ := List.any_eq_true.mp h
  simp only [Bool.and_eq_true] at hdirty
  obtain ⟨⟨-, hhas⟩, hbit⟩ := hdirty
  refine List.any_eq_true.mpr ⟨b, hb, ?_⟩
  rw [Nat.div_div_eq_div_mul, hhas, hbit]
  rfl

/-- A dirty word of L1 fails for its own core. -/
theorem l1Error_dirty (h : dirtyHere s core die pa = true) :
    (l1Error s core die (pa / 32)).mem = s.mem ∧ ∀ n, badAt (l1Error s core die (pa / 32)) core (.dev die pa) n = some 0x43 := by
  have heq : l1Error s core die (pa / 32) = s.updCore core (fun k => { k with l1Bad := if k.l1Bad.contains (die, pa / 32) then k.l1Bad else k.l1Bad ++ [(die, pa / 32)] }) :=
    if_pos (dirtyIn_of_dirtyHere h)
  rw [heq]
  refine ⟨rfl, fun n => ?_⟩
  have hd : dirtyHere (s.updCore core (fun k => { k with l1Bad := if k.l1Bad.contains (die, pa / 32) then k.l1Bad else k.l1Bad ++ [(die, pa / 32)] })) core die pa = true := by
    rw [dirtyHere, State.core_updCore]
    exact h
  rw [badAt, if_pos hd, State.core_updCore]
  exact if_pos (List.contains_iff_mem.mpr (mem_append_once _ _))

/-- A clean word of L1 whose home is good is refetched and logged (R352, R385). -/
theorem l1Error_clean (hd : dirtyIn (s.core core) die (pa / 32) = false) (hp : ∀ e ∈ (s.core core).part, e.die ≠ die ∨ e.addr / 32 ≠ pa / 32)
    (hc : cleanIn (s.core core) die (pa / 32) = true) (hg : pa / 32 ∉ (s.die die).bad) :
    (l1Error s core die (pa / 32)).mem = s.mem ∧
    ∃ part, LogsError s (l1Error s core die (pa / 32)) (dieOf core) 0x44 0 (l1Addr (s.core core) (pa / 32)) true part (some core) := by
  have hpart : (s.core core).part.any (·.at die (pa / 32)) = false := by
    rw [List.any_eq_false]
    intro e he hat
    simp only [Partial.at, Bool.and_eq_true, beq_iff_eq] at hat
    rcases hp e he with hne | hne
    · exact hne hat.1
    · exact hne hat.2
  have heq : l1Error s core die (pa / 32) = s.corrected (dieOf core) 0 (l1Addr (s.core core) (pa / 32)) (requesterOf s core).1 (some core) := by
    simp only [l1Error, hd, hpart, hc, Bool.false_eq_true, if_false, if_true, refetch]
    exact if_neg fun h => hg (List.contains_iff_mem.mp h)
  rw [heq]
  obtain ⟨hlog, hmem⟩ := logsError_corrected s (dieOf core) 0 (l1Addr (s.core core) (pa / 32)) (requesterOf s core).1 (some core)
  exact ⟨hmem, _, hlog⟩

end

/-! ### Corrected errors (R386) -/

section
variable (s : State) (addr : Nat)

theorem errCorrected_home {die n : Nat} {store : Store} (h : (store, n) ∈ [(Store.l2, 1), (.lpddr, 4)]) :
    ∃ t part core, exec (.errCorrected store die addr) s = .next t ∧ t.mem = s.mem ∧
      LogsError s t die 0x44 n (addr / 32 * 32) true part core ∧ PostsCorrected s t die := by
  have hlog (n : Nat) (p c : Option Nat) := logsError_corrected s.draw die n (addr / 32 * 32) p c
  have hpost (n : Nat) (p c : Option Nat) := postsCorrected_corrected s.draw die n (addr / 32 * 32) p c
  simp only [List.mem_cons, Prod.mk.injEq, List.not_mem_nil, or_false] at h
  rcases h with ⟨rfl, rfl⟩ | ⟨rfl, rfl⟩ <;> exact ⟨_, _, _, rfl, (hlog _ _ _).2, (hlog _ _ _).1.of_draw, (hpost _ _ _).of_draw⟩

theorem errCorrected_scratch (core : Nat) :
    ∃ t part by', exec (.errCorrected .scratchpad core addr) s = .next t ∧ t.mem = s.mem ∧
      LogsError s t (dieOf core) 0x44 2 (addr / 32 * 32) true part by' ∧ PostsCorrected s t (dieOf core) :=
  ⟨_, _, _, rfl, (logsError_corrected s.draw ..).2, (logsError_corrected s.draw ..).1.of_draw, (postsCorrected_corrected s.draw _ _ _ _ _).of_draw⟩

theorem errCorrected_core {core n at' : Nat} {store : Store}
    (h : (store, n, at') ∈ [(Store.l1, 0, l1Addr (s.core core) (addr % 2 ^ 40 / 32)), (.accumulator, 3, addr / 32 * 32)]) :
    ∃ t part, exec (.errCorrected store core addr) s = .next t ∧ t.mem = s.mem ∧
      LogsError s t (dieOf core) 0x44 n at' true part (some core) ∧ PostsCorrected s t (dieOf core) := by
  simp only [List.mem_cons, Prod.mk.injEq, List.not_mem_nil, or_false] at h
  rcases h with ⟨rfl, rfl, rfl⟩ | ⟨rfl, rfl, rfl⟩ <;>
    exact ⟨_, _, rfl, (logsError_corrected s ..).2, (logsError_corrected s ..).1, postsCorrected_corrected s _ _ _ _ _⟩

/-! ### The patrol scrub (R386) -/

theorem patrolScrub_bad {die : Nat} (b : Bool) (hbad : addr / 32 ∈ (s.die die).bad) (hl2 : addr / 32 ∉ (s.die die).badL2) :
    ∃ t, exec (.patrolScrub die addr b) s = .next t ∧ t.mem = s.mem ∧ LogsError s t die 0x42 4 (addr / 32 * 32) false none none := by
  have hcond : ((s.die die).bad.contains (addr / 32) && !(s.die die).badL2.contains (addr / 32)) = true := by
    rw [List.contains_iff_mem.mpr hbad, Bool.eq_false_iff.mpr fun h => hl2 (List.contains_iff_mem.mp h)]
    rfl
  exact ⟨_, congrArg Host.Outcome.next (if_pos hcond), (logErr_mem ..).1, logsError_logErr ..⟩

theorem patrolScrub_good {die : Nat} (h : addr / 32 ∉ (s.die die).bad ∨ addr / 32 ∈ (s.die die).badL2) :
    exec (.patrolScrub die addr false) s = .next s ∧
    ∃ t, exec (.patrolScrub die addr true) s = .next t ∧ t.mem = s.mem ∧ LogsError s t die 0x44 4 (addr / 32 * 32) true none none ∧ PostsCorrected s t die := by
  have hcond : ((s.die die).bad.contains (addr / 32) && !(s.die die).badL2.contains (addr / 32)) = false := by
    rcases h with h | h
    · rw [Bool.eq_false_iff.mpr fun hb => h (List.contains_iff_mem.mp hb)]
      rfl
    · rw [List.contains_iff_mem.mpr h, Bool.not_true, Bool.and_false]
  have hscrub (b : Bool) : exec (.patrolScrub die addr b) s = .next (if b then s.corrected die 4 (addr / 32 * 32) none none else s) :=
    congrArg Host.Outcome.next (if_neg (by rw [hcond]; exact Bool.false_ne_true))
  exact ⟨hscrub false, _, hscrub true, (logsError_corrected s ..).2, (logsError_corrected s ..).1, postsCorrected_corrected s _ _ _ _ _⟩

end

/-! ### Freeing log entries (R352) -/

/-- An entry that the function does not see stays. -/
theorem freeEntry_unseen {s : State} {fn : Fn} {die n : Nat} (h : ((s.die die).log.get n none).any (seesEntry fn) = false) : freeEntry s fn die n = s :=
  if_neg (by rw [h]; exact Bool.false_ne_true)

section
variable {s : State} {die n : Nat} (hd : die < 4) (hn : n < 256)

/-- A freed entry leaves the log, and ERRLOG_FULL may be raised again. -/
theorem freeEntry_frees {fn : Fn} (hsees : ((s.die die).log.get n none).any (seesEntry fn) = true) :
    ((freeEntry s fn die n).die die).log.get n none = none ∧ ((freeEntry s fn die n).die die).logFull = false ∧
    ∀ m, m ≠ n → ((freeEntry s fn die n).die die).log.get m none = (s.die die).log.get m none := by
  have heq : freeEntry s fn die n = s.updDie die (fun d => { d with log := d.log.set n none none, logFull := false }) := if_pos hsees
  rw [heq, die_updDie_same]
  exact ⟨Tab.get_set_same (s.die die).log n none none, rfl, fun m hm => Tab.get_set_other (s.die die).log n m none none none hm⟩

include hd hn in
theorem errlogEntryFree_pf (hr : reachesPf s = true) : exec (.errlogEntryFree .pf die n) s = .next (freeEntry s .pf die n) := by
  exact congrArg Host.Outcome.next ((viaPf_reached hr ..).trans (if_pos ⟨hd, hn⟩))

include hd hn in
theorem errlogEntryFree_vf {p : Nat} (hr : reachesVf s p = true) :
    exec (.errlogEntryFree (.vf p) die n) s = .next (freeEntry s (.vf p) die n) := by
  exact congrArg Host.Outcome.next ((viaVf_reached hr ..).trans (if_pos ⟨hd, hn⟩))

end

end Sys2Proof.Machine

/-! ## Memory errors (O51) -/

namespace Sys2Proof.Machine
set_option Elab.async false

/-- Settles O51: the failing words of each store (`hasBad_word`), and R353 of the log by the branches of `logErr`. -/
theorem memoryErrors : Obligations.MemoryErrors := by
  unfold Obligations.MemoryErrors
  intro s addr w inWord fails
  have hfails (t : State) (die : Nat) (h : w ∈ (t.die die).bad) : fails t die := by
    refine ⟨h, fun core pa n hin hclean => ?_⟩
    obtain ⟨hn, hw⟩ := hin
    exact badAt_word core (hw ▸ h) hn hclean
  refine ⟨fun die hd => ?_, fun die hd => ?_, fun core => ?_, fun core => ?_, fun core die pa haddr hpa => ?_, fun die store n h => errCorrected_home s addr h,
    fun core => errCorrected_scratch s addr core, fun core store n at' h => errCorrected_core s addr h,
    fun die => ⟨fun hbad hl2 b => patrolScrub_bad s addr b hbad hl2, fun h => patrolScrub_good s addr h⟩, fun die n e hd hn he => ?_⟩
  case refine_1 =>
    obtain ⟨t, ht, hmem, hbad⟩ := lpddrError_fails s addr hd
    exact ⟨t, ht, hmem, hfails t die hbad⟩
  case refine_2 =>
    obtain ⟨t, ht, hmem, hb⟩ := l2Error_does s addr hd
    refine ⟨t, ht, hmem, fun b hhas => ⟨fun hdirty => ?_, (hb b hhas).2⟩⟩
    obtain ⟨hbad, hl2⟩ := (hb b hhas).1 hdirty
    exact ⟨hfails t die hbad, hl2⟩
  case refine_3 =>
    obtain ⟨t, ht, hsram, hbad⟩ := scratchError_fails s core addr
    refine ⟨t, ht, hsram, fun k pa n hin => ?_⟩
    obtain ⟨hn, hw⟩ := hin
    exact if_pos (hasBad_word (hw ▸ hbad) hn)
  case refine_4 =>
    obtain ⟨t, ht, hbad⟩ := accError_fails s core addr
    refine ⟨t, ht, fun slot tile i j hslot htile hi hj haddr e hs hcore ho hv => elemBad_acc hv ?_⟩
    rw [haddr, accWord_element hslot htile hi hj] at hbad
    rw [hs, hcore, ho]
    exact hbad
  case refine_5 =>
    refine ⟨l1Error s core die (pa / 32), ?_, fun hd => ?_, fun hd hp hc hg => l1Error_clean hd hp hc hg⟩
    · have hdie : addr / 2 ^ 40 = die := by omega
      have hplace : addr % 2 ^ 40 = pa := by omega
      rw [← hdie, ← hplace]
      rfl
    · obtain ⟨hmem, hbad⟩ := l1Error_dirty hd
      exact ⟨hmem, fun n _ => hbad n⟩
  case refine_6 =>
    have hany (fn : Fn) : ((s.die die).log.get n none).any (seesEntry fn) = seesEntry fn e := by rw [he]; rfl
    refine ⟨fun hr => ⟨_, errlogEntryFree_pf hd hn hr, freeEntry_frees ((hany .pf).trans rfl)⟩, fun p hr => ⟨fun hp => ?_, fun hp => ?_⟩⟩
    · exact ⟨_, errlogEntryFree_vf hd hn hr, freeEntry_frees ((hany _).trans (beq_iff_eq.mpr hp))⟩
    · rw [errlogEntryFree_vf hd hn hr, freeEntry_unseen ((hany (.vf p)).trans (beq_eq_false_iff_ne.mpr hp))]

end Sys2Proof.Machine

/-! ## What keeps the times of the homes and the blocks of the cores (O50) -/

namespace Sys2Proof.Machine
set_option Elab.async false

/-- The times at every home, and every L1 and victim buffer, stay. -/
structure KeepsTimes (s t : State) : Prop where
  home : ∀ d, (t.die d).home = (s.die d).home
  l1 : ∀ c, (t.core c).l1 = (s.core c).l1
  victim : ∀ c, (t.core c).victim = (s.core c).victim

namespace KeepsTimes

theorem refl (s : State) : KeepsTimes s s := ⟨fun _ => rfl, fun _ => rfl, fun _ => rfl⟩

theorem trans {s t u : State} (h : KeepsTimes s t) (k : KeepsTimes t u) : KeepsTimes s u :=
  ⟨fun d => (k.home d).trans (h.home d), fun c => (k.l1 c).trans (h.l1 c), fun c => (k.victim c).trans (h.victim c)⟩

theorem congr {s t : State} (hd : t.dies = s.dies) (hc : t.cores = s.cores) : KeepsTimes s t :=
  ⟨fun d => by rw [State.die, State.die, hd], fun c => by rw [State.core, State.core, hc], fun c => by rw [State.core, State.core, hc]⟩

theorem ite {p : Prop} [Decidable p] {s t u : State} (h : KeepsTimes s t) (k : KeepsTimes s u) : KeepsTimes s (if p then t else u) := by
  split
  · exact h
  · exact k

theorem foldl {β : Type} (f : State → β → State) (hf : ∀ s b, KeepsTimes s (f s b)) (l : List β) (s : State) : KeepsTimes s (l.foldl f s) :=
  List.foldlRecOn l f (refl s) fun t h b _ => h.trans (hf t b)

theorem updDie (s : State) (d : Nat) (f : Die → Die) (hf : ∀ x, (f x).home = x.home) : KeepsTimes s (s.updDie d f) := by
  refine ⟨fun e => ?_, fun _ => rfl, fun _ => rfl⟩
  by_cases he : e = d
  · rw [he, die_updDie_same, hf]
  · exact congrArg Die.home (Tab.get_set_other s.dies d e (f (s.die d)) {} {} he)

theorem updCore (s : State) (c : Nat) (f : Core → Core) (hl : ∀ k, (f k).l1 = k.l1)
    (hv : ∀ k, (f k).victim = k.victim) : KeepsTimes s (s.updCore c f) := by
  refine ⟨fun _ => rfl, fun d => ?_, fun d => ?_⟩ <;> by_cases hd : d = c
  · rw [hd, State.core_updCore, hl]
  · rw [State.core_updCore_other _ _ _ _ hd]
  · rw [hd, State.core_updCore, hv]
  · rw [State.core_updCore_other _ _ _ _ hd]

theorem updCtx (s : State) (c i : Nat) (f : Ctx → Ctx) : KeepsTimes s (s.updCtx c i f) := by
  unfold State.updCtx State.setCtx
  exact updCore s c _ (by intros; rfl) (by intros; rfl)

theorem setObj (s : State) (n : Nat) (o : Option Obj) : KeepsTimes s (s.setObj n o) := by
  cases o <;> exact .congr rfl rfl

theorem postF (s : State) (code island core die handle arg : Nat) : KeepsTimes s (s.postF code island core die handle arg) :=
  .congr (dies_postF ..) (postF_mem ..).2.1

theorem postE (s : State) (p code island core die handle arg : Nat) : KeepsTimes s (s.postE p code island core die handle arg) := by
  obtain ⟨q, l, h⟩ := postE_eq s p code island core die handle arg
  rw [h]
  exact .congr rfl rfl

theorem logErr (s : State) (die code : Nat) (corr : Bool) (store : Nat) (part core : Option Nat) (addr : Nat) :
    KeepsTimes s (s.logErr die code corr store part core addr) := by
  unfold State.logErr
  dsimp only
  split
  · split
    · exact .updDie _ _ _ (by intros; rfl)
    · exact .refl s
  split
  · exact .updDie _ _ _ (by intros; rfl)
  split
  · exact .updDie _ _ _ (by intros; rfl)
  · exact .ite (.refl s) (.trans (.updDie s die _ (by intros; rfl)) (.postF ..))

/-! ### L2 and the records of LPDDR-6 -/

theorem meterCtx (s : State) (core slot n : Nat) : KeepsTimes s (meterCtx s core slot n) := .updCtx _ _ _ _

theorem meterFor (s : State) (core slot team n : Nat) : KeepsTimes s (meterFor s core slot team n) :=
  (KeepsTimes.ite (.meterCtx s core slot n) (.refl s)).trans (.congr rfl rfl)

theorem meterDram (s : State) (core slot n : Nat) : KeepsTimes s (meterDram s core slot n) :=
  (KeepsTimes.meterCtx s core slot n).trans (.congr rfl rfl)

theorem l2Clean (s : State) (die : Nat) (b : Block) : KeepsTimes s (l2Clean s die b) := by
  have hpass : KeepsTimes s (s.updDie die (fun d => { d with badL2 := d.badL2.filter (fun w => !b.words.contains w) })) := .updDie s die _ fun _ => rfl
  refine .ite (.refl s) ?_
  dsimp only
  split
  · exact hpass.trans (.congr rfl rfl)
  · refine .trans (hpass.trans ?_) (.meterFor ..)
    exact .congr rfl rfl

theorem l2Put (s : State) (die : Nat) (b : Block) : KeepsTimes s (l2Put s die b) :=
  .trans (.updDie s die _ (by intros; rfl)) (.foldl _ (fun s x => l2Clean s die x) _ _)

theorem l2Use (s : State) (die frame a b : Nat) : KeepsTimes s (l2Use s die frame a b).1 := by
  unfold Machine.l2Use
  dsimp only
  split
  · exact updDie s die (fun d => { d with l2 := d.l2.filter (·.meets die frame a b) ++ d.l2.filter (fun x => !x.meets die frame a b) }) fun _ => rfl
  · exact .l2Put ..

theorem noteL2 (s : State) (die w : Nat) : KeepsTimes s (noteL2 s die w) := .ite (.congr rfl rfl) (.refl s)

theorem l2Dirty (s : State) (die w : Nat) (who : Option (Nat × Nat × Nat)) : KeepsTimes s (l2Dirty s die w who) :=
  (KeepsTimes.noteL2 s die w).trans (.l2Put ..)

theorem countFill (s : State) (part oid page reqDie : Nat) : KeepsTimes s (countFill s part oid page reqDie) := by
  unfold Machine.countFill
  split
  · exact .refl s
  · dsimp only
    refine .ite (.refl s) (.ite (.setObj ..) (.ite (.trans (.updDie s _ _ (by intros; rfl)) (.setObj ..)) ?_))
    split
    · exact .setObj ..
    · exact .trans (.trans (.setObj ..) (.updDie _ _ _ (by intros; rfl))) (.postF ..)

theorem l2Touch (s : State) (core slot oid page die frame a b : Nat) : KeepsTimes s (l2Touch s core slot oid page die frame a b) := by
  have h := KeepsTimes.l2Use s die frame a b
  exact .ite h (h.trans ((KeepsTimes.meterDram ..).trans (.countFill ..)))

/-! ### Words that reach their home -/

theorem spoilL2 (s : State) (die w : Nat) : KeepsTimes s (spoilL2 s die w) := .trans (.updDie _ _ _ (by intros; rfl)) (.updDie _ _ _ (by intros; rfl))

theorem spoilHome (s : State) (core part die w : Nat) : KeepsTimes s (spoilHome s core part die w) := by
  unfold Machine.spoilHome
  exact .trans (.updCore s core _ (by intros; rfl) (by intros; rfl)) (.trans (.spoilL2 ..) (.trans (.logErr ..) (.postE ..)))

theorem settleOld (s : State) (core : Nat) (b : Block) (w : Nat) : KeepsTimes s (settleOld s core b w) := by
  unfold Machine.settleOld
  dsimp only
  split <;> exact .congr rfl rfl

theorem writeHome (s : State) (core : Nat) (b : Block) : KeepsTimes s (writeHome s core b) := by
  refine .ite (.refl s) ?_
  refine (KeepsTimes.foldl _ (fun s w => settleOld s core b w) b.dirtyWords s).trans (.trans (.ite (.refl _) (.updDie _ _ _ (by intros; rfl))) (.trans (.foldl _ (fun s w => ?_) _ _) (.l2Put ..)))
  exact .ite (.spoilHome ..) (.refl s)

theorem noteFoot (s : State) (core : Nat) (b : Block) : KeepsTimes s (noteFoot s core b) := .ite (.refl s) (.updCore _ _ _ (by intros; rfl) (by intros; rfl))

end KeepsTimes

theorem times_keeps {s t : State} (h : KeepsTimes s t) (d w : Nat) : (t.die d).times w = (s.die d).times w := by
  rw [Die.times, Die.times, h.home]

theorem homeTimes_keeps {s t : State} (h : KeepsTimes s t) (d : Nat) (b : List Nat) : homeTimes (t.die d) b = homeTimes (s.die d) b := by
  simp only [homeTimes, times_keeps h]

end Sys2Proof.Machine

/-! ## Requests at the home (O50) -/

namespace Sys2Proof.Machine
set_option Elab.async false

section
variable (s : State) (die : Nat)

theorem times_setTimes_same (w : Nat) (v : Nat × Nat × Nat) : ((s.setTimes die w v).die die).times w = v := by
  rw [State.setTimes, die_updDie_same]
  exact Tab.get_set_same ..

theorem times_setTimes_other {w x : Nat} (v : Nat × Nat × Nat) (h : x ≠ w) : ((s.setTimes die w v).die die).times x = (s.die die).times x := by
  rw [State.setTimes, die_updDie_same]
  exact Tab.get_set_other (s.die die).home w x v _ _ h

/-- The own holder of a word stays when its block takes new times. -/
theorem holder_setBlock (b : List Nat) (wt le v : Nat) : (((setBlock s die b wt le).die die).times v).2.2 = ((s.die die).times v).2.2 := by
  refine List.foldlRecOn (motive := fun t => ((t.die die).times v).2.2 = ((s.die die).times v).2.2) b _ rfl fun (t : State) ht w _ => ?_
  by_cases hv : v = w
  · rw [hv] at ht ⊢
    rw [times_setTimes_same]
    exact ht
  · rw [times_setTimes_other _ _ _ hv]
    exact ht

/-- The words of a block have its new times. -/
theorem times_setBlock {b : List Nat} {v : Nat} (hv : v ∈ b) (wt le : Nat) :
    ((setBlock s die b wt le).die die).times v = (wt, le, ((s.die die).times v).2.2) := by
  have hpair : (((setBlock s die b wt le).die die).times v).1 = wt ∧ (((setBlock s die b wt le).die die).times v).2.1 = le := by
    refine foldl_reaches (fun t : State => ((t.die die).times v).1 = wt ∧ ((t.die die).times v).2.1 = le) hv (fun t => ?_) (fun t w _ ht => ?_) s
    · rw [times_setTimes_same]
      exact ⟨rfl, rfl⟩
    · by_cases hw : v = w
      · rw [hw, times_setTimes_same]
        exact ⟨rfl, rfl⟩
      · rw [times_setTimes_other _ _ _ hw]
        exact ht
  obtain ⟨h₁, h₂⟩ := hpair
  exact Prod.ext h₁ (Prod.ext h₂ (holder_setBlock ..))

/-- A word that no core holds own is not recalled. -/
theorem recallWords_unheld {w : Nat} (h : ((s.die die).times w).2.2 = 0) : recallWords s die [w] = s := if_pos h

theorem homeWrite_unheld {w : Nat} (t : Nat) (h : ((s.die die).times w).2.2 = 0) :
    homeWrite s die w t = let b := homeBlock (s.die die) w
      let now := max t ((homeTimes (s.die die) b).2 + 1)
      (setBlock s die b now now, now) := by
  rw [homeWrite, homeWrites, recallWords_unheld s die h]
  rfl

theorem homeRead_unheld {w : Nat} (t ext : Nat) (h : ((s.die die).times w).2.2 = 0) :
    homeRead s die w t ext = let b := homeBlock (s.die die) w
      let now := max t (homeTimes (s.die die) b).1
      (setBlock s die b (homeTimes (s.die die) b).1 (max (homeTimes (s.die die) b).2 (now + ext)), now) := by
  rw [homeRead, homeReads, recallWords_unheld s die h]
  rfl

end

/-! ### The blocks of L2 -/

section
variable (s : State) (die : Nat)

theorem l2_updDie (d : Nat) (f : Die → Die) (hf : ∀ x, (f x).l2 = x.l2) : ((s.updDie d f).die die).l2 = (s.die die).l2 := by
  by_cases h : die = d
  · rw [h, die_updDie_same, hf]
  · exact congrArg Die.l2 (Tab.get_set_other s.dies d die (f (s.die d)) {} {} h)

theorem dies_meterFor (core slot team n : Nat) : (meterFor s core slot team n).dies = s.dies := by
  unfold meterFor
  split <;> rfl

theorem l2_l2Clean (d : Nat) (b : Block) : ((l2Clean s d b).die die).l2 = (s.die die).l2 := by
  have hpass := l2_updDie s die d (fun d => { d with badL2 := d.badL2.filter (fun w => !b.words.contains w) }) fun _ => rfl
  unfold l2Clean
  split
  · rfl
  · dsimp only
    split
    · exact hpass
    · rw [State.die, dies_meterFor]
      exact hpass

theorem l2_countFill (part oid page reqDie : Nat) : ((countFill s part oid page reqDie).die die).l2 = (s.die die).l2 := by
  have hset (t : State) (n : Nat) (o : Option Obj) : ((t.setObj n o).die die).l2 = (t.die die).l2 := by cases o <;> rfl
  have hpost (t : State) (code island core d handle arg : Nat) : ((t.postF code island core d handle arg).die die).l2 = (t.die die).l2 := by
    rw [State.die, dies_postF]
    rfl
  unfold countFill
  split
  · rfl
  · dsimp only
    split
    · rfl
    split
    · exact hset ..
    split
    · rw [hset]
      exact l2_updDie _ _ _ _ (by intros; rfl)
    split
    · exact hset ..
    · rw [hpost]
      exact (l2_updDie _ _ _ _ (by intros; rfl)).trans (hset ..)

/-- A fill adds nothing to L2 but the words used. -/
theorem l2_l2Touch (core slot oid page frame a b : Nat) :
    ((l2Touch s core slot oid page die frame a b).die die).l2 = ((l2Use s die frame a b).1.die die).l2 := by
  unfold l2Touch
  dsimp only
  split
  · rfl
  · rw [l2_countFill]
    rfl

/-- The most recently used block of a set stays. -/
theorem trimSet_head {inSet : Block → Bool} {b : Block} {words tags : Nat} (hin : inSet b = true) (hw : b.b + 1 - b.a ≤ words) (ht : 0 < tags)
    (l : List Block) : ∃ r, (trimSet inSet words tags (b :: l)).1 = b :: r := by
  rw [trimSet, if_pos hin, if_pos ⟨hw, ht⟩]
  exact ⟨_, rfl⟩

/-- A block that meets no other goes in front of them. -/
theorem l2_l2Put {b : Block} (hsize : b.b + 1 - b.a ≤ 256) (hno : ∀ x ∈ (s.die die).l2, x.frame ≠ b.frame) :
    ∃ l, ((l2Put s die b).die die).l2 = b :: l := by
  have hmeets : (s.die die).l2.filter (·.meets die b.frame b.a b.b) = [] := by
    refine List.filter_eq_nil_iff.mpr fun x hx hm => hno x hx ?_
    simp only [Block.meets, Bool.and_eq_true, beq_iff_eq] at hm
    exact hm.1.1.2
  unfold l2Put
  dsimp only
  rw [foldl_keeps (fun t : State => (t.die die).l2) _ (fun t x => l2_l2Clean t die die x), die_updDie_same, hmeets]
  exact trimSet_head (inSet := fun x => l2Set x.frame == l2Set b.frame) (beq_iff_eq.mpr rfl) hsize (by decide) _

/-- A word of a frame that L2 holds nothing of is a home's block of its own. -/
theorem homeBlock_alone (w : Nat) (h : ∀ b ∈ (s.die die).l2, b.frame ≠ w / 16) :
    homeBlock ((l2Use s die (w / 16) (w % 16) (w % 16)).1.die die) w = [w] := by
  have habsent : ((span (w % 16) (w % 16 + 1 - w % 16)).filter (fun i => !(s.die die).l2.any (fun x => x.has die (w / 16) i))).length ≠ 0 := by
    have hno (i : Nat) : (s.die die).l2.any (fun x => x.has die (w / 16) i) = false := by
      refine List.any_eq_false.mpr fun x hx hhas => h x hx ?_
      simp only [Block.has, Bool.and_eq_true, beq_iff_eq] at hhas
      exact hhas.1.1.2
    simp [hno, span]
  have huse : (l2Use s die (w / 16) (w % 16) (w % 16)).1 = l2Put s die { die := die, frame := w / 16, a := w % 16, b := w % 16, ty := 1, dirty := 0, wts := 0, lease := 0 } :=
    congrArg Prod.fst (if_neg habsent)
  obtain ⟨l, hl⟩ := l2_l2Put s die (b := { die := die, frame := w / 16, a := w % 16, b := w % 16, ty := 1, dirty := 0, wts := 0, lease := 0 }) (by dsimp only; omega) h
  rw [huse, homeBlock, hl, List.find?_cons_of_pos (by simp)]
  simp only [Block.words, span, Nat.add_sub_cancel_left, List.range_one, List.map_cons, List.map_nil, Nat.add_zero, Nat.div_add_mod]

end

end Sys2Proof.Machine

/-! ## A context's request, a recall and a grant (O50) -/

namespace Sys2Proof.Machine
set_option Elab.async false

/-! ### The home request -/

section
variable (s : State) (core slot die pa : Nat) (wr : Bool) (ty : Nat)

/-- The request that a context makes for the word of a device address. -/
def homeAsk : State × Nat := request s core slot (pageAt s die pa).1 (pageAt s die pa).2 die pa (s.ctx core slot).time wr ty 0

/-- The state behind a home request. -/
def homeAsked : State := (homeAsk s core slot die pa wr ty).1.updCtx core slot fun c => { c with time := max c.time (homeAsk s core slot die pa wr ty).2 }

theorem exec_homeRequest (h : (s.die die).tracked = []) : exec (.homeRequest core slot die pa wr ty) s = .next (homeAsked s core slot die pa wr ty) := by
  have hnone : combineFor s die pa 1 = s := by
    rw [combineFor, h]
    rfl
  show Host.Outcome.next _ = _
  rw [hnone]
  rfl

theorem mem_homeAsked : (homeAsked s core slot die pa wr ty).mem = s.mem := (Still.request ..).mem

theorem time_homeAsked : ((homeAsked s core slot die pa wr ty).ctx core slot).time = max (s.ctx core slot).time (homeAsk s core slot die pa wr ty).2 := by
  have hk : KeepsCtx (fun c => c.time) s (homeAsk s core slot die pa wr ty).1 := (MovesWords.request ..).meters.keeps fun _ => rfl
  rw [homeAsked, State.ctx_updCtx]
  dsimp only
  rw [hk.ctx]

theorem times_homeAsked (v : Nat) : ((homeAsked s core slot die pa wr ty).die die).times v = ((homeAsk s core slot die pa wr ty).1.die die).times v := rfl

/-- The state in which a request that caches do not serve finds its word. -/
def asked : State := l2Touch s core slot (pageAt s die pa).1 (pageAt s die pa).2 die (pa / 32 / 16) (pa / 32 % 16) (pa / 32 % 16)

theorem asked_keeps : KeepsTimes s (asked s core slot die pa) := .l2Touch ..

/-- The words of the home's block that a request finds. -/
def askedBlock (w : Nat) : List Nat := homeBlock ((l2Use s die (w / 16) (w % 16) (w % 16)).1.die die) w

theorem homeBlock_asked : homeBlock ((asked s core slot die pa).die die) (pa / 32) = askedBlock s die (pa / 32) := by
  rw [askedBlock, homeBlock, homeBlock, asked, l2_l2Touch]

theorem homeAsk_uncached (h : ty = 3 ∨ (s.core core).l1size = 0) :
    homeAsk s core slot die pa wr ty = if wr then homeStore s core slot (pageAt s die pa).1 (pageAt s die pa).2 die (pa / 32) (s.ctx core slot).time
      else homeRead (asked s core slot die pa) die (pa / 32) (s.ctx core slot).time 0 := by
  have hty : (if (s.core core).l1size = 0 then 3 else ty) = 3 := by
    rcases h with h | h
    · rw [h, ite_self]
    · exact if_pos h
  unfold homeAsk request
  simp only [hty, if_true, asked, Nat.div_div_eq_div_mul, Nat.reduceMul]

section
variable (h : ty = 3 ∨ (s.core core).l1size = 0) (hheld : ((s.die die).times (pa / 32)).2.2 = 0)
include h hheld

/-- The times of a write at its home. -/
theorem homeAsk_writes :
    let b := askedBlock s die (pa / 32)
    let now := max (s.ctx core slot).time ((homeTimes (s.die die) b).2 + 1)
    (homeAsk s core slot die pa true ty).2 = now ∧
    ∀ v ∈ b, ((homeAsk s core slot die pa true ty).1.die die).times v = (now, now, ((s.die die).times v).2.2) := by
  intro b now
  have hk := asked_keeps s core slot die pa
  have hstore := homeWrite_unheld (asked s core slot die pa) die (s.ctx core slot).time ((congrArg (·.2.2) (times_keeps hk die (pa / 32))).trans hheld)
  dsimp only at hstore
  rw [homeBlock_asked, homeTimes_keeps hk] at hstore
  rw [homeAsk_uncached s core slot die pa true ty h, if_pos rfl, homeStore]
  rw [asked] at hstore
  dsimp only at hstore ⊢
  rw [hstore]
  refine ⟨rfl, fun v hv => ?_⟩
  rw [times_keeps (.l2Dirty ..), times_setBlock _ _ hv, ← asked, times_keeps hk]

/-- The times of a read at its home. -/
theorem homeAsk_reads :
    let b := askedBlock s die (pa / 32)
    let e := homeTimes (s.die die) b
    let now := max (s.ctx core slot).time e.1
    (homeAsk s core slot die pa false ty).2 = now ∧
    ∀ v ∈ b, ((homeAsk s core slot die pa false ty).1.die die).times v = (e.1, max e.2 now, ((s.die die).times v).2.2) := by
  intro b e now
  have hk := asked_keeps s core slot die pa
  have hread := homeRead_unheld (asked s core slot die pa) die (s.ctx core slot).time 0 ((congrArg (·.2.2) (times_keeps hk die (pa / 32))).trans hheld)
  dsimp only at hread
  rw [homeBlock_asked, homeTimes_keeps hk] at hread
  rw [homeAsk_uncached s core slot die pa false ty h, if_neg Bool.false_ne_true, hread]
  refine ⟨rfl, fun v hv => ?_⟩
  rw [times_setBlock _ _ hv, times_keeps hk]
  rfl

end

/-- The time of a request that L1 serves. -/
theorem homeAsk_hit {b : Block} (hty : ty ≠ 3) (hsize : (s.core core).l1size ≠ 0) (hb : (s.core core).l1.find? (fun b => b.has die (pa / 512) (pa / 32 % 16)) = some b) :
    (b.ty = 0 → (homeAsk s core slot die pa wr ty).2 = if wr then max (s.ctx core slot).time (b.lease + 1) else max (s.ctx core slot).time b.wts) ∧
    (b.ty ≠ 0 → ty ≠ 0 → wr = false → b.leased (s.ctx core slot).time (s.ctx core slot).party = true →
      (homeAsk s core slot die pa wr ty).2 = max (s.ctx core slot).time b.wts) := by
  unfold homeAsk request
  simp only [if_neg hsize, if_neg hty, hb]
  refine ⟨fun h0 => ?_, fun h0 hown hwr hleased => ?_⟩
  · rw [if_pos h0]
    split <;> rfl
  · rw [if_neg h0, if_neg hown, hwr, if_neg Bool.false_ne_true, if_pos hleased]

end

end Sys2Proof.Machine

/-! ## A recall and a grant (O50) -/

namespace Sys2Proof.Machine
set_option Elab.async false

theorem times_setTimes (s : State) (d die w x : Nat) (v : Nat × Nat × Nat) :
    ((s.setTimes d w v).die die).times x = if d = die ∧ w = x then v else (s.die die).times x := by
  by_cases hd : d = die
  · subst hd
    by_cases hw : w = x
    · rw [hw, if_pos ⟨rfl, rfl⟩, times_setTimes_same]
    · rw [if_neg fun h => hw h.2, times_setTimes_other _ _ _ (Ne.symm hw)]
  · rw [if_neg fun h => hd h.1]
    exact congrArg (Die.times · x) (Tab.get_set_other s.dies d die _ {} {} (Ne.symm hd))

section
variable {s : State} {b : Block} {w : Nat}

/-- A word of a block given back without a holder takes the larger times. -/
theorem times_giveBack (hty : b.ty = 0) (hw : w ∈ b.words) :
    ((giveBack s b 0).die b.die).times w = (max ((s.die b.die).times w).1 b.wts, max ((s.die b.die).times w).2.1 b.lease, 0) := by
  generalize hx : (s.die b.die).times w = x
  rw [giveBack, if_pos hty]
  refine foldl_reaches_under (fun t : State => max ((t.die b.die).times w).1 b.wts = max x.1 b.wts ∧ max ((t.die b.die).times w).2.1 b.lease = max x.2.1 b.lease)
    (fun t => (t.die b.die).times w = (max x.1 b.wts, max x.2.1 b.lease, 0)) hw (fun t v ht => ?_) (fun t ht => ?_) (fun t v ht hdone => ?_) ⟨by rw [hx], by rw [hx]⟩
  all_goals
    obtain ⟨h₁, h₂⟩ := ht
    dsimp only
    rw [times_setTimes]
  · split
    next h =>
      rw [h.2, h₁, h₂]
      dsimp only
      omega
    next => exact ⟨h₁, h₂⟩
  · rw [if_pos ⟨rfl, rfl⟩, h₁, h₂, ite_self]
  · split
    next h => rw [h.2, h₁, h₂, ite_self]
    next => exact hdone

theorem cores_giveBack (h : Nat) : (giveBack s b h).cores = s.cores := by
  unfold giveBack
  split
  · exact foldl_keeps (fun t : State => t.cores) _ (by intros; rfl) _ _
  · rfl

theorem cores_freeHolder (core : Nat) : (freeHolder s core b).cores = s.cores := by
  refine foldl_keeps (fun t : State => t.cores) _ (fun t v => ?_) _ _
  dsimp only
  split <;> rfl

/-- A word without a holder keeps its times when a victim entry is granted. -/
theorem times_freeHolder_unheld (core die : Nat) (h : ((s.die die).times w).2.2 = 0) :
    ((freeHolder s core b).die die).times w = (s.die die).times w := by
  refine List.foldlRecOn (motive := fun t : State => (t.die die).times w = (s.die die).times w) b.dirtyWords _ rfl fun t ht v _ => ?_
  dsimp only
  split
  next hheld =>
    rw [times_setTimes, if_neg, ht]
    rintro ⟨hd, hv⟩
    rw [hd, hv, ht, h] at hheld
    exact absurd hheld.1 (by omega)
  next => exact ht

/-- The words of a granted entry have no holder any more. -/
theorem times_freeHolder_held {core : Nat} (hw : w ∈ b.dirtyWords) (hheld : ((s.die b.die).times w).2.2 = core + 1)
    (hno : (s.core core).l1.any (fun x => x.ty == 0 && x.has b.die b.frame (w % 16)) = false) :
    (((freeHolder s core b).die b.die).times w).2.2 = 0 := by
  refine foldl_reaches_under
    (fun t : State => (t.core core).l1 = (s.core core).l1 ∧ (((t.die b.die).times w).2.2 = core + 1 ∨ ((t.die b.die).times w).2.2 = 0))
    (fun t => ((t.die b.die).times w).2.2 = 0) hw (fun t v ht => ?_) (fun t ht => ?_) (fun t v _ hfree => ?_) ⟨rfl, .inl hheld⟩
  all_goals dsimp only
  · obtain ⟨hl, hh⟩ := ht
    split
    · refine ⟨hl, ?_⟩
      rw [times_setTimes]
      split
      · exact .inr rfl
      · exact hh
    · exact ⟨hl, hh⟩
  · obtain ⟨hl, hh⟩ := ht
    split
    next => rw [times_setTimes, if_pos ⟨rfl, rfl⟩]
    next hn =>
      rcases hh with hh | hh
      · exact absurd ⟨hh, hl ▸ hno⟩ hn
      · exact hh
  · split
    next =>
      rw [times_setTimes]
      split
      · rfl
      · exact hfree
    next => exact hfree

end

/-! ### Recalls (R79, R82) -/

section
variable (s : State) (core die w : Nat)

/-- A block that is own and holds the word. -/
def ownOf (b : Block) : Bool := b.ty == 0 && b.has die (w / 16) (w % 16)

/-- The core without the blocks that a recall takes. -/
def recalled : State := s.updCore core fun k =>
  { k with l1 := k.l1.filter (fun b => !ownOf die w b), victim := k.victim.filter (fun b => !b.has die (w / 16) (w % 16)) }

/-- A block of L1 goes home. -/
def sendHome (c : Nat) (s : State) (b : Block) : State := writeHome (noteFoot (giveBack s b 0) c b) c b

/-- A block of the victim buffer goes home. -/
def sendVictim (c : Nat) (s : State) (b : Block) : State := writeHome (freeHolder s c b) c b

theorem recallFrom_eq : recallFrom s core die w = ((s.core core).victim.filter (·.has die (w / 16) (w % 16))).foldl (sendVictim core)
    (((s.core core).l1.filter (ownOf die w)).foldl (sendHome core) (recalled s core die w)) := rfl

theorem sendHome_keeps (c : Nat) (b : Block) : KeepsTimes (giveBack s b 0) (sendHome c s b) := (KeepsTimes.noteFoot ..).trans (.writeHome ..)

theorem sendVictim_keeps (c : Nat) (b : Block) : KeepsTimes (freeHolder s c b) (sendVictim c s b) := .writeHome ..

theorem blocks_sendHome (c : Nat) (b : Block) (k : Nat) : ((sendHome c s b).core k).l1 = (s.core k).l1 ∧ ((sendHome c s b).core k).victim = (s.core k).victim := by
  rw [(sendHome_keeps s c b).l1, (sendHome_keeps s c b).victim, State.core, cores_giveBack]
  exact ⟨rfl, rfl⟩

theorem blocks_sendVictim (c : Nat) (b : Block) (k : Nat) :
    ((sendVictim c s b).core k).l1 = (s.core k).l1 ∧ ((sendVictim c s b).core k).victim = (s.core k).victim := by
  rw [(sendVictim_keeps s c b).l1, (sendVictim_keeps s c b).victim, State.core, cores_freeHolder]
  exact ⟨rfl, rfl⟩

/-- What a recall leaves in its core. -/
theorem blocks_recallFrom : ((recallFrom s core die w).core core).l1 = (s.core core).l1.filter (fun b => !ownOf die w b) ∧
    ((recallFrom s core die w).core core).victim = (s.core core).victim.filter (fun b => !b.has die (w / 16) (w % 16)) := by
  rw [recallFrom_eq]
  constructor
  · rw [foldl_keeps (fun t : State => (t.core core).l1) _ (fun t b => (blocks_sendVictim t core b core).1),
      foldl_keeps (fun t : State => (t.core core).l1) _ (fun t b => (blocks_sendHome t core b core).1), recalled, State.core_updCore]
  · rw [foldl_keeps (fun t : State => (t.core core).victim) _ (fun t b => (blocks_sendVictim t core b core).2),
      foldl_keeps (fun t : State => (t.core core).victim) _ (fun t b => (blocks_sendHome t core b core).2), recalled, State.core_updCore]

theorem mem_words {b : Block} (h : b.has die (w / 16) (w % 16) = true) : b.die = die ∧ w ∈ b.words := by
  simp only [Block.has, Bool.and_eq_true, beq_iff_eq, decide_eq_true_eq] at h
  obtain ⟨⟨⟨hdie, hframe⟩, ha⟩, hb⟩ := h
  exact ⟨hdie, List.mem_map.mpr ⟨w % 16 - b.a, List.mem_range.mpr (by omega), by omega⟩⟩

/-- The times of a word that a recall takes from one own block. -/
theorem times_recallFrom {b : Block} (h : (s.core core).l1.filter (ownOf die w) = [b]) :
    ((recallFrom s core die w).die die).times w = (max ((s.die die).times w).1 b.wts, max ((s.die die).times w).2.1 b.lease, 0) := by
  have hown : ownOf die w b = true := (List.mem_filter.mp (h ▸ List.mem_singleton_self b : b ∈ (s.core core).l1.filter (ownOf die w))).2
  simp only [ownOf, Bool.and_eq_true, beq_iff_eq] at hown
  obtain ⟨hdie, hword⟩ := mem_words die w hown.2
  have hhome : ((sendHome core (recalled s core die w) b).die die).times w = (max ((s.die die).times w).1 b.wts, max ((s.die die).times w).2.1 b.lease, 0) := by
    rw [times_keeps (sendHome_keeps ..)]
    subst hdie
    exact times_giveBack hown.1 hword
  rw [recallFrom_eq, h, List.foldl_cons, List.foldl_nil, ← hhome]
  generalize sendHome core (recalled s core die w) b = u at hhome ⊢
  refine List.foldlRecOn (motive := fun t : State => (t.die die).times w = (u.die die).times w) _ _ rfl fun t ht x _ => ?_
  rw [times_keeps (sendVictim_keeps ..), times_freeHolder_unheld core die (by rw [ht, hhome]), ht]

end

/-! ### Grants of write-backs (R82) -/

/-- What a grant leaves: the rest of the victim buffer, and the words of its entry without a holder. -/
theorem grantOldest_does (s : State) (core : Nat) :
    ((grantOldest s core).core core).victim = (s.core core).victim.drop 1 ∧ ((grantOldest s core).core core).l1 = (s.core core).l1 ∧
    ∀ b r, (s.core core).victim = b :: r → ∀ v ∈ b.dirtyWords, ((s.die b.die).times v).2.2 = core + 1 →
      (s.core core).l1.any (fun x => x.ty == 0 && x.has b.die b.frame (v % 16)) = false → (((grantOldest s core).die b.die).times v).2.2 = 0 := by
  cases hv : (s.core core).victim with
  | nil =>
    have heq : grantOldest s core = s := by rw [grantOldest, hv]
    rw [heq]
    exact ⟨hv, rfl, fun _ _ h => nomatch h⟩
  | cons b r =>
    have heq : grantOldest s core = sendVictim core (s.updCore core fun k => { k with victim := r }) b := by
      rw [grantOldest, hv]
      rfl
    rw [heq]
    obtain ⟨hl1, hvic⟩ := blocks_sendVictim (s.updCore core fun k => { k with victim := r }) core b core
    rw [hl1, hvic, State.core_updCore]
    refine ⟨rfl, rfl, fun b' r' hbr v hmem hheld hno => ?_⟩
    obtain ⟨rfl, rfl⟩ := List.cons.inj hbr
    rw [times_keeps (sendVictim_keeps ..)]
    refine times_freeHolder_held hmem hheld ?_
    rw [State.core_updCore]
    exact hno

/-- Settles O50: a request's times by those of its home's block, a recall and a grant by the blocks that they send home. -/
theorem coherenceEvents : Obligations.CoherenceEvents := by
  unfold Obligations.CoherenceEvents
  intro s core slot die pa c k w x own
  have hdiv : pa / 512 = w / 16 := (Nat.div_div_eq_div_mul pa 32 16).symm
  have hown : own = ownOf die w := by
    funext b
    show (b.ty == 0 && b.has die (pa / 512) (w % 16)) = _
    rw [hdiv]
    rfl
  refine ⟨fun wr ty htracked => ⟨_, exec_homeRequest s core slot die pa wr ty htracked, mem_homeAsked .., ?_⟩, ?_, ?_⟩
  · rw [time_homeAsked]
    dsimp only
    simp only [times_homeAsked]
    refine ⟨homeBlock_alone s die w, fun hcache hheld => ⟨fun hwr => ?_, fun hwr => ?_⟩, fun b hty hsize hb => ?_⟩
    · subst hwr
      obtain ⟨ht, htimes⟩ := homeAsk_writes s core slot die pa ty hcache hheld
      rw [ht, ← max_assoc, max_self]
      exact ⟨rfl, htimes⟩
    · subst hwr
      obtain ⟨ht, htimes⟩ := homeAsk_reads s core slot die pa ty hcache hheld
      rw [ht, ← max_assoc, max_self]
      exact ⟨rfl, htimes⟩
    · obtain ⟨hin, hleased⟩ := homeAsk_hit s core slot die pa wr ty hty hsize hb
      refine ⟨fun h0 => ?_, fun h0 hown hwr hl => ?_⟩
      · rw [hin h0]
        split <;> rw [← max_assoc, max_self]
      · rw [hleased h0 hown hwr hl, ← max_assoc, max_self]
  · refine ⟨_, rfl, (Still.recallFrom s core die w).mem, ?_⟩
    rw [hown, hdiv]
    exact ⟨(blocks_recallFrom s core die w).1, (blocks_recallFrom s core die w).2, fun b hb => times_recallFrom s core die w hb⟩
  · obtain ⟨hvic, hl1, hfree⟩ := grantOldest_does s core
    exact ⟨_, rfl, hvic, (Still.grantOldest s core).mem, hl1, hfree⟩

end Sys2Proof.Machine
